-- ==== Sys2Proof/Codes.lean ====
section
/-! DEFINITION. The named codes that instruction fields hold (R27, R53, R54, R55). -/

namespace Sys2Proof

/-- The condition codes of PCMP, PCMPI, FCMP and VCMP (R54). -/
inductive Cond where
  | eq | ne | lt | le | gt | ge | ltu | leu | gtu | geu | un
  deriving DecidableEq, Repr

/-- The condition codes of the BR format (R53). -/
inductive BCond where
  | eq | ne | lt | ge | ltu | geu
  deriving DecidableEq, Repr

/-- The rounding-mode codes (R27, R63, R72); code 6 is illegal. -/
inductive Rm where
  | rne | rtz | rup | rdn | rna | sr | dyn
  deriving DecidableEq, Repr

/-- The number-format codes 0 to 14 (R27). -/
inductive Fmt where
  | i8 | u8 | i16 | i32 | i64 | i4 | o4 | e4m3 | e5m2 | f16 | bf16 | f32 | f64 | e8m0 | ue5m3
  deriving DecidableEq, Repr

/-- Access sizes 1, 2, 4 and 8 bytes. -/
inductive Sz where
  | b | h | w | d
  deriving DecidableEq, Repr

/-- The kinds of LD but the window kind (R55). -/
inductive LdKind where
  | b | h | w | d | bz | hz | wz
  deriving DecidableEq, Repr

/-- The operations of AMO (R226). -/
inductive AmoOp where
  | swap | add | and | or | xor | min | max | minu | maxu
  deriving DecidableEq, Repr

/-- The operations of RED (R230). -/
inductive RedOp where
  | iadd | fadd | min | max | minu | maxu | fmin | fmax
  deriving DecidableEq, Repr

/-- The operations of VRED and VSCAN (R182). -/
inductive VRedOp where
  | fadd | fmin | fmax | iadd | imin | imax
  deriving DecidableEq, Repr

/-- The lane widths of major 0x21 (R177). -/
inductive Lanes where
  | i8 | i16 | i32
  deriving DecidableEq, Repr

/-- The width codes of SEXT and ZEXT (R55). -/
inductive ExtW where
  | n8 | n16 | n32
  deriving DecidableEq, Repr

end Sys2Proof
end

