-- ==== Sys2Proof/Syntax.lean ====
section
/-! DEFINITION. The instruction set of the Cratis C9: one constructor per row of the table of operations and
events. Encoded rows carry the fields of their word (R48, R51), without the switch marker S, which has
the same meaning on every word (R45) and is held beside the instruction; rows that are events
(95_what_each_step_holds) take their data from the message that the step performs. -/

namespace Sys2Proof

/-- The instructions and events of the C9. -/
inductive Instr where
  /-- ADD (R125). -/
  | add (w : Bool) (b a d : BitVec 5)
  /-- SUB (R125). -/
  | sub (w : Bool) (b a d : BitVec 5)
  /-- MUL (R125). -/
  | mul (w : Bool) (b a d : BitVec 5)
  /-- MULH (R126). -/
  | mulh (b a d : BitVec 5)
  /-- MULHU (R126). -/
  | mulhu (b a d : BitVec 5)
  /-- DIV (R127). -/
  | div (w : Bool) (b a d : BitVec 5)
  /-- DIVU (R127). -/
  | divu (w : Bool) (b a d : BitVec 5)
  /-- REM (R127). -/
  | rem (w : Bool) (b a d : BitVec 5)
  /-- REMU (R127). -/
  | remu (w : Bool) (b a d : BitVec 5)
  /-- MIN (R125). -/
  | min (w : Bool) (b a d : BitVec 5)
  /-- MAX (R125). -/
  | max (w : Bool) (b a d : BitVec 5)
  /-- MINU (R125). -/
  | minu (w : Bool) (b a d : BitVec 5)
  /-- MAXU (R125). -/
  | maxu (w : Bool) (b a d : BitVec 5)
  /-- LEA (R128). -/
  | lea (c : BitVec 2) (b a d : BitVec 5)
  /-- AND (R129). -/
  | and (b a d : BitVec 5)
  /-- OR (R129). -/
  | or (b a d : BitVec 5)
  /-- XOR (R129). -/
  | xor (b a d : BitVec 5)
  /-- ANDN (R129). -/
  | andn (b a d : BitVec 5)
  /-- ORN (R129). -/
  | orn (b a d : BitVec 5)
  /-- SLL (R129). -/
  | sll (w : Bool) (b a d : BitVec 5)
  /-- SRL (R129). -/
  | srl (w : Bool) (b a d : BitVec 5)
  /-- SRA (R129). -/
  | sra (w : Bool) (b a d : BitVec 5)
  /-- ROT (R129). -/
  | rot (w : Bool) (b a d : BitVec 5)
  /-- CLZ (R129). -/
  | clz (w : Bool) (a d : BitVec 5)
  /-- CTZ (R129). -/
  | ctz (w : Bool) (a d : BitVec 5)
  /-- POPC (R129). -/
  | popc (w : Bool) (a d : BitVec 5)
  /-- BSWAP (R129). -/
  | bswap (a d : BitVec 5)
  /-- SEXT (R129). -/
  | sext (n : ExtW) (a d : BitVec 5)
  /-- ZEXT (R129). -/
  | zext (n : ExtW) (a d : BitVec 5)
  /-- ADDI (R130). -/
  | addi (i : BitVec 14) (a d : BitVec 5)
  /-- ANDI (R130). -/
  | andi (i : BitVec 14) (a d : BitVec 5)
  /-- ORI (R130). -/
  | ori (i : BitVec 14) (a d : BitVec 5)
  /-- XORI (R130). -/
  | xori (i : BitVec 14) (a d : BitVec 5)
  /-- SLLI (R131). -/
  | slli (w : Bool) (n : BitVec 6) (a d : BitVec 5)
  /-- SRLI (R131). -/
  | srli (w : Bool) (n : BitVec 6) (a d : BitVec 5)
  /-- SRAI (R131). -/
  | srai (w : Bool) (n : BitVec 6) (a d : BitVec 5)
  /-- ROTI (R131). -/
  | roti (w : Bool) (n : BitVec 6) (a d : BitVec 5)
  /-- LUI (R133). -/
  | lui (i : BitVec 19) (d : BitVec 5)
  /-- AUIPC (R134). -/
  | auipc (i : BitVec 19) (d : BitVec 5)
  /-- BFX (R132). -/
  | bfx (l n : BitVec 6) (a d : BitVec 5)
  /-- BFXU (R132). -/
  | bfxu (l n : BitVec 6) (a d : BitVec 5)
  /-- BFI (R132). -/
  | bfi (l n : BitVec 6) (a d : BitVec 5)
  /-- PCMP (R135). -/
  | pcmp (w k : Bool) (c : Cond) (b a d : BitVec 5)
  /-- PCMPI (R136). -/
  | pcmpi (c : Cond) (i : BitVec 10) (a : BitVec 5) (d : BitVec 3)
  /-- PAND (R137). -/
  | pand (b a d : BitVec 3)
  /-- POR (R137). -/
  | por (b a d : BitVec 3)
  /-- PXOR (R137). -/
  | pxor (b a d : BitVec 3)
  /-- PNOT (R137). -/
  | pnot (a d : BitVec 3)
  /-- SEL (R138). -/
  | sel (k : BitVec 3) (b a d : BitVec 5)
  /-- MIX (R139). -/
  | mix (b a d : BitVec 5)
  /-- BCC (R143). -/
  | bcc (o : BitVec 11) (b a : BitVec 5) (c : BCond)
  /-- BP (R144). -/
  | bp (o : BitVec 11) (n : Bool) (j : BitVec 4) (k : BitVec 3)
  /-- J (R145). -/
  | j (o : BitVec 23)
  /-- JL (R145). -/
  | jl (o : BitVec 23)
  /-- JLR (R146). -/
  | jlr (i : BitVec 14) (a d : BitVec 5)
  /-- JR (R146). -/
  | jr (i : BitVec 14) (a : BitVec 5)
  /-- LOOP (R149). -/
  | loop (i : BitVec 14) (a : BitVec 5) (k : Bool)
  /-- LOOPI (R149). -/
  | loopi (i : BitVec 14) (m : BitVec 5) (n : BitVec 4) (k : Bool)
  /-- REP (R154). -/
  | rep (n : BitVec 4) (r : BitVec 6) (k : BitVec 3) (p : BitVec 5)
  /-- REPLAY_END: the replay of slot k runs to its end (R158). -/
  | replayEnd
  /-- CVT (R81). -/
  | cvt (f e : Fmt) (r : Rm) (x : BitVec 3) (a d : BitVec 5)
  /-- FADD_S (R162). -/
  | faddS (r : Rm) (b a d : BitVec 5)
  /-- FSUB_S (R162). -/
  | fsubS (r : Rm) (b a d : BitVec 5)
  /-- FMUL_S (R162). -/
  | fmulS (r : Rm) (b a d : BitVec 5)
  /-- FDIV_S (R162). -/
  | fdivS (r : Rm) (b a d : BitVec 5)
  /-- FSQRT_S (R162). -/
  | fsqrtS (r : Rm) (a d : BitVec 5)
  /-- FMIN_S (R164). -/
  | fminS (b a d : BitVec 5)
  /-- FMAX_S (R164). -/
  | fmaxS (b a d : BitVec 5)
  /-- FSGN_S (R165). -/
  | fsgnS (b a d : BitVec 5)
  /-- FSGNN_S (R165). -/
  | fsgnnS (b a d : BitVec 5)
  /-- FSGNX_S (R165). -/
  | fsgnxS (b a d : BitVec 5)
  /-- FCLASS_S (R166). -/
  | fclassS (a d : BitVec 5)
  /-- FADD_D (R162). -/
  | faddD (r : Rm) (b a d : BitVec 5)
  /-- FSUB_D (R162). -/
  | fsubD (r : Rm) (b a d : BitVec 5)
  /-- FMUL_D (R162). -/
  | fmulD (r : Rm) (b a d : BitVec 5)
  /-- FDIV_D (R162). -/
  | fdivD (r : Rm) (b a d : BitVec 5)
  /-- FSQRT_D (R162). -/
  | fsqrtD (r : Rm) (a d : BitVec 5)
  /-- FMIN_D (R164). -/
  | fminD (b a d : BitVec 5)
  /-- FMAX_D (R164). -/
  | fmaxD (b a d : BitVec 5)
  /-- FSGN_D (R165). -/
  | fsgnD (b a d : BitVec 5)
  /-- FSGNN_D (R165). -/
  | fsgnnD (b a d : BitVec 5)
  /-- FSGNX_D (R165). -/
  | fsgnxD (b a d : BitVec 5)
  /-- FCLASS_D (R166). -/
  | fclassD (a d : BitVec 5)
  /-- FFMA (R167). -/
  | ffma (t : Bool) (r : Rm) (b a d : BitVec 5)
  /-- FFMS (R167). -/
  | ffms (t : Bool) (r : Rm) (b a d : BitVec 5)
  /-- FCMP (R168). -/
  | fcmp (t k : Bool) (c : Cond) (b a d : BitVec 5)
  /-- MFS (R110). -/
  | mfs (n : BitVec 12) (d : BitVec 5)
  /-- MTS (R110). -/
  | mts (n : BitVec 12) (a : BitVec 5)
  /-- CPLAUNCH (R255). -/
  | cplaunch (d : BitVec 5)
  /-- TRAP (R112). -/
  | trap (b a : BitVec 5)
  /-- ERET (R113). -/
  | eret
  /-- YIELD (R116). -/
  | yield
  /-- SUSPEND (R117). -/
  | suspend
  /-- WFW (R118). -/
  | wfw
  /-- BKPT (R112). -/
  | bkpt
  /-- NOP (R114). -/
  | nop
  /-- WAITE (R115). -/
  | waite
  /-- CTXSAVE (R444). -/
  | ctxsave (b a : BitVec 5)
  /-- CTXLOAD (R444). -/
  | ctxload (a : BitVec 5)
  /-- ATR (R250). -/
  | atr (k a d : BitVec 5)
  /-- TLBFL (R251). -/
  | tlbfl (m a : BitVec 5)
  /-- HALTP (R466). -/
  | haltp (a : BitVec 5)
  /-- SELFTEST (R467). -/
  | selftest (a d : BitVec 5)
  /-- VADD (R174). -/
  | vadd (t : Bool) (r : Rm) (p : BitVec 3) (b a d : BitVec 4)
  /-- VSUB (R174). -/
  | vsub (t : Bool) (r : Rm) (p : BitVec 3) (b a d : BitVec 4)
  /-- VMUL (R174). -/
  | vmul (t : Bool) (r : Rm) (p : BitVec 3) (b a d : BitVec 4)
  /-- VFMA (R174). -/
  | vfma (t : Bool) (r : Rm) (p : BitVec 3) (b a d : BitVec 4)
  /-- VFMS (R174). -/
  | vfms (t : Bool) (r : Rm) (p : BitVec 3) (b a d : BitVec 4)
  /-- VMIN (R174). -/
  | vmin (t : Bool) (p : BitVec 3) (b a d : BitVec 4)
  /-- VMAX (R174). -/
  | vmax (t : Bool) (p : BitVec 3) (b a d : BitVec 4)
  /-- VABS (R174). -/
  | vabs (t : Bool) (p : BitVec 3) (a d : BitVec 4)
  /-- VNEG (R174). -/
  | vneg (t : Bool) (p : BitVec 3) (a d : BitVec 4)
  /-- VRCP (R176). -/
  | vrcp (r : Rm) (p : BitVec 3) (a d : BitVec 4)
  /-- VRSQ (R176). -/
  | vrsq (r : Rm) (p : BitVec 3) (a d : BitVec 4)
  /-- VEXP2 (R176). -/
  | vexp2 (r : Rm) (p : BitVec 3) (a d : BitVec 4)
  /-- VIADD (R177). -/
  | viadd (l : Lanes) (p : BitVec 3) (b a d : BitVec 4)
  /-- VISUB (R177). -/
  | visub (l : Lanes) (p : BitVec 3) (b a d : BitVec 4)
  /-- VIMUL (R177). -/
  | vimul (l : Lanes) (p : BitVec 3) (b a d : BitVec 4)
  /-- VIMAD (R177). -/
  | vimad (l : Lanes) (p : BitVec 3) (b a d : BitVec 4)
  /-- VIMIN (R177). -/
  | vimin (l : Lanes) (p : BitVec 3) (b a d : BitVec 4)
  /-- VIMAX (R177). -/
  | vimax (l : Lanes) (p : BitVec 3) (b a d : BitVec 4)
  /-- VAND (R177). -/
  | vand (l : Lanes) (p : BitVec 3) (b a d : BitVec 4)
  /-- VOR (R177). -/
  | vor (l : Lanes) (p : BitVec 3) (b a d : BitVec 4)
  /-- VXOR (R177). -/
  | vxor (l : Lanes) (p : BitVec 3) (b a d : BitVec 4)
  /-- VSLL (R177). -/
  | vsll (l : Lanes) (p : BitVec 3) (b a d : BitVec 4)
  /-- VSRL (R177). -/
  | vsrl (l : Lanes) (p : BitVec 3) (b a d : BitVec 4)
  /-- VSRA (R177). -/
  | vsra (l : Lanes) (p : BitVec 3) (b a d : BitVec 4)
  /-- VIABS (R177). -/
  | viabs (l : Lanes) (p : BitVec 3) (a d : BitVec 4)
  /-- VCMP (R178). -/
  | vcmp (t : Bool) (c : Cond) (p : BitVec 3) (b a : BitVec 4) (d : BitVec 3)
  /-- VSEL (R179). -/
  | vsel (p : BitVec 3) (b a d : BitVec 4)
  /-- VPERM (R179). -/
  | vperm (p : BitVec 3) (b a d : BitVec 4)
  /-- VREV (R179). -/
  | vrev (p : BitVec 3) (a d : BitVec 4)
  /-- VSLIDE (R180). -/
  | vslide (m : BitVec 6) (p : BitVec 3) (b a d : BitVec 4)
  /-- VZIP (R179). -/
  | vzip (p : BitVec 3) (b a d : BitVec 4)
  /-- VUNZIP (R179). -/
  | vunzip (p : BitVec 3) (a d : BitVec 4)
  /-- VBCAST (R181). -/
  | vbcast (p : BitVec 2) (g : BitVec 5) (d : BitVec 4)
  /-- VEXT (R181). -/
  | vext (l : BitVec 4) (g : BitVec 5) (a : BitVec 4)
  /-- VINS (R181). -/
  | vins (l : BitVec 4) (g : BitVec 5) (d : BitVec 4)
  /-- VIOTA (R181). -/
  | viota (p : BitVec 2) (g : BitVec 5) (d : BitVec 4)
  /-- VMIX (R181). -/
  | vmix (p : BitVec 2) (g : BitVec 5) (a d : BitVec 4)
  /-- VRED (R183). -/
  | vred (o : VRedOp) (r : Rm) (p : BitVec 3) (a d : BitVec 4)
  /-- VSCAN (R184). -/
  | vscan (o : VRedOp) (r : Rm) (p : BitVec 3) (a d : BitVec 4)
  /-- VDOT (R187). -/
  | vdot (f : Fmt) (r : Rm) (p : BitVec 3) (b a d : BitVec 4)
  /-- VCVT (R82). -/
  | vcvt (f : Fmt) (r : Rm) (p : BitVec 3) (e : Fmt) (a d : BitVec 4)
  /-- VPACK (R83). -/
  | vpack (f : Fmt) (r : Rm) (p : BitVec 3) (b a d : BitVec 4)
  /-- VUNPK (R84). -/
  | vunpk (f : Fmt) (p : BitVec 3) (h : Bool) (a d : BitVec 4)
  /-- VBSCALE (R85). -/
  | vbscale (f : Fmt) (r : Rm) (p : BitVec 3) (b a d : BitVec 4)
  /-- LD (R221). -/
  | ld (o : BitVec 11) (k : LdKind) (a d : BitVec 5)
  /-- LD_WINDOW (R219). -/
  | ldWindow (w : BitVec 3) (z : Sz) (o : BitVec 6) (a d : BitVec 5)
  /-- ST (R221). -/
  | st (o : BitVec 11) (k : Sz) (a d : BitVec 5)
  /-- VLD (R223). -/
  | vld (o : BitVec 11) (a : BitVec 5) (d : BitVec 4)
  /-- VST (R223). -/
  | vst (o : BitVec 11) (a : BitVec 5) (d : BitVec 4)
  /-- VLDS (R223). -/
  | vlds (x : BitVec 3) (o : BitVec 8) (a : BitVec 5) (d : BitVec 4)
  /-- VSTS (R223). -/
  | vsts (x : BitVec 3) (o : BitVec 8) (a : BitVec 5) (d : BitVec 4)
  /-- LDP (R221). -/
  | ldp (o : BitVec 11) (a d : BitVec 5)
  /-- VLDP (R223). -/
  | vldp (o : BitVec 11) (a : BitVec 5) (d : BitVec 4)
  /-- VLD_WINDOW (R223). -/
  | vldWindow (w : BitVec 3) (o : BitVec 8) (a : BitVec 5) (d : BitVec 4)
  /-- AMO (R227). -/
  | amo (w : Bool) (o : AmoOp) (b a d : BitVec 5)
  /-- CAS (R227). -/
  | cas (w : Bool) (b a d : BitVec 5)
  /-- LDA (R228). -/
  | lda (w : Bool) (a d : BitVec 5)
  /-- STL (R228). -/
  | stl (w : Bool) (b a : BitVec 5)
  /-- ACQ (R229). -/
  | acq
  /-- REL (R229). -/
  | rel
  /-- FENCE (R229). -/
  | fence
  /-- RED (R231). -/
  | red (o : RedOp) (z : Bool) (b a : BitVec 5)
  /-- VGATHER (R224). -/
  | vgather (c : BitVec 2) (b : BitVec 4) (a : BitVec 5) (d : BitVec 4)
  /-- VSCATTER (R224). -/
  | vscatter (c : BitVec 2) (b : BitVec 4) (a : BitVec 5) (d : BitVec 4)
  /-- LDX (R220). -/
  | ldx (c : BitVec 2) (z : Sz) (u : Bool) (b a d : BitVec 5)
  /-- STX (R220). -/
  | stx (c : BitVec 2) (z : Sz) (b a d : BitVec 5)
  /-- WENQ (R425). -/
  | wenq (b : BitVec 4) (a d : BitVec 5)
  /-- WATCH (R426). -/
  | watch (a d : BitVec 5)
  /-- UNWATCH (R426). -/
  | unwatch (a d : BitVec 5)
  /-- PREF (R233). -/
  | pref (a : BitVec 5)
  /-- CFLUSH (R234). -/
  | cflush (a : BitVec 5)
  /-- CINV (R234). -/
  | cinv (a : BitVec 5)
  /-- COPYP (R265). -/
  | copyp (a d : BitVec 5)
  /-- TWAITANY (R260). -/
  | twaitany (a d : BitVec 5)
  /-- TWAITALL (R260). -/
  | twaitall (a : BitVec 5)
  /-- TFIND (R260). -/
  | tfind (a d : BitVec 5)
  /-- TTEST (R260). -/
  | ttest (a d : BitVec 5)
  /-- TCLR (R260). -/
  | tclr (a : BitVec 5)
  /-- CHOPEN (R267). -/
  | chopen (b a : BitVec 5) (k : BitVec 2)
  /-- CHCLOSE (R267). -/
  | chclose (k : BitVec 2)
  /-- MFREE (R271). -/
  | mfree (a : BitVec 5)
  /-- MBWAIT (R272). -/
  | mbwait (a : BitVec 5) (k : BitVec 3)
  /-- PUT (R292). -/
  | put (k : BitVec 3) (a : BitVec 5)
  /-- GET (R292). -/
  | get (k : BitVec 3) (d : BitVec 5)
  /-- PUTV (R292). -/
  | putv (k : BitVec 2) (a : BitVec 4)
  /-- GETV (R292). -/
  | getv (k : BitVec 2) (d : BitVec 4)
  /-- PSEL (R295). -/
  | psel (b a d : BitVec 5)
  /-- PUTB (R296). -/
  | putb (k x : BitVec 3) (a : BitVec 5)
  /-- GETB (R296). -/
  | getb (k x : BitVec 3) (a : BitVec 5)
  /-- CLOAD (R302). -/
  | cload (b a d : BitVec 5)
  /-- CUNLOAD (R302). -/
  | cunload (a : BitVec 5)
  /-- PBIND (R302). -/
  | pbind (b a : BitVec 5) (k : BitVec 3)
  /-- PUNBIND (R302). -/
  | punbind (k : BitVec 3)
  /-- CSTAT (R303). -/
  | cstat (b a d : BitVec 5)
  /-- TMMA (R315). -/
  | tmma (x : BitVec 3) (a : BitVec 5)
  /-- TMMA_SP (R315). -/
  | tmmaSp (q : BitVec 2) (x : BitVec 3) (a : BitVec 5)
  /-- TZERO (R324). -/
  | tzero
  /-- TLD (R325). -/
  | tld (x : BitVec 3) (a : BitVec 5)
  /-- TST (R325). -/
  | tst (x : BitVec 3) (a : BitVec 5)
  /-- TLDB (R326). -/
  | tldb (x : BitVec 3) (a : BitVec 5)
  /-- TJOIN (R327). -/
  | tjoin (a : BitVec 5)
  /-- TWT (R328). -/
  | twt (a : BitVec 5)
  /-- TSTAT (R329). -/
  | tstat (a d : BitVec 5)
  /-- TKGET (R354). -/
  | tkget (a d : BitVec 5)
  /-- TKWAIT (R355). -/
  | tkwait (a : BitVec 5)
  /-- PUBLISH (R356). -/
  | publish
  /-- HNEW (R366). -/
  | hnew (a d : BitVec 5)
  /-- HCOPY (R367). -/
  | hcopy (a d : BitVec 5)
  /-- HDROP (R369). -/
  | hdrop (a : BitVec 5)
  /-- HWT (R372). -/
  | hwt (a d : BitVec 5)
  /-- HBIND (R370). -/
  | hbind (b a : BitVec 5)
  /-- BARINIT (R379). -/
  | barinit (b a : BitVec 5)
  /-- BARI (R380). -/
  | bari (a d : BitVec 5)
  /-- BARW (R381). -/
  | barw (b a : BitVec 5)
  /-- BART (R381). -/
  | bart (b a d : BitVec 5)
  /-- GBAR (R383). -/
  | gbar (b a : BitVec 5)
  /-- FLUSHP (R388). -/
  | flushp (a : BitVec 5)
  /-- FLUSHP_G (R388). -/
  | flushpG (a : BitVec 5)
  /-- REDT (R386). -/
  | redt (b a : BitVec 5)
  /-- SPAWN (R423). -/
  | spawn (a : BitVec 5)
  /-- JOIN (R424). -/
  | join
  /-- TENQ (R421). -/
  | tenq (a : BitVec 5)
  /-- TPICK (R423). -/
  | tpick
  /-- TCTR (R421). -/
  | tctr (b a : BitVec 5)
  /-- TDEC (R421). -/
  | tdec (a : BitVec 5)
  /-- KLAUNCH (R403). -/
  | klaunch (b a d : BitVec 5)
  /-- EMULATION (R61). -/
  | emulation (e : BitVec 24)
  /-- C_MV (R52). -/
  | cMv (b d : BitVec 5)
  /-- C_ADD (R52). -/
  | cAdd (b d : BitVec 5)
  /-- C_SUB (R52). -/
  | cSub (b d : BitVec 5)
  /-- C_ADDI (R52). -/
  | cAddi (i d : BitVec 5)
  /-- C_LI (R52). -/
  | cLi (i d : BitVec 5)
  /-- C_AND (R52). -/
  | cAnd (b d : BitVec 5)
  /-- C_OR (R52). -/
  | cOr (b d : BitVec 5)
  /-- C_SLLI (R52). -/
  | cSlli (i d : BitVec 5)
  /-- C_LDW (R52). -/
  | cLdw (b d : BitVec 5)
  /-- C_STW (R52). -/
  | cStw (b d : BitVec 5)
  /-- C_B (R52). -/
  | cB (o : BitVec 10)
  /-- C_BNZ (R52). -/
  | cBnz (i d : BitVec 5)
  /-- C_PUT (R52). -/
  | cPut (k : BitVec 3) (d : BitVec 5)
  /-- C_GET (R52). -/
  | cGet (k : BitVec 3) (d : BitVec 5)
  /-- C_NOP (R52). -/
  | cNop
  /-- C_YIELD (R52). -/
  | cYield
  /-- C_SUSPEND (R52). -/
  | cSuspend
  /-- C_WFW (R52). -/
  | cWfw
  /-- C_ERET (R52). -/
  | cEret
  /-- C_BKPT (R52). -/
  | cBkpt
  /-- C_WAITE (R52). -/
  | cWaite
  /-- PACKAGE_RESET: a package reset (R5). -/
  | packageReset
  /-- POWER_UP_SEQUENCE: the six boot steps of R476; the outcomes of the two signature checks and the units that fail self-test come with the event. -/
  | powerUpSequence
  /-- SUPPLY_DROOP_STRETCH: the clock of a cluster is stretched, or the stretch ends (R486). -/
  | supplyDroopStretch
  /-- THERMAL_THROTTLE: coolant temperature passes the throttle limit, or returns (R487). -/
  | thermalThrottle
  /-- THERMAL_SHUTDOWN: power is removed (R487). -/
  | thermalShutdown
  /-- PORT_LINK_TRAINED: the link of scale-out port p trains, or is lost (R483). -/
  | portLinkTrained
  /-- BIND_RECORD_DISPATCH: the dispatch hardware of a cluster takes its oldest bind record (R414). -/
  | bindRecordDispatch
  /-- TASK_START: the free slot k takes the first task waiting for it (R99, R416). -/
  | taskStart
  /-- PARK_RELEASE: the park reason of slot k holds and it continues (R94). -/
  | parkRelease
  /-- LOAD_DATA_RETURN: data of access id of slot k return for the lanes named; len is the length the block predictor gives (R199, R191). -/
  | loadDataReturn
  /-- DIVIDE_RESULT: an integer divide result returns (R123). -/
  | divideResult
  /-- FDIV_FSQRT_RESULT: an FDIV or FSQRT result returns (R161). -/
  | fdivFsqrtResult
  /-- TIMER_EXPIRY: tmr of slot k reaches 0 (R107). -/
  | timerExpiry
  /-- TRAP_ENTRY: the trap waiting at slot k is entered (R109). -/
  | trapEntry
  /-- HOME_REGISTRATION: the registration of a word stored by slot k of core reaches the home (R196). -/
  | homeRegistration
  /-- HOME_REMOTE_READ: a read by core of a word reaches the home (R196). -/
  | homeRemoteRead
  /-- HOME_WRITE_BACK: core writes a word back to the home (R196). -/
  | homeWriteBack
  /-- HOME_RED_ARRIVAL: the request of a RED reaches the home (R209). -/
  | homeRedArrival
  /-- DIRECTORY_HANDLER_DONE: the directory handler of a home core finishes its oldest record (R211). -/
  | directoryHandlerDone
  /-- FORMAT_WINDOW_FILL: a line of a format window is expanded into the L2 (R90). -/
  | formatWindowFill
  /-- FORMAT_WINDOW_WRITEBACK: a working line of a format window is narrowed to its store (R91). -/
  | formatWindowWriteback
  /-- FORMAT_WINDOW_ENABLE: fwfmt of a window is written with EN = 1 (R88). -/
  | formatWindowEnable
  /-- PAGE_WALK: the walk for an access of slot k is performed (R241). -/
  | pageWalk
  /-- FQHEAD_WRITE: the driver writes a context's fqhead (R247). -/
  | fqheadWrite
  /-- FAULT_REPOST: the fault records not answered in time are posted again (R247). -/
  | faultRepost
  /-- FLUSH_PAGE: the driver flushes a page (R474). -/
  | flushPage
  /-- FLUSH_CONTEXT: the driver flushes a context (R474). -/
  | flushContext
  /-- FLUSH_COMPLETE: a flush ends (R249). -/
  | flushComplete
  /-- COPY_WORD_TRANSFER: a copy engine moves the next word of the oldest copy of queue q of core (R253). -/
  | copyWordTransfer
  /-- COPY_COMPLETE: the oldest copy of queue q of core completes (R258). -/
  | copyComplete
  /-- MFREE_COMBINED_ARRIVAL: the combined MFREE of mailbox m reaches its sender (R271). -/
  | mfreeCombinedArrival
  /-- SPARSITY_STORE_RESUME: a waiting store into a sparsity queue resumes (R321). -/
  | sparsityStoreResume
  /-- OFFER_ACCEPT_ARRIVAL: an offer or accept of a port reaches its resolver (R284). -/
  | offerAcceptArrival
  /-- RESOLVER_EVALUATION: the resolver of a region evaluates (R284). -/
  | resolverEvaluation
  /-- WITHDRAWAL_REQUEST_ARRIVAL: a withdrawal request reaches the resolver (R285). -/
  | withdrawalRequestArrival
  /-- PORT_FIRE: a decision to fire reaches a port (R276). -/
  | portFire
  /-- WITHDRAWAL_ACK: a withdrawal is acknowledged (R276). -/
  | withdrawalAck
  /-- PORT_TIMEOUT: the port wait of slot k reaches pto (R286). -/
  | portTimeout
  /-- BUF_ITEM_ARRIVAL: an item reaches the receiving end of a BUF or LOSSY link (R488). -/
  | bufItemArrival
  /-- BUF_CREDIT_ARRIVAL: a credit returns to the sending end of a BUF link (R488). -/
  | bufCreditArrival
  /-- PAYLOAD_RECEIVE: a payload of the stated type reaches scale-out port p (R482, R484). -/
  | payloadReceive
  /-- STREAM_PAYLOAD_DELIVERY: the next stream payload in order of port p is delivered (R485). -/
  | streamPayloadDelivery
  /-- FRONTIER_ADVANCE_DELIVERY: a frontier advance reaches an octet (R338). -/
  | frontierAdvanceDelivery
  /-- K_STEP: the matrix unit of an octet performs its next command step (R315). -/
  | kStep
  /-- COMMIT_DRAIN: the next commit-buffer entry of a current group drains (R344). -/
  | commitDrain
  /-- GROUP_RETIRE: a current group with all its work done retires (R340). -/
  | groupRetire
  /-- TICKET_DEADLOCK: a ticket deadlock is detected in a frontier instance (R348). -/
  | ticketDeadlock
  /-- KERNEL_ABORT: a kernel is aborted (R350). -/
  | kernelAbort
  /-- WEIGHT_ARRIVAL: a dropped weight reaches the home of its tensor (R364). -/
  | weightArrival
  /-- TREE_NODE_COMBINE: the tree combines one block of a REDT (R385). -/
  | treeNodeCombine
  /-- FLUSH_PROBE_RETURN: the probes of a FLUSHP of slot k return (R388). -/
  | flushProbeReturn
  /-- DOORBELL: a doorbell write (R409). -/
  | doorbell
  /-- TENANT_TURN: the firmware gives the next tenant its turn (R412). -/
  | tenantTurn
  /-- GROUP_PLACEMENT: the firmware places the next group of a kernel (R397). -/
  | groupPlacement
  /-- RUN_LIST_AGING: the run list of a core ages its tasks (R416). -/
  | runListAging
  /-- STEAL_ATTEMPT: a slot without work sends a steal request (R417). -/
  | stealAttempt
  /-- STEAL_REQUEST_ARRIVAL: a steal request reaches its victim (R417). -/
  | stealRequestArrival
  /-- OVERFLOW_RING_REFILL: a core takes records back from the overflow ring (R418). -/
  | overflowRingRefill
  /-- TDEC_ARRIVAL: a decrement reaches a counter's home core (R421). -/
  | tdecArrival
  /-- TENQ_ARRIVAL: an enqueue reaches a home core (R421). -/
  | tenqArrival
  /-- WENQ_ARRIVAL: the message of a WENQ reaches its core (R425). -/
  | wenqArrival
  /-- PREEMPT_DEADLINE: pdl cycles have passed since the request (R433). -/
  | preemptDeadline
  /-- GROUP_SAVE: Badger saves a group (R438). -/
  | groupSave
  /-- GROUP_RESTORE: Badger restores a group (R442). -/
  | groupRestore
  /-- CTX_CREATE: ctxcmd create (R473). -/
  | ctxCreate
  /-- CTX_BIND: ctxcmd bind (R473). -/
  | ctxBind
  /-- CTX_SAVE: ctxcmd save (R473). -/
  | ctxSave
  /-- CTX_RESTORE: ctxcmd restore (R473). -/
  | ctxRestore
  /-- CTX_DESTROY: ctxcmd destroy (R473). -/
  | ctxDestroy
  /-- HALT_STOP: haltcmd stop (R475). -/
  | haltStop
  /-- HALT_RESUME: haltcmd resume (R475). -/
  | haltResume
  /-- FEATLOCK_WRITE: the driver writes featlock (R472). -/
  | featlockWrite
  /-- TWEIGHT_WRITE: the driver writes a tenant's weight (R470). -/
  | tweightWrite
  /-- PORTCFG_WRITE: the driver writes portcfg of port p (R483). -/
  | portcfgWrite
  /-- STREAM_TABLE_WRITE: the driver writes half an entry of the stream table (R485). -/
  | streamTableWrite
  /-- REGISTER_WRITE: a write to another register of the management block (R471). -/
  | registerWrite
  /-- OWL_SPDM_EXCHANGE: Owl performs one SPDM exchange; the answer comes with the event (R478). -/
  | owlSpdmExchange
  /-- OWL_UNLOCK: Owl verifies a credential; the outcome comes with the event (R459). -/
  | owlUnlock
  /-- OWL_LOCK: Owl performs the command (R478). -/
  | owlLock
  /-- OWL_STOP: Owl performs the command (R478). -/
  | owlStop
  /-- OWL_RESUME: Owl performs the command (R478). -/
  | owlResume
  /-- OWL_ARM: Owl performs the command (R478). -/
  | owlArm
  /-- OWL_DISARM: Owl performs the command (R478). -/
  | owlDisarm
  /-- OWL_READ_SLOT: Owl performs the command (R478). -/
  | owlReadSlot
  /-- OWL_WRITE_SLOT: Owl performs the command (R478). -/
  | owlWriteSlot
  /-- OWL_READ_MEMORY: Owl performs the command (R478). -/
  | owlReadMemory
  /-- OWL_WRITE_MEMORY: Owl performs the command (R478). -/
  | owlWriteMemory
  /-- OWL_READ_HALT_RECORD: Owl performs the command (R478). -/
  | owlReadHaltRecord
  /-- ERROR_DETECTED: an error is detected at a unit (R461). -/
  | errorDetected
  /-- UNIT_SELFTEST_COMPLETE: the self-test of a unit ends (R464). -/
  | unitSelftestComplete
  /-- HOME_ATOMIC_ACCESS: an atomic access of slot k reaches the home (R196). -/
  | homeAtomicAccess
  /-- COUNTER_REQUEST_ARRIVAL: the counter request of slot k reaches its home core (R419). -/
  | counterRequestArrival
  /-- WATCH_REQUEST_ARRIVAL: a watch request of slot k reaches the slice (R426). -/
  | watchRequestArrival
  /-- STEAL_ANSWER_ARRIVAL: the answer to a steal request returns (R417). -/
  | stealAnswerArrival
  deriving DecidableEq, Repr

end Sys2Proof
end

