-- ==== Sys2Proof/WellFormed.lean ====
section
/-! DEFINITION. Which constructor terms stand for a word that R55 does not call illegal: the conditions that tie
several fields of one word together, or that the field types do not already say. -/

namespace Sys2Proof

/-- The formats that CVT takes as a plain source or destination: codes 0 to 4 and 7 to 12 (R79). -/
def plainFmt (f : Fmt) : Bool :=
  match f with
  | .i4 | .o4 | .e8m0 | .ue5m3 => false
  | _ => true

/-- The two pair formats INT4 and O4. -/
def pairFmt (f : Fmt) : Bool := f == .i4 || f == .o4

/-- The two scale formats E8M0 and UE5M3. -/
def scaleFmt (f : Fmt) : Bool := f == .e8m0 || f == .ue5m3

/-- The pairs of destination and source format that CVT accepts (R79). -/
def cvtPair (d s : Fmt) : Bool :=
  (plainFmt d && plainFmt s && d != s)
    || (pairFmt d && s == .f32) || (d == .f32 && pairFmt s)
    || (scaleFmt d && (s == .f32 || s == .f64)) || ((d == .f32 || d == .f64) && scaleFmt s)

/-- The conversions that read an extension register (R79). -/
def cvtReadsExt (d s : Fmt) : Bool := pairFmt d || pairFmt s || scaleFmt d || scaleFmt s

/-- Codes 0 to 9: the integer conditions (R54). -/
def intCond (c : Cond) : Bool := c != .un

/-- Codes 0 to 5 and 10: the floating-point conditions (R54). -/
def fpCond (c : Cond) : Bool :=
  match c with
  | .eq | .ne | .lt | .le | .gt | .ge | .un => true
  | _ => false

/-- The formats of VCVT lanes (R82). -/
def laneFmt (f : Fmt) : Bool :=
  match f with
  | .i64 | .i4 | .o4 | .f64 => false
  | _ => true

/-- The formats of VPACK and VUNPK (R83). -/
def packFmt (f : Fmt) : Bool :=
  match f with
  | .i8 | .u8 | .i4 | .o4 | .e4m3 | .e5m2 | .f16 | .bf16 => true
  | _ => false

/-- The input formats of VDOT (R186). -/
def dotFmt (f : Fmt) : Bool := packFmt f

/-- The VDOT formats with an integer accumulator, whose rounding field must be 0 (R186). -/
def dotInt (f : Fmt) : Bool := f == .i8 || f == .u8 || f == .i4

/-- The assigned special-register numbers (R102). -/
def sregAssigned (n : Nat) : Bool :=
  n ≤ 0x008 || (0x010 ≤ n && n ≤ 0x015) || (0x020 ≤ n && n ≤ 0x02c) || (0x030 ≤ n && n ≤ 0x036)
    || (0x040 ≤ n && n ≤ 0x043) || n == 0x050 || n == 0x060 || n == 0x061 || n == 0x070 || n == 0x071
    || (0x080 ≤ n && n ≤ 0x084) || (0x090 ≤ n && n ≤ 0x0a0) || (0x0b0 ≤ n && n ≤ 0x0b7)

/-- The well-formed instructions: those whose word no entry calls illegal. An event has no word and is well formed. -/
def Instr.wf (i : Instr) : Bool :=
  match i with
  | .add _ _ _ _ => true
  | .sub _ _ _ _ => true
  | .mul _ _ _ _ => true
  | .mulh _ _ _ => true
  | .mulhu _ _ _ => true
  | .div _ _ _ _ => true
  | .divu _ _ _ _ => true
  | .rem _ _ _ _ => true
  | .remu _ _ _ _ => true
  | .min _ _ _ _ => true
  | .max _ _ _ _ => true
  | .minu _ _ _ _ => true
  | .maxu _ _ _ _ => true
  | .lea _ _ _ _ => true
  | .and _ _ _ => true
  | .or _ _ _ => true
  | .xor _ _ _ => true
  | .andn _ _ _ => true
  | .orn _ _ _ => true
  | .sll _ _ _ _ => true
  | .srl _ _ _ _ => true
  | .sra _ _ _ _ => true
  | .rot _ _ _ _ => true
  | .clz _ _ _ => true
  | .ctz _ _ _ => true
  | .popc _ _ _ => true
  | .bswap _ _ => true
  | .sext _ _ _ => true
  | .zext _ _ _ => true
  | .addi _ _ _ => true
  | .andi _ _ _ => true
  | .ori _ _ _ => true
  | .xori _ _ _ => true
  | .slli w n _ _ => !(w && decide (32 ≤ n.toNat))
  | .srli w n _ _ => !(w && decide (32 ≤ n.toNat))
  | .srai w n _ _ => !(w && decide (32 ≤ n.toNat))
  | .roti w n _ _ => !(w && decide (32 ≤ n.toNat))
  | .lui _ _ => true
  | .auipc _ _ => true
  | .bfx l n _ _ => decide (l.toNat + n.toNat + 1 ≤ 64)
  | .bfxu l n _ _ => decide (l.toNat + n.toNat + 1 ≤ 64)
  | .bfi l n _ _ => decide (l.toNat + n.toNat + 1 ≤ 64)
  | .pcmp _ k c _ _ d => c != .un && (k || decide (d.toNat < 8))
  | .pcmpi c _ _ _ => c != .un
  | .pand _ _ _ => true
  | .por _ _ _ => true
  | .pxor _ _ _ => true
  | .pnot _ _ => true
  | .sel _ _ _ _ => true
  | .mix _ _ _ => true
  | .bcc _ _ _ _ => true
  | .bp _ _ _ _ => true
  | .j _ => true
  | .jl _ => true
  | .jlr _ _ d => d != 0#5
  | .jr _ _ => true
  | .loop _ _ _ => true
  | .loopi _ _ _ _ => true
  | .rep _ _ _ _ => true
  | .replayEnd => true
  | .cvt f e _ x _ _ => cvtPair f e && (x == 0#3 || cvtReadsExt f e)
  | .faddS _ _ _ _ => true
  | .fsubS _ _ _ _ => true
  | .fmulS _ _ _ _ => true
  | .fdivS _ _ _ _ => true
  | .fsqrtS _ _ _ => true
  | .fminS _ _ _ => true
  | .fmaxS _ _ _ => true
  | .fsgnS _ _ _ => true
  | .fsgnnS _ _ _ => true
  | .fsgnxS _ _ _ => true
  | .fclassS _ _ => true
  | .faddD _ _ _ _ => true
  | .fsubD _ _ _ _ => true
  | .fmulD _ _ _ _ => true
  | .fdivD _ _ _ _ => true
  | .fsqrtD _ _ _ => true
  | .fminD _ _ _ => true
  | .fmaxD _ _ _ => true
  | .fsgnD _ _ _ => true
  | .fsgnnD _ _ _ => true
  | .fsgnxD _ _ _ => true
  | .fclassD _ _ => true
  | .ffma _ _ _ _ _ => true
  | .ffms _ _ _ _ _ => true
  | .fcmp _ k c _ _ d => fpCond c && (k || decide (d.toNat < 8))
  | .mfs n _ => sregAssigned n.toNat && n != 0x036#12
  | .mts n _ => sregAssigned n.toNat
  | .cplaunch _ => true
  | .trap _ _ => true
  | .eret => true
  | .yield => true
  | .suspend => true
  | .wfw => true
  | .bkpt => true
  | .nop => true
  | .waite => true
  | .ctxsave _ _ => true
  | .ctxload _ => true
  | .atr k _ _ => decide (k.toNat ≤ 2)
  | .tlbfl m _ => decide (m.toNat ≤ 2)
  | .haltp _ => true
  | .selftest _ _ => true
  | .vadd _ _ _ _ _ _ => true
  | .vsub _ _ _ _ _ _ => true
  | .vmul _ _ _ _ _ _ => true
  | .vfma _ _ _ _ _ _ => true
  | .vfms _ _ _ _ _ _ => true
  | .vmin _ _ _ _ _ => true
  | .vmax _ _ _ _ _ => true
  | .vabs _ _ _ _ => true
  | .vneg _ _ _ _ => true
  | .vrcp _ _ _ _ => true
  | .vrsq _ _ _ _ => true
  | .vexp2 _ _ _ _ => true
  | .viadd _ _ _ _ _ => true
  | .visub _ _ _ _ _ => true
  | .vimul _ _ _ _ _ => true
  | .vimad _ _ _ _ _ => true
  | .vimin _ _ _ _ _ => true
  | .vimax _ _ _ _ _ => true
  | .vand _ _ _ _ _ => true
  | .vor _ _ _ _ _ => true
  | .vxor _ _ _ _ _ => true
  | .vsll _ _ _ _ _ => true
  | .vsrl _ _ _ _ _ => true
  | .vsra _ _ _ _ _ => true
  | .viabs _ _ _ _ => true
  | .vcmp t c _ _ _ _ => if t then intCond c else fpCond c
  | .vsel _ _ _ _ => true
  | .vperm _ _ _ _ => true
  | .vrev _ _ _ => true
  | .vslide m _ _ _ _ => decide (-15 ≤ m.toInt ∧ m.toInt ≤ 15)
  | .vzip _ _ _ _ => true
  | .vunzip _ _ _ => true
  | .vbcast _ _ _ => true
  | .vext _ _ _ => true
  | .vins _ _ _ => true
  | .viota _ _ _ => true
  | .vmix _ _ _ _ => true
  | .vred o r _ _ _ => o == .fadd || r == .rne
  | .vscan o r _ _ _ => o == .fadd || r == .rne
  | .vdot f r _ _ _ _ => dotFmt f && (r == .rne || !dotInt f)
  | .vcvt f _ _ e _ _ => f != e && laneFmt f && laneFmt e
  | .vpack f _ p _ _ _ => packFmt f && (p == 0#3 || !pairFmt f)
  | .vunpk f _ _ _ _ => packFmt f
  | .vbscale f _ _ _ _ _ => f == .e8m0 || f == .ue5m3
  | .ld _ _ _ _ => true
  | .ldWindow _ _ _ _ _ => true
  | .st _ _ _ _ => true
  | .vld _ _ _ => true
  | .vst _ _ _ => true
  | .vlds _ _ _ _ => true
  | .vsts _ _ _ _ => true
  | .ldp _ _ d => d.toNat % 2 == 0
  | .vldp _ _ d => d.toNat % 2 == 0
  | .vldWindow _ _ _ _ => true
  | .amo _ _ _ _ _ => true
  | .cas _ _ _ _ => true
  | .lda _ _ _ => true
  | .stl _ _ _ => true
  | .acq => true
  | .rel => true
  | .fence => true
  | .red _ _ _ _ => true
  | .vgather _ _ _ _ => true
  | .vscatter _ _ _ _ => true
  | .ldx _ z u _ _ _ => !(u && z == .d)
  | .stx _ _ _ _ _ => true
  | .wenq _ _ _ => true
  | .watch _ _ => true
  | .unwatch _ _ => true
  | .pref _ => true
  | .cflush _ => true
  | .cinv _ => true
  | .copyp _ _ => true
  | .twaitany _ _ => true
  | .twaitall _ => true
  | .tfind _ _ => true
  | .ttest _ _ => true
  | .tclr _ => true
  | .chopen _ _ _ => true
  | .chclose _ => true
  | .mfree _ => true
  | .mbwait _ _ => true
  | .put _ _ => true
  | .get _ _ => true
  | .putv _ _ => true
  | .getv _ _ => true
  | .psel _ _ _ => true
  | .putb _ _ _ => true
  | .getb _ _ _ => true
  | .cload _ _ _ => true
  | .cunload _ => true
  | .pbind _ _ _ => true
  | .punbind _ => true
  | .cstat _ _ _ => true
  | .tmma _ _ => true
  | .tmmaSp _ _ _ => true
  | .tzero => true
  | .tld _ _ => true
  | .tst _ _ => true
  | .tldb _ _ => true
  | .tjoin _ => true
  | .twt _ => true
  | .tstat _ _ => true
  | .tkget _ _ => true
  | .tkwait _ => true
  | .publish => true
  | .hnew _ _ => true
  | .hcopy a d => d != 0#5 && d != a
  | .hdrop _ => true
  | .hwt _ _ => true
  | .hbind _ _ => true
  | .barinit _ _ => true
  | .bari _ _ => true
  | .barw _ _ => true
  | .bart _ _ _ => true
  | .gbar _ _ => true
  | .flushp _ => true
  | .flushpG _ => true
  | .redt _ _ => true
  | .spawn _ => true
  | .join => true
  | .tenq _ => true
  | .tpick => true
  | .tctr _ _ => true
  | .tdec _ => true
  | .klaunch _ _ _ => true
  | .emulation _ => true
  | .cMv _ _ => true
  | .cAdd _ _ => true
  | .cSub _ _ => true
  | .cAddi _ _ => true
  | .cLi _ _ => true
  | .cAnd _ _ => true
  | .cOr _ _ => true
  | .cSlli _ _ => true
  | .cLdw _ _ => true
  | .cStw _ _ => true
  | .cB _ => true
  | .cBnz _ _ => true
  | .cPut _ _ => true
  | .cGet _ _ => true
  | .cNop => true
  | .cYield => true
  | .cSuspend => true
  | .cWfw => true
  | .cEret => true
  | .cBkpt => true
  | .cWaite => true
  | .packageReset => true
  | .powerUpSequence => true
  | .supplyDroopStretch => true
  | .thermalThrottle => true
  | .thermalShutdown => true
  | .portLinkTrained => true
  | .bindRecordDispatch => true
  | .taskStart => true
  | .parkRelease => true
  | .loadDataReturn => true
  | .divideResult => true
  | .fdivFsqrtResult => true
  | .timerExpiry => true
  | .trapEntry => true
  | .homeRegistration => true
  | .homeRemoteRead => true
  | .homeWriteBack => true
  | .homeRedArrival => true
  | .directoryHandlerDone => true
  | .formatWindowFill => true
  | .formatWindowWriteback => true
  | .formatWindowEnable => true
  | .pageWalk => true
  | .fqheadWrite => true
  | .faultRepost => true
  | .flushPage => true
  | .flushContext => true
  | .flushComplete => true
  | .copyWordTransfer => true
  | .copyComplete => true
  | .mfreeCombinedArrival => true
  | .sparsityStoreResume => true
  | .offerAcceptArrival => true
  | .resolverEvaluation => true
  | .withdrawalRequestArrival => true
  | .portFire => true
  | .withdrawalAck => true
  | .portTimeout => true
  | .bufItemArrival => true
  | .bufCreditArrival => true
  | .payloadReceive => true
  | .streamPayloadDelivery => true
  | .frontierAdvanceDelivery => true
  | .kStep => true
  | .commitDrain => true
  | .groupRetire => true
  | .ticketDeadlock => true
  | .kernelAbort => true
  | .weightArrival => true
  | .treeNodeCombine => true
  | .flushProbeReturn => true
  | .doorbell => true
  | .tenantTurn => true
  | .groupPlacement => true
  | .runListAging => true
  | .stealAttempt => true
  | .stealRequestArrival => true
  | .overflowRingRefill => true
  | .tdecArrival => true
  | .tenqArrival => true
  | .wenqArrival => true
  | .preemptDeadline => true
  | .groupSave => true
  | .groupRestore => true
  | .ctxCreate => true
  | .ctxBind => true
  | .ctxSave => true
  | .ctxRestore => true
  | .ctxDestroy => true
  | .haltStop => true
  | .haltResume => true
  | .featlockWrite => true
  | .tweightWrite => true
  | .portcfgWrite => true
  | .streamTableWrite => true
  | .registerWrite => true
  | .owlSpdmExchange => true
  | .owlUnlock => true
  | .owlLock => true
  | .owlStop => true
  | .owlResume => true
  | .owlArm => true
  | .owlDisarm => true
  | .owlReadSlot => true
  | .owlWriteSlot => true
  | .owlReadMemory => true
  | .owlWriteMemory => true
  | .owlReadHaltRecord => true
  | .errorDetected => true
  | .unitSelftestComplete => true
  | .homeAtomicAccess => true
  | .counterRequestArrival => true
  | .watchRequestArrival => true
  | .stealAnswerArrival => true

end Sys2Proof
end

