-- ==== Sys2Proof/Decode.lean ====
section
/-! DEFINITION. Decoding, total on every word and rejecting by name, and the encoder written from the same tables
(03_encoding R43 to R63). -/

namespace Sys2Proof

/-- Why a word is not an instruction (R59, orders 2 and 4). Every reason gives trap cause 0x01. -/
inductive Reject where
  /-- the first parcel is 0x0000 or 0xffff -/
  | illegalParcel
  /-- a reserved major -/
  | reservedMajor
  /-- op4 15 -/
  | reservedOp4
  /-- an unassigned func -/
  | unassignedFunc
  /-- a field that must be 0 is not -/
  | mustBeZero
  /-- a code that the entry marks illegal -/
  | illegalCode
  /-- fields that are illegal together, or a register outside its file -/
  | illegalOperands
  deriving DecidableEq, Repr

/-- Bit j of a word. -/
def bit {n : Nat} (w : BitVec n) (j : Nat) : Bool := w.getLsbD j

/-- Two fields side by side, the first in the high bits (R37). -/
def cat {m n k : Nat} (x : BitVec m) (y : BitVec n) (h : m + n = k := by rfl) : BitVec k := (x ++ y).cast h

/-- A field that must be 0. -/
def zero {n : Nat} (f : BitVec n) (r : Except Reject Instr) : Except Reject Instr :=
  if f = 0#n then r else .error .mustBeZero

/-- A field whose code must have a name. -/
def code {α : Type} (o : Option α) (f : α → Except Reject Instr) : Except Reject Instr :=
  match o with
  | some a => f a
  | none => .error .illegalCode

/-- The code of each name. -/
def Cond.code : Cond → BitVec 4
  | .eq => 0#4
  | .ne => 1#4
  | .lt => 2#4
  | .le => 3#4
  | .gt => 4#4
  | .ge => 5#4
  | .ltu => 6#4
  | .leu => 7#4
  | .gtu => 8#4
  | .geu => 9#4
  | .un => 10#4

/-- The name of each code that has one. -/
def Cond.ofCode (c : BitVec 4) : Option Cond :=
  match c.toNat with
  | 0 => some .eq
  | 1 => some .ne
  | 2 => some .lt
  | 3 => some .le
  | 4 => some .gt
  | 5 => some .ge
  | 6 => some .ltu
  | 7 => some .leu
  | 8 => some .gtu
  | 9 => some .geu
  | 10 => some .un
  | _ => none

/-- The code of each name. -/
def BCond.code : BCond → BitVec 3
  | .eq => 0#3
  | .ne => 1#3
  | .lt => 2#3
  | .ge => 3#3
  | .ltu => 4#3
  | .geu => 5#3

/-- The name of each code that has one. -/
def BCond.ofCode (c : BitVec 3) : Option BCond :=
  match c.toNat with
  | 0 => some .eq
  | 1 => some .ne
  | 2 => some .lt
  | 3 => some .ge
  | 4 => some .ltu
  | 5 => some .geu
  | _ => none

/-- The code of each name. -/
def Rm.code : Rm → BitVec 3
  | .rne => 0#3
  | .rtz => 1#3
  | .rup => 2#3
  | .rdn => 3#3
  | .rna => 4#3
  | .sr => 5#3
  | .dyn => 7#3

/-- The name of each code that has one. -/
def Rm.ofCode (c : BitVec 3) : Option Rm :=
  match c.toNat with
  | 0 => some .rne
  | 1 => some .rtz
  | 2 => some .rup
  | 3 => some .rdn
  | 4 => some .rna
  | 5 => some .sr
  | 7 => some .dyn
  | _ => none

/-- The code of each name. -/
def Fmt.code : Fmt → BitVec 4
  | .i8 => 0#4
  | .u8 => 1#4
  | .i16 => 2#4
  | .i32 => 3#4
  | .i64 => 4#4
  | .i4 => 5#4
  | .o4 => 6#4
  | .e4m3 => 7#4
  | .e5m2 => 8#4
  | .f16 => 9#4
  | .bf16 => 10#4
  | .f32 => 11#4
  | .f64 => 12#4
  | .e8m0 => 13#4
  | .ue5m3 => 14#4

/-- The name of each code that has one. -/
def Fmt.ofCode (c : BitVec 4) : Option Fmt :=
  match c.toNat with
  | 0 => some .i8
  | 1 => some .u8
  | 2 => some .i16
  | 3 => some .i32
  | 4 => some .i64
  | 5 => some .i4
  | 6 => some .o4
  | 7 => some .e4m3
  | 8 => some .e5m2
  | 9 => some .f16
  | 10 => some .bf16
  | 11 => some .f32
  | 12 => some .f64
  | 13 => some .e8m0
  | 14 => some .ue5m3
  | _ => none

/-- The code of each name. -/
def Sz.code : Sz → BitVec 2
  | .b => 0#2
  | .h => 1#2
  | .w => 2#2
  | .d => 3#2

/-- The name of each code that has one. -/
def Sz.ofCode (c : BitVec 2) : Option Sz :=
  match c.toNat with
  | 0 => some .b
  | 1 => some .h
  | 2 => some .w
  | _ => some .d

/-- The code of each name. -/
def LdKind.code : LdKind → BitVec 3
  | .b => 0#3
  | .h => 1#3
  | .w => 2#3
  | .d => 3#3
  | .bz => 4#3
  | .hz => 5#3
  | .wz => 6#3

/-- The name of each code that has one. -/
def LdKind.ofCode (c : BitVec 3) : Option LdKind :=
  match c.toNat with
  | 0 => some .b
  | 1 => some .h
  | 2 => some .w
  | 3 => some .d
  | 4 => some .bz
  | 5 => some .hz
  | 6 => some .wz
  | _ => none

/-- The code of each name. -/
def AmoOp.code : AmoOp → BitVec 5
  | .swap => 0#5
  | .add => 1#5
  | .and => 2#5
  | .or => 3#5
  | .xor => 4#5
  | .min => 5#5
  | .max => 6#5
  | .minu => 7#5
  | .maxu => 8#5

/-- The name of each code that has one. -/
def AmoOp.ofCode (c : BitVec 5) : Option AmoOp :=
  match c.toNat with
  | 0 => some .swap
  | 1 => some .add
  | 2 => some .and
  | 3 => some .or
  | 4 => some .xor
  | 5 => some .min
  | 6 => some .max
  | 7 => some .minu
  | 8 => some .maxu
  | _ => none

/-- The code of each name. -/
def RedOp.code : RedOp → BitVec 3
  | .iadd => 0#3
  | .fadd => 1#3
  | .min => 2#3
  | .max => 3#3
  | .minu => 4#3
  | .maxu => 5#3
  | .fmin => 6#3
  | .fmax => 7#3

/-- The name of each code that has one. -/
def RedOp.ofCode (c : BitVec 3) : Option RedOp :=
  match c.toNat with
  | 0 => some .iadd
  | 1 => some .fadd
  | 2 => some .min
  | 3 => some .max
  | 4 => some .minu
  | 5 => some .maxu
  | 6 => some .fmin
  | _ => some .fmax

/-- The code of each name. -/
def VRedOp.code : VRedOp → BitVec 3
  | .fadd => 0#3
  | .fmin => 1#3
  | .fmax => 2#3
  | .iadd => 3#3
  | .imin => 4#3
  | .imax => 5#3

/-- The name of each code that has one. -/
def VRedOp.ofCode (c : BitVec 3) : Option VRedOp :=
  match c.toNat with
  | 0 => some .fadd
  | 1 => some .fmin
  | 2 => some .fmax
  | 3 => some .iadd
  | 4 => some .imin
  | 5 => some .imax
  | _ => none

/-- The code of each name. -/
def Lanes.code : Lanes → BitVec 2
  | .i8 => 0#2
  | .i16 => 1#2
  | .i32 => 2#2

/-- The name of each code that has one. -/
def Lanes.ofCode (c : BitVec 2) : Option Lanes :=
  match c.toNat with
  | 0 => some .i8
  | 1 => some .i16
  | 2 => some .i32
  | _ => none

/-- The code of each name. -/
def ExtW.code : ExtW → BitVec 5
  | .n8 => 0#5
  | .n16 => 1#5
  | .n32 => 2#5

/-- The name of each code that has one. -/
def ExtW.ofCode (c : BitVec 5) : Option ExtW :=
  match c.toNat with
  | 0 => some .n8
  | 1 => some .n16
  | 2 => some .n32
  | _ => none


/-- Major 0x01 (R55). -/
def decMajor01 (w : BitVec 32) : Except Reject Instr :=
  match (w.extractLsb' 23 8).toNat with
  | 0 => .ok (.add (bit w 31) (w.extractLsb' 18 5) (w.extractLsb' 13 5) (w.extractLsb' 8 5))
  | 1 => .ok (.sub (bit w 31) (w.extractLsb' 18 5) (w.extractLsb' 13 5) (w.extractLsb' 8 5))
  | 2 => .ok (.mul (bit w 31) (w.extractLsb' 18 5) (w.extractLsb' 13 5) (w.extractLsb' 8 5))
  | 3 => zero (w.extractLsb' 31 1) (.ok (.mulh (w.extractLsb' 18 5) (w.extractLsb' 13 5) (w.extractLsb' 8 5)))
  | 4 => zero (w.extractLsb' 31 1) (.ok (.mulhu (w.extractLsb' 18 5) (w.extractLsb' 13 5) (w.extractLsb' 8 5)))
  | 5 => .ok (.div (bit w 31) (w.extractLsb' 18 5) (w.extractLsb' 13 5) (w.extractLsb' 8 5))
  | 6 => .ok (.divu (bit w 31) (w.extractLsb' 18 5) (w.extractLsb' 13 5) (w.extractLsb' 8 5))
  | 7 => .ok (.rem (bit w 31) (w.extractLsb' 18 5) (w.extractLsb' 13 5) (w.extractLsb' 8 5))
  | 8 => .ok (.remu (bit w 31) (w.extractLsb' 18 5) (w.extractLsb' 13 5) (w.extractLsb' 8 5))
  | 9 => .ok (.min (bit w 31) (w.extractLsb' 18 5) (w.extractLsb' 13 5) (w.extractLsb' 8 5))
  | 10 => .ok (.max (bit w 31) (w.extractLsb' 18 5) (w.extractLsb' 13 5) (w.extractLsb' 8 5))
  | 11 => .ok (.minu (bit w 31) (w.extractLsb' 18 5) (w.extractLsb' 13 5) (w.extractLsb' 8 5))
  | 12 => .ok (.maxu (bit w 31) (w.extractLsb' 18 5) (w.extractLsb' 13 5) (w.extractLsb' 8 5))
  | 16 => zero (w.extractLsb' 31 1) (.ok (.lea (w.extractLsb' 23 2) (w.extractLsb' 18 5) (w.extractLsb' 13 5) (w.extractLsb' 8 5)))
  | 17 => zero (w.extractLsb' 31 1) (.ok (.lea (w.extractLsb' 23 2) (w.extractLsb' 18 5) (w.extractLsb' 13 5) (w.extractLsb' 8 5)))
  | 18 => zero (w.extractLsb' 31 1) (.ok (.lea (w.extractLsb' 23 2) (w.extractLsb' 18 5) (w.extractLsb' 13 5) (w.extractLsb' 8 5)))
  | 19 => zero (w.extractLsb' 31 1) (.ok (.lea (w.extractLsb' 23 2) (w.extractLsb' 18 5) (w.extractLsb' 13 5) (w.extractLsb' 8 5)))
  | _ => .error .unassignedFunc

/-- Major 0x02 (R55). -/
def decMajor02 (w : BitVec 32) : Except Reject Instr :=
  match (w.extractLsb' 23 8).toNat with
  | 0 => zero (w.extractLsb' 31 1) (.ok (.and (w.extractLsb' 18 5) (w.extractLsb' 13 5) (w.extractLsb' 8 5)))
  | 1 => zero (w.extractLsb' 31 1) (.ok (.or (w.extractLsb' 18 5) (w.extractLsb' 13 5) (w.extractLsb' 8 5)))
  | 2 => zero (w.extractLsb' 31 1) (.ok (.xor (w.extractLsb' 18 5) (w.extractLsb' 13 5) (w.extractLsb' 8 5)))
  | 3 => zero (w.extractLsb' 31 1) (.ok (.andn (w.extractLsb' 18 5) (w.extractLsb' 13 5) (w.extractLsb' 8 5)))
  | 4 => zero (w.extractLsb' 31 1) (.ok (.orn (w.extractLsb' 18 5) (w.extractLsb' 13 5) (w.extractLsb' 8 5)))
  | 5 => .ok (.sll (bit w 31) (w.extractLsb' 18 5) (w.extractLsb' 13 5) (w.extractLsb' 8 5))
  | 6 => .ok (.srl (bit w 31) (w.extractLsb' 18 5) (w.extractLsb' 13 5) (w.extractLsb' 8 5))
  | 7 => .ok (.sra (bit w 31) (w.extractLsb' 18 5) (w.extractLsb' 13 5) (w.extractLsb' 8 5))
  | 8 => .ok (.rot (bit w 31) (w.extractLsb' 18 5) (w.extractLsb' 13 5) (w.extractLsb' 8 5))
  | 9 => zero (w.extractLsb' 18 5) (.ok (.clz (bit w 31) (w.extractLsb' 13 5) (w.extractLsb' 8 5)))
  | 10 => zero (w.extractLsb' 18 5) (.ok (.ctz (bit w 31) (w.extractLsb' 13 5) (w.extractLsb' 8 5)))
  | 11 => zero (w.extractLsb' 18 5) (.ok (.popc (bit w 31) (w.extractLsb' 13 5) (w.extractLsb' 8 5)))
  | 12 => zero (w.extractLsb' 31 1) (zero (w.extractLsb' 18 5) (.ok (.bswap (w.extractLsb' 13 5) (w.extractLsb' 8 5))))
  | 13 => zero (w.extractLsb' 31 1) (code (ExtW.ofCode (w.extractLsb' 18 5)) fun en => .ok (.sext en (w.extractLsb' 13 5) (w.extractLsb' 8 5)))
  | 14 => zero (w.extractLsb' 31 1) (code (ExtW.ofCode (w.extractLsb' 18 5)) fun en => .ok (.zext en (w.extractLsb' 13 5) (w.extractLsb' 8 5)))
  | _ => .error .unassignedFunc

/-- Major 0x03 (R55). -/
def decMajor03 (w : BitVec 32) : Except Reject Instr :=
  .ok (.addi (w.extractLsb' 18 14) (w.extractLsb' 13 5) (w.extractLsb' 8 5))

/-- Major 0x04 (R55). -/
def decMajor04 (w : BitVec 32) : Except Reject Instr :=
  .ok (.andi (w.extractLsb' 18 14) (w.extractLsb' 13 5) (w.extractLsb' 8 5))

/-- Major 0x05 (R55). -/
def decMajor05 (w : BitVec 32) : Except Reject Instr :=
  .ok (.ori (w.extractLsb' 18 14) (w.extractLsb' 13 5) (w.extractLsb' 8 5))

/-- Major 0x06 (R55). -/
def decMajor06 (w : BitVec 32) : Except Reject Instr :=
  .ok (.xori (w.extractLsb' 18 14) (w.extractLsb' 13 5) (w.extractLsb' 8 5))

/-- Major 0x07 (R55). -/
def decMajor07 (w : BitVec 32) : Except Reject Instr :=
  match (w.extractLsb' 30 2).toNat with
  | 0 => zero (w.extractLsb' 24 5) (.ok (.slli (bit w 29) (w.extractLsb' 18 6) (w.extractLsb' 13 5) (w.extractLsb' 8 5)))
  | 1 => zero (w.extractLsb' 24 5) (.ok (.srli (bit w 29) (w.extractLsb' 18 6) (w.extractLsb' 13 5) (w.extractLsb' 8 5)))
  | 2 => zero (w.extractLsb' 24 5) (.ok (.srai (bit w 29) (w.extractLsb' 18 6) (w.extractLsb' 13 5) (w.extractLsb' 8 5)))
  | _ => zero (w.extractLsb' 24 5) (.ok (.roti (bit w 29) (w.extractLsb' 18 6) (w.extractLsb' 13 5) (w.extractLsb' 8 5)))

/-- Major 0x08 (R55). -/
def decMajor08 (w : BitVec 32) : Except Reject Instr :=
  .ok (.lui (w.extractLsb' 13 19) (w.extractLsb' 8 5))

/-- Major 0x09 (R55). -/
def decMajor09 (w : BitVec 32) : Except Reject Instr :=
  .ok (.auipc (w.extractLsb' 13 19) (w.extractLsb' 8 5))

/-- Major 0x0a (R55). -/
def decMajor0a (w : BitVec 32) : Except Reject Instr :=
  match (w.extractLsb' 30 2).toNat with
  | 0 => .ok (.bfx (w.extractLsb' 24 6) (w.extractLsb' 18 6) (w.extractLsb' 13 5) (w.extractLsb' 8 5))
  | 1 => .ok (.bfxu (w.extractLsb' 24 6) (w.extractLsb' 18 6) (w.extractLsb' 13 5) (w.extractLsb' 8 5))
  | 2 => .ok (.bfi (w.extractLsb' 24 6) (w.extractLsb' 18 6) (w.extractLsb' 13 5) (w.extractLsb' 8 5))
  | _ => .error .unassignedFunc

/-- Major 0x0b (R55). -/
def decMajor0b (w : BitVec 32) : Except Reject Instr :=
  zero (w.extractLsb' 23 3) (code (Cond.ofCode (w.extractLsb' 26 4)) fun ec => .ok (.pcmp (bit w 31) (bit w 30) ec (w.extractLsb' 18 5) (w.extractLsb' 13 5) (w.extractLsb' 8 5)))

/-- Major 0x0c (R55). -/
def decMajor0c (w : BitVec 32) : Except Reject Instr :=
  zero (w.extractLsb' 11 2) (code (Cond.ofCode (w.extractLsb' 28 4)) fun ec => .ok (.pcmpi ec (w.extractLsb' 18 10) (w.extractLsb' 13 5) (w.extractLsb' 8 3)))

/-- Major 0x0d (R55). -/
def decMajor0d (w : BitVec 32) : Except Reject Instr :=
  match (w.extractLsb' 23 6).toNat with
  | 0 => zero (w.extractLsb' 29 3) (zero (w.extractLsb' 21 2) (zero (w.extractLsb' 16 2) (zero (w.extractLsb' 11 2) (.ok (.pand (w.extractLsb' 18 3) (w.extractLsb' 13 3) (w.extractLsb' 8 3))))))
  | 1 => zero (w.extractLsb' 29 3) (zero (w.extractLsb' 21 2) (zero (w.extractLsb' 16 2) (zero (w.extractLsb' 11 2) (.ok (.por (w.extractLsb' 18 3) (w.extractLsb' 13 3) (w.extractLsb' 8 3))))))
  | 2 => zero (w.extractLsb' 29 3) (zero (w.extractLsb' 21 2) (zero (w.extractLsb' 16 2) (zero (w.extractLsb' 11 2) (.ok (.pxor (w.extractLsb' 18 3) (w.extractLsb' 13 3) (w.extractLsb' 8 3))))))
  | 3 => zero (w.extractLsb' 29 3) (zero (w.extractLsb' 16 7) (zero (w.extractLsb' 11 2) (.ok (.pnot (w.extractLsb' 13 3) (w.extractLsb' 8 3)))))
  | 4 => .ok (.sel (w.extractLsb' 29 3) (w.extractLsb' 18 5) (w.extractLsb' 13 5) (w.extractLsb' 8 5))
  | _ => .error .unassignedFunc

/-- Major 0x0e (R55). -/
def decMajor0e (w : BitVec 32) : Except Reject Instr :=
  zero (w.extractLsb' 23 9) (.ok (.mix (w.extractLsb' 18 5) (w.extractLsb' 13 5) (w.extractLsb' 8 5)))

/-- Major 0x10 (R55). -/
def decMajor10 (w : BitVec 32) : Except Reject Instr :=
  code (BCond.ofCode (w.extractLsb' 8 3)) fun ec => .ok (.bcc (w.extractLsb' 21 11) (w.extractLsb' 16 5) (w.extractLsb' 11 5) ec)

/-- Major 0x11 (R55). -/
def decMajor11 (w : BitVec 32) : Except Reject Instr :=
  zero (w.extractLsb' 16 5) (.ok (.bp (w.extractLsb' 21 11) (bit w 15) (w.extractLsb' 11 4) (w.extractLsb' 8 3)))

/-- Major 0x12 (R55). -/
def decMajor12 (w : BitVec 32) : Except Reject Instr :=
  match (w.extractLsb' 8 1).toNat with
  | 0 => .ok (.j (w.extractLsb' 9 23))
  | _ => .ok (.jl (w.extractLsb' 9 23))

/-- Major 0x13 (R55). -/
def decMajor13 (w : BitVec 32) : Except Reject Instr :=
  if w.extractLsb' 8 5 = 0#5 then .ok (.jr (w.extractLsb' 18 14) (w.extractLsb' 13 5))
  else .ok (.jlr (w.extractLsb' 18 14) (w.extractLsb' 13 5) (w.extractLsb' 8 5))

/-- Major 0x14 (R55). -/
def decMajor14 (w : BitVec 32) : Except Reject Instr :=
  zero (w.extractLsb' 9 4) (.ok (.loop (w.extractLsb' 18 14) (w.extractLsb' 13 5) (bit w 8)))

/-- Major 0x15 (R55). -/
def decMajor15 (w : BitVec 32) : Except Reject Instr :=
  .ok (.loopi (w.extractLsb' 18 14) (w.extractLsb' 13 5) (w.extractLsb' 9 4) (bit w 8))

/-- Major 0x16 (R55). -/
def decMajor16 (w : BitVec 32) : Except Reject Instr :=
  zero (w.extractLsb' 26 6) (.ok (.rep (w.extractLsb' 22 4) (w.extractLsb' 16 6) (w.extractLsb' 13 3) (w.extractLsb' 8 5)))

/-- Major 0x17 (R55). -/
def decMajor17 (w : BitVec 32) : Except Reject Instr :=
  code (Fmt.ofCode (w.extractLsb' 28 4)) fun ef => code (Fmt.ofCode (w.extractLsb' 24 4)) fun ee => code (Rm.ofCode (w.extractLsb' 21 3)) fun er => .ok (.cvt ef ee er (w.extractLsb' 18 3) (w.extractLsb' 13 5) (w.extractLsb' 8 5))

/-- Major 0x18 (R55). -/
def decMajor18 (w : BitVec 32) : Except Reject Instr :=
  match (w.extractLsb' 26 5).toNat with
  | 0 => zero (w.extractLsb' 31 1) (code (Rm.ofCode (w.extractLsb' 23 3)) fun er => .ok (.faddS er (w.extractLsb' 18 5) (w.extractLsb' 13 5) (w.extractLsb' 8 5)))
  | 1 => zero (w.extractLsb' 31 1) (code (Rm.ofCode (w.extractLsb' 23 3)) fun er => .ok (.fsubS er (w.extractLsb' 18 5) (w.extractLsb' 13 5) (w.extractLsb' 8 5)))
  | 2 => zero (w.extractLsb' 31 1) (code (Rm.ofCode (w.extractLsb' 23 3)) fun er => .ok (.fmulS er (w.extractLsb' 18 5) (w.extractLsb' 13 5) (w.extractLsb' 8 5)))
  | 3 => zero (w.extractLsb' 31 1) (code (Rm.ofCode (w.extractLsb' 23 3)) fun er => .ok (.fdivS er (w.extractLsb' 18 5) (w.extractLsb' 13 5) (w.extractLsb' 8 5)))
  | 4 => zero (w.extractLsb' 31 1) (zero (w.extractLsb' 18 5) (code (Rm.ofCode (w.extractLsb' 23 3)) fun er => .ok (.fsqrtS er (w.extractLsb' 13 5) (w.extractLsb' 8 5))))
  | 5 => zero (w.extractLsb' 31 1) (zero (w.extractLsb' 23 3) (.ok (.fminS (w.extractLsb' 18 5) (w.extractLsb' 13 5) (w.extractLsb' 8 5))))
  | 6 => zero (w.extractLsb' 31 1) (zero (w.extractLsb' 23 3) (.ok (.fmaxS (w.extractLsb' 18 5) (w.extractLsb' 13 5) (w.extractLsb' 8 5))))
  | 7 =>
    match (w.extractLsb' 23 3).toNat with
    | 0 => zero (w.extractLsb' 31 1) (.ok (.fsgnS (w.extractLsb' 18 5) (w.extractLsb' 13 5) (w.extractLsb' 8 5)))
    | 1 => zero (w.extractLsb' 31 1) (.ok (.fsgnnS (w.extractLsb' 18 5) (w.extractLsb' 13 5) (w.extractLsb' 8 5)))
    | 2 => zero (w.extractLsb' 31 1) (.ok (.fsgnxS (w.extractLsb' 18 5) (w.extractLsb' 13 5) (w.extractLsb' 8 5)))
    | _ => .error .illegalCode
  | 8 => zero (w.extractLsb' 31 1) (zero (w.extractLsb' 18 8) (.ok (.fclassS (w.extractLsb' 13 5) (w.extractLsb' 8 5))))
  | _ => .error .unassignedFunc

/-- Major 0x19 (R55). -/
def decMajor19 (w : BitVec 32) : Except Reject Instr :=
  match (w.extractLsb' 26 5).toNat with
  | 0 => zero (w.extractLsb' 31 1) (code (Rm.ofCode (w.extractLsb' 23 3)) fun er => .ok (.faddD er (w.extractLsb' 18 5) (w.extractLsb' 13 5) (w.extractLsb' 8 5)))
  | 1 => zero (w.extractLsb' 31 1) (code (Rm.ofCode (w.extractLsb' 23 3)) fun er => .ok (.fsubD er (w.extractLsb' 18 5) (w.extractLsb' 13 5) (w.extractLsb' 8 5)))
  | 2 => zero (w.extractLsb' 31 1) (code (Rm.ofCode (w.extractLsb' 23 3)) fun er => .ok (.fmulD er (w.extractLsb' 18 5) (w.extractLsb' 13 5) (w.extractLsb' 8 5)))
  | 3 => zero (w.extractLsb' 31 1) (code (Rm.ofCode (w.extractLsb' 23 3)) fun er => .ok (.fdivD er (w.extractLsb' 18 5) (w.extractLsb' 13 5) (w.extractLsb' 8 5)))
  | 4 => zero (w.extractLsb' 31 1) (zero (w.extractLsb' 18 5) (code (Rm.ofCode (w.extractLsb' 23 3)) fun er => .ok (.fsqrtD er (w.extractLsb' 13 5) (w.extractLsb' 8 5))))
  | 5 => zero (w.extractLsb' 31 1) (zero (w.extractLsb' 23 3) (.ok (.fminD (w.extractLsb' 18 5) (w.extractLsb' 13 5) (w.extractLsb' 8 5))))
  | 6 => zero (w.extractLsb' 31 1) (zero (w.extractLsb' 23 3) (.ok (.fmaxD (w.extractLsb' 18 5) (w.extractLsb' 13 5) (w.extractLsb' 8 5))))
  | 7 =>
    match (w.extractLsb' 23 3).toNat with
    | 0 => zero (w.extractLsb' 31 1) (.ok (.fsgnD (w.extractLsb' 18 5) (w.extractLsb' 13 5) (w.extractLsb' 8 5)))
    | 1 => zero (w.extractLsb' 31 1) (.ok (.fsgnnD (w.extractLsb' 18 5) (w.extractLsb' 13 5) (w.extractLsb' 8 5)))
    | 2 => zero (w.extractLsb' 31 1) (.ok (.fsgnxD (w.extractLsb' 18 5) (w.extractLsb' 13 5) (w.extractLsb' 8 5)))
    | _ => .error .illegalCode
  | 8 => zero (w.extractLsb' 31 1) (zero (w.extractLsb' 18 8) (.ok (.fclassD (w.extractLsb' 13 5) (w.extractLsb' 8 5))))
  | _ => .error .unassignedFunc

/-- Major 0x1a (R55). -/
def decMajor1a (w : BitVec 32) : Except Reject Instr :=
  match (w.extractLsb' 30 1).toNat with
  | 0 => zero (w.extractLsb' 26 4) (code (Rm.ofCode (w.extractLsb' 23 3)) fun er => .ok (.ffma (bit w 31) er (w.extractLsb' 18 5) (w.extractLsb' 13 5) (w.extractLsb' 8 5)))
  | _ => zero (w.extractLsb' 26 4) (code (Rm.ofCode (w.extractLsb' 23 3)) fun er => .ok (.ffms (bit w 31) er (w.extractLsb' 18 5) (w.extractLsb' 13 5) (w.extractLsb' 8 5)))

/-- Major 0x1b (R55). -/
def decMajor1b (w : BitVec 32) : Except Reject Instr :=
  zero (w.extractLsb' 23 3) (code (Cond.ofCode (w.extractLsb' 26 4)) fun ec => .ok (.fcmp (bit w 31) (bit w 30) ec (w.extractLsb' 18 5) (w.extractLsb' 13 5) (w.extractLsb' 8 5)))

/-- Major 0x1c (R55). -/
def decMajor1c (w : BitVec 32) : Except Reject Instr :=
  if w.extractLsb' 18 12 = 0x036#12 then zero (w.extractLsb' 30 2) (zero (w.extractLsb' 13 5) (.ok (.cplaunch (w.extractLsb' 8 5))))
  else zero (w.extractLsb' 30 2) (zero (w.extractLsb' 13 5) (.ok (.mfs (w.extractLsb' 18 12) (w.extractLsb' 8 5))))

/-- Major 0x1d (R55). -/
def decMajor1d (w : BitVec 32) : Except Reject Instr :=
  zero (w.extractLsb' 30 2) (zero (w.extractLsb' 8 5) (.ok (.mts (w.extractLsb' 18 12) (w.extractLsb' 13 5))))

/-- Major 0x1e (R55). -/
def decMajor1e (w : BitVec 32) : Except Reject Instr :=
  match (w.extractLsb' 23 8).toNat with
  | 0 => zero (w.extractLsb' 31 1) (zero (w.extractLsb' 8 5) (.ok (.trap (w.extractLsb' 18 5) (w.extractLsb' 13 5))))
  | 1 => zero (w.extractLsb' 31 1) (zero (w.extractLsb' 8 15) (.ok .eret))
  | 2 => zero (w.extractLsb' 31 1) (zero (w.extractLsb' 8 15) (.ok .yield))
  | 3 => zero (w.extractLsb' 31 1) (zero (w.extractLsb' 8 15) (.ok .suspend))
  | 4 => zero (w.extractLsb' 31 1) (zero (w.extractLsb' 8 15) (.ok .wfw))
  | 5 => zero (w.extractLsb' 31 1) (zero (w.extractLsb' 8 15) (.ok .bkpt))
  | 6 => zero (w.extractLsb' 31 1) (zero (w.extractLsb' 8 15) (.ok .nop))
  | 7 => zero (w.extractLsb' 31 1) (zero (w.extractLsb' 8 15) (.ok .waite))
  | _ => .error .unassignedFunc

/-- Major 0x1f (R55). -/
def decMajor1f (w : BitVec 32) : Except Reject Instr :=
  match (w.extractLsb' 23 8).toNat with
  | 0 => zero (w.extractLsb' 31 1) (zero (w.extractLsb' 8 5) (.ok (.ctxsave (w.extractLsb' 18 5) (w.extractLsb' 13 5))))
  | 1 => zero (w.extractLsb' 31 1) (zero (w.extractLsb' 18 5) (zero (w.extractLsb' 8 5) (.ok (.ctxload (w.extractLsb' 13 5)))))
  | 2 => zero (w.extractLsb' 31 1) (.ok (.atr (w.extractLsb' 18 5) (w.extractLsb' 13 5) (w.extractLsb' 8 5)))
  | 3 => zero (w.extractLsb' 31 1) (zero (w.extractLsb' 8 5) (.ok (.tlbfl (w.extractLsb' 18 5) (w.extractLsb' 13 5))))
  | 4 => zero (w.extractLsb' 31 1) (zero (w.extractLsb' 18 5) (zero (w.extractLsb' 8 5) (.ok (.haltp (w.extractLsb' 13 5)))))
  | 5 => zero (w.extractLsb' 31 1) (zero (w.extractLsb' 18 5) (.ok (.selftest (w.extractLsb' 13 5) (w.extractLsb' 8 5))))
  | _ => .error .unassignedFunc

/-- Major 0x20 (R55). -/
def decMajor20 (w : BitVec 32) : Except Reject Instr :=
  match (w.extractLsb' 27 4).toNat with
  | 0 => zero (w.extractLsb' 23 1) (code (Rm.ofCode (w.extractLsb' 24 3)) fun er => .ok (.vadd (bit w 31) er (w.extractLsb' 20 3) (w.extractLsb' 16 4) (w.extractLsb' 12 4) (w.extractLsb' 8 4)))
  | 1 => zero (w.extractLsb' 23 1) (code (Rm.ofCode (w.extractLsb' 24 3)) fun er => .ok (.vsub (bit w 31) er (w.extractLsb' 20 3) (w.extractLsb' 16 4) (w.extractLsb' 12 4) (w.extractLsb' 8 4)))
  | 2 => zero (w.extractLsb' 23 1) (code (Rm.ofCode (w.extractLsb' 24 3)) fun er => .ok (.vmul (bit w 31) er (w.extractLsb' 20 3) (w.extractLsb' 16 4) (w.extractLsb' 12 4) (w.extractLsb' 8 4)))
  | 3 => zero (w.extractLsb' 23 1) (code (Rm.ofCode (w.extractLsb' 24 3)) fun er => .ok (.vfma (bit w 31) er (w.extractLsb' 20 3) (w.extractLsb' 16 4) (w.extractLsb' 12 4) (w.extractLsb' 8 4)))
  | 4 => zero (w.extractLsb' 23 1) (code (Rm.ofCode (w.extractLsb' 24 3)) fun er => .ok (.vfms (bit w 31) er (w.extractLsb' 20 3) (w.extractLsb' 16 4) (w.extractLsb' 12 4) (w.extractLsb' 8 4)))
  | 5 => zero (w.extractLsb' 23 4) (.ok (.vmin (bit w 31) (w.extractLsb' 20 3) (w.extractLsb' 16 4) (w.extractLsb' 12 4) (w.extractLsb' 8 4)))
  | 6 => zero (w.extractLsb' 23 4) (.ok (.vmax (bit w 31) (w.extractLsb' 20 3) (w.extractLsb' 16 4) (w.extractLsb' 12 4) (w.extractLsb' 8 4)))
  | 7 => zero (w.extractLsb' 23 4) (zero (w.extractLsb' 16 4) (.ok (.vabs (bit w 31) (w.extractLsb' 20 3) (w.extractLsb' 12 4) (w.extractLsb' 8 4))))
  | 8 => zero (w.extractLsb' 23 4) (zero (w.extractLsb' 16 4) (.ok (.vneg (bit w 31) (w.extractLsb' 20 3) (w.extractLsb' 12 4) (w.extractLsb' 8 4))))
  | 9 => zero (w.extractLsb' 31 1) (zero (w.extractLsb' 23 1) (zero (w.extractLsb' 16 4) (code (Rm.ofCode (w.extractLsb' 24 3)) fun er => .ok (.vrcp er (w.extractLsb' 20 3) (w.extractLsb' 12 4) (w.extractLsb' 8 4)))))
  | 10 => zero (w.extractLsb' 31 1) (zero (w.extractLsb' 23 1) (zero (w.extractLsb' 16 4) (code (Rm.ofCode (w.extractLsb' 24 3)) fun er => .ok (.vrsq er (w.extractLsb' 20 3) (w.extractLsb' 12 4) (w.extractLsb' 8 4)))))
  | 11 => zero (w.extractLsb' 31 1) (zero (w.extractLsb' 23 1) (zero (w.extractLsb' 16 4) (code (Rm.ofCode (w.extractLsb' 24 3)) fun er => .ok (.vexp2 er (w.extractLsb' 20 3) (w.extractLsb' 12 4) (w.extractLsb' 8 4)))))
  | _ => .error .unassignedFunc

/-- Major 0x21 (R55). -/
def decMajor21 (w : BitVec 32) : Except Reject Instr :=
  match (w.extractLsb' 26 4).toNat with
  | 0 => zero (w.extractLsb' 23 3) (code (Lanes.ofCode (w.extractLsb' 30 2)) fun el => .ok (.viadd el (w.extractLsb' 20 3) (w.extractLsb' 16 4) (w.extractLsb' 12 4) (w.extractLsb' 8 4)))
  | 1 => zero (w.extractLsb' 23 3) (code (Lanes.ofCode (w.extractLsb' 30 2)) fun el => .ok (.visub el (w.extractLsb' 20 3) (w.extractLsb' 16 4) (w.extractLsb' 12 4) (w.extractLsb' 8 4)))
  | 2 => zero (w.extractLsb' 23 3) (code (Lanes.ofCode (w.extractLsb' 30 2)) fun el => .ok (.vimul el (w.extractLsb' 20 3) (w.extractLsb' 16 4) (w.extractLsb' 12 4) (w.extractLsb' 8 4)))
  | 3 => zero (w.extractLsb' 23 3) (code (Lanes.ofCode (w.extractLsb' 30 2)) fun el => .ok (.vimad el (w.extractLsb' 20 3) (w.extractLsb' 16 4) (w.extractLsb' 12 4) (w.extractLsb' 8 4)))
  | 4 => zero (w.extractLsb' 23 3) (code (Lanes.ofCode (w.extractLsb' 30 2)) fun el => .ok (.vimin el (w.extractLsb' 20 3) (w.extractLsb' 16 4) (w.extractLsb' 12 4) (w.extractLsb' 8 4)))
  | 5 => zero (w.extractLsb' 23 3) (code (Lanes.ofCode (w.extractLsb' 30 2)) fun el => .ok (.vimax el (w.extractLsb' 20 3) (w.extractLsb' 16 4) (w.extractLsb' 12 4) (w.extractLsb' 8 4)))
  | 6 => zero (w.extractLsb' 23 3) (code (Lanes.ofCode (w.extractLsb' 30 2)) fun el => .ok (.vand el (w.extractLsb' 20 3) (w.extractLsb' 16 4) (w.extractLsb' 12 4) (w.extractLsb' 8 4)))
  | 7 => zero (w.extractLsb' 23 3) (code (Lanes.ofCode (w.extractLsb' 30 2)) fun el => .ok (.vor el (w.extractLsb' 20 3) (w.extractLsb' 16 4) (w.extractLsb' 12 4) (w.extractLsb' 8 4)))
  | 8 => zero (w.extractLsb' 23 3) (code (Lanes.ofCode (w.extractLsb' 30 2)) fun el => .ok (.vxor el (w.extractLsb' 20 3) (w.extractLsb' 16 4) (w.extractLsb' 12 4) (w.extractLsb' 8 4)))
  | 9 => zero (w.extractLsb' 23 3) (code (Lanes.ofCode (w.extractLsb' 30 2)) fun el => .ok (.vsll el (w.extractLsb' 20 3) (w.extractLsb' 16 4) (w.extractLsb' 12 4) (w.extractLsb' 8 4)))
  | 10 => zero (w.extractLsb' 23 3) (code (Lanes.ofCode (w.extractLsb' 30 2)) fun el => .ok (.vsrl el (w.extractLsb' 20 3) (w.extractLsb' 16 4) (w.extractLsb' 12 4) (w.extractLsb' 8 4)))
  | 11 => zero (w.extractLsb' 23 3) (code (Lanes.ofCode (w.extractLsb' 30 2)) fun el => .ok (.vsra el (w.extractLsb' 20 3) (w.extractLsb' 16 4) (w.extractLsb' 12 4) (w.extractLsb' 8 4)))
  | 12 => zero (w.extractLsb' 23 3) (zero (w.extractLsb' 16 4) (code (Lanes.ofCode (w.extractLsb' 30 2)) fun el => .ok (.viabs el (w.extractLsb' 20 3) (w.extractLsb' 12 4) (w.extractLsb' 8 4))))
  | _ => .error .unassignedFunc

/-- Major 0x22 (R55). -/
def decMajor22 (w : BitVec 32) : Except Reject Instr :=
  zero (w.extractLsb' 23 4) (zero (w.extractLsb' 11 1) (code (Cond.ofCode (w.extractLsb' 27 4)) fun ec => .ok (.vcmp (bit w 31) ec (w.extractLsb' 20 3) (w.extractLsb' 16 4) (w.extractLsb' 12 4) (w.extractLsb' 8 3))))

/-- Major 0x23 (R55). -/
def decMajor23 (w : BitVec 32) : Except Reject Instr :=
  match (w.extractLsb' 29 3).toNat with
  | 0 => zero (w.extractLsb' 23 6) (.ok (.vsel (w.extractLsb' 20 3) (w.extractLsb' 16 4) (w.extractLsb' 12 4) (w.extractLsb' 8 4)))
  | 1 => zero (w.extractLsb' 23 6) (.ok (.vperm (w.extractLsb' 20 3) (w.extractLsb' 16 4) (w.extractLsb' 12 4) (w.extractLsb' 8 4)))
  | 2 => zero (w.extractLsb' 23 6) (zero (w.extractLsb' 16 4) (.ok (.vrev (w.extractLsb' 20 3) (w.extractLsb' 12 4) (w.extractLsb' 8 4))))
  | 3 => .ok (.vslide (w.extractLsb' 23 6) (w.extractLsb' 20 3) (w.extractLsb' 16 4) (w.extractLsb' 12 4) (w.extractLsb' 8 4))
  | 4 => zero (w.extractLsb' 23 6) (.ok (.vzip (w.extractLsb' 20 3) (w.extractLsb' 16 4) (w.extractLsb' 12 4) (w.extractLsb' 8 4)))
  | 5 => zero (w.extractLsb' 23 6) (zero (w.extractLsb' 16 4) (.ok (.vunzip (w.extractLsb' 20 3) (w.extractLsb' 12 4) (w.extractLsb' 8 4))))
  | _ => .error .unassignedFunc

/-- Major 0x24 (R55). -/
def decMajor24 (w : BitVec 32) : Except Reject Instr :=
  match (w.extractLsb' 29 3).toNat with
  | 0 => zero (w.extractLsb' 23 6) (zero (w.extractLsb' 12 4) (.ok (.vbcast (w.extractLsb' 21 2) (w.extractLsb' 16 5) (w.extractLsb' 8 4))))
  | 1 => zero (w.extractLsb' 21 4) (zero (w.extractLsb' 8 4) (.ok (.vext (w.extractLsb' 25 4) (w.extractLsb' 16 5) (w.extractLsb' 12 4))))
  | 2 => zero (w.extractLsb' 21 4) (zero (w.extractLsb' 12 4) (.ok (.vins (w.extractLsb' 25 4) (w.extractLsb' 16 5) (w.extractLsb' 8 4))))
  | 3 => zero (w.extractLsb' 23 6) (zero (w.extractLsb' 12 4) (.ok (.viota (w.extractLsb' 21 2) (w.extractLsb' 16 5) (w.extractLsb' 8 4))))
  | 4 => zero (w.extractLsb' 23 6) (.ok (.vmix (w.extractLsb' 21 2) (w.extractLsb' 16 5) (w.extractLsb' 12 4) (w.extractLsb' 8 4)))
  | _ => .error .unassignedFunc

/-- Major 0x25 (R55). -/
def decMajor25 (w : BitVec 32) : Except Reject Instr :=
  match (w.extractLsb' 31 1).toNat with
  | 0 => zero (w.extractLsb' 23 2) (zero (w.extractLsb' 16 4) (code (VRedOp.ofCode (w.extractLsb' 28 3)) fun eo => code (Rm.ofCode (w.extractLsb' 25 3)) fun er => .ok (.vred eo er (w.extractLsb' 20 3) (w.extractLsb' 12 4) (w.extractLsb' 8 4))))
  | _ => zero (w.extractLsb' 23 2) (zero (w.extractLsb' 16 4) (code (VRedOp.ofCode (w.extractLsb' 28 3)) fun eo => code (Rm.ofCode (w.extractLsb' 25 3)) fun er => .ok (.vscan eo er (w.extractLsb' 20 3) (w.extractLsb' 12 4) (w.extractLsb' 8 4))))

/-- Major 0x26 (R55). -/
def decMajor26 (w : BitVec 32) : Except Reject Instr :=
  zero (w.extractLsb' 23 2) (code (Fmt.ofCode (w.extractLsb' 28 4)) fun ef => code (Rm.ofCode (w.extractLsb' 25 3)) fun er => .ok (.vdot ef er (w.extractLsb' 20 3) (w.extractLsb' 16 4) (w.extractLsb' 12 4) (w.extractLsb' 8 4)))

/-- Major 0x27 (R55). -/
def decMajor27 (w : BitVec 32) : Except Reject Instr :=
  match (w.extractLsb' 30 2).toNat with
  | 0 => code (Fmt.ofCode (w.extractLsb' 26 4)) fun ef => code (Rm.ofCode (w.extractLsb' 23 3)) fun er => code (Fmt.ofCode (w.extractLsb' 16 4)) fun ee => .ok (.vcvt ef er (w.extractLsb' 20 3) ee (w.extractLsb' 12 4) (w.extractLsb' 8 4))
  | 1 => code (Fmt.ofCode (w.extractLsb' 26 4)) fun ef => code (Rm.ofCode (w.extractLsb' 23 3)) fun er => .ok (.vpack ef er (w.extractLsb' 20 3) (w.extractLsb' 16 4) (w.extractLsb' 12 4) (w.extractLsb' 8 4))
  | 2 => zero (w.extractLsb' 23 3) (zero (w.extractLsb' 17 3) (code (Fmt.ofCode (w.extractLsb' 26 4)) fun ef => .ok (.vunpk ef (w.extractLsb' 20 3) (bit w 16) (w.extractLsb' 12 4) (w.extractLsb' 8 4))))
  | _ => code (Fmt.ofCode (w.extractLsb' 26 4)) fun ef => code (Rm.ofCode (w.extractLsb' 23 3)) fun er => .ok (.vbscale ef er (w.extractLsb' 20 3) (w.extractLsb' 16 4) (w.extractLsb' 12 4) (w.extractLsb' 8 4))

/-- Major 0x2c (R55). -/
def decMajor2c (w : BitVec 32) : Except Reject Instr :=
  if w.extractLsb' 18 3 = 7#3 then code (Sz.ofCode (w.extractLsb' 27 2)) fun ez => .ok (.ldWindow (w.extractLsb' 29 3) ez (w.extractLsb' 21 6) (w.extractLsb' 13 5) (w.extractLsb' 8 5))
  else code (LdKind.ofCode (w.extractLsb' 18 3)) fun ek => .ok (.ld (w.extractLsb' 21 11) ek (w.extractLsb' 13 5) (w.extractLsb' 8 5))

/-- Major 0x2d (R55). -/
def decMajor2d (w : BitVec 32) : Except Reject Instr :=
  zero (w.extractLsb' 20 1) (code (Sz.ofCode (w.extractLsb' 18 2)) fun ek => .ok (.st (w.extractLsb' 21 11) ek (w.extractLsb' 13 5) (w.extractLsb' 8 5)))

/-- Major 0x2e (R55). -/
def decMajor2e (w : BitVec 32) : Except Reject Instr :=
  match (w.extractLsb' 18 3).toNat with
  | 0 => zero (w.extractLsb' 12 1) (.ok (.vld (w.extractLsb' 21 11) (w.extractLsb' 13 5) (w.extractLsb' 8 4)))
  | 1 => zero (w.extractLsb' 12 1) (.ok (.vst (w.extractLsb' 21 11) (w.extractLsb' 13 5) (w.extractLsb' 8 4)))
  | 2 => zero (w.extractLsb' 12 1) (.ok (.vlds (w.extractLsb' 29 3) (w.extractLsb' 21 8) (w.extractLsb' 13 5) (w.extractLsb' 8 4)))
  | 3 => zero (w.extractLsb' 12 1) (.ok (.vsts (w.extractLsb' 29 3) (w.extractLsb' 21 8) (w.extractLsb' 13 5) (w.extractLsb' 8 4)))
  | 4 => .ok (.ldp (w.extractLsb' 21 11) (w.extractLsb' 13 5) (w.extractLsb' 8 5))
  | 5 => zero (w.extractLsb' 12 1) (.ok (.vldp (w.extractLsb' 21 11) (w.extractLsb' 13 5) (w.extractLsb' 8 4)))
  | 6 => zero (w.extractLsb' 12 1) (.ok (.vldWindow (w.extractLsb' 29 3) (w.extractLsb' 21 8) (w.extractLsb' 13 5) (w.extractLsb' 8 4)))
  | _ => .error .unassignedFunc

/-- Major 0x2f (R55). -/
def decMajor2f (w : BitVec 32) : Except Reject Instr :=
  match (w.extractLsb' 26 5).toNat with
  | 9 => zero (w.extractLsb' 23 3) (.ok (.cas (bit w 31) (w.extractLsb' 18 5) (w.extractLsb' 13 5) (w.extractLsb' 8 5)))
  | 10 => zero (w.extractLsb' 18 8) (.ok (.lda (bit w 31) (w.extractLsb' 13 5) (w.extractLsb' 8 5)))
  | 11 => zero (w.extractLsb' 23 3) (zero (w.extractLsb' 8 5) (.ok (.stl (bit w 31) (w.extractLsb' 18 5) (w.extractLsb' 13 5))))
  | 12 => zero (w.extractLsb' 31 1) (zero (w.extractLsb' 8 18) (.ok .acq))
  | 13 => zero (w.extractLsb' 31 1) (zero (w.extractLsb' 8 18) (.ok .rel))
  | 14 => zero (w.extractLsb' 31 1) (zero (w.extractLsb' 8 18) (.ok .fence))
  | _ => zero (w.extractLsb' 23 3) (code (AmoOp.ofCode (w.extractLsb' 26 5)) fun eo => .ok (.amo (bit w 31) eo (w.extractLsb' 18 5) (w.extractLsb' 13 5) (w.extractLsb' 8 5)))

/-- Major 0x30 (R55). -/
def decMajor30 (w : BitVec 32) : Except Reject Instr :=
  zero (w.extractLsb' 23 5) (zero (w.extractLsb' 8 5) (code (RedOp.ofCode (w.extractLsb' 29 3)) fun eo => .ok (.red eo (bit w 28) (w.extractLsb' 18 5) (w.extractLsb' 13 5))))

/-- Major 0x31 (R55). -/
def decMajor31 (w : BitVec 32) : Except Reject Instr :=
  match (w.extractLsb' 30 2).toNat with
  | 0 => zero (w.extractLsb' 22 6) (zero (w.extractLsb' 12 1) (.ok (.vgather (w.extractLsb' 28 2) (w.extractLsb' 18 4) (w.extractLsb' 13 5) (w.extractLsb' 8 4))))
  | 1 => zero (w.extractLsb' 22 6) (zero (w.extractLsb' 12 1) (.ok (.vscatter (w.extractLsb' 28 2) (w.extractLsb' 18 4) (w.extractLsb' 13 5) (w.extractLsb' 8 4))))
  | 2 => zero (w.extractLsb' 23 2) (code (Sz.ofCode (w.extractLsb' 26 2)) fun ez => .ok (.ldx (w.extractLsb' 28 2) ez (bit w 25) (w.extractLsb' 18 5) (w.extractLsb' 13 5) (w.extractLsb' 8 5)))
  | _ => zero (w.extractLsb' 23 3) (code (Sz.ofCode (w.extractLsb' 26 2)) fun ez => .ok (.stx (w.extractLsb' 28 2) ez (w.extractLsb' 18 5) (w.extractLsb' 13 5) (w.extractLsb' 8 5)))

/-- Major 0x32 (R55). -/
def decMajor32 (w : BitVec 32) : Except Reject Instr :=
  match (w.extractLsb' 23 8).toNat with
  | 0 => zero (w.extractLsb' 31 1) (zero (w.extractLsb' 22 1) (.ok (.wenq (w.extractLsb' 18 4) (w.extractLsb' 13 5) (w.extractLsb' 8 5))))
  | 1 => zero (w.extractLsb' 31 1) (zero (w.extractLsb' 18 5) (.ok (.watch (w.extractLsb' 13 5) (w.extractLsb' 8 5))))
  | 2 => zero (w.extractLsb' 31 1) (zero (w.extractLsb' 18 5) (.ok (.unwatch (w.extractLsb' 13 5) (w.extractLsb' 8 5))))
  | 3 => zero (w.extractLsb' 31 1) (zero (w.extractLsb' 18 5) (zero (w.extractLsb' 8 5) (.ok (.pref (w.extractLsb' 13 5)))))
  | 4 => zero (w.extractLsb' 31 1) (zero (w.extractLsb' 18 5) (zero (w.extractLsb' 8 5) (.ok (.cflush (w.extractLsb' 13 5)))))
  | 5 => zero (w.extractLsb' 31 1) (zero (w.extractLsb' 18 5) (zero (w.extractLsb' 8 5) (.ok (.cinv (w.extractLsb' 13 5)))))
  | _ => .error .unassignedFunc

/-- Major 0x34 (R55). -/
def decMajor34 (w : BitVec 32) : Except Reject Instr :=
  match (w.extractLsb' 23 8).toNat with
  | 0 => zero (w.extractLsb' 31 1) (zero (w.extractLsb' 18 5) (.ok (.copyp (w.extractLsb' 13 5) (w.extractLsb' 8 5))))
  | 1 => zero (w.extractLsb' 31 1) (zero (w.extractLsb' 18 5) (.ok (.twaitany (w.extractLsb' 13 5) (w.extractLsb' 8 5))))
  | 2 => zero (w.extractLsb' 31 1) (zero (w.extractLsb' 18 5) (zero (w.extractLsb' 8 5) (.ok (.twaitall (w.extractLsb' 13 5)))))
  | 3 => zero (w.extractLsb' 31 1) (zero (w.extractLsb' 18 5) (.ok (.tfind (w.extractLsb' 13 5) (w.extractLsb' 8 5))))
  | 4 => zero (w.extractLsb' 31 1) (zero (w.extractLsb' 18 5) (.ok (.ttest (w.extractLsb' 13 5) (w.extractLsb' 8 5))))
  | 5 => zero (w.extractLsb' 31 1) (zero (w.extractLsb' 18 5) (zero (w.extractLsb' 8 5) (.ok (.tclr (w.extractLsb' 13 5)))))
  | _ => .error .unassignedFunc

/-- Major 0x35 (R55). -/
def decMajor35 (w : BitVec 32) : Except Reject Instr :=
  match (w.extractLsb' 23 8).toNat with
  | 0 => zero (w.extractLsb' 31 1) (zero (w.extractLsb' 10 3) (.ok (.chopen (w.extractLsb' 18 5) (w.extractLsb' 13 5) (w.extractLsb' 8 2))))
  | 1 => zero (w.extractLsb' 31 1) (zero (w.extractLsb' 10 13) (.ok (.chclose (w.extractLsb' 8 2))))
  | 2 => zero (w.extractLsb' 31 1) (zero (w.extractLsb' 18 5) (zero (w.extractLsb' 8 5) (.ok (.mfree (w.extractLsb' 13 5)))))
  | 3 => zero (w.extractLsb' 31 1) (zero (w.extractLsb' 18 5) (zero (w.extractLsb' 11 2) (.ok (.mbwait (w.extractLsb' 13 5) (w.extractLsb' 8 3)))))
  | _ => .error .unassignedFunc

/-- Major 0x38 (R55). -/
def decMajor38 (w : BitVec 32) : Except Reject Instr :=
  match (w.extractLsb' 29 3).toNat with
  | 0 => zero (w.extractLsb' 18 8) (zero (w.extractLsb' 8 5) (.ok (.put (w.extractLsb' 26 3) (w.extractLsb' 13 5))))
  | 1 => zero (w.extractLsb' 13 13) (.ok (.get (w.extractLsb' 26 3) (w.extractLsb' 8 5)))
  | 2 => zero (w.extractLsb' 17 10) (zero (w.extractLsb' 8 5) (.ok (.putv (w.extractLsb' 27 2) (w.extractLsb' 13 4))))
  | 3 => zero (w.extractLsb' 12 15) (.ok (.getv (w.extractLsb' 27 2) (w.extractLsb' 8 4)))
  | 4 => zero (w.extractLsb' 23 6) (.ok (.psel (w.extractLsb' 18 5) (w.extractLsb' 13 5) (w.extractLsb' 8 5)))
  | _ => .error .unassignedFunc

/-- Major 0x39 (R55). -/
def decMajor39 (w : BitVec 32) : Except Reject Instr :=
  match (w.extractLsb' 31 1).toNat with
  | 0 => zero (w.extractLsb' 21 7) (zero (w.extractLsb' 8 5) (.ok (.putb (w.extractLsb' 28 3) (w.extractLsb' 18 3) (w.extractLsb' 13 5))))
  | _ => zero (w.extractLsb' 21 7) (zero (w.extractLsb' 8 5) (.ok (.getb (w.extractLsb' 28 3) (w.extractLsb' 18 3) (w.extractLsb' 13 5))))

/-- Major 0x3a (R55). -/
def decMajor3a (w : BitVec 32) : Except Reject Instr :=
  match (w.extractLsb' 23 8).toNat with
  | 0 => zero (w.extractLsb' 31 1) (.ok (.cload (w.extractLsb' 18 5) (w.extractLsb' 13 5) (w.extractLsb' 8 5)))
  | 1 => zero (w.extractLsb' 31 1) (zero (w.extractLsb' 18 5) (zero (w.extractLsb' 8 5) (.ok (.cunload (w.extractLsb' 13 5)))))
  | 2 => zero (w.extractLsb' 31 1) (zero (w.extractLsb' 11 2) (.ok (.pbind (w.extractLsb' 18 5) (w.extractLsb' 13 5) (w.extractLsb' 8 3))))
  | 3 => zero (w.extractLsb' 31 1) (zero (w.extractLsb' 11 12) (.ok (.punbind (w.extractLsb' 8 3))))
  | 4 => zero (w.extractLsb' 31 1) (.ok (.cstat (w.extractLsb' 18 5) (w.extractLsb' 13 5) (w.extractLsb' 8 5)))
  | _ => .error .unassignedFunc

/-- Major 0x3b (R55). -/
def decMajor3b (w : BitVec 32) : Except Reject Instr :=
  match (w.extractLsb' 28 4).toNat with
  | 0 =>
    if bit w 27 then zero (w.extractLsb' 21 4) (zero (w.extractLsb' 8 5) (.ok (.tmmaSp (w.extractLsb' 25 2) (w.extractLsb' 18 3) (w.extractLsb' 13 5))))
    else zero (w.extractLsb' 21 6) (zero (w.extractLsb' 8 5) (.ok (.tmma (w.extractLsb' 18 3) (w.extractLsb' 13 5))))
  | 1 => zero (w.extractLsb' 8 20) (.ok .tzero)
  | 2 => zero (w.extractLsb' 21 7) (zero (w.extractLsb' 8 5) (.ok (.tld (w.extractLsb' 18 3) (w.extractLsb' 13 5))))
  | 3 => zero (w.extractLsb' 21 7) (zero (w.extractLsb' 8 5) (.ok (.tst (w.extractLsb' 18 3) (w.extractLsb' 13 5))))
  | 4 => zero (w.extractLsb' 21 7) (zero (w.extractLsb' 8 5) (.ok (.tldb (w.extractLsb' 18 3) (w.extractLsb' 13 5))))
  | 5 => zero (w.extractLsb' 18 10) (zero (w.extractLsb' 8 5) (.ok (.tjoin (w.extractLsb' 13 5))))
  | 6 => zero (w.extractLsb' 18 10) (zero (w.extractLsb' 8 5) (.ok (.twt (w.extractLsb' 13 5))))
  | 7 => zero (w.extractLsb' 18 10) (.ok (.tstat (w.extractLsb' 13 5) (w.extractLsb' 8 5)))
  | _ => .error .unassignedFunc

/-- Major 0x3d (R55). -/
def decMajor3d (w : BitVec 32) : Except Reject Instr :=
  match (w.extractLsb' 23 8).toNat with
  | 0 => zero (w.extractLsb' 31 1) (zero (w.extractLsb' 18 5) (.ok (.tkget (w.extractLsb' 13 5) (w.extractLsb' 8 5))))
  | 1 => zero (w.extractLsb' 31 1) (zero (w.extractLsb' 18 5) (zero (w.extractLsb' 8 5) (.ok (.tkwait (w.extractLsb' 13 5)))))
  | 2 => zero (w.extractLsb' 31 1) (zero (w.extractLsb' 8 15) (.ok .publish))
  | 8 => zero (w.extractLsb' 31 1) (zero (w.extractLsb' 18 5) (.ok (.hnew (w.extractLsb' 13 5) (w.extractLsb' 8 5))))
  | 9 => zero (w.extractLsb' 31 1) (zero (w.extractLsb' 18 5) (.ok (.hcopy (w.extractLsb' 13 5) (w.extractLsb' 8 5))))
  | 10 => zero (w.extractLsb' 31 1) (zero (w.extractLsb' 18 5) (zero (w.extractLsb' 8 5) (.ok (.hdrop (w.extractLsb' 13 5)))))
  | 11 => zero (w.extractLsb' 31 1) (zero (w.extractLsb' 18 5) (.ok (.hwt (w.extractLsb' 13 5) (w.extractLsb' 8 5))))
  | 12 => zero (w.extractLsb' 31 1) (zero (w.extractLsb' 8 5) (.ok (.hbind (w.extractLsb' 18 5) (w.extractLsb' 13 5))))
  | 16 => zero (w.extractLsb' 31 1) (zero (w.extractLsb' 8 5) (.ok (.barinit (w.extractLsb' 18 5) (w.extractLsb' 13 5))))
  | 17 => zero (w.extractLsb' 31 1) (zero (w.extractLsb' 18 5) (.ok (.bari (w.extractLsb' 13 5) (w.extractLsb' 8 5))))
  | 18 => zero (w.extractLsb' 31 1) (zero (w.extractLsb' 8 5) (.ok (.barw (w.extractLsb' 18 5) (w.extractLsb' 13 5))))
  | 19 => zero (w.extractLsb' 31 1) (.ok (.bart (w.extractLsb' 18 5) (w.extractLsb' 13 5) (w.extractLsb' 8 5)))
  | 20 => zero (w.extractLsb' 31 1) (zero (w.extractLsb' 8 5) (.ok (.gbar (w.extractLsb' 18 5) (w.extractLsb' 13 5))))
  | 21 =>
    if bit w 31 then zero (w.extractLsb' 18 5) (zero (w.extractLsb' 8 5) (.ok (.flushpG (w.extractLsb' 13 5))))
    else zero (w.extractLsb' 18 5) (zero (w.extractLsb' 8 5) (.ok (.flushp (w.extractLsb' 13 5))))
  | 22 => zero (w.extractLsb' 31 1) (zero (w.extractLsb' 8 5) (.ok (.redt (w.extractLsb' 18 5) (w.extractLsb' 13 5))))
  | _ => .error .unassignedFunc

/-- Major 0x3e (R55). -/
def decMajor3e (w : BitVec 32) : Except Reject Instr :=
  match (w.extractLsb' 23 8).toNat with
  | 0 => zero (w.extractLsb' 31 1) (zero (w.extractLsb' 18 5) (zero (w.extractLsb' 8 5) (.ok (.spawn (w.extractLsb' 13 5)))))
  | 1 => zero (w.extractLsb' 31 1) (zero (w.extractLsb' 8 15) (.ok .join))
  | 2 => zero (w.extractLsb' 31 1) (zero (w.extractLsb' 18 5) (zero (w.extractLsb' 8 5) (.ok (.tenq (w.extractLsb' 13 5)))))
  | 3 => zero (w.extractLsb' 31 1) (zero (w.extractLsb' 8 15) (.ok .tpick))
  | 4 => zero (w.extractLsb' 31 1) (zero (w.extractLsb' 8 5) (.ok (.tctr (w.extractLsb' 18 5) (w.extractLsb' 13 5))))
  | 5 => zero (w.extractLsb' 31 1) (zero (w.extractLsb' 18 5) (zero (w.extractLsb' 8 5) (.ok (.tdec (w.extractLsb' 13 5)))))
  | 6 => zero (w.extractLsb' 31 1) (.ok (.klaunch (w.extractLsb' 18 5) (w.extractLsb' 13 5) (w.extractLsb' 8 5)))
  | _ => .error .unassignedFunc

/-- Major 0x3f (R55). -/
def decMajor3f (w : BitVec 32) : Except Reject Instr :=
  .ok (.emulation (w.extractLsb' 8 24))

/-- The 32-bit words by their major, bits 7:2 (R48, R55). -/
def decode32 (w : BitVec 32) : Except Reject Instr :=
  match (w.extractLsb' 2 6).toNat with
  | 0x01 => decMajor01 w
  | 0x02 => decMajor02 w
  | 0x03 => decMajor03 w
  | 0x04 => decMajor04 w
  | 0x05 => decMajor05 w
  | 0x06 => decMajor06 w
  | 0x07 => decMajor07 w
  | 0x08 => decMajor08 w
  | 0x09 => decMajor09 w
  | 0x0a => decMajor0a w
  | 0x0b => decMajor0b w
  | 0x0c => decMajor0c w
  | 0x0d => decMajor0d w
  | 0x0e => decMajor0e w
  | 0x10 => decMajor10 w
  | 0x11 => decMajor11 w
  | 0x12 => decMajor12 w
  | 0x13 => decMajor13 w
  | 0x14 => decMajor14 w
  | 0x15 => decMajor15 w
  | 0x16 => decMajor16 w
  | 0x17 => decMajor17 w
  | 0x18 => decMajor18 w
  | 0x19 => decMajor19 w
  | 0x1a => decMajor1a w
  | 0x1b => decMajor1b w
  | 0x1c => decMajor1c w
  | 0x1d => decMajor1d w
  | 0x1e => decMajor1e w
  | 0x1f => decMajor1f w
  | 0x20 => decMajor20 w
  | 0x21 => decMajor21 w
  | 0x22 => decMajor22 w
  | 0x23 => decMajor23 w
  | 0x24 => decMajor24 w
  | 0x25 => decMajor25 w
  | 0x26 => decMajor26 w
  | 0x27 => decMajor27 w
  | 0x2c => decMajor2c w
  | 0x2d => decMajor2d w
  | 0x2e => decMajor2e w
  | 0x2f => decMajor2f w
  | 0x30 => decMajor30 w
  | 0x31 => decMajor31 w
  | 0x32 => decMajor32 w
  | 0x34 => decMajor34 w
  | 0x35 => decMajor35 w
  | 0x38 => decMajor38 w
  | 0x39 => decMajor39 w
  | 0x3a => decMajor3a w
  | 0x3b => decMajor3b w
  | 0x3d => decMajor3d w
  | 0x3e => decMajor3e w
  | 0x3f => decMajor3f w
  | _ => .error .reservedMajor

/-- The 16-bit words by op4, bits 5:2 (R51, R52). -/
def decode16 (w : BitVec 16) : Except Reject Instr :=
  match (w.extractLsb' 2 4).toNat with
  | 0 => .ok (.cMv (w.extractLsb' 11 5) (w.extractLsb' 6 5))
  | 1 => .ok (.cAdd (w.extractLsb' 11 5) (w.extractLsb' 6 5))
  | 2 => .ok (.cSub (w.extractLsb' 11 5) (w.extractLsb' 6 5))
  | 3 => .ok (.cAddi (w.extractLsb' 11 5) (w.extractLsb' 6 5))
  | 4 => .ok (.cLi (w.extractLsb' 11 5) (w.extractLsb' 6 5))
  | 5 => .ok (.cAnd (w.extractLsb' 11 5) (w.extractLsb' 6 5))
  | 6 => .ok (.cOr (w.extractLsb' 11 5) (w.extractLsb' 6 5))
  | 7 => .ok (.cSlli (w.extractLsb' 11 5) (w.extractLsb' 6 5))
  | 8 => .ok (.cLdw (w.extractLsb' 11 5) (w.extractLsb' 6 5))
  | 9 => .ok (.cStw (w.extractLsb' 11 5) (w.extractLsb' 6 5))
  | 10 => .ok (.cB (w.extractLsb' 6 10))
  | 11 => .ok (.cBnz (w.extractLsb' 11 5) (w.extractLsb' 6 5))
  | 12 => zero (w.extractLsb' 14 2) (.ok (.cPut (w.extractLsb' 11 3) (w.extractLsb' 6 5)))
  | 13 => zero (w.extractLsb' 14 2) (.ok (.cGet (w.extractLsb' 11 3) (w.extractLsb' 6 5)))
  | 14 =>
    match (w.extractLsb' 6 10).toNat with
    | 0 => .ok .cNop
    | 1 => .ok .cYield
    | 2 => .ok .cSuspend
    | 3 => .ok .cWfw
    | 4 => .ok .cEret
    | 5 => .ok .cBkpt
    | 6 => .ok .cWaite
    | _ => .error .illegalCode
  | _ => .error .reservedOp4

/-- The 32-bit word of an instruction with switch marker `sb`, and a 16-bit word in the low half: written from the field layouts of R48, R51 and the
codes of R55 and R52. An event has no word. -/
def encodeWord (sb : Bool) (i : Instr) : BitVec 32 :=
  match i with
  | .add w b a d => cat (BitVec.ofBool w) (cat 0#8 (cat b (cat a (cat d (cat 1#6 (cat (BitVec.ofBool sb) 1#1))))))
  | .sub w b a d => cat (BitVec.ofBool w) (cat 1#8 (cat b (cat a (cat d (cat 1#6 (cat (BitVec.ofBool sb) 1#1))))))
  | .mul w b a d => cat (BitVec.ofBool w) (cat 2#8 (cat b (cat a (cat d (cat 1#6 (cat (BitVec.ofBool sb) 1#1))))))
  | .mulh b a d => cat 3#9 (cat b (cat a (cat d (cat 1#6 (cat (BitVec.ofBool sb) 1#1)))))
  | .mulhu b a d => cat 4#9 (cat b (cat a (cat d (cat 1#6 (cat (BitVec.ofBool sb) 1#1)))))
  | .div w b a d => cat (BitVec.ofBool w) (cat 5#8 (cat b (cat a (cat d (cat 1#6 (cat (BitVec.ofBool sb) 1#1))))))
  | .divu w b a d => cat (BitVec.ofBool w) (cat 6#8 (cat b (cat a (cat d (cat 1#6 (cat (BitVec.ofBool sb) 1#1))))))
  | .rem w b a d => cat (BitVec.ofBool w) (cat 7#8 (cat b (cat a (cat d (cat 1#6 (cat (BitVec.ofBool sb) 1#1))))))
  | .remu w b a d => cat (BitVec.ofBool w) (cat 8#8 (cat b (cat a (cat d (cat 1#6 (cat (BitVec.ofBool sb) 1#1))))))
  | .min w b a d => cat (BitVec.ofBool w) (cat 9#8 (cat b (cat a (cat d (cat 1#6 (cat (BitVec.ofBool sb) 1#1))))))
  | .max w b a d => cat (BitVec.ofBool w) (cat 10#8 (cat b (cat a (cat d (cat 1#6 (cat (BitVec.ofBool sb) 1#1))))))
  | .minu w b a d => cat (BitVec.ofBool w) (cat 11#8 (cat b (cat a (cat d (cat 1#6 (cat (BitVec.ofBool sb) 1#1))))))
  | .maxu w b a d => cat (BitVec.ofBool w) (cat 12#8 (cat b (cat a (cat d (cat 1#6 (cat (BitVec.ofBool sb) 1#1))))))
  | .lea c b a d => cat 4#7 (cat c (cat b (cat a (cat d (cat 1#6 (cat (BitVec.ofBool sb) 1#1))))))
  | .and b a d => cat 0#9 (cat b (cat a (cat d (cat 2#6 (cat (BitVec.ofBool sb) 1#1)))))
  | .or b a d => cat 1#9 (cat b (cat a (cat d (cat 2#6 (cat (BitVec.ofBool sb) 1#1)))))
  | .xor b a d => cat 2#9 (cat b (cat a (cat d (cat 2#6 (cat (BitVec.ofBool sb) 1#1)))))
  | .andn b a d => cat 3#9 (cat b (cat a (cat d (cat 2#6 (cat (BitVec.ofBool sb) 1#1)))))
  | .orn b a d => cat 4#9 (cat b (cat a (cat d (cat 2#6 (cat (BitVec.ofBool sb) 1#1)))))
  | .sll w b a d => cat (BitVec.ofBool w) (cat 5#8 (cat b (cat a (cat d (cat 2#6 (cat (BitVec.ofBool sb) 1#1))))))
  | .srl w b a d => cat (BitVec.ofBool w) (cat 6#8 (cat b (cat a (cat d (cat 2#6 (cat (BitVec.ofBool sb) 1#1))))))
  | .sra w b a d => cat (BitVec.ofBool w) (cat 7#8 (cat b (cat a (cat d (cat 2#6 (cat (BitVec.ofBool sb) 1#1))))))
  | .rot w b a d => cat (BitVec.ofBool w) (cat 8#8 (cat b (cat a (cat d (cat 2#6 (cat (BitVec.ofBool sb) 1#1))))))
  | .clz w a d => cat (BitVec.ofBool w) (cat 288#13 (cat a (cat d (cat 2#6 (cat (BitVec.ofBool sb) 1#1)))))
  | .ctz w a d => cat (BitVec.ofBool w) (cat 320#13 (cat a (cat d (cat 2#6 (cat (BitVec.ofBool sb) 1#1)))))
  | .popc w a d => cat (BitVec.ofBool w) (cat 352#13 (cat a (cat d (cat 2#6 (cat (BitVec.ofBool sb) 1#1)))))
  | .bswap a d => cat 384#14 (cat a (cat d (cat 2#6 (cat (BitVec.ofBool sb) 1#1))))
  | .sext n a d => cat 13#9 (cat n.code (cat a (cat d (cat 2#6 (cat (BitVec.ofBool sb) 1#1)))))
  | .zext n a d => cat 14#9 (cat n.code (cat a (cat d (cat 2#6 (cat (BitVec.ofBool sb) 1#1)))))
  | .addi i a d => cat i (cat a (cat d (cat 3#6 (cat (BitVec.ofBool sb) 1#1))))
  | .andi i a d => cat i (cat a (cat d (cat 4#6 (cat (BitVec.ofBool sb) 1#1))))
  | .ori i a d => cat i (cat a (cat d (cat 5#6 (cat (BitVec.ofBool sb) 1#1))))
  | .xori i a d => cat i (cat a (cat d (cat 6#6 (cat (BitVec.ofBool sb) 1#1))))
  | .slli w n a d => cat 0#2 (cat (BitVec.ofBool w) (cat 0#5 (cat n (cat a (cat d (cat 7#6 (cat (BitVec.ofBool sb) 1#1)))))))
  | .srli w n a d => cat 1#2 (cat (BitVec.ofBool w) (cat 0#5 (cat n (cat a (cat d (cat 7#6 (cat (BitVec.ofBool sb) 1#1)))))))
  | .srai w n a d => cat 2#2 (cat (BitVec.ofBool w) (cat 0#5 (cat n (cat a (cat d (cat 7#6 (cat (BitVec.ofBool sb) 1#1)))))))
  | .roti w n a d => cat 3#2 (cat (BitVec.ofBool w) (cat 0#5 (cat n (cat a (cat d (cat 7#6 (cat (BitVec.ofBool sb) 1#1)))))))
  | .lui i d => cat i (cat d (cat 8#6 (cat (BitVec.ofBool sb) 1#1)))
  | .auipc i d => cat i (cat d (cat 9#6 (cat (BitVec.ofBool sb) 1#1)))
  | .bfx l n a d => cat 0#2 (cat l (cat n (cat a (cat d (cat 10#6 (cat (BitVec.ofBool sb) 1#1))))))
  | .bfxu l n a d => cat 1#2 (cat l (cat n (cat a (cat d (cat 10#6 (cat (BitVec.ofBool sb) 1#1))))))
  | .bfi l n a d => cat 2#2 (cat l (cat n (cat a (cat d (cat 10#6 (cat (BitVec.ofBool sb) 1#1))))))
  | .pcmp w k c b a d => cat (BitVec.ofBool w) (cat (BitVec.ofBool k) (cat c.code (cat 0#3 (cat b (cat a (cat d (cat 11#6 (cat (BitVec.ofBool sb) 1#1))))))))
  | .pcmpi c i a d => cat c.code (cat i (cat a (cat 0#2 (cat d (cat 12#6 (cat (BitVec.ofBool sb) 1#1))))))
  | .pand b a d => cat 0#11 (cat b (cat 0#2 (cat a (cat 0#2 (cat d (cat 13#6 (cat (BitVec.ofBool sb) 1#1)))))))
  | .por b a d => cat 4#11 (cat b (cat 0#2 (cat a (cat 0#2 (cat d (cat 13#6 (cat (BitVec.ofBool sb) 1#1)))))))
  | .pxor b a d => cat 8#11 (cat b (cat 0#2 (cat a (cat 0#2 (cat d (cat 13#6 (cat (BitVec.ofBool sb) 1#1)))))))
  | .pnot a d => cat 384#16 (cat a (cat 0#2 (cat d (cat 13#6 (cat (BitVec.ofBool sb) 1#1)))))
  | .sel k b a d => cat k (cat 4#6 (cat b (cat a (cat d (cat 13#6 (cat (BitVec.ofBool sb) 1#1))))))
  | .mix b a d => cat 0#9 (cat b (cat a (cat d (cat 14#6 (cat (BitVec.ofBool sb) 1#1)))))
  | .bcc o b a c => cat o (cat b (cat a (cat c.code (cat 16#6 (cat (BitVec.ofBool sb) 1#1)))))
  | .bp o n j k => cat o (cat 0#5 (cat (BitVec.ofBool n) (cat j (cat k (cat 17#6 (cat (BitVec.ofBool sb) 1#1))))))
  | .j o => cat o (cat 0#1 (cat 18#6 (cat (BitVec.ofBool sb) 1#1)))
  | .jl o => cat o (cat 1#1 (cat 18#6 (cat (BitVec.ofBool sb) 1#1)))
  | .jlr i a d => cat i (cat a (cat d (cat 19#6 (cat (BitVec.ofBool sb) 1#1))))
  | .jr i a => cat i (cat a (cat 0#5 (cat 19#6 (cat (BitVec.ofBool sb) 1#1))))
  | .loop i a k => cat i (cat a (cat 0#4 (cat (BitVec.ofBool k) (cat 20#6 (cat (BitVec.ofBool sb) 1#1)))))
  | .loopi i m n k => cat i (cat m (cat n (cat (BitVec.ofBool k) (cat 21#6 (cat (BitVec.ofBool sb) 1#1)))))
  | .rep n r k p => cat 0#6 (cat n (cat r (cat k (cat p (cat 22#6 (cat (BitVec.ofBool sb) 1#1))))))
  | .replayEnd => 0#32
  | .cvt f e r x a d => cat f.code (cat e.code (cat r.code (cat x (cat a (cat d (cat 23#6 (cat (BitVec.ofBool sb) 1#1)))))))
  | .faddS r b a d => cat 0#6 (cat r.code (cat b (cat a (cat d (cat 24#6 (cat (BitVec.ofBool sb) 1#1))))))
  | .fsubS r b a d => cat 1#6 (cat r.code (cat b (cat a (cat d (cat 24#6 (cat (BitVec.ofBool sb) 1#1))))))
  | .fmulS r b a d => cat 2#6 (cat r.code (cat b (cat a (cat d (cat 24#6 (cat (BitVec.ofBool sb) 1#1))))))
  | .fdivS r b a d => cat 3#6 (cat r.code (cat b (cat a (cat d (cat 24#6 (cat (BitVec.ofBool sb) 1#1))))))
  | .fsqrtS r a d => cat 4#6 (cat r.code (cat 0#5 (cat a (cat d (cat 24#6 (cat (BitVec.ofBool sb) 1#1))))))
  | .fminS b a d => cat 40#9 (cat b (cat a (cat d (cat 24#6 (cat (BitVec.ofBool sb) 1#1)))))
  | .fmaxS b a d => cat 48#9 (cat b (cat a (cat d (cat 24#6 (cat (BitVec.ofBool sb) 1#1)))))
  | .fsgnS b a d => cat 56#9 (cat b (cat a (cat d (cat 24#6 (cat (BitVec.ofBool sb) 1#1)))))
  | .fsgnnS b a d => cat 57#9 (cat b (cat a (cat d (cat 24#6 (cat (BitVec.ofBool sb) 1#1)))))
  | .fsgnxS b a d => cat 58#9 (cat b (cat a (cat d (cat 24#6 (cat (BitVec.ofBool sb) 1#1)))))
  | .fclassS a d => cat 2048#14 (cat a (cat d (cat 24#6 (cat (BitVec.ofBool sb) 1#1))))
  | .faddD r b a d => cat 0#6 (cat r.code (cat b (cat a (cat d (cat 25#6 (cat (BitVec.ofBool sb) 1#1))))))
  | .fsubD r b a d => cat 1#6 (cat r.code (cat b (cat a (cat d (cat 25#6 (cat (BitVec.ofBool sb) 1#1))))))
  | .fmulD r b a d => cat 2#6 (cat r.code (cat b (cat a (cat d (cat 25#6 (cat (BitVec.ofBool sb) 1#1))))))
  | .fdivD r b a d => cat 3#6 (cat r.code (cat b (cat a (cat d (cat 25#6 (cat (BitVec.ofBool sb) 1#1))))))
  | .fsqrtD r a d => cat 4#6 (cat r.code (cat 0#5 (cat a (cat d (cat 25#6 (cat (BitVec.ofBool sb) 1#1))))))
  | .fminD b a d => cat 40#9 (cat b (cat a (cat d (cat 25#6 (cat (BitVec.ofBool sb) 1#1)))))
  | .fmaxD b a d => cat 48#9 (cat b (cat a (cat d (cat 25#6 (cat (BitVec.ofBool sb) 1#1)))))
  | .fsgnD b a d => cat 56#9 (cat b (cat a (cat d (cat 25#6 (cat (BitVec.ofBool sb) 1#1)))))
  | .fsgnnD b a d => cat 57#9 (cat b (cat a (cat d (cat 25#6 (cat (BitVec.ofBool sb) 1#1)))))
  | .fsgnxD b a d => cat 58#9 (cat b (cat a (cat d (cat 25#6 (cat (BitVec.ofBool sb) 1#1)))))
  | .fclassD a d => cat 2048#14 (cat a (cat d (cat 25#6 (cat (BitVec.ofBool sb) 1#1))))
  | .ffma t r b a d => cat (BitVec.ofBool t) (cat 0#5 (cat r.code (cat b (cat a (cat d (cat 26#6 (cat (BitVec.ofBool sb) 1#1)))))))
  | .ffms t r b a d => cat (BitVec.ofBool t) (cat 16#5 (cat r.code (cat b (cat a (cat d (cat 26#6 (cat (BitVec.ofBool sb) 1#1)))))))
  | .fcmp t k c b a d => cat (BitVec.ofBool t) (cat (BitVec.ofBool k) (cat c.code (cat 0#3 (cat b (cat a (cat d (cat 27#6 (cat (BitVec.ofBool sb) 1#1))))))))
  | .mfs n d => cat 0#2 (cat n (cat 0#5 (cat d (cat 28#6 (cat (BitVec.ofBool sb) 1#1)))))
  | .mts n a => cat 0#2 (cat n (cat a (cat 0#5 (cat 29#6 (cat (BitVec.ofBool sb) 1#1)))))
  | .cplaunch d => cat 1728#19 (cat d (cat 28#6 (cat (BitVec.ofBool sb) 1#1)))
  | .trap b a => cat 0#9 (cat b (cat a (cat 0#5 (cat 30#6 (cat (BitVec.ofBool sb) 1#1)))))
  | .eret => cat 32768#24 (cat 30#6 (cat (BitVec.ofBool sb) 1#1))
  | .yield => cat 65536#24 (cat 30#6 (cat (BitVec.ofBool sb) 1#1))
  | .suspend => cat 98304#24 (cat 30#6 (cat (BitVec.ofBool sb) 1#1))
  | .wfw => cat 131072#24 (cat 30#6 (cat (BitVec.ofBool sb) 1#1))
  | .bkpt => cat 163840#24 (cat 30#6 (cat (BitVec.ofBool sb) 1#1))
  | .nop => cat 196608#24 (cat 30#6 (cat (BitVec.ofBool sb) 1#1))
  | .waite => cat 229376#24 (cat 30#6 (cat (BitVec.ofBool sb) 1#1))
  | .ctxsave b a => cat 0#9 (cat b (cat a (cat 0#5 (cat 31#6 (cat (BitVec.ofBool sb) 1#1)))))
  | .ctxload a => cat 32#14 (cat a (cat 0#5 (cat 31#6 (cat (BitVec.ofBool sb) 1#1))))
  | .atr k a d => cat 2#9 (cat k (cat a (cat d (cat 31#6 (cat (BitVec.ofBool sb) 1#1)))))
  | .tlbfl m a => cat 3#9 (cat m (cat a (cat 0#5 (cat 31#6 (cat (BitVec.ofBool sb) 1#1)))))
  | .haltp a => cat 128#14 (cat a (cat 0#5 (cat 31#6 (cat (BitVec.ofBool sb) 1#1))))
  | .selftest a d => cat 160#14 (cat a (cat d (cat 31#6 (cat (BitVec.ofBool sb) 1#1))))
  | .vadd t r p b a d => cat (BitVec.ofBool t) (cat 0#4 (cat r.code (cat 0#1 (cat p (cat b (cat a (cat d (cat 32#6 (cat (BitVec.ofBool sb) 1#1)))))))))
  | .vsub t r p b a d => cat (BitVec.ofBool t) (cat 1#4 (cat r.code (cat 0#1 (cat p (cat b (cat a (cat d (cat 32#6 (cat (BitVec.ofBool sb) 1#1)))))))))
  | .vmul t r p b a d => cat (BitVec.ofBool t) (cat 2#4 (cat r.code (cat 0#1 (cat p (cat b (cat a (cat d (cat 32#6 (cat (BitVec.ofBool sb) 1#1)))))))))
  | .vfma t r p b a d => cat (BitVec.ofBool t) (cat 3#4 (cat r.code (cat 0#1 (cat p (cat b (cat a (cat d (cat 32#6 (cat (BitVec.ofBool sb) 1#1)))))))))
  | .vfms t r p b a d => cat (BitVec.ofBool t) (cat 4#4 (cat r.code (cat 0#1 (cat p (cat b (cat a (cat d (cat 32#6 (cat (BitVec.ofBool sb) 1#1)))))))))
  | .vmin t p b a d => cat (BitVec.ofBool t) (cat 80#8 (cat p (cat b (cat a (cat d (cat 32#6 (cat (BitVec.ofBool sb) 1#1)))))))
  | .vmax t p b a d => cat (BitVec.ofBool t) (cat 96#8 (cat p (cat b (cat a (cat d (cat 32#6 (cat (BitVec.ofBool sb) 1#1)))))))
  | .vabs t p a d => cat (BitVec.ofBool t) (cat 112#8 (cat p (cat 0#4 (cat a (cat d (cat 32#6 (cat (BitVec.ofBool sb) 1#1)))))))
  | .vneg t p a d => cat (BitVec.ofBool t) (cat 128#8 (cat p (cat 0#4 (cat a (cat d (cat 32#6 (cat (BitVec.ofBool sb) 1#1)))))))
  | .vrcp r p a d => cat 9#5 (cat r.code (cat 0#1 (cat p (cat 0#4 (cat a (cat d (cat 32#6 (cat (BitVec.ofBool sb) 1#1))))))))
  | .vrsq r p a d => cat 10#5 (cat r.code (cat 0#1 (cat p (cat 0#4 (cat a (cat d (cat 32#6 (cat (BitVec.ofBool sb) 1#1))))))))
  | .vexp2 r p a d => cat 11#5 (cat r.code (cat 0#1 (cat p (cat 0#4 (cat a (cat d (cat 32#6 (cat (BitVec.ofBool sb) 1#1))))))))
  | .viadd l p b a d => cat l.code (cat 0#7 (cat p (cat b (cat a (cat d (cat 33#6 (cat (BitVec.ofBool sb) 1#1)))))))
  | .visub l p b a d => cat l.code (cat 8#7 (cat p (cat b (cat a (cat d (cat 33#6 (cat (BitVec.ofBool sb) 1#1)))))))
  | .vimul l p b a d => cat l.code (cat 16#7 (cat p (cat b (cat a (cat d (cat 33#6 (cat (BitVec.ofBool sb) 1#1)))))))
  | .vimad l p b a d => cat l.code (cat 24#7 (cat p (cat b (cat a (cat d (cat 33#6 (cat (BitVec.ofBool sb) 1#1)))))))
  | .vimin l p b a d => cat l.code (cat 32#7 (cat p (cat b (cat a (cat d (cat 33#6 (cat (BitVec.ofBool sb) 1#1)))))))
  | .vimax l p b a d => cat l.code (cat 40#7 (cat p (cat b (cat a (cat d (cat 33#6 (cat (BitVec.ofBool sb) 1#1)))))))
  | .vand l p b a d => cat l.code (cat 48#7 (cat p (cat b (cat a (cat d (cat 33#6 (cat (BitVec.ofBool sb) 1#1)))))))
  | .vor l p b a d => cat l.code (cat 56#7 (cat p (cat b (cat a (cat d (cat 33#6 (cat (BitVec.ofBool sb) 1#1)))))))
  | .vxor l p b a d => cat l.code (cat 64#7 (cat p (cat b (cat a (cat d (cat 33#6 (cat (BitVec.ofBool sb) 1#1)))))))
  | .vsll l p b a d => cat l.code (cat 72#7 (cat p (cat b (cat a (cat d (cat 33#6 (cat (BitVec.ofBool sb) 1#1)))))))
  | .vsrl l p b a d => cat l.code (cat 80#7 (cat p (cat b (cat a (cat d (cat 33#6 (cat (BitVec.ofBool sb) 1#1)))))))
  | .vsra l p b a d => cat l.code (cat 88#7 (cat p (cat b (cat a (cat d (cat 33#6 (cat (BitVec.ofBool sb) 1#1)))))))
  | .viabs l p a d => cat l.code (cat 96#7 (cat p (cat 0#4 (cat a (cat d (cat 33#6 (cat (BitVec.ofBool sb) 1#1)))))))
  | .vcmp t c p b a d => cat (BitVec.ofBool t) (cat c.code (cat 0#4 (cat p (cat b (cat a (cat 0#1 (cat d (cat 34#6 (cat (BitVec.ofBool sb) 1#1)))))))))
  | .vsel p b a d => cat 0#9 (cat p (cat b (cat a (cat d (cat 35#6 (cat (BitVec.ofBool sb) 1#1))))))
  | .vperm p b a d => cat 64#9 (cat p (cat b (cat a (cat d (cat 35#6 (cat (BitVec.ofBool sb) 1#1))))))
  | .vrev p a d => cat 128#9 (cat p (cat 0#4 (cat a (cat d (cat 35#6 (cat (BitVec.ofBool sb) 1#1))))))
  | .vslide m p b a d => cat 3#3 (cat m (cat p (cat b (cat a (cat d (cat 35#6 (cat (BitVec.ofBool sb) 1#1)))))))
  | .vzip p b a d => cat 256#9 (cat p (cat b (cat a (cat d (cat 35#6 (cat (BitVec.ofBool sb) 1#1))))))
  | .vunzip p a d => cat 320#9 (cat p (cat 0#4 (cat a (cat d (cat 35#6 (cat (BitVec.ofBool sb) 1#1))))))
  | .vbcast p g d => cat 0#9 (cat p (cat g (cat 0#4 (cat d (cat 36#6 (cat (BitVec.ofBool sb) 1#1))))))
  | .vext l g a => cat 1#3 (cat l (cat 0#4 (cat g (cat a (cat 0#4 (cat 36#6 (cat (BitVec.ofBool sb) 1#1)))))))
  | .vins l g d => cat 2#3 (cat l (cat 0#4 (cat g (cat 0#4 (cat d (cat 36#6 (cat (BitVec.ofBool sb) 1#1)))))))
  | .viota p g d => cat 192#9 (cat p (cat g (cat 0#4 (cat d (cat 36#6 (cat (BitVec.ofBool sb) 1#1))))))
  | .vmix p g a d => cat 256#9 (cat p (cat g (cat a (cat d (cat 36#6 (cat (BitVec.ofBool sb) 1#1))))))
  | .vred o r p a d => cat 0#1 (cat o.code (cat r.code (cat 0#2 (cat p (cat 0#4 (cat a (cat d (cat 37#6 (cat (BitVec.ofBool sb) 1#1)))))))))
  | .vscan o r p a d => cat 1#1 (cat o.code (cat r.code (cat 0#2 (cat p (cat 0#4 (cat a (cat d (cat 37#6 (cat (BitVec.ofBool sb) 1#1)))))))))
  | .vdot f r p b a d => cat f.code (cat r.code (cat 0#2 (cat p (cat b (cat a (cat d (cat 38#6 (cat (BitVec.ofBool sb) 1#1))))))))
  | .vcvt f r p e a d => cat 0#2 (cat f.code (cat r.code (cat p (cat e.code (cat a (cat d (cat 39#6 (cat (BitVec.ofBool sb) 1#1))))))))
  | .vpack f r p b a d => cat 1#2 (cat f.code (cat r.code (cat p (cat b (cat a (cat d (cat 39#6 (cat (BitVec.ofBool sb) 1#1))))))))
  | .vunpk f p h a d => cat 2#2 (cat f.code (cat 0#3 (cat p (cat 0#3 (cat (BitVec.ofBool h) (cat a (cat d (cat 39#6 (cat (BitVec.ofBool sb) 1#1)))))))))
  | .vbscale f r p b a d => cat 3#2 (cat f.code (cat r.code (cat p (cat b (cat a (cat d (cat 39#6 (cat (BitVec.ofBool sb) 1#1))))))))
  | .ld o k a d => cat o (cat k.code (cat a (cat d (cat 44#6 (cat (BitVec.ofBool sb) 1#1)))))
  | .ldWindow w z o a d => cat w (cat z.code (cat o (cat 7#3 (cat a (cat d (cat 44#6 (cat (BitVec.ofBool sb) 1#1)))))))
  | .st o k a d => cat o (cat 0#1 (cat k.code (cat a (cat d (cat 45#6 (cat (BitVec.ofBool sb) 1#1))))))
  | .vld o a d => cat o (cat 0#3 (cat a (cat 0#1 (cat d (cat 46#6 (cat (BitVec.ofBool sb) 1#1))))))
  | .vst o a d => cat o (cat 1#3 (cat a (cat 0#1 (cat d (cat 46#6 (cat (BitVec.ofBool sb) 1#1))))))
  | .vlds x o a d => cat x (cat o (cat 2#3 (cat a (cat 0#1 (cat d (cat 46#6 (cat (BitVec.ofBool sb) 1#1)))))))
  | .vsts x o a d => cat x (cat o (cat 3#3 (cat a (cat 0#1 (cat d (cat 46#6 (cat (BitVec.ofBool sb) 1#1)))))))
  | .ldp o a d => cat o (cat 4#3 (cat a (cat d (cat 46#6 (cat (BitVec.ofBool sb) 1#1)))))
  | .vldp o a d => cat o (cat 5#3 (cat a (cat 0#1 (cat d (cat 46#6 (cat (BitVec.ofBool sb) 1#1))))))
  | .vldWindow w o a d => cat w (cat o (cat 6#3 (cat a (cat 0#1 (cat d (cat 46#6 (cat (BitVec.ofBool sb) 1#1)))))))
  | .amo w o b a d => cat (BitVec.ofBool w) (cat o.code (cat 0#3 (cat b (cat a (cat d (cat 47#6 (cat (BitVec.ofBool sb) 1#1)))))))
  | .cas w b a d => cat (BitVec.ofBool w) (cat 72#8 (cat b (cat a (cat d (cat 47#6 (cat (BitVec.ofBool sb) 1#1))))))
  | .lda w a d => cat (BitVec.ofBool w) (cat 2560#13 (cat a (cat d (cat 47#6 (cat (BitVec.ofBool sb) 1#1)))))
  | .stl w b a => cat (BitVec.ofBool w) (cat 88#8 (cat b (cat a (cat 0#5 (cat 47#6 (cat (BitVec.ofBool sb) 1#1))))))
  | .acq => cat 3145728#24 (cat 47#6 (cat (BitVec.ofBool sb) 1#1))
  | .rel => cat 3407872#24 (cat 47#6 (cat (BitVec.ofBool sb) 1#1))
  | .fence => cat 3670016#24 (cat 47#6 (cat (BitVec.ofBool sb) 1#1))
  | .red o z b a => cat o.code (cat (BitVec.ofBool z) (cat 0#5 (cat b (cat a (cat 0#5 (cat 48#6 (cat (BitVec.ofBool sb) 1#1)))))))
  | .vgather c b a d => cat 0#2 (cat c (cat 0#6 (cat b (cat a (cat 0#1 (cat d (cat 49#6 (cat (BitVec.ofBool sb) 1#1))))))))
  | .vscatter c b a d => cat 1#2 (cat c (cat 0#6 (cat b (cat a (cat 0#1 (cat d (cat 49#6 (cat (BitVec.ofBool sb) 1#1))))))))
  | .ldx c z u b a d => cat 2#2 (cat c (cat z.code (cat (BitVec.ofBool u) (cat 0#2 (cat b (cat a (cat d (cat 49#6 (cat (BitVec.ofBool sb) 1#1)))))))))
  | .stx c z b a d => cat 3#2 (cat c (cat z.code (cat 0#3 (cat b (cat a (cat d (cat 49#6 (cat (BitVec.ofBool sb) 1#1))))))))
  | .wenq b a d => cat 0#10 (cat b (cat a (cat d (cat 50#6 (cat (BitVec.ofBool sb) 1#1)))))
  | .watch a d => cat 32#14 (cat a (cat d (cat 50#6 (cat (BitVec.ofBool sb) 1#1))))
  | .unwatch a d => cat 64#14 (cat a (cat d (cat 50#6 (cat (BitVec.ofBool sb) 1#1))))
  | .pref a => cat 96#14 (cat a (cat 0#5 (cat 50#6 (cat (BitVec.ofBool sb) 1#1))))
  | .cflush a => cat 128#14 (cat a (cat 0#5 (cat 50#6 (cat (BitVec.ofBool sb) 1#1))))
  | .cinv a => cat 160#14 (cat a (cat 0#5 (cat 50#6 (cat (BitVec.ofBool sb) 1#1))))
  | .copyp a d => cat 0#14 (cat a (cat d (cat 52#6 (cat (BitVec.ofBool sb) 1#1))))
  | .twaitany a d => cat 32#14 (cat a (cat d (cat 52#6 (cat (BitVec.ofBool sb) 1#1))))
  | .twaitall a => cat 64#14 (cat a (cat 0#5 (cat 52#6 (cat (BitVec.ofBool sb) 1#1))))
  | .tfind a d => cat 96#14 (cat a (cat d (cat 52#6 (cat (BitVec.ofBool sb) 1#1))))
  | .ttest a d => cat 128#14 (cat a (cat d (cat 52#6 (cat (BitVec.ofBool sb) 1#1))))
  | .tclr a => cat 160#14 (cat a (cat 0#5 (cat 52#6 (cat (BitVec.ofBool sb) 1#1))))
  | .chopen b a k => cat 0#9 (cat b (cat a (cat 0#3 (cat k (cat 53#6 (cat (BitVec.ofBool sb) 1#1))))))
  | .chclose k => cat 8192#22 (cat k (cat 53#6 (cat (BitVec.ofBool sb) 1#1)))
  | .mfree a => cat 64#14 (cat a (cat 0#5 (cat 53#6 (cat (BitVec.ofBool sb) 1#1))))
  | .mbwait a k => cat 96#14 (cat a (cat 0#2 (cat k (cat 53#6 (cat (BitVec.ofBool sb) 1#1)))))
  | .put k a => cat 0#3 (cat k (cat 0#8 (cat a (cat 0#5 (cat 56#6 (cat (BitVec.ofBool sb) 1#1))))))
  | .get k d => cat 1#3 (cat k (cat 0#13 (cat d (cat 56#6 (cat (BitVec.ofBool sb) 1#1)))))
  | .putv k a => cat 2#3 (cat k (cat 0#10 (cat a (cat 0#5 (cat 56#6 (cat (BitVec.ofBool sb) 1#1))))))
  | .getv k d => cat 3#3 (cat k (cat 0#15 (cat d (cat 56#6 (cat (BitVec.ofBool sb) 1#1)))))
  | .psel b a d => cat 256#9 (cat b (cat a (cat d (cat 56#6 (cat (BitVec.ofBool sb) 1#1)))))
  | .putb k x a => cat 0#1 (cat k (cat 0#7 (cat x (cat a (cat 0#5 (cat 57#6 (cat (BitVec.ofBool sb) 1#1)))))))
  | .getb k x a => cat 1#1 (cat k (cat 0#7 (cat x (cat a (cat 0#5 (cat 57#6 (cat (BitVec.ofBool sb) 1#1)))))))
  | .cload b a d => cat 0#9 (cat b (cat a (cat d (cat 58#6 (cat (BitVec.ofBool sb) 1#1)))))
  | .cunload a => cat 32#14 (cat a (cat 0#5 (cat 58#6 (cat (BitVec.ofBool sb) 1#1))))
  | .pbind b a k => cat 2#9 (cat b (cat a (cat 0#2 (cat k (cat 58#6 (cat (BitVec.ofBool sb) 1#1))))))
  | .punbind k => cat 12288#21 (cat k (cat 58#6 (cat (BitVec.ofBool sb) 1#1)))
  | .cstat b a d => cat 4#9 (cat b (cat a (cat d (cat 58#6 (cat (BitVec.ofBool sb) 1#1)))))
  | .tmma x a => cat 0#11 (cat x (cat a (cat 0#5 (cat 59#6 (cat (BitVec.ofBool sb) 1#1)))))
  | .tmmaSp q x a => cat 1#5 (cat q (cat 0#4 (cat x (cat a (cat 0#5 (cat 59#6 (cat (BitVec.ofBool sb) 1#1)))))))
  | .tzero => cat 1048576#24 (cat 59#6 (cat (BitVec.ofBool sb) 1#1))
  | .tld x a => cat 256#11 (cat x (cat a (cat 0#5 (cat 59#6 (cat (BitVec.ofBool sb) 1#1)))))
  | .tst x a => cat 384#11 (cat x (cat a (cat 0#5 (cat 59#6 (cat (BitVec.ofBool sb) 1#1)))))
  | .tldb x a => cat 512#11 (cat x (cat a (cat 0#5 (cat 59#6 (cat (BitVec.ofBool sb) 1#1)))))
  | .tjoin a => cat 5120#14 (cat a (cat 0#5 (cat 59#6 (cat (BitVec.ofBool sb) 1#1))))
  | .twt a => cat 6144#14 (cat a (cat 0#5 (cat 59#6 (cat (BitVec.ofBool sb) 1#1))))
  | .tstat a d => cat 7168#14 (cat a (cat d (cat 59#6 (cat (BitVec.ofBool sb) 1#1))))
  | .tkget a d => cat 0#14 (cat a (cat d (cat 61#6 (cat (BitVec.ofBool sb) 1#1))))
  | .tkwait a => cat 32#14 (cat a (cat 0#5 (cat 61#6 (cat (BitVec.ofBool sb) 1#1))))
  | .publish => cat 65536#24 (cat 61#6 (cat (BitVec.ofBool sb) 1#1))
  | .hnew a d => cat 256#14 (cat a (cat d (cat 61#6 (cat (BitVec.ofBool sb) 1#1))))
  | .hcopy a d => cat 288#14 (cat a (cat d (cat 61#6 (cat (BitVec.ofBool sb) 1#1))))
  | .hdrop a => cat 320#14 (cat a (cat 0#5 (cat 61#6 (cat (BitVec.ofBool sb) 1#1))))
  | .hwt a d => cat 352#14 (cat a (cat d (cat 61#6 (cat (BitVec.ofBool sb) 1#1))))
  | .hbind b a => cat 12#9 (cat b (cat a (cat 0#5 (cat 61#6 (cat (BitVec.ofBool sb) 1#1)))))
  | .barinit b a => cat 16#9 (cat b (cat a (cat 0#5 (cat 61#6 (cat (BitVec.ofBool sb) 1#1)))))
  | .bari a d => cat 544#14 (cat a (cat d (cat 61#6 (cat (BitVec.ofBool sb) 1#1))))
  | .barw b a => cat 18#9 (cat b (cat a (cat 0#5 (cat 61#6 (cat (BitVec.ofBool sb) 1#1)))))
  | .bart b a d => cat 19#9 (cat b (cat a (cat d (cat 61#6 (cat (BitVec.ofBool sb) 1#1)))))
  | .gbar b a => cat 20#9 (cat b (cat a (cat 0#5 (cat 61#6 (cat (BitVec.ofBool sb) 1#1)))))
  | .flushp a => cat 672#14 (cat a (cat 0#5 (cat 61#6 (cat (BitVec.ofBool sb) 1#1))))
  | .flushpG a => cat 8864#14 (cat a (cat 0#5 (cat 61#6 (cat (BitVec.ofBool sb) 1#1))))
  | .redt b a => cat 22#9 (cat b (cat a (cat 0#5 (cat 61#6 (cat (BitVec.ofBool sb) 1#1)))))
  | .spawn a => cat 0#14 (cat a (cat 0#5 (cat 62#6 (cat (BitVec.ofBool sb) 1#1))))
  | .join => cat 32768#24 (cat 62#6 (cat (BitVec.ofBool sb) 1#1))
  | .tenq a => cat 64#14 (cat a (cat 0#5 (cat 62#6 (cat (BitVec.ofBool sb) 1#1))))
  | .tpick => cat 98304#24 (cat 62#6 (cat (BitVec.ofBool sb) 1#1))
  | .tctr b a => cat 4#9 (cat b (cat a (cat 0#5 (cat 62#6 (cat (BitVec.ofBool sb) 1#1)))))
  | .tdec a => cat 160#14 (cat a (cat 0#5 (cat 62#6 (cat (BitVec.ofBool sb) 1#1))))
  | .klaunch b a d => cat 6#9 (cat b (cat a (cat d (cat 62#6 (cat (BitVec.ofBool sb) 1#1)))))
  | .emulation e => cat e (cat 63#6 (cat (BitVec.ofBool sb) 1#1))
  | .cMv b d => cat 0#16 (cat b (cat d (cat 0#4 (cat (BitVec.ofBool sb) 0#1))))
  | .cAdd b d => cat 0#16 (cat b (cat d (cat 1#4 (cat (BitVec.ofBool sb) 0#1))))
  | .cSub b d => cat 0#16 (cat b (cat d (cat 2#4 (cat (BitVec.ofBool sb) 0#1))))
  | .cAddi i d => cat 0#16 (cat i (cat d (cat 3#4 (cat (BitVec.ofBool sb) 0#1))))
  | .cLi i d => cat 0#16 (cat i (cat d (cat 4#4 (cat (BitVec.ofBool sb) 0#1))))
  | .cAnd b d => cat 0#16 (cat b (cat d (cat 5#4 (cat (BitVec.ofBool sb) 0#1))))
  | .cOr b d => cat 0#16 (cat b (cat d (cat 6#4 (cat (BitVec.ofBool sb) 0#1))))
  | .cSlli i d => cat 0#16 (cat i (cat d (cat 7#4 (cat (BitVec.ofBool sb) 0#1))))
  | .cLdw b d => cat 0#16 (cat b (cat d (cat 8#4 (cat (BitVec.ofBool sb) 0#1))))
  | .cStw b d => cat 0#16 (cat b (cat d (cat 9#4 (cat (BitVec.ofBool sb) 0#1))))
  | .cB o => cat 0#16 (cat o (cat 10#4 (cat (BitVec.ofBool sb) 0#1)))
  | .cBnz i d => cat 0#16 (cat i (cat d (cat 11#4 (cat (BitVec.ofBool sb) 0#1))))
  | .cPut k d => cat 0#16 (cat 0#2 (cat k (cat d (cat 12#4 (cat (BitVec.ofBool sb) 0#1)))))
  | .cGet k d => cat 0#16 (cat 0#2 (cat k (cat d (cat 13#4 (cat (BitVec.ofBool sb) 0#1)))))
  | .cNop => cat 0#16 (cat 0#10 (cat 14#4 (cat (BitVec.ofBool sb) 0#1)))
  | .cYield => cat 0#16 (cat 1#10 (cat 14#4 (cat (BitVec.ofBool sb) 0#1)))
  | .cSuspend => cat 0#16 (cat 2#10 (cat 14#4 (cat (BitVec.ofBool sb) 0#1)))
  | .cWfw => cat 0#16 (cat 3#10 (cat 14#4 (cat (BitVec.ofBool sb) 0#1)))
  | .cEret => cat 0#16 (cat 4#10 (cat 14#4 (cat (BitVec.ofBool sb) 0#1)))
  | .cBkpt => cat 0#16 (cat 5#10 (cat 14#4 (cat (BitVec.ofBool sb) 0#1)))
  | .cWaite => cat 0#16 (cat 6#10 (cat 14#4 (cat (BitVec.ofBool sb) 0#1)))
  | .packageReset => 0#32
  | .powerUpSequence => 0#32
  | .supplyDroopStretch => 0#32
  | .thermalThrottle => 0#32
  | .thermalShutdown => 0#32
  | .portLinkTrained => 0#32
  | .bindRecordDispatch => 0#32
  | .taskStart => 0#32
  | .parkRelease => 0#32
  | .loadDataReturn => 0#32
  | .divideResult => 0#32
  | .fdivFsqrtResult => 0#32
  | .timerExpiry => 0#32
  | .trapEntry => 0#32
  | .homeRegistration => 0#32
  | .homeRemoteRead => 0#32
  | .homeWriteBack => 0#32
  | .homeRedArrival => 0#32
  | .directoryHandlerDone => 0#32
  | .formatWindowFill => 0#32
  | .formatWindowWriteback => 0#32
  | .formatWindowEnable => 0#32
  | .pageWalk => 0#32
  | .fqheadWrite => 0#32
  | .faultRepost => 0#32
  | .flushPage => 0#32
  | .flushContext => 0#32
  | .flushComplete => 0#32
  | .copyWordTransfer => 0#32
  | .copyComplete => 0#32
  | .mfreeCombinedArrival => 0#32
  | .sparsityStoreResume => 0#32
  | .offerAcceptArrival => 0#32
  | .resolverEvaluation => 0#32
  | .withdrawalRequestArrival => 0#32
  | .portFire => 0#32
  | .withdrawalAck => 0#32
  | .portTimeout => 0#32
  | .bufItemArrival => 0#32
  | .bufCreditArrival => 0#32
  | .payloadReceive => 0#32
  | .streamPayloadDelivery => 0#32
  | .frontierAdvanceDelivery => 0#32
  | .kStep => 0#32
  | .commitDrain => 0#32
  | .groupRetire => 0#32
  | .ticketDeadlock => 0#32
  | .kernelAbort => 0#32
  | .weightArrival => 0#32
  | .treeNodeCombine => 0#32
  | .flushProbeReturn => 0#32
  | .doorbell => 0#32
  | .tenantTurn => 0#32
  | .groupPlacement => 0#32
  | .runListAging => 0#32
  | .stealAttempt => 0#32
  | .stealRequestArrival => 0#32
  | .overflowRingRefill => 0#32
  | .tdecArrival => 0#32
  | .tenqArrival => 0#32
  | .wenqArrival => 0#32
  | .preemptDeadline => 0#32
  | .groupSave => 0#32
  | .groupRestore => 0#32
  | .ctxCreate => 0#32
  | .ctxBind => 0#32
  | .ctxSave => 0#32
  | .ctxRestore => 0#32
  | .ctxDestroy => 0#32
  | .haltStop => 0#32
  | .haltResume => 0#32
  | .featlockWrite => 0#32
  | .tweightWrite => 0#32
  | .portcfgWrite => 0#32
  | .streamTableWrite => 0#32
  | .registerWrite => 0#32
  | .owlSpdmExchange => 0#32
  | .owlUnlock => 0#32
  | .owlLock => 0#32
  | .owlStop => 0#32
  | .owlResume => 0#32
  | .owlArm => 0#32
  | .owlDisarm => 0#32
  | .owlReadSlot => 0#32
  | .owlWriteSlot => 0#32
  | .owlReadMemory => 0#32
  | .owlWriteMemory => 0#32
  | .owlReadHaltRecord => 0#32
  | .errorDetected => 0#32
  | .unitSelftestComplete => 0#32
  | .homeAtomicAccess => 0#32
  | .counterRequestArrival => 0#32
  | .watchRequestArrival => 0#32
  | .stealAnswerArrival => 0#32

/-- The length in bytes of an instruction's word: 4, or 2 for the 16-bit forms (R44); 0 for an event. -/
def Instr.len (i : Instr) : Nat :=
  match i with
  | .add _ _ _ _ => 4
  | .sub _ _ _ _ => 4
  | .mul _ _ _ _ => 4
  | .mulh _ _ _ => 4
  | .mulhu _ _ _ => 4
  | .div _ _ _ _ => 4
  | .divu _ _ _ _ => 4
  | .rem _ _ _ _ => 4
  | .remu _ _ _ _ => 4
  | .min _ _ _ _ => 4
  | .max _ _ _ _ => 4
  | .minu _ _ _ _ => 4
  | .maxu _ _ _ _ => 4
  | .lea _ _ _ _ => 4
  | .and _ _ _ => 4
  | .or _ _ _ => 4
  | .xor _ _ _ => 4
  | .andn _ _ _ => 4
  | .orn _ _ _ => 4
  | .sll _ _ _ _ => 4
  | .srl _ _ _ _ => 4
  | .sra _ _ _ _ => 4
  | .rot _ _ _ _ => 4
  | .clz _ _ _ => 4
  | .ctz _ _ _ => 4
  | .popc _ _ _ => 4
  | .bswap _ _ => 4
  | .sext _ _ _ => 4
  | .zext _ _ _ => 4
  | .addi _ _ _ => 4
  | .andi _ _ _ => 4
  | .ori _ _ _ => 4
  | .xori _ _ _ => 4
  | .slli _ _ _ _ => 4
  | .srli _ _ _ _ => 4
  | .srai _ _ _ _ => 4
  | .roti _ _ _ _ => 4
  | .lui _ _ => 4
  | .auipc _ _ => 4
  | .bfx _ _ _ _ => 4
  | .bfxu _ _ _ _ => 4
  | .bfi _ _ _ _ => 4
  | .pcmp _ _ _ _ _ _ => 4
  | .pcmpi _ _ _ _ => 4
  | .pand _ _ _ => 4
  | .por _ _ _ => 4
  | .pxor _ _ _ => 4
  | .pnot _ _ => 4
  | .sel _ _ _ _ => 4
  | .mix _ _ _ => 4
  | .bcc _ _ _ _ => 4
  | .bp _ _ _ _ => 4
  | .j _ => 4
  | .jl _ => 4
  | .jlr _ _ _ => 4
  | .jr _ _ => 4
  | .loop _ _ _ => 4
  | .loopi _ _ _ _ => 4
  | .rep _ _ _ _ => 4
  | .replayEnd => 0
  | .cvt _ _ _ _ _ _ => 4
  | .faddS _ _ _ _ => 4
  | .fsubS _ _ _ _ => 4
  | .fmulS _ _ _ _ => 4
  | .fdivS _ _ _ _ => 4
  | .fsqrtS _ _ _ => 4
  | .fminS _ _ _ => 4
  | .fmaxS _ _ _ => 4
  | .fsgnS _ _ _ => 4
  | .fsgnnS _ _ _ => 4
  | .fsgnxS _ _ _ => 4
  | .fclassS _ _ => 4
  | .faddD _ _ _ _ => 4
  | .fsubD _ _ _ _ => 4
  | .fmulD _ _ _ _ => 4
  | .fdivD _ _ _ _ => 4
  | .fsqrtD _ _ _ => 4
  | .fminD _ _ _ => 4
  | .fmaxD _ _ _ => 4
  | .fsgnD _ _ _ => 4
  | .fsgnnD _ _ _ => 4
  | .fsgnxD _ _ _ => 4
  | .fclassD _ _ => 4
  | .ffma _ _ _ _ _ => 4
  | .ffms _ _ _ _ _ => 4
  | .fcmp _ _ _ _ _ _ => 4
  | .mfs _ _ => 4
  | .mts _ _ => 4
  | .cplaunch _ => 4
  | .trap _ _ => 4
  | .eret => 4
  | .yield => 4
  | .suspend => 4
  | .wfw => 4
  | .bkpt => 4
  | .nop => 4
  | .waite => 4
  | .ctxsave _ _ => 4
  | .ctxload _ => 4
  | .atr _ _ _ => 4
  | .tlbfl _ _ => 4
  | .haltp _ => 4
  | .selftest _ _ => 4
  | .vadd _ _ _ _ _ _ => 4
  | .vsub _ _ _ _ _ _ => 4
  | .vmul _ _ _ _ _ _ => 4
  | .vfma _ _ _ _ _ _ => 4
  | .vfms _ _ _ _ _ _ => 4
  | .vmin _ _ _ _ _ => 4
  | .vmax _ _ _ _ _ => 4
  | .vabs _ _ _ _ => 4
  | .vneg _ _ _ _ => 4
  | .vrcp _ _ _ _ => 4
  | .vrsq _ _ _ _ => 4
  | .vexp2 _ _ _ _ => 4
  | .viadd _ _ _ _ _ => 4
  | .visub _ _ _ _ _ => 4
  | .vimul _ _ _ _ _ => 4
  | .vimad _ _ _ _ _ => 4
  | .vimin _ _ _ _ _ => 4
  | .vimax _ _ _ _ _ => 4
  | .vand _ _ _ _ _ => 4
  | .vor _ _ _ _ _ => 4
  | .vxor _ _ _ _ _ => 4
  | .vsll _ _ _ _ _ => 4
  | .vsrl _ _ _ _ _ => 4
  | .vsra _ _ _ _ _ => 4
  | .viabs _ _ _ _ => 4
  | .vcmp _ _ _ _ _ _ => 4
  | .vsel _ _ _ _ => 4
  | .vperm _ _ _ _ => 4
  | .vrev _ _ _ => 4
  | .vslide _ _ _ _ _ => 4
  | .vzip _ _ _ _ => 4
  | .vunzip _ _ _ => 4
  | .vbcast _ _ _ => 4
  | .vext _ _ _ => 4
  | .vins _ _ _ => 4
  | .viota _ _ _ => 4
  | .vmix _ _ _ _ => 4
  | .vred _ _ _ _ _ => 4
  | .vscan _ _ _ _ _ => 4
  | .vdot _ _ _ _ _ _ => 4
  | .vcvt _ _ _ _ _ _ => 4
  | .vpack _ _ _ _ _ _ => 4
  | .vunpk _ _ _ _ _ => 4
  | .vbscale _ _ _ _ _ _ => 4
  | .ld _ _ _ _ => 4
  | .ldWindow _ _ _ _ _ => 4
  | .st _ _ _ _ => 4
  | .vld _ _ _ => 4
  | .vst _ _ _ => 4
  | .vlds _ _ _ _ => 4
  | .vsts _ _ _ _ => 4
  | .ldp _ _ _ => 4
  | .vldp _ _ _ => 4
  | .vldWindow _ _ _ _ => 4
  | .amo _ _ _ _ _ => 4
  | .cas _ _ _ _ => 4
  | .lda _ _ _ => 4
  | .stl _ _ _ => 4
  | .acq => 4
  | .rel => 4
  | .fence => 4
  | .red _ _ _ _ => 4
  | .vgather _ _ _ _ => 4
  | .vscatter _ _ _ _ => 4
  | .ldx _ _ _ _ _ _ => 4
  | .stx _ _ _ _ _ => 4
  | .wenq _ _ _ => 4
  | .watch _ _ => 4
  | .unwatch _ _ => 4
  | .pref _ => 4
  | .cflush _ => 4
  | .cinv _ => 4
  | .copyp _ _ => 4
  | .twaitany _ _ => 4
  | .twaitall _ => 4
  | .tfind _ _ => 4
  | .ttest _ _ => 4
  | .tclr _ => 4
  | .chopen _ _ _ => 4
  | .chclose _ => 4
  | .mfree _ => 4
  | .mbwait _ _ => 4
  | .put _ _ => 4
  | .get _ _ => 4
  | .putv _ _ => 4
  | .getv _ _ => 4
  | .psel _ _ _ => 4
  | .putb _ _ _ => 4
  | .getb _ _ _ => 4
  | .cload _ _ _ => 4
  | .cunload _ => 4
  | .pbind _ _ _ => 4
  | .punbind _ => 4
  | .cstat _ _ _ => 4
  | .tmma _ _ => 4
  | .tmmaSp _ _ _ => 4
  | .tzero => 4
  | .tld _ _ => 4
  | .tst _ _ => 4
  | .tldb _ _ => 4
  | .tjoin _ => 4
  | .twt _ => 4
  | .tstat _ _ => 4
  | .tkget _ _ => 4
  | .tkwait _ => 4
  | .publish => 4
  | .hnew _ _ => 4
  | .hcopy _ _ => 4
  | .hdrop _ => 4
  | .hwt _ _ => 4
  | .hbind _ _ => 4
  | .barinit _ _ => 4
  | .bari _ _ => 4
  | .barw _ _ => 4
  | .bart _ _ _ => 4
  | .gbar _ _ => 4
  | .flushp _ => 4
  | .flushpG _ => 4
  | .redt _ _ => 4
  | .spawn _ => 4
  | .join => 4
  | .tenq _ => 4
  | .tpick => 4
  | .tctr _ _ => 4
  | .tdec _ => 4
  | .klaunch _ _ _ => 4
  | .emulation _ => 4
  | .cMv _ _ => 2
  | .cAdd _ _ => 2
  | .cSub _ _ => 2
  | .cAddi _ _ => 2
  | .cLi _ _ => 2
  | .cAnd _ _ => 2
  | .cOr _ _ => 2
  | .cSlli _ _ => 2
  | .cLdw _ _ => 2
  | .cStw _ _ => 2
  | .cB _ => 2
  | .cBnz _ _ => 2
  | .cPut _ _ => 2
  | .cGet _ _ => 2
  | .cNop => 2
  | .cYield => 2
  | .cSuspend => 2
  | .cWfw => 2
  | .cEret => 2
  | .cBkpt => 2
  | .cWaite => 2
  | .packageReset => 0
  | .powerUpSequence => 0
  | .supplyDroopStretch => 0
  | .thermalThrottle => 0
  | .thermalShutdown => 0
  | .portLinkTrained => 0
  | .bindRecordDispatch => 0
  | .taskStart => 0
  | .parkRelease => 0
  | .loadDataReturn => 0
  | .divideResult => 0
  | .fdivFsqrtResult => 0
  | .timerExpiry => 0
  | .trapEntry => 0
  | .homeRegistration => 0
  | .homeRemoteRead => 0
  | .homeWriteBack => 0
  | .homeRedArrival => 0
  | .directoryHandlerDone => 0
  | .formatWindowFill => 0
  | .formatWindowWriteback => 0
  | .formatWindowEnable => 0
  | .pageWalk => 0
  | .fqheadWrite => 0
  | .faultRepost => 0
  | .flushPage => 0
  | .flushContext => 0
  | .flushComplete => 0
  | .copyWordTransfer => 0
  | .copyComplete => 0
  | .mfreeCombinedArrival => 0
  | .sparsityStoreResume => 0
  | .offerAcceptArrival => 0
  | .resolverEvaluation => 0
  | .withdrawalRequestArrival => 0
  | .portFire => 0
  | .withdrawalAck => 0
  | .portTimeout => 0
  | .bufItemArrival => 0
  | .bufCreditArrival => 0
  | .payloadReceive => 0
  | .streamPayloadDelivery => 0
  | .frontierAdvanceDelivery => 0
  | .kStep => 0
  | .commitDrain => 0
  | .groupRetire => 0
  | .ticketDeadlock => 0
  | .kernelAbort => 0
  | .weightArrival => 0
  | .treeNodeCombine => 0
  | .flushProbeReturn => 0
  | .doorbell => 0
  | .tenantTurn => 0
  | .groupPlacement => 0
  | .runListAging => 0
  | .stealAttempt => 0
  | .stealRequestArrival => 0
  | .overflowRingRefill => 0
  | .tdecArrival => 0
  | .tenqArrival => 0
  | .wenqArrival => 0
  | .preemptDeadline => 0
  | .groupSave => 0
  | .groupRestore => 0
  | .ctxCreate => 0
  | .ctxBind => 0
  | .ctxSave => 0
  | .ctxRestore => 0
  | .ctxDestroy => 0
  | .haltStop => 0
  | .haltResume => 0
  | .featlockWrite => 0
  | .tweightWrite => 0
  | .portcfgWrite => 0
  | .streamTableWrite => 0
  | .registerWrite => 0
  | .owlSpdmExchange => 0
  | .owlUnlock => 0
  | .owlLock => 0
  | .owlStop => 0
  | .owlResume => 0
  | .owlArm => 0
  | .owlDisarm => 0
  | .owlReadSlot => 0
  | .owlWriteSlot => 0
  | .owlReadMemory => 0
  | .owlWriteMemory => 0
  | .owlReadHaltRecord => 0
  | .errorDetected => 0
  | .unitSelftestComplete => 0
  | .homeAtomicAccess => 0
  | .counterRequestArrival => 0
  | .watchRequestArrival => 0
  | .stealAnswerArrival => 0

/-- An instruction word that the entry's own conditions make illegal is rejected. -/
def checked (r : Except Reject Instr) : Except Reject Instr :=
  match r with
  | .ok i => if i.wf then .ok i else .error .illegalOperands
  | .error e => .error e

/-- A decoded word: the instruction, its switch marker S (R45) and its length in bytes (R44). -/
structure Fetched where
  i : Instr
  sb : Bool
  len : Nat
  deriving DecidableEq, Repr

/-- Decoding a word whose first parcel is its low half (R44). Only the first parcel decides the length. The parcels
0x0000 and 0xffff are illegal (R59, order 2). -/
def decodeWord (w : BitVec 32) : Except Reject Fetched :=
  if w.extractLsb' 0 16 = 0x0000#16 ∨ w.extractLsb' 0 16 = 0xffff#16 then .error .illegalParcel
  else
    let r := if bit w 0 then checked (decode32 w) else checked (decode16 (w.extractLsb' 0 16))
    match r with
    | .ok i => .ok ⟨i, bit w 1, if bit w 0 then 4 else 2⟩
    | .error e => .error e

/-- The length in bytes that the first parcel gives a word (R44). -/
def wordLen (w : BitVec 32) : Nat := if bit w 0 then 4 else 2

/-- Up to four little-endian bytes as a word (R1); a missing byte reads as zero. -/
def wordOfBytes : List (BitVec 8) → BitVec 32
  | b0 :: b1 :: b2 :: b3 :: _ => b3 ++ b2 ++ b1 ++ b0
  | b0 :: b1 :: b2 :: [] => 0#8 ++ b2 ++ b1 ++ b0
  | b0 :: b1 :: [] => 0#8 ++ 0#8 ++ b1 ++ b0
  | b0 :: [] => 0#8 ++ 0#8 ++ 0#8 ++ b0
  | [] => 0#32

/-- Decoding the bytes at the head of a list. -/
def decodeBytes (bs : List (BitVec 8)) : Except Reject Fetched := decodeWord (wordOfBytes bs)

/-- The bytes of a word, lowest address first (R1). -/
def bytesOfWord (w : BitVec 32) : List (BitVec 8) :=
  [w.extractLsb' 0 8, w.extractLsb' 8 8, w.extractLsb' 16 8, w.extractLsb' 24 8]

/-- The bytes of an instruction with switch marker `sb`, lowest address first; an event has none. -/
def encode (sb : Bool) (i : Instr) : List (BitVec 8) := (bytesOfWord (encodeWord sb i)).take i.len

/-- The terms that have a word of their own: an encoded instruction that is well formed, and not one whose first parcel
would be 0x0000 (`c.mv g0, g0` without S) or 0xffff (major 0x3f with all ones). -/
def Encodable (sb : Bool) (i : Instr) : Prop :=
  i.wf = true ∧ i.len ≠ 0 ∧ (encodeWord sb i).extractLsb' 0 16 ≠ 0x0000#16 ∧ (encodeWord sb i).extractLsb' 0 16 ≠ 0xffff#16

/-- The decoder at a word numbered as opcode_table.json numbers its bits; every bit above `nbits` is 0. -/
def decodeTableWord (nbits w : Nat) : Option Instr :=
  match decodeBytes (bytesOfWord (BitVec.ofNat 32 (w % 2 ^ nbits))) with
  | .ok f => some f.i
  | .error _ => none

end Sys2Proof
end

