-- ==== Sys2Proof/Machine/Bits.lean ====
section
/-! DEFINITION. Bit fields, byte order and the MIX function: the helpers that every meaning shares (R1, R37 to R39). -/

namespace Sys2Proof.Machine

/-- The slice x<hi:lo> as a number (R37). -/
def slice {n : Nat} (x : BitVec n) (hi lo : Nat) : Nat := (x.toNat >>> lo) % 2 ^ (hi + 1 - lo)

/-- Bits hi:lo of x replaced by the low bits of v. -/
def setSlice {n : Nat} (x : BitVec n) (hi lo v : Nat) : BitVec n :=
  let m := (2 ^ (hi + 1 - lo) - 1) * 2 ^ lo
  (x &&& ~~~(BitVec.ofNat n m)) ||| BitVec.ofNat n ((v % 2 ^ (hi + 1 - lo)) * 2 ^ lo)

/-- Bit j of x set to b. -/
def setBit {n : Nat} (x : BitVec n) (j : Nat) (b : Bool) : BitVec n :=
  if b then x ||| BitVec.ofNat n (2 ^ j) else x &&& ~~~(BitVec.ofNat n (2 ^ j))

/-- A field of width n widened with copies of its top bit (R39). -/
def sext64 {n : Nat} (x : BitVec n) : BitVec 64 := x.signExtend 64

/-- A field of width n widened with zeros (R39). -/
def zext64 {n : Nat} (x : BitVec n) : BitVec 64 := x.setWidth 64

/-- One bit as a 64-bit value. -/
def bool64 (b : Bool) : BitVec 64 := if b then 1#64 else 0#64

/-- Bits 31:0 of a general register, sign-extended: the result rule of W = 1 (R121). -/
def wres (x : BitVec 64) : BitVec 64 := sext64 (x.extractLsb' 0 32)

/-- The n bytes of a number, lowest first (R1). -/
def bytesLE : Nat → Nat → List (BitVec 8)
  | 0, _ => []
  | k + 1, v => BitVec.ofNat 8 (v % 256) :: bytesLE k (v / 256)

/-- The number that little-endian bytes hold (R1). -/
def ofBytesLE : List (BitVec 8) → Nat
  | [] => 0
  | b :: bs => b.toNat + 256 * ofBytesLE bs

/-- The size in bytes of an access size code. -/
def szBytes : Sz → Nat
  | .b => 1
  | .h => 2
  | .w => 4
  | .d => 8

/-- Whether a is a multiple of n. -/
def aligned (a n : Nat) : Bool := a % n == 0

/-- a rounded down to a multiple of n. -/
def alignDown (a n : Nat) : Nat := a / n * n

/-- a rounded up to a multiple of n. -/
def alignUp (a n : Nat) : Nat := (a + n - 1) / n * n

/-- The greatest k with 2^k ≤ n, and 0 for 0. -/
def log2 (n : Nat) : Nat := n.log2

/-- The MIX function on 32-bit counter and key (R139). -/
def mix32 (c k : BitVec 32) : BitVec 32 :=
  let x := c + k * 0x9e3779b9#32
  let x := (x ^^^ (x >>> 16)) * 0x85ebca6b#32
  let x := (x ^^^ (x >>> 13)) * 0xc2b2ae35#32
  x ^^^ (x >>> 16)

/-- MIX of two general registers: only bits 31:0 take part (R139). -/
def mix64 (c k : BitVec 64) : BitVec 64 := zext64 (mix32 (c.extractLsb' 0 32) (k.extractLsb' 0 32))

/-- The number of leading zero bits of the low w bits of n. -/
def clzNat (w n : Nat) : Nat := if n = 0 then w else w - 1 - log2 n

/-- The number of trailing zero bits of n, at most w. -/
def ctzNat : Nat → Nat → Nat
  | 0, _ => 0
  | w + 1, n => if n % 2 = 1 then 0 else 1 + ctzNat w (n / 2)

/-- The number of one bits among the low w bits of n. -/
def popcNat : Nat → Nat → Nat
  | 0, _ => 0
  | w + 1, n => n % 2 + popcNat w (n / 2)

/-- The integer square root by its bits: the greatest r below 2^k with r*r ≤ n. -/
def isqrtFrom : Nat → Nat → Nat → Nat
  | 0, _, r => r
  | k + 1, n, r => let t := r + 2 ^ k; isqrtFrom k n (if t * t ≤ n then t else r)

/-- The integer square root of n. -/
def isqrt (n : Nat) : Nat := isqrtFrom (log2 n / 2 + 1) n 0

/-- An integer taken modulo 2^n as a bit vector. -/
def ofInt (n : Nat) (i : Int) : BitVec n := BitVec.ofInt n i

/-- The elements of a list with their indexes from k. -/
def enumFrom {α : Type} : Nat → List α → List (Nat × α)
  | _, [] => []
  | k, a :: as => (k, a) :: enumFrom (k + 1) as

/-- The first n natural numbers. -/
def upTo (n : Nat) : List Nat := List.range n

end Sys2Proof.Machine
end

