-- ==== Sys2Proof/Machine/Float.lean ====
section
/-! DEFINITION. Exact values, rounding and narrowing: the formats of R64 and R65, the modes of R72 and R73, the policies
of R74 and R75, and the scalar operations on exact values. -/

namespace Sys2Proof.Machine

/-- A nonnegative magnitude: num / den * 2^e, and a little more (less than one unit of num) when `sticky`. Every operation
but the square roots and the exponential is exact and leaves `sticky` false. -/
structure Mag where
  num : Nat
  den : Nat
  e : Int
  sticky : Bool
  deriving DecidableEq, Repr

/-- A floating-point operand or an exact result: a NaN (signalling or quiet), an infinity, or a signed magnitude. -/
inductive Val where
  | nan (signalling : Bool)
  | inf (neg : Bool)
  | num (neg : Bool) (m : Mag)
  deriving DecidableEq, Repr

/-- The rounding environment of one instruction: the mode code, the narrowing policy (true is TRAP), the stochastic key
and counter, the flags raised so far in the order of st<5:0>, and the lowest element that a narrowing trap names. -/
structure Fpu where
  rm : Nat
  np : Bool
  rnk : BitVec 64
  rnc : BitVec 64
  flags : BitVec 6
  trapAt : Option Nat
  deriving DecidableEq, Repr

/-- The layout of a floating-point format: precision in bits with the leading one, exponent of the least subnormal unit,
widths of the whole code and of the exponent, the largest finite magnitude's code, and the NaN code. -/
structure FloatFmt where
  prec : Nat
  emin : Int
  bits : Nat
  signed : Bool
  maxCode : Nat
  nanCode : Nat
  infCode : Option Nat
  deriving DecidableEq, Repr

/-- The floating-point formats of R64; none for the integer and pair formats, and E8M0, which has no zero, apart. -/
def floatFmt : Fmt → Option FloatFmt
  | .e4m3 => some ⟨4, -9, 8, true, 0x7e, 0x7f, none⟩
  | .e5m2 => some ⟨3, -16, 8, true, 0x7b, 0x7e, some 0x7c⟩
  | .f16 => some ⟨11, -24, 16, true, 0x7bff, 0x7e00, some 0x7c00⟩
  | .bf16 => some ⟨8, -133, 16, true, 0x7f7f, 0x7fc0, some 0x7f80⟩
  | .f32 => some ⟨24, -149, 32, true, 0x7f7fffff, 0x7fc00000, some 0x7f800000⟩
  | .f64 => some ⟨53, -1074, 64, true, 0x7fefffffffffffff, 0x7ff8000000000000, some 0x7ff0000000000000⟩
  | .ue5m3 => some ⟨4, -17, 8, false, 0xfe, 0xff, none⟩
  | _ => none

/-- The width in bits of an element of a format (R64). -/
def fmtBits : Fmt → Nat
  | .i8 | .u8 | .e4m3 | .e5m2 | .e8m0 | .ue5m3 => 8
  | .i16 | .f16 | .bf16 => 16
  | .i32 | .f32 => 32
  | .i64 | .f64 => 64
  | .i4 | .o4 => 4

/-- The least and greatest value of an integer format (R64). -/
def intRange : Fmt → Option (Int × Int)
  | .i8 => some (-128, 127)
  | .u8 => some (0, 255)
  | .i16 => some (-32768, 32767)
  | .i32 => some (-2147483648, 2147483647)
  | .i64 => some (-9223372036854775808, 9223372036854775807)
  | .i4 => some (-8, 7)
  | _ => none

/-! ### Magnitudes -/

/-- An exact dyadic magnitude n * 2^e. -/
def dyadic (n : Nat) (e : Int) : Mag := ⟨n, 1, e, false⟩

def Mag.isZero (m : Mag) : Bool := m.num == 0 && !m.sticky

/-- The numerator and denominator of m measured in units of 2^u. -/
def Mag.inUnits (m : Mag) (u : Int) : Nat × Nat :=
  if u ≤ m.e then (m.num * 2 ^ (m.e - u).toNat, m.den) else (m.num, m.den * 2 ^ (u - m.e).toNat)

/-- floor(log2 m) of a nonzero magnitude. -/
def Mag.exponent (m : Mag) : Int :=
  let k : Int := (log2 m.num : Int) - (log2 m.den : Int)
  let (a, b) := Mag.inUnits ⟨m.num, m.den, 0, false⟩ k
  if a < b then k - 1 + m.e else k + m.e

/-- The exact sum of two magnitudes. -/
def Mag.add (x y : Mag) : Mag :=
  let e := min x.e y.e
  let (a, b) := x.inUnits e
  let (c, d) := y.inUnits e
  ⟨a * d + c * b, b * d, e, false⟩

/-- Whether x < y, for exact magnitudes. -/
def Mag.lt (x y : Mag) : Bool :=
  let e := min x.e y.e
  let (a, b) := x.inUnits e
  let (c, d) := y.inUnits e
  a * d < c * b

/-- The exact difference x - y of exact magnitudes with y ≤ x. -/
def Mag.sub (x y : Mag) : Mag :=
  let e := min x.e y.e
  let (a, b) := x.inUnits e
  let (c, d) := y.inUnits e
  ⟨a * d - c * b, b * d, e, false⟩

def Mag.mul (x y : Mag) : Mag := ⟨x.num * y.num, x.den * y.den, x.e + y.e, false⟩

/-- The exact quotient by a nonzero magnitude. -/
def Mag.div (x y : Mag) : Mag := ⟨x.num * y.den, x.den * y.num, x.e - y.e, false⟩

/-- The square root of a dyadic magnitude, to 128 bits more than its operand needs, with what is left in `sticky`. -/
def Mag.sqrt (x : Mag) : Mag :=
  let n := if x.e % 2 = 0 then x.num else 2 * x.num
  let e := if x.e % 2 = 0 then x.e else x.e - 1
  let big := n * 2 ^ 256
  let r := isqrt big
  ⟨r, 1, e / 2 - 128, r * r != big⟩

/-- 1 / √x of a nonzero dyadic magnitude, to at least 128 significant bits, with what is left in `sticky`. -/
def Mag.rsqrt (x : Mag) : Mag :=
  let n := if x.e % 2 = 0 then x.num else 2 * x.num
  let e := if x.e % 2 = 0 then x.e else x.e - 1
  let r := isqrt (2 ^ 512 / n)
  ⟨r, 1, -(e / 2) - 256, r * r * n != 2 ^ 512⟩

/-- Terms of artanh(1/3) in units of 2^-p, from term k on, `fuel` of them: their sum times 2 is ln 2. -/
def artanhThird : Nat → Nat → Nat → Nat
  | 0, _, _ => 0
  | fuel + 1, k, t => t / (2 * k + 1) + artanhThird fuel (k + 1) (t / 9)

/-- ln 2 in units of 2^-512 (error below 2^-500). -/
def ln2Fix : Nat := 2 * artanhThird 170 0 (2 ^ 512 / 3)

/-- The exponential series of y (in units of 2^-512) from term k on, with term t. -/
def expSeries : Nat → Nat → Nat → Nat → Nat
  | 0, _, _, _ => 0
  | fuel + 1, k, t, y => t + expSeries fuel (k + 1) (t * y / 2 ^ 512 / (k + 1)) y

/-- 2^f for 0 ≤ f < 1 given as a fraction n / 2^w: 320 bits after the point, from the exponential series carried to
512 bits. 2^f is irrational unless f is 0, so the bits below are never all zero. -/
def pow2Frac (n w : Nat) : Mag :=
  if n = 0 then dyadic 1 0
  else ⟨expSeries 110 0 (2 ^ 512) (n * ln2Fix / 2 ^ w) / 2 ^ 192, 1, -320, true⟩

/-- 2^a for a dyadic a, given its sign and magnitude n * 2^e. -/
def pow2 (neg : Bool) (m : Mag) : Mag :=
  if 0 ≤ m.e then
    let k : Int := (m.num * 2 ^ m.e.toNat : Nat)
    dyadic 1 (if neg then -k else k)
  else
    let w := (-m.e).toNat
    let i := m.num / 2 ^ w
    let f := m.num % 2 ^ w
    if !neg then
      let r := pow2Frac f w
      { r with e := r.e + i }
    else if f = 0 then dyadic 1 (-(i : Int))
    else
      let r := pow2Frac (2 ^ w - f) w
      { r with e := r.e - i - 1 }

/-! ### Decoding values (R64, R65) -/

/-- The value of a code of a floating-point format. -/
def floatVal (f : FloatFmt) (x : Nat) : Val :=
  let w := f.prec - 1
  let neg := f.signed && decide (2 ^ (f.bits - 1) ≤ x % 2 ^ f.bits)
  let mag := if f.signed then x % 2 ^ (f.bits - 1) else x % 2 ^ f.bits
  if some mag = f.infCode then .inf neg
  else if f.maxCode < mag then
    .nan (f.infCode.isSome && decide (mag % 2 ^ w < 2 ^ (w - 1)))
  else
    let ex := mag / 2 ^ w
    let mant := mag % 2 ^ w
    if ex = 0 then .num neg (dyadic mant f.emin)
    else .num neg (dyadic (mant + 2 ^ w) (f.emin + ((ex - 1 : Nat) : Int)))

/-- value(bits, fmt) of R81: the exact value of the low bits of x in a format (INT4 as its own two's complement). -/
def value (f : Fmt) (x : Nat) : Val :=
  match floatFmt f with
  | some ff => floatVal ff x
  | none =>
    match f with
    | .e8m0 => if x % 256 = 255 then .nan false else .num false (dyadic 1 (((x % 256 : Nat) : Int) - 127))
    | .u8 => .num false (dyadic (x % 256) 0)
    | _ =>
      let w := fmtBits f
      let i := (BitVec.ofNat w x).toInt
      .num (decide (i < 0)) (dyadic i.natAbs 0)

/-- A signalling NaN, which sets NV wherever an arithmetic instruction reads it (R160). -/
def Val.snan : Val → Bool
  | .nan s => s
  | _ => false

def Val.isNan : Val → Bool
  | .nan _ => true
  | _ => false

def Val.neg : Val → Bool
  | .nan _ => false
  | .inf n => n
  | .num n _ => n

/-- The value with its sign inverted (a NaN stays). -/
def Val.negate : Val → Val
  | .nan s => .nan s
  | .inf n => .inf (!n)
  | .num n m => .num (!n) m

/-! ### The rounding environment -/

/-- Flag positions of st<5:0> (R78). -/
def Fpu.raise (c : Fpu) (j : Nat) : Fpu := { c with flags := setBit c.flags j true }
def flNX : Nat := 0
def flUF : Nat := 1
def flOF : Nat := 2
def flDZ : Nat := 3
def flNV : Nat := 4
def flZS : Nat := 5

def Fpu.raiseIf (c : Fpu) (b : Bool) (j : Nat) : Fpu := if b then c.raise j else c

/-- The narrowing trap of element i: the lowest-numbered element counts (R76). -/
def Fpu.narrowTrap (c : Fpu) (i : Nat) : Fpu :=
  match c.trapAt with
  | none => { c with trapAt := some i }
  | some j => { c with trapAt := some (min i j) }

/-- One stochastic draw, made by every rounding under SR whatever its result (R73). -/
def Fpu.draw (c : Fpu) : Nat × Fpu :=
  if c.rm = 5 then
    ((mix32 (c.rnc.extractLsb' 0 32) (c.rnk.extractLsb' 0 32)).toNat, { c with rnc := c.rnc + 1 })
  else (0, c)

/-- Whether the magnitude rounds up to hi, given the exact fraction rem / b of the step from lo to hi (R72). `evenLo`
says that lo has the even last digit, r is the stochastic draw. -/
def roundsUp (rm : Nat) (neg evenLo : Bool) (rem b : Nat) (sticky : Bool) (r : Nat) : Bool :=
  if rem = 0 && !sticky then false
  else match rm with
    | 0 => decide (b < 2 * rem) || (decide (2 * rem = b) && (sticky || !evenLo))
    | 1 => false
    | 2 => !neg
    | 3 => neg
    | 4 => decide (b ≤ 2 * rem)
    | 5 => decide (2 ^ 32 ≤ rem * 2 ^ 32 / b + r)
    | _ => false

/-- A magnitude rounded to a whole number of units of 2^u: the count of units, and whether that is inexact. -/
def roundUnits (rm : Nat) (neg : Bool) (m : Mag) (u : Int) (r : Nat) : Nat × Bool :=
  let (a, b) := m.inUnits u
  let lo := a / b
  let rem := a % b
  let up := roundsUp rm neg (lo % 2 = 0) rem b m.sticky r
  (if up then lo + 1 else lo, rem ≠ 0 || m.sticky)

/-- A nonzero magnitude rounded to a precision, with exponents unbounded above and the least unit emin below: the count
of units, the unit's exponent, and whether that is inexact. -/
def roundPrec (rm : Nat) (neg : Bool) (m : Mag) (prec : Nat) (emin : Int) (r : Nat) : Nat × Int × Bool :=
  let u := max emin (m.exponent - ((prec : Int) - 1))
  let (q, x) := roundUnits rm neg m u r
  (q, u, x)

/-- The code of the finite magnitude q * 2^u of a format, where u is at least the format's least unit. -/
def finiteCode (f : FloatFmt) (q : Nat) (u : Int) : Nat := q + (u - f.emin).toNat * 2 ^ (f.prec - 1)

/-- The sign bit of a format. -/
def signCode (f : FloatFmt) (neg : Bool) : Nat := if neg && f.signed then 2 ^ (f.bits - 1) else 0

/-- What an overflow gives where a format has infinities (R75): the code, by mode and sign. -/
def overflowCode (f : FloatFmt) (rm : Nat) (neg : Bool) : Nat :=
  let toInf := match rm with
    | 1 => false
    | 2 => !neg
    | 3 => neg
    | _ => true
  signCode f neg + (match toInf, f.infCode with
    | true, some c => c
    | _, _ => f.maxCode)

/-- round(x, fmt, rm) to a format whose overflow follows IEEE 754: FP32, FP64 and the BF16 lanes (R75, R160, R175).
`r` is the draw already made. Flags: NX, OF, and UF when the exact value is tiny and the result inexact (R78). -/
def roundIeee (f : FloatFmt) (v : Val) (r : Nat) (c : Fpu) : Nat × Fpu :=
  match v with
  | .nan _ => (f.nanCode, c)
  | .inf n => (signCode f n + f.infCode.getD f.maxCode, c)
  | .num n m =>
    if m.isZero then (signCode f n, c)
    else
      let (q, u, x) := roundPrec c.rm n m f.prec f.emin r
      let tiny := decide (m.exponent < f.emin + ((f.prec : Int) - 1))
      let code := finiteCode f q u
      if f.maxCode < code then (overflowCode f c.rm n, (c.raise flOF).raise flNX)
      else (signCode f n + code, (c.raiseIf x flNX).raiseIf (x && tiny) flUF)

/-- One rounding of an arithmetic result: draws, then rounds (R73, R160). -/
def roundTo (f : FloatFmt) (v : Val) (c : Fpu) : Nat × Fpu :=
  let (r, c) := c.draw
  roundIeee f v r c

/-- The format FP32. -/
def fp32 : FloatFmt := ⟨24, -149, 32, true, 0x7f7fffff, 0x7fc00000, some 0x7f800000⟩
/-- The format FP64. -/
def fp64 : FloatFmt := ⟨53, -1074, 64, true, 0x7fefffffffffffff, 0x7ff8000000000000, some 0x7ff0000000000000⟩
/-- The format BF16. -/
def bf16 : FloatFmt := ⟨8, -133, 16, true, 0x7f7f, 0x7fc0, some 0x7f80⟩

/-! ### Narrowing (R74 to R76) -/

/-- Narrowing to a floating-point format other than FP32, FP64 and E8M0. -/
def narrowFloat (f : FloatFmt) (v : Val) (r i : Nat) (c : Fpu) : Nat × Fpu :=
  let past (n : Bool) (c : Fpu) : Nat × Fpu :=
    if c.np then (signCode f n + f.maxCode, c.narrowTrap i)
    else (signCode f n + f.maxCode, (c.raise flOF).raise flNX)
  match v with
  | .nan s => (f.nanCode, c.raiseIf s flNV)
  | .inf n => if n && !f.signed then (f.nanCode, c.raise flNV) else past n c
  | .num n m =>
    if m.isZero then (signCode f n, c)
    else if n && !f.signed then (f.nanCode, c.raise flNV)
    else
      let (q, u, x) := roundPrec c.rm n m f.prec f.emin r
      let tiny := decide (m.exponent < f.emin + ((f.prec : Int) - 1))
      let code := finiteCode f q u
      if f.maxCode < code then past n c
      else (signCode f n + code, (c.raiseIf x flNX).raiseIf (x && tiny) flUF)

/-- Narrowing to E8M0, which holds 2^-127 to 2^127 and no zero (R64, R74): zero and values below 2^-127 give 0x00. A tie
of RNE goes to the even code (DEDUCED, log 50). -/
def narrowE8m0 (v : Val) (r i : Nat) (c : Fpu) : Nat × Fpu :=
  let past (c : Fpu) : Nat × Fpu :=
    if c.np then (0xfe, c.narrowTrap i) else (0xfe, (c.raise flOF).raise flNX)
  match v with
  | .nan s => (0xff, c.raiseIf s flNV)
  | .inf n => if n then (0xff, c.raise flNV) else past c
  | .num n m =>
    if m.isZero then (0x00, c.raise flNX)
    else if n then (0xff, c.raise flNV)
    else
      let u := m.exponent
      if u < -127 then (0x00, c.raise flNX)
      else
        let (a, b) := m.inUnits u
        let rem := a - b
        let lo := (u + 127).toNat
        let code := if roundsUp c.rm false (lo % 2 = 0) rem b m.sticky r then lo + 1 else lo
        if 0xfe < code then past c
        else (code, c.raiseIf (rem ≠ 0 || m.sticky) flNX)

/-- Narrowing to an integer format or INT4: rounds to an integral value by the mode; -0 becomes 0 (R74, R81). The code
has the format's width. -/
def narrowInt (w : Nat) (lo hi : Int) (v : Val) (r i : Nat) (c : Fpu) : Nat × Fpu :=
  let enc (k : Int) : Nat := (BitVec.ofInt w k).toNat
  let past (n : Bool) (c : Fpu) : Nat × Fpu :=
    if c.np then (enc (if n then lo else hi), c.narrowTrap i)
    else (enc (if n then lo else hi), (c.raise flOF).raise flNX)
  match v with
  | .nan _ => (0, c.raise flNV)
  | .inf n => past n c
  | .num n m =>
    let (q, x) := roundUnits c.rm n m 0 r
    let k : Int := if n then -(q : Int) else q
    if k < lo || hi < k then past n c else (enc k, c.raiseIf x flNX)

/-- narrow(v, fmt, rm, i) of R81 for every format but O4: R72 to R75 with element index i. It draws once under SR. -/
def narrow (f : Fmt) (v : Val) (i : Nat) (c : Fpu) : Nat × Fpu :=
  let (r, c) := c.draw
  match f with
  | .f32 => roundIeee fp32 v r (c.raiseIf v.snan flNV)
  | .f64 => roundIeee fp64 v r (c.raiseIf v.snan flNV)
  | .e8m0 => narrowE8m0 v r i c
  | _ =>
    match floatFmt f with
    | some ff => narrowFloat ff v r i c
    | none =>
      match intRange f with
      | some (lo, hi) => narrowInt (fmtBits f) lo hi v r i c
      | none => (0, c)

/-! ### Arithmetic on exact values (R160, R163, R167) -/

/-- The sum of two values. A zero sum of operands of opposite signs is +0, or -0 under RDN. -/
def addVal (x y : Val) (c : Fpu) : Val × Fpu :=
  match x, y with
  | .nan s, y => (.nan false, c.raiseIf (s || y.snan) flNV)
  | x, .nan s => (.nan false, c.raiseIf (s || x.snan) flNV)
  | .inf m, .inf n => if m = n then (.inf m, c) else (.nan false, c.raise flNV)
  | .inf m, .num _ _ => (.inf m, c)
  | .num _ _, .inf n => (.inf n, c)
  | .num m a, .num n b =>
    if m = n then (.num m (a.add b), c)
    else if a.lt b then (.num n (b.sub a), c)
    else
      let d := a.sub b
      if d.isZero then (.num (c.rm = 3) (dyadic 0 0), c) else (.num m d, c)

/-- The product of two values; 0 · ∞ is invalid. -/
def mulVal (x y : Val) (c : Fpu) : Val × Fpu :=
  match x, y with
  | .nan s, y => (.nan false, c.raiseIf (s || y.snan) flNV)
  | x, .nan s => (.nan false, c.raiseIf (s || x.snan) flNV)
  | .inf m, .inf n => (.inf (m != n), c)
  | .inf m, .num n b => if b.isZero then (.nan false, c.raise flNV) else (.inf (m != n), c)
  | .num m a, .inf n => if a.isZero then (.nan false, c.raise flNV) else (.inf (m != n), c)
  | .num m a, .num n b => (.num (m != n) (a.mul b), c)

/-- The quotient of two values (R163). -/
def divVal (x y : Val) (c : Fpu) : Val × Fpu :=
  match x, y with
  | .nan s, y => (.nan false, c.raiseIf (s || y.snan) flNV)
  | x, .nan s => (.nan false, c.raiseIf (s || x.snan) flNV)
  | .inf _, .inf _ => (.nan false, c.raise flNV)
  | .inf m, .num n _ => (.inf (m != n), c)
  | .num m _, .inf n => (.num (m != n) (dyadic 0 0), c)
  | .num m a, .num n b =>
    if b.isZero then
      if a.isZero then (.nan false, c.raise flNV) else (.inf (m != n), c.raise flDZ)
    else if a.isZero then (.num (m != n) (dyadic 0 0), c)
    else (.num (m != n) (a.div b), c)

/-- The square root (R163). -/
def sqrtVal (x : Val) (c : Fpu) : Val × Fpu :=
  match x with
  | .nan s => (.nan false, c.raiseIf s flNV)
  | .inf n => if n then (.nan false, c.raise flNV) else (.inf false, c)
  | .num n a =>
    if a.isZero then (.num n a, c)
    else if n then (.nan false, c.raise flNV)
    else (.num false a.sqrt, c)

/-- 1 / √x (R176). -/
def rsqrtVal (x : Val) (c : Fpu) : Val × Fpu :=
  match x with
  | .nan s => (.nan false, c.raiseIf s flNV)
  | .inf n => if n then (.nan false, c.raise flNV) else (.num false (dyadic 0 0), c)
  | .num n a =>
    if a.isZero then (.inf n, c.raise flDZ)
    else if n then (.nan false, c.raise flNV)
    else (.num false a.rsqrt, c)

/-- 1 / x (R176). -/
def rcpVal (x : Val) (c : Fpu) : Val × Fpu :=
  match x with
  | .nan s => (.nan false, c.raiseIf s flNV)
  | .inf n => (.num n (dyadic 0 0), c)
  | .num n a => if a.isZero then (.inf n, c.raise flDZ) else (.num n ((dyadic 1 0).div a), c)

/-- 2^x (R176). A magnitude of 2^10 or more is beyond every exponent of FP32 either way, and is cut there. -/
def exp2Val (x : Val) (c : Fpu) : Val × Fpu :=
  match x with
  | .nan s => (.nan false, c.raiseIf s flNV)
  | .inf n => if n then (.num false (dyadic 0 0), c) else (.inf false, c)
  | .num n a =>
    if a.isZero then (.num false (dyadic 1 0), c)
    else if (dyadic 1 10).lt a then (.num false (pow2 n (dyadic 1 10)), c)
    else (.num false (pow2 n a), c)

/-- a·b + s with one rounding to come (R167): the product is formed exactly and keeps its own invalid case even when
the addend is a quiet NaN. -/
def fmaVal (x y s : Val) (c : Fpu) : Val × Fpu :=
  let (p, c) := mulVal x y c
  match p, s with
  | .nan _, .nan t => (.nan false, c.raiseIf t flNV)
  | _, _ => addVal p s c

/-! ### Bit-level operations (R164 to R166, R168) -/

/-- Whether value x is below y, with -0 below +0; neither is a NaN (R164). -/
def ltTotal (x y : Val) : Bool :=
  match x, y with
  | .inf m, .inf n => m && !n
  | .inf m, _ => m
  | _, .inf n => !n
  | .num m a, .num n b =>
    if m && !n then true
    else if !m && n then false
    else if m then b.lt a else a.lt b
  | _, _ => false

/-- Whether x < y as numbers: -0 equals +0 (R168). -/
def ltNum (x y : Val) : Bool :=
  match x, y with
  | .num _ a, .num _ b => if a.isZero && b.isZero then false else ltTotal x y
  | _, _ => ltTotal x y

/-- Whether x = y as numbers (R168). -/
def eqNum (x y : Val) : Bool :=
  match x, y with
  | .nan _, _ => false
  | _, .nan _ => false
  | _, _ => !ltNum x y && !ltNum y x

/-- FMIN (or FMAX when `mx`): one operand's bits unchanged (R164). -/
def minMax (f : FloatFmt) (mx : Bool) (x y : Nat) (c : Fpu) : Nat × Fpu :=
  let vx := floatVal f x
  let vy := floatVal f y
  let c := c.raiseIf (vx.snan || vy.snan) flNV
  match vx.isNan, vy.isNan with
  | true, true => (f.nanCode, c)
  | true, false => (y % 2 ^ f.bits, c)
  | false, true => (x % 2 ^ f.bits, c)
  | false, false =>
    let takeY := if mx then ltTotal vx vy else ltTotal vy vx
    ((if takeY then y else x) % 2 ^ f.bits, c)

/-- The outcome and NV of FCMP and VCMP (R168). -/
def fpCompare (f : FloatFmt) (cc : Cond) (x y : Nat) (c : Fpu) : Bool × Fpu :=
  let vx := floatVal f x
  let vy := floatVal f y
  let un := vx.isNan || vy.isNan
  let ordering := match cc with
    | .lt | .le | .gt | .ge => true
    | _ => false
  let c := c.raiseIf (vx.snan || vy.snan || (un && ordering)) flNV
  let res := match cc with
    | .eq => eqNum vx vy
    | .ne => !eqNum vx vy
    | .lt => ltNum vx vy
    | .le => !ltNum vy vx
    | .gt => ltNum vy vx
    | .ge => !ltNum vx vy
    | .un => true
    | _ => false
  (match cc with
    | .un => un
    | _ => res && !un, c)

/-- The class bit of FCLASS (R166). -/
def classBit (f : FloatFmt) (x : Nat) : Nat :=
  match floatVal f x with
  | .nan s => if s then 8 else 9
  | .inf n => if n then 0 else 7
  | .num n m =>
    let sub := decide (x % 2 ^ (f.bits - 1) < 2 ^ (f.prec - 1))
    if m.isZero then (if n then 3 else 4)
    else match n, sub with
      | true, false => 1
      | true, true => 2
      | false, true => 5
      | false, false => 6

end Sys2Proof.Machine
end

