-- ==== Sys2Proof/Word.lean ====
section
/-! DEFINITION. The machine's words. -/

namespace Sys2Proof

/-- A 64-bit general register, special register or address. -/
abbrev Word := BitVec 64

/-- A byte of memory. -/
abbrev Byte := BitVec 8

/-- A vector register: 16 lanes of 32 bits, lane 0 in bytes 3:0 (R26, R169). -/
abbrev VReg := Vector (BitVec 32) 16

end Sys2Proof
end

