-- ==== Sys2Proof/Machine/Convert.lean ====
section
/-! DEFINITION. Scales, the O4 pairs and the block conversions (R68 to R71, R79 to R86). -/

namespace Sys2Proof.Machine

/-! ### Scales (R69, R86) -/

/-- The value of a scale code: E8M0, or UE5M3 when `scf`. -/
def scaleVal (code : Nat) (scf : Bool) : Val := if scf then value .ue5m3 code else value .e8m0 code

/-- element · scale (R69). -/
def scaleMul (v s : Val) (c : Fpu) : Val × Fpu :=
  match s with
  | .num _ m =>
    if m.isZero then
      let c := c.raise flZS
      match v with
      | .num n _ => (.num n (dyadic 0 0), c)
      | .inf _ => (.nan false, c)
      | .nan t => (.nan t, c)
    else
      match v with
      | .num n a => (.num n (a.mul m), c)
      | w => (w, c)
  | _ => (.nan v.snan, c.raise flNV)

/-- element / scale (R86). -/
def scaleDiv (v s : Val) (c : Fpu) : Val × Fpu :=
  match s with
  | .num _ m =>
    if m.isZero then
      let c := c.raise flZS
      match v with
      | .num n a => if a.isZero then (.num n (dyadic 0 0), c) else (.inf n, c.raise flDZ)
      | .inf _ => (.nan false, c)
      | .nan t => (.nan t, c)
    else
      match v with
      | .num n a => (.num n (a.div m), c)
      | w => (w, c)
  | _ => (.nan v.snan, c.raise flNV)

/-- The value times 2^t (R81). -/
def shiftVal (v : Val) (t : Int) : Val :=
  match v with
  | .num n m => .num n { m with e := m.e + t }
  | w => w

/-! ### O4 and INT4 pairs (R70, R71) -/

/-- An outlier from the 4-bit code n with base ob (R70). -/
def outlier (n ob : Nat) : Val :=
  value .e4m3 ((n / 8 % 2) * 128 + min 15 (ob + n / 2 % 4) * 8 + (n % 2) * 4)

/-- The two elements of a pair byte, even then odd (R70; INT4 codes are plain integers). -/
def pairDecode (f : Fmt) (byte ob : Nat) : Val × Val :=
  let ev := byte % 16
  let od := byte / 16 % 16
  match f with
  | .o4 =>
    if ev = 8 then (outlier od ob, .num false (dyadic 0 0))
    else if od = 8 then (.num false (dyadic 0 0), outlier ev ob)
    else (value .i4 ev, value .i4 od)
  | _ => (value .i4 ev, value .i4 od)

/-- The outlier magnitudes above 7 that base ob allows, rising (R71). -/
def o4Outliers (ob : Nat) : List Nat :=
  let exps := ([0, 1, 2, 3].map fun k => min 15 (ob + k)).eraseDups.filter fun ex => 10 ≤ ex
  exps.flatMap fun ex => [2 ^ (ex - 7), 3 * 2 ^ (ex - 8)]

/-- The largest magnitude M of a base (R70). -/
def o4Max (ob : Nat) : Nat := (o4Outliers ob).getLast?.getD 7

/-- The neighbours in E, carried on above M by its pattern, of a magnitude above 7: the greatest candidate at or below
a / b and the next one; where OB allows 7 alone, the next one is 8 (DESIGN CHOICE, log 67). -/
def o4Bracket (a b : Nat) : Nat → List Nat → Nat × Nat
  | lo, [] => (lo, if lo = 7 then 8 else lo / 3 * 4)
  | lo, h :: t => if a < h * b then (lo, h) else o4Bracket a b h t

/-- One element of an O4 pair rounded on its own: its sign and magnitude, and whether it overflows (R71 step 1). -/
def o4Round (v : Val) (ob r : Nat) (c : Fpu) : (Bool × Nat) × Bool × Fpu :=
  match v with
  | .nan _ => ((false, 0), false, c.raise flNV)
  | .inf n => ((n, o4Max ob), true, c)
  | .num n m =>
    let (a, b) := m.inUnits 0
    if a < 7 * b || (a == 7 * b && !m.sticky) then
      let (q, x) := roundUnits c.rm n m 0 r
      ((n, q), false, c.raiseIf x flNX)
    else
      let mx := o4Max ob
      let (lo, hi) := o4Bracket a b 7 (o4Outliers ob)
      if hi * b ≤ a then ((n, mx), true, c)
      else
        let rem := a - lo * b
        let up := roundsUp c.rm n (lo ≠ 7 && lo % 3 ≠ 0) rem (b * (hi - lo)) m.sticky r
        let q := if up then hi else lo
        if mx < q then ((n, mx), true, c) else ((n, q), false, c.raiseIf (rem ≠ 0 || m.sticky) flNX)

/-- The 4-bit integer code of a signed magnitude up to 7; a zero of either sign is 0000 (R71 step 2). -/
def nibble (s : Bool × Nat) : Nat := if s.1 then (16 - s.2) % 16 else s.2 % 16

/-- The code n of an outlier magnitude (R71 step 3). -/
def outlierCode (s : Bool × Nat) (ob : Nat) : Nat :=
  let ex := log2 s.2 + 7
  let half := s.2 % 3 = 0
  let k := (([0, 1, 2, 3] : List Nat).find? fun k => min 15 (ob + k) = ex).getD 3
  (if s.1 then 8 else 0) + 2 * k + (if half then 1 else 0)

/-- An overflow of narrowing: the trap of element i under TRAP, else OF and NX (R74). -/
def narrowOver (i : Nat) (c : Fpu) : Fpu := if c.np then c.narrowTrap i else (c.raise flOF).raise flNX

/-- pairenc of R81: the pair byte of two exact quotients, whose even element has index i (R71). Under TRAP an O4 element that overflows
takes ±M for steps 2 to 4, which decides which element the trap names (DESIGN CHOICE, log 63). -/
def pairEnc (f : Fmt) (q0 q1 : Val) (ob i : Nat) (c : Fpu) : Nat × Fpu :=
  match f with
  | .o4 =>
    let (r0, c) := c.draw
    let (r1, c) := c.draw
    let (a, o0, c) := o4Round q0 ob r0 c
    let c := if o0 then narrowOver i c else c
    let (b, o1, c) := o4Round q1 ob r1 c
    let c := if o1 then narrowOver (i + 1) c else c
    if a.2 ≤ 7 && b.2 ≤ 7 then (nibble a + 16 * nibble b, c)
    else if 7 < a.2 && b.2 = 0 then (8 + 16 * outlierCode a ob, c)
    else if 7 < b.2 && a.2 = 0 then (outlierCode b ob + 16 * 8, c)
    else
      let c := narrowOver i c
      let cut (s : Bool × Nat) : Bool × Nat := if 7 < s.2 then (s.1, 7) else s
      (nibble (cut a) + 16 * nibble (cut b), c)
  | _ =>
    let (a, c) := narrow .i4 q0 i c
    let (b, c) := narrow .i4 q1 (i + 1) c
    (a % 16 + 16 * (b % 16), c)

/-- Whether an exact value is above k in magnitude. -/
def absAbove (v : Val) (k : Nat) : Bool :=
  match v with
  | .inf _ => true
  | .num _ m => (dyadic k 0).lt m
  | .nan _ => false

/-- The O4 outlier base of a block (R83): the least b from 0 to 12 with 1.5 · 2^(b-4) at or above the largest magnitude
above 7, 12 if none qualifies, and 0 if no magnitude is above 7. -/
def chooseOb (vs : List Val) : Nat :=
  let big := vs.filter fun v => absAbove v 7
  if big.isEmpty then 0
  else
    let fits (b : Nat) : Bool := big.all fun v =>
      match v with
      | .num _ m => !(dyadic 3 ((b : Int) - 5)).lt m
      | _ => false
    ((upTo 13).find? fits).getD 12

/-! ### CVT (R79 to R81) -/

/-- A narrowed code extended to a general register: integers by their sign but UINT8, everything else by zeros. -/
def extendCode (f : Fmt) (x : Nat) : BitVec 64 :=
  match f with
  | .i8 | .i16 | .i32 | .i64 => sext64 (BitVec.ofNat (fmtBits f) x)
  | _ => BitVec.ofNat 64 x

/-- CVT: destination format d, source format s, extension register value xk, source ga (R81). -/
def cvtVal (d s : Fmt) (xk ga : BitVec 64) (c : Fpu) : BitVec 64 × Fpu :=
  let scf := bit xk 12
  let ob := slice xk 11 8
  let sc := slice xk 7 0
  let pairF (f : Fmt) : Bool := f == .i4 || f == .o4
  let scaleF (f : Fmt) : Bool := f == .e8m0 || f == .ue5m3
  if pairF s then
    let (ev, od) := pairDecode s (slice ga 7 0) ob
    let (v, c) := scaleMul (if bit xk 13 then od else ev) (scaleVal sc scf) c
    let (x, c) := narrow .f32 v 0 c
    (BitVec.ofNat 64 x, c)
  else if pairF d then
    let (q0, c) := scaleDiv (value .f32 (slice ga 31 0)) (scaleVal sc scf) c
    let (q1, c) := scaleDiv (value .f32 (slice ga 63 32)) (scaleVal sc scf) c
    let (x, c) := pairEnc d q0 q1 ob 0 c
    (BitVec.ofNat 64 x, c)
  else if scaleF d || scaleF s then
    let (x, c) := narrow d (shiftVal (value s (slice ga (fmtBits s - 1) 0)) (BitVec.ofNat 8 sc).toInt) 0 c
    (BitVec.ofNat 64 x, c)
  else
    let (x, c) := narrow d (value s (slice ga (fmtBits s - 1) 0)) 0 c
    (extendCode d x, c)

/-! ### Lane by lane -/

/-- Sixteen lanes made one after another, each from the state the earlier ones left. -/
def mapLanes (f : Nat → Fpu → BitVec 32 × Fpu) : Nat → List Nat → Fpu → List (BitVec 32) × Fpu
  | _, [], c => ([], c)
  | k, j :: js, c =>
    let (x, c) := f j c
    let (xs, c) := mapLanes f (k + 1) js c
    (x :: xs, c)

/-- A vector register from its lanes, lane 0 first. -/
def vregOf (xs : List (BitVec 32)) : VReg := Vector.ofFn fun (j : Fin 16) => xs.getD j.val 0#32

/-- The lanes of a function of the lane number. -/
def lanes (f : Nat → BitVec 32) : VReg := Vector.ofFn fun (j : Fin 16) => f j.val

/-- Lane j of a vector register. -/
def lane (v : VReg) (j : Nat) : BitVec 32 := v.toList.getD j 0#32

/-- The register whose active lanes come from f and whose other lanes keep their old bits; only active lanes draw and
raise flags (R170). -/
def perLane (p : BitVec 16) (old : VReg) (f : Nat → Fpu → BitVec 32 × Fpu) (c : Fpu) : VReg × Fpu :=
  let (xs, c) := mapLanes (fun j c => if bit p j then f j c else (lane old j, c)) 0 (upTo 16) c
  (vregOf xs, c)

/-- A narrowed code in a lane (R82): narrow integers sign-extended to 32 bits, everything else zero-extended. -/
def laneCode (f : Fmt) (x : Nat) : BitVec 32 :=
  match f with
  | .i8 | .i16 => (BitVec.ofNat (fmtBits f) x).signExtend 32
  | _ => BitVec.ofNat 32 x

/-- VCVT (R82). -/
def vcvtVal (d s : Fmt) (p : BitVec 16) (old a : VReg) (c : Fpu) : VReg × Fpu :=
  perLane p old (fun j c =>
    let (x, c) := narrow d (value s (slice (lane a j) (fmtBits s - 1) 0)) j c
    (laneCode d x, c)) c

/-- VBSCALE (R85, R86). -/
def vbscaleVal (f : Fmt) (p : BitVec 16) (old a b : VReg) (c : Fpu) : VReg × Fpu :=
  perLane p old (fun j c =>
    let sc := value f (slice (lane b j) 7 0)
    let v := value .f32 (lane a j).toNat
    let (q, c) := if bit (lane b j) 8 then scaleDiv v sc c else scaleMul v sc c
    let (x, c) := narrow .f32 q j c
    (BitVec.ofNat 32 x, c)) c

/-- The bytes of a vector register, byte 0 first. -/
def vregBytes (v : VReg) : List (BitVec 8) := v.toList.flatMap fun x => bytesLE 4 x.toNat

/-- A vector register from its 64 bytes. -/
def vregOfBytes (bs : List (BitVec 8)) : VReg :=
  lanes fun j => BitVec.ofNat 32 (ofBytesLE ((bs.drop (4 * j)).take 4))

/-- Elements encoded one after another: those active give a new code, the others none. -/
def mapElems (f : Nat → Fpu → Nat × Fpu) (active : Nat → Bool) : List Nat → Fpu → List (Option Nat) × Fpu
  | [], c => ([], c)
  | i :: is, c =>
    if active i then
      let (x, c) := f i c
      let (xs, c) := mapElems f active is c
      (some x :: xs, c)
    else
      let (xs, c) := mapElems f active is c
      (none :: xs, c)

/-- VPACK of 32 FP32 elements (R83). -/
def vpackVal (f : Fmt) (p : BitVec 16) (old a b : VReg) (c : Fpu) : VReg × Fpu :=
  let el (i : Nat) : Val := value .f32 (if i < 16 then lane a i else lane b (i - 16)).toNat
  match f with
  | .i4 | .o4 =>
    let ob := if f = .o4 then chooseOb ((upTo 32).map el) else 0
    let (xs, c) := mapElems (fun k c => pairEnc f (el (2 * k)) (el (2 * k + 1)) ob (2 * k) c) (fun _ => true) (upTo 16) c
    let bs := xs.map fun x => BitVec.ofNat 8 (x.getD 0)
    (vregOfBytes (bs ++ (if f = .o4 then [BitVec.ofNat 8 ob] else [])), c)
  | _ =>
    let (xs, c) := mapElems (fun i c => narrow f (el i) i c) (fun i => bit p (i % 16)) (upTo 32) c
    let n := fmtBits f / 8
    let oldB := vregBytes old
    let bs := (enumFrom 0 xs).flatMap fun (i, x) =>
      match x with
      | some x => bytesLE n x
      | none => (oldB.drop (n * i)).take n
    (vregOfBytes bs, c)

/-- Element i of the layout of R83 in a packed register (R84). -/
def packedElem (f : Fmt) (v : VReg) (i : Nat) : Val :=
  let bs := vregBytes v
  let byteAt (k : Nat) : Nat := (bs.getD k 0#8).toNat
  match f with
  | .i4 | .o4 =>
    let (e, o) := pairDecode f (byteAt (i / 2)) (byteAt 16 % 16)
    if i % 2 = 0 then e else o
  | _ =>
    let n := fmtBits f / 8
    value f (ofBytesLE ((bs.drop (n * i)).take n))

/-- The FP32 code of a value that FP32 holds exactly; a signalling NaN sets NV (R67, R84). -/
def exactF32 (v : Val) (c : Fpu) : Nat × Fpu :=
  ((roundIeee fp32 v 0 { c with rm := 0 }).1, c.raiseIf v.snan flNV)

/-- VUNPK of half h (R84). -/
def vunpkVal (f : Fmt) (h : Bool) (p : BitVec 16) (old a : VReg) (c : Fpu) : VReg × Fpu :=
  perLane p old (fun j c =>
    let (x, c) := exactF32 (packedElem f a ((if h then 16 else 0) + j)) c
    (BitVec.ofNat 32 x, c)) c

end Sys2Proof.Machine
end

