-- ==== Sys2Proof/Machine/Arith.lean ====
section
/-! DEFINITION. The results of the integer instructions (R121 to R139) and of the vector instructions (R169 to R188) as
functions of their operands. -/

namespace Sys2Proof.Machine

/-! ### Integer results -/

/-- The sources of an integer instruction as a signed number: all 64 bits, or bits 31:0 under W = 1 (R121). -/
def srcInt (w : Bool) (x : BitVec 64) : Int := if w then (x.extractLsb' 0 32).toInt else x.toInt

/-- The same, unsigned. -/
def srcNat (w : Bool) (x : BitVec 64) : Nat := if w then (x.extractLsb' 0 32).toNat else x.toNat

/-- The result register of an exact integer result (R121, R122). -/
def resInt (w : Bool) (i : Int) : BitVec 64 := if w then sext64 (ofInt 32 i) else ofInt 64 i

/-- trunc(n / m) (R125). -/
def divS (w : Bool) (a b : BitVec 64) : BitVec 64 := resInt w ((srcInt w a).tdiv (srcInt w b))
def divU (w : Bool) (a b : BitVec 64) : BitVec 64 := resInt w ((srcNat w a / srcNat w b : Nat) : Int)
/-- n - m * trunc(n / m) (R125, R127). -/
def remS (w : Bool) (a b : BitVec 64) : BitVec 64 := resInt w ((srcInt w a).tmod (srcInt w b))
def remU (w : Bool) (a b : BitVec 64) : BitVec 64 := resInt w ((srcNat w a % srcNat w b : Nat) : Int)

/-- Bits 127:64 of the exact product (R126). -/
def mulHigh (a b : BitVec 64) : BitVec 64 := ofInt 64 ((a.toInt * b.toInt) / 2 ^ 64)
def mulHighU (a b : BitVec 64) : BitVec 64 := BitVec.ofNat 64 (a.toNat * b.toNat / 2 ^ 64)

/-- The four kinds of shift of major 0x02 and major 0x07 (R129, R131). -/
inductive Shift where
  | sll | srl | sra | rot
  deriving DecidableEq, Repr

/-- A shift by an amount below the width, which is 64, or 32 under W = 1 with a sign-extended result (R129). -/
def shiftVal64 (k : Shift) (w : Bool) (x : BitVec 64) (n : Nat) : BitVec 64 :=
  if w then
    let v := x.extractLsb' 0 32
    sext64 (match k with
      | .sll => v <<< n
      | .srl => v >>> n
      | .sra => v.sshiftRight n
      | .rot => v.rotateRight n)
  else
    match k with
    | .sll => x <<< n
    | .srl => x >>> n
    | .sra => x.sshiftRight n
    | .rot => x.rotateRight n

/-- The shift amount that a register gives: bits 5:0, or 4:0 under W = 1 (R129). -/
def shiftAmount (w : Bool) (b : BitVec 64) : Nat := if w then b.toNat % 32 else b.toNat % 64

/-- The width that W gives a count. -/
def widthOf (w : Bool) : Nat := if w then 32 else 64

def clzVal (w : Bool) (x : BitVec 64) : BitVec 64 := BitVec.ofNat 64 (clzNat (widthOf w) (srcNat w x))
def ctzVal (w : Bool) (x : BitVec 64) : BitVec 64 := BitVec.ofNat 64 (ctzNat (widthOf w) (srcNat w x))
def popcVal (w : Bool) (x : BitVec 64) : BitVec 64 := BitVec.ofNat 64 (popcNat (widthOf w) (srcNat w x))

/-- The bytes of x in reverse order (R129). -/
def bswapVal (x : BitVec 64) : BitVec 64 := BitVec.ofNat 64 (ofBytesLE (bytesLE 8 x.toNat).reverse)

/-- sext(v<n-1:0>, 64) and zext(v<n-1:0>, 64) (R129). -/
def sextVal (n : ExtW) (x : BitVec 64) : BitVec 64 :=
  match n with
  | .n8 => sext64 (x.extractLsb' 0 8)
  | .n16 => sext64 (x.extractLsb' 0 16)
  | .n32 => sext64 (x.extractLsb' 0 32)
def zextVal (n : ExtW) (x : BitVec 64) : BitVec 64 :=
  match n with
  | .n8 => zext64 (x.extractLsb' 0 8)
  | .n16 => zext64 (x.extractLsb' 0 16)
  | .n32 => zext64 (x.extractLsb' 0 32)

/-- The bit field of width n+1 at lsb l, as a number (R132). -/
def bfxNat (l n : BitVec 6) (x : BitVec 64) : Nat := (x.toNat >>> l.toNat) % 2 ^ (n.toNat + 1)

/-- A number of w bits sign-extended (R132). -/
def signed (w v : Nat) : Int := if v < 2 ^ (w - 1) then (v : Int) else (v : Int) - 2 ^ w

def bfxVal (l n : BitVec 6) (x : BitVec 64) : BitVec 64 := ofInt 64 (signed (n.toNat + 1) (bfxNat l n x))
def bfxuVal (l n : BitVec 6) (x : BitVec 64) : BitVec 64 := BitVec.ofNat 64 (bfxNat l n x)
def bfiVal (l n : BitVec 6) (x old : BitVec 64) : BitVec 64 := setSlice old (l.toNat + n.toNat) l.toNat x.toNat

/-- The outcome of an integer condition: signed for codes 0 to 5, unsigned for 6 to 9 (R54, R135). -/
def intCompare (cc : Cond) (w : Bool) (a b : BitVec 64) : Bool :=
  match cc with
  | .eq => srcNat w a == srcNat w b
  | .ne => srcNat w a != srcNat w b
  | .lt => decide (srcInt w a < srcInt w b)
  | .le => decide (srcInt w a ≤ srcInt w b)
  | .gt => decide (srcInt w b < srcInt w a)
  | .ge => decide (srcInt w b ≤ srcInt w a)
  | .ltu => decide (srcNat w a < srcNat w b)
  | .leu => decide (srcNat w a ≤ srcNat w b)
  | .gtu => decide (srcNat w b < srcNat w a)
  | .geu => decide (srcNat w b ≤ srcNat w a)
  | .un => false

/-- The condition of a branch (R53, R143). -/
def branchTaken (cc : BCond) (a b : BitVec 64) : Bool :=
  match cc with
  | .eq => a == b
  | .ne => a != b
  | .lt => decide (a.toInt < b.toInt)
  | .ge => decide (b.toInt ≤ a.toInt)
  | .ltu => decide (a.toNat < b.toNat)
  | .geu => decide (b.toNat ≤ a.toNat)

/-! ### Floating-point lanes (R174 to R176) -/

/-- The element format of major 0x20: FP32, or BF16 pairs. -/
def laneFloat (bf : Bool) : FloatFmt := if bf then bf16 else fp32

/-- A function of one element applied to a lane: once for FP32, and to the low then the high half for BF16 pairs (R169). -/
def onElems (bf : Bool) (f : Nat → Nat → Nat → Fpu → Nat × Fpu) (a b d : BitVec 32) (c : Fpu) : BitVec 32 × Fpu :=
  if bf then
    let (lo, c) := f (slice a 15 0) (slice b 15 0) (slice d 15 0) c
    let (hi, c) := f (slice a 31 16) (slice b 31 16) (slice d 31 16) c
    (BitVec.ofNat 32 (lo + 65536 * hi), c)
  else
    let (x, c) := f a.toNat b.toNat d.toNat c
    (BitVec.ofNat 32 x, c)

/-- A lane-by-lane floating-point operation (R170, R174). -/
def fpLanes (bf : Bool) (p : BitVec 16) (old a b : VReg) (f : Nat → Nat → Nat → Fpu → Nat × Fpu) (c : Fpu) : VReg × Fpu :=
  perLane p old (fun j c => onElems bf f (lane a j) (lane b j) (lane old j) c) c

/-- The five rounded operations with two or three operands (R174, R175). -/
inductive FOp where
  | add | sub | mul | fma | fms
  deriving DecidableEq, Repr

/-- One rounded operation in a format, on codes (R160 to R163, R167). -/
def fpOp (f : FloatFmt) (op : FOp) (a b d : Nat) (c : Fpu) : Nat × Fpu :=
  let va := floatVal f a
  let vb := floatVal f b
  let vd := floatVal f d
  let (v, c) := match op with
    | .add => addVal va vb c
    | .sub => addVal va vb.negate c
    | .mul => mulVal va vb c
    | .fma => fmaVal va vb vd c
    | .fms => fmaVal va vb vd.negate c
  roundTo f v c

/-- The quotient in a format (R163). -/
def fpDiv (f : FloatFmt) (a b : Nat) (c : Fpu) : Nat × Fpu :=
  let (v, c) := divVal (floatVal f a) (floatVal f b) c
  roundTo f v c

/-- The square root in a format (R163). -/
def fpSqrt (f : FloatFmt) (a : Nat) (c : Fpu) : Nat × Fpu :=
  let (v, c) := sqrtVal (floatVal f a) c
  roundTo f v c

/-- VRCP, VRSQ and VEXP2 of one FP32 element (R176). -/
def fpUnary (g : Val → Fpu → Val × Fpu) (a : Nat) (c : Fpu) : Nat × Fpu :=
  let (v, c) := g (floatVal fp32 a) c
  roundTo fp32 v c

/-! ### Integer lanes (R177) -/

/-- The operations of major 0x21. -/
inductive LaneOp where
  | add | sub | mul | mad | min | max | and | or | xor | sll | srl | sra | abs
  deriving DecidableEq, Repr

/-- One element of width w (R177). -/
def laneElem (op : LaneOp) (w n m d : Nat) : Nat :=
  let sn := signed w n
  let sm := signed w m
  let md (i : Int) : Nat := (i % (2 ^ w : Int)).toNat
  match op with
  | .add => (n + m) % 2 ^ w
  | .sub => md ((n : Int) - m)
  | .mul => n * m % 2 ^ w
  | .mad => (d + n * m) % 2 ^ w
  | .min => if sm < sn then m else n
  | .max => if sn < sm then m else n
  | .and => n &&& m
  | .or => n ||| m
  | .xor => n ^^^ m
  | .sll => n * 2 ^ (m % w) % 2 ^ w
  | .srl => n / 2 ^ (m % w)
  | .sra => md (sn / (2 ^ (m % w) : Int))
  | .abs => md (if sn < 0 then -sn else sn)

/-- The element width of a lane code (R177). -/
def lanesWidth : Lanes → Nat
  | .i8 => 8
  | .i16 => 16
  | .i32 => 32

/-- The elements of one lane, low element first. -/
def laneElems (op : LaneOp) (w a b d : Nat) : Nat → Nat
  | 0 => 0
  | k + 1 => laneElem op w (a % 2 ^ w) (b % 2 ^ w) (d % 2 ^ w) + 2 ^ w * laneElems op w (a / 2 ^ w) (b / 2 ^ w) (d / 2 ^ w) k

/-- An integer lane operation under a predicate (R170, R177). -/
def intLanes (op : LaneOp) (l : Lanes) (p : BitVec 16) (old a b : VReg) : VReg :=
  let w := lanesWidth l
  lanes fun j => if bit p j then
      BitVec.ofNat 32 (laneElems op w (lane a j).toNat (lane b j).toNat (lane old j).toNat (32 / w))
    else lane old j

/-- A 32-bit integer lane as a register value, so that the conditions of R54 apply. -/
def laneAsWord (x : BitVec 32) : BitVec 64 := zext64 x

/-- VCMP: the bits of the active lanes, the others of the old predicate (R178). -/
def vcmpVal (int : Bool) (cc : Cond) (p old : BitVec 16) (a b : VReg) (c : Fpu) : BitVec 16 × Fpu :=
  (upTo 16).foldl (fun (acc : BitVec 16 × Fpu) j =>
    if bit p j then
      if int then (setBit acc.1 j (intCompare cc true (laneAsWord (lane a j)) (laneAsWord (lane b j))), acc.2)
      else
        let (r, c) := fpCompare fp32 cc (lane a j).toNat (lane b j).toNat acc.2
        (setBit acc.1 j r, c)
    else acc) (old, c)

/-! ### Permutes (R179, R180) -/

/-- Active lanes from f, the others old (R170). -/
def permLanes (p : BitVec 16) (old : VReg) (f : Nat → BitVec 32) : VReg :=
  lanes fun j => if bit p j then f j else lane old j

/-- Lane j of VSLIDE by s (R180). -/
def slideLane (a b : VReg) (s : Int) (j : Nat) : BitVec 32 :=
  if 0 ≤ s then
    let k := j + s.toNat
    if k < 16 then lane a k else lane b (k - 16)
  else
    let k := ((j : Int) + s + 16).toNat
    if k < 16 then lane b k else lane a (k - 16)

/-! ### Reductions and scans (R182 to R185) -/

/-- The identity of an operation (R182). -/
def redIdentity : VRedOp → BitVec 32
  | .fadd => 0x80000000#32
  | .fmin => 0x7f800000#32
  | .fmax => 0xff800000#32
  | .iadd => 0#32
  | .imin => 0x7fffffff#32
  | .imax => 0x80000000#32

/-- One combine x ⊕ y (R182). -/
def redCombine (op : VRedOp) (x y : BitVec 32) (c : Fpu) : BitVec 32 × Fpu :=
  match op with
  | .fadd => let (r, c) := fpOp fp32 .add x.toNat y.toNat 0 c; (BitVec.ofNat 32 r, c)
  | .fmin => let (r, c) := minMax fp32 false x.toNat y.toNat c; (BitVec.ofNat 32 r, c)
  | .fmax => let (r, c) := minMax fp32 true x.toNat y.toNat c; (BitVec.ofNat 32 r, c)
  | .iadd => (x + y, c)
  | .imin => (if y.toInt < x.toInt then y else x, c)
  | .imax => (if x.toInt < y.toInt then y else x, c)

/-- One level of the pairwise tree, in lane order (R183). -/
def redLevel (op : VRedOp) : List (BitVec 32) → Fpu → List (BitVec 32) × Fpu
  | x :: y :: t, c =>
    let (z, c) := redCombine op x y c
    let (zs, c) := redLevel op t c
    (z :: zs, c)
  | t, c => (t, c)

/-- The lanes of a reduction or scan: inactive lanes give the identity (R183). -/
def redInputs (op : VRedOp) (p : BitVec 16) (a : VReg) : List (BitVec 32) :=
  (upTo 16).map fun j => if bit p j then lane a j else redIdentity op

/-- VRED (R183): lane 0 holds the result and every other lane 0. -/
def vredVal (op : VRedOp) (p : BitVec 16) (a : VReg) (c : Fpu) : VReg × Fpu :=
  let (t, c) := redLevel op (redInputs op p a) c
  let (t, c) := redLevel op t c
  let (t, c) := redLevel op t c
  let (t, c) := redLevel op t c
  let r := if op = .fadd && p = 0#16 then 0#32 else t.getD 0 0#32
  (lanes fun j => if j = 0 then r else 0#32, c)

/-- The prefixes of a scan after the first lane (R184). -/
def scanFrom (op : VRedOp) : BitVec 32 → List (BitVec 32) → Fpu → List (BitVec 32) × Fpu
  | _, [], c => ([], c)
  | s, t :: ts, c =>
    let (s, c) := redCombine op s t c
    let (r, c) := scanFrom op s ts c
    (s :: r, c)

/-- VSCAN (R184). -/
def vscanVal (op : VRedOp) (p : BitVec 16) (old a : VReg) (c : Fpu) : VReg × Fpu :=
  match redInputs op p a with
  | [] => (old, c)
  | t :: ts =>
    let (r, c) := scanFrom op t ts c
    (permLanes p old fun j => (t :: r).getD j 0#32, c)

/-! ### Dot products (R186 to R188) -/

/-- The values of one lane's elements in a format; x0 gives the outlier base of an O4 source (R187). -/
def dotElems (f : Fmt) (x : BitVec 32) (ob : Nat) : List Val :=
  match f with
  | .o4 | .i4 => [0, 1, 2, 3].flatMap fun k =>
      let (e, o) := pairDecode f (slice x (8 * k + 7) (8 * k)) ob
      [e, o]
  | _ =>
    let w := fmtBits f
    (upTo (32 / w)).map fun k => value f (slice x (w * k + w - 1) (w * k))

/-- An integer value. -/
def valInt (v : Val) : Int :=
  match v with
  | .num n m => let k : Int := ((m.num * 2 ^ m.e.toNat : Nat) : Int); if n then -k else k
  | _ => 0

/-- The exact sum of the products and the accumulator, with the invalid cases and the sign of an exact zero (R188). -/
def dotSum (ps : List Val) (acc : Val) (c : Fpu) : Val × Fpu :=
  let all := acc :: ps
  let infs (n : Bool) : Bool := all.any fun v => v == .inf n
  let negZero := all.all fun v =>
    match v with
    | .num n m => n && m.isZero
    | _ => false
  let c := c.raiseIf (infs true && infs false) flNV
  if all.any Val.isNan || (infs true && infs false) then (.nan false, c)
  else if infs true then (.inf true, c)
  else if infs false then (.inf false, c)
  else
    match ps.foldl (fun (r : Val) v => (addVal r v c).1) acc with
    | .num n m => if m.isZero then (.num (negZero || c.rm == 3) (dyadic 0 0), c) else (.num n m, c)
    | w => (w, c)

/-- The products of two lanes of elements; an invalid product is a NaN and sets NV. -/
def dotProducts : List Val → List Val → Fpu → List Val × Fpu
  | x :: xs, y :: ys, c =>
    let (p, c) := mulVal x y c
    let (ps, c) := dotProducts xs ys c
    (p :: ps, c)
  | _, _, c => ([], c)

/-- VDOT (R187). -/
def vdotVal (f : Fmt) (p : BitVec 16) (old a b : VReg) (x0 : BitVec 64) (c : Fpu) : VReg × Fpu :=
  perLane p old (fun j c =>
    let ea := dotElems f (lane a j) (slice x0 3 0)
    let eb := dotElems f (lane b j) (slice x0 7 4)
    if dotInt f then
      let s := (ea.zip eb).foldl (fun (s : Int) (q : Val × Val) => s + valInt q.1 * valInt q.2) 0
      (lane old j + BitVec.ofInt 32 s, c)
    else
      let acc := value .f32 (lane old j).toNat
      let (ps, c) := dotProducts ea eb c
      let (s, c) := dotSum ps acc (c.raiseIf acc.snan flNV)
      let (r, c) := roundTo fp32 s c
      (BitVec.ofNat 32 r, c)) c

end Sys2Proof.Machine
end

