-- ==== Sys2Proof/Machine/Slot.lean ====
section
/-! DEFINITION. The state of one slot (05_slot): its registers, its results on their way, the accesses it has not yet
performed, and why it is parked. -/

namespace Sys2Proof.Machine

/-- A sparse table by number, in rising order of its keys. -/
abbrev Tbl (α : Type) := List (Nat × α)

/-- Bytes by address, in rising order, no entry equal to what an unlisted address reads as (zero; DESIGN CHOICE, log 2). -/
abbrev Mem := List Host.Cell

/-- A register by its file, 0 g, 1 v, 2 p, 3 x, 4 c, and its number (R108, cause 0x12). -/
structure RegId where
  file : Nat
  num : Nat
  deriving DecidableEq, Repr

/-- A register with a value for it. -/
inductive RegVal where
  | g (n : Nat) (x : Word)
  | v (n : Nat) (x : VReg)
  | p (n : Nat) (x : BitVec 16)
  deriving DecidableEq, Repr

/-- Where bytes lie: memory by physical address, or a core's local array by offset (R189, R216). -/
inductive Place where
  | mem (pa : Nat)
  | arr (core off : Nat)
  deriving DecidableEq, Repr

/-- One register or lane that a load still has to fetch: `avail` of its `size` bytes exist, the others lie beyond a
window's bound and read as zero (R219); `seq` is how many commit-buffer entries stood before it (R236); `sector` says that its access
covers the whole 32-byte sector of its word (R405). -/
structure LoadItem where
  reg : RegId
  lane : Nat
  place : Place
  size : Nat
  avail : Nat
  signed : Bool
  seq : Nat
  sector : Bool
  deriving DecidableEq, Repr

/-- What AMO, CAS, LDA and STL do at the home (R227, R228). -/
inductive AtomicKind where
  | amo (op : AmoOp)
  | cas (old : Word)
  | lda
  | stl
  deriving DecidableEq, Repr

/-- An atomic access still to be performed at its home or array. -/
structure Atomic where
  kind : AtomicKind
  place : Place
  w : Bool
  val : Word
  deriving DecidableEq, Repr

/-- How an outstanding long-latency result arrives (R45). -/
inductive PendKind where
  /-- the value is known and lands with its event, with the flags it sets then -/
  | value (xs : List RegVal) (flags : BitVec 6)
  /-- the value is known and is written when `cyc` reaches `due`, with its flags: a division, or, with `fp`, FDIV or FSQRT (R123, R161) -/
  | timed (xs : List RegVal) (flags : BitVec 6) (due : Word) (fp : Bool)
  /-- data still to be fetched (R222) -/
  | load (items : List LoadItem)
  /-- a load whose data have been read and have not yet returned -/
  | loaded (xs : List RegVal)
  /-- performed at the home (R227) -/
  | atomic (a : Atomic)
  /-- brought by another unit's event -/
  | answer
  deriving DecidableEq, Repr

/-- An outstanding long-latency result: the registers that it still owes, and how it arrives (R45, R119). -/
structure Pending where
  id : Nat
  regs : List RegId
  kind : PendKind
  deriving DecidableEq, Repr

/-- The data of an event: which slot, core or other unit it is about, and what it carries. Each event reads the fields that
its meaning names. -/
structure Arg where
  k : Nat
  a : Nat
  b : Nat
  c : Nat
  w : Word
  u : Word
  l : List Nat
  item : VReg
  bytes : List (BitVec 8)
  /-- the name of a message of a deterministic slot: 1 + the slot, and its sequence number; 0 is no name (R359) -/
  sender : Nat
  seq : Nat
  /-- the cycle in which a message left its core, or a probe its slot (R388) -/
  sent : Nat
  deriving DecidableEq, Repr

/-- An event on its way, or given from outside: which one, and its data. -/
structure Msg where
  ev : Instr
  arg : Arg
  deriving DecidableEq, Repr

/-- A memory effect of the slot that is not yet performed, in program order (R200): a store awaiting its registration, a
release, an STL, a CFLUSH or CINV of a line, a RED on its way to the home, and a release that is a message, sent when every earlier
access is performed. A release names the result that comes next, so that the accesses before it are those with lower identities. -/
inductive OutOp where
  | store (word : Nat)
  | rel (id : Nat)
  | send (id : Nat) (m : Msg)
  | stl (id : Nat) (a : Atomic)
  | flush (line : Nat) (inv : Bool)
  | red (id : Nat) (word : Nat)
  deriving DecidableEq, Repr

/-- The kinds of access that protection tells apart (R243). -/
inductive AccKind where
  | load | store | rmw | fetch
  deriving DecidableEq, Repr

/-- What a walk made for the instruction being issued found for one 8 KiB page: a frame and rights, or why not. -/
inductive WalkRes where
  | ok (pa : Nat) (u x w r : Bool)
  | migrating (pa : Nat) (u x w r : Bool)
  | format
  | failed
  deriving DecidableEq, Repr

structure XRes where
  page : Nat
  res : WalkRes
  deriving DecidableEq, Repr

/-- Why a slot is parked (R94). The reason holds when what it names has come about. -/
inductive Reason where
  /-- the switch marker: every outstanding result has returned. `body` is the address whose end-of-body rule is still to
  be applied when the slot continues (R45, R150) -/
  | marker (body : Option Word)
  /-- trap entry waits for outstanding results (R109) -/
  | trapEntry (cause : Nat) (info : Word) (epc : Word)
  /-- entry of a trap with which the context faults, which waits for outstanding results too (R461, R462) -/
  | faultEntry (cause : Nat) (info : Word) (epc : Word)
  /-- the instruction issues again once no replay is in progress (R157) -/
  | replay
  /-- REP issues again once no other slot's replay holds the core's repetition buffer (R12) -/
  | buffer
  /-- the instruction issues again once every earlier result has returned (R229) -/
  | results
  /-- the instruction issues again once every earlier store is performed (R200) -/
  | stores
  /-- the same before an arrival or a send, for an instruction whose wait may be interrupted: GBAR and REDT (R383, R386) -/
  | release
  /-- the instruction issues again once no LDA is outstanding (R201) -/
  | acquire
  /-- the instruction issues again once the walk of the page has its result (R217) -/
  | walk (page : Nat)
  /-- the access joined the miss-table entry of the page (R246) -/
  | fault (page : Nat)
  /-- a store to a migrating page (R246) -/
  | migrating (page : Nat)
  /-- the miss table is full (R244) -/
  | missFull
  /-- the instruction issues again at its next turn -/
  | again
  /-- the core's list, its holding register and the overflow ring have no room for a push on the deque or on the run list (R418) -/
  | listRoom (deque : Bool)
  /-- WAITE (R115) -/
  | event
  /-- bytes of channel k's range at or above the watermark (R235): holds when wm_k reaches the count -/
  | watermark (ch : Nat) (need : Nat)
  /-- TWAITANY or TWAITALL on a mask (R259) -/
  | tags (mask : Word) (all : Bool)
  /-- a copy launch that finds no free tag (R262) -/
  | freeTag
  /-- a multicast launch that finds eight of mailbox k without their counts (R271) -/
  | castRoom (k : Nat)
  /-- MBWAIT k for a count (R272) -/
  | mailbox (k : Nat) (count : Word)
  /-- a port operation waits for its port (R292) -/
  | port (mask : Nat)
  /-- the tile queue or the tile is busy (R309) -/
  | tile
  /-- TJOIN waits until no command stands on the tiles of its quad (R327) -/
  | quad
  /-- TKWAIT for a frontier (R355) -/
  | frontier (t : Nat)
  /-- the commit buffer is full (R347) -/
  | commitFull (need : Nat)
  /-- an entry of the commit buffer must drain (R236) -/
  | drain (entry : Nat)
  /-- BARW for the phase after (R381) -/
  | barrier (scope b : Nat) (phase : Nat)
  /-- GBAR (R383) -/
  | gbar (scope : Nat) (phase : Nat)
  /-- FLUSHP waits for its probes (R388) -/
  | probes
  /-- REDT waits for its block to be written (R386) -/
  | tree
  /-- REDT waits for room for its tree on some octets (R387) -/
  | treeRoom (octets : List Nat)
  /-- a request to another unit whose answer has not come -/
  | answer
  /-- a flush in progress (R251) -/
  | flushing (id : Nat)
  /-- CTXSAVE or CTXLOAD waits for the groups of a context (R444) -/
  | context (ctx : Nat)
  /-- CTXLOAD waits for a page of the save pool of a context (R440) -/
  | pool (ctx : Nat)
  /-- launch queue q of the slot's context has no free entry (R403) -/
  | queueRoom (q : Nat)
  deriving DecidableEq, Repr

/-- The states of a slot (R94). A Saved slot keeps what it was parked on; a Stopped one keeps the state before the stop. -/
inductive Run where
  | free
  | running
  | parked (r : Reason)
  | saved (r : Option Reason)
  | stopped (was : Run)
  deriving DecidableEq, Repr

/-- The states of a port (R276). -/
inductive PortPhase where
  | unbound | idle | offering | accepting | withdrawing
  deriving DecidableEq, Repr

/-- A port register (R276, R277): its item and Full bit, its state, and the endpoint it is bound to. A vector
item is held by no port register: it travels with the offer (R292). -/
structure Port where
  item : Word
  full : Bool
  phase : PortPhase
  conn : Nat
  ep : Nat
  vec : Bool
  deriving DecidableEq, Repr

/-- A hardware loop: ls, le and lc (R147). -/
structure Loop where
  ls : Word
  le : Word
  lc : Word
  deriving DecidableEq, Repr

/-- The six copy registers (R252). -/
structure CopyRegs where
  src : Word
  dst : Word
  ext : Word
  srs : Word
  drs : Word
  flg : Word
  deriving DecidableEq, Repr

/-- The special registers that belong to a slot (R102 to R107, R73, R286, R398). -/
structure Sys where
  prg : Word
  st : Word
  mode : Word
  cause : Word
  epc : Word
  tval : Word
  tvec : Word
  escr : Word
  loop0 : Loop
  loop1 : Loop
  cp : CopyRegs
  tmr : Word
  tmrc : Word
  pto : Word
  rnk : Word
  rnc : Word
  coord : Word
  trec : Word
  wb : Vector Word 8
  wl : Vector Word 8
  deriving DecidableEq, Repr

/-- A REP replay in progress (R155 to R158): the window with its switch markers dropped, the repetitions, stagger mask and
step, the repetition and the instruction to perform next, the registers it still owes, a deferred trap, and the register
files as they stood when REP issued, with the replay's own results. -/
structure Replay where
  window : List Instr
  /-- the words of the window -/
  words : List (BitVec 32)
  reps : Nat
  mask : Nat
  step : Nat
  i : Nat
  j : Nat
  owed : List RegId
  trap : Option (Nat × Word)
  ended : Bool
  /-- the page on whose fault the replay waits, and the walk results that it keeps (R158) -/
  fault : Option Nat
  xlat : List XRes
  /-- its own progress register, and what its current instruction keeps while it waits, as in a slot -/
  prg : Word
  phase : Nat
  keep : List Word
  entered : Nat
  /-- the identity that the slot's next result had when REP issued: results before it reach the replay too -/
  first : Nat
  g : Vector Word 32
  v : Vector VReg 16
  p : Vector (BitVec 16) 8
  x : Vector Word 8
  deriving DecidableEq, Repr

/-- To what a slot is bound: context, kernel, group and its place in the group's slot order (R358, R414), and the group, if
any, whose task the slot runs. -/
structure Binding where
  ctx : Nat
  kernel : Nat
  group : Nat
  index : Nat
  bound : Bool
  owner : Option Nat
  deriving DecidableEq, Repr

/-- What the slot's accesses need to remember. -/
structure Traffic where
  /-- accesses not yet performed, in program order -/
  out : List OutOp
  /-- walk results for the instruction being issued -/
  xlat : List XRes
  /-- the next identity of a result or access -/
  nextId : Nat
  /-- tags that the slot has waited for (R261) -/
  waited : BitVec 64
  /-- sequence number of the next message (R359) -/
  seq : Nat
  /-- the cycle in which the task started, or in which its group was last restored (R388) -/
  since : Nat
  deriving DecidableEq, Repr

/-- A slot. -/
structure Slot where
  run : Run
  g : Vector Word 32
  v : Vector VReg 16
  p : Vector (BitVec 16) 8
  x : Vector Word 8
  ports : Vector Port 8
  pc : Word
  sys : Sys
  /-- a timer cause is pending (R107, R109) -/
  tmrPend : Bool
  pend : List Pending
  replay : Option Replay
  traffic : Traffic
  bind : Binding
  /-- how much of the parked instruction is already done, and values it keeps until it issues again -/
  phase : Nat
  keep : List Word
  /-- how many commit entries of the access that waits for room have entered (R347) -/
  entered : Nat
  /-- the slot's own steal attempt count (R417) -/
  steal : Nat
  /-- armed by the debug function (R460) -/
  armed : Bool
  /-- the record that `trec` names was taken from the pool and is not yet written (R489) -/
  fresh : Bool
  deriving DecidableEq, Repr

end Sys2Proof.Machine
end

