-- ==== Sys2Proof/Machine/Operands.lean ====
section
/-! DEFINITION. What is known of an instruction before its meaning: the registers it reads, the feature groups it needs,
whether it is privileged, whether it is an instruction of the repetition buffer and how REP staggers it, and the rounding
mode it names (R50, R59, R62, R63, R119, R154 to R156). -/

namespace Sys2Proof.Machine

def gId (n : BitVec 5) : RegId := ⟨0, n.toNat⟩
def vId (n : BitVec 4) : RegId := ⟨1, n.toNat⟩
def pId (n : BitVec 3) : RegId := ⟨2, n.toNat⟩

/-- A destination that an instruction under a predicate other than p0 reads for its inactive lanes (R171). -/
def keptBy {n : Nat} (p : BitVec n) (r : RegId) : List RegId := if p = 0 then [] else [r]

/-- The general, vector and predicate registers that an instruction reads, in operand order (R50, R120). -/
def regsRead (i : Instr) : List RegId :=
  match i with
  | .add _ b a _ => [gId a, gId b]
  | .sub _ b a _ => [gId a, gId b]
  | .mul _ b a _ => [gId a, gId b]
  | .mulh b a _ => [gId a, gId b]
  | .mulhu b a _ => [gId a, gId b]
  | .div _ b a _ => [gId a, gId b]
  | .divu _ b a _ => [gId a, gId b]
  | .rem _ b a _ => [gId a, gId b]
  | .remu _ b a _ => [gId a, gId b]
  | .min _ b a _ => [gId a, gId b]
  | .max _ b a _ => [gId a, gId b]
  | .minu _ b a _ => [gId a, gId b]
  | .maxu _ b a _ => [gId a, gId b]
  | .lea _ b a _ => [gId a, gId b]
  | .and b a _ => [gId a, gId b]
  | .or b a _ => [gId a, gId b]
  | .xor b a _ => [gId a, gId b]
  | .andn b a _ => [gId a, gId b]
  | .orn b a _ => [gId a, gId b]
  | .sll _ b a _ => [gId a, gId b]
  | .srl _ b a _ => [gId a, gId b]
  | .sra _ b a _ => [gId a, gId b]
  | .rot _ b a _ => [gId a, gId b]
  | .clz _ a _ => [gId a]
  | .ctz _ a _ => [gId a]
  | .popc _ a _ => [gId a]
  | .bswap a _ => [gId a]
  | .sext _ a _ => [gId a]
  | .zext _ a _ => [gId a]
  | .addi _ a _ => [gId a]
  | .andi _ a _ => [gId a]
  | .ori _ a _ => [gId a]
  | .xori _ a _ => [gId a]
  | .slli _ _ a _ => [gId a]
  | .srli _ _ a _ => [gId a]
  | .srai _ _ a _ => [gId a]
  | .roti _ _ a _ => [gId a]
  | .lui _ _ => []
  | .auipc _ _ => []
  | .bfx _ _ a _ => [gId a]
  | .bfxu _ _ a _ => [gId a]
  | .bfi _ _ a d => [gId a, gId d]
  | .pcmp _ _ _ b a _ => [gId a, gId b]
  | .pcmpi _ _ a _ => [gId a]
  | .pand b a _ => [pId a, pId b]
  | .por b a _ => [pId a, pId b]
  | .pxor b a _ => [pId a, pId b]
  | .pnot a _ => [pId a]
  | .sel k b a _ => [pId k, gId a, gId b]
  | .mix b a _ => [gId a, gId b]
  | .bcc _ b a _ => [gId a, gId b]
  | .bp _ _ _ k => [pId k]
  | .j _ => []
  | .jl _ => []
  | .jlr _ a _ => [gId a]
  | .jr _ a => [gId a]
  | .loop _ a _ => [gId a]
  | .loopi _ _ _ _ => []
  | .rep _ _ _ _ => []
  | .replayEnd => []
  | .cvt _ _ _ _ a _ => [gId a]
  | .faddS _ b a _ => [gId a, gId b]
  | .fsubS _ b a _ => [gId a, gId b]
  | .fmulS _ b a _ => [gId a, gId b]
  | .fdivS _ b a _ => [gId a, gId b]
  | .fsqrtS _ a _ => [gId a]
  | .fminS b a _ => [gId a, gId b]
  | .fmaxS b a _ => [gId a, gId b]
  | .fsgnS b a _ => [gId a, gId b]
  | .fsgnnS b a _ => [gId a, gId b]
  | .fsgnxS b a _ => [gId a, gId b]
  | .fclassS a _ => [gId a]
  | .faddD _ b a _ => [gId a, gId b]
  | .fsubD _ b a _ => [gId a, gId b]
  | .fmulD _ b a _ => [gId a, gId b]
  | .fdivD _ b a _ => [gId a, gId b]
  | .fsqrtD _ a _ => [gId a]
  | .fminD b a _ => [gId a, gId b]
  | .fmaxD b a _ => [gId a, gId b]
  | .fsgnD b a _ => [gId a, gId b]
  | .fsgnnD b a _ => [gId a, gId b]
  | .fsgnxD b a _ => [gId a, gId b]
  | .fclassD a _ => [gId a]
  | .ffma _ _ b a d => [gId a, gId b, gId d]
  | .ffms _ _ b a d => [gId a, gId b, gId d]
  | .fcmp _ _ _ b a _ => [gId a, gId b]
  | .mfs _ _ => []
  | .mts _ a => [gId a]
  | .cplaunch _ => []
  | .trap _ _ => []
  | .eret => []
  | .yield => []
  | .suspend => []
  | .wfw => []
  | .bkpt => []
  | .nop => []
  | .waite => []
  | .ctxsave b a => [gId a, gId b]
  | .ctxload a => [gId a]
  | .atr _ a _ => [gId a]
  | .tlbfl _ a => [gId a]
  | .haltp a => [gId a]
  | .selftest a _ => [gId a]
  | .vadd _ _ p b a d => [pId p, vId a, vId b] ++ keptBy p (vId d)
  | .vsub _ _ p b a d => [pId p, vId a, vId b] ++ keptBy p (vId d)
  | .vmul _ _ p b a d => [pId p, vId a, vId b] ++ keptBy p (vId d)
  | .vfma _ _ p b a d => [pId p, vId a, vId b, vId d]
  | .vfms _ _ p b a d => [pId p, vId a, vId b, vId d]
  | .vmin _ p b a d => [pId p, vId a, vId b] ++ keptBy p (vId d)
  | .vmax _ p b a d => [pId p, vId a, vId b] ++ keptBy p (vId d)
  | .vabs _ p a d => [pId p, vId a] ++ keptBy p (vId d)
  | .vneg _ p a d => [pId p, vId a] ++ keptBy p (vId d)
  | .vrcp _ p a d => [pId p, vId a] ++ keptBy p (vId d)
  | .vrsq _ p a d => [pId p, vId a] ++ keptBy p (vId d)
  | .vexp2 _ p a d => [pId p, vId a] ++ keptBy p (vId d)
  | .viadd _ p b a d => [pId p, vId a, vId b] ++ keptBy p (vId d)
  | .visub _ p b a d => [pId p, vId a, vId b] ++ keptBy p (vId d)
  | .vimul _ p b a d => [pId p, vId a, vId b] ++ keptBy p (vId d)
  | .vimad _ p b a d => [pId p, vId a, vId b, vId d]
  | .vimin _ p b a d => [pId p, vId a, vId b] ++ keptBy p (vId d)
  | .vimax _ p b a d => [pId p, vId a, vId b] ++ keptBy p (vId d)
  | .vand _ p b a d => [pId p, vId a, vId b] ++ keptBy p (vId d)
  | .vor _ p b a d => [pId p, vId a, vId b] ++ keptBy p (vId d)
  | .vxor _ p b a d => [pId p, vId a, vId b] ++ keptBy p (vId d)
  | .vsll _ p b a d => [pId p, vId a, vId b] ++ keptBy p (vId d)
  | .vsrl _ p b a d => [pId p, vId a, vId b] ++ keptBy p (vId d)
  | .vsra _ p b a d => [pId p, vId a, vId b] ++ keptBy p (vId d)
  | .viabs _ p a d => [pId p, vId a] ++ keptBy p (vId d)
  | .vcmp _ _ p b a d => [pId p, vId a, vId b] ++ keptBy p (pId d)
  | .vsel p b a _ => [pId p, vId a, vId b]
  | .vperm p b a d => [pId p, vId a, vId b] ++ keptBy p (vId d)
  | .vrev p a d => [pId p, vId a] ++ keptBy p (vId d)
  | .vslide _ p b a d => [pId p, vId a, vId b] ++ keptBy p (vId d)
  | .vzip p b a d => [pId p, vId a, vId b] ++ keptBy p (vId d)
  | .vunzip p a d => [pId p, vId a] ++ keptBy p (vId d)
  | .vbcast p g d => [pId (p.setWidth 3), gId g] ++ keptBy p (vId d)
  | .vext _ _ a => [vId a]
  | .vins _ g d => [gId g] ++ [vId d]
  | .viota p g d => [pId (p.setWidth 3), gId g] ++ keptBy p (vId d)
  | .vmix p g a d => [pId (p.setWidth 3), gId g, vId a] ++ keptBy p (vId d)
  | .vred _ _ p a _ => [pId p, vId a]
  | .vscan _ _ p a d => [pId p, vId a] ++ keptBy p (vId d)
  | .vdot _ _ p b a d => [pId p, vId a, vId b, vId d]
  | .vcvt _ _ p _ a d => [pId p, vId a] ++ keptBy p (vId d)
  | .vpack _ _ p b a d => [pId p, vId a, vId b] ++ keptBy p (vId d)
  | .vunpk _ p _ a d => [pId p, vId a] ++ keptBy p (vId d)
  | .vbscale _ _ p b a d => [pId p, vId a, vId b] ++ keptBy p (vId d)
  | .ld _ _ a _ => [gId a]
  | .ldWindow _ _ _ a _ => [gId a]
  | .st _ _ a d => [gId a, gId d]
  | .vld _ a _ => [gId a]
  | .vst _ a d => [gId a, vId d]
  | .vlds _ _ a _ => [gId a]
  | .vsts _ _ a d => [gId a, vId d]
  | .ldp _ a _ => [gId a]
  | .vldp _ a _ => [gId a]
  | .vldWindow _ _ a _ => [gId a]
  | .amo _ _ b a _ => [gId a, gId b]
  | .cas _ b a d => [gId a, gId b, gId d]
  | .lda _ a _ => [gId a]
  | .stl _ b a => [gId a, gId b]
  | .acq => []
  | .rel => []
  | .fence => []
  | .red _ _ b a => [gId a, gId b]
  | .vgather _ b a _ => [gId a, vId b]
  | .vscatter _ b a d => [gId a, vId b, vId d]
  | .ldx _ _ _ b a _ => [gId a, gId b]
  | .stx _ _ b a d => [gId a, gId b, gId d]
  | .wenq b a d => [gId a, vId b, gId d]
  | .watch a _ => [gId a]
  | .unwatch a _ => [gId a]
  | .pref a => [gId a]
  | .cflush a => [gId a]
  | .cinv a => [gId a]
  | .copyp a _ => [gId a]
  | .twaitany a _ => [gId a]
  | .twaitall a => [gId a]
  | .tfind a _ => [gId a]
  | .ttest a _ => [gId a]
  | .tclr a => [gId a]
  | .chopen b a _ => [gId a, gId b]
  | .chclose _ => []
  | .mfree a => [gId a]
  | .mbwait a _ => [gId a]
  | .put _ a => [gId a]
  | .get _ _ => []
  | .putv _ a => [vId a]
  | .getv _ _ => []
  | .psel b a _ => [gId a, gId b]
  | .putb _ _ a => [gId a]
  | .getb _ _ a => [gId a]
  | .cload b a _ => [gId a, gId b]
  | .cunload a => [gId a]
  | .pbind b a _ => [gId a, gId b]
  | .punbind _ => []
  | .cstat b a _ => [gId a, gId b]
  | .tmma _ a => [gId a]
  | .tmmaSp _ _ a => [gId a]
  | .tzero => []
  | .tld _ a => [gId a]
  | .tst _ a => [gId a]
  | .tldb _ a => [gId a]
  | .tjoin a => [gId a]
  | .twt a => [gId a]
  | .tstat a _ => [gId a]
  | .tkget a _ => [gId a]
  | .tkwait a => [gId a]
  | .publish => []
  | .hnew a _ => [gId a]
  | .hcopy a _ => [gId a]
  | .hdrop a => [gId a]
  | .hwt a _ => [gId a]
  | .hbind b a => [gId a, gId b]
  | .barinit b a => [gId a, gId b]
  | .bari a _ => [gId a]
  | .barw b a => [gId a, gId b]
  | .bart b a _ => [gId a, gId b]
  | .gbar b a => [gId a, gId b]
  | .flushp a => [gId a]
  | .flushpG a => [gId a]
  | .redt b a => [gId a, gId b]
  | .spawn a => [gId a]
  | .join => []
  | .tenq a => [gId a]
  | .tpick => []
  | .tctr b a => [gId a, gId b]
  | .tdec a => [gId a]
  | .klaunch b a _ => [gId a, gId b]
  | .emulation _ => []
  | .cMv b _ => [gId b]
  | .cAdd b d => [gId d, gId b]
  | .cSub b d => [gId d, gId b]
  | .cAddi _ d => [gId d]
  | .cLi _ _ => []
  | .cAnd b d => [gId d, gId b]
  | .cOr b d => [gId d, gId b]
  | .cSlli _ d => [gId d]
  | .cLdw b _ => [gId b]
  | .cStw b d => [gId b, gId d]
  | .cB _ => []
  | .cBnz _ d => [gId d]
  | .cPut _ d => [gId d]
  | .cGet _ _ => []
  | .cNop => []
  | .cYield => []
  | .cSuspend => []
  | .cWfw => []
  | .cEret => []
  | .cBkpt => []
  | .cWaite => []
  | .packageReset => []
  | .powerUpSequence => []
  | .supplyDroopStretch => []
  | .thermalThrottle => []
  | .thermalShutdown => []
  | .portLinkTrained => []
  | .bindRecordDispatch => []
  | .taskStart => []
  | .parkRelease => []
  | .loadDataReturn => []
  | .divideResult => []
  | .fdivFsqrtResult => []
  | .timerExpiry => []
  | .trapEntry => []
  | .homeRegistration => []
  | .homeRemoteRead => []
  | .homeWriteBack => []
  | .homeRedArrival => []
  | .directoryHandlerDone => []
  | .formatWindowFill => []
  | .formatWindowWriteback => []
  | .formatWindowEnable => []
  | .pageWalk => []
  | .fqheadWrite => []
  | .faultRepost => []
  | .flushPage => []
  | .flushContext => []
  | .flushComplete => []
  | .copyWordTransfer => []
  | .copyComplete => []
  | .mfreeCombinedArrival => []
  | .sparsityStoreResume => []
  | .offerAcceptArrival => []
  | .resolverEvaluation => []
  | .withdrawalRequestArrival => []
  | .portFire => []
  | .withdrawalAck => []
  | .portTimeout => []
  | .bufItemArrival => []
  | .bufCreditArrival => []
  | .payloadReceive => []
  | .streamPayloadDelivery => []
  | .frontierAdvanceDelivery => []
  | .kStep => []
  | .commitDrain => []
  | .groupRetire => []
  | .ticketDeadlock => []
  | .kernelAbort => []
  | .weightArrival => []
  | .treeNodeCombine => []
  | .flushProbeReturn => []
  | .doorbell => []
  | .tenantTurn => []
  | .groupPlacement => []
  | .runListAging => []
  | .stealAttempt => []
  | .stealRequestArrival => []
  | .overflowRingRefill => []
  | .tdecArrival => []
  | .tenqArrival => []
  | .wenqArrival => []
  | .preemptDeadline => []
  | .groupSave => []
  | .groupRestore => []
  | .ctxCreate => []
  | .ctxBind => []
  | .ctxSave => []
  | .ctxRestore => []
  | .ctxDestroy => []
  | .haltStop => []
  | .haltResume => []
  | .featlockWrite => []
  | .tweightWrite => []
  | .portcfgWrite => []
  | .streamTableWrite => []
  | .registerWrite => []
  | .owlSpdmExchange => []
  | .owlUnlock => []
  | .owlLock => []
  | .owlStop => []
  | .owlResume => []
  | .owlArm => []
  | .owlDisarm => []
  | .owlReadSlot => []
  | .owlWriteSlot => []
  | .owlReadMemory => []
  | .owlWriteMemory => []
  | .owlReadHaltRecord => []
  | .errorDetected => []
  | .unitSelftestComplete => []
  | .homeAtomicAccess => []
  | .counterRequestArrival => []
  | .watchRequestArrival => []
  | .stealAnswerArrival => []

/-- Whether a format code is one of the block formats (R62). -/
def blockFmt (f : Fmt) : Bool :=
  match f with
  | .i4 | .o4 | .e8m0 | .ue5m3 => true
  | _ => false

/-- Group n if the condition holds. -/
def groupIf (c : Bool) (n : Nat) : List Nat := if c then [n] else []

/-- Group 15 for the rounding mode SR (R62). -/
def srGroup (r : Rm) : List Nat := groupIf (r == .sr) 15

/-- The feature groups of R62 that gate an instruction, beside the base group. -/
def featureGroups (i : Instr) : List Nat :=
  match i with
  | .add _ _ _ _ => []
  | .sub _ _ _ _ => []
  | .mul _ _ _ _ => []
  | .mulh _ _ _ => []
  | .mulhu _ _ _ => []
  | .div _ _ _ _ => []
  | .divu _ _ _ _ => []
  | .rem _ _ _ _ => []
  | .remu _ _ _ _ => []
  | .min _ _ _ _ => []
  | .max _ _ _ _ => []
  | .minu _ _ _ _ => []
  | .maxu _ _ _ _ => []
  | .lea _ _ _ _ => []
  | .and _ _ _ => []
  | .or _ _ _ => []
  | .xor _ _ _ => []
  | .andn _ _ _ => []
  | .orn _ _ _ => []
  | .sll _ _ _ _ => []
  | .srl _ _ _ _ => []
  | .sra _ _ _ _ => []
  | .rot _ _ _ _ => []
  | .clz _ _ _ => []
  | .ctz _ _ _ => []
  | .popc _ _ _ => []
  | .bswap _ _ => []
  | .sext _ _ _ => []
  | .zext _ _ _ => []
  | .addi _ _ _ => []
  | .andi _ _ _ => []
  | .ori _ _ _ => []
  | .xori _ _ _ => []
  | .slli _ _ _ _ => []
  | .srli _ _ _ _ => []
  | .srai _ _ _ _ => []
  | .roti _ _ _ _ => []
  | .lui _ _ => []
  | .auipc _ _ => []
  | .bfx _ _ _ _ => []
  | .bfxu _ _ _ _ => []
  | .bfi _ _ _ _ => []
  | .pcmp _ _ _ _ _ _ => []
  | .pcmpi _ _ _ _ => []
  | .pand _ _ _ => []
  | .por _ _ _ => []
  | .pxor _ _ _ => []
  | .pnot _ _ => []
  | .sel _ _ _ _ => []
  | .mix _ _ _ => []
  | .bcc _ _ _ _ => []
  | .bp _ _ _ _ => []
  | .j _ => []
  | .jl _ => []
  | .jlr _ _ _ => []
  | .jr _ _ => []
  | .loop _ _ _ => []
  | .loopi _ _ _ _ => []
  | .rep _ _ _ _ => []
  | .replayEnd => []
  | .cvt f e r _ _ _ => groupIf (blockFmt f || blockFmt e) 9 ++ srGroup r
  | .faddS r _ _ _ => srGroup r
  | .fsubS r _ _ _ => srGroup r
  | .fmulS r _ _ _ => srGroup r
  | .fdivS r _ _ _ => srGroup r
  | .fsqrtS r _ _ => srGroup r
  | .fminS _ _ _ => []
  | .fmaxS _ _ _ => []
  | .fsgnS _ _ _ => []
  | .fsgnnS _ _ _ => []
  | .fsgnxS _ _ _ => []
  | .fclassS _ _ => []
  | .faddD r _ _ _ => [1] ++ srGroup r
  | .fsubD r _ _ _ => [1] ++ srGroup r
  | .fmulD r _ _ _ => [1] ++ srGroup r
  | .fdivD r _ _ _ => [1] ++ srGroup r
  | .fsqrtD r _ _ => [1] ++ srGroup r
  | .fminD _ _ _ => [1]
  | .fmaxD _ _ _ => [1]
  | .fsgnD _ _ _ => [1]
  | .fsgnnD _ _ _ => [1]
  | .fsgnxD _ _ _ => [1]
  | .fclassD _ _ => [1]
  | .ffma t r _ _ _ => groupIf t 1 ++ srGroup r
  | .ffms t r _ _ _ => groupIf t 1 ++ srGroup r
  | .fcmp t _ _ _ _ _ => groupIf t 1
  | .mfs _ _ => []
  | .mts _ _ => []
  | .cplaunch _ => []
  | .trap _ _ => []
  | .eret => []
  | .yield => []
  | .suspend => []
  | .wfw => []
  | .bkpt => []
  | .nop => []
  | .waite => []
  | .ctxsave _ _ => []
  | .ctxload _ => []
  | .atr _ _ _ => []
  | .tlbfl _ _ => []
  | .haltp _ => []
  | .selftest _ _ => []
  | .vadd t r _ _ _ _ => [2] ++ groupIf t 3 ++ srGroup r
  | .vsub t r _ _ _ _ => [2] ++ groupIf t 3 ++ srGroup r
  | .vmul t r _ _ _ _ => [2] ++ groupIf t 3 ++ srGroup r
  | .vfma t r _ _ _ _ => [2] ++ groupIf t 3 ++ srGroup r
  | .vfms t r _ _ _ _ => [2] ++ groupIf t 3 ++ srGroup r
  | .vmin t _ _ _ _ => [2] ++ groupIf t 3
  | .vmax t _ _ _ _ => [2] ++ groupIf t 3
  | .vabs t _ _ _ => [2] ++ groupIf t 3
  | .vneg t _ _ _ => [2] ++ groupIf t 3
  | .vrcp r _ _ _ => [2] ++ srGroup r
  | .vrsq r _ _ _ => [2] ++ srGroup r
  | .vexp2 r _ _ _ => [2] ++ srGroup r
  | .viadd _ _ _ _ _ => [2]
  | .visub _ _ _ _ _ => [2]
  | .vimul _ _ _ _ _ => [2]
  | .vimad _ _ _ _ _ => [2]
  | .vimin _ _ _ _ _ => [2]
  | .vimax _ _ _ _ _ => [2]
  | .vand _ _ _ _ _ => [2]
  | .vor _ _ _ _ _ => [2]
  | .vxor _ _ _ _ _ => [2]
  | .vsll _ _ _ _ _ => [2]
  | .vsrl _ _ _ _ _ => [2]
  | .vsra _ _ _ _ _ => [2]
  | .viabs _ _ _ _ => [2]
  | .vcmp _ _ _ _ _ _ => [2]
  | .vsel _ _ _ _ => [2]
  | .vperm _ _ _ _ => [2]
  | .vrev _ _ _ => [2]
  | .vslide _ _ _ _ _ => [2]
  | .vzip _ _ _ _ => [2]
  | .vunzip _ _ _ => [2]
  | .vbcast _ _ _ => [2]
  | .vext _ _ _ => [2]
  | .vins _ _ _ => [2]
  | .viota _ _ _ => [2]
  | .vmix _ _ _ _ => [2]
  | .vred _ r _ _ _ => [2] ++ srGroup r
  | .vscan _ r _ _ _ => [2] ++ srGroup r
  | .vdot f r _ _ _ _ => [2] ++ groupIf (blockFmt f) 9 ++ srGroup r
  | .vcvt f r _ e _ _ => [2] ++ groupIf (blockFmt f || blockFmt e) 9 ++ srGroup r
  | .vpack f r _ _ _ _ => [2] ++ groupIf (blockFmt f) 9 ++ srGroup r
  | .vunpk f _ _ _ _ => [2] ++ groupIf (blockFmt f) 9
  | .vbscale f r _ _ _ _ => [2] ++ groupIf (blockFmt f) 9 ++ srGroup r
  | .ld _ _ _ _ => []
  | .ldWindow _ _ _ _ _ => []
  | .st _ _ _ _ => []
  | .vld _ _ _ => [2]
  | .vst _ _ _ => [2]
  | .vlds _ _ _ _ => [2]
  | .vsts _ _ _ _ => [2]
  | .ldp _ _ _ => []
  | .vldp _ _ _ => [2]
  | .vldWindow _ _ _ _ => [2]
  | .amo _ _ _ _ _ => []
  | .cas _ _ _ _ => []
  | .lda _ _ _ => []
  | .stl _ _ _ => []
  | .acq => []
  | .rel => []
  | .fence => []
  | .red o z _ _ => groupIf (z && (o == .fadd || o == .fmin || o == .fmax)) 1
  | .vgather _ _ _ _ => [2]
  | .vscatter _ _ _ _ => [2]
  | .ldx _ _ _ _ _ _ => []
  | .stx _ _ _ _ _ => []
  | .wenq _ _ _ => [13]
  | .watch _ _ => [13]
  | .unwatch _ _ => [13]
  | .pref _ => []
  | .cflush _ => []
  | .cinv _ => []
  | .copyp _ _ => [4]
  | .twaitany _ _ => [4]
  | .twaitall _ => [4]
  | .tfind _ _ => [4]
  | .ttest _ _ => [4]
  | .tclr _ => [4]
  | .chopen _ _ _ => [4]
  | .chclose _ => [4]
  | .mfree _ => [4]
  | .mbwait _ _ => [4]
  | .put _ _ => [5]
  | .get _ _ => [5]
  | .putv _ _ => [5]
  | .getv _ _ => [5]
  | .psel _ _ _ => [5]
  | .putb _ _ _ => [5]
  | .getb _ _ _ => [5]
  | .cload _ _ _ => [5]
  | .cunload _ => [5]
  | .pbind _ _ _ => [5]
  | .punbind _ => [5]
  | .cstat _ _ _ => [5]
  | .tmma _ _ => [6]
  | .tmmaSp _ _ _ => [6, 7]
  | .tzero => [6]
  | .tld _ _ => [6]
  | .tst _ _ => [6]
  | .tldb _ _ => [6]
  | .tjoin _ => [6, 8]
  | .twt _ => [6]
  | .tstat _ _ => [6]
  | .tkget _ _ => [10]
  | .tkwait _ => [10]
  | .publish => [10]
  | .hnew _ _ => [11]
  | .hcopy _ _ => [11]
  | .hdrop _ => [11]
  | .hwt _ _ => [11]
  | .hbind _ _ => [11]
  | .barinit _ _ => [12]
  | .bari _ _ => [12]
  | .barw _ _ => [12]
  | .bart _ _ _ => [12]
  | .gbar _ _ => [12]
  | .flushp _ => [12]
  | .flushpG _ => [12]
  | .redt _ _ => [12]
  | .spawn _ => [13]
  | .join => [13]
  | .tenq _ => [13]
  | .tpick => [13]
  | .tctr _ _ => [13]
  | .tdec _ => [13]
  | .klaunch _ _ _ => [13]
  | .emulation _ => [14]
  | .cMv _ _ => []
  | .cAdd _ _ => []
  | .cSub _ _ => []
  | .cAddi _ _ => []
  | .cLi _ _ => []
  | .cAnd _ _ => []
  | .cOr _ _ => []
  | .cSlli _ _ => []
  | .cLdw _ _ => []
  | .cStw _ _ => []
  | .cB _ => []
  | .cBnz _ _ => []
  | .cPut _ _ => [5]
  | .cGet _ _ => [5]
  | .cNop => []
  | .cYield => []
  | .cSuspend => []
  | .cWfw => []
  | .cEret => []
  | .cBkpt => []
  | .cWaite => []
  | .packageReset => []
  | .powerUpSequence => []
  | .supplyDroopStretch => []
  | .thermalThrottle => []
  | .thermalShutdown => []
  | .portLinkTrained => []
  | .bindRecordDispatch => []
  | .taskStart => []
  | .parkRelease => []
  | .loadDataReturn => []
  | .divideResult => []
  | .fdivFsqrtResult => []
  | .timerExpiry => []
  | .trapEntry => []
  | .homeRegistration => []
  | .homeRemoteRead => []
  | .homeWriteBack => []
  | .homeRedArrival => []
  | .directoryHandlerDone => []
  | .formatWindowFill => []
  | .formatWindowWriteback => []
  | .formatWindowEnable => []
  | .pageWalk => []
  | .fqheadWrite => []
  | .faultRepost => []
  | .flushPage => []
  | .flushContext => []
  | .flushComplete => []
  | .copyWordTransfer => []
  | .copyComplete => []
  | .mfreeCombinedArrival => []
  | .sparsityStoreResume => []
  | .offerAcceptArrival => []
  | .resolverEvaluation => []
  | .withdrawalRequestArrival => []
  | .portFire => []
  | .withdrawalAck => []
  | .portTimeout => []
  | .bufItemArrival => []
  | .bufCreditArrival => []
  | .payloadReceive => []
  | .streamPayloadDelivery => []
  | .frontierAdvanceDelivery => []
  | .kStep => []
  | .commitDrain => []
  | .groupRetire => []
  | .ticketDeadlock => []
  | .kernelAbort => []
  | .weightArrival => []
  | .treeNodeCombine => []
  | .flushProbeReturn => []
  | .doorbell => []
  | .tenantTurn => []
  | .groupPlacement => []
  | .runListAging => []
  | .stealAttempt => []
  | .stealRequestArrival => []
  | .overflowRingRefill => []
  | .tdecArrival => []
  | .tenqArrival => []
  | .wenqArrival => []
  | .preemptDeadline => []
  | .groupSave => []
  | .groupRestore => []
  | .ctxCreate => []
  | .ctxBind => []
  | .ctxSave => []
  | .ctxRestore => []
  | .ctxDestroy => []
  | .haltStop => []
  | .haltResume => []
  | .featlockWrite => []
  | .tweightWrite => []
  | .portcfgWrite => []
  | .streamTableWrite => []
  | .registerWrite => []
  | .owlSpdmExchange => []
  | .owlUnlock => []
  | .owlLock => []
  | .owlStop => []
  | .owlResume => []
  | .owlArm => []
  | .owlDisarm => []
  | .owlReadSlot => []
  | .owlWriteSlot => []
  | .owlReadMemory => []
  | .owlWriteMemory => []
  | .owlReadHaltRecord => []
  | .errorDetected => []
  | .unitSelftestComplete => []
  | .homeAtomicAccess => []
  | .counterRequestArrival => []
  | .watchRequestArrival => []
  | .stealAnswerArrival => []

/-- The rounding mode that an instruction's rm field names. -/
def roundingOf (i : Instr) : Option Rm :=
  match i with
  | .cvt _ _ r _ _ _ => some r
  | .faddS r _ _ _ => some r
  | .fsubS r _ _ _ => some r
  | .fmulS r _ _ _ => some r
  | .fdivS r _ _ _ => some r
  | .fsqrtS r _ _ => some r
  | .faddD r _ _ _ => some r
  | .fsubD r _ _ _ => some r
  | .fmulD r _ _ _ => some r
  | .fdivD r _ _ _ => some r
  | .fsqrtD r _ _ => some r
  | .ffma _ r _ _ _ => some r
  | .ffms _ r _ _ _ => some r
  | .vadd _ r _ _ _ _ => some r
  | .vsub _ r _ _ _ _ => some r
  | .vmul _ r _ _ _ _ => some r
  | .vfma _ r _ _ _ _ => some r
  | .vfms _ r _ _ _ _ => some r
  | .vrcp r _ _ _ => some r
  | .vrsq r _ _ _ => some r
  | .vexp2 r _ _ _ => some r
  | .vred _ r _ _ _ => some r
  | .vscan _ r _ _ _ => some r
  | .vdot _ r _ _ _ _ => some r
  | .vcvt _ r _ _ _ _ => some r
  | .vpack _ r _ _ _ _ => some r
  | .vbscale _ r _ _ _ _ => some r
  | _ => none

/-- Whether an instruction belongs to major 0x1f (R59, order 6). -/
def privileged (i : Instr) : Bool :=
  match i with
  | .ctxsave _ _ => true
  | .ctxload _ => true
  | .atr _ _ _ => true
  | .tlbfl _ _ => true
  | .haltp _ => true
  | .selftest _ _ => true
  | _ => false

/-- Whether a REP window may hold the instruction (R155): the vector, vector access and tile instructions, and COPYP. -/
def repLegal (i : Instr) : Bool :=
  match i with
  | .vadd _ _ _ _ _ _ => true
  | .vsub _ _ _ _ _ _ => true
  | .vmul _ _ _ _ _ _ => true
  | .vfma _ _ _ _ _ _ => true
  | .vfms _ _ _ _ _ _ => true
  | .vmin _ _ _ _ _ => true
  | .vmax _ _ _ _ _ => true
  | .vabs _ _ _ _ => true
  | .vneg _ _ _ _ => true
  | .vrcp _ _ _ _ => true
  | .vrsq _ _ _ _ => true
  | .vexp2 _ _ _ _ => true
  | .viadd _ _ _ _ _ => true
  | .visub _ _ _ _ _ => true
  | .vimul _ _ _ _ _ => true
  | .vimad _ _ _ _ _ => true
  | .vimin _ _ _ _ _ => true
  | .vimax _ _ _ _ _ => true
  | .vand _ _ _ _ _ => true
  | .vor _ _ _ _ _ => true
  | .vxor _ _ _ _ _ => true
  | .vsll _ _ _ _ _ => true
  | .vsrl _ _ _ _ _ => true
  | .vsra _ _ _ _ _ => true
  | .viabs _ _ _ _ => true
  | .vcmp _ _ _ _ _ _ => true
  | .vsel _ _ _ _ => true
  | .vperm _ _ _ _ => true
  | .vrev _ _ _ => true
  | .vslide _ _ _ _ _ => true
  | .vzip _ _ _ _ => true
  | .vunzip _ _ _ => true
  | .vbcast _ _ _ => true
  | .vext _ _ _ => true
  | .vins _ _ _ => true
  | .viota _ _ _ => true
  | .vmix _ _ _ _ => true
  | .vred _ _ _ _ _ => true
  | .vscan _ _ _ _ _ => true
  | .vdot _ _ _ _ _ _ => true
  | .vcvt _ _ _ _ _ _ => true
  | .vpack _ _ _ _ _ _ => true
  | .vunpk _ _ _ _ _ => true
  | .vbscale _ _ _ _ _ _ => true
  | .vld _ _ _ => true
  | .vst _ _ _ => true
  | .vlds _ _ _ _ => true
  | .vsts _ _ _ _ => true
  | .vldp _ _ _ => true
  | .vldWindow _ _ _ _ => true
  | .vgather _ _ _ _ => true
  | .vscatter _ _ _ _ => true
  | .copyp _ _ => true
  | .tmma _ _ => true
  | .tmmaSp _ _ _ => true
  | .tzero => true
  | .tld _ _ => true
  | .tst _ _ => true
  | .tldb _ _ => true
  | .tjoin _ => true
  | .twt _ => true
  | .tstat _ _ => true
  | _ => false

/-- A register field with the stagger of repetition i (R156). -/
def stagger {n : Nat} (on : Bool) (f : BitVec n) (k : Nat) : BitVec n := if on then f + BitVec.ofNat n k else f

/-- The instruction of repetition i of a replay, step being i times the REP's step: bit 0 of the mask staggers d, bit 1 a, bit 2 b or g
(R154, R156). -/
def staggered (mask step : Nat) (i : Instr) : Instr :=
  match i with
  | .vadd t r p b a d => .vadd t r p (stagger (mask.testBit 2) b step) (stagger (mask.testBit 1) a step) (stagger (mask.testBit 0) d step)
  | .vsub t r p b a d => .vsub t r p (stagger (mask.testBit 2) b step) (stagger (mask.testBit 1) a step) (stagger (mask.testBit 0) d step)
  | .vmul t r p b a d => .vmul t r p (stagger (mask.testBit 2) b step) (stagger (mask.testBit 1) a step) (stagger (mask.testBit 0) d step)
  | .vfma t r p b a d => .vfma t r p (stagger (mask.testBit 2) b step) (stagger (mask.testBit 1) a step) (stagger (mask.testBit 0) d step)
  | .vfms t r p b a d => .vfms t r p (stagger (mask.testBit 2) b step) (stagger (mask.testBit 1) a step) (stagger (mask.testBit 0) d step)
  | .vmin t p b a d => .vmin t p (stagger (mask.testBit 2) b step) (stagger (mask.testBit 1) a step) (stagger (mask.testBit 0) d step)
  | .vmax t p b a d => .vmax t p (stagger (mask.testBit 2) b step) (stagger (mask.testBit 1) a step) (stagger (mask.testBit 0) d step)
  | .vabs t p a d => .vabs t p (stagger (mask.testBit 1) a step) (stagger (mask.testBit 0) d step)
  | .vneg t p a d => .vneg t p (stagger (mask.testBit 1) a step) (stagger (mask.testBit 0) d step)
  | .vrcp r p a d => .vrcp r p (stagger (mask.testBit 1) a step) (stagger (mask.testBit 0) d step)
  | .vrsq r p a d => .vrsq r p (stagger (mask.testBit 1) a step) (stagger (mask.testBit 0) d step)
  | .vexp2 r p a d => .vexp2 r p (stagger (mask.testBit 1) a step) (stagger (mask.testBit 0) d step)
  | .viadd l p b a d => .viadd l p (stagger (mask.testBit 2) b step) (stagger (mask.testBit 1) a step) (stagger (mask.testBit 0) d step)
  | .visub l p b a d => .visub l p (stagger (mask.testBit 2) b step) (stagger (mask.testBit 1) a step) (stagger (mask.testBit 0) d step)
  | .vimul l p b a d => .vimul l p (stagger (mask.testBit 2) b step) (stagger (mask.testBit 1) a step) (stagger (mask.testBit 0) d step)
  | .vimad l p b a d => .vimad l p (stagger (mask.testBit 2) b step) (stagger (mask.testBit 1) a step) (stagger (mask.testBit 0) d step)
  | .vimin l p b a d => .vimin l p (stagger (mask.testBit 2) b step) (stagger (mask.testBit 1) a step) (stagger (mask.testBit 0) d step)
  | .vimax l p b a d => .vimax l p (stagger (mask.testBit 2) b step) (stagger (mask.testBit 1) a step) (stagger (mask.testBit 0) d step)
  | .vand l p b a d => .vand l p (stagger (mask.testBit 2) b step) (stagger (mask.testBit 1) a step) (stagger (mask.testBit 0) d step)
  | .vor l p b a d => .vor l p (stagger (mask.testBit 2) b step) (stagger (mask.testBit 1) a step) (stagger (mask.testBit 0) d step)
  | .vxor l p b a d => .vxor l p (stagger (mask.testBit 2) b step) (stagger (mask.testBit 1) a step) (stagger (mask.testBit 0) d step)
  | .vsll l p b a d => .vsll l p (stagger (mask.testBit 2) b step) (stagger (mask.testBit 1) a step) (stagger (mask.testBit 0) d step)
  | .vsrl l p b a d => .vsrl l p (stagger (mask.testBit 2) b step) (stagger (mask.testBit 1) a step) (stagger (mask.testBit 0) d step)
  | .vsra l p b a d => .vsra l p (stagger (mask.testBit 2) b step) (stagger (mask.testBit 1) a step) (stagger (mask.testBit 0) d step)
  | .viabs l p a d => .viabs l p (stagger (mask.testBit 1) a step) (stagger (mask.testBit 0) d step)
  | .vcmp t c p b a d => .vcmp t c p (stagger (mask.testBit 2) b step) (stagger (mask.testBit 1) a step) (stagger (mask.testBit 0) d step)
  | .vsel p b a d => .vsel p (stagger (mask.testBit 2) b step) (stagger (mask.testBit 1) a step) (stagger (mask.testBit 0) d step)
  | .vperm p b a d => .vperm p (stagger (mask.testBit 2) b step) (stagger (mask.testBit 1) a step) (stagger (mask.testBit 0) d step)
  | .vrev p a d => .vrev p (stagger (mask.testBit 1) a step) (stagger (mask.testBit 0) d step)
  | .vslide m p b a d => .vslide m p (stagger (mask.testBit 2) b step) (stagger (mask.testBit 1) a step) (stagger (mask.testBit 0) d step)
  | .vzip p b a d => .vzip p (stagger (mask.testBit 2) b step) (stagger (mask.testBit 1) a step) (stagger (mask.testBit 0) d step)
  | .vunzip p a d => .vunzip p (stagger (mask.testBit 1) a step) (stagger (mask.testBit 0) d step)
  | .vbcast p g d => .vbcast p (stagger (mask.testBit 2) g step) (stagger (mask.testBit 0) d step)
  | .vext l g a => .vext l (stagger (mask.testBit 2) g step) (stagger (mask.testBit 1) a step)
  | .vins l g d => .vins l (stagger (mask.testBit 2) g step) (stagger (mask.testBit 0) d step)
  | .viota p g d => .viota p (stagger (mask.testBit 2) g step) (stagger (mask.testBit 0) d step)
  | .vmix p g a d => .vmix p (stagger (mask.testBit 2) g step) (stagger (mask.testBit 1) a step) (stagger (mask.testBit 0) d step)
  | .vred o r p a d => .vred o r p (stagger (mask.testBit 1) a step) (stagger (mask.testBit 0) d step)
  | .vscan o r p a d => .vscan o r p (stagger (mask.testBit 1) a step) (stagger (mask.testBit 0) d step)
  | .vdot f r p b a d => .vdot f r p (stagger (mask.testBit 2) b step) (stagger (mask.testBit 1) a step) (stagger (mask.testBit 0) d step)
  | .vcvt f r p e a d => .vcvt f r p e (stagger (mask.testBit 1) a step) (stagger (mask.testBit 0) d step)
  | .vpack f r p b a d => .vpack f r p (stagger (mask.testBit 2) b step) (stagger (mask.testBit 1) a step) (stagger (mask.testBit 0) d step)
  | .vunpk f p h a d => .vunpk f p h (stagger (mask.testBit 1) a step) (stagger (mask.testBit 0) d step)
  | .vbscale f r p b a d => .vbscale f r p (stagger (mask.testBit 2) b step) (stagger (mask.testBit 1) a step) (stagger (mask.testBit 0) d step)
  | .vld o a d => .vld o (stagger (mask.testBit 1) a step) (stagger (mask.testBit 0) d step)
  | .vst o a d => .vst o (stagger (mask.testBit 1) a step) (stagger (mask.testBit 0) d step)
  | .vlds x o a d => .vlds x o (stagger (mask.testBit 1) a step) (stagger (mask.testBit 0) d step)
  | .vsts x o a d => .vsts x o (stagger (mask.testBit 1) a step) (stagger (mask.testBit 0) d step)
  | .vldp o a d => .vldp o (stagger (mask.testBit 1) a step) (stagger (mask.testBit 0) d step)
  | .vldWindow w o a d => .vldWindow w o (stagger (mask.testBit 1) a step) (stagger (mask.testBit 0) d step)
  | .vgather c b a d => .vgather c (stagger (mask.testBit 2) b step) (stagger (mask.testBit 1) a step) (stagger (mask.testBit 0) d step)
  | .vscatter c b a d => .vscatter c (stagger (mask.testBit 2) b step) (stagger (mask.testBit 1) a step) (stagger (mask.testBit 0) d step)
  | .copyp a d => .copyp (stagger (mask.testBit 1) a step) (stagger (mask.testBit 0) d step)
  | .tmma x a => .tmma x (stagger (mask.testBit 1) a step)
  | .tmmaSp q x a => .tmmaSp q x (stagger (mask.testBit 1) a step)
  | .tld x a => .tld x (stagger (mask.testBit 1) a step)
  | .tst x a => .tst x (stagger (mask.testBit 1) a step)
  | .tldb x a => .tldb x (stagger (mask.testBit 1) a step)
  | .tjoin a => .tjoin (stagger (mask.testBit 1) a step)
  | .twt a => .twt (stagger (mask.testBit 1) a step)
  | .tstat a d => .tstat (stagger (mask.testBit 1) a step) (stagger (mask.testBit 0) d step)
  | i => i

end Sys2Proof.Machine
end

