-- ==== Sys2Proof/Machine/Units.lean ====
section
/-! DEFINITION. The state of the units beside the slots: cores, octets, clusters, dies, the home directory, and what
belongs to the package. -/

namespace Sys2Proof.Machine

/-! ### Words in an L1 and at home (09_word) -/

/-- The state of a word in an L1 (R197); an Owned word is registered or still registering. `upper` is the upper word of a
64-bit partial. -/
inductive L1St where
  | valid
  | owned (registered : Bool)
  | updateOnly (op : RedOp) (wide : Bool)
  | upper
  deriving DecidableEq, Repr

/-- A word held in an L1: its value (or 64-bit partial), and, while a store smaller than a word is unregistered, the
bytes that the core has written (R198). -/
structure L1Word where
  st : L1St
  val : Word
  mask : BitVec 4
  deriving DecidableEq, Repr

/-- A block of an L1: its first word, length in words and way (R191, R192). -/
structure Block where
  word : Nat
  len : Nat
  way : Nat
  deriving DecidableEq, Repr

/-- The L1 of a core: its words by word number, its blocks oldest fill first, and the requests that wait for the
directory handler. -/
structure L1 where
  words : Tbl L1Word
  blocks : List Block
  deriving DecidableEq, Repr

/-- The state of a word at its home when it is not Free (R196). -/
inductive HomeSt where
  | owned (core : Nat)
  | updateOnly (op : RedOp) (wide : Bool) (holders : List Nat)
  | upper
  deriving DecidableEq, Repr

/-- A record posted to a directory-handler ring and not yet consumed (R211): its place, counted over all records ever posted, the kind,
the holder to add or the entry to free, and the line. -/
structure DirPost where
  place : Nat
  kind : Nat
  value : Nat
  line : Nat
  deriving DecidableEq, Repr

/-! ### Copies (13_transfer) -/

/-- The states of a tag (R258). -/
inductive TagSt where
  | free
  | inFlight
  | complete
  | error (cause : Nat) (addr : Word)
  deriving DecidableEq, Repr

/-- A launched copy (R253 to R258): its tag, snapshot and launching slot with that slot's context, group and rights; how
many words are done; the cores that a multicast reaches; an engine fault; for a deterministic copy to memory, its entry
in the commit buffer and whether the drain has reached it (R273). -/
structure Copy where
  tag : Nat
  regs : CopyRegs
  slot : Nat
  ctx : Nat
  group : Nat
  sv : Bool
  done : Nat
  total : Nat
  receivers : List Nat
  parked : Option Nat
  err : Option (Nat × Word)
  entry : Option Nat
  started : Bool
  seq : Nat
  row : List (BitVec 8)
  /-- the channel that it filled has closed: accesses in its range are ordinary (R268) -/
  closed : Bool
  deriving DecidableEq, Repr

/-- A streaming channel (R267, R268). -/
structure Channel where
  opened : Bool
  base : Nat
  len : Nat
  tag : Option Nat
  wm : Word
  deriving DecidableEq, Repr

/-- A multicast whose combined count has not arrived: its mailbox and the receivers that have not freed it (R271). -/
structure Multicast where
  mbox : Nat
  waiting : List Nat
  deriving DecidableEq, Repr

/-- An entry of the parameter-block cache (R266). -/
structure ParamBlock where
  ctx : Nat
  addr : Nat
  /-- where its bytes lie -/
  place : Place
  bytes : List (BitVec 8)
  deriving DecidableEq, Repr

/-- The transfer state of a core. -/
structure Transfer where
  /-- tags that are not Free -/
  tags : Tbl TagSt
  /-- the copy of each tag that is not Free -/
  copies : Tbl Copy
  /-- tags of the copies of queues 0 and 1 that have not completed, in launch order -/
  q0 : List Nat
  q1 : List Nat
  chans : Vector Channel 4
  mb : Vector (BitVec 32) 8
  /-- multicasts delivered less MFREEs issued, by sender * 8 + mailbox -/
  delivered : Tbl Nat
  multicasts : List Multicast
  params : List ParamBlock
  deriving DecidableEq, Repr

/-! ### Connectors (14_connector) -/

/-- An offer or accept that has arrived at a resolver (R284): the item of an offer, the evaluation count at its arrival,
the slot and port that sent it, the PSEL mask it belongs to, and whether its withdrawal is requested (R285). -/
structure Standing where
  item : VReg
  since : Nat
  slot : Nat
  port : Nat
  mask : Nat
  withdraw : Bool
  deriving DecidableEq, Repr

/-- An endpoint of a connector: the port bound to it, its standing message, and the PSEL pointer that its link entry
keeps (R295). -/
structure Endpoint where
  used : Bool
  source : Bool
  bound : Option (Nat × Nat)
  standing : Option Standing
  ptr : Nat
  deriving DecidableEq, Repr

/-- A link record (R299) with what a BUF link holds: items that the downstream region may take, each with the evaluation
count at its arrival, and the places that the upstream region counts as held (R278, R488); for a link from a remote end,
whose items lie in the ring, `places` counts the items taken from it (R282). -/
structure Link where
  src : Nat
  dst : Nat
  kind : Nat
  cap : Nat
  fop : Nat
  fw : Nat
  fsgn : Bool
  ra : Nat
  rb : Nat
  mask : Word
  const : Word
  stream : Nat
  held : List (VReg × Nat)
  places : Nat
  deriving DecidableEq, Repr

/-- A node record (R298) with its rotating pointer (R288). -/
structure CNode where
  region : Nat
  kind : Nat
  n : Nat
  ptr : Nat
  deriving DecidableEq, Repr

/-- A region record with its evaluation count and the four counters of CSTAT (R303). -/
structure Region where
  rx : Nat
  ry : Nat
  evals : Nat
  counts : Vector (BitVec 48) 4
  deriving DecidableEq, Repr

/-- A loaded connector (R301): its context and number, the origin it was placed at, the kernel's deterministic
attribute, its records, and the width that each class has taken (by endpoint). -/
structure Connector where
  ctx : Nat
  num : Nat
  ox : Nat
  oy : Nat
  kernel : Nat
  det : Bool
  eps : List Endpoint
  regions : List Region
  nodes : List CNode
  links : List Link
  /-- the width of each class, by the lowest endpoint of the class: true is vector (R281) -/
  widths : Tbl Bool
  deriving DecidableEq, Repr

/-! ### Tiles (16_tile) -/

/-- The states of an accumulator tile (R308); whether it is Running shows in its command queue. -/
inductive TileSt where
  | own | lent | leading
  deriving DecidableEq, Repr

/-- A tile command in a core's queue (R309): the slot and instruction, its macro identity, address and extension values
as read at issue, and the next element. -/
structure TileCmd where
  slot : Nat
  mid : Nat
  addr : Word
  x0 : Word
  x1 : Word
  x2 : Word
  sparse : Bool
  q : Nat
  elem : Nat
  /-- the cycle in which the K step that is on the array leaves it -/
  busy : Option Nat
  deriving DecidableEq, Repr

/-- What the matrix unit holds for one core (R306, R311): the accumulator tile, by row * 192 + column, an unlisted
element being +0; its state, queue and weight. -/
structure TileCore where
  acc : Tbl (BitVec 32)
  st : TileSt
  queue : List TileCmd
  wt : Nat
  deriving DecidableEq, Repr

/-- A sparsity queue (R306, R320): its entries, oldest first, and the length in bytes of the last one appended. -/
structure SparseQ where
  entries : List (List (BitVec 8))
  last : Nat
  deriving DecidableEq, Repr

/-- The matrix unit of an octet: the B store by byte offset, the four sparsity queues, the arbiter's pointer and the
grants left to the core it last chose (R310). -/
structure TileUnit where
  bstore : Mem
  sq : Vector SparseQ 4
  ptr : Nat
  left : Nat
  /-- the cycle from which the array is free (R310) -/
  freeAt : Nat
  deriving DecidableEq, Repr

/-! ### Groups and frontier instances (17_ticket_group) -/

/-- What an entry of a commit buffer holds (R342, R236): a word of a store (and whether the access covers its whole sector, R405), an atomic and the slot's result that waits for
it, a RED, the markers, a cache command, the place of a copy, and a message that is sent when the drain reaches it; for
the last, whether a slot waits for its answer. -/
inductive EntryAct where
  | store (word : Nat) (mask : BitVec 4) (val : BitVec 32) (sector : Bool)
  | atomic (a : Atomic) (id : Nat)
  | red (op : RedOp) (wide : Bool) (pa : Nat) (val : Word)
  | rel
  | fence
  | publish
  | flush (line : Nat) (inv : Bool)
  | copy (core q tag : Nat)
  | msg (m : Msg) (waits : Bool) (id : Nat)
  deriving DecidableEq, Repr

/-- An entry with its slot, its place in the group's sequence, and the virtual page that it was translated from. -/
structure Entry where
  slot : Nat
  seq : Nat
  page : Nat
  act : EntryAct
  /-- a RED that is held in the spill ring, from which it was drained while the buffer was full -/
  ring : Bool
  deriving DecidableEq, Repr

/-- The states of a group (R340). A Saved group keeps the state before the save. -/
inductive GroupSt where
  | placed
  | running
  | ended
  | current
  | retired
  | discarded
  | saved (was : GroupSt)
  deriving DecidableEq, Repr

/-- A word and its old value in an undo log (R344). -/
structure Undo where
  word : Nat
  old : BitVec 32
  deriving DecidableEq, Repr

/-- What the C9 keeps of a saved group beside its area in the save pool (R438 to R442), by 128 * octet of the group + 16 * core +
slot, and by 8 * octet of the group + core: its slots as saved, the transfer states and joined tiles, and the lengths of the
entries of the sparsity queues of each octet. -/
structure Kept where
  slots : Tbl Slot
  cores : Tbl (Transfer × TileSt)
  lens : List (List (List Nat))
  deriving DecidableEq, Repr

/-- A group (R335 to R352): its kernel and index, ticket, frontier instance, state, leader octet and whether it is a quad;
the slots in slot order; the tasks not yet started by a throughput group and those not yet ended; its commit entries in
sequence with the number of the next; the held REDs; the undo log; the drain's stop for a fault; the spill ring. -/
structure Group where
  kernel : Nat
  index : Nat
  ticket : Nat
  inst : Nat
  st : GroupSt
  octet : Nat
  quad : Bool
  cores : Nat
  slots : List Nat
  toStart : List Nat
  live : Nat
  entries : List Entry
  next : Nat
  held : List Entry
  undo : List Undo
  stopped : Bool
  /-- the message of the oldest entry has been sent, and the entry waits for its answer -/
  sent : Bool
  /-- the spill ring: its address, its size in bytes, how many of the last entries stand in it, records ever written -/
  ring : Nat
  ringSize : Nat
  inRing : Nat
  written : Nat
  /-- slot-cycles charged (R412) -/
  cycles : Nat
  /-- records of its tasks that are suspended -/
  susp : List Word
  /-- the leader octet at which it was first placed, which names its barriers and its places in trees (R376, R384) -/
  home : Nat
  /-- the last phase that each slot has completed a BARW past, by slot and barrier (R381) -/
  passed : Tbl Nat
  /-- while it is Saved and its octets are released -/
  kept : Option Kept
  /-- the cycle in which it was dispatched or last restored (R388) -/
  since : Nat
  deriving DecidableEq, Repr

/-- A frontier instance (R337): the queue (or the first of the tied queues), scope and place, the launch's identifier, the
frontier, the last end ticket, and the cycle since which it is in ticket deadlock without a break (R348). -/
structure Frontier where
  queue : Nat
  scope : Nat
  place : Nat
  fid : Nat
  f : Nat
  lastEnd : Nat
  stuck : Option Nat
  deriving DecidableEq, Repr

end Sys2Proof.Machine
end

