-- ==== Sys2Proof/Machine/Package.lean ====
section
/-! DEFINITION. The state of barriers, trees, task lists, queues, contexts, kernels, links and the management block, and the
cores, octets, clusters and dies that hold it (R9 to R12). -/

namespace Sys2Proof.Machine

/-! ### Barriers and trees (19_barrier) -/

/-- A hardware barrier: EXP, ARR and P (R377). -/
structure Barrier where
  exp : Nat
  arr : Nat
  p : Nat
  deriving DecidableEq, Repr

/-- The kernel-wide barrier of one span instance: the count of the current phase (0 before its first arrival), arrivals and
phases completed, and the slots whose GBAR has arrived and not yet passed, with the phase of their arrival (R383). -/
structure GBar where
  count : Nat
  arr : Nat
  phase : Nat
  waiters : Tbl Nat
  deriving DecidableEq, Repr

/-- A block that a member has sent to a tree: its position, by core * 16 + slot, and block number (R384, R386). -/
structure TreeLeaf where
  pos : Nat
  block : Nat
  item : VReg
  deriving DecidableEq, Repr

/-- A tree in flight: context, kernel, and the span and place of its instance; the first three doublewords of its
descriptor; the octets whose node state it uses; leaves, blocks written, flags raised and the members that have completed
(R384 to R387). -/
structure Tree where
  ctx : Nat
  kernel : Nat
  place : Nat × Nat
  desc : Vector Word 3
  octets : List Nat
  leaves : List TreeLeaf
  written : List Nat
  flags : BitVec 6
  completed : List Nat
  deriving DecidableEq, Repr

/-! ### Task lists and queues (23_queue) -/

/-- An entry of a run list: its level, record, context, and the value of `cyc` when its wait began (R416). -/
structure RunEntry where
  level : Nat
  record : Word
  ctx : Nat
  since : Nat
  deriving DecidableEq, Repr

/-- An entry of a deque, oldest first (R416, R418), with the value of `cyc` when it was pushed. -/
structure DequeEntry where
  record : Word
  ctx : Nat
  since : Nat
  deriving DecidableEq, Repr

/-- An entry on its way to the overflow ring of its context (R418): the record, its kind (0 deque, 1 run list), level and age. -/
structure Spill where
  record : Word
  ctx : Nat
  kind : Nat
  level : Nat
  since : Nat
  deriving DecidableEq, Repr

/-- A bind record (R413), with the number of its group and the index of the next task to load (R414). -/
structure Bind where
  entry : Word
  ticket : Nat
  cmask : Nat
  stage : Nat
  var : Nat
  quad : Bool
  smask : Nat
  wtab : Word
  ctx : Nat
  octet : Nat
  index : Nat
  group : Nat
  deriving DecidableEq, Repr

/-- The states of a queue (R410). -/
inductive QueueSt where
  | disabled | empty | ready | held | faulted
  deriving DecidableEq, Repr

/-- What a launch needs of its record, image and window table. -/
structure Launch where
  /-- the record's eight doublewords -/
  r : List Word
  /-- the header's -/
  h : List Word
  /-- SIG, TOFF and the sixteen entries of each variant -/
  vars : List (Nat × Nat × List Nat)
  /-- the window table -/
  wt : List Word
  deriving DecidableEq, Repr

/-- A launch taken by the firmware and not yet placed: the sequence number, the record, and, once it has passed its checks, the launch (R402
Checking and Waiting). -/
structure Taken where
  seq : Nat
  record : List (BitVec 8)
  checked : Option Launch
  deriving DecidableEq, Repr

/-- What the firmware holds of a queue: its state and the launch that waits at its head. -/
structure Queue where
  st : QueueSt
  waiting : Option Taken
  deriving DecidableEq, Repr

/-! ### Contexts (24_context) -/

/-- The last save or restore of a context (R438 to R444): its direction; whether a CTXSAVE or CTXLOAD drives it, or the context
is to be restored as soon as it is Saved (R464); the management core's count at the request; the groups in the order of saving
with the pool offset of each area; the offset of the next area; the groups restored; the units of 64 bytes moved; whether the
directory is done; and the cause for which it failed. -/
structure SaveSt where
  restore : Bool
  bySlot : Bool
  auto : Bool
  since : Nat
  groups : List (Nat × Nat)
  offset : Nat
  next : Nat
  units : Nat
  finished : Bool
  failed : Option Nat
  deriving DecidableEq, Repr

/-- An entry of an overflow ring (R418): its place in the ring, the core it belongs to, its kind, level and age. -/
structure RingEntry where
  place : Nat
  core : Nat
  kind : Nat
  level : Nat
  since : Nat
  deriving DecidableEq, Repr

/-- A context that is saved into a hypervisor pool (R443): its state before, with its own save or restore in progress, its `prq`, and what its
own context block holds; and the bytes of the pool, which no guest reaches. -/
structure Hyper where
  st : Nat
  save : Option SaveSt
  prq : Bool
  loose : Tbl Slot
  records : List (Nat × Nat × List (BitVec 8))
  pool : Mem
  deriving DecidableEq, Repr

/-- A context (R428 to R433): descriptor address, state code, tenant, HV, clusters by bit, `prq`, `pdl`, its queues, its
save or restore, the pages being flushed, and the fault that waits to be written while the completion record waits. -/
structure Ctx where
  desc : Nat
  st : Nat
  tenant : Nat
  hv : Bool
  clusters : Nat
  prq : Bool
  pdl : Nat
  queues : Vector Queue 16
  save : Option SaveSt
  /-- the descriptor's sixteen doublewords as read at the last bind or restore -/
  words : List Word
  /-- the entries of its overflow ring, oldest first, and the place of the next (R418) -/
  ring : List RingEntry
  ringNext : Nat
  /-- slots of the context that belong to no group, held in the context block while it is Saved (R441) -/
  loose : Tbl Slot
  /-- its indirection records while it is Saved: partition core index, record and bytes (R368) -/
  records : List (Nat × Nat × List (BitVec 8))
  /-- the completion records of which no part is written, since the fault of a page of theirs failed (R411) -/
  lost : List Nat
  /-- while a hypervisor pool holds it (R443) -/
  hyper : Option Hyper
  deriving DecidableEq, Repr

/-- A flush in progress (R249): context, the range of virtual addresses, and whether the host's register started it. -/
structure Flush where
  id : Nat
  ctx : Nat
  lo : Nat
  hi : Nat
  host : Bool
  deriving DecidableEq, Repr

/-! ### Translation (12_page) -/

/-- A TLB entry (R244): context, first virtual address, log2 of the size, physical base and rights. -/
structure TlbEntry where
  ctx : Nat
  base : Nat
  bits : Nat
  pa : Nat
  u : Bool
  x : Bool
  w : Bool
  r : Bool
  deriving DecidableEq, Repr

/-- An entry of a miss table (R244 to R247): context and 8 KiB page, the first access's address, source and kind, how many
accesses are parked, and the ring record that was posted. -/
structure Miss where
  ctx : Nat
  page : Nat
  va : Nat
  src : Nat
  kind : Nat
  count : Nat
  posted : Option Nat
  /-- the accesses of the C9 itself and of context-save engines that wait for the page: whether each is a store, the address that its failure
  reports, and its source -/
  own : List (Bool × Nat × Nat)
  /-- the management core's count when the fault arose, or its record was passed without an answer (R247) -/
  since : Nat
  deriving DecidableEq, Repr

/-! ### Kernels (21_kernel) -/

/-- The states of a kernel from its placing on (R402). -/
inductive KSt where
  | placing | running | complete | aborted
  | saved (was : KSt)
  deriving DecidableEq, Repr

/-- A kernel (R391 to R402): context, queue and sequence number; image and variant; attributes; rectangle; groups and
how many are placed and retired; first ticket, scope and frontier identifier; completion record; the windows; the
slot-cycles charged and the TDEC messages discarded. -/
structure Kernel where
  ctx : Nat
  queue : Nat
  seq : Nat
  st : KSt
  image : Nat
  var : Nat
  base : Nat
  entries : List Nat
  stages : Nat
  det : Bool
  np : Bool
  sv : Bool
  scr : Nat
  prio : Nat
  ox : Nat
  oy : Nat
  w : Nat
  h : Nat
  /-- the origin at which it was first placed, which names its places in trees (R384, R385) -/
  firstX : Nat
  firstY : Nat
  tasks : Nat
  ngrp : Nat
  placed : Nat
  retired : Nat
  t0 : Nat
  scope : Nat
  fid : Nat
  /-- the queue, or the tied queues, that name its frontier instances (R337) -/
  fq : Nat
  compl : Word
  wtab : Word
  wb : Vector Word 8
  wl : Vector Word 8
  charge : Nat
  disc : Nat
  sig : Nat
  deriving DecidableEq, Repr

/-! ### Cores, octets, clusters and dies (R9 to R13) -/

/-- A core: `cyc`; the sent and consumed counts of virtual channels 2, 4 and 5 (R455); `spsz`; the local array by window
offset; L1; directory posts; transfer state; tile; run list, deque, entries for the overflow ring and the holding
register; the slot that issued last and those of the last three cycles (R96); whether the core is stopped (R453). -/
structure Core where
  cyc : Word
  sent : Vector Nat 3
  recv : Vector Nat 3
  spsz : Nat
  arr : Mem
  l1 : L1
  posts : List DirPost
  /-- records ever posted to the directory-handler ring, and the overflow table entries that the handler has told of, by line (R211) -/
  dirNext : Nat
  dirEntries : Tbl (List Nat)
  /-- the length that the block predictor gives the next block (R191) -/
  predict : Nat
  /-- the contexts whose indirection records are in use, by record (R368) -/
  indirect : Tbl Nat
  transfer : Transfer
  tile : TileCore
  runList : List RunEntry
  deque : List DequeEntry
  holding : Option Spill
  /-- the slot that issued last under compressed rotation, and those that issued in recent cycles, each with its cycle (R96) -/
  last : Nat
  recent : List (Word × Nat)
  /-- the context and kernel to which it was last bound -/
  lastCtx : Nat
  lastKernel : Nat
  stopped : Bool
  /-- a stop with its reason, source and number that waits for the replays of the core's slots to end (R158) -/
  halting : Option (Nat × Nat × Nat)
  deriving DecidableEq, Repr

/-- An octet: matrix unit, TLB, and its copies of the frontiers by instance (R338). -/
structure Octet where
  unit : TileUnit
  tlb : List TlbEntry
  f : Tbl Nat
  deriving DecidableEq, Repr

/-- A cluster: its slot table of bind records, miss table, and whether its clock is stretched (R413, R244, R486). -/
structure Cluster where
  binds : List Bind
  misses : List Miss
  stretched : Bool
  deriving DecidableEq, Repr

/-- An entry of an error log (R463); for a saturation, with the format window's register block, which the driver does not read. -/
structure LogEntry where
  kind : Nat
  addr : Nat
  unit : Nat
  count : Nat
  cyc : Nat
  win : Nat
  deriving DecidableEq, Repr

/-- A watch entry of an L2 slice (R426): its identifier, first word, mask, value and number of words, the record with its
context, and the slot that registered it. -/
structure WatchEntry where
  id : Nat
  word : Nat
  nw : Nat
  mask : BitVec 32
  value : BitVec 32
  record : Word
  ctx : Nat
  slot : Nat
  deriving DecidableEq, Repr

/-- A die: its error log, oldest first, with the count of entries ever made, and bad lines pinned in its slices. -/
structure Die where
  log : List LogEntry
  made : Nat
  deriving DecidableEq, Repr

/-! ### Links, Owl and power (27_trap, 28_link) -/

/-- A payload of a scale-out port (R481). -/
structure Payload where
  stream : Nat
  tag : Nat
  seq : Nat
  kind : Nat
  body : List (BitVec 8)
  deriving DecidableEq, Repr

/-- A payload as a port sends it: with the JobID that its packets carry, the port's own address, and the peer-table entry with the address to
which it goes (R483 to R485). -/
structure Sent where
  port : Nat
  job : Nat
  own : Word × Word
  peer : Nat
  addr : Word × Word
  payload : Payload
  deriving DecidableEq, Repr

/-- What a scale-out port holds beside its registers: link trained, payloads discarded, the re-sequencing queue and the
next sequence number of each stream received and sent (R482, R483). -/
structure PortLink where
  up : Bool
  drops : Nat
  queue : List Payload
  next : Tbl Nat
  send : Tbl Nat
  deriving DecidableEq, Repr

/-- Owl (R459, R478): its registers, state (0 Locked, 1 Session, 2 Unlocked), tenant, failures, and unlock log. -/
structure Owl where
  cmd : Word
  addr : Word
  len : Word
  st : Nat
  tenant : Nat
  fails : Nat
  data : Mem
  unlocks : List Nat
  deriving DecidableEq, Repr

/-- Power and boot (R476, R486, R487): 0 before the start-up, 1 recovery only, 2 running, 3 power removed; throttled; and the recovery mailbox
at BAR0 offset 0. -/
structure Power where
  boot : Nat
  throttled : Bool
  mailbox : Word
  deriving DecidableEq, Repr

end Sys2Proof.Machine
end

