-- ==== Sys2Proof/Machine/State.lean ====
section
/-! DEFINITION. The state of the whole package as plain data, its state right after reset, and the reasons for which a step
stops. Tables are sparse: an entry that is not listed has its reset value. -/

namespace Sys2Proof.Machine

/-- Why the model stops. -/
inductive Fault where
  /-- An access to a physical address at which there is no memory and no register (R190, R469); raised by every access to
  memory. Safe: the spec gives such an access no effect. -/
  | noMemory
  deriving DecidableEq, Repr

/-- What the model has no meaning for. -/
inductive Refusal where
  /-- An instruction that has no meaning yet, by its mnemonic. Safe. -/
  | notModelled (mnemonic : String)
  /-- An encoded instruction stood in a list of events, which holds events only; raised by the step. Safe: no hardware
  does this. -/
  | notAnEvent
  deriving DecidableEq, Repr

/-- The machine. The fields from `cur` on are the model's own. -/
structure State where
  /-- slots by 16 * core + slot -/
  slots : Tbl Slot
  cores : Tbl Core
  octets : Tbl Octet
  clusters : Tbl Cluster
  dies : Tbl Die
  /-- memory by physical address, with the words at their homes (R189, R190) -/
  mem : Mem
  /-- words that are not Free at their home, by word number (R196) -/
  home : Tbl HomeSt
  /-- lines in the remote-data caches, by 4 * line + die (R197) -/
  rdc : Tbl VReg
  /-- working lines of format windows in the L2 (R89) -/
  work : Tbl VReg
  /-- lines pinned bad (R462) -/
  pinned : List Nat
  /-- words that drains of deterministic kernels have changed, with the frontier instance and kernel (R352) -/
  changed : Tbl (Nat × Nat)
  /-- cycles since package reset, as the management core counts them (R6, R463) -/
  mcyc : Nat
  /-- watch entries (R426) -/
  watches : List WatchEntry
  ctxs : Tbl Ctx
  /-- deficits of the tenants (R412), and the tenant that had the last turn -/
  deficits : Tbl Int
  tenant : Nat
  /-- the queue of each tenant that was served last, by 16 * context + queue -/
  lastQ : Tbl Nat
  kernels : Tbl Kernel
  groups : Tbl Group
  frontiers : Tbl Frontier
  /-- connectors by 1024 * context + number -/
  conns : Tbl Connector
  /-- hardware barriers by context, span, place and index (R376) -/
  bars : Tbl Barrier
  /-- kernel-wide barriers by kernel, span and place (R383) -/
  gbars : Tbl GBar
  trees : List Tree
  flushes : List Flush
  /-- registers of the management block by offset (R470) -/
  mgmt : Tbl Word
  ports : Tbl PortLink
  owl : Owl
  power : Power
  /-- retirement words by package octet (R465) -/
  defect : Tbl (BitVec 32)
  /-- units under quarantine, by kind and number (R464) -/
  quarantine : List Nat
  /-- stops of each partition since package reset, by its clusters (R456) -/
  stops : Tbl Nat
  /-- increments of SPAWN that a home has acknowledged and whose SPAWN has not completed: 256 * the first place of the slot + its
  context, and the record (R423) -/
  spawns : List (Nat × Word)
  /-- by the physical address of a bound descriptor, the core in whose windows FIN's address lies if it lies in one (R370) -/
  binders : Tbl Nat
  /-- payloads sent through the scale-out ports, with their port -/
  sentOut : List Sent
  /-- the slot whose instruction is issuing, and its switch marker -/
  cur : Nat
  mark : Bool
  /-- the data of the event being performed -/
  arg : Arg
  /-- messages and work on their way, oldest first, each with the cycle from which it is performed -/
  inflight : List (Nat × Msg)
  /-- what the outside world does next -/
  inputs : List Msg
  /-- the counter of free values -/
  free : Nat
  /-- whether the next step is a message's, not the current core's -/
  turn : Bool
  deriving DecidableEq, Repr

/-- A vector register of zeros. -/
def vzero : VReg := Vector.replicate 16 0#32

/-- A hardware loop after reset (R147). -/
def Loop.reset : Loop := ⟨0, 0, 0⟩

/-- The copy registers after reset (DESIGN CHOICE, log 1). -/
def CopyRegs.reset : CopyRegs := ⟨0, 0, 0, 0, 0, 0⟩

/-- The special registers after reset (R78, R102 to R107; DESIGN CHOICE, log 1). -/
def Sys.reset : Sys :=
  { prg := 0, st := 0, mode := 0, cause := 0, epc := 0, tval := 0, tvec := 0, escr := 0,
    loop0 := Loop.reset, loop1 := Loop.reset, cp := CopyRegs.reset, tmr := 0, tmrc := 0, pto := 0,
    rnk := 0, rnc := 0, coord := 0, trec := 0, wb := Vector.replicate 8 0, wl := Vector.replicate 8 0 }

/-- A port after reset: Unbound and empty (R276). -/
def Port.reset : Port := ⟨0, false, .unbound, 0, 0, false⟩

/-- A slot bound to nothing. -/
def Binding.reset : Binding := ⟨0, 0, 0, 0, false, none⟩

def Traffic.reset : Traffic := ⟨[], [], 0, 0, 0, 0⟩

/-- A slot after reset: Free (R94). -/
def Slot.reset : Slot :=
  { run := .free, g := Vector.replicate 32 0, v := Vector.replicate 16 vzero, p := Vector.replicate 8 0,
    x := Vector.replicate 8 0, ports := Vector.replicate 8 Port.reset, pc := 0, sys := Sys.reset, tmrPend := false,
    pend := [], replay := none, traffic := Traffic.reset, bind := Binding.reset, phase := 0, keep := [], entered := 0, steal := 0,
    armed := false, fresh := false }

/-- A closed channel. -/
def Channel.reset : Channel := ⟨false, 0, 0, none, 0⟩

def Transfer.reset : Transfer :=
  { tags := [], copies := [], q0 := [], q1 := [], chans := Vector.replicate 4 Channel.reset, mb := Vector.replicate 8 0,
    delivered := [], multicasts := [], params := [] }

def TileCore.reset : TileCore := ⟨[], .own, [], 1⟩

/-- A core after reset. -/
def Core.reset : Core :=
  { cyc := 0, sent := Vector.replicate 3 0, recv := Vector.replicate 3 0, spsz := 0, arr := [], l1 := ⟨[], []⟩,
    posts := [], dirNext := 0, dirEntries := [], predict := 8, indirect := [], transfer := Transfer.reset, tile := TileCore.reset, runList := [], deque := [], holding := none,
    last := 15, recent := [], lastCtx := 256, lastKernel := 0, stopped := false, halting := none }

def SparseQ.reset : SparseQ := ⟨[], 0⟩

def TileUnit.reset : TileUnit := ⟨[], Vector.replicate 4 SparseQ.reset, 0, 0, 0⟩

/-- An octet after reset. -/
def Octet.reset : Octet := ⟨TileUnit.reset, [], []⟩

/-- A cluster after reset. -/
def Cluster.reset : Cluster := ⟨[], [], false⟩

/-- A die after reset. -/
def Die.reset : Die := ⟨[], 0⟩

/-- A scale-out port after reset (R483). -/
def PortLink.reset : PortLink := ⟨false, 0, [], [], []⟩

/-- Owl after reset: Locked (R459, R478). -/
def Owl.reset : Owl := ⟨0, 0, 0, 0, 0, 0, [], []⟩

/-- No data. -/
def Arg.reset : Arg := ⟨0, 0, 0, 0, 0, 0, [], vzero, [], 0, 0, 0⟩

/-- The machine right after reset (R5): every register at the value the spec states, or at a value of the model (DESIGN CHOICE, log 1). -/
def State.reset : State :=
  { slots := [], cores := [], octets := [], clusters := [], dies := [], mem := [], home := [], rdc := [], work := [],
    pinned := [], changed := [], mcyc := 0, watches := [], ctxs := [], deficits := [], tenant := 63, lastQ := [], kernels := [], groups := [], frontiers := [],
    conns := [], bars := [], gbars := [], trees := [], flushes := [], mgmt := [], ports := [],
    owl := Owl.reset, power := ⟨0, false, 0⟩, defect := [], quarantine := [], stops := [], spawns := [], binders := [], sentOut := [], cur := 0,
    mark := false, arg := Arg.reset, inflight := [], inputs := [], free := 0, turn := false }

end Sys2Proof.Machine
end

