-- ==== Sys2Proof/Machine/Base.lean ====
section
/-! DEFINITION. Tables, memory and registers: reading and writing every part of the state by its own name. -/

namespace Sys2Proof.Machine

/-! ### Tables -/

/-- The entry of a key. -/
def tfind {α : Type} (t : Tbl α) (k : Nat) : Option α := (t.find? fun e => e.1 == k).map (·.2)

/-- The entry of a key, or its reset value. -/
def tget {α : Type} (t : Tbl α) (k : Nat) (d : α) : α := (tfind t k).getD d

/-- A key without an entry. -/
def terase {α : Type} (t : Tbl α) (k : Nat) : Tbl α := t.filter fun e => e.1 != k

/-- An entry put in front of the first greater key. -/
def tinsert {α : Type} : Tbl α → Nat → α → Tbl α
  | [], k, a => [(k, a)]
  | e :: t, k, a => if k < e.1 then (k, a) :: e :: t else e :: tinsert t k a

/-- A key with a new entry. -/
def tset {α : Type} (t : Tbl α) (k : Nat) (a : α) : Tbl α := tinsert (terase t k) k a

/-- The first free key at or above k. -/
def freeKey {α : Type} (t : Tbl α) : Nat := (t.map (·.1)).foldl (fun m k => Nat.max m (k + 1)) 0

/-! ### Memory -/

/-- One byte of memory: a byte that is not listed reads as zero (DESIGN CHOICE, log 2). -/
def memByte (m : Mem) (a : Nat) : BitVec 8 := tget m a 0#8

/-- One byte of memory written; a zero is not listed. -/
def memSet (m : Mem) (a : Nat) (b : BitVec 8) : Mem := if b = 0#8 then terase m a else tset m a b

/-- n bytes from a. -/
def memBytes (m : Mem) (a : Nat) : Nat → List (BitVec 8)
  | 0 => []
  | n + 1 => memByte m a :: memBytes m (a + 1) n

/-- Bytes written from a. -/
def memPut (m : Mem) (a : Nat) : List (BitVec 8) → Mem
  | [] => m
  | b :: bs => memPut (memSet m a b) (a + 1) bs

/-- The bytes of the range [a, a + n), moved to start at 0. -/
def memCut (m : Mem) (a n : Nat) : Mem := (m.filter fun e => a ≤ e.1 && e.1 < a + n).map fun e => (e.1 - a, e.2)

/-- The range [a, a + n) replaced by the bytes of src, which starts at 0. -/
def memBlit (m : Mem) (a n : Nat) (src : Mem) : Mem :=
  m.filter (fun e => e.1 < a) ++ (src.filter fun e => e.1 < n).map (fun e => (a + e.1, e.2)) ++
    m.filter fun e => a + n ≤ e.1

/-- Keys rising strictly. -/
def rising : List Nat → Bool
  | [] => true
  | a :: t =>
    match t with
    | [] => true
    | b :: _ => decide (a < b) && rising t

/-- The canonical form of memory: addresses strictly rising, no entry that reads as an unlisted byte. -/
def Memory.wf (m : Mem) : Bool := rising (m.map (·.1)) && m.all fun e => e.2 != 0#8

/-! ### Numbers of cores and octets (R8, R9) -/

def octetOf (core : Nat) : Nat := core / 8
def coreOf (slot : Nat) : Nat := slot / 16
def slotNo (slot : Nat) : Nat := slot % 16
def dieOfOctet (o : Nat) : Nat := o / 128
def dieOf (core : Nat) : Nat := core / 1024

/-- The package-wide column of an octet. -/
def octetX (o : Nat) : Nat := 16 * (dieOfOctet o % 2) + o % 16
/-- The package-wide row of an octet. -/
def octetY (o : Nat) : Nat := 8 * (dieOfOctet o / 2) + o % 128 / 16
/-- The octet at a column and a row. -/
def octetAt (x y : Nat) : Nat := 128 * (x / 16 + 2 * (y / 8)) + 16 * (y % 8) + x % 16
/-- The package cluster number of an octet. -/
def clusterOf (o : Nat) : Nat := 8 * dieOfOctet o + 4 * (o % 128 / 16 / 4) + o % 16 / 4
/-- The 16 octets of a cluster in increasing number. -/
def clusterOctets (c : Nat) : List Nat :=
  (upTo 16).map fun i => octetAt (16 * (c / 8 % 2) + 4 * (c % 4) + i % 4) (8 * (c / 8 / 2) + 4 * (c % 8 / 4) + i / 4)
/-- The lowest octet of the quad of an octet. -/
def quadLeader (o : Nat) : Nat := octetAt (octetX o / 2 * 2) (octetY o / 2 * 2)
/-- The four octets of a quad, leader first, then in the order of package octet number within rows. -/
def quadOctets (o : Nat) : List Nat :=
  let x := octetX o / 2 * 2; let y := octetY o / 2 * 2
  [octetAt x y, octetAt (x + 1) y, octetAt x (y + 1), octetAt (x + 1) (y + 1)]
/-- The octet distance of two octets, with 8 for each die edge that the route crosses (R284). -/
def hops (o p : Nat) : Nat :=
  let d := fun (a b : Nat) => Nat.max a b - Nat.min a b
  d (octetX o) (octetX p) + d (octetY o) (octetY p) +
    8 * (d (dieOfOctet o % 2) (dieOfOctet p % 2) + d (dieOfOctet o / 2) (dieOfOctet p / 2))
/-- The frames that a port's message or a BUF item is on its way (R284, R488). -/
def framesBetween (o p : Nat) : Nat := (hops o p + 7) / 8 + 1
/-- The eight cores of an octet. -/
def octetCores (o : Nat) : List Nat := (upTo 8).map (8 * o + ·)

/-! ### Parts of the state -/

def State.slot (s : State) (k : Nat) : Slot := tget s.slots k Slot.reset
def State.setSlot (s : State) (k : Nat) (x : Slot) : State := { s with slots := tset s.slots k x }
def State.onSlot (s : State) (k : Nat) (f : Slot → Slot) : State := s.setSlot k (f (s.slot k))
/-- A core: one that is not listed has counted every cycle of the package (R104). -/
def State.core (s : State) (c : Nat) : Core := tget s.cores c { Core.reset with cyc := BitVec.ofNat 64 s.mcyc }
def State.setCore (s : State) (c : Nat) (x : Core) : State := { s with cores := tset s.cores c x }
def State.onCore (s : State) (c : Nat) (f : Core → Core) : State := s.setCore c (f (s.core c))
def State.octet (s : State) (o : Nat) : Octet := tget s.octets o Octet.reset
def State.onOctet (s : State) (o : Nat) (f : Octet → Octet) : State := { s with octets := tset s.octets o (f (s.octet o)) }
def State.cluster (s : State) (c : Nat) : Cluster := tget s.clusters c Cluster.reset
def State.onCluster (s : State) (c : Nat) (f : Cluster → Cluster) : State :=
  { s with clusters := tset s.clusters c (f (s.cluster c)) }
def State.die (s : State) (d : Nat) : Die := tget s.dies d Die.reset
def State.onDie (s : State) (d : Nat) (f : Die → Die) : State := { s with dies := tset s.dies d (f (s.die d)) }
def State.onGroup (s : State) (k : Nat) (f : Group → Group) : State :=
  match tfind s.groups k with
  | some g => { s with groups := tset s.groups k (f g) }
  | none => s
def State.onKernel (s : State) (k : Nat) (f : Kernel → Kernel) : State :=
  match tfind s.kernels k with
  | some g => { s with kernels := tset s.kernels k (f g) }
  | none => s
def State.onCtx (s : State) (k : Nat) (f : Ctx → Ctx) : State :=
  match tfind s.ctxs k with
  | some g => { s with ctxs := tset s.ctxs k (f g) }
  | none => s
def State.onConn (s : State) (k : Nat) (f : Connector → Connector) : State :=
  match tfind s.conns k with
  | some g => { s with conns := tset s.conns k (f g) }
  | none => s
/-- A scale-out port. -/
def State.port (s : State) (p : Nat) : PortLink := tget s.ports p PortLink.reset
def State.onPort (s : State) (p : Nat) (f : PortLink → PortLink) : State := { s with ports := tset s.ports p (f (s.port p)) }

/-- A register of the management block (R470): tweight resets to 1, every other one to 0. -/
def State.mreg (s : State) (off : Nat) : Word :=
  tget s.mgmt off (if 0x30000 ≤ off && off < 0x30200 then 1#64 else 0#64)
def State.setMreg (s : State) (off : Nat) (w : Word) : State := { s with mgmt := tset s.mgmt off w }

/-- The slot whose instruction is issuing. -/
def State.me (s : State) : Slot := s.slot s.cur
def State.setMe (s : State) (x : Slot) : State := s.setSlot s.cur x
def State.onMe (s : State) (f : Slot → Slot) : State := s.onSlot s.cur f
/-- The core and octet of that slot. -/
def State.myCore (s : State) : Nat := coreOf s.cur
def State.myOctet (s : State) : Nat := octetOf (coreOf s.cur)
/-- The context of that slot. -/
def State.myCtx (s : State) : Nat := s.me.bind.ctx

/-- An event put at the end of what is on its way, to be performed from cycle `due` on. -/
def State.postAt (s : State) (due : Nat) (m : Msg) : State := { s with inflight := s.inflight ++ [(due, m)] }

/-- An event sent now. It takes one cycle more than a slot waits for its next turn under fixed rotation (DEDUCED, log 18). -/
def State.post (s : State) (m : Msg) : State := s.postAt (s.mcyc + 17) m

/-- Work of a unit that goes on in the next cycle. -/
def State.soon (s : State) (m : Msg) : State := s.postAt (s.mcyc + 1) m

/-- Messages that are performed at once, before anything else. -/
def State.atOnce (s : State) (ms : List Msg) : State := { s with inputs := ms ++ s.inputs }

/-- The frame of the network in which the present cycle lies (R6). -/
def netFrame (s : State) : Nat := s.mcyc / 32

/-- The next free value, and the counter moved on (DESIGN CHOICE, log 6). -/
def State.freshFree (s : State) : Nat × State := (s.free, { s with free := s.free + 1 })

/-- An event about k with two numbers. -/
def evt (e : Instr) (k a b : Nat) : Msg := ⟨e, { Arg.reset with k := k, a := a, b := b }⟩

/-! ### Registers of a slot -/

/-- Element n of a register file, d where there is none. -/
def vget {α : Type} {n : Nat} (v : Vector α n) (i : Nat) (d : α) : α := (v[i]?).getD d
/-- Element n of a register file replaced. -/
def vset {α : Type} {n : Nat} (v : Vector α n) (i : Nat) (x : α) : Vector α n := v.setIfInBounds i x

/-- A register out of what every outstanding result still owes (R119). -/
def dropReg (r : RegId) (p : Pending) : Pending := { p with regs := p.regs.filter (· != r) }

/-- A register has been written by an instruction: no earlier result will write it (R119) (DEDUCED, log 22). -/
def Slot.claimReg (sl : Slot) (r : RegId) : Slot :=
  { sl with pend := sl.pend.map (dropReg r), replay := sl.replay.map fun q => { q with owed := q.owed.filter (· != r) } }

/-- A general register: g0 reads zero (R26). -/
def Slot.rg (sl : Slot) (n : Nat) : Word := if n = 0 then 0#64 else vget sl.g n 0#64
/-- A vector register. -/
def Slot.rv (sl : Slot) (n : Nat) : VReg := vget sl.v n vzero
/-- A predicate register: p0 reads all ones (R26). -/
def Slot.rp (sl : Slot) (n : Nat) : BitVec 16 := if n = 0 then 0xffff#16 else vget sl.p n 0#16
/-- An extension register. -/
def Slot.rx (sl : Slot) (n : Nat) : Word := vget sl.x (n % 8) 0#64

/-- A register value put in place; a write of g0 or p0 is discarded (R50). -/
def Slot.put (sl : Slot) (r : RegVal) : Slot :=
  match r with
  | .g n x => if n = 0 then sl else { sl with g := vset sl.g n x }
  | .v n x => { sl with v := vset sl.v n x }
  | .p n x => if n = 0 then sl else { sl with p := vset sl.p n x }

def RegVal.id : RegVal → RegId
  | .g n _ => ⟨0, n⟩
  | .v n _ => ⟨1, n⟩
  | .p n _ => ⟨2, n⟩

/-- A short-latency result of an instruction (R97, R119). -/
def Slot.wr (sl : Slot) (r : RegVal) : Slot := (sl.claimReg r.id).put r
def Slot.wg (sl : Slot) (n : Nat) (x : Word) : Slot := sl.wr (.g n x)
def Slot.wv (sl : Slot) (n : Nat) (x : VReg) : Slot := sl.wr (.v n x)
def Slot.wp (sl : Slot) (n : Nat) (x : BitVec 16) : Slot := sl.wr (.p n x)

/-- The registers that outstanding results owe; g0 and p0 never among them (R45, R157). -/
def Slot.owed (sl : Slot) : List RegId :=
  ((sl.pend.flatMap (·.regs)) ++ (match sl.replay with
    | some r => r.owed
    | none => [])).filter fun r => !(r.num == 0 && (r.file == 0 || r.file == 2))

/-- Whether a replay is running (R157). -/
def Slot.replaying (sl : Slot) : Bool :=
  match sl.replay with
  | some r => !r.ended
  | none => false

/-- Whether every long-latency result has returned. -/
def Slot.quiet (sl : Slot) : Bool := sl.pend.isEmpty && !sl.replaying

/-- The fields of `st` (R78, R104). -/
def Slot.det (sl : Slot) : Bool := sl.sys.st.getLsbD 11
def Slot.sv (sl : Slot) : Bool := sl.sys.st.getLsbD 10
def Slot.th (sl : Slot) : Bool := sl.sys.st.getLsbD 9
def Slot.onSys (sl : Slot) (f : Sys → Sys) : Slot := { sl with sys := f sl.sys }
def Slot.setSt (sl : Slot) (j : Nat) (b : Bool) : Slot := sl.onSys fun y => { y with st := setBit y.st j b }
/-- Sticky flags 5:0 set (R78). -/
def Slot.raise (sl : Slot) (f : BitVec 6) : Slot := sl.onSys fun y => { y with st := y.st ||| f.setWidth 64 }
def stEV : Nat := 6
def stWF : Nat := 7
def stTH : Nat := 9
def stSV : Nat := 10
def stDET : Nat := 11

/-- The number that stands for slot r of the saved group gk, counted as `Kept` counts it. -/
def savedSlot (gk r : Nat) : Nat := 65536 * gk + r

/-- The event flag of a slot set, or of a slot of a saved group (R115) (DESIGN CHOICE, log 38). -/
def setEvent (k : Nat) (s : State) : State :=
  if k < 65536 then s.onSlot k (·.setSt stEV true)
  else s.onGroup (k / 65536) fun g => { g with kept := g.kept.map fun x =>
    { x with slots := x.slots.map fun e => if e.1 = k % 65536 then (e.1, e.2.setSt stEV true) else e } }

/-! ### Outstanding results -/

/-- Whether an outstanding result is an access that is not yet performed. -/
def Pending.unread (p : Pending) : Bool :=
  match p.kind with
  | .load _ | .atomic _ => true
  | _ => false

/-- Whether an outstanding result is an access whose data have not returned to its registers. -/
def isAccess (p : Pending) : Bool :=
  match p.kind with
  | .load _ | .loaded _ | .atomic _ => true
  | _ => false

/-- Whether every access that the slot has issued is performed: no release of it need wait (R200, R205). -/
def Slot.performed (sl : Slot) : Bool := sl.traffic.out.isEmpty && !sl.pend.any Pending.unread

/-- An outstanding result added to a slot; its identity is the slot's `nextId` before (R45). An instruction that owes a
register takes it over from every earlier result (R119). -/
def Slot.addPend (sl : Slot) (regs : List RegId) (kind : PendKind) : Slot :=
  let sl := regs.foldl Slot.claimReg sl
  { sl with pend := sl.pend ++ [⟨sl.traffic.nextId, regs, kind⟩],
            traffic := { sl.traffic with nextId := sl.traffic.nextId + 1 } }

/-- The outstanding result of an identity. -/
def Slot.findPend (sl : Slot) (id : Nat) : Option Pending := sl.pend.find? (·.id == id)

/-- A register of a replay's files put in place. -/
def Replay.put (r : Replay) (x : RegVal) : Replay :=
  match x with
  | .g n x => { r with g := vset r.g n x }
  | .v n x => { r with v := vset r.v n x }
  | .p n x => { r with p := vset r.p n x }

/-- A result of identity id has put a register: a replay that issued after it sees the value too. -/
def Slot.tellReplay (sl : Slot) (id : Nat) (x : RegVal) : Slot :=
  { sl with replay := sl.replay.map fun r => if id < r.first then r.put x else r }

/-- A result returns: the registers that it still owes take their values (R119). -/
def Slot.deliver (sl : Slot) (id : Nat) (xs : List RegVal) : Slot :=
  match sl.findPend id with
  | none => sl
  | some p =>
    let sl := { sl with pend := sl.pend.filter (·.id != id) }
    xs.foldl (fun sl x => if p.regs.contains x.id then (sl.put x).tellReplay id x else sl) sl

end Sys2Proof.Machine
end

