-- ==== Sys2Proof/Machine/Window.lean ====
section
/-! DEFINITION. The error logs of the dies (R463) and the format windows of the memory controllers (R87 to R93). -/

namespace Sys2Proof.Machine

/-! ### Addresses of memory (R190) -/

/-- Whether LPDDR-6 lies behind a physical address (R190). -/
def hasMem (pa : Nat) : Bool := pa < 2 ^ 40 && pa % 2 ^ 38 < 0x3000000000
/-- Whether a physical address lies in the management register block (R469). -/
def isMgmt (pa : Nat) : Bool := 2 ^ 40 ≤ pa && pa < 2 ^ 40 + 0x40000
/-- The home die of a physical address (R190). -/
def homeDie (pa : Nat) : Nat := pa / 2 ^ 38 % 4
/-- The core number of the home slice of a line, by physical address (R190). -/
def homeSlice (pa : Nat) : Nat :=
  1024 * homeDie pa + ((pa / 2 ^ 6 % 1024) ^^^ (pa / 2 ^ 16 % 1024) ^^^ (pa / 2 ^ 26 % 1024) ^^^ (pa / 2 ^ 36 % 4))

/-! ### Error logs -/

/-- Entries of a die's log that the driver has not passed (R463, R470). -/
def logUnread (d : Nat) (s : State) : Nat := (s.die d).made - (s.mreg (0x10000 + 0x1000 * d)).toNat

/-- An entry in a die's error log, merged into the last one when `merge` says that it is alike. A full log takes no more
entries: its last one becomes KIND 7 and counts what is lost (R463; DESIGN CHOICE, log 14). -/
def logMerged (d kind addr unit n win : Nat) (merge : LogEntry → Bool) (s : State) : State :=
  s.onDie d fun x =>
    match x.log.getLast? with
    | some e =>
      if merge e then { x with log := x.log.dropLast ++ [{ e with count := e.count + n }] }
      else if 4096 ≤ logUnread d s then
        { x with log := x.log.dropLast ++ [{ e with kind := 7, count := if e.kind = 7 then e.count + n else n }] }
      else { x with log := x.log ++ [⟨kind, addr, unit, n, s.mcyc, win⟩], made := x.made + 1 }
    | none => { x with log := [⟨kind, addr, unit, n, s.mcyc, win⟩], made := x.made + 1 }

def logError (d kind addr unit : Nat) (s : State) : State := logMerged d kind addr unit 1 0 (fun _ => false) s

/-! ### Format windows -/

/-- The offset of the register block of window k of die d (R87). -/
def winReg (d k : Nat) : Nat := 0x20000 + 0x1000 * d + 0x40 * k

/-- The format of a code. The reserved code 15 stands for FP64, which no window and no tile instruction accepts (R64, R88). -/
def fmtOf (n : Nat) : Fmt := (Fmt.ofCode (BitVec.ofNat 4 n)).getD .f64

/-- The storage and working formats that a window accepts, and whether it is scaled (R88). -/
def winFormats (sf wf : Fmt) : Option Bool :=
  match sf, wf with
  | .e4m3, .f32 | .e4m3, .f16 | .e4m3, .bf16 | .e5m2, .f32 | .e5m2, .f16 | .e5m2, .bf16 => some false
  | .f16, .f32 | .bf16, .f32 => some false
  | .i8, .f16 | .i8, .bf16 | .i4, .f16 | .i4, .bf16 | .o4, .f16 | .o4, .bf16 => some true
  | _, _ => none

/-- Whether window k of die d is enabled and holds the line at physical address pa (R87, R88). -/
def winHolds (s : State) (d k pa : Nat) : Bool :=
  let b := s.mreg (winReg d k)
  b.getLsbD 0 && slice b 51 13 * 8192 ≤ pa && pa < slice (s.mreg (winReg d k + 8)) 51 13 * 8192

/-- The lowest-numbered window that holds a line (R89). -/
def windowOf (s : State) (line : Nat) : Option Nat :=
  let d := homeDie (64 * line)
  ((upTo 16).find? fun k => winHolds s d k (64 * line)).map (winReg d)

/-- Rounding to nearest even under SAT, no flags (R90). -/
def winFpu : Fpu := ⟨0, false, 0, 0, 0, none⟩

/-- Whether the conversion saturated. -/
def saturated (c : Fpu) : Nat := if c.flags.getLsbD flOF then 1 else 0

/-- Elements of `bits` bits in a number, lowest first. -/
def elemsOf (bits : Nat) : Nat → Nat → List Nat
  | 0, _ => []
  | k + 1, n => n % 2 ^ bits :: elemsOf bits k (n / 2 ^ bits)

/-- The number that elements of `bits` bits make. -/
def ofElems (bits : Nat) : List Nat → Nat
  | [] => 0
  | x :: xs => x + 2 ^ bits * ofElems bits xs

/-- Where a window keeps a line: storage address, its length in bytes, and the address of the scale entry (R89). -/
def winPlace (s : State) (w line : Nat) (sf wf : Fmt) : Nat × Nat × Nat :=
  let off := 64 * line - slice (s.mreg w) 51 13 * 8192
  (slice (s.mreg (w + 0x18)) 51 6 * 64 + off * fmtBits sf / fmtBits wf, 64 * fmtBits sf / fmtBits wf,
    slice (s.mreg (w + 0x20)) 51 6 * 64 + 2 * (off / 64))

/-- n saturations counted in fwovf and in the die's error log (R90, R463). -/
def winCount (w line n : Nat) (s : State) : State :=
  if n = 0 then s
  else
    let s := s.setMreg (w + 0x28) (BitVec.ofNat 64 (min (2 ^ 32 - 1) (slice (s.mreg (w + 0x28)) 31 0 + n)))
    logMerged (homeDie (64 * line)) 4 (64 * line) (0x60000 + homeSlice (64 * line)) n w (fun e => e.kind == 4 && e.win == w) s

/-- The scaled values of a stored block (R69, R70). -/
def winValues (sf : Fmt) (bytes : List (BitVec 8)) (scale ob : Nat) (scf : Bool) : List Val :=
  let n := ofBytesLE bytes
  let raw := match sf with
    | .i4 | .o4 => (elemsOf 8 bytes.length n).flatMap fun b => let (x, y) := pairDecode sf b ob; [x, y]
    | _ => (elemsOf (fmtBits sf) (8 * bytes.length / fmtBits sf) n).map (value sf)
  raw.map fun v => (scaleMul v (scaleVal scale scf) winFpu).1

/-- A line expanded into the L2 (R90). -/
def expandLine (line : Nat) (s : State) : State :=
  match windowOf s line with
  | none => s
  | some w =>
    let f := s.mreg (w + 0x10)
    let sf := fmtOf (slice f 3 0); let wf := fmtOf (slice f 7 4)
    let (st, len, sc) := winPlace s w line sf wf
    let bytes := memBytes s.mem st len
    let vals := match winFormats sf wf with
      | some true => winValues sf bytes (memByte s.mem sc).toNat ((memByte s.mem (sc + 1)).toNat % 16) (f.getLsbD 8)
      | _ => (elemsOf (fmtBits sf) (8 * len / fmtBits sf) (ofBytesLE bytes)).map (value sf)
    let codes := vals.map fun v => narrow wf v 0 winFpu
    let n := ofElems (fmtBits wf) (codes.map (·.1))
    let s := { s with work := tset s.work line (vregOf ((elemsOf 32 16 n).map (BitVec.ofNat 32))) }
    winCount w line ((codes.map fun c => saturated c.2).foldl (· + ·) 0) s

/-- The largest magnitude of a list of values; an infinity is above every scale, and a NaN counts for nothing (DESIGN CHOICE, log 63). -/
def maxMag : List Val → Option Mag
  | [] => some (dyadic 0 0)
  | v :: vs =>
    match v, maxMag vs with
    | .inf _, _ => none
    | _, none => none
    | .nan _, some m => some m
    | .num _ x, some m => some (if m.lt x then x else m)

/-- The smaller magnitude of each pair, for O4 (R91); beside a NaN or an infinity it is the partner's (DESIGN CHOICE, log 63). -/
def pairMinima : List Val → List Val
  | x :: y :: t =>
    (match x, y with
      | .num _ a, .num _ b => if a.lt b then x else y
      | .num _ _, _ => x
      | _, _ => y) :: pairMinima t
  | t => t

/-- The least nonzero scale code for which B / s ≤ Q, or the largest (R91). -/
def winScale (scf : Bool) (b : Option Mag) (q : Nat) : Nat :=
  match b with
  | none => 0xfe
  | some m =>
    ((upTo 255).find? fun c =>
      match scaleVal c scf with
      | .num _ k => !k.isZero && !(((dyadic q 0).mul k).lt m)
      | _ => false).getD 0xfe

/-- The pairs of a block encoded, with the saturations (R71, R91): those of its elements, and one at least where the pair collides
(DESIGN CHOICE, log 63). -/
def winPairs (sf : Fmt) (ob : Nat) : List Val → List (Nat × Nat)
  | x :: y :: t =>
    let (code, c) := pairEnc sf x y ob 0 winFpu
    let past := match sf with
      | .o4 => let a := o4Round x ob 0 winFpu; let b := o4Round y ob 0 winFpu
               (if a.2.1 then 1 else 0) + (if b.2.1 then 1 else 0)
      | _ => saturated (narrow .i4 x 0 winFpu).2 + saturated (narrow .i4 y 0 winFpu).2
    (code, Nat.max past (saturated c)) :: winPairs sf ob t
  | _ => []

/-- A working line narrowed to its store (R90, R91). The line stays in the L2. -/
def writeBackLine (line : Nat) (s : State) : State :=
  match windowOf s line, tfind s.work line with
  | some w, some v =>
    let f := s.mreg (w + 0x10)
    let sf := fmtOf (slice f 3 0); let wf := fmtOf (slice f 7 4); let scf := f.getLsbD 8
    let (st, len, sc) := winPlace s w line sf wf
    let vals := (elemsOf (fmtBits wf) (512 / fmtBits wf) (ofBytesLE (vregBytes v))).map (value wf)
    match winFormats sf wf with
    | some true =>
      let q := if sf = .i8 then 127 else 7
      let code := winScale scf (maxMag (if sf = .o4 then pairMinima vals else vals)) q
      let qs := vals.map fun x => (scaleDiv x (scaleVal code scf) winFpu).1
      let ob := if sf = .o4 then chooseOb qs else 0
      let cs := match sf with
        | .i8 => qs.map fun x => let r := narrow .i8 x 0 winFpu; (r.1, saturated r.2)
        | _ => winPairs sf ob qs
      let bytes := bytesLE len (ofElems 8 (cs.map fun c => c.1 % 256))
      let s := { s with mem := memPut (memPut s.mem st bytes) sc [BitVec.ofNat 8 code, BitVec.ofNat 8 ob] }
      winCount w line ((cs.map (·.2)).foldl (· + ·) 0) s
    | _ =>
      let cs := vals.map fun x => narrow sf x 0 winFpu
      let bytes := bytesLE len (ofElems (fmtBits sf) (cs.map (·.1)))
      winCount w line ((cs.map fun c => saturated c.2).foldl (· + ·) 0) { s with mem := memPut s.mem st bytes }
  | _, _ => s

/-- The lines that an L2 slice of 1 MiB holds (R12, R14, R189). -/
def sliceLines : Nat := 16384

/-- A line filled into the L2 (R90). A slice that holds as many working lines as it can writes its lowest one back first
(DESIGN CHOICE, log 64). -/
def fillLine (line : Nat) (s : State) : State :=
  let held := s.work.filter fun e => homeSlice (64 * e.1) == homeSlice (64 * line)
  match held with
  | e :: _ =>
    if sliceLines ≤ held.length then
      let s := writeBackLine e.1 s
      expandLine line { s with work := terase s.work e.1 }
    else expandLine line s
  | [] => expandLine line s

end Sys2Proof.Machine
end

