-- ==== Sys2Proof/Machine/Home.lean ====
section
/-! DEFINITION. Words at their homes, in L1s and in remote-data caches: the events of R196 to R199, R201, R209, R210 and
R234, and the bytes of a local array. -/

namespace Sys2Proof.Machine

/-! ### The combines of RED (R231) and AMO (R227) -/

/-- The low w bits of a word as a signed number. -/
def lowInt (wide : Bool) (x : Word) : Int := if wide then x.toInt else (x.extractLsb' 0 32).toInt
/-- The low w bits of a word. -/
def lowNat (wide : Bool) (x : Word) : Nat := if wide then x.toNat else (x.extractLsb' 0 32).toNat
/-- A result of w bits. -/
def lowWord (wide : Bool) (n : Nat) : Word := BitVec.ofNat 64 (n % 2 ^ (if wide then 64 else 32))

/-- A floating-point context that rounds to nearest even (R209). -/
def rneFpu : Fpu := ⟨0, false, 0, 0, 0, none⟩

/-- One combine of RED, with the flags that it raises (R231). -/
def redCombineWord (op : RedOp) (wide : Bool) (x y : Word) : Word × BitVec 6 :=
  let a := lowNat wide x; let b := lowNat wide y
  let f := if wide then fp64 else fp32
  match op with
  | .iadd => (lowWord wide (a + b), 0)
  | .min => (lowWord wide (if lowInt wide y < lowInt wide x then b else a), 0)
  | .max => (lowWord wide (if lowInt wide x < lowInt wide y then b else a), 0)
  | .minu => (lowWord wide (Nat.min a b), 0)
  | .maxu => (lowWord wide (Nat.max a b), 0)
  | .fadd => let (r, c) := fpOp f .add a b 0 rneFpu; (lowWord wide r, c.flags)
  | .fmin => let (r, c) := minMax f false a b rneFpu; (lowWord wide r, c.flags)
  | .fmax => let (r, c) := minMax f true a b rneFpu; (lowWord wide r, c.flags)

/-- The identity at which a partial starts (R209). -/
def redIdentityWord (op : RedOp) (wide : Bool) : Word :=
  match op with
  | .iadd | .maxu => 0
  | .minu => lowWord wide (2 ^ 64 - 1)
  | .min => lowWord wide (if wide then 2 ^ 63 - 1 else 2 ^ 31 - 1)
  | .max => lowWord wide (if wide then 2 ^ 63 else 2 ^ 31)
  | .fadd => lowWord wide (if wide then 2 ^ 63 else 2 ^ 31)
  | .fmin => lowWord wide (if wide then 0x7ff0000000000000 else 0x7f800000)
  | .fmax => lowWord wide (if wide then 0xfff0000000000000 else 0xff800000)

/-- The value that an AMO leaves (R227). -/
def amoCombine (op : AmoOp) (wide : Bool) (old new : Word) : Word :=
  let a := lowNat wide old; let b := lowNat wide new
  lowWord wide (match op with
    | .swap => b
    | .add => a + b
    | .and => a &&& b
    | .or => a ||| b
    | .xor => a ^^^ b
    | .min => if lowInt wide new < lowInt wide old then b else a
    | .max => if lowInt wide old < lowInt wide new then b else a
    | .minu => Nat.min a b
    | .maxu => Nat.max a b)

/-! ### The L1 of a core (R192, R197) -/

def lineOfWord (w : Nat) : Nat := w / 16
def onL1 (c : Nat) (f : L1 → L1) (s : State) : State := s.onCore c fun x => { x with l1 := f x.l1 }
def l1Find (s : State) (c w : Nat) : Option L1Word := tfind (s.core c).l1.words w
def l1Put (c w : Nat) (x : L1Word) (s : State) : State := onL1 c (fun l => { l with words := tset l.words w x }) s

/-- Whether a block covers a word. -/
def Block.has (b : Block) (w : Nat) : Bool := b.word ≤ w && w < b.word + b.len

/-- A word made Invalid in an L1. Its block stays where it is until it is evicted, whatever words of it are left (R192, R407)
(DESIGN CHOICE, log 9). -/
def l1Drop (c w : Nat) (s : State) : State := onL1 c (fun l => { l with words := terase l.words w }) s

/-- Every Valid word of an L1 made Invalid: an acquire (R201). The parameter-block cache goes with it (R266). -/
def l1Acquire (c : Nat) (s : State) : State :=
  s.onCore c fun x =>
    { x with l1 := { x.l1 with words := x.l1.words.filter fun e => e.2.st != .valid },
             transfer := { x.transfer with params := [] } }

/-- Bytes of a word replaced under a byte mask. -/
def mergeBytes (mask : BitVec 4) (new old : BitVec 32) : BitVec 32 :=
  (upTo 4).foldl (fun x j => if mask.getLsbD j then setSlice x (8 * j + 7) (8 * j) (slice new (8 * j + 7) (8 * j)) else x) old

/-! ### The home (R196) -/

/-- The word that memory, or the working line of a format window, holds. A line of a window is filled first (R90). -/
def homeGet (w : Nat) (s : State) : BitVec 32 × State :=
  match windowOf s (lineOfWord w) with
  | none => (BitVec.ofNat 32 (ofBytesLE (memBytes s.mem (4 * w) 4)), s)
  | some _ =>
    let s := if (tfind s.work (lineOfWord w)).isSome then s else fillLine (lineOfWord w) s
    (vget (tget s.work (lineOfWord w) vzero) (w % 16) 0#32, s)

/-- The word put into memory or the working line. -/
def homePut (w : Nat) (v : BitVec 32) (s : State) : State :=
  match windowOf s (lineOfWord w) with
  | none => { s with mem := memPut s.mem (4 * w) (bytesLE 4 v.toNat) }
  | some _ =>
    let s := if (tfind s.work (lineOfWord w)).isSome then s else fillLine (lineOfWord w) s
    { s with work := tset s.work (lineOfWord w) (vset (tget s.work (lineOfWord w) vzero) (w % 16) v) }

/-- Every remote-data-cache copy of a line invalidated. -/
def dropRdc (line : Nat) (s : State) : State := { s with rdc := s.rdc.filter fun e => e.1 / 4 != line }

def clearHome (w : Nat) (s : State) : State := { s with home := terase s.home w }

/-- Two words as one doubleword, and back. -/
def pairWord (lo hi : BitVec 32) : Word := hi ++ lo

/-- A value of one or two words at the home. -/
def homeGetWide (wide : Bool) (w : Nat) (s : State) : Word × State :=
  let (lo, s) := homeGet w s
  if wide then let (hi, s) := homeGet (w + 1) s; (pairWord lo hi, s) else (zext64 lo, s)
def homePutWide (wide : Bool) (w : Nat) (v : Word) (s : State) : State :=
  let s := homePut w (v.extractLsb' 0 32) s
  if wide then homePut (w + 1) (v.extractLsb' 32 32) s else s

/-- The partial that a core holds of an Update-only word. -/
def partialOf (s : State) (c w : Nat) (wide : Bool) : Option Word :=
  match l1Find s c w with
  | some x => match x.st with
    | .updateOnly _ _ =>
      let lo : BitVec 32 := x.val.extractLsb' 0 32
      some (if wide then x.val else zext64 lo)
    | _ => none
  | none => none

/-- A message that enqueues a record, whose home and priority are still to be read (R426). -/
def watchFire (e : WatchEntry) (s : State) : State :=
  let s := s.post ⟨.tenqArrival, { Arg.reset with k := e.ctx, a := e.id / 16, b := 1, w := e.record, l := [1] }⟩
  setEvent e.slot s

/-- Watches of a word whose condition holds for its new value v (R426): they are removed and fire. -/
def fireOn (w : Nat) (v : BitVec 32) (s : State) : State :=
  let hit := s.watches.filter fun e => e.word ≤ w && w < e.word + e.nw
  hit.foldl (fun s e => if v &&& e.mask = e.value &&& e.mask then
    watchFire e { s with watches := s.watches.filter fun x => x.id != e.id } else s) s

/-- Watches whose condition holds after a write performed at the home of a word. -/
def fireWatches (w : Nat) (s : State) : State := let (v, s) := homeGet w s; fireOn w v s

/-- The cores that hold a partial of some word of a line, each once (DEDUCED, log 60). -/
def lineCores (line : Nat) (s : State) : List Nat :=
  (s.home.flatMap fun e => if e.1 / 16 = line then (match e.2 with
    | .updateOnly _ _ hs => hs
    | _ => []) else []).eraseDups

/-- The holders that the directory of a line counts: remote-data caches and update-only holders (R197, R210). -/
def lineHolders (line : Nat) (s : State) : Nat :=
  (s.rdc.filter fun e => e.1 / 4 == line).length + (lineCores line s).length

/-- The address of a place of the ring in the local array. -/
def dirOffset (place : Nat) : Nat := 0x7e000 + 16 * (place % 256)

/-- What the C9 writes of a directory record (R211): the doubleword at +0, and ENTRY of a record that gives an entry back. -/
def dirBytes (p : DirPost) (arr : Mem) : Mem :=
  let off := dirOffset p.place
  let arr := memPut arr off (bytesLE 8 ((if p.kind = 0 then p.value * 2 ^ 52 else 0) + 64 * p.line + p.kind))
  let old := BitVec.ofNat 64 (ofBytesLE (memBytes arr (off + 8) 8))
  if p.kind = 0 then arr else memPut arr (off + 8) (bytesLE 8 (setSlice old 51 6 (p.value / 64)).toNat)

/-- A record is written into the ring of a home core, and slot 15 has its event (R211). -/
def dirWrite (h : Nat) (p : DirPost) (s : State) : State :=
  setEvent (16 * h + 15) (s.onCore h fun x => { x with arr := dirBytes p x.arr })

/-- Whether an earlier record that is not consumed stands in the place of record n of a ring. -/
def dirTaken (x : Core) (n : Nat) : Bool := x.posts.any fun p => p.place < n && p.place % 256 == n % 256

/-- A record for the directory handler of a line's home core; while the ring is full it waits to be written (R211). -/
def dirPost (kind value line : Nat) (s : State) : State :=
  let h := homeSlice (64 * line)
  let x := s.core h
  let p : DirPost := ⟨x.dirNext, kind, value, line⟩
  let s := s.setCore h { x with posts := x.posts ++ [p], dirNext := x.dirNext + 1 }
  if dirTaken x p.place then s else dirWrite h p s

/-- n words from word w on, each read by f, as bytes. -/
def wordsBy (f : Nat → State → BitVec 32 × State) (w : Nat) : Nat → State → List (BitVec 8) × State
  | 0, s => ([], s)
  | n + 1, s =>
    let (v, s) := f w s
    let (bs, s) := wordsBy f (w + 1) n s
    (bytesLE 4 v.toNat ++ bs, s)

/-- n bytes at physical address pa, each word read once by f. -/
def bytesBy (f : Nat → State → BitVec 32 × State) (pa n : Nat) (s : State) : List (BitVec 8) × State :=
  let (bs, s) := wordsBy f (pa / 4) ((pa + n + 3) / 4 - pa / 4) s
  ((bs.drop (pa % 4)).take n, s)

/-- A word as the home itself reads it: the owner's, without recalling it, or that of memory. -/
def homePeek (w : Nat) (s : State) : BitVec 32 × State :=
  match tfind s.home w with
  | some (.owned c) =>
    match l1Find s c w with
    | some x => (x.val.extractLsb' 0 32, s)
    | none => homeGet w s
  | _ => homeGet w s

/-- The overflow entries of the chain at a physical address, at most n, and the cores that they list (R212) (DEDUCED, log 60). -/
def readChain : Nat → Nat → State → (List Nat × List Nat) × State
  | 0, _, s => (([], []), s)
  | n + 1, e, s =>
    if e = 0 then (([], []), s)
    else
      let (bs, s) := bytesBy homePeek e 64 s
      let field := fun (i k : Nat) => ofBytesLE ((bs.drop i).take k)
      let ((es, cs), s) := readChain n (field 8 8 % 2 ^ 52 / 64 * 64) s
      ((e :: es, ((upTo 24).map fun j => field (16 + 2 * j) 2).filter (· != 0xffff) ++ cs), s)

/-- The chains of the entries that the handler has told of, each entry once. -/
def readChains (es : List Nat) (s : State) : (List Nat × List Nat) × State :=
  es.foldl (fun acc e =>
    if acc.1.1.contains e then acc
    else
      let (x, s) := readChain 256 e acc.2
      ((acc.1.1 ++ x.1.filter (!acc.1.1.contains ·), acc.1.2 ++ x.2), s)) (([], []), s)

/-- The words of a line that are Update-only. -/
def updateWords (s : State) (line : Nat) : List Nat :=
  s.home.filterMap fun e => if e.1 / 16 = line then (match e.2 with
    | .updateOnly _ _ _ => some e.1
    | _ => none) else none

/-- The partials of a word gathered from its holders, and from further cores, and combined into the base value; the word becomes Free
(R196, R209) (DESIGN CHOICE, log 10). -/
def gatherWord (more : List Nat) (w : Nat) (s : State) : State :=
  match tfind s.home w with
  | some (.updateOnly op wide holders) =>
    let (base, s) := homeGetWide wide w s
    let cores := (holders ++ more).eraseDups
    let v := cores.foldl (fun v c => match partialOf s c w wide with
      | some p => (redCombineWord op wide v p).1
      | none => v) base
    let held := cores.filter fun c => (partialOf s c w wide).isSome
    let s := held.foldl (fun s c => let s := l1Drop c w s; if wide then l1Drop c (w + 1) s else s) s
    let s := homePutWide wide w v (clearHome w s)
    let s := fireWatches w (if wide then clearHome (w + 1) s else s)
    if wide then fireWatches (w + 1) s else s
  | _ => s

/-- An Update-only word made Free. Where its line has overflow entries, the home reads their chain, gathers every Update-only word of the
line from the cores that the pointers and the chain name, and gives each entry back (R212) (DESIGN CHOICE, log 10) (DEDUCED, log 60). -/
def gather (w : Nat) (s : State) : State :=
  let w := if tfind s.home w == some .upper then w - 1 else w
  match tfind s.home w with
  | some (.updateOnly _ _ _) =>
    let line := lineOfWord w
    let h := homeSlice (64 * line)
    match tget (s.core h).dirEntries line [] with
    | [] => gatherWord [] w s
    | told =>
      let ((es, cs), s) := readChains told s
      let s := (updateWords s line).foldl (fun s w => gatherWord cs w s) s
      es.foldl (fun s e => dirPost 1 e line s) (s.onCore h fun x => { x with dirEntries := terase x.dirEntries line })
  | _ => s

/-- The owner's value taken back, or the partials gathered: the word is Free and its owner keeps no copy (R196, R234). -/
def recallWord (w : Nat) (s : State) : State :=
  match tfind s.home w with
  | none => s
  | some (.owned c) =>
    let s := match l1Find s c w with
      | some x => homePut w (x.val.extractLsb' 0 32) (l1Drop c w s)
      | none => s
    clearHome w s
  | some _ => gather w s

/-- The value that the home gives a reader other than the owner (R196): the owner's word, without recalling it, or the
memory word after a gather. -/
def homeRead (w : Nat) (s : State) : BitVec 32 × State :=
  match tfind s.home w with
  | some (.owned c) =>
    match l1Find s c w with
    | some x => (x.val.extractLsb' 0 32, s)
    | none => homeGet w s
  | some _ => homeGet w (gather w s)
  | none => homeGet w s

/-- A store performed at the home: recall, merge, invalidate the remote-data caches, and let the watches see it. -/
def homeStore (w : Nat) (mask : BitVec 4) (v : BitVec 32) (s : State) : State :=
  let (old, s) := homeGet w (recallWord w s)
  fireWatches w (dropRdc (lineOfWord w) (homePut w (mergeBytes mask v old) s))

/-- The other word of an aligned doubleword. -/
def pairOf (w : Nat) : Nat := if w % 2 = 0 then w + 1 else w - 1

/-- Whether a store of core c to a word still awaits its registration (R198). -/
def unregistered (s : State) (c w : Nat) : Bool :=
  match l1Find s c w with
  | some x => x.st == .owned false
  | none => false

/-- One word of core c registered at the home (R196, R198): another owner's copy is revoked, partials are gathered, remote copies
invalidated, the bytes of a small store merged, and the watches see the write. -/
def registerOne (c w : Nat) (s : State) : State :=
  match l1Find s c w with
  | some x =>
    match x.st with
    | .owned true => dropRdc (lineOfWord w) s
    | .owned false =>
      let s := if tfind s.home w == some (.owned c) then s else recallWord w s
      let (old, s) := homeGet w s
      let v := mergeBytes x.mask (x.val.extractLsb' 0 32) old
      let s := l1Put c w ⟨.owned true, zext64 v, 0xf#4⟩ s
      fireOn w v (dropRdc (lineOfWord w) { s with home := tset s.home w (.owned c) })
    | _ => s
  | none => s

/-- The registration of a word of core c reaches the home. Where the other word of its doubleword awaits registration too, both are
registered at once, so that no reader sees one of them without the other (R208). -/
def registerWord (c w : Nat) (s : State) : State :=
  let s := registerOne c w s
  if unregistered s c (pairOf w) then registerOne c (pairOf w) s else s

/-! ### Evictions and fills (R192, R197, R199) -/

/-- A partial sent home by its holder (R197): combined into the base, the holder removed. -/
def sendPartial (c w : Nat) (s : State) : State :=
  match tfind s.home w with
  | some (.updateOnly op wide holders) =>
    let (base, s) := homeGetWide wide w s
    let v := match partialOf s c w wide with
      | some p => (redCombineWord op wide base p).1
      | none => base
    let s := homePutWide wide w v (l1Drop c w s)
    let s := if wide then l1Drop c (w + 1) s else s
    let left := holders.filter (· != c)
    let line := lineOfWord w
    let s := if left.isEmpty && (tget (s.core (homeSlice (64 * line))).dirEntries line []).isEmpty
      then (let s := clearHome w s; if wide then clearHome (w + 1) s else s)
      else { s with home := tset s.home w (.updateOnly op wide left) }
    let s := fireWatches w s
    if wide then fireWatches (w + 1) s else s
  | _ => l1Drop c w s

/-- A core writes an Owned word back (R196, R197). A word still registering is registered by it. -/
def writeBack (c w : Nat) (s : State) : State :=
  match l1Find s c w with
  | some x =>
    match x.st with
    | .owned r =>
      let s := if r then s else registerWord c w s
      let v := match l1Find s c w with
        | some y => y.val
        | none => x.val
      let s := homePut w (v.extractLsb' 0 32) (l1Drop c w s)
      if tfind s.home w == some (.owned c) then clearHome w s else s
    | .updateOnly _ _ => sendPartial c w s
    | .upper => sendPartial c (w - 1) s
    | .valid => l1Drop c w s
  | none => s

/-- The words of a list of keys that a block covers. -/
def blockWords (l : L1) (b : Block) : List Nat := (l.words.filter fun e => b.has e.1).map (·.1)

/-- A block evicted: Owned words are written back, partials sent home, Valid words dropped (R197). -/
def evictBlock (c : Nat) (b : Block) (s : State) : State :=
  let s := (blockWords (s.core c).l1 b).foldl (fun s w => writeBack c w s) s
  onL1 c (fun l => { l with blocks := l.blocks.filter (· != b) }) s

/-- The set of a word (R192). -/
def l1Set (w : Nat) : Nat := w / 8 % 256
/-- The number of ways (R13, R192). -/
def l1Ways (x : Core) : Nat := 38 - x.spsz / 8192
/-- Words that the blocks of a set hold in a way. -/
def wayUsed (l : L1) (set way : Nat) : Nat :=
  ((l.blocks.filter fun b => l1Set b.word == set && b.way == way).map (·.len)).foldl (· + ·) 0
/-- The lowest-numbered way whose set has room for n words (R192). -/
def roomWay (x : Core) (set n : Nat) : Option Nat := (upTo (l1Ways x)).find? fun way => wayUsed x.l1 set way + n ≤ 8

/-- A block placed, after the set's blocks are evicted oldest first until one way has room (R192). -/
def placeBlock : Nat → Nat → Nat → Nat → State → State
  | 0, _, _, _, s => s
  | fuel + 1, c, w, n, s =>
    match roomWay (s.core c) (l1Set w) n with
    | some way => onL1 c (fun l => { l with blocks := l.blocks ++ [⟨w, n, way⟩] }) s
    | none =>
      match (s.core c).l1.blocks.find? fun b => l1Set b.word == l1Set w with
      | some b => placeBlock fuel c w n (evictBlock c b s)
      | none => s

/-- Whether some block of an L1 covers a word. -/
def covered (l : L1) (w : Nat) : Bool := l.blocks.any fun b => b.has w

/-- How many words from w on, at most n and within the sector, no block covers. -/
def freeRun (l : L1) (w : Nat) : Nat → Nat
  | 0 => 0
  | n + 1 => if covered l w then 0 else if w % 8 = 7 then 1 else 1 + freeRun l (w + 1) n

/-- A block for word w of the length that the predictor gives, 1 to 8; a whole sector when no block covers any of it
(R191, R192). The words of the new block are still Invalid (DESIGN CHOICE, log 9). -/
def allocBlock (c w len : Nat) (s : State) : State :=
  let l := (s.core c).l1
  if covered l w then s
  else
    let base := w / 8 * 8
    let (start, n) := if 8 ≤ len && freeRun l base 8 = 8 then (base, 8) else (w, freeRun l w (Nat.max 1 len))
    placeBlock 2049 c start n s

/-- The sector of word w made one block of 8 words, where an access that covers it misses one of its words (R405). Words of the sector
that the L1 holds stay. -/
def allocSector (c w : Nat) (s : State) : State :=
  let base := w / 8 * 8
  let l := (s.core c).l1
  if ((upTo 8).all fun j => (tfind l.words (base + j)).isSome) || l.blocks.any (fun b => b.word == base && b.len == 8) then s
  else placeBlock 2049 c base 8 (onL1 c (fun l => { l with blocks := l.blocks.filter fun b => b.word / 8 != w / 8 }) s)

/-- The octet whose share of a die's remote-data cache can hold a line (R190). -/
def rdcOctet (die line : Nat) : Nat := 128 * die + homeSlice (64 * line) % 1024 / 8

/-- The lines that an octet's share of 2 MiB holds (R10, R14). -/
def rdcLines : Nat := 32768

/-- A line put into the remote-data cache of a die, if the octet's share of it is not retired (R465). A full share gives up its lowest
line first (DESIGN CHOICE, log 64). -/
def rdcPut (die line : Nat) (v : VReg) (s : State) : State :=
  if (tget s.defect (rdcOctet die line) 0).getLsbD 19 then s else
  let share := s.rdc.filter fun e => e.1 % 4 == die && rdcOctet die (e.1 / 4) == rdcOctet die line
  let s := match share with
    | e :: _ => if rdcLines ≤ share.length then { s with rdc := terase s.rdc e.1 } else s
    | [] => s
  { s with rdc := tset s.rdc (4 * line + die) v }

/-- A word as the fill of a core reads it: from its die's remote-data cache where that holds the line, which is filled if
a holder pointer is free; else at the home (R190, R196, R210). -/
def fillRead (c w : Nat) (s : State) : BitVec 32 × State :=
  let line := lineOfWord w
  if homeDie (4 * w) = dieOf c then homeRead w s
  else
    match tfind s.rdc (4 * line + dieOf c) with
    | some v => (vget v (w % 16) 0#32, s)
    | none =>
      let (ws, s) := (upTo 16).foldl (fun (acc : List (BitVec 32) × State) j =>
        let (x, s) := homeRead (16 * line + j) acc.2
        (acc.1 ++ [x], s)) ([], s)
      let v := vregOf ws
      (vget v (w % 16) 0#32, if lineHolders line s < 4 then rdcPut (dieOf c) line v s else s)

/-- A word filled into an L1. A Valid copy of the other word of its doubleword is filled again, so that both are of one moment (R208). -/
def fillWord (c w : Nat) (s : State) : State :=
  let put := fun (w : Nat) (s : State) => let (v, s) := fillRead c w s; l1Put c w ⟨.valid, zext64 v, 0xf#4⟩ s
  let s := put w s
  match l1Find s c (pairOf w) with
  | some x => if x.st = .valid then put (pairOf w) s else s
  | none => s

/-- A word as a load of core c returns it (R199): from the L1 where it is Valid or Owned, bytes that a store still
registering does not hold coming from the home; else by a fill whose block has the predicted length. -/
def coreRead (c w len : Nat) (s : State) : BitVec 32 × State :=
  let fill := fun (s : State) =>
    let s := allocBlock c w len s
    match (s.core c).l1.blocks.find? fun b => b.has w with
    | none => fillRead c w s
    | some b =>
      let s := (upTo b.len).foldl (fun s j =>
        if (l1Find s c (b.word + j)).isSome then s else fillWord c (b.word + j) s) s
      match l1Find s c w with
      | some x => (x.val.extractLsb' 0 32, s)
      | none => fillRead c w s
  match l1Find s c w with
  | some x =>
    match x.st with
    | .valid | .owned true => (x.val.extractLsb' 0 32, s)
    | .owned false =>
      if x.mask = 0xf#4 then (x.val.extractLsb' 0 32, s)
      else let (v, s) := homeRead w s; (mergeBytes x.mask (x.val.extractLsb' 0 32) v, s)
    | .updateOnly _ _ | .upper => fill (gather w s)
  | none => fill s

/-- Bytes from pa cut into words: the word, the mask of the bytes and their value in place. -/
def wordChunks : Nat → Nat → List (BitVec 8) → List (Nat × BitVec 4 × BitVec 32)
  | 0, _, _ => []
  | _ + 1, _, [] => []
  | fuel + 1, pa, bs =>
    let k := Nat.min (4 - pa % 4) bs.length
    (pa / 4, BitVec.ofNat 4 ((2 ^ k - 1) * 2 ^ (pa % 4)),
      BitVec.ofNat 32 (ofBytesLE (bs.take k) * 2 ^ (8 * (pa % 4)))) :: wordChunks fuel (pa + k) (bs.drop k)

/-- Bytes as an engine, the walker or the firmware reads them at the home (R213, R241). -/
def homeBytes (pa n : Nat) (s : State) : List (BitVec 8) × State := bytesBy homeRead pa n s

/-- A number read at the home. -/
def homeNat (pa n : Nat) (s : State) : Nat × State := let (bs, s) := homeBytes pa n s; (ofBytesLE bs, s)

/-- Bytes as an engine, the C9 or the firmware stores them: each word performed at its home (R213). -/
def homePutBytes (pa : Nat) (bs : List (BitVec 8)) (s : State) : State :=
  (wordChunks bs.length pa bs).foldl (fun s c => homeStore c.1 c.2.1 c.2.2 s) s

def homePutNat (pa n v : Nat) (s : State) : State := homePutBytes pa (bytesLE n v) s

/-! ### Stores and REDs of a core (R198, R209) -/

/-- A word written in the L1 of its core: Owned there from now on, its registration still to come (R198). A store to a word that the core
owns already is performed at once: the home knows its owner, and only copies and watches are to be told (DEDUCED, log 64)
(DESIGN CHOICE, log 9). -/
def l1Store (c w : Nat) (mask : BitVec 4) (v : BitVec 32) (s : State) : State :=
  let s := match l1Find s c w with
    | some x => match x.st with
      | .updateOnly _ _ | .upper => gather w s
      | _ => s
    | none => s
  match l1Find s c w with
  | some x =>
    let new := mergeBytes mask v (x.val.extractLsb' 0 32)
    match x.st with
    | .owned true => fireOn w new (dropRdc (lineOfWord w) (l1Put c w ⟨.owned true, zext64 new, 0xf#4⟩ s))
    | .owned false => l1Put c w ⟨.owned false, zext64 new, x.mask ||| mask⟩ s
    | _ => l1Put c w ⟨.owned false, zext64 new, mask⟩ s
  | none => l1Put c w ⟨.owned false, zext64 (mergeBytes mask v 0#32), mask⟩ (allocBlock c w 1 s)

/-- Before a store to both words of a doubleword: unless the core owns both, one that it owns goes home, so that both are registered
together (R208). -/
def splitPair (c w : Nat) (s : State) : State :=
  let owned := fun (w : Nat) => match l1Find s c w with
    | some x => x.st == .owned true
    | none => false
  if owned w && owned (w + 1) then s
  else if owned w then writeBack c w s
  else if owned (w + 1) then writeBack c (w + 1) s
  else s

/-- Whether core c already holds a partial of the word for the operation and width (R209). -/
def hasPartial (s : State) (c w : Nat) (op : RedOp) (wide : Bool) : Bool :=
  match l1Find s c w with
  | some x => x.st == .updateOnly op wide
  | none => false

/-- A RED combined into the partial of its core (R209), with the flags of the combine (R231) (DEDUCED, log 49) (DESIGN CHOICE, log 9). -/
def redLocal (c w : Nat) (op : RedOp) (wide : Bool) (v : Word) (s : State) : BitVec 6 × State :=
  let old := match l1Find s c w with
    | some x => if x.st == .updateOnly op wide then x.val else redIdentityWord op wide
    | none => redIdentityWord op wide
  let (r, f) := redCombineWord op wide old v
  let s := l1Put c w ⟨.updateOnly op wide, r, 0xf#4⟩ (allocBlock c w (if wide then 2 else 1) s)
  let s := if wide then allocBlock c (w + 1) 1 s else s
  (f, if wide then l1Put c (w + 1) ⟨.upper, 0, 0xf#4⟩ s else s)

/-- A RED combined into the base value at the home, by a drain or as an atomic (R210, R236). -/
def redHome (w : Nat) (op : RedOp) (wide : Bool) (v : Word) (s : State) : State :=
  let s := recallWord w s
  let s := if wide then recallWord (w + 1) s else s
  let (old, s) := homeGetWide wide w s
  let s := dropRdc (lineOfWord w) (homePutWide wide w (redCombineWord op wide old v).1 s)
  let s := fireWatches w s
  if wide then fireWatches (w + 1) s else s

/-- The home of a line makes each word Free (R234). A working line is stored, also one that was only filled (DESIGN CHOICE, log 67). -/
def recallLine (line : Nat) (s : State) : State :=
  let s := (s.home.filter fun e => e.1 / 16 == line).foldl (fun s e => recallWord e.1 s) s
  writeBackLine line s

/-- CFLUSH or CINV of a line, by core c (R234). -/
def flushLine (c line : Nat) (inv : Bool) (s : State) : State :=
  let s := recallLine line s
  if inv then
    let s := dropRdc line { s with work := terase s.work line }
    (upTo 16).foldl (fun s j => match l1Find s c (16 * line + j) with
      | some x => if x.st == .valid then l1Drop c (16 * line + j) s else s
      | none => s) s
  else s

/-! ### Local arrays (R13, R193, R195) -/

def arrBytes (s : State) (c off n : Nat) : List (BitVec 8) := memBytes (s.core c).arr off n
def arrPut (c off : Nat) (bs : List (BitVec 8)) (s : State) : State :=
  s.onCore c fun x => { x with arr := memPut x.arr off bs }
def arrNat (s : State) (c off n : Nat) : Nat := ofBytesLE (arrBytes s c off n)
def arrPutNat (c off n v : Nat) (s : State) : State := arrPut c off (bytesLE n v) s

/-- The byte that a store of b leaves in the system local area; none where the field is read-only or set by the C9 alone: the partition
record, the halt record, the task counters and the doublewords at +0 of the directory-handler ring. Reserved bits of the ring and the
reserved bytes of an indirection record stay zero (R3, R4, R211, R368, R401, R419, R456). -/
def arrayByte (off : Nat) (b : BitVec 8) : Option (BitVec 8) :=
  if (0x7c000 ≤ off && off < 0x7c010) || (0x7c040 ≤ off && off < 0x7c080) || (0x7d000 ≤ off && off < 0x7e000) ||
    (0x7f000 ≤ off && 16 ≤ off % 64) then none
  else if 0x7e000 ≤ off && off < 0x7f000 then
    match off % 16 with
    | 8 => some (b &&& 0xc0#8)
    | 14 => some (b &&& 0x0f#8)
    | 15 => some (b &&& 0x80#8)
    | n => if n < 8 then none else some b
  else some b

/-- Bytes of a store put into an array. -/
def arrayPut (arr : Mem) : Nat → List (BitVec 8) → Mem
  | _, [] => arr
  | off, b :: bs => arrayPut (match arrayByte off b with
      | some x => memPut arr off [x]
      | none => arr) (off + 1) bs

/-- The records of the directory-handler ring whose DONE a store of bytes at off sets (R211). -/
def doneBy (off : Nat) (bs : List (BitVec 8)) : List Nat :=
  (enumFrom off bs).filterMap fun x => if 0x7e000 ≤ x.1 && x.1 < 0x7f000 && x.1 % 16 = 15 && x.2.getLsbD 7 then some ((x.1 - 0x7e000) / 16) else none

/-- A store to an array, by whatever access; one that sets DONE in the directory-handler ring has finished a record (R211). -/
def storeArray (c off : Nat) (bs : List (BitVec 8)) (s : State) : State :=
  if off + bs.length ≤ 0x7c000 then arrPut c off bs s
  else
    (doneBy off bs).foldl (fun s n => s.post (evt .directoryHandlerDone c n 0))
      (s.onCore c fun x => { x with arr := arrayPut x.arr off bs })

end Sys2Proof.Machine
end

