-- ==== Sys2Proof/Machine/Stop.lean ====
section
/-! DEFINITION. Stopping a span through the halt tree, resuming it, and the fault of a context (R431, R452 to R458). -/

namespace Sys2Proof.Machine

/-- A count register of R455. -/
def trafficWord (v : Vector Nat 3) : Word :=
  BitVec.ofNat 64 (vget v 0 0 % 2 ^ 21 + vget v 1 0 % 2 ^ 21 * 2 ^ 21 + vget v 2 0 % 2 ^ 21 * 2 ^ 42)

/-- n more messages, beats or entries sent by a core on virtual channel 2, 4 or 5 (index 0, 1, 2; R455). -/
def countSent (c vc n : Nat) (s : State) : State :=
  s.onCore c fun x => { x with sent := vset x.sent vc ((vget x.sent vc 0 + n) % 2 ^ 21) }
/-- n more consumed by a core. -/
def countRecv (c vc n : Nat) (s : State) : State :=
  s.onCore c fun x => { x with recv := vset x.recv vc ((vget x.recv vc 0 + n) % 2 ^ 21) }

/-- The 32 clusters of a partition, and its cores. -/
def maskClusters (m : Nat) : List Nat := (upTo 32).filter fun i => m.testBit i
def clusterCores (c : Nat) : List Nat := (clusterOctets c).flatMap octetCores
def partitionCores (s : State) (ctx : Nat) : List Nat :=
  match tfind s.ctxs ctx with
  | some c => (maskClusters c.clusters).flatMap clusterCores
  | none => []

/-- The slots of a core that are not Free. -/
def busySlots (s : State) (c : Nat) : List Nat :=
  ((upTo 16).map (16 * c + ·)).filter fun k => (s.slot k).run != .free

/-- A slot becomes Stopped (R94). -/
def stopSlot (sl : Slot) : Slot :=
  match sl.run with
  | .free => sl
  | .stopped _ => sl
  | r => { sl with run := .stopped r }

/-- Whether a slot has a trap that a replay deferred, and does not yet wait for its entry. -/
def Slot.deferred (sl : Slot) : Bool :=
  (sl.replay.elim false fun r => r.ended && r.trap.isSome) && (match sl.run with
    | .running | .parked (.marker _) => true
    | .parked (.trapEntry _ _ _) | .parked (.faultEntry _ _ _) | .parked (.port _) | .parked .answer => false
    | .parked _ => true
    | _ => false)

/-- Whether a divide or a root of a slot is outstanding (R124, R161). -/
def Slot.divides (sl : Slot) : Bool := sl.pend.any fun p => match p.kind with
  | .timed _ _ _ _ => true
  | _ => false

/-- Whether an HNEW or HBIND of slot k is at its home (R373). -/
def atHome (s : State) (k : Nat) : Bool :=
  s.inflight.any fun m => m.2.ev == .homeAtomicAccess && [1, 2, 4].contains m.2.arg.b && m.2.arg.k == k

/-- Whether a stop of a core waits: for a replay of one of its slots or the trap that it deferred to the stop (R158), for a divide, or for
the answer to an HNEW or HBIND (R124, R373). -/
def stopAwaits (s : State) (c : Nat) : Bool :=
  (busySlots s c).any fun k => (s.slot k).replaying || (s.slot k).deferred || (s.slot k).divides || atHome s k

/-- A core stops: its halt record is written (R456), its slots become Stopped (R453). It issues nothing more at once, and stops once
nothing is left that a stop waits for (R158, R373). -/
def stopCore (reason src seq c : Nat) (s : State) : State :=
  let x := s.core c
  if x.stopped then s
  else if stopAwaits s c then s.setCore c { x with halting := some (reason, src, seq) }
  else
    let rec0 := bytesLE 8 x.cyc.toNat ++ bytesLE 8 (trafficWord x.sent).toNat ++ bytesLE 8 (trafficWord x.recv).toNat ++
      bytesLE 8 (reason * 2 ^ 56 + src) ++ bytesLE 8 seq ++ bytesLE 24 0
    let s := s.setCore c { x with arr := memPut x.arr 0x7c040 rec0, stopped := true, halting := none }
    (busySlots s c).foldl (fun s k => s.onSlot k stopSlot) s

/-- A stop of a span of a context's partition (R452, R458): a span already stopped stays as it is. -/
def stopSpan (ctx : Nat) (cores : List Nat) (reason src : Nat) (s : State) : State :=
  if cores.all fun c => (s.core c).stopped || (s.core c).halting.isSome then s
  else
    let part := match tfind s.ctxs ctx with
      | some c => c.clusters
      | none => 0
    let seq := (tget s.stops part 0 + 1) % 2 ^ 32
    cores.foldl (fun s c => stopCore reason src seq c s) { s with stops := tset s.stops part seq }

def stopPartition (ctx reason src : Nat) (s : State) : State := stopSpan ctx (partitionCores s ctx) reason src s

/-- The state code of a context (R430). -/
def ctxState (s : State) (ctx : Nat) : Nat :=
  match tfind s.ctxs ctx with
  | some c => c.st
  | none => 0

/-- Whether the save of a context holds its slots and groups where they are: it is Saving, or comes back to that from a hypervisor pool (R434,
R443). -/
def ctxHeld (s : State) (ctx : Nat) : Bool :=
  match tfind s.ctxs ctx with
  | some c => c.st == 5 || c.hyper.elim false (·.st == 5)
  | none => false

/-- A slot takes back the state before the stop, unless its context is Faulted (R94, R458). -/
def resumeSlot (s : State) (k : Nat) : State :=
  match (s.slot k).run with
  | .stopped was => if ctxState s (s.slot k).bind.ctx = 7 then s else s.onSlot k fun sl => { sl with run := was }
  | _ => s

/-- A stopped span resumes (R458). -/
def resumeSpan (cores : List Nat) (s : State) : State :=
  cores.foldl (fun s c =>
    (busySlots s c).foldl resumeSlot (s.onCore c fun x => { x with stopped := false, halting := none })) s

/-- Whether every core of a context's partition is stopped. -/
def partitionStopped (s : State) (ctx : Nat) : Bool :=
  !(partitionCores s ctx).isEmpty && (partitionCores s ctx).all fun c => (s.core c).stopped

/-- n bytes of a context's descriptor written by the C9, by physical address (R428). -/
def descPut (ctx off n v : Nat) (s : State) : State :=
  match tfind s.ctxs ctx with
  | some c => homePutNat (c.desc + off) n v s
  | none => s

/-- A doubleword of a context's descriptor. -/
def descGet (ctx off : Nat) (s : State) : Nat × State :=
  match tfind s.ctxs ctx with
  | some c => homeNat (c.desc + off) 8 s
  | none => (0, s)

/-- A new state code, in the C9 and in the descriptor (R428, R430). -/
def setCtxState (ctx code : Nat) (s : State) : State :=
  descPut ctx 79 1 code (s.onCtx ctx fun c => { c with st := code })

/-- The kernels of a context that are not Complete or Aborted. -/
def liveKernels (s : State) (ctx : Nat) : List Nat :=
  (s.kernels.filter fun e => e.2.ctx == ctx && e.2.st != .complete && e.2.st != .aborted).map (·.1)

/-- The command that runs in `ctxcmd`, for a context (R473): it ends with a status. -/
def endCommand (ctx op status : Nat) (s : State) : State :=
  let w := s.mreg 0x100
  if w.getLsbD 63 && slice w 55 48 == ctx && slice w 7 0 == op then s.setMreg 0x100 (setSlice w 63 56 status) else s

/-- A context faults (R431): FCAUSE, FCORE, FINFO and FPC are written, then STATE, and its partition stops, for an uncorrectable error with
the reason of R462; its kernels are aborted (R402), and a save or restore command for it ends (DEDUCED, log 43). A second fault is counted
in the error log (DESIGN CHOICE, log 14). -/
def contextFault (ctx cause core : Nat) (info epc : Word) (s : State) : State :=
  match tfind s.ctxs ctx with
  | none => s
  | some c =>
    if c.st = 0 || c.st = 7 then logError (if core < 4096 then dieOf core else 0) 3 0 (core % 2 ^ 16) s
    else
      let s := descPut ctx 80 8 (cause * 2 ^ 56 + core) s
      let s := descPut ctx 88 8 info.toNat s
      let s := descPut ctx 96 8 epc.toNat s
      let s := setCtxState ctx 7 (s.onCtx ctx fun c => { c with hyper := none })
      let s := endCommand ctx 3 1 (endCommand ctx 4 1 s)
      let s := stopPartition ctx (if cause = 0x1e then 4 else 3) core s
      (liveKernels s ctx).foldl (fun s k => s.post (evt .kernelAbort k cause 0)) s

end Sys2Proof.Machine
end

