-- ==== Sys2Proof/Machine/Ops.lean ====
section
/-! DEFINITION. Taking a trap and returning from it (R109, R113), and what every instruction does around its own effect:
the checks of R59, the hazards of R119 and R120, the loops of R150 and R151, and the switch marker (R45). -/

namespace Sys2Proof.Machine

/-- How an instruction's effect ends. -/
inductive Ending where
  /-- it completes and the next instruction follows -/
  | next
  /-- it completes and the instruction at t follows, unless a loop ends here (R149, R157) -/
  | after (t : Word)
  /-- a control transfer (R151) -/
  | jump (t : Word)
  /-- the pc takes a value that no loop rule sees (R113, R152) -/
  | goto (t : Word)
  /-- a trap with its cause and information (R109) -/
  | trap (cause : Nat) (info : Word)
  /-- the slot parks and issues the instruction again when the reason holds -/
  | wait (r : Reason)
  /-- the slot no longer stands at this instruction: the effect has set its state -/
  | gone
  /-- the slot has left its task, and may run another: a marked instruction parks it then (R45) -/
  | left
  /-- the access consumes data with an uncorrectable error at a physical address (R462) -/
  | bad (pa : Nat)
  /-- the model stops -/
  | stop (f : Fault)
  deriving DecidableEq, Repr

/-- The effect of an instruction of the slot `cur`. A trap leaves the state as the effect found it, but for what R40 and
R76 except. -/
abbrev Body := State → State × Ending

/-! ### Traps -/

/-- `prg` as a narrowing trap that a replay deferred leaves it (R76). -/
def Slot.trapPrg (sl : Slot) : Slot :=
  match sl.replay with
  | some r => if r.trap.map (·.1) = some 0x11 then sl.onSys fun y => { y with prg := r.prg } else sl
  | none => sl

/-- Entry of a trap with which the context faults, too: where the slot has a handler, the trap's registers are written first (R461, R462). -/
def enterFault (k cause : Nat) (info epc : Word) (s : State) : State :=
  let sl := s.slot k
  let s := if sl.th || sl.sys.tvec = 0#64 then s
    else s.setSlot k { sl.onSys (fun y => { y with cause := BitVec.ofNat 64 cause, epc := epc, tval := info,
                                                   st := setBit y.st stTH true }) with
                       pc := sl.sys.tvec, run := .running, phase := 0, keep := [], entered := 0, replay := none }
  contextFault sl.bind.ctx cause (coreOf k) info epc s

/-- Trap entry (R109): the cause, the address and the information are saved, TH is set and the pc goes to the handler; with
TH already set or no handler the context faults. A trap that a replay deferred is taken in its place; with a data error of the replay the context faults, too (R158, R462) (DEDUCED, log 21). -/
def enterTrap (k cause : Nat) (info epc : Word) (s : State) : State :=
  let sl := s.slot k
  let (cause, info) := (sl.replay.bind (·.trap)).getD (cause, info)
  if sl.replay.bind (·.trap) = some (0x1e, info) then enterFault k 0x1e info epc s else
  let sl := { sl.trapPrg with replay := none, run := .running, phase := 0, keep := [], entered := 0, traffic := { sl.traffic with xlat := [] } }
  if sl.th || sl.sys.tvec = 0#64 then
    match tfind s.ctxs sl.bind.ctx with
    | some _ => contextFault sl.bind.ctx cause (coreOf k) info epc (s.setSlot k sl)
    | none => s.setSlot k (stopSlot sl)
  else
    s.setSlot k { sl.onSys (fun y => { y with cause := BitVec.ofNat 64 cause, epc := epc, tval := info,
                                              st := setBit y.st stTH true }) with pc := sl.sys.tvec }

/-- A trap is raised: its entry waits until every long-latency result has been written (R109). -/
def raiseTrap (k cause : Nat) (info epc : Word) (s : State) : State :=
  if (s.slot k).quiet then enterTrap k cause info epc s
  else s.onSlot k fun sl => { sl with run := .parked (.trapEntry cause info epc) }

/-- A trap of a slot with which its context faults: its entry waits as any other does (R109, R124, R373). A slot that is not at work has no
entry, and its context faults at once. -/
def faultTrap (k cause : Nat) (info : Word) (s : State) : State :=
  let sl := s.slot k
  match sl.run with
  | .running | .parked _ =>
    if sl.quiet && !atHome s k then enterFault k cause info sl.pc s
    else s.onSlot k fun x => { x with run := .parked (.faultEntry cause info sl.pc) }
  | _ => contextFault sl.bind.ctx cause (coreOf k) info sl.pc s

/-- Slot k, or an engine for it, consumes data with an uncorrectable error at a physical address (R462). -/
def dataError (k pa : Nat) (s : State) : State := faultTrap k 0x1e (BitVec.ofNat 64 pa) s

/-- Whether a physical address lies in a line that its slice has pinned bad (R462). -/
def lineBad (s : State) (pa : Nat) : Bool := s.pinned.contains (pa / 64)

/-- The return from a trap (R113): where the pc goes, and TH cleared. -/
def leaveTrap (sl : Slot) : Word × Slot := (sl.sys.epc, sl.setSt stTH false)

/-! ### Loops (R148 to R151) -/

def Slot.loop (sl : Slot) (k : Bool) : Loop := if k then sl.sys.loop1 else sl.sys.loop0
def Slot.setLoop (sl : Slot) (k : Bool) (l : Loop) : Slot :=
  sl.onSys fun y => if k then { y with loop1 := l } else { y with loop0 := l }

/-- COUNT of a loop, and COUNT replaced. -/
def Loop.count (l : Loop) : Nat := slice l.lc 31 0
def Loop.withCount (l : Loop) (n : Nat) : Loop := { l with lc := setSlice l.lc 31 0 n }

/-- Whether loop k governs the slot (R148). -/
def governs (sl : Slot) (k : Bool) : Bool := (sl.loop k).count != 0 && (sl.loop k).lc.getLsbD 63 == sl.th

/-- The end-of-body rule for one loop: the slot, and where it goes if the loop goes on (R150). -/
def endOfBody1 (sl : Slot) (a : Word) (k : Bool) : Slot × Option Word :=
  let l := sl.loop k
  if governs sl k && a == l.le then
    if 1 < l.count then (sl.setLoop k (l.withCount (l.count - 1)), some l.ls)
    else (sl.setLoop k (l.withCount 0), none)
  else (sl, none)

/-- The end-of-body rule: loop 1, then loop 0; `next` follows if neither goes on (R150). -/
def endOfBody (sl : Slot) (a next : Word) : Slot :=
  match endOfBody1 sl a true with
  | (sl, some t) => { sl with pc := t }
  | (sl, none) =>
    match endOfBody1 sl a false with
    | (sl, some t) => { sl with pc := t }
    | (sl, none) => { sl with pc := next }

/-- The branch-out rule for one loop (R151). -/
def branchOut1 (t : Word) (k : Bool) (sl : Slot) : Slot :=
  let l := sl.loop k
  if governs sl k && (decide (t.toNat < l.ls.toNat) || decide (l.le.toNat < t.toNat)) then sl.setLoop k (l.withCount 0)
  else sl

/-- A control transfer to t (R151). -/
def branchOut (sl : Slot) (t : Word) : Slot := { branchOut1 t false (branchOut1 t true sl) with pc := t }

/-! ### Issue -/

/-- Whether the driver has accepted a feature (R62, R472). -/
def accepted (s : State) (n : Nat) : Bool := n == 0 || ((s.mreg 0x20).getLsbD n && (s.mreg 0).getLsbD n)

/-- The checks of orders 5 and 6, and the dynamic rounding mode of R63: the cause they raise. -/
def gateCause (i : Instr) (s : State) : Option Nat :=
  if !(featureGroups i).all (accepted s) then some 0x03
  else if privileged i && !s.me.sv then some 0x02
  else if roundingOf i == some .dyn && slice s.me.sys.mode 2 0 == 5 && !accepted s 15 then some 0x03
  else none

/-- The first register an instruction reads whose result is outstanding (R120) (DEDUCED, log 20). -/
def hazardOf (i : Instr) (sl : Slot) : Option RegId := (regsRead i).find? fun r => sl.owed.contains r

/-- What an instruction that waits for a replay meets: the wait, or the trap that the replay deferred to it (R157, R158). -/
def replayPoint (sl : Slot) : Option Ending :=
  match sl.replay with
  | some r => if r.ended then r.trap.map fun t => .trap t.1 t.2 else some (.wait .replay)
  | none => none

/-- The same for an instruction that has other checks first. -/
def Slot.replayed (sl : Slot) : Bool := (replayPoint sl).isSome
def replayEnding (sl : Slot) : Ending := (replayPoint sl).getD .next

/-- A trap or a wait that comes before the instruction's effect because of a replay or a hazard: the trap that an ended replay has
deferred (R158), else the hazard of a deterministic slot, whose register a running replay may owe (R120, R171, R172), else the wait of a
vector, tile or copy instruction for a running replay (R157). -/
def hazardEnding (i : Instr) (sl : Slot) : Option Ending :=
  let late := hazardOf i sl
  match (if !sl.replaying && (repLegal i || late.isSome) then replayPoint sl else none) with
  | some e => some e
  | none => match (if sl.det then late else none) with
    | some r => some (.trap 0x12 (BitVec.ofNat 64 (r.file * 32 + r.num)))
    | none => if repLegal i then replayPoint sl else none

/-- A slot parks on a reason; one whose effect has stopped it keeps the reason for its resumption (R94). -/
def Slot.park (sl : Slot) (r : Reason) : Slot :=
  match sl.run with
  | .stopped _ => { sl with run := .stopped (.parked r) }
  | _ => { sl with run := .parked r }

/-- What a slot keeps for a parked instruction is dropped when the instruction ends. -/
def Slot.settle (sl : Slot) : Slot := { sl with phase := 0, keep := [], entered := 0, traffic := { sl.traffic with xlat := [] } }

/-- Whether a pending timer cause may be taken: not in a handler (R109). -/
def Slot.timerDue (sl : Slot) : Bool := sl.tmrPend && !sl.th

/-- Whether the switch marker parks the slot: a result is outstanding, or a deferred trap waits (R45, R158). -/
def Slot.marks (sl : Slot) : Bool := !sl.quiet || sl.replay.isSome

/-- The instruction at a has completed: the end-of-body rule, at once or when the switch marker lets the slot continue. -/
def completeAt (a next : Word) (s : State) : State :=
  s.onMe fun sl =>
    let sl := sl.settle
    if s.mark && sl.marks then { sl.park (.marker (some a)) with pc := next } else endOfBody sl a next

/-- The outcome of an instruction at address a of len bytes, by how its effect ended. -/
def conclude (a : Word) (len : Nat) (r : State × Ending) : Host.Outcome State Fault Refusal :=
  let s := r.1
  match r.2 with
  | .next => .next (completeAt a (a + BitVec.ofNat 64 len) s)
  | .after t => .next (completeAt a t s)
  | .jump t => .next (s.onMe fun sl =>
      let sl := branchOut sl.settle t
      if s.mark && sl.marks then sl.park (.marker none) else sl)
  | .goto t => .next (s.onMe fun sl =>
      let sl := { sl.settle with pc := t }
      if s.mark && sl.marks then sl.park (.marker none) else sl)
  | .trap c v => .next (raiseTrap s.cur c v a s)
  | .wait w => .next (s.onMe (·.park w))
  | .gone => .next s
  | .left => .next (s.onMe fun sl => if s.mark && sl.run == .running && sl.marks then sl.park (.marker none) else sl)
  | .bad pa => .next (dataError s.cur pa s)
  | .stop f => .fault f

/-- The word of an instruction as a trap records it (R59). -/
def wordOf (i : Instr) (s : State) : Word := zext64 (encodeWord s.mark i)

/-- An instruction issues: the checks of R59 from order 5 on, hazards, its own effect, and what follows it. -/
def issue (i : Instr) (body : Body) (s : State) : Host.Outcome State Fault Refusal :=
  let a := s.me.pc
  conclude a i.len
    (match gateCause i s with
    | some c => (s, .trap c (wordOf i s))
    | none =>
      match hazardEnding i s.me with
      | some e => (s, e)
      | none => body s)

/-- An event: its effect is a change of state. -/
def event (f : State → State) (s : State) : Host.Outcome State Fault Refusal := .next (f s)

/-! ### Effects on registers alone -/

/-- An effect on the slot's own registers. -/
def onRegs (f : Slot → Slot) : Body := fun s => (s.onMe f, .next)

/-- A general register takes a value computed from the slot. -/
def setG (d : BitVec 5) (f : Slot → Word) : Body := onRegs fun sl => sl.wg d.toNat (f sl)

/-- A long-latency result whose value is known at issue: it returns with the event e (R45). -/
def later (e : Instr) (xs : List RegVal) (flags : BitVec 6) : Body := fun s =>
  let sl := s.me
  let id := sl.traffic.nextId
  let s := s.setMe (sl.addPend (xs.map RegVal.id) (.value xs flags))
  (s.post (evt e s.cur id 0), .next)

/-- A result that is written exactly n cycles after its issue (R123, R161) (DEDUCED, log 23). -/
def timedResult (fp : Bool) (n : Nat) (xs : List RegVal) (flags : BitVec 6) : Body := fun s =>
  let due := (s.core (coreOf s.cur)).cyc + BitVec.ofNat 64 n
  (s.setMe (s.me.addPend (xs.map RegVal.id) (.timed xs flags due fp)), .next)

/-- Whether a core's `cyc` has reached a value. -/
def reached (cyc due : Word) : Bool := decide ((cyc - due).toNat < 2 ^ 63)

/-- The value result of identity a of slot k returns: its registers take their values, its flags are set. -/
def returnValue (s : State) : State :=
  let k := s.arg.k
  match (s.slot k).findPend s.arg.a with
  | some p => match p.kind with
    | .value xs f => s.onSlot k fun sl => (sl.raise f).deliver s.arg.a xs
    | .loaded xs => s.onSlot k fun sl => sl.deliver s.arg.a xs
    | .timed xs f due _ =>
      if reached (s.core (coreOf k)).cyc due then s.onSlot k fun sl => (sl.raise f).deliver s.arg.a xs else s
    | _ => s
  | none => s

end Sys2Proof.Machine
end

