-- ==== Sys2Proof/Machine/Control.lean ====
section
/-! DEFINITION. Branches and jumps (07_control_fp R141 to R146). -/

namespace Sys2Proof.Machine

/-- A branch to pc + 2·sext(off) if a condition holds (R47, R143). -/
def branchIf {n : Nat} (p : Slot → Bool) (o : BitVec n) : Body := fun s =>
  (s, if p s.me then .jump (s.me.pc + 2 * sext64 o) else .next)

/-- JLR and JR: an odd target traps (R146). -/
def jumpReg (i : BitVec 14) (a : BitVec 5) (link : Slot → Slot) : Body := fun s =>
  let t := s.me.rg a.toNat + sext64 i
  if t.getLsbD 0 then (s, .trap 0x08 t) else (s.onMe link, .jump t)

/-- BCC (R143). -/
def execBcc (o : BitVec 11) (b a : BitVec 5) (c : BCond) (s : State) : Host.Outcome State Fault Refusal :=
  issue (.bcc o b a c) (branchIf (fun sl => branchTaken c (sl.rg a.toNat) (sl.rg b.toNat)) o) s

/-- BP (R144). -/
def execBp (o : BitVec 11) (n : Bool) (j : BitVec 4) (k : BitVec 3) (s : State) : Host.Outcome State Fault Refusal :=
  issue (.bp o n j k) (branchIf (fun sl => (sl.rp k.toNat).getLsbD j.toNat == n) o) s

/-- J (R145). -/
def execJ (o : BitVec 23) (s : State) : Host.Outcome State Fault Refusal :=
  issue (.j o) (fun s => (s, .jump (s.me.pc + 2 * sext64 o))) s

/-- JL (R145). -/
def execJl (o : BitVec 23) (s : State) : Host.Outcome State Fault Refusal :=
  issue (.jl o) (fun s => (s.onMe fun sl => sl.wg 1 (sl.pc + 4), .jump (s.me.pc + 2 * sext64 o))) s

/-- JLR (R146). -/
def execJlr (i : BitVec 14) (a d : BitVec 5) (s : State) : Host.Outcome State Fault Refusal :=
  issue (.jlr i a d) (jumpReg i a fun sl => sl.wg d.toNat (sl.pc + 4)) s

/-- JR (R146). -/
def execJr (i : BitVec 14) (a : BitVec 5) (s : State) : Host.Outcome State Fault Refusal :=
  issue (.jr i a) (jumpReg i a id) s

/-- C_B (R52). -/
def execCB (o : BitVec 10) (s : State) : Host.Outcome State Fault Refusal :=
  issue (.cB o) (fun s => (s, .jump (s.me.pc + 2 * sext64 o))) s

/-- C_BNZ: 1 to 32 parcels ahead (R52). -/
def execCBnz (i d : BitVec 5) (s : State) : Host.Outcome State Fault Refusal :=
  issue (.cBnz i d) (branchIf (fun sl => sl.rg d.toNat != 0#64) (i.setWidth 7 + 1)) s

end Sys2Proof.Machine
end

