-- ==== Sys2Proof/Machine/Integer.lean ====
section
/-! DEFINITION. The integer instructions (06_integer) and their 16-bit forms. -/

namespace Sys2Proof.Machine

/-- An operation on two signed sources, 32 or 64 bits wide (R121, R125). -/
def signed2 (w : Bool) (b a d : BitVec 5) (f : Int → Int → Int) : Body :=
  setG d fun sl => resInt w (f (srcInt w (sl.rg a.toNat)) (srcInt w (sl.rg b.toNat)))

/-- An operation on two unsigned sources. -/
def unsigned2 (w : Bool) (b a d : BitVec 5) (f : Nat → Nat → Nat) : Body :=
  setG d fun sl => resInt w (f (srcNat w (sl.rg a.toNat)) (srcNat w (sl.rg b.toNat)) : Nat)

/-- A bitwise operation on two sources (R129). -/
def bits2 (b a d : BitVec 5) (f : Word → Word → Word) : Body :=
  setG d fun sl => f (sl.rg a.toNat) (sl.rg b.toNat)

/-- An operation on two predicates (R137). -/
def preds2 (b a d : BitVec 3) (f : BitVec 16 → BitVec 16 → BitVec 16) : Body :=
  onRegs fun sl => sl.wp d.toNat (f (sl.rp a.toNat) (sl.rp b.toNat))

/-- A division: a zero divisor traps; the result is written 40 cycles after issue, or 24 (R123, R127). -/
def divide (w : Bool) (b a d : BitVec 5) (f : Word → Word → Word) : Body := fun s =>
  if srcNat w (s.me.rg b.toNat) = 0 then (s, .trap 0x10 0)
  else timedResult false (if w then 24 else 40) [.g d.toNat (f (s.me.rg a.toNat) (s.me.rg b.toNat))] 0 s

/-- The outcome of a compare in a predicate, bits 15:1 cleared, or in a general register (R135). -/
def Slot.wcond (sl : Slot) (k : Bool) (d : Nat) (r : Bool) : Slot :=
  if k then sl.wg d (bool64 r) else sl.wp d (if r then 1#16 else 0#16)

/-- ADD (R125). -/
def execAdd (w : Bool) (b a d : BitVec 5) (s : State) : Host.Outcome State Fault Refusal :=
  issue (.add w b a d) (signed2 w b a d fun n m => n + m) s

/-- SUB (R125). -/
def execSub (w : Bool) (b a d : BitVec 5) (s : State) : Host.Outcome State Fault Refusal :=
  issue (.sub w b a d) (signed2 w b a d fun n m => n - m) s

/-- MUL (R125). -/
def execMul (w : Bool) (b a d : BitVec 5) (s : State) : Host.Outcome State Fault Refusal :=
  issue (.mul w b a d) (signed2 w b a d fun n m => n * m) s

/-- MULH (R126). -/
def execMulh (b a d : BitVec 5) (s : State) : Host.Outcome State Fault Refusal :=
  issue (.mulh b a d) (setG d fun sl => mulHigh (sl.rg a.toNat) (sl.rg b.toNat)) s

/-- MULHU (R126). -/
def execMulhu (b a d : BitVec 5) (s : State) : Host.Outcome State Fault Refusal :=
  issue (.mulhu b a d) (setG d fun sl => mulHighU (sl.rg a.toNat) (sl.rg b.toNat)) s

/-- DIV (R127). -/
def execDiv (w : Bool) (b a d : BitVec 5) (s : State) : Host.Outcome State Fault Refusal :=
  issue (.div w b a d) (divide w b a d (divS w)) s

/-- DIVU (R127). -/
def execDivu (w : Bool) (b a d : BitVec 5) (s : State) : Host.Outcome State Fault Refusal :=
  issue (.divu w b a d) (divide w b a d (divU w)) s

/-- REM (R127). -/
def execRem (w : Bool) (b a d : BitVec 5) (s : State) : Host.Outcome State Fault Refusal :=
  issue (.rem w b a d) (divide w b a d (remS w)) s

/-- REMU (R127). -/
def execRemu (w : Bool) (b a d : BitVec 5) (s : State) : Host.Outcome State Fault Refusal :=
  issue (.remu w b a d) (divide w b a d (remU w)) s

/-- MIN (R125). -/
def execMin (w : Bool) (b a d : BitVec 5) (s : State) : Host.Outcome State Fault Refusal :=
  issue (.min w b a d) (signed2 w b a d fun n m => if m < n then m else n) s

/-- MAX (R125). -/
def execMax (w : Bool) (b a d : BitVec 5) (s : State) : Host.Outcome State Fault Refusal :=
  issue (.max w b a d) (signed2 w b a d fun n m => if n < m then m else n) s

/-- MINU (R125). -/
def execMinu (w : Bool) (b a d : BitVec 5) (s : State) : Host.Outcome State Fault Refusal :=
  issue (.minu w b a d) (unsigned2 w b a d Nat.min) s

/-- MAXU (R125). -/
def execMaxu (w : Bool) (b a d : BitVec 5) (s : State) : Host.Outcome State Fault Refusal :=
  issue (.maxu w b a d) (unsigned2 w b a d Nat.max) s

/-- LEA (R128). -/
def execLea (c : BitVec 2) (b a d : BitVec 5) (s : State) : Host.Outcome State Fault Refusal :=
  issue (.lea c b a d) (setG d fun sl => sl.rg a.toNat + sl.rg b.toNat <<< c.toNat) s

/-- AND (R129). -/
def execAnd (b a d : BitVec 5) (s : State) : Host.Outcome State Fault Refusal :=
  issue (.and b a d) (bits2 b a d fun x y => x &&& y) s

/-- OR (R129). -/
def execOr (b a d : BitVec 5) (s : State) : Host.Outcome State Fault Refusal :=
  issue (.or b a d) (bits2 b a d fun x y => x ||| y) s

/-- XOR (R129). -/
def execXor (b a d : BitVec 5) (s : State) : Host.Outcome State Fault Refusal :=
  issue (.xor b a d) (bits2 b a d fun x y => x ^^^ y) s

/-- ANDN (R129). -/
def execAndn (b a d : BitVec 5) (s : State) : Host.Outcome State Fault Refusal :=
  issue (.andn b a d) (bits2 b a d fun x y => x &&& ~~~y) s

/-- ORN (R129). -/
def execOrn (b a d : BitVec 5) (s : State) : Host.Outcome State Fault Refusal :=
  issue (.orn b a d) (bits2 b a d fun x y => x ||| ~~~y) s

/-- SLL (R129). -/
def execSll (w : Bool) (b a d : BitVec 5) (s : State) : Host.Outcome State Fault Refusal :=
  issue (.sll w b a d) (setG d fun sl => shiftVal64 .sll w (sl.rg a.toNat) (shiftAmount w (sl.rg b.toNat))) s

/-- SRL (R129). -/
def execSrl (w : Bool) (b a d : BitVec 5) (s : State) : Host.Outcome State Fault Refusal :=
  issue (.srl w b a d) (setG d fun sl => shiftVal64 .srl w (sl.rg a.toNat) (shiftAmount w (sl.rg b.toNat))) s

/-- SRA (R129). -/
def execSra (w : Bool) (b a d : BitVec 5) (s : State) : Host.Outcome State Fault Refusal :=
  issue (.sra w b a d) (setG d fun sl => shiftVal64 .sra w (sl.rg a.toNat) (shiftAmount w (sl.rg b.toNat))) s

/-- ROT (R129). -/
def execRot (w : Bool) (b a d : BitVec 5) (s : State) : Host.Outcome State Fault Refusal :=
  issue (.rot w b a d) (setG d fun sl => shiftVal64 .rot w (sl.rg a.toNat) (shiftAmount w (sl.rg b.toNat))) s

/-- CLZ (R129). -/
def execClz (w : Bool) (a d : BitVec 5) (s : State) : Host.Outcome State Fault Refusal :=
  issue (.clz w a d) (setG d fun sl => clzVal w (sl.rg a.toNat)) s

/-- CTZ (R129). -/
def execCtz (w : Bool) (a d : BitVec 5) (s : State) : Host.Outcome State Fault Refusal :=
  issue (.ctz w a d) (setG d fun sl => ctzVal w (sl.rg a.toNat)) s

/-- POPC (R129). -/
def execPopc (w : Bool) (a d : BitVec 5) (s : State) : Host.Outcome State Fault Refusal :=
  issue (.popc w a d) (setG d fun sl => popcVal w (sl.rg a.toNat)) s

/-- BSWAP (R129). -/
def execBswap (a d : BitVec 5) (s : State) : Host.Outcome State Fault Refusal :=
  issue (.bswap a d) (setG d fun sl => bswapVal (sl.rg a.toNat)) s

/-- SEXT (R129). -/
def execSext (n : ExtW) (a d : BitVec 5) (s : State) : Host.Outcome State Fault Refusal :=
  issue (.sext n a d) (setG d fun sl => sextVal n (sl.rg a.toNat)) s

/-- ZEXT (R129). -/
def execZext (n : ExtW) (a d : BitVec 5) (s : State) : Host.Outcome State Fault Refusal :=
  issue (.zext n a d) (setG d fun sl => zextVal n (sl.rg a.toNat)) s

/-- ADDI (R130). -/
def execAddi (i : BitVec 14) (a d : BitVec 5) (s : State) : Host.Outcome State Fault Refusal :=
  issue (.addi i a d) (setG d fun sl => sl.rg a.toNat + sext64 i) s

/-- ANDI (R130). -/
def execAndi (i : BitVec 14) (a d : BitVec 5) (s : State) : Host.Outcome State Fault Refusal :=
  issue (.andi i a d) (setG d fun sl => sl.rg a.toNat &&& sext64 i) s

/-- ORI (R130). -/
def execOri (i : BitVec 14) (a d : BitVec 5) (s : State) : Host.Outcome State Fault Refusal :=
  issue (.ori i a d) (setG d fun sl => sl.rg a.toNat ||| sext64 i) s

/-- XORI (R130). -/
def execXori (i : BitVec 14) (a d : BitVec 5) (s : State) : Host.Outcome State Fault Refusal :=
  issue (.xori i a d) (setG d fun sl => sl.rg a.toNat ^^^ sext64 i) s

/-- SLLI (R131). -/
def execSlli (w : Bool) (n : BitVec 6) (a d : BitVec 5) (s : State) : Host.Outcome State Fault Refusal :=
  issue (.slli w n a d) (setG d fun sl => shiftVal64 .sll w (sl.rg a.toNat) n.toNat) s

/-- SRLI (R131). -/
def execSrli (w : Bool) (n : BitVec 6) (a d : BitVec 5) (s : State) : Host.Outcome State Fault Refusal :=
  issue (.srli w n a d) (setG d fun sl => shiftVal64 .srl w (sl.rg a.toNat) n.toNat) s

/-- SRAI (R131). -/
def execSrai (w : Bool) (n : BitVec 6) (a d : BitVec 5) (s : State) : Host.Outcome State Fault Refusal :=
  issue (.srai w n a d) (setG d fun sl => shiftVal64 .sra w (sl.rg a.toNat) n.toNat) s

/-- ROTI (R131). -/
def execRoti (w : Bool) (n : BitVec 6) (a d : BitVec 5) (s : State) : Host.Outcome State Fault Refusal :=
  issue (.roti w n a d) (setG d fun sl => shiftVal64 .rot w (sl.rg a.toNat) n.toNat) s

/-- LUI (R133). -/
def execLui (i : BitVec 19) (d : BitVec 5) (s : State) : Host.Outcome State Fault Refusal :=
  issue (.lui i d) (setG d fun _ => sext64 (i ++ 0#13)) s

/-- AUIPC (R134). -/
def execAuipc (i : BitVec 19) (d : BitVec 5) (s : State) : Host.Outcome State Fault Refusal :=
  issue (.auipc i d) (setG d fun sl => sl.pc + sext64 i) s

/-- BFX (R132). -/
def execBfx (l n : BitVec 6) (a d : BitVec 5) (s : State) : Host.Outcome State Fault Refusal :=
  issue (.bfx l n a d) (setG d fun sl => bfxVal l n (sl.rg a.toNat)) s

/-- BFXU (R132). -/
def execBfxu (l n : BitVec 6) (a d : BitVec 5) (s : State) : Host.Outcome State Fault Refusal :=
  issue (.bfxu l n a d) (setG d fun sl => bfxuVal l n (sl.rg a.toNat)) s

/-- BFI (R132). -/
def execBfi (l n : BitVec 6) (a d : BitVec 5) (s : State) : Host.Outcome State Fault Refusal :=
  issue (.bfi l n a d) (setG d fun sl => bfiVal l n (sl.rg a.toNat) (sl.rg d.toNat)) s

/-- PCMP (R135). -/
def execPcmp (w k : Bool) (c : Cond) (b a d : BitVec 5) (s : State) : Host.Outcome State Fault Refusal :=
  issue (.pcmp w k c b a d) (onRegs fun sl => sl.wcond k d.toNat (intCompare c w (sl.rg a.toNat) (sl.rg b.toNat))) s

/-- PCMPI (R136). -/
def execPcmpi (c : Cond) (i : BitVec 10) (a : BitVec 5) (d : BitVec 3) (s : State) : Host.Outcome State Fault Refusal :=
  issue (.pcmpi c i a d) (onRegs fun sl => sl.wcond false d.toNat (intCompare c false (sl.rg a.toNat) (sext64 i))) s

/-- PAND (R137). -/
def execPand (b a d : BitVec 3) (s : State) : Host.Outcome State Fault Refusal :=
  issue (.pand b a d) (preds2 b a d fun x y => x &&& y) s

/-- POR (R137). -/
def execPor (b a d : BitVec 3) (s : State) : Host.Outcome State Fault Refusal :=
  issue (.por b a d) (preds2 b a d fun x y => x ||| y) s

/-- PXOR (R137). -/
def execPxor (b a d : BitVec 3) (s : State) : Host.Outcome State Fault Refusal :=
  issue (.pxor b a d) (preds2 b a d fun x y => x ^^^ y) s

/-- PNOT (R137). -/
def execPnot (a d : BitVec 3) (s : State) : Host.Outcome State Fault Refusal :=
  issue (.pnot a d) (onRegs fun sl => sl.wp d.toNat (~~~sl.rp a.toNat)) s

/-- SEL (R138). -/
def execSel (k : BitVec 3) (b a d : BitVec 5) (s : State) : Host.Outcome State Fault Refusal :=
  issue (.sel k b a d) (setG d fun sl => if (sl.rp k.toNat).getLsbD 0 then sl.rg a.toNat else sl.rg b.toNat) s

/-- MIX (R139). -/
def execMix (b a d : BitVec 5) (s : State) : Host.Outcome State Fault Refusal :=
  issue (.mix b a d) (setG d fun sl => mix64 (sl.rg a.toNat) (sl.rg b.toNat)) s

/-- C_MV (R52). -/
def execCMv (b d : BitVec 5) (s : State) : Host.Outcome State Fault Refusal :=
  issue (.cMv b d) (setG d fun sl => sl.rg b.toNat) s

/-- C_ADD (R52). -/
def execCAdd (b d : BitVec 5) (s : State) : Host.Outcome State Fault Refusal :=
  issue (.cAdd b d) (setG d fun sl => sl.rg d.toNat + sl.rg b.toNat) s

/-- C_SUB (R52). -/
def execCSub (b d : BitVec 5) (s : State) : Host.Outcome State Fault Refusal :=
  issue (.cSub b d) (setG d fun sl => sl.rg d.toNat - sl.rg b.toNat) s

/-- C_ADDI (R52). -/
def execCAddi (i d : BitVec 5) (s : State) : Host.Outcome State Fault Refusal :=
  issue (.cAddi i d) (setG d fun sl => sl.rg d.toNat + sext64 i) s

/-- C_LI (R52). -/
def execCLi (i d : BitVec 5) (s : State) : Host.Outcome State Fault Refusal :=
  issue (.cLi i d) (setG d fun _ => sext64 i) s

/-- C_AND (R52). -/
def execCAnd (b d : BitVec 5) (s : State) : Host.Outcome State Fault Refusal :=
  issue (.cAnd b d) (setG d fun sl => sl.rg d.toNat &&& sl.rg b.toNat) s

/-- C_OR (R52). -/
def execCOr (b d : BitVec 5) (s : State) : Host.Outcome State Fault Refusal :=
  issue (.cOr b d) (setG d fun sl => sl.rg d.toNat ||| sl.rg b.toNat) s

/-- C_SLLI (R52). -/
def execCSlli (i d : BitVec 5) (s : State) : Host.Outcome State Fault Refusal :=
  issue (.cSlli i d) (setG d fun sl => sl.rg d.toNat <<< i.toNat) s

/-- DIVIDE_RESULT (R123). -/
def execDivideResult (s : State) : Host.Outcome State Fault Refusal := event returnValue s

end Sys2Proof.Machine
end

