-- ==== Sys2Proof/Machine/Flags.lean ====
section
/-! DEFINITION. Rounding modes, sticky flags, stochastic-rounding draws and the narrowing trap, as every floating-point
instruction takes them from its slot and gives them back (R72, R73, R76, R78). -/

namespace Sys2Proof.Machine

/-- The rounding mode that an instruction uses: code 7 reads `mode` (R63, R72). -/
def modeOf (r : Rm) (sl : Slot) : Nat :=
  match r with
  | .rne => 0
  | .rtz => 1
  | .rup => 2
  | .rdn => 3
  | .rna => 4
  | .sr => 5
  | .dyn => slice sl.sys.mode 2 0

/-- What an instruction's roundings start from: its mode, the narrowing policy, the key and counter; no flag yet. -/
def fpuOf (r : Rm) (sl : Slot) : Fpu := ⟨modeOf r sl, sl.sys.mode.getLsbD 3, sl.sys.rnk, sl.sys.rnc, 0, none⟩

/-- Flags and the counter put back into the slot (R73, R78). -/
def Slot.absorb (sl : Slot) (c : Fpu) : Slot := (sl.raise c.flags).onSys fun y => { y with rnc := c.rnc }

/-- The progress register after a narrowing trap at element i of an instruction that is not a macro (R76). -/
def narrowPrg (prg : Word) (i : Nat) : Word := setSlice (setSlice prg 31 0 i) 63 56 0

/-- An effect that rounds: its register values and flags, or a narrowing trap, which changes only `prg` (R76). -/
def fpBody (r : Rm) (f : Slot → Fpu → List RegVal × Fpu) : Body := fun s =>
  let (xs, c) := f s.me (fpuOf r s.me)
  match c.trapAt with
  | some i => (s.onMe (·.onSys fun y => { y with prg := narrowPrg y.prg i }), .trap 0x11 (BitVec.ofNat 64 i))
  | none => (s.onMe fun sl => (xs.foldl Slot.wr sl).absorb c, .next)

/-- The same with a long-latency result: the draws happen at issue, and the flags at issue or, with a latency given, with the result
(R45, R161). -/
def fpLater (r : Rm) (latency : Option Nat) (f : Slot → Fpu → List RegVal × Fpu) : Body := fun s =>
  let (xs, c) := f s.me (fpuOf r s.me)
  match c.trapAt with
  | some i => (s.onMe (·.onSys fun y => { y with prg := narrowPrg y.prg i }), .trap 0x11 (BitVec.ofNat 64 i))
  | none =>
    match latency with
    | some n => timedResult true n xs c.flags (s.onMe fun sl => sl.onSys fun y => { y with rnc := c.rnc })
    | none => later .loadDataReturn xs 0 (s.onMe fun sl => sl.absorb c)

end Sys2Proof.Machine
end

