-- ==== Sys2Proof/Machine/ScalarFp.lean ====
section
/-! DEFINITION. Scalar floating point (07_control_fp R159 to R168). -/

namespace Sys2Proof.Machine

/-- FP32 or FP64 by the type bit. -/
def fpType (t : Bool) : FloatFmt := if t then fp64 else fp32

/-- The code that a general register holds: bits 31:0 for FP32 (R159). -/
def fpBits (f : FloatFmt) (x : Word) : Nat := x.toNat % 2 ^ f.bits

/-- An operation on two codes; an FP32 result is zero-extended (R159). -/
def fp2 (f : FloatFmt) (b a d : BitVec 5) (sl : Slot) (op : Nat → Nat → Nat × Fpu) : List RegVal × Fpu :=
  let (x, c) := op (fpBits f (sl.rg a.toNat)) (fpBits f (sl.rg b.toNat))
  ([.g d.toNat (BitVec.ofNat 64 x)], c)

/-- The exponent and mantissa of a with a sign made from both signs (R165). -/
def newSign (f : FloatFmt) (b a d : BitVec 5) (g : Bool → Bool → Bool) : Body :=
  setG d fun sl =>
    let x := fpBits f (sl.rg a.toNat); let y := fpBits f (sl.rg b.toNat)
    let h := 2 ^ (f.bits - 1)
    BitVec.ofNat 64 (x % h + if g (decide (h ≤ x)) (decide (h ≤ y)) then h else 0)

/-- FADD_S (R162). -/
def execFaddS (r : Rm) (b a d : BitVec 5) (s : State) : Host.Outcome State Fault Refusal :=
  issue (.faddS r b a d) (fpBody r fun sl c => fp2 fp32 b a d sl fun x y => fpOp fp32 .add x y 0 c) s

/-- FSUB_S (R162). -/
def execFsubS (r : Rm) (b a d : BitVec 5) (s : State) : Host.Outcome State Fault Refusal :=
  issue (.fsubS r b a d) (fpBody r fun sl c => fp2 fp32 b a d sl fun x y => fpOp fp32 .sub x y 0 c) s

/-- FMUL_S (R162). -/
def execFmulS (r : Rm) (b a d : BitVec 5) (s : State) : Host.Outcome State Fault Refusal :=
  issue (.fmulS r b a d) (fpBody r fun sl c => fp2 fp32 b a d sl fun x y => fpOp fp32 .mul x y 0 c) s

/-- FDIV_S (R162). -/
def execFdivS (r : Rm) (b a d : BitVec 5) (s : State) : Host.Outcome State Fault Refusal :=
  issue (.fdivS r b a d) (fpLater r (some 16) fun sl c => fp2 fp32 b a d sl fun x y => fpDiv fp32 x y c) s

/-- FSQRT_S (R162). -/
def execFsqrtS (r : Rm) (a d : BitVec 5) (s : State) : Host.Outcome State Fault Refusal :=
  issue (.fsqrtS r a d) (fpLater r (some 16) fun sl c => fp2 fp32 a a d sl fun x _ => fpSqrt fp32 x c) s

/-- FMIN_S (R164). -/
def execFminS (b a d : BitVec 5) (s : State) : Host.Outcome State Fault Refusal :=
  issue (.fminS b a d) (fpBody .rne fun sl c => fp2 fp32 b a d sl fun x y => minMax fp32 false x y c) s

/-- FMAX_S (R164). -/
def execFmaxS (b a d : BitVec 5) (s : State) : Host.Outcome State Fault Refusal :=
  issue (.fmaxS b a d) (fpBody .rne fun sl c => fp2 fp32 b a d sl fun x y => minMax fp32 true x y c) s

/-- FSGN_S (R165). -/
def execFsgnS (b a d : BitVec 5) (s : State) : Host.Outcome State Fault Refusal :=
  issue (.fsgnS b a d) (newSign fp32 b a d fun _ y => y) s

/-- FSGNN_S (R165). -/
def execFsgnnS (b a d : BitVec 5) (s : State) : Host.Outcome State Fault Refusal :=
  issue (.fsgnnS b a d) (newSign fp32 b a d fun _ y => !y) s

/-- FSGNX_S (R165). -/
def execFsgnxS (b a d : BitVec 5) (s : State) : Host.Outcome State Fault Refusal :=
  issue (.fsgnxS b a d) (newSign fp32 b a d fun x y => x != y) s

/-- FCLASS_S (R166). -/
def execFclassS (a d : BitVec 5) (s : State) : Host.Outcome State Fault Refusal :=
  issue (.fclassS a d) (setG d fun sl => BitVec.ofNat 64 (2 ^ classBit fp32 (fpBits fp32 (sl.rg a.toNat)))) s

/-- FADD_D (R162). -/
def execFaddD (r : Rm) (b a d : BitVec 5) (s : State) : Host.Outcome State Fault Refusal :=
  issue (.faddD r b a d) (fpBody r fun sl c => fp2 fp64 b a d sl fun x y => fpOp fp64 .add x y 0 c) s

/-- FSUB_D (R162). -/
def execFsubD (r : Rm) (b a d : BitVec 5) (s : State) : Host.Outcome State Fault Refusal :=
  issue (.fsubD r b a d) (fpBody r fun sl c => fp2 fp64 b a d sl fun x y => fpOp fp64 .sub x y 0 c) s

/-- FMUL_D (R162). -/
def execFmulD (r : Rm) (b a d : BitVec 5) (s : State) : Host.Outcome State Fault Refusal :=
  issue (.fmulD r b a d) (fpBody r fun sl c => fp2 fp64 b a d sl fun x y => fpOp fp64 .mul x y 0 c) s

/-- FDIV_D (R162). -/
def execFdivD (r : Rm) (b a d : BitVec 5) (s : State) : Host.Outcome State Fault Refusal :=
  issue (.fdivD r b a d) (fpLater r (some 30) fun sl c => fp2 fp64 b a d sl fun x y => fpDiv fp64 x y c) s

/-- FSQRT_D (R162). -/
def execFsqrtD (r : Rm) (a d : BitVec 5) (s : State) : Host.Outcome State Fault Refusal :=
  issue (.fsqrtD r a d) (fpLater r (some 30) fun sl c => fp2 fp64 a a d sl fun x _ => fpSqrt fp64 x c) s

/-- FMIN_D (R164). -/
def execFminD (b a d : BitVec 5) (s : State) : Host.Outcome State Fault Refusal :=
  issue (.fminD b a d) (fpBody .rne fun sl c => fp2 fp64 b a d sl fun x y => minMax fp64 false x y c) s

/-- FMAX_D (R164). -/
def execFmaxD (b a d : BitVec 5) (s : State) : Host.Outcome State Fault Refusal :=
  issue (.fmaxD b a d) (fpBody .rne fun sl c => fp2 fp64 b a d sl fun x y => minMax fp64 true x y c) s

/-- FSGN_D (R165). -/
def execFsgnD (b a d : BitVec 5) (s : State) : Host.Outcome State Fault Refusal :=
  issue (.fsgnD b a d) (newSign fp64 b a d fun _ y => y) s

/-- FSGNN_D (R165). -/
def execFsgnnD (b a d : BitVec 5) (s : State) : Host.Outcome State Fault Refusal :=
  issue (.fsgnnD b a d) (newSign fp64 b a d fun _ y => !y) s

/-- FSGNX_D (R165). -/
def execFsgnxD (b a d : BitVec 5) (s : State) : Host.Outcome State Fault Refusal :=
  issue (.fsgnxD b a d) (newSign fp64 b a d fun x y => x != y) s

/-- FCLASS_D (R166). -/
def execFclassD (a d : BitVec 5) (s : State) : Host.Outcome State Fault Refusal :=
  issue (.fclassD a d) (setG d fun sl => BitVec.ofNat 64 (2 ^ classBit fp64 (fpBits fp64 (sl.rg a.toNat)))) s

/-- FFMA (R167). -/
def execFfma (t : Bool) (r : Rm) (b a d : BitVec 5) (s : State) : Host.Outcome State Fault Refusal :=
  issue (.ffma t r b a d) (fpBody r fun sl c => fp2 (fpType t) b a d sl fun x y => fpOp (fpType t) .fma x y (fpBits (fpType t) (sl.rg d.toNat)) c) s

/-- FFMS (R167). -/
def execFfms (t : Bool) (r : Rm) (b a d : BitVec 5) (s : State) : Host.Outcome State Fault Refusal :=
  issue (.ffms t r b a d) (fpBody r fun sl c => fp2 (fpType t) b a d sl fun x y => fpOp (fpType t) .fms x y (fpBits (fpType t) (sl.rg d.toNat)) c) s

/-- FCMP (R168). -/
def execFcmp (t k : Bool) (c : Cond) (b a d : BitVec 5) (s : State) : Host.Outcome State Fault Refusal :=
  issue (.fcmp t k c b a d) (fun s => let (x, f) := fpCompare (fpType t) c (fpBits (fpType t) (s.me.rg a.toNat)) (fpBits (fpType t) (s.me.rg b.toNat)) (fpuOf .rne s.me)
    (s.onMe fun sl => (sl.wcond k d.toNat x).absorb f, .next)) s

/-- FDIV_FSQRT_RESULT (R161). -/
def execFdivFsqrtResult (s : State) : Host.Outcome State Fault Refusal := event returnValue s

end Sys2Proof.Machine
end

