-- ==== Sys2Proof/Machine/Shake.lean ====
section
/-! DEFINITION. The first bytes of a SHAKE256 digest, for the signature of a rectangle (R392): the sponge of 1,600 bits with a rate of
136 bytes, as the standard that the rule names defines it. -/

namespace Sys2Proof.Machine

/-- Twenty-five lanes of the sponge, lane x + 5 y. -/
abbrev Sponge := Vector (BitVec 64) 25

def Sponge.lane (a : Sponge) (i : Nat) : BitVec 64 := a[i]?.getD 0

/-- The rotation of each lane. -/
def spongeRot : List Nat :=
  [0, 1, 62, 28, 27, 36, 44, 6, 55, 20, 3, 10, 43, 25, 39, 41, 45, 15, 21, 8, 18, 2, 61, 56, 14]

/-- The constant of each round. -/
def spongeConst : List (BitVec 64) :=
  [0x0000000000000001, 0x0000000000008082, 0x800000000000808a, 0x8000000080008000, 0x000000000000808b, 0x0000000080000001,
   0x8000000080008081, 0x8000000000008009, 0x000000000000008a, 0x0000000000000088, 0x0000000080008009, 0x000000008000000a,
   0x000000008000808b, 0x800000000000008b, 0x8000000000008089, 0x8000000000008003, 0x8000000000008002, 0x8000000000000080,
   0x000000000000800a, 0x800000008000000a, 0x8000000080008081, 0x8000000000008080, 0x0000000080000001, 0x8000000080008008]

/-- One round. -/
def spongeRound (a : Sponge) (rc : BitVec 64) : Sponge :=
  let c := (upTo 5).map fun x => a.lane x ^^^ a.lane (x + 5) ^^^ a.lane (x + 10) ^^^ a.lane (x + 15) ^^^ a.lane (x + 20)
  let d := fun (x : Nat) => c.getD ((x + 4) % 5) 0 ^^^ (c.getD ((x + 1) % 5) 0).rotateLeft 1
  let t : Sponge := Vector.ofFn fun (i : Fin 25) => a.lane i.val ^^^ d (i.val % 5)
  let b : Sponge := Vector.ofFn fun (i : Fin 25) =>
    let (x, y) := (i.val % 5, i.val / 5)
    let j := (x + 3 * y) % 5 + 5 * x
    (t.lane j).rotateLeft (spongeRot.getD j 0)
  let e : Sponge := Vector.ofFn fun (i : Fin 25) =>
    let (x, y) := (i.val % 5, i.val / 5)
    b.lane i.val ^^^ (~~~(b.lane ((x + 1) % 5 + 5 * y)) &&& b.lane ((x + 2) % 5 + 5 * y))
  Vector.ofFn fun (i : Fin 25) => if i.val = 0 then e.lane 0 ^^^ rc else e.lane i.val

def spongePermute (a : Sponge) : Sponge := spongeConst.foldl spongeRound a

/-- One block of 136 bytes absorbed. -/
def spongeAbsorb (a : Sponge) (bs : List (BitVec 8)) : Sponge :=
  spongePermute (Vector.ofFn fun (i : Fin 25) =>
    a.lane i.val ^^^ (if i.val < 17 then BitVec.ofNat 64 (ofBytesLE ((bs.drop (8 * i.val)).take 8)) else 0))

/-- The message with its padding. -/
def spongePad (bs : List (BitVec 8)) : List (BitVec 8) :=
  let n := 136 - bs.length % 136
  if n = 1 then bs ++ [0x9f#8] else bs ++ [0x1f#8] ++ List.replicate (n - 2) 0#8 ++ [0x80#8]

/-- `n` blocks absorbed. -/
def spongeRun : Nat → Sponge → List (BitVec 8) → Sponge
  | 0, a, _ => a
  | n + 1, a, bs => spongeRun n (spongeAbsorb a (bs.take 136)) (bs.drop 136)

/-- The first eight bytes of the SHAKE256 digest of a message, as a number (PRESUMED, log 53). -/
def shake256First8 (bs : List (BitVec 8)) : Nat :=
  let m := spongePad bs
  ((spongeRun (m.length / 136) (Vector.replicate 25 0) m).lane 0).toNat

end Sys2Proof.Machine
end

