-- ==== Sys2Proof/Config.lean ====
section
/-! DEFINITION. The values that the spec leaves open: constants without a body, so that nothing can be proved of them. Each is
applied to the counter `free` of the state, or to what it may depend on. -/

namespace Sys2Proof

/-- A doubleword that the spec leaves open (log 11). -/
opaque Config.freeWord : Nat → BitVec 64

/-- Whether, in a cycle, no group of another package holds the frontier of a fleet instance below a ticket (R337; log 33). -/
opaque Config.fleetClear : Nat → Nat → Nat → Bool

/-- What the resident compatibility routine leaves for the C7 word with bits 31:8 = e, from the registers that its fields name:
doubleword n of what it writes (R61; log 11). -/
opaque Config.emulated : BitVec 24 → List (BitVec 64) → Nat → BitVec 64

end Sys2Proof
end

