-- ==== Sys2Proof/Machine/CopyOrder.lean ====
section
/-! DEFINITION. The fields of a copy, and the addresses of its words in their order (R252, R253). -/

namespace Sys2Proof.Machine

/-- LEN, ROWS and PLANES of a copy, the latter two as counts (R252). -/
def cpLen (r : CopyRegs) : Nat := slice r.ext 23 0
def cpRows (r : CopyRegs) : Nat := slice r.ext 39 24 + 1
def cpPlanes (r : CopyRegs) : Nat := slice r.ext 55 40 + 1
def cpKind (r : CopyRegs) : Nat := slice r.flg 2 0
def cpQueue (r : CopyRegs) : Nat := slice r.flg 16 16
def cpSq (r : CopyRegs) : Nat := slice r.flg 18 17
def cpChannel (r : CopyRegs) : Nat := slice r.flg 20 19
def cpChf (r : CopyRegs) : Bool := r.flg.getLsbD 21
def cpMb (r : CopyRegs) : Nat := slice r.flg 35 33
def cpRmbe (r : CopyRegs) : Bool := r.flg.getLsbD 36
def cpRmb (r : CopyRegs) : Nat := slice r.flg 39 37
def cpCmask (r : CopyRegs) : Nat := slice r.flg 47 40
def cpOmask (r : CopyRegs) : Nat := slice r.flg 63 48

/-- RSTR and PSTR of a stride register. -/
def rowStride (x : Word) : Int := signed 32 (slice x 31 0)
def planeStride (x : Word) : Int := signed 32 (slice x 63 32)

/-- Words of the copy. -/
def cpTotal (r : CopyRegs) : Nat := cpPlanes r * cpRows r * (cpLen r / 4)

/-- A start address moved by row q of the copy, rows counted through all planes (R253). -/
def rowAddr (r : CopyRegs) (base st : Word) (q : Nat) : Nat :=
  (((base.toNat : Int) + (q / cpRows r : Nat) * planeStride st + (q % cpRows r : Nat) * rowStride st) % 2 ^ 64).toNat

/-- The source and destination address of word i (R253). -/
def srcAddr (r : CopyRegs) (i : Nat) : Nat :=
  (rowAddr r r.src r.srs (i / (cpLen r / 4)) + 4 * (i % (cpLen r / 4))) % 2 ^ 64
def dstAddr (r : CopyRegs) (i : Nat) : Nat :=
  (rowAddr r r.dst r.drs (i / (cpLen r / 4)) + 4 * (i % (cpLen r / 4))) % 2 ^ 64

end Sys2Proof.Machine
end

