-- ==== Sys2Proof/Machine/Page.lean ====
section
/-! DEFINITION. Regions of an address, the table walk, TLBs, page faults and flushes (10_access R216, 12_page). -/

namespace Sys2Proof.Machine

/-! ### Regions (R193, R194, R216) -/

/-- The regions of R216; an array region names its core. -/
inductive Area where
  | scratch
  | system
  | peer (i : Nat)
  | hole
  | memory
  | nonCanonical
  deriving DecidableEq, Repr

/-- The bases of the local window and the peer windows. -/
def localBase : Nat := 0xfffffffffff00000
def peerBase : Nat := 0xffffffffffb00000

/-- The region of one byte, for a slot of core c (R216). -/
def regionOf (s : State) (c a : Nat) : Area :=
  if localBase ≤ a then
    let o := a - localBase
    if o < (s.core c).spsz then .scratch
    else if 0x7c000 ≤ o && o < 0x80000 then .system
    else .hole
  else if peerBase ≤ a then
    let i := (a - peerBase) / 0x80000
    if i = c % 8 then .hole
    else if (a - peerBase) % 0x80000 < (s.core (c / 8 * 8 + i)).spsz then .peer i
    else .hole
  else
    let t := a / 2 ^ 56
    if t = 0 || t = 255 then .memory else .nonCanonical

/-! ### Descriptor fields (R428) -/

/-- A doubleword of the descriptor as read at the last bind or restore. -/
def ctxWord (s : State) (ctx i : Nat) : Word :=
  match tfind s.ctxs ctx with
  | some c => c.words.getD i 0#64
  | none => 0#64

def ctxRoot (s : State) (ctx : Nat) : Nat := slice (ctxWord s ctx 0) 51 13 * 8192
def ctxFq (s : State) (ctx : Nat) : Nat := slice (ctxWord s ctx 1) 51 13 * 8192
def ctxDh (s : State) (ctx : Nat) : Bool := (ctxWord s ctx 9).getLsbD 0

/-! ### The walk (R239 to R242) -/

def pteV (e : Word) : Bool := e.getLsbD 0
def pteL (e : Word) : Bool := e.getLsbD 2
def pteSz (e : Word) : Nat := slice e 59 58
def pteSt (e : Word) : Nat := slice e 63 62
def ptePa (e : Word) : Nat := slice e 51 13 * 8192

/-- Reserved bits, reserved codes, or W without R (R241). -/
def pteBad (e : Word) : Bool :=
  slice e 61 60 != 0 || slice e 57 52 != 0 || slice e 12 7 != 0 || e.getLsbD 1 || 2 ≤ pteSz e || pteSt e == 3 ||
    (e.getLsbD 4 && !e.getLsbD 3)

/-- What a walk finds. -/
inductive Walked where
  | leaf (e : Word) (bits : Nat)
  /-- an entry with V = 0, and how large the page of one leaf was at most that may have stood there -/
  | unmapped (bits : Nat)
  | format
  deriving DecidableEq, Repr

/-- A leaf entry of 2^bits bytes, its low PPN bits checked (R241). -/
def leafOf (e : Word) (bits : Nat) : Walked :=
  if pteBad e || ptePa e % 2 ^ bits != 0 then .format else .leaf e bits

/-- A leaf at level 3 or 4: with SZ = 1 the group's first entry counts (R242). -/
def walkLeaf (table idx small group gbits : Nat) (e : Word) (s : State) : Walked × State :=
  if pteSz e = 1 then
    let (n, s) := homeNat (table + 8 * (idx / group * group)) 8 s
    let f := BitVec.ofNat 64 n
    (if pteV f && pteL f && pteSz f == 1 then leafOf f gbits else .format, s)
  else (leafOf e small, s)

/-- The walk from a level on: the shifts of the levels that are left (R239, R241). -/
def walkFrom (va table : Nat) : List Nat → State → Walked × State
  | [], s => (.format, s)
  | sh :: shs, s =>
    let idx := va / 2 ^ sh % (if sh = 53 then 16 else 1024)
    let (n, s) := homeNat (table + 8 * idx) 8 s
    let e := BitVec.ofNat 64 n
    if !pteV e then (.unmapped (if sh = 13 then 18 else if sh = 23 then 30 else sh), s)
    else if pteBad e then (.format, s)
    else if pteL e then
      if sh = 23 then walkLeaf table idx 23 128 30 e s
      else if sh = 13 then walkLeaf table idx 13 32 18 e s
      else (.format, s)
    else if sh = 13 then (.format, s)
    else walkFrom va (ptePa e) shs s

/-- The walk of a virtual address of a context. -/
def walk (ctx va : Nat) (s : State) : Walked × State := walkFrom va (ctxRoot s ctx) [53, 43, 33, 23, 13] s

/-! ### TLBs (R244, R245) -/

/-- The rights of a leaf, as a TLB entry. -/
def tlbOf (ctx va : Nat) (e : Word) (bits : Nat) : TlbEntry :=
  { ctx := ctx, base := va / 2 ^ bits * 2 ^ bits, bits := bits, pa := ptePa e, u := e.getLsbD 6, x := e.getLsbD 5,
    w := e.getLsbD 4, r := e.getLsbD 3 }

def TlbEntry.hit (t : TlbEntry) (ctx va : Nat) : Bool := t.ctx == ctx && va / 2 ^ t.bits * 2 ^ t.bits == t.base

def tlbFind (s : State) (o ctx va : Nat) : Option TlbEntry := (s.octet o).tlb.find? fun t => t.hit ctx va

/-- A successful walk fills the TLB: 2,048 entries for 8 KiB pages and 256 for larger ones, the oldest going first (DESIGN CHOICE, log 67). -/
def tlbFill (o : Nat) (t : TlbEntry) (s : State) : State :=
  s.onOctet o fun x =>
    let rest := x.tlb.filter fun y => !(y.hit t.ctx t.base)
    let same := rest.filter fun y => (y.bits == 13) == (t.bits == 13)
    let other := rest.filter fun y => (y.bits == 13) != (t.bits == 13)
    let cap := if t.bits = 13 then 2048 else 256
    { x with tlb := other ++ (same.drop (same.length + 1 - cap)) ++ [t] }

/-! ### Page faults (R246, R247) -/

def fqReg (ctx : Nat) : Nat := 0x8000 + 0x10 * ctx
def fqHead (s : State) (ctx : Nat) : Nat := slice (s.mreg (fqReg ctx)) 31 0
def fqTail (s : State) (ctx : Nat) : Nat := slice (s.mreg (fqReg ctx)) 63 32
/-- Records in a fault queue. -/
def fqUsed (s : State) (ctx : Nat) : Nat := (fqTail s ctx + 2 ^ 32 - fqHead s ctx) % 2 ^ 32

/-- A fault record written at the tail, if the ring has room (R247). -/
def postRecord (m : Miss) (s : State) : Miss × State :=
  if m.posted.isSome || 256 ≤ fqUsed s m.ctx then (m, s)
  else
    let n := fqTail s m.ctx
    let a := ctxFq s m.ctx + 32 * (n % 256)
    let s := homePutNat a 8 m.va s
    let s := homePutNat (a + 8) 8 (Nat.min m.count 65535 * 2 ^ 48 + m.src * 2 ^ 32 + m.kind) s
    let s := homePutNat (a + 16) 16 0 s
    ({ m with posted := some n },
      s.setMreg (fqReg m.ctx) (BitVec.ofNat 64 (fqHead s m.ctx + (n + 1) % 2 ^ 32 * 2 ^ 32)))

/-- The miss-table entry of a page in a cluster. -/
def missFind (s : State) (cl ctx page : Nat) : Option Miss :=
  (s.cluster cl).misses.find? fun m => m.ctx == ctx && m.page == page

/-- The records of a cluster's faults that are not yet in their ring, posted in the order they arose. -/
def postPending (cl : Nat) (s : State) : State :=
  let (ms, s) := (s.cluster cl).misses.foldl (fun (acc : List Miss × State) m =>
    let (m, s) := postRecord m acc.2
    (acc.1 ++ [m], s)) ([], s)
  s.onCluster cl fun x => { x with misses := ms }

/-- Faults without a record in the order they arose. -/
def insertMiss (x : Nat × Miss) : List (Nat × Miss) → List (Nat × Miss)
  | [] => [x]
  | y :: t => if x.2.since < y.2.since then x :: y :: t else y :: insertMiss x t

/-- The faults that are not yet in their ring, with their clusters, posted in the order they arose as there is room (R247). -/
def postAll (s : State) : State :=
  let ms := ((upTo 32).flatMap fun cl => ((s.cluster cl).misses.filter (·.posted.isNone)).map fun m => (cl, m)).foldl (fun l x => insertMiss x l) []
  ms.foldl (fun s x =>
    let (m, s) := postRecord x.2 s
    s.onCluster x.1 fun c => { c with misses := c.misses.map fun y => if y = x.2 then m else y }) s

/-- An access joins the fault of its page, or starts one (R244, R246): whether the table had room. -/
def joinMiss (cl ctx va src kind : Nat) (s : State) : Bool × State :=
  match missFind s cl ctx (va / 8192) with
  | some m => (true, s.onCluster cl fun x =>
      { x with misses := x.misses.map fun y => if y = m then { y with count := y.count + 1 } else y })
  | none =>
    if 256 ≤ (s.cluster cl).misses.length then (false, s)
    else (true, postPending cl (s.onCluster cl fun x => { x with misses := x.misses ++ [⟨ctx, va / 8192, va, src, kind, 1, none, [], s.mcyc⟩] }))

/-- An access leaves the fault that it joined: COUNT is lowered (R247). -/
def leaveFault (cl ctx page : Nat) (s : State) : State :=
  s.onCluster cl fun x =>
    { x with misses := x.misses.map fun y => if y.ctx = ctx && y.page = page then { y with count := y.count - 1 } else y }

/-- A parked access of slot k leaves the fault that it joined. -/
def leaveMiss (k : Nat) (r : Reason) (s : State) : State :=
  match r with
  | .fault page => leaveFault (clusterOf (octetOf (coreOf k))) (s.slot k).bind.ctx page s
  | _ => s

/-- KIND of a fault record for a kind of access. -/
def faultKind (k : AccKind) : Nat :=
  match k with
  | .load => 0
  | .store | .rmw => 1
  | .fetch => 2

/-- KIND for an access to a retired page: 2 for a fetch (R46), else 3 (R246) (DEDUCED, log 61). -/
def retiredKind (k : AccKind) : Nat := if k = .fetch then 2 else 3

/-- The number of a kind of access in the message of its walk, and the kind of a number. -/
def accCode (k : AccKind) : Nat :=
  match k with
  | .load => 0
  | .store => 1
  | .fetch => 2
  | .rmw => 3

def accOf (n : Nat) : AccKind :=
  match n with
  | 1 => .store
  | 2 => .fetch
  | 3 => .rmw
  | _ => .load

/-- The cause of an access whose page fault fails (R217, R46). -/
def faultCause (k : AccKind) : Nat :=
  match k with
  | .load => 0x0b
  | .store | .rmw => 0x0c
  | .fetch => 0x0d

/-- Whether the rights of a page allow an access (R243). -/
def allowed (k : AccKind) (sv u x w r : Bool) : Bool :=
  (sv || u) && (match k with
    | .load => r
    | .store => w
    | .rmw => r && w
    | .fetch => x)

/-! ### Translating for a slot (R217, orders 5 and 6) -/

/-- What translation gives. -/
inductive Xlat where
  | pa (n : Nat)
  | forbidden
  | format
  | failed
  | migrating
  | walk
  deriving DecidableEq, Repr

/-- A physical address with the rights on its way. -/
def grant (k : AccKind) (sv : Bool) (pa : Nat) (u x w r : Bool) : Xlat :=
  if !allowed k sv u x w r then .forbidden
  else if isMgmt pa && !sv then .forbidden
  else .pa pa

/-- The translation of one virtual address for slot k: the octet's TLB, then what the walks made for this instruction
found; else a walk is needed. -/
def translate (k : Nat) (kind : AccKind) (va : Nat) (s : State) : Xlat :=
  let sl := s.slot k
  match tlbFind s (octetOf (coreOf k)) sl.bind.ctx va with
  | some t => grant kind sl.sv (t.pa + va % 2 ^ t.bits) t.u t.x t.w t.r
  | none =>
    match sl.traffic.xlat.find? fun x => x.page == va / 8192 with
    | some x => match x.res with
      | .ok pa u e w r => grant kind sl.sv (pa + va % 8192) u e w r
      | .migrating pa u e w r =>
        match grant kind sl.sv (pa + va % 8192) u e w r with
        | .pa n => if kind = .load || kind = .fetch then .pa n else .migrating
        | z => z
      | .format => .format
      | .failed => .failed
    | none => .walk

/-- How an access that could not be translated ends. `va` is the address to translate and `ea` the one to report. -/
def xlatEnding (k : Nat) (kind : AccKind) (va : Nat) (ea : Word) (x : Xlat) (s : State) : State × Ending :=
  let ctx := (s.slot k).bind.ctx
  let cl := clusterOf (octetOf (coreOf k))
  match x with
  | .pa _ => (s, .next)
  | .forbidden | .format => (s, .trap (if kind = .fetch then 0x0d else 0x0e) ea)
  | .failed => (s, .trap (faultCause kind) ea)
  | .migrating => (s, .wait (.migrating (va / 8192)))
  | .walk =>
    match missFind s cl ctx (va / 8192) with
    | some _ => ((joinMiss cl ctx va (coreOf k) (faultKind kind) s).2, .wait (.fault (va / 8192)))
    | none =>
      if 256 ≤ (s.cluster cl).misses.length then (s, .wait .missFull)
      else (s.post (evt .pageWalk k va (accCode kind)), .wait (.walk (va / 8192)))

/-- A walk result kept for the instruction that is to issue again. -/
def keepXlat (k page : Nat) (r : WalkRes) (s : State) : State :=
  s.onSlot k fun sl => { sl with traffic := { sl.traffic with xlat := sl.traffic.xlat ++ [⟨page, r⟩] } }

/-- The 8 KiB frame within a leaf. -/
def frameOf (e : Word) (bits va : Nat) : Nat := ptePa e + va % 2 ^ bits / 8192 * 8192

/-- The walk for the access of slot k, of a kind by its number, is performed (R241, R245, R246). A retired page that forbids the access
gives its rights, and no fault (R243) (DEDUCED, log 61). -/
def walkFor (k va kind : Nat) (s : State) : State :=
  let sl := s.slot k
  let ctx := sl.bind.ctx
  let page := va / 8192
  if sl.run != .parked (.walk page) then s
  else
    let miss := fun (kd : Nat) (s : State) =>
      let (room, s) := joinMiss (clusterOf (octetOf (coreOf k))) ctx va (coreOf k) kd s
      s.onSlot k fun sl => { sl with run := .parked (if room then .fault page else .missFull) }
    let (r, s) := walk ctx va s
    match r with
    | .unmapped _ => miss (faultKind (accOf kind)) s
    | .format => keepXlat k page .format s
    | .leaf e bits =>
      let t := tlbOf ctx va e bits
      match pteSt e with
      | 0 => keepXlat k page (.ok (frameOf e bits va) t.u t.x t.w t.r) (tlbFill (octetOf (coreOf k)) t s)
      | 1 => keepXlat k page (.migrating (frameOf e bits va) t.u t.x t.w t.r) s
      | _ =>
        if allowed (accOf kind) sl.sv t.u t.x t.w t.r then miss (retiredKind (accOf kind)) s
        else keepXlat k page (.ok (frameOf e bits va) t.u t.x t.w t.r) s

/-- PAGE_WALK (R241). -/
def execPageWalk (s : State) : Host.Outcome State Fault Refusal := event (walkFor s.arg.k s.arg.a s.arg.b) s

/-! ### The driver's answers (R246, R247) -/

/-- Slots parked on the fault of a page. -/
def faultWaiters (s : State) (ctx page : Nat) : List Nat :=
  (s.slots.filter fun e => e.2.bind.ctx == ctx && e.2.run == .parked (.fault page)).map (·.1)

/-- The cause and address of a copy whose next word meets a page that cannot be resolved: the load's, or else the store's (R257, R259). -/
def copyCause (page : Nat) (c : Copy) : Nat × Word :=
  let a := srcAddr c.regs c.done
  if a / 8192 = page then (0x0b, BitVec.ofNat 64 a) else (0x0c, BitVec.ofNat 64 (dstAddr c.regs c.done))

/-- Copies parked on the fault of a page go on, or meet their fault (R257). -/
def answerCopy (page : Nat) (ok : Bool) (c : Copy) : Copy :=
  if c.parked == some page then { c with parked := none, err := if ok then c.err else some (copyCause page c) }
  else c

def answerCopies (ctx page : Nat) (ok : Bool) (x : Core) : Core :=
  { x with transfer := { x.transfer with copies := x.transfer.copies.map fun e =>
      if e.2.ctx = ctx then (e.1, answerCopy page ok e.2) else e } }

/-- A replay whose access met the fault goes on, or meets its failure (R158). -/
def answerReplay (page : Nat) (ok : Bool) (r : Replay) : Replay :=
  if r.fault == some page then
    { r with fault := none, xlat := if ok then r.xlat else r.xlat ++ [⟨page, .failed⟩] }
  else r

def answerReplays (cl ctx page : Nat) (ok : Bool) (s : State) : State :=
  { s with slots := s.slots.map fun e =>
      if e.2.bind.ctx = ctx && clusterOf (octetOf (coreOf e.1)) = cl then
        (e.1, { e.2 with replay := e.2.replay.map (answerReplay page ok) })
      else e }

/-- The answer to one record: resolved accesses issue again, failed ones trap (R246). -/
def answerFault (cl : Nat) (m : Miss) (resp : Nat) (s : State) : State :=
  if resp = 1 || resp = 2 then
    let s := s.onCluster cl fun x => { x with misses := x.misses.filter fun y => !(y.ctx == m.ctx && y.page == m.page) }
    let own := if resp = 2 then m.own else []
    let s := s.onCtx m.ctx fun c => { c with lost := c.lost ++ (own.filter fun e => e.1 && e.2.2 == 0xffff).map (·.2.1) }
    let s := match own.head? with
      | some (store, va, _) => contextFault m.ctx (if store then 0x0c else 0x0b) 0xffff (BitVec.ofNat 64 va) 0 s
      | none => s
    let cores := s.cores.map (·.1)
    let s := cores.foldl (fun s c =>
      if clusterOf (octetOf c) = cl && (s.core c).transfer.copies.any (fun e => e.2.parked == some m.page) then
        let s := ((s.onCore c (answerCopies m.ctx m.page (resp == 1))).post
          (evt .copyWordTransfer c 0 0)).post (evt .copyWordTransfer c 1 0)
        if resp = 1 then s else (s.post (evt .copyComplete c 0 0)).post (evt .copyComplete c 1 0)
      else s) s
    let s := answerReplays cl m.ctx m.page (resp == 1) s
    ((faultWaiters s m.ctx m.page).filter fun k => clusterOf (octetOf (coreOf k)) = cl).foldl (fun s k =>
      let s := if resp = 2 then keepXlat k m.page .failed s else s
      s.onSlot k fun sl => { sl with run := .running }) s
  else s.onCluster cl fun x =>
    { x with misses := x.misses.map fun y => if y = m then { y with posted := none, since := s.mcyc } else y }

/-- The head passes the record n of a context: its answer is acted on (R247). -/
def passRecord (ctx : Nat) (s : State) (n : Nat) : State :=
  let (resp, s) := homeNat (ctxFq s ctx + 32 * (n % 256) + 16) 8 s
  (upTo 32).foldl (fun s cl =>
    match (s.cluster cl).misses.find? fun m => m.ctx == ctx && m.posted == some n with
    | some m => answerFault cl m (resp % 4) s
    | none => s) s

/-- Whether function arg.c - 1 of the host, or with arg.c = 0 any other source, may write a register of a context (R468): a virtual
function only those of its tenant's own contexts. -/
def hostMay (s : State) (ctx : Nat) : Bool :=
  s.arg.c == 0 || (match tfind s.ctxs ctx with
    | some x => x.tenant + 1 == s.arg.c && !x.hv
    | none => false)

/-- A register that only the physical function 0, supervisor slots and the management core reach (R468, R469): a write by another
function of the host has no effect. -/
def pfOnly (f : State → State) (s : State) : State := if s.arg.c = 0 then f s else s

/-- FQHEAD_WRITE (R247): arg.k the context, arg.w the value written. A head before the current one or beyond the tail is
ignored. -/
def execFqheadWrite (s : State) : Host.Outcome State Fault Refusal :=
  event (fun s =>
    let ctx := s.arg.k
    let h := fqHead s ctx
    let n := (slice s.arg.w 31 0 + 2 ^ 32 - h) % 2 ^ 32
    if fqUsed s ctx < n || !hostMay s ctx then s
    else
      let s := s.setMreg (fqReg ctx) (BitVec.ofNat 64 ((h + n) % 2 ^ 32 + fqTail s ctx * 2 ^ 32))
      let s := (upTo n).foldl (fun s i => passRecord ctx s ((h + i) % 2 ^ 32)) s
      postAll s) s

/-- FAULT_REPOST (R247): faults whose record the head passed without an answer are posted again. -/
def execFaultRepost (s : State) : Host.Outcome State Fault Refusal :=
  event (fun s => postAll s) s

/-! ### Flushes (R249, R251, R474) -/

/-- Whether a page of 8 KiB lies in a range. -/
def pageIn (lo hi p : Nat) : Bool := lo ≤ 8192 * p && 8192 * p < hi

/-- Walk results without those for a range, but for a failure that the driver has answered. -/
def freshXlat (lo hi : Nat) (xs : List XRes) : List XRes := xs.filter fun x => x.res == .failed || !pageIn lo hi x.page

/-- A slot keeps no walk result for a range; an instruction that waits for one issues again. -/
def dropXlat (lo hi : Nat) (sl : Slot) : Slot :=
  let sl := match sl.run with
    | .parked (.walk p) => if pageIn lo hi p && sl.traffic.xlat.any (·.page == p) then { sl with run := .running } else sl
    | _ => sl
  { sl with traffic := { sl.traffic with xlat := freshXlat lo hi sl.traffic.xlat },
            replay := sl.replay.map fun r => { r with xlat := freshXlat lo hi r.xlat } }

/-- TLB entries and walk results of a context in a range dropped, and parameter blocks from every core (R266). -/
def dropTlb (ctx lo hi : Nat) (s : State) : State :=
  let s : State := { s with slots := s.slots.map fun e => if e.2.bind.ctx = ctx then (e.1, dropXlat lo hi e.2) else e }
  let s : State := { s with cores := s.cores.map fun e =>
    (e.1, { e.2 with transfer := { e.2.transfer with params := e.2.transfer.params.filter fun b =>
      !(b.ctx == ctx && decide (lo ≤ b.addr) && decide (b.addr < hi)) } }) }
  { s with octets := s.octets.map fun e =>
      (e.1, { e.2 with tlb := e.2.tlb.filter fun t => !(t.ctx == ctx && t.base < hi && lo < t.base + 2 ^ t.bits) }) }

/-- The range of the page that holds an address (R246, R251): as large as its leaf, whatever the leaf's state, or the largest TLB entry
for it. Where the walk ends at V = 0 the page that has gone was no larger than the leaves of that level allow, and the flush covers all that
it may have held (DEDUCED, log 48). -/
def flushRange (ctx va : Nat) (s : State) : (Nat × Nat) × State :=
  let held := s.octets.foldl (fun b e => e.2.tlb.foldl (fun b t => if t.hit ctx va then Nat.max b t.bits else b) b) 13
  let (r, s) := walk ctx va s
  let bits := match r with
    | .leaf _ n | .unmapped n => Nat.max held n
    | .format => held
  ((va / 2 ^ bits * 2 ^ bits, va / 2 ^ bits * 2 ^ bits + 2 ^ bits), s)

/-- A flush starts: its TLB entries go, and it ends with FLUSH_COMPLETE. -/
def startFlush (ctx lo hi : Nat) (host : Bool) (s : State) : Nat × State :=
  let id := (s.flushes.map (·.id)).foldl (fun m n => Nat.max m (n + 1)) 0
  (id, (dropTlb ctx lo hi { s with flushes := s.flushes ++ [⟨id, ctx, lo, hi, host⟩] }).post (evt .flushComplete id 0 0))

/-- Whether everything that a flush waits for has happened (R249) (DEDUCED, log 48). -/
def flushReady (f : Flush) (s : State) : Bool :=
  (s.slots.all fun e => e.2.bind.ctx != f.ctx || e.2.performed) &&
    s.groups.all fun e => match tfind s.kernels e.2.kernel with
      | some k => k.ctx != f.ctx || (e.2.held ++ e.2.entries).all fun x => 8192 * x.page + 8192 ≤ f.lo || f.hi ≤ 8192 * x.page
      | none => true

/-- Stores that wait for a migrating page issue again after its flush (R246). -/
def releaseMigrating (f : Flush) (s : State) : State :=
  s.slots.foldl (fun s e =>
    match e.2.run with
    | .parked (.migrating p) =>
      if e.2.bind.ctx = f.ctx && f.lo ≤ 8192 * p && 8192 * p < f.hi then s.onSlot e.1 fun sl => { sl with run := .running }
      else s
    | _ => s) s

/-- FLUSH_COMPLETE (R249): arg.k the flush. It waits on, or every owned and update-only word is returned and it ends (DEDUCED, log 48). -/
def execFlushComplete (s : State) : Host.Outcome State Fault Refusal :=
  event (fun s =>
    match s.flushes.find? fun f => f.id == s.arg.k with
    | none => s
    | some f =>
      if !flushReady f s then s.post (evt .flushComplete f.id 0 0)
      else
        let s := s.home.foldl (fun s e => recallWord e.1 s) (dropTlb f.ctx f.lo f.hi s)
        releaseMigrating f { s with flushes := s.flushes.filter fun g => g.id != f.id }) s

/-- Bit 63 of `flush` of a context (R474). -/
def flushBusy (s : State) (ctx : Nat) : Bool := s.flushes.any fun f => f.ctx == ctx && f.host

/-- FLUSH_PAGE (R474): arg.k the context, arg.w the value written; ignored while a flush runs. -/
def execFlushPage (s : State) : Host.Outcome State Fault Refusal :=
  event (fun s =>
    if flushBusy s s.arg.k || !hostMay s s.arg.k then s
    else
      let s := s.setMreg (0x8008 + 16 * s.arg.k) s.arg.w
      let va := slice s.arg.w 56 13 * 8192
      let va := if s.arg.w.getLsbD 56 then 2 ^ 64 - 2 ^ 57 + va else va
      let ((lo, hi), s) := flushRange s.arg.k va s
      (startFlush s.arg.k lo hi true s).2) s

/-- FLUSH_CONTEXT (R474): arg.k the context. -/
def execFlushContext (s : State) : Host.Outcome State Fault Refusal :=
  event (fun s =>
    if flushBusy s s.arg.k || !hostMay s s.arg.k then s
    else (startFlush s.arg.k 0 (2 ^ 64) true (s.setMreg (0x8008 + 16 * s.arg.k) s.arg.w)).2) s

end Sys2Proof.Machine
end

