-- ==== Sys2Proof/Machine/Block.lean ====
section
/-! DEFINITION. The management register block as its readers and writers see it (R469 to R471): what a register reads as, and
the event that a write of one becomes. -/

namespace Sys2Proof.Machine

/-- Offsets of the doorbells, which are write-only (R470). -/
def isDoorbell (off : Nat) : Bool := 0x14000 ≤ off && off < 0x1c000

/-- A register of the block as a read returns it: bit 63 of `flush` while its flush runs (R474); an accepted feature only where it is
offered, and always bit 0 (R472); `eltail` as the count of entries made (R463); a doorbell, which is write-only, as zero (R3). -/
def registerRead (off : Nat) (s : State) : Word × State :=
  if isDoorbell off then (0, s)
  else if 0x8000 ≤ off && off < 0x9000 && off % 16 = 8 then
    (setBit (s.mreg off) 63 (flushBusy s ((off - 0x8000) / 16)), s)
  else if off = 0x20 then ((s.mreg 0x20 &&& s.mreg 0) ||| 1, s)
  else if 0x10000 ≤ off && off < 0x14000 && off % 0x1000 = 8 then (BitVec.ofNat 64 (s.die ((off - 0x10000) / 0x1000)).made, s)
  else (s.mreg off, s)

/-- An event with a number, a second one and a doubleword. -/
def evtW (e : Instr) (k a : Nat) (w : Word) : Msg := ⟨e, { Arg.reset with k := k, a := a, w := w }⟩

/-- The context command that a value of `ctxcmd` asks for (R473). -/
def ctxCommand (v : Word) : Instr :=
  match slice v 7 0 with
  | 1 => .ctxCreate
  | 2 => .ctxBind
  | 3 => .ctxSave
  | 4 => .ctxRestore
  | 5 => .ctxDestroy
  | _ => .registerWrite

/-- The event that the write of a doubleword at an offset becomes (R470 to R475, R88, R409, R472, R483, R485). -/
def registerMsg (off : Nat) (v : Word) : Msg :=
  if off = 0x40 then evtW .featlockWrite 0 off v
  else if off = 0x100 then evtW (ctxCommand v) (slice v 55 48) off v
  else if off = 0x200 then
    evtW (if slice v 7 0 = 1 then .haltStop else if slice v 7 0 = 2 then .haltResume else .registerWrite) (slice v 47 40) off v
  else if 0x8000 ≤ off && off < 0x9000 then
    if off % 16 = 0 then evtW .fqheadWrite ((off - 0x8000) / 16) off v
    else evtW (if v.getLsbD 0 then .flushContext else .flushPage) ((off - 0x8000) / 16) off v
  else if isDoorbell off then evtW .doorbell ((off - 0x14000) / 0x80) ((off - 0x14000) % 0x80 / 8) v
  else if 0x20000 ≤ off && off < 0x24000 && off % 0x1000 < 0x400 && off % 0x40 = 0 && v.getLsbD 0 then
    evtW .formatWindowEnable ((off - 0x20000) / 0x1000) (off % 0x1000 / 0x40) v
  else if 0x30000 ≤ off && off < 0x30200 then evtW .tweightWrite ((off - 0x30000) / 8) off v
  else if 0x31000 ≤ off && off < 0x35000 && off % 0x400 = 0 then evtW .portcfgWrite ((off - 0x31000) / 0x400) off v
  else if 0x38000 ≤ off && off < 0x40000 then evtW .streamTableWrite ((off - 0x38000) / 16) (off % 16 / 8) v
  else evtW .registerWrite 0 off v

/-- Bytes of one register of the block, from offset off within it on. -/
def registerBytes (off n : Nat) (s : State) : List (BitVec 8) × State :=
  let (v, s) := registerRead (off / 8 * 8) s
  (((bytesLE 8 v.toNat).drop (off % 8)).take n, s)

/-- A register of the block with some of its bytes replaced. -/
def registerMerge (off : Nat) (bs : List (BitVec 8)) (s : State) : Word :=
  let old := bytesLE 8 (s.mreg (off / 8 * 8)).toNat
  BitVec.ofNat 64 (ofBytesLE ((old.take (off % 8) ++ bs ++ old.drop (off % 8 + bs.length)).take 8))

/-- Bytes within one register of the block written by an access that performs there: the very next step carries the write out, so that
nothing comes between the access's read and its write (R471). -/
def registerPut (off : Nat) (bs : List (BitVec 8)) (s : State) : State :=
  s.atOnce [registerMsg (off / 8 * 8) (registerMerge off bs s)]

/-- A store within one register of the block is on its way: a whole register, or some of its bytes, which merge with the others when it
arrives (R471) (DEDUCED, log 58). -/
def registerSend (off : Nat) (bs : List (BitVec 8)) (s : State) : State :=
  if bs.length = 8 then s.post (registerMsg off (BitVec.ofNat 64 (ofBytesLE bs)))
  else s.post ⟨.registerWrite, { Arg.reset with a := off, b := 2, bytes := bs }⟩

/-- Bytes of a store to the block cut at the registers' bounds: n pieces at most. -/
def registerPieces : Nat → Nat → List (BitVec 8) → List (Nat × List (BitVec 8))
  | _, _, [] => []
  | 0, _, _ => []
  | n + 1, off, bs => (off, bs.take (8 - off % 8)) :: registerPieces n (off / 8 * 8 + 8) (bs.drop (8 - off % 8))

/-- A store to the block: one access to each register that it touches (R470, R471) (DEDUCED, log 58). -/
def registerStore (off : Nat) (bs : List (BitVec 8)) (s : State) : State :=
  (registerPieces bs.length off bs).foldl (fun s p => registerSend p.1 p.2 s) s

end Sys2Proof.Machine
end

