-- ==== Sys2Proof/Machine/CopyPlan.lean ====
section
/-! DEFINITION. Which rows a copy writes (R253), and what that means for accesses to its targets (R235, R268). -/

namespace Sys2Proof.Machine

/-- The starts of the destination rows. -/
def dstRows (r : CopyRegs) : List Nat := (upTo (cpPlanes r * cpRows r)).map (rowAddr r r.dst r.drs)
def srcRows (r : CopyRegs) : List Nat := (upTo (cpPlanes r * cpRows r)).map (rowAddr r r.src r.srs)

/-- Whether byte a lies in a destination row. -/
def dstHas (r : CopyRegs) (a : Nat) : Bool := (dstRows r).any fun b => b ≤ a && a < b + cpLen r

/-- The address under which a slot of core c sees byte off of core t's array, if it sees it. -/
def windowAddr (c t off : Nat) : Option Nat :=
  if t = c then some (localBase + off)
  else if t / 8 = c / 8 then some (peerBase + 0x80000 * (t % 8) + off)
  else none

/-- Whether a copy launched on core c writes byte off of core t's scratchpad. -/
def writesArray (c : Nat) (x : Copy) (t off : Nat) : Bool :=
  match cpKind x.regs with
  | 0 => match windowAddr c t off with
    | some a => dstHas x.regs a
    | none => false
  | 3 => x.receivers.contains t && dstHas x.regs off
  | _ => false

/-- Whether the copy is still writing that array. -/
def stillWriting (x : Copy) : Bool := x.done < x.total && x.err.isNone

/-- Whether a slot meets R235 for a copy of core c: a copy of its own core until the slot has waited for the tag, one of
another core while it is writing (DEDUCED, log 15). Once its channel has closed, its range is ordinary (R268). -/
def unordered (sl : Slot) (core c : Nat) (x : Copy) : Bool :=
  !x.closed && (if c = core then !sl.traffic.waited.getLsbD x.tag else stillWriting x)

/-- Cores whose copies can write the arrays of core t: the cluster. -/
def copyCores (s : State) (t : Nat) : List Nat :=
  ((s.cores.map (·.1)).filter fun c => clusterOf (octetOf c) = clusterOf (octetOf t))

/-- Whether a byte of an array is the target of a copy that the slot has not waited for (R235). -/
def copyTarget (s : State) (k t off : Nat) : Bool :=
  (copyCores s t).any fun c => (s.core c).transfer.copies.any fun e =>
    unordered (s.slot k) (coreOf k) c e.2 && writesArray c e.2 t off

/-- The open channel of the slot's own core whose range holds some of the bytes [a, a + n) (R268). -/
def channelOf (s : State) (c a n : Nat) : Option (Nat × Channel) :=
  (enumFrom 0 (s.core c).transfer.chans.toList).find? fun e => e.2.opened && e.2.base < a + n && a < e.2.base + e.2.len

/-- What the access of n bytes at offset off of core t's array meets (R235): nothing, a trap, or a wait for the
watermark. `addr` is the address that the slot used. -/
def targetEnding (k t off addr n : Nat) (store : Bool) (s : State) : Option Ending :=
  let c := coreOf k
  match (if t = c && localBase ≤ addr then channelOf s c addr n else none) with
  | some (ch, x) => if addr + n ≤ x.wm.toNat then none else some (.wait (.watermark ch (addr + n)))
  | none =>
    if !(s.slot k).det then none
    else
      match (upTo n).find? fun j => copyTarget s k t (off + j) with
      | some j => some (.trap (if store then 0x14 else 0x13) (BitVec.ofNat 64 ((addr + j) / 4 * 4)))
      | none => none

end Sys2Proof.Machine
end

