-- ==== Sys2Proof/Machine/Commit.lean ====
section
/-! DEFINITION. Commit buffers: how entries enter (R342, R343, R346, R347), what a load forwards from them (R236, R345), and
how one entry drains (R344, R345, R352). -/

namespace Sys2Proof.Machine

/-- The group of a slot, if it is bound to one. -/
def groupOf (s : State) (k : Nat) : Option Group :=
  if (s.slot k).bind.bound then tfind s.groups (s.slot k).bind.group else none

/-- Whether the accesses of slot k enter a commit buffer (R342). -/
def buffered (s : State) (k : Nat) : Bool := (s.slot k).det && (groupOf s k).isSome

/-! ### Entering -/

/-- Held REDs in the spill ring, or in the buffer. -/
def Group.heldIn (g : Group) (ring : Bool) : Nat := (g.held.filter fun e => e.ring == ring).length

/-- Entries of the group in the buffer, not in its ring; held REDs are among them (R345). -/
def Group.inBuffer (g : Group) : Nat := g.entries.length - g.inRing + g.heldIn false

/-- Whether a group holds room in a commit buffer: it is on its octet, neither retired nor Saved. -/
def Group.holds (g : Group) : Bool :=
  match g.st with
  | .retired | .discarded | .saved _ => false
  | _ => true

/-- Entries in the buffer of an octet. -/
def bufferUsed (s : State) (o : Nat) : Nat :=
  (s.groups.map fun e => if e.2.octet = o && e.2.holds then e.2.inBuffer else 0).foldl (· + ·) 0

/-- Room in the buffer for one more entry of a group (R343). -/
def bufferRoom (s : State) (g : Group) : Nat :=
  let free := 2048 - bufferUsed s g.octet
  if g.st = .current then free else Nat.min free (1792 - g.inBuffer)

/-- Records that a spill ring still takes: entries and the undo log share it (R344, R346). -/
def ringRoom (g : Group) : Nat := g.ringSize / 16 - g.inRing - g.undo.length - g.heldIn true

/-- The virtual address of the next record of a ring. -/
def ringNext (g : Group) : Nat := g.ring + 16 * (g.written % Nat.max 1 (g.ringSize / 16))

/-- Whether an entry of the group goes to the ring (R343) (DESIGN CHOICE, log 13) (DEDUCED, log 44). -/
def toRing (s : State) (g : Group) : Bool := g.inRing != 0 || bufferRoom s g = 0

/-- One entry appended. -/
def addEntry (gk k page : Nat) (act : EntryAct) (s : State) : State :=
  match tfind s.groups gk with
  | none => s
  | some g =>
    let ring := toRing s g
    let g' := { g with entries := g.entries ++ [⟨k, g.next, page, act, false⟩], next := g.next + 1,
                       inRing := if ring then g.inRing + 1 else g.inRing, written := if ring then g.written + 1 else g.written }
    let s := { s with groups := tset s.groups gk g' }
    if g.st = .current && g.entries.isEmpty then s.post (evt .commitDrain gk 0 0) else s

/-- Room for entries of a group, in the buffer and then in the ring (R343). -/
def entryRoom (s : State) (g : Group) : Nat := (if g.inRing = 0 then bufferRoom s g else 0) + ringRoom g

/-- What keeps an entry from entering: no room in the buffer and the ring for n entries, or a page of the ring. -/
inductive EnterStop where
  | full (n : Nat)
  | page (a : Nat)
  deriving DecidableEq, Repr

/-- What the next n entries of a group meet (R343, R346, R347). -/
def enterStop (k n : Nat) (g : Group) (s : State) : Option EnterStop :=
  if entryRoom s g < n then some (.full n)
  else if !toRing s g then none
  else match translate k .store (ringNext g) s with
    | .walk | .failed => some (.page (ringNext g))
    | _ => none

/-- Whether a store of two words is one aligned doubleword, whose entries enter together (R208). -/
def wholePair (acts : List (Nat × EntryAct)) : Bool :=
  match acts with
  | [(_, .store w m _ _), (_, .store v n _ _)] => w % 2 == 0 && v == w + 1 && m == 0xf#4 && n == 0xf#4
  | _ => false

/-- Entries of slot k enter one by one as far as they can, the first of them with `need` in all: how many have, the state, and what stopped
them. -/
def enterFrom (gk k : Nat) : Nat → Nat → List (Nat × EntryAct) → State → Nat × State × Option EnterStop
  | n, _, [], s => (n, s, none)
  | n, need, a :: as, s =>
    match (tfind s.groups gk).bind fun g => enterStop k need g s with
    | some e => (n, s, some e)
    | none => enterFrom gk k (n + 1) 1 as (addEntry gk k a.1 a.2 s)

/-- How an access whose entries cannot all enter ends: it parks on commit space or on a page of its ring; a page whose fault fails faults
the context (R347). -/
def enterEnding (k : Nat) (e : EnterStop) (s : State) : State × Ending :=
  match e with
  | .full n => (s, .wait (.commitFull n))
  | .page a =>
    match translate k .store a s with
    | .failed => (contextFault (s.slot k).bind.ctx 0x0c (coreOf k) (BitVec.ofNat 64 a) (s.slot k).pc s, .wait (.commitFull 1))
    | x => xlatEnding k .store a (BitVec.ofNat 64 a) x s

/-- Entries of slot k enter the buffer of its group; those that have entered stay while the access waits for the others (R342, R343,
R347). -/
def enter (k : Nat) (acts : List (Nat × EntryAct)) (s : State) : Except (State × Ending) State :=
  let old := (s.slot k).entered
  match enterFrom (s.slot k).bind.group k old (if wholePair acts then 2 else 1) (acts.drop old) s with
  | (_, t, none) => .ok (if old = 0 then t else t.onSlot k fun sl => { sl with entered := 0 })
  | (n, t, some e) => .error (enterEnding k e (if n = old then t else t.onSlot k fun sl => { sl with entered := n }))

/-! ### REDs among the entries (R345) -/

/-- The words that an entry names: the first and how many. An HNEW or HBIND names those of its descriptor (R374). -/
def EntryAct.span (a : EntryAct) : Nat × Nat :=
  match a with
  | .store w _ _ _ => (w, 1)
  | .atomic x _ => match x.place with
    | .mem pa => (pa / 4, if x.w then 1 else 2)
    | .arr _ _ => (0, 0)
  | .red _ wide pa _ => (pa / 4, if wide then 2 else 1)
  | .msg m true _ => if m.ev = .homeAtomicAccess then (m.arg.a / 4, 16) else (0, 0)
  | _ => (0, 0)

/-- Whether two spans of words share a word. -/
def spansMeet (x y : Nat × Nat) : Bool := x.1 < y.1 + y.2 && y.1 < x.1 + x.2

/-- Whether two entries are REDs of one operation and width. -/
def sameRed (x y : EntryAct) : Bool :=
  match x, y with
  | .red a w _ _, .red b v _ _ => a == b && w == v
  | _, _ => false

/-- An entry put in its place by (core number, slot, program order). -/
def insertEntry (e : Entry) : List Entry → List Entry
  | [] => [e]
  | x :: t => if e.slot < x.slot || (e.slot == x.slot && e.seq < x.seq) then e :: x :: t else x :: insertEntry e t

/-- Entries in the order (core number, slot, program order). -/
def sortEntries (es : List Entry) : List Entry := es.foldl (fun t e => insertEntry e t) []

/-! ### Forwarding to loads (R236, R345) -/

/-- A doubleword with one of its words, or both, combined or replaced: `w` is the first word of the doubleword. -/
def onSpan (w : Nat) (sp : Nat × Nat) (v : Word) (f : Word → Word) : Word :=
  if sp.2 = 2 then (if sp.1 = w then f v else v)
  else if sp.1 = w then setSlice v 31 0 (f (BitVec.ofNat 64 (slice v 31 0))).toNat
  else if sp.1 = w + 1 then setSlice v 63 32 (f (BitVec.ofNat 64 (slice v 63 32))).toNat
  else v

/-- What an atomic leaves in its word. -/
def atomicNew (a : Atomic) (old : Word) : Word :=
  match a.kind with
  | .amo op => amoCombine op (!a.w) old a.val
  | .cas exp => if lowNat (!a.w) old = lowNat (!a.w) exp then a.val else old
  | .lda => old
  | .stl => a.val

/-- The effect of one entry on the doubleword at word w. -/
def applyEntry (w : Nat) (v : Word) (e : Entry) : Word :=
  match e.act with
  | .store x mask val _ => onSpan w (x, 1) v fun o => zext64 (mergeBytes mask val (o.extractLsb' 0 32))
  | .atomic a _ => onSpan w e.act.span v (atomicNew a)
  | .red op wide pa val => onSpan w (pa / 4, if wide then 2 else 1) v fun o => (redCombineWord op wide o val).1
  | _ => v

/-- The entries in order: a RED waits for an entry that names its word, or for the end (R345). -/
def forwardFrom (w : Nat) : List Entry → List Entry → Word → Word
  | [], red, v => (sortEntries red).foldl (applyEntry w) v
  | e :: es, red, v =>
    let sp := e.act.span
    if !spansMeet sp (w, 2) then forwardFrom w es red v
    else
      let now := red.filter fun r => spansMeet r.act.span sp && !sameRed r.act e.act
      let rest := red.filter fun r => !(spansMeet r.act.span sp && !sameRed r.act e.act)
      let v := (sortEntries now).foldl (applyEntry w) v
      match e.act with
      | .red _ _ _ _ => forwardFrom w es (rest ++ [e]) v
      | _ => forwardFrom w es rest (applyEntry w v e)

/-- Whether some entry or held RED of the group before `limit` names a word of the doubleword at w. -/
def forwards (g : Group) (w limit : Nat) : Bool :=
  (g.held ++ g.entries).any fun e => e.seq < limit && spansMeet e.act.span (w, 2)

/-- A word as a load of a buffered slot sees it: the value `base` of its doubleword under the entries before `limit`. -/
def forwardWord (g : Group) (w limit : Nat) (base : Word) : BitVec 32 :=
  let d := w / 2 * 2
  let v := forwardFrom d ((g.held ++ g.entries).filter fun e => e.seq < limit) [] base
  if w = d then v.extractLsb' 0 32 else v.extractLsb' 32 32

/-! ### Draining one entry (R344, R345, R352) -/

/-- A word's old value put into the group's undo log before it changes (R344). -/
def logUndo (gk w : Nat) (s : State) : State :=
  let (old, s) := homeGet w (recallWord w s)
  s.onGroup gk fun g => { g with undo := g.undo ++ [⟨w, old⟩] }

/-- Whether another frontier instance has changed the word (R352). -/
def overlapOf (s : State) (g : Group) (w : Nat) : Bool :=
  match tfind s.changed w with
  | some (inst, _) => inst != g.inst
  | none => false

/-- The word recorded as changed by the group's instance and kernel (R352). -/
def recordWord (g : Group) (w : Nat) (s : State) : State := { s with changed := tset s.changed w (g.inst, g.kernel) }

/-- The words that an entry changes. -/
def EntryAct.words (a : EntryAct) : List Nat := (upTo a.span.2).map (a.span.1 + ·)

/-- A change of memory made for the group: undo log and record first. -/
def changing (gk : Nat) (ws : List Nat) (f : State → State) (s : State) : State :=
  match tfind s.groups gk with
  | none => s
  | some g => f (ws.foldl (fun s w => recordWord g w (logUndo gk w s)) s)

/-- A core keeps no Valid copy of a word that one of its own slots has changed at the home (R207). -/
def l1Forget (c w : Nat) (s : State) : State :=
  match l1Find s c w with
  | some x => if x.st = .valid then l1Drop c w s else s
  | none => s

def forgetPlace (c : Nat) (a : Atomic) (s : State) : State :=
  match a.place with
  | .mem pa => let s := l1Forget c (pa / 4) s; if a.w then s else l1Forget c (pa / 4 + 1) s
  | .arr _ _ => s

/-- Slot k, or a unit for it, makes an access to a word in memory: it consumes the data of a line pinned bad (R462). -/
def consume (k w : Nat) (s : State) : State := if lineBad s (4 * w) then dataError k (4 * w) s else s

/-- Held REDs combined into the base value at the home, in their order (R345). -/
def combineHeld (gk : Nat) (es : List Entry) (s : State) : State :=
  (sortEntries es).foldl (fun s e => match e.act with
    | .red op wide pa v =>
      let s := consume e.slot (pa / 4) (l1Forget (coreOf e.slot) (pa / 4) (changing gk e.act.words (redHome (pa / 4) op wide v) s))
      if wide then l1Forget (coreOf e.slot) (pa / 4 + 1) s else s
    | _ => s) s

/-- Whether an atomic writes, its word having the value old: not an LDA, nor a CAS that fails (R227). -/
def Atomic.writes (a : Atomic) (old : Word) : Bool :=
  match a.kind with
  | .lda => false
  | .cas exp => lowNat (!a.w) old == lowNat (!a.w) exp
  | _ => true

/-- An atomic performed at the home or at the array: the old value, sign-extended (R227, R228). -/
def performAtomic (a : Atomic) (s : State) : Word × State :=
  let wide := !a.w
  let ext := fun (v : Word) => if wide then v else wres v
  match a.place with
  | .mem pa =>
    if isMgmt pa then
      let (bs, s) := registerBytes (pa - 2 ^ 40) (if wide then 8 else 4) s
      let old := BitVec.ofNat 64 (ofBytesLE bs)
      (ext old, if a.writes old
        then registerPut (pa - 2 ^ 40) (bytesLE (if wide then 8 else 4) (atomicNew a old).toNat) s else s)
    else
      let w := pa / 4
      let s := recallWord w s
      let s := if wide then recallWord (w + 1) s else s
      let (old, s) := homeGetWide wide w s
      if a.writes old then
        let s := homeStore w 0xf#4 ((atomicNew a old).extractLsb' 0 32) s
        (ext old, if wide then homeStore (w + 1) 0xf#4 ((atomicNew a old).extractLsb' 32 32) s else s)
      else (ext old, s)
  | .arr c off =>
    let n := if wide then 8 else 4
    let old := BitVec.ofNat 64 (arrNat s c off n)
    (ext old, if a.writes old then storeArray c off (bytesLE n (atomicNew a old).toNat) s else s)

/-- Whether an atomic changes memory, as its home finds the word (R352). -/
def atomicChanges (a : Atomic) (s : State) : Bool :=
  match a.place with
  | .mem pa => a.writes (homeGetWide (!a.w) (pa / 4) (let s := recallWord (pa / 4) s; if a.w then s else recallWord (pa / 4 + 1) s)).1
  | .arr _ _ => false

/-- A slot that waits for its entry: the value it keeps, and how far it is (R236). -/
def entryDone (k : Nat) (v : Word) (s : State) : State :=
  s.onSlot k fun sl => if sl.phase = 1 then { sl with phase := 2, keep := [v] } else sl

/-- A message with the name of its sender; a deterministic slot numbers its messages from 1 on (R359). -/
def nameMsg (k : Nat) (m : Msg) (s : State) : Msg × State :=
  let sl := s.slot k
  if sl.det then
    ({ m with arg := { m.arg with sender := k + 1, seq := sl.traffic.seq + 1, sent := s.mcyc } },
      s.onSlot k fun sl => { sl with traffic := { sl.traffic with seq := sl.traffic.seq + 1 } })
  else ({ m with arg := { m.arg with sender := k + 1, seq := 0, sent := s.mcyc } }, s)

/-- The messages that travel on virtual channel 2, and are counted where they are consumed (R369, R417, R421 to R426, R455) (DEDUCED, log 66). -/
def counted (e : Instr) : Bool :=
  [.tdecArrival, .tenqArrival, .counterRequestArrival, .wenqArrival, .watchRequestArrival, .weightArrival, .stealRequestArrival].contains e

/-- A message leaves a core: it is counted on its virtual channel and named by its sender (R359, R455). -/
def sendMsg (k : Nat) (m : Msg) (s : State) : State :=
  let (m, s) := nameMsg k m s
  (fun s => if counted m.ev then countSent (coreOf k) 0 1 s else s) (s.post m)

/-- The answer to a slot's request. Where the request was the oldest entry of a commit buffer, the entry leaves it and the drain goes on
(R374, R404, R427). -/
def answerSlot (k : Nat) (v : Word) (s : State) : State :=
  let gk := (s.slot k).bind.group
  let s := match groupOf s k with
    | some g => match g.entries with
      | e :: es =>
        if g.sent && e.slot == k then
          let s := s.onGroup gk fun g => { g with entries := es, inRing := Nat.min g.inRing es.length, sent := false }
          if es.isEmpty then s else s.soon (evt .commitDrain gk 0 0)
        else s
      | [] => s
    | none => s
  entryDone k v s

/-- What one entry does when the drain reaches it. -/
def drainAct (gk : Nat) (e : Entry) (s : State) : State :=
  let c := coreOf e.slot
  match e.act with
  | .store w mask v sector =>
    consume e.slot w (changing gk [w] (fun s => registerWord c w (l1Store c w mask v (if sector then allocSector c w s else s))) s)
  | .atomic a id =>
    let body := fun s =>
      let (v, s) := performAtomic a s
      let s := forgetPlace c a s
      let s := if a.kind = .lda then l1Acquire c s else s
      if id = 1 then entryDone e.slot v s else s
    e.act.words.take 1 |>.foldl (fun s w => consume e.slot w s) (if atomicChanges a s then changing gk e.act.words body s else body s)
  | .red _ _ _ _ => s.onGroup gk fun g => { g with held := g.held ++ [{ e with ring := decide (2048 ≤ bufferUsed s g.octet) }] }
  | .rel => s
  | .fence => entryDone e.slot 0 (l1Acquire c s)
  | .publish => entryDone e.slot 0 s
  | .flush line inv => flushLine c line inv s
  | .copy core _ tag => s.onCore core fun x =>
      { x with transfer := { x.transfer with copies := x.transfer.copies.map fun y =>
          if y.1 = tag then (y.1, { y.2 with started := true }) else y } }
  | .msg m _ _ => sendMsg e.slot m s

/-- Whether an entry must stay at the head of the drain for now: a copy whose tag is not Complete (R273), or a release's message, as long as
earlier accesses of its slot outside the buffer are not performed (R200, R374). -/
def drainHolds (s : State) (e : Entry) : Bool :=
  match e.act with
  | .copy core _ tag => tfind (s.core core).transfer.tags tag == some .inFlight
  | .msg _ _ id =>
    let sl := s.slot e.slot
    (sl.pend.any fun p => p.id < id && p.unread) || sl.traffic.out.any fun o => match o with
      | .stl j _ | .red j _ => decide (j < id)
      | _ => false
  | _ => false

/-- A drained entry in another instance's word: the waiting slot traps with cause 0x14, or the context faults (R352). -/
def overlapFault (gk : Nat) (e : Entry) (w : Nat) (s : State) : State :=
  let s := s.onGroup gk fun g => { g with stopped := true }
  let sl := s.slot e.slot
  match sl.run with
  | .parked (.drain n) =>
    if n = e.seq then raiseTrap e.slot 0x14 (BitVec.ofNat 64 (4 * w)) sl.pc s
    else contextFault sl.bind.ctx 0x14 (coreOf e.slot) (BitVec.ofNat 64 (4 * w)) 0 s
  | _ => contextFault sl.bind.ctx 0x14 (coreOf e.slot) (BitVec.ofNat 64 (4 * w)) 0 s

/-- The core that consumes an entry: that of the home slice, or the slot's own for a marker (R455). -/
def entryHome (e : Entry) : Nat :=
  match e.act with
  | .flush line _ => homeSlice (64 * line)
  | _ => match e.act.words with
    | w :: _ => homeSlice (4 * w)
    | [] => coreOf e.slot

/-- Whether the save of its context holds a group back: Badger saves it, or it is Saved (R438). -/
def groupHeld (s : State) (g : Group) : Bool :=
  (match g.st with
    | .saved _ => true
    | _ => false) ||
  (match tfind s.kernels g.kernel with
    | some kn => ctxHeld s kn.ctx
    | none => false)

/-- An entry that another frontier instance's change keeps from being performed: it and the word (R352) (DEDUCED, log 62). -/
def overlapAmong (s : State) (g : Group) (es : List Entry) : Option (Entry × Nat) :=
  es.findSome? fun e => match e.act with
    | .red _ _ _ _ | .store _ _ _ _ | .atomic _ _ => (e.act.words.find? (overlapOf s g)).map fun w => (e, w)
    | _ => none

/-- Held REDs that an entry releases (R345). -/
def released (g : Group) (e : Entry) : List Entry :=
  g.held.filter fun r => spansMeet r.act.span e.act.span && !sameRed r.act e.act

/-- The oldest entry, and with it the next one where the two are one slot's store to an aligned doubleword, which drain together (R208). -/
def drainUnit (e : Entry) (es : List Entry) : List Entry :=
  match e.act, es with
  | .store w m _ _, x :: _ => match x.act with
    | .store v n _ _ => if x.slot == e.slot && w % 2 == 0 && v == w + 1 && m == 0xf#4 && n == 0xf#4 then [e, x] else [e]
    | _ => [e]
  | _, _ => [e]

/-- The effect of the entries that drain together. -/
def drainActs (gk : Nat) (es : List Entry) (s : State) : State :=
  match es with
  | [e, x] => match e.act, x.act with
    | .store w _ v sector, .store _ _ u _ =>
      let c := coreOf e.slot
      consume e.slot w (changing gk [w, w + 1] (fun s =>
        let s := if sector then allocSector c w s else s
        registerWord c w (l1Store c (w + 1) 0xf#4 u (l1Store c w 0xf#4 v s))) s)
    | _, _ => drainAct gk x (drainAct gk e s)
  | _ => es.foldl (fun s e => drainAct gk e s) s

/-- Held REDs to words of a span combined before a write of the group changes them (R345). -/
def combineBefore (gk : Nat) (sp : Nat × Nat) (s : State) : State :=
  match tfind s.groups gk with
  | none => s
  | some g =>
    let now := g.held.filter fun r => spansMeet r.act.span sp
    if now.isEmpty then s
    else combineHeld gk now (s.onGroup gk fun g => { g with held := g.held.filter fun r => !(now.contains r) })

/-- The words whose old values the drain of an entry puts into the undo log. -/
def undoNeeds (g : Group) (e : Entry) : Nat :=
  ((released g e).map fun r => r.act.words.length).foldl (· + ·) 0 + (match e.act with
    | .store _ _ _ _ => 1
    | .atomic a _ => if a.kind = .lda then 0 else e.act.words.length
    | .msg m true _ => if m.ev = .homeAtomicAccess then 5 else 0
    | _ => 0)

/-- The same for entries that drain together. -/
def unitNeeds (g : Group) (unit : List Entry) : Nat := (unit.map (undoNeeds g)).foldl (· + ·) 0

/-- Whether the ring has no room for n more records of the undo log, which lies behind the drain (R344) (DEDUCED, log 62). -/
def undoFull (g : Group) (n : Nat) : Bool :=
  g.ringSize / 16 < Nat.min g.inRing (g.entries.length - 1) + g.heldIn true + g.undo.length + n

/-- Whether the drain of a group waits for room for its undo log (R348). -/
def undoStalled (g : Group) : Bool :=
  match g.entries with
  | e :: es => match e.act with
    | .copy _ _ _ => undoFull g 1
    | _ => unitNeeds g (drainUnit e es) != 0 && undoFull g (unitNeeds g (drainUnit e es))
  | [] => false

/-- The next entry of a current group drains (R344). A request stays the oldest entry until its answer has come, so that it is performed
before every later one (R374, R404). -/
def drainOne (gk : Nat) (s : State) : State :=
  match tfind s.groups gk with
  | none => s
  | some g =>
    match g.entries with
    | [] => s
    | e :: es =>
      if g.st != .current || g.stopped || groupHeld s g then s
      else if (s.core (coreOf e.slot)).stopped then s.post (evt .commitDrain gk 0 0)
      else
        let unit := drainUnit e es
        let now := (unit.flatMap (released g)).eraseDups
        let need := unitNeeds g unit
        let left := g.entries.drop unit.length
        let pop := fun (s : State) => s.onGroup gk fun g => { g with entries := left, inRing := Nat.min g.inRing left.length }
        let goOn := fun (s : State) => if left.isEmpty then s else s.soon (evt .commitDrain gk 0 0)
        if g.sent then s
        else if (match e.act with
            | .msg _ _ _ => drainHolds s e
            | _ => false) then s.post (evt .commitDrain gk 0 0)
        else match overlapAmong s g (now ++ unit) with
        | some (r, w) => overlapFault gk r w s
        | none =>
          if need != 0 && undoFull g need then s.post (evt .commitDrain gk 0 0) else
          let s := s.onGroup gk fun g => { g with held := g.held.filter fun r => !(now.contains r) }
          let s := combineHeld gk now s
          match e.act with
          | .copy core q tag =>
            if drainHolds s e then
              let s := match tfind (s.core core).transfer.copies tag with
                | some c => if c.started then s else (drainAct gk e s).post (evt .copyWordTransfer core q 0)
                | none => s
              s.soon (evt .commitDrain gk 0 0)
            else goOn (pop s)
          | .msg m true _ =>
            sendMsg e.slot m (countRecv (coreOf e.slot) 2 1 (countSent (coreOf e.slot) 2 1
              (s.onGroup gk fun g => { g with sent := true })))
          | _ =>
            let s := unit.foldl (fun s e => countRecv (entryHome e) 2 1 (countSent (coreOf e.slot) 2 1 s)) s
            goOn (drainActs gk unit (pop s))

/-- COMMIT_DRAIN (R344): arg.k the group. -/
def execCommitDrain (s : State) : Host.Outcome State Fault Refusal := event (drainOne s.arg.k) s

end Sys2Proof.Machine
end

