-- ==== Sys2Proof/Machine/Access.lean ====
section
/-! DEFINITION. Accesses of a slot: the checks before the first byte (R216, R217), loads and stores on their way (R198 to R201,
R218, R222, R236), atomics and REDs at their homes (R206, R209, R210, R227), and the fetch of an instruction (R46). -/

namespace Sys2Proof.Machine

/-! ### The checks of R217 -/

/-- An access of n bytes at a, or one element of it. -/
structure Span where
  a : Nat
  n : Nat
  deriving DecidableEq, Repr

/-- The last byte. -/
def Span.last (u : Span) : Nat := (u.a + (u.n - 1)) % 2 ^ 64

/-- The first byte whose region meets a condition. -/
def Span.findByte (s : State) (c : Nat) (u : Span) (p : Area → Bool) : Option Nat :=
  ((upTo u.n).map fun j => (u.a + j) % 2 ^ 64).find? fun b => p (regionOf s c b)

/-- Order 2: a byte that is not canonical. -/
def Span.nonCanonical (s : State) (c : Nat) (u : Span) : Option Nat :=
  if regionOf s c u.a != .nonCanonical && regionOf s c u.last != .nonCanonical then none
  else u.findByte s c (· == .nonCanonical)

/-- Order 3: a byte in a hole, or in another region than the first. -/
def Span.straddle (s : State) (c : Nat) (u : Span) : Option Nat :=
  let r := regionOf s c u.a
  if r = .hole then some u.a
  else if regionOf s c u.last = r then none
  else u.findByte s c (· != r)

/-- The addresses of a memory span to translate: one for each page. -/
def Span.pages (s : State) (c : Nat) (u : Span) : List Nat :=
  if regionOf s c u.a != .memory || u.n = 0 then []
  else if u.last / 8192 = u.a / 8192 then [u.a]
  else [u.a, u.last / 8192 * 8192]

/-- Whether a translation belongs to order 5: the page is not mapped. -/
def Xlat.unmapped (x : Xlat) : Bool := x == .walk || x == .failed
/-- Whether it belongs to order 6: the page forbids the access. -/
def Xlat.barred (x : Xlat) : Bool := x == .forbidden || x == .format

/-- Orders 5 and 6 for translations (address, address to report, result); then the wait for a migrating page, and the
stop where no memory lies behind the page. The address to report is the element's first, also where only its second page forbids the access
(DESIGN CHOICE, log 67). -/
def xlatCheck (k : Nat) (kind : AccKind) (xs : List (Nat × Nat × Xlat)) (s : State) : Option (State × Ending) :=
  match xs.find? fun x => x.2.2.unmapped with
  | some x => some (xlatEnding k kind x.1 (BitVec.ofNat 64 x.2.1) x.2.2 s)
  | none => match xs.find? fun x => x.2.2.barred with
    | some x => some (xlatEnding k kind x.1 (BitVec.ofNat 64 x.2.1) x.2.2 s)
    | none => match xs.find? fun x => x.2.2 == .migrating with
      | some x => some (xlatEnding k kind x.1 (BitVec.ofNat 64 x.2.1) x.2.2 s)
      | none =>
        if xs.any fun x => match x.2.2 with
            | .pa n => !hasMem n && !isMgmt n
            | _ => false
        then some (s, .stop .noMemory) else none

/-- Where the byte at a virtual address lies, for an access that has passed the checks. -/
def placeAt (k : Nat) (kind : AccKind) (s : State) (a : Nat) : Place :=
  let c := coreOf k
  match regionOf s c a with
  | .scratch | .system => .arr c (a - localBase)
  | .peer i => .arr (c / 8 * 8 + i) ((a - peerBase) % 0x80000)
  | _ => match translate k kind a s with
    | .pa n => .mem n
    | _ => .mem 0

/-- A physical address of a pinned line that an access to memory would consume (R462). -/
def badLine (k : Nat) (kind : AccKind) (us : List Span) (s : State) : Option Nat :=
  if s.pinned.isEmpty then none
  else (us.flatMap fun u => [u.a, u.a + Nat.min 64 (u.n - 1), u.last]).findSome? fun a => match placeAt k kind s a with
    | .mem pa => if lineBad s pa then some pa else none
    | .arr _ _ => none

/-- The checks of R217 on every span: what they end in, or nothing. -/
def checkAccess (k : Nat) (kind : AccKind) (al : Nat) (us : List Span) (s : State) : Option (State × Ending) :=
  let c := coreOf k
  let word := fun (n : Nat) => BitVec.ofNat 64 n
  match us.find? fun u => u.a % al != 0 with
  | some u => some (s, .trap 0x08 (word u.a))
  | none =>
    let us := us.filter fun u => u.n != 0
    match us.findSome? (Span.nonCanonical s c) with
    | some b => some (s, .trap 0x0e (word b))
    | none => match us.findSome? (Span.straddle s c) with
      | some b => some (s, .trap 0x09 (word b))
      | none => match us.find? fun u => !(s.slot k).sv && regionOf s c u.a == .system with
        | some u => some (s, .trap 0x0e (word u.a))
        | none =>
          match xlatCheck k kind (us.flatMap fun u => (u.pages s c).map fun v => (v, u.a, translate k kind v s)) s with
          | some e => some e
          | none => (badLine k kind us s).map fun pa => (s, .bad pa)

/-- What R235 makes of spans in scratchpads. -/
def meetTargets (k : Nat) (us : List Span) (store : Bool) (s : State) : Option Ending :=
  us.findSome? fun u =>
    match regionOf s (coreOf k) u.a with
    | .scratch => targetEnding k (coreOf k) (u.a - localBase) u.a u.n store s
    | .peer i => targetEnding k (coreOf k / 8 * 8 + i) ((u.a - peerBase) % 0x80000) u.a u.n store s
    | _ => none

/-! ### What an access waits for -/

/-- Instructions of a replay that touch memory or scratchpads (R157). -/
def touchesMemory (i : Instr) : Bool :=
  match i with
  | .vld _ _ _ | .vst _ _ _ | .vlds _ _ _ _ | .vsts _ _ _ _ | .vldp _ _ _ | .vldWindow _ _ _ _ => true
  | .vgather _ _ _ _ | .vscatter _ _ _ _ | .copyp _ _ | .tld _ _ | .tst _ _ | .tldb _ _ | .tmma _ _ | .tmmaSp _ _ _ => true
  | _ => false

def isAtomic (p : Pending) : Bool :=
  match p.kind with
  | .atomic _ => true
  | _ => false

def isLda (p : Pending) : Bool :=
  match p.kind with
  | .atomic a => a.kind == .lda
  | _ => false

/-- What an access of the slot waits for before it is performed: a replay with accesses, an LDA (R201). R157 asks this only of an access that
overlaps a replayed one; every access waits for the end of such a replay (DESIGN CHOICE, log 67). -/
def accessWait (sl : Slot) : Option Reason :=
  if sl.replaying && (match sl.replay with
      | some r => r.window.any touchesMemory
      | none => false) then some .replay
  else if sl.pend.any isLda then some .acquire
  else none

/-- What a store waits for beside: a release whose stores are not yet performed (R200) (DEDUCED, log 52). -/
def storeWait (sl : Slot) : Option Reason :=
  match accessWait sl with
  | some r => some r
  | none =>
    if sl.traffic.out.any fun o => match o with
        | .rel _ | .stl _ _ => true
        | _ => false
    then some .stores else none

/-- Whether a release of slot sl that comes at the identity id waits for a replay, after whose REP it issued (R157). -/
def replayHolds (sl : Slot) (id : Nat) : Bool :=
  match sl.replay with
  | some r => !r.ended && r.first ≤ id
  | none => false

/-- The releases at the head of a slot's accesses that wait for nothing more: the messages that they are, and what is left. One waits for
the earlier loads and atomics too (R200, R205), and for a replay (R157). -/
def settled (sl : Slot) : List OutOp → List Msg × List OutOp
  | .rel id :: t => if sl.pend.any fun p => p.id < id && p.unread then ([], .rel id :: t) else settled sl t
  | .send id m :: t =>
    if (sl.pend.any fun p => p.id < id && p.unread) || replayHolds sl id then ([], .send id m :: t)
    else let (ms, t) := settled sl t; (m :: ms, t)
  | t => ([], t)

/-- Those releases of slot k are performed, and their messages sent; those of a stopped core wait for its resume (R457). -/
def settleOut (k : Nat) (s : State) : State :=
  let sl := s.slot k
  let (ms, out) := settled sl sl.traffic.out
  if (s.core (coreOf k)).stopped then s
  else ms.foldl (fun s m => sendMsg k m s) (s.onSlot k fun sl => { sl with traffic := { sl.traffic with out := out } })

/-- Whether two stretches of bytes share a byte. -/
def Place.meets (p : Place) (n : Nat) (q : Place) (m : Nat) : Bool :=
  match p, q with
  | .mem a, .mem b => a < b + m && b < a + n
  | .arr c a, .arr d b => c == d && a < b + m && b < a + n
  | _, _ => false

/-- The bytes of an atomic access. -/
def Atomic.size (a : Atomic) : Nat := if a.w then 4 else 8

/-- Whether an access on its way names some of the bytes. -/
def OutOp.meets (o : OutOp) (p : Place) (n : Nat) : Bool :=
  match o with
  | .store w => p.meets n (.mem (4 * w)) 4
  | .red _ w => p.meets n (.mem (4 * w)) 8
  | .stl _ a => p.meets n a.place a.size
  | .flush l _ => p.meets n (.mem (64 * l)) 64
  | .rel _ | .send _ _ => false

/-- Whether a load must wait for an earlier atomic, RED or STL of its slot to the same bytes (R218). A store has already reached the
L1, which forwards it. -/
def heldBack (sl : Slot) (id : Nat) (items : List LoadItem) : Bool :=
  items.any fun it =>
    (sl.pend.any fun p => p.id < id && (match p.kind with
      | .atomic a => it.place.meets it.size a.place a.size
      | _ => false)) ||
    sl.traffic.out.any fun o => match o with
      | .red _ _ | .stl _ _ => o.meets it.place it.size
      | _ => false

/-- Whether it must wait for any earlier access of its slot, a load among them, so that successive loads of a word read it in their order
(R195, R207, R218). -/
def loadBlocked (sl : Slot) (id : Nat) (items : List LoadItem) : Bool :=
  heldBack sl id items || sl.pend.any fun p => p.id < id && (match p.kind with
    | .load earlier => items.any fun it => earlier.any fun x => it.place.meets it.size x.place x.size
    | _ => false)

/-! ### Loads -/

/-- A word of memory as a load of a buffered group sees it (R236). -/
def bufferedRead (g : Group) (limit c len w : Nat) (s : State) : BitVec 32 × State :=
  if forwards g (w / 2 * 2) limit then
    let (lo, s) := coreRead c (w / 2 * 2) len s
    let (hi, s) := coreRead c (w / 2 * 2 + 1) len s
    (forwardWord g w limit (pairWord lo hi), s)
  else coreRead c w len s

/-- The sectors that n bytes at pa cover, each one block (R405). -/
def wholeSectors (c pa n : Nat) (s : State) : State :=
  ((upTo ((pa + n) / 32 - (pa + 31) / 32)).map fun j => (pa + 31) / 32 * 8 + 8 * j).foldl (fun s w => allocSector c w s) s

/-- n bytes of a place as slot k loads them: `seq` commit entries stand before the load, and the predictor of the core gives the length of
a new block (R191, R199). The upper word of a doubleword is brought into the L1 first, so that both words are of one moment (R208). -/
def readPlace (k seq : Nat) (p : Place) (n : Nat) (s : State) : List (BitVec 8) × State :=
  let len := (s.core (coreOf k)).predict
  match p with
  | .arr c off => (arrBytes s c off n, s)
  | .mem pa =>
    let s := if n < 32 || isMgmt pa then s else wholeSectors (coreOf k) pa n s
    let s := if n = 8 && pa % 8 = 0 && !isMgmt pa then (coreRead (coreOf k) (pa / 4 + 1) len s).2 else s
    if isMgmt pa then registerBytes (pa - 2 ^ 40) n s
    else if buffered s k then
      match groupOf s k with
      | some g => bytesBy (fun w s => bufferedRead g seq (coreOf k) len w s) pa n s
      | none => bytesBy (fun w s => coreRead (coreOf k) w len s) pa n s
    else bytesBy (fun w s => coreRead (coreOf k) w len s) pa n s

/-- The value of an item from its bytes: extended by its kind; bytes beyond a window's bound are zero (R219, R221). -/
def LoadItem.value (it : LoadItem) (bs : List (BitVec 8)) : Word :=
  if it.signed then ofInt 64 (Machine.signed (8 * it.size) (ofBytesLE bs)) else BitVec.ofNat 64 (ofBytesLE bs)

/-- A general register, or one lane of a vector register, put in place. -/
def Slot.putLane (sl : Slot) (r : RegId) (j : Nat) (v : Word) : Slot :=
  match r.file with
  | 0 => sl.put (.g r.num v)
  | _ => sl.put (.v r.num (vset (sl.rv r.num) j (v.extractLsb' 0 32)))

/-- The data of one item read; an access that covers the sector of its word has it as one block (R405). -/
def readItem (k : Nat) (it : LoadItem) (s : State) : Word × State :=
  let s := match it.place with
    | .mem pa => if it.sector && !isMgmt pa then allocSector (coreOf k) (pa / 4) s else s
    | .arr _ _ => s
  let (bs, s) := readPlace k it.seq it.place it.avail s
  (it.value bs, s)

/-- A register in which an item of result id has landed, as a replay that issued after it sees it. -/
def Slot.tellLane (sl : Slot) (id : Nat) (r : RegId) : Slot :=
  sl.tellReplay id (if r.file = 0 then .g r.num (sl.rg r.num) else .v r.num (sl.rv r.num))

/-- One item lands, unless a later instruction has written its register (R119). -/
def landItem (k id : Nat) (s : State) (it : LoadItem) : State :=
  let (v, s) := readItem k it s
  let s := match it.place with
    | .mem pa => if 0 < it.avail then consume k (pa / 4) s else s
    | .arr _ _ => s
  s.onSlot k fun sl => match sl.findPend id with
    | some p => if p.regs.contains it.reg then (sl.putLane it.reg it.lane v).tellLane id it.reg else sl
    | none => sl

/-- What is left of a load after some items have landed. -/
def Slot.loadLeft (sl : Slot) (id : Nat) (rest : List LoadItem) : Slot :=
  if rest.isEmpty then { sl with pend := sl.pend.filter (·.id != id) }
  else { sl with pend := sl.pend.map fun p => if p.id = id then { p with kind := .load rest } else p }

/-- Data of an outstanding load return for the lanes of arg.c (0: all); arg.b, unless it is 0, is the block length that the core's
predictor gives from now on (R191) (DESIGN CHOICE, log 9). -/
def loadReturn (s : State) : State :=
  let k := s.arg.k
  let id := s.arg.a
  match (s.slot k).findPend id with
  | none => s
  | some p => match p.kind with
    | .load items =>
      if loadBlocked (s.slot k) id items then s.post ⟨.loadDataReturn, s.arg⟩
      else
        let lanes := s.arg.c
        let s := if s.arg.b = 0 then s else s.onCore (coreOf k) fun x => { x with predict := s.arg.b }
        let now := if lanes = 0 then items else items.filter fun it => lanes.testBit it.lane
        let s := now.foldl (landItem k id) s
        settleOut k (s.onSlot k fun sl => sl.loadLeft id (items.filter fun it => !now.contains it))
    | .value _ _ | .loaded _ => returnValue s
    | _ => s

/-- LOAD_DATA_RETURN (R199, R222): arg.k the slot, arg.a the result (DESIGN CHOICE, log 8). -/
def execLoadDataReturn (s : State) : Host.Outcome State Fault Refusal := event loadReturn s

/-- The registers of a list of items, each once. -/
def itemRegs (items : List LoadItem) : List RegId := (items.map (·.reg)).eraseDups

/-- The value of a register with its items read at once. -/
def captureReg (k : Nat) (items : List LoadItem) (acc : List RegVal × State) (r : RegId) : List RegVal × State :=
  let (sl, s) := (items.filter fun it => it.reg == r).foldl (fun (a : Slot × State) it =>
    let (v, s) := readItem k it a.2
    (a.1.putLane r it.lane v, s)) (acc.2.slot k, acc.2)
  (acc.1 ++ [if r.file = 0 then .g r.num (sl.rg r.num) else .v r.num (sl.rv r.num)], s)

/-- An outstanding load reads its data now, and returns it later. -/
def captureLoad (k : Nat) (s : State) (p : Pending) : State :=
  match p.kind with
  | .load items =>
    let (xs, s) := (itemRegs items).foldl (captureReg k items) ([], s)
    s.onSlot k fun sl =>
      { sl with pend := sl.pend.map fun q => if q.id = p.id then { q with kind := .loaded xs } else q }
  | _ => s

/-- A later access that writes some bytes does not overtake earlier results of its slot (R218): outstanding loads of
them read at once, after every load before them, and an atomic of them is waited for. -/
def orderAfter (k : Nat) (ps : List (Place × Nat)) (s : State) : Except (State × Ending) State :=
  let sl := s.slot k
  let meets := fun (p : Pending) => match p.kind with
    | .load items => items.any fun it => ps.any fun q => it.place.meets it.size q.1 q.2
    | .atomic a => ps.any fun q => a.place.meets a.size q.1 q.2
    | _ => false
  match (sl.pend.filter meets).getLast? with
  | none => .ok s
  | some last =>
    let now := sl.pend.filter fun p => p.id ≤ last.id
    if now.any fun p => match p.kind with
        | .atomic _ => meets p
        | .load items => heldBack sl p.id items
        | _ => false
    then .error (s, .wait .results)
    else .ok (settleOut k (now.foldl (captureLoad k) s))

/-- One register or lane that a load is to fill: of the n bytes at a, `avail` exist (R219). -/
structure Want where
  reg : RegId
  lane : Nat
  a : Nat
  n : Nat
  avail : Nat
  signed : Bool
  deriving DecidableEq, Repr

def Want.span (w : Want) : Span := ⟨w.a, w.avail⟩

/-- Whether the accesses of one instruction, each an address and a length, cover the 32-byte sector of the byte at a (R405). -/
def coversSector (us : List Span) (a : Nat) : Bool :=
  (upTo 8).all fun j => us.any fun u => u.a ≤ a / 32 * 32 + 4 * j && a / 32 * 32 + 4 * j + 4 ≤ u.a + u.n

/-- The items of a load that has passed its checks. -/
def itemsOf (k : Nat) (ws : List Want) (s : State) : List LoadItem :=
  let seq := match groupOf s k with
    | some g => g.next
    | none => 0
  ws.map fun w =>
    let p := if w.avail = 0 then .arr 0 0 else placeAt k .load s w.a
    let whole := match p with
      | .mem _ => decide (8 ≤ ws.length) && coversSector (ws.map Want.span) w.a
      | .arr _ _ => false
    ⟨w.reg, w.lane, p, w.n, w.avail, w.signed, seq, whole⟩

/-- A load starts: its registers are outstanding until its data return (R222). -/
def startLoad (items : List LoadItem) (s : State) : State :=
  let id := s.me.traffic.nextId
  let s := s.onMe fun sl => sl.addPend (itemRegs items) (.load items)
  s.post (evt .loadDataReturn s.cur id 0)

/-- A load's data read and written at once: in a replay (R156), and for the elements before one that traps or parks. -/
def loadNow (items : List LoadItem) (s : State) : State :=
  let s := s.onMe fun sl => (itemRegs items).foldl Slot.claimReg sl
  items.foldl (fun s it =>
    let (v, s) := readItem s.cur it s
    s.onMe fun sl => sl.putLane it.reg it.lane v) s

/-- A load. `engine` is true for the instructions that a replay can hold; in a replay it reads at once. -/
def loadBody (engine : Bool) (al : Nat) (ws : List Want) (us : List Span) : Body := fun s =>
  let now := engine && s.me.replaying
  match (if now then none else accessWait s.me) with
  | some r => (s, .wait r)
  | none => match checkAccess s.cur .load al us s with
    | some e => e
    | none => match meetTargets s.cur us false s with
      | some e => (s, e)
      | none =>
        let items := itemsOf s.cur ws s
        if now then
          if loadBlocked s.me (s.me.traffic.nextId) items then (s, .wait .results) else (loadNow items s, .next)
        else (startLoad items s, .next)

/-! ### Stores -/

/-- Bytes of a store at a virtual address. -/
structure Put where
  a : Nat
  bytes : List (BitVec 8)
  deriving DecidableEq, Repr

def Put.span (p : Put) : Span := ⟨p.a, p.bytes.length⟩

/-- The words in memory of one of the stores ps of an instruction: word number by physical address, mask, value, whether the stores cover
its whole sector, and virtual page. -/
def memChunks (k : Nat) (s : State) (ps : List Put) (p : Put) : List (Nat × BitVec 4 × BitVec 32 × Bool × Nat) :=
  let us := ps.map Put.span
  let long := decide (32 ≤ (us.map (·.n)).foldl (· + ·) 0)
  (wordChunks p.bytes.length p.a p.bytes).filterMap fun c =>
    match placeAt k .store s (4 * c.1) with
    | .mem pa => some (pa / 4, c.2.1, c.2.2, long && coversSector us (4 * c.1), 4 * c.1 / 8192)
    | .arr _ _ => none

/-- An access of slot k on its way. -/
def addOut (k : Nat) (o : OutOp) (s : State) : State :=
  s.onSlot k fun sl => { sl with traffic := { sl.traffic with out := sl.traffic.out ++ [o] } }

/-- A word stored in the L1 of the slot's core; its registration is on its way (R198). -/
def storeWord (k w : Nat) (mask : BitVec 4) (v : BitVec 32) (sector : Bool) (s : State) : State :=
  let c := coreOf k
  let s := l1Store c w mask v (if sector then allocSector c w s else s)
  (addOut k (.store w) s).post (evt .homeRegistration k w 0)

/-- One of the stores ps of an instruction that has passed its checks, outside a commit buffer: at the array, at a register of the
management block, or in the L1. -/
def putNow (k : Nat) (ps : List Put) (s : State) (p : Put) : State :=
  match placeAt k .store s p.a with
  | .arr c off => storeArray c off p.bytes s
  | .mem pa =>
    if isMgmt pa then registerStore (pa - 2 ^ 40) p.bytes s
    else
      let chunks := memChunks k s ps p
      let s := if p.bytes.length = 8 && pa % 8 = 0 then splitPair (coreOf k) (pa / 4) s else s
      chunks.foldl (fun s c => storeWord k c.1 c.2.1 c.2.2.1 c.2.2.2.1 s) s

/-- Whether a store goes to memory behind a commit buffer. -/
def toBuffer (k : Nat) (s : State) (p : Put) : Bool :=
  buffered s k && (match placeAt k .store s p.a with
    | .mem pa => !isMgmt pa
    | .arr _ _ => false)

/-- The commit entries of a store (R236). -/
def storeActs (k : Nat) (s : State) (ps : List Put) (p : Put) : List (Nat × EntryAct) :=
  if toBuffer k s p then (memChunks k s ps p).map fun c => (c.2.2.2.2, .store c.1 c.2.1 c.2.2.1 c.2.2.2.1) else []

/-- A store of a slot drops the parameter blocks that it touches from the cache of its core (R266). -/
def dropParams (k : Nat) (ps : List (Place × Nat)) (s : State) : State :=
  s.onCore (coreOf k) fun x =>
    { x with transfer := { x.transfer with params := x.transfer.params.filter fun b => !(ps.any fun p => p.1.meets p.2 b.place 64) } }

/-- The places of stores, each with its length; parts of one store on two pages apart. -/
def putPlaces (k : Nat) (s : State) (ps : List Put) : List (Place × Nat) :=
  ps.flatMap fun p => match placeAt k .store s p.a with
    | .arr c off => [(.arr c off, p.bytes.length)]
    | .mem _ => (memChunks k s ps p).map fun c => (.mem (4 * c.1), 4)

/-- Stores that have passed their checks: those to memory of a deterministic slot enter its buffer. -/
def putAll (k : Nat) (ps : List Put) (s : State) : Except (State × Ending) State :=
  let s := dropParams k (putPlaces k s ps) s
  let acts := ps.flatMap (storeActs k s ps)
  let now := ps.filter fun p => !toBuffer k s p
  if acts.isEmpty then .ok (now.foldl (putNow k ps) s)
  else match enter k acts s with
    | .error e => .error e
    | .ok s => .ok (now.foldl (putNow k ps) s)

/-- Whether a RED of the slot to some of the bytes is on its way to the home. -/
def redMeets (sl : Slot) (ps : List (Place × Nat)) : Bool :=
  sl.traffic.out.any fun o => match o with
    | .red _ _ => ps.any fun q => o.meets q.1 q.2
    | _ => false

/-- A store of slot k: what it waits for, the checks, R235, its order after earlier loads, and its effect. -/
def storeFor (k : Nat) (free : Bool) (al : Nat) (ps : List Put) (s : State) : Except (State × Ending) State :=
  let us := ps.map Put.span
  match (if free then none else storeWait (s.slot k)) with
  | some r => .error (s, .wait r)
  | none => match checkAccess k .store al us s with
    | some e => .error e
    | none => match meetTargets k us true s with
      | some e => .error (s, e)
      | none =>
        let places := putPlaces k s ps
        if redMeets (s.slot k) places then .error (s, .wait .stores)
        else match orderAfter k places s with
          | .error e => .error e
          | .ok s => putAll k ps s

/-- A store. `engine` is true for the instructions that a replay can hold. -/
def storeBody (engine : Bool) (al : Nat) (ps : List Put) : Body := fun s =>
  match storeFor s.cur (engine && s.me.replaying) al ps s with
  | .error e => e
  | .ok s => (s, .next)

/-! ### Accesses performed -/

/-- The first of equal accesses on the way of a slot has been performed. -/
def outDone (k : Nat) (o : OutOp) (s : State) : State :=
  settleOut k (s.onSlot k fun sl => { sl with traffic := { sl.traffic with out := sl.traffic.out.erase o } })

/-- HOME_REGISTRATION (R196, R198): arg.k the slot, arg.a the word. -/
def execHomeRegistration (s : State) : Host.Outcome State Fault Refusal :=
  event (fun s => outDone s.arg.k (.store s.arg.a) (consume s.arg.k s.arg.a (registerWord (coreOf s.arg.k) s.arg.a s))) s

/-- HOME_REMOTE_READ (R196, R233): core arg.k reads the word arg.a, and its L1 is filled. -/
def execHomeRemoteRead (s : State) : Host.Outcome State Fault Refusal :=
  event (fun s => (coreRead s.arg.k s.arg.a (s.core s.arg.k).predict s).2) s

/-- HOME_WRITE_BACK (R196): core arg.k writes the word arg.a back. With arg.b = 1 or 2 the line arg.a is flushed for a CFLUSH
or CINV of slot arg.c, after the slot's earlier stores to it (R234). -/
def execHomeWriteBack (s : State) : Host.Outcome State Fault Refusal :=
  event (fun s =>
    if s.arg.b = 0 then writeBack s.arg.k s.arg.a s
    else
      let o := OutOp.flush s.arg.a (s.arg.b == 2)
      let before := (s.slot s.arg.c).traffic.out.takeWhile (· != o)
      if !(s.slot s.arg.c).traffic.out.contains o then s
      else if before.any fun x => x.meets (.mem (64 * s.arg.a)) 64 then s.post ⟨.homeWriteBack, s.arg⟩
      else outDone s.arg.c o (flushLine s.arg.k s.arg.a (s.arg.b == 2) s)) s

/-- FORMAT_WINDOW_FILL (R90): the line arg.k of a window, unless the L2 holds it. -/
def execFormatWindowFill (s : State) : Host.Outcome State Fault Refusal :=
  event (fun s => if (tfind s.work s.arg.k).isSome || (windowOf s s.arg.k).isNone then s else fillLine s.arg.k s) s

/-- FORMAT_WINDOW_WRITEBACK (R90, R91): the line arg.k. -/
def execFormatWindowWriteback (s : State) : Host.Outcome State Fault Refusal :=
  event (fun s => writeBackLine s.arg.k s) s

/-! ### Atomics -/

/-- An atomic access of slot k reaches its home or array: performed in the program order of its slot, after the slot's
earlier stores to the same bytes (R206, R218); an LDA acquires (R228). -/
def atomicPerform (k : Nat) (a : Atomic) (s : State) : Word × State :=
  let (v, s) := performAtomic a s
  let s := forgetPlace (coreOf k) a s
  let s := match a.place with
    | .mem pa => consume k (pa / 4) s
    | .arr _ _ => s
  (v, if a.kind = .lda then l1Acquire (coreOf k) s else s)

/-- Whether an atomic must wait: for an earlier atomic or STL of its slot, or an earlier access on its way to the bytes; an LDA, as a load
followed by ACQ, for every earlier load too (R228, R229). -/
def atomicBlocked (sl : Slot) (id : Nat) (a : Atomic) : Bool :=
  (sl.pend.any fun p => p.id < id && (if a.kind = .lda then isAccess p else isAtomic p)) ||
    sl.traffic.out.any fun o => match o with
      | .stl j _ => decide (j < id)
      | _ => o.meets a.place a.size

def atomicArrive (s : State) : State :=
  let k := s.arg.k
  let id := s.arg.a
  let again := s.post ⟨.homeAtomicAccess, s.arg⟩
  match (s.slot k).findPend id with
  | some p => match p.kind with
    | .atomic a =>
      if atomicBlocked (s.slot k) id a then again
      else
        let (v, s) := atomicPerform k a s
        settleOut k (s.onSlot k fun sl => sl.deliver id (p.regs.map fun r => .g r.num v))
    | _ => s
  | none =>
    match (s.slot k).traffic.out.find? fun o => match o with
        | .stl j _ => j == id
        | _ => false with
    | some (.stl j a) =>
      if (s.slot k).traffic.out.head? = some (.stl j a) && !((s.slot k).pend.any fun p => p.id < id && p.unread) then
        outDone k (.stl j a) (atomicPerform k a s).2
      else again
    | _ => s

/-- The entry of slot k's own that it waits for, if the buffer holds it: an atomic with a result, a FENCE or a PUBLISH. -/
def ownEntry (k : Nat) (p : EntryAct → Bool) (s : State) : Option Nat :=
  match groupOf s k with
  | some g => (g.entries.find? fun e => e.slot == k && p e.act).map (·.seq)
  | none => none

/-- A buffered instruction whose slot parks until its entry drains, and then has the value kept for it (R236). -/
def enterAndWait (page : Nat) (act : EntryAct) (p : EntryAct → Bool) (done : Word → Body) : Body := fun s =>
  if s.me.phase = 2 then done (s.me.keep.getD 0 0#64) s
  else match ownEntry s.cur p s with
    | some n => (s.onMe fun sl => { sl with phase := 1 }, .wait (.drain n))
    | none =>
      match groupOf s s.cur with
      | none => (s, .next)
      | some g =>
        match enter s.cur [(page, act)] s with
        | .error e => e
        | .ok s => (s.onMe fun sl => { sl with phase := 1 }, .wait (.drain g.next))

/-- Whether an entry is an atomic that a slot waits for. -/
def EntryAct.waitsAtomic (a : EntryAct) : Bool :=
  match a with
  | .atomic _ 1 => true
  | _ => false

/-- An atomic access: AMO, CAS and LDA with a destination, STL without. One whose entry stands in the commit buffer, or has drained, was
checked when it entered (R236). -/
def atomicBody (kind : AtomicKind) (acc : AccKind) (w : Bool) (addr val : Word) (d : Option Nat) : Body := fun s =>
  if s.me.phase = 2 then (s.onMe fun sl => sl.wg (d.getD 0) (s.me.keep.getD 0 0#64), .next)
  else match (if s.me.phase = 1 then ownEntry s.cur EntryAct.waitsAtomic s else none) with
  | some n => (s, .wait (.drain n))
  | none =>
  let k := s.cur
  let n := if w then 4 else 8
  let us : List Span := [⟨addr.toNat, n⟩]
  let sync := kind == .lda || kind == .stl
  match (match (if sync then replayPoint s.me else none) with
      | some e => some e
      | none => (if sync then accessWait s.me else storeWait s.me).map Ending.wait) with
  | some e => (s, e)
  | none => match checkAccess k acc n us s with
    | some e => e
    | none => match meetTargets k us (acc != .load) s with
      | some e => (s, e)
      | none =>
        let p := placeAt k acc s addr.toNat
        let s := if acc = .load then s else dropParams k [(p, n)] s
        let a : Atomic := ⟨kind, p, w, val⟩
        let mem := match p with
          | .mem pa => !isMgmt pa
          | .arr _ _ => false
        if buffered s k && mem then
          match d with
          | some d => enterAndWait (addr.toNat / 8192) (.atomic a 1) EntryAct.waitsAtomic
              (fun v s => (s.onMe fun sl => sl.wg d v, .next)) s
          | none => match enter k [(addr.toNat / 8192, .atomic a 0)] s with
            | .error e => e
            | .ok s => (s, .next)
        else match orderAfter k [(p, n)] s with
          | .error e => e
          | .ok s =>
            let id := s.me.traffic.nextId
            let s := match d with
              | some d => s.onMe fun sl => sl.addPend [⟨0, d⟩] (.atomic a)
              | none => (addOut k (.stl id a) s).onMe fun sl => { sl with traffic := { sl.traffic with nextId := id + 1 } }
            (s.post (evt .homeAtomicAccess k id 0), .next)

/-! ### RED (R209, R210, R231) -/

/-- The message of a RED to its home; arg.u is its identity among the slot's accesses. -/
def redMsg (id k w : Nat) (op : RedOp) (wide : Bool) (v : Word) : Msg :=
  ⟨.homeRedArrival, { Arg.reset with k := k, a := w, b := op.code.toNat, c := if wide then 1 else 0, w := v, u := BitVec.ofNat 64 id }⟩

/-- The core of slot k becomes a holder, and the RED is combined into its partial; flags go to the slot. Remote-data caches keep no copy of
a line with partials, so that a later load gathers them (R205) (DEDUCED, log 64). -/
def redHold (k w : Nat) (op : RedOp) (wide : Bool) (v : Word) (s : State) : State :=
  let c := coreOf k
  let s := match tfind s.home w with
    | some (.updateOnly o d hs) => { s with home := tset s.home w (.updateOnly o d (hs ++ [c])) }
    | _ =>
      let s := { s with home := tset s.home w (.updateOnly op wide [c]) }
      if wide then { s with home := tset s.home (w + 1) .upper } else s
  let (f, s) := redLocal c w op wide v (dropRdc (lineOfWord w) s)
  s.onSlot k (·.raise f)

/-- Words that the core has stored and not yet registered reach the home first. -/
def registerOwn (c w : Nat) (s : State) : State :=
  match l1Find s c w with
  | some x => if x.st = .owned false then registerWord c w s else s
  | none => s

/-- The word made ready for a partial of the operation and width: it is Free, or Update-only for them (R196). -/
def redReady (c w : Nat) (op : RedOp) (wide : Bool) (s : State) : State :=
  let s := registerOwn c w s
  let s := if wide then registerOwn c (w + 1) s else s
  match tfind s.home w with
  | some (.updateOnly o d _) =>
    if o = op && d = wide then s
    else
      let s := gather w s
      if wide then recallWord (w + 1) s else s
  | _ =>
    let s := recallWord w s
    if wide then recallWord (w + 1) s else s

/-- The request of a RED at its home: arg.l holds the directory record that it waits for (R210). -/
def redArrive (s : State) : State :=
  let k := s.arg.k
  let w := s.arg.a
  let c := coreOf k
  let wide := s.arg.c = 1
  let v := s.arg.w
  let again := fun (s : State) (l : List Nat) => s.post ⟨.homeRedArrival, { s.arg with l := l }⟩
  let o := OutOp.red s.arg.u.toNat w
  match RedOp.ofCode (BitVec.ofNat 3 s.arg.b) with
  | none => s
  | some op =>
    let out := (s.slot k).traffic.out
    if !out.contains o then s
    else if (out.takeWhile (· != o)).any fun x => x.meets (.mem (4 * w)) 8 then again s s.arg.l
    else if isMgmt (4 * w) then
      let n := if wide then 8 else 4
      let (old, s) := registerBytes (4 * w - 2 ^ 40) n s
      let (r, f) := redCombineWord op wide (BitVec.ofNat 64 (ofBytesLE old)) v
      outDone k o ((registerPut (4 * w - 2 ^ 40) (bytesLE n r.toNat) s).onSlot k (·.raise f))
    else
      let s := redReady c w op wide (consume k w s)
      let line := lineOfWord w
      if hasPartial s c w op wide then
        let (f, s) := redLocal c w op wide v s
        outDone k o (s.onSlot k (·.raise f))
      else if (lineCores line s).contains c || lineHolders line s < 4 then outDone k o (redHold k w op wide v s)
      else if !ctxDh s (s.slot k).bind.ctx then
        let s := l1Forget c w (redHome w op wide v s)
        outDone k o (if wide then l1Forget c (w + 1) s else s)
      else
        let h := s.core (homeSlice (64 * line))
        match s.arg.l with
        | n :: _ => if h.posts.any fun p => p.place == n then again s s.arg.l else outDone k o (redHold k w op wide v s)
        | [] => if dirTaken h h.dirNext then again s [] else again (dirPost 0 c line s) [h.dirNext]

/-- HOME_RED_ARRIVAL (R209, R210): arg.k the slot, arg.a the word, arg.b the operation, arg.c the width, arg.w the operand. -/
def execHomeRedArrival (s : State) : Host.Outcome State Fault Refusal := event redArrive s

/-- The handler of home core h has finished the record in place n of its ring (R211): the record is consumed, the entry that it names for a
holder is kept for the gather (R212), and a record that waited for the place is written. -/
def dirDone (h n : Nat) (s : State) : State :=
  let x := s.core h
  match x.posts.find? fun p => p.place % 256 == n with
  | none => s
  | some p =>
    let entry := arrNat s h (dirOffset n + 8) 8 % 2 ^ 52 / 64 * 64
    let s := s.setCore h { x with
      posts := x.posts.erase p,
      dirEntries := if p.kind = 0 then tset x.dirEntries p.line (tget x.dirEntries p.line [] ++ [entry]) else x.dirEntries }
    match (s.core h).posts.find? fun q => q.place % 256 == n with
    | some q => dirWrite h q s
    | none => s

/-- DIRECTORY_HANDLER_DONE (R211): arg.k the home core, arg.a the place in the ring. -/
def execDirectoryHandlerDone (s : State) : Host.Outcome State Fault Refusal := event (dirDone s.arg.k s.arg.a) s

/-- RED (R230, R231, R236). -/
def redBody (op : RedOp) (wide : Bool) (addr val : Word) : Body := fun s =>
  let k := s.cur
  let n := if wide then 8 else 4
  let us : List Span := [⟨addr.toNat, n⟩]
  match storeWait s.me with
  | some r => (s, .wait r)
  | none => match checkAccess k .rmw n us s with
    | some e => e
    | none => match meetTargets k us true s with
      | some e => (s, e)
      | none =>
        let s := dropParams k [(placeAt k .rmw s addr.toNat, n)] s
        match placeAt k .rmw s addr.toNat with
        | .arr c off => match orderAfter k [(.arr c off, n)] s with
          | .error e => e
          | .ok s =>
            let (r, f) := redCombineWord op wide (BitVec.ofNat 64 (arrNat s c off n)) val
            (((storeArray c off (bytesLE n r.toNat) s).onMe (·.raise f)), .next)
        | .mem pa =>
          if !isMgmt pa && buffered s k then
            match enter k [(addr.toNat / 8192, .red op wide pa val)] s with
            | .error e => e
            | .ok s => (s, .next)
          else match orderAfter k [(.mem pa, n)] s with
            | .error e => e
            | .ok s =>
              if !isMgmt pa && hasPartial s (coreOf k) (pa / 4) op wide && !redMeets s.me [(.mem pa, n)] then
                let (f, s) := redLocal (coreOf k) (pa / 4) op wide val s
                (s.onMe (·.raise f), .next)
              else
                let id := s.me.traffic.nextId
                let s := (addOut k (.red id (pa / 4)) s).onMe fun sl => { sl with traffic := { sl.traffic with nextId := id + 1 } }
                (s.post (redMsg id k (pa / 4) op wide val), .next)

/-! ### Fetching (R43, R44, R46) -/

/-- One parcel of slot k's code. -/
def fetchParcel (k : Nat) (a : Word) (s : State) : Except (State × Ending) (Nat × State) :=
  if regionOf s (coreOf k) a.toNat != .memory then .error (s, .trap 0x0d a)
  else match translate k .fetch a.toNat s with
    | .pa n =>
      if isMgmt n then
        let (bs, s) := registerBytes (n - 2 ^ 40) 2 s
        .ok (ofBytesLE bs, s)
      else if !hasMem n then .error (s, .stop .noMemory)
      else if lineBad s n then .error (s, .bad n)
      else .ok (homeNat n 2 s)
    | x => .error (xlatEnding k .fetch a.toNat a x s)

/-- A whole word: its length in bits and its bits, both parcels fetched before either is decoded. -/
def fetchWord (k : Nat) (a : Word) (s : State) : Except (State × Ending) (Nat × Nat × State) :=
  match fetchParcel k a s with
  | .error e => .error e
  | .ok (lo, s) =>
    if lo % 2 = 0 then .ok (16, lo, s)
    else match fetchParcel k (a + 2) s with
      | .error e => .error e
      | .ok (hi, s) => .ok (32, hi * 65536 + lo, s)

end Sys2Proof.Machine
end

