-- ==== Sys2Proof/Machine/Memory.lean ====
section
/-! DEFINITION. Loads, stores, atomics, fences, RED and cache control (10_access), TLBFL and ATR (12_page). -/

namespace Sys2Proof.Machine

/-! ### Scalar accesses (R219 to R222) -/

/-- The size of LD and whether it extends the sign. -/
def ldShape (k : LdKind) : Nat × Bool :=
  match k with
  | .b => (1, true)
  | .h => (2, true)
  | .w => (4, true)
  | .d => (8, true)
  | .bz => (1, false)
  | .hz => (2, false)
  | .wz => (4, false)

/-- A scalar load of n bytes into g d. -/
def scalarLoad (addr : Word) (n : Nat) (sgn : Bool) (d : BitVec 5) : Body :=
  loadBody false n [⟨⟨0, d.toNat⟩, 0, addr.toNat, n, n, sgn⟩] [⟨addr.toNat, n⟩]

/-- A scalar store of the low n bytes of a value. -/
def scalarStore (addr : Word) (n : Nat) (v : Word) : Body := storeBody false n [⟨addr.toNat, bytesLE n v.toNat⟩]

/-- Bytes of a window of size `bound` that exist in the n bytes at offset off. -/
def inWindow (bound off n : Nat) : Nat := Nat.min n (bound - off)

/-- A window load of `total` bytes at offset off of window k, in wanted pieces (offset from off, and the rest): unbound,
then alignment, then the checks on the bytes below the bound; st.WF where a byte lies beyond it (R219). -/
def windowLoad (engine : Bool) (k : Nat) (off : Word) (al total : Nat) (want : List (Nat × RegId × Nat × Nat × Bool)) : Body :=
  fun s =>
    let base := vget s.me.sys.wb k 0
    let bound := slice (vget s.me.sys.wl k 0) 16 0
    if bound = 0 then (s, .trap 0x0a (BitVec.ofNat 64 k))
    else if off.toNat % al != 0 then (s, .trap 0x08 (base + off))
    else
      let avail := inWindow bound off.toNat total
      let ws := want.map fun w =>
        ⟨w.2.1, w.2.2.1, (base + off + BitVec.ofNat 64 w.1).toNat, w.2.2.2.1, inWindow bound (off.toNat + w.1) w.2.2.2.1, w.2.2.2.2⟩
      match loadBody engine 1 ws [⟨(base + off).toNat, avail⟩] s with
      | (s, .next) => (if avail < total then s.onMe (·.setSt stWF true) else s, .next)
      | r => r

/-! ### Vector accesses (R223) -/

/-- The lanes of a vector register, from consecutive words. -/
def laneWants (addr : Word) (d : Nat) : List Want :=
  (upTo 16).map fun j => ⟨⟨1, d⟩, j, (addr + BitVec.ofNat 64 (4 * j)).toNat, 4, 4, false⟩

/-- Lanes at a stride. -/
def laneAddr (addr stride : Word) (j : Nat) : Nat := (addr + BitVec.ofNat 64 j * stride).toNat

/-! ### Macros (R41, R105) -/

/-- The element at which a macro starts, or the trap of another macro's `prg`. -/
def macroStart (mid : Nat) (prg : Word) : Option Nat :=
  let m := slice prg 63 56
  if m = 0 then some 0
  else if m = mid then some (slice prg 31 0)
  else none

/-- `prg` at element i of a macro. -/
def macroPrg (mid i : Nat) : Word := BitVec.ofNat 64 (mid * 2 ^ 56 + i)

def setPrg (x : Word) (s : State) : State := s.onMe (·.onSys fun y => { y with prg := x })

/-- The elements i, i + 1, … of a macro, one by one: one that does not complete ends it, with `prg` at that element, and so
does a pending timer cause between two elements, or the save of the context (R296). -/
def macroRun (mid : Nat) (elem : Nat → Body) : Nat → Nat → Body
  | 0, _ => fun s => (setPrg 0 s, .next)
  | n + 1, i => fun s =>
    match elem i (setPrg (macroPrg mid i) s) with
    | (s, .next) =>
      if n != 0 && (s.me.timerDue || ctxHeld s s.myCtx) then (setPrg (macroPrg mid (i + 1)) s, .wait .again) else macroRun mid elem n (i + 1) s
    | r => r

/-- A macro of `count` elements. -/
def macroBody (mid count : Nat) (elem : Nat → Body) : Body := fun s =>
  match macroStart mid s.me.sys.prg with
  | none => (s, .trap 0x01 s.me.sys.prg)
  | some i => macroRun mid elem (count - i) i s

/-- The address of an element of VGATHER or VSCATTER (R224). -/
def elemAddr (c : BitVec 2) (a : Word) (idx : VReg) (i : Nat) : Nat :=
  (a + zext64 (vget idx i 0#32) * BitVec.ofNat 64 (2 ^ c.toNat)).toNat

/-- The checks of element i of VGATHER; the element is not yet read. -/
def gatherElem (addr : Nat → Nat) (i : Nat) : Body := fun s =>
  match checkAccess s.cur .load 4 [⟨addr i, 4⟩] s with
  | some e => e
  | none => match meetTargets s.cur [⟨addr i, 4⟩] false s with
    | some e => (s, e)
    | none => (s, .next)

/-- VGATHER (R224, R225): every element is checked in turn; the lanes return together, but those before an element that
traps or parks land at once. -/
def gatherBody (c : BitVec 2) (b : BitVec 4) (a : BitVec 5) (d : BitVec 4) : Body := fun s =>
  let now := s.me.replaying
  let addr := elemAddr c (s.me.rg a.toNat) (s.me.rv b.toNat)
  let want := fun (i : Nat) => (⟨⟨1, d.toNat⟩, i, addr i, 4, 4, false⟩ : Want)
  match macroStart 5 s.me.sys.prg with
  | none => (s, .trap 0x01 s.me.sys.prg)
  | some first => match (if now then none else accessWait s.me) with
    | some r => (s, .wait r)
    | none => match macroRun 5 (gatherElem addr) (16 - first) first s with
      | (s, .next) =>
        let items := (itemsOf s.cur (((upTo 16).drop first).map want) s).map fun it => { it with sector := false }
        if items.isEmpty then (s, .next)
        else if now then (loadNow items s, .next)
        else (startLoad items s, .next)
      | (s, e) =>
        let last := slice s.me.sys.prg 31 0
        let items := (itemsOf s.cur (((upTo last).drop first).map want) s).map fun it => { it with sector := false }
        if loadBlocked s.me s.me.traffic.nextId items then (setPrg (macroPrg 5 first) s, .wait (if s.me.pend.isEmpty then .stores else .results))
        else (loadNow items s, e)

/-- Element i of VSCATTER. -/
def scatterElem (addr : Nat → Nat) (v : VReg) (i : Nat) : Body :=
  storeBody true 4 [⟨addr i, bytesLE 4 (vget v i 0#32).toNat⟩]

/-! ### Cache control (R232 to R234) -/

/-- The physical line of an address that lies in the memory region and is mapped; the address is not checked (R232). -/
def quietLine (addr : Word) (s : State) : Option Nat × State :=
  if regionOf s s.myCore addr.toNat != .memory then (none, s)
  else
    let ok := fun (pa : Nat) => if hasMem pa then some (pa / 64) else none
    match tlbFind s s.myOctet s.myCtx addr.toNat with
    | some t => (ok (t.pa + addr.toNat % 2 ^ t.bits), s)
    | none =>
      let (r, s) := walk s.myCtx addr.toNat s
      (match r with
        | .leaf e bits => if pteSt e = 2 then none else ok (ptePa e + addr.toNat % 2 ^ bits)
        | _ => none, s)

/-- CFLUSH and CINV: accesses that wait as others do (R157, R201). -/
def cacheBody (inv : Bool) (addr : Word) : Body := fun s =>
  let (l, s) := quietLine addr s
  match l with
  | none => (s, .next)
  | some line => match accessWait s.me with
  | some r => (s, .wait r)
  | none =>
    if buffered s s.cur then
      match enter s.cur [(addr.toNat / 8192, .flush line inv)] s with
      | .error e => e
      | .ok s => (s, .next)
    else
      match orderAfter s.cur [(.mem (64 * line), 64)] s with
      | .error e => e
      | .ok s =>
        ((addOut s.cur (.flush line inv) s).post
          ⟨.homeWriteBack, { Arg.reset with k := s.myCore, a := line, b := if inv then 2 else 1, c := s.cur }⟩, .next)

/-- What REL waits for, and its place among the accesses on their way (R200, R157). -/
def relBody : Body := fun s =>
  match replayPoint s.me with
  | some e => (s, e)
  | none =>
  if buffered s s.cur then
    match enter s.cur [(0, .rel)] s with
    | .error e => e
    | .ok s => (s, .next)
  else if s.me.performed then (s, .next)
  else (addOut s.cur (.rel s.me.traffic.nextId) s, .next)

/-- ACQ: every earlier load has returned (R229), and no replay runs (R157). -/
def acqBody : Body := fun s =>
  match replayPoint s.me with
  | some e => (s, e)
  | none =>
  if s.me.pend.any isAccess then (s, .wait .results)
  else (l1Acquire s.myCore s, .next)

def EntryAct.isFence (a : EntryAct) : Bool := a == .fence

/-- FENCE. -/
def fenceBody : Body := fun s =>
  match replayPoint s.me with
  | some e => (s, e)
  | none =>
  if buffered s s.cur then
    if s.me.phase = 0 && s.me.pend.any isAccess then (s, .wait .results)
    else enterAndWait 0 .fence EntryAct.isFence (fun _ s => (s, .next)) s
  else if !s.me.traffic.out.isEmpty then (s, .wait .stores)
  else acqBody s

/-- The effective address of an M-format access: an offset in units of `size`. -/
def memAddr (sl : Slot) (a : BitVec 5) (o : Word) (size : Nat) : Word := sl.rg a.toNat + o * BitVec.ofNat 64 size

/-! ### The instructions -/

/-- LD (R221). -/
def bodyLd (o : BitVec 11) (k : LdKind) (a d : BitVec 5) : Body := fun s =>
  scalarLoad (memAddr s.me a (sext64 o) (ldShape k).1) (ldShape k).1 (ldShape k).2 d s

/-- LD (R221). -/
def execLd (o : BitVec 11) (k : LdKind) (a d : BitVec 5) (s : State) : Host.Outcome State Fault Refusal :=
  issue (.ld o k a d) (bodyLd o k a d) s

/-- LD_WINDOW (R219). -/
def bodyLdWindow (w : BitVec 3) (z : Sz) (o : BitVec 6) (a d : BitVec 5) : Body := fun s =>
  windowLoad false w.toNat (memAddr s.me a (zext64 o) (szBytes z)) (szBytes z) (szBytes z) [(0, ⟨0, d.toNat⟩, 0, szBytes z, true)] s

/-- LD_WINDOW (R219). -/
def execLdWindow (w : BitVec 3) (z : Sz) (o : BitVec 6) (a d : BitVec 5) (s : State) : Host.Outcome State Fault Refusal :=
  issue (.ldWindow w z o a d) (bodyLdWindow w z o a d) s

/-- ST (R221). -/
def bodySt (o : BitVec 11) (k : Sz) (a d : BitVec 5) : Body := fun s =>
  scalarStore (memAddr s.me a (sext64 o) (szBytes k)) (szBytes k) (s.me.rg d.toNat) s

/-- ST (R221). -/
def execSt (o : BitVec 11) (k : Sz) (a d : BitVec 5) (s : State) : Host.Outcome State Fault Refusal :=
  issue (.st o k a d) (bodySt o k a d) s

/-- VLD (R223). -/
def bodyVld (o : BitVec 11) (a : BitVec 5) (d : BitVec 4) : Body := fun s =>
  let addr := memAddr s.me a (sext64 o) 64
  loadBody true 4 (laneWants addr d.toNat) [⟨addr.toNat, 64⟩] s

/-- VLD (R223). -/
def execVld (o : BitVec 11) (a : BitVec 5) (d : BitVec 4) (s : State) : Host.Outcome State Fault Refusal :=
  issue (.vld o a d) (bodyVld o a d) s

/-- VST (R223). -/
def bodyVst (o : BitVec 11) (a : BitVec 5) (d : BitVec 4) : Body := fun s =>
  storeBody true 4 [⟨(memAddr s.me a (sext64 o) 64).toNat, vregBytes (s.me.rv d.toNat)⟩] s

/-- VST (R223). -/
def execVst (o : BitVec 11) (a : BitVec 5) (d : BitVec 4) (s : State) : Host.Outcome State Fault Refusal :=
  issue (.vst o a d) (bodyVst o a d) s

/-- VLDS (R223). -/
def bodyVlds (x : BitVec 3) (o : BitVec 8) (a : BitVec 5) (d : BitVec 4) : Body := fun s =>
  let addr := laneAddr (memAddr s.me a (sext64 o) 4) (s.me.rx x.toNat)
  loadBody true 4 ((upTo 16).map fun j => ⟨⟨1, d.toNat⟩, j, addr j, 4, 4, false⟩) ((upTo 16).map fun j => ⟨addr j, 4⟩) s

/-- VLDS (R223). -/
def execVlds (x : BitVec 3) (o : BitVec 8) (a : BitVec 5) (d : BitVec 4) (s : State) : Host.Outcome State Fault Refusal :=
  issue (.vlds x o a d) (bodyVlds x o a d) s

/-- VSTS (R223). -/
def bodyVsts (x : BitVec 3) (o : BitVec 8) (a : BitVec 5) (d : BitVec 4) : Body := fun s =>
  let addr := laneAddr (memAddr s.me a (sext64 o) 4) (s.me.rx x.toNat)
  storeBody true 4 ((upTo 16).map fun j => ⟨addr j, bytesLE 4 (vget (s.me.rv d.toNat) j 0#32).toNat⟩) s

/-- VSTS (R223). -/
def execVsts (x : BitVec 3) (o : BitVec 8) (a : BitVec 5) (d : BitVec 4) (s : State) : Host.Outcome State Fault Refusal :=
  issue (.vsts x o a d) (bodyVsts x o a d) s

/-- LDP (R221). -/
def bodyLdp (o : BitVec 11) (a d : BitVec 5) : Body := fun s =>
  let addr := memAddr s.me a (sext64 o) 16
  loadBody false 8 [⟨⟨0, d.toNat⟩, 0, addr.toNat, 8, 8, false⟩, ⟨⟨0, d.toNat + 1⟩, 0, (addr + 8).toNat, 8, 8, false⟩]
    [⟨addr.toNat, 8⟩, ⟨(addr + 8).toNat, 8⟩] s

/-- LDP (R221). -/
def execLdp (o : BitVec 11) (a d : BitVec 5) (s : State) : Host.Outcome State Fault Refusal :=
  issue (.ldp o a d) (bodyLdp o a d) s

/-- VLDP (R223). In a REP, d may be staggered to an odd register: then v[d] and v[(d + 1) mod 16]
(DESIGN CHOICE, log 67). -/
def bodyVldp (o : BitVec 11) (a : BitVec 5) (d : BitVec 4) : Body := fun s =>
  let addr := memAddr s.me a (sext64 o) 128
  loadBody true 4 (laneWants addr d.toNat ++ laneWants (addr + 64) ((d.toNat + 1) % 16)) [⟨addr.toNat, 64⟩, ⟨(addr + 64).toNat, 64⟩] s

/-- VLDP (R223). -/
def execVldp (o : BitVec 11) (a : BitVec 5) (d : BitVec 4) (s : State) : Host.Outcome State Fault Refusal :=
  issue (.vldp o a d) (bodyVldp o a d) s

/-- VLD_WINDOW (R223). -/
def bodyVldWindow (w : BitVec 3) (o : BitVec 8) (a : BitVec 5) (d : BitVec 4) : Body := fun s =>
  windowLoad true w.toNat (memAddr s.me a (zext64 o) 64) 4 64 ((upTo 16).map fun j => (4 * j, ⟨1, d.toNat⟩, j, 4, false)) s

/-- VLD_WINDOW (R223). -/
def execVldWindow (w : BitVec 3) (o : BitVec 8) (a : BitVec 5) (d : BitVec 4) (s : State) : Host.Outcome State Fault Refusal :=
  issue (.vldWindow w o a d) (bodyVldWindow w o a d) s

/-- AMO (R227). -/
def bodyAmo (w : Bool) (o : AmoOp) (b a d : BitVec 5) : Body := fun s =>
  atomicBody (.amo o) .rmw w (s.me.rg a.toNat) (s.me.rg b.toNat) (some d.toNat) s

/-- AMO (R227). -/
def execAmo (w : Bool) (o : AmoOp) (b a d : BitVec 5) (s : State) : Host.Outcome State Fault Refusal :=
  issue (.amo w o b a d) (bodyAmo w o b a d) s

/-- CAS (R227). -/
def bodyCas (w : Bool) (b a d : BitVec 5) : Body := fun s =>
  atomicBody (.cas (s.me.rg d.toNat)) .rmw w (s.me.rg a.toNat) (s.me.rg b.toNat) (some d.toNat) s

/-- CAS (R227). -/
def execCas (w : Bool) (b a d : BitVec 5) (s : State) : Host.Outcome State Fault Refusal :=
  issue (.cas w b a d) (bodyCas w b a d) s

/-- LDA (R228). -/
def bodyLda (w : Bool) (a d : BitVec 5) : Body := fun s =>
  atomicBody .lda .load w (s.me.rg a.toNat) 0 (some d.toNat) s

/-- LDA (R228). -/
def execLda (w : Bool) (a d : BitVec 5) (s : State) : Host.Outcome State Fault Refusal :=
  issue (.lda w a d) (bodyLda w a d) s

/-- STL (R228). -/
def bodyStl (w : Bool) (b a : BitVec 5) : Body := fun s =>
  atomicBody .stl .store w (s.me.rg a.toNat) (s.me.rg b.toNat) none s

/-- STL (R228). -/
def execStl (w : Bool) (b a : BitVec 5) (s : State) : Host.Outcome State Fault Refusal :=
  issue (.stl w b a) (bodyStl w b a) s

/-- ACQ (R229). -/
def bodyAcq : Body := acqBody

/-- ACQ (R229). -/
def execAcq (s : State) : Host.Outcome State Fault Refusal :=
  issue .acq bodyAcq s

/-- REL (R229). -/
def bodyRel : Body := relBody

/-- REL (R229). -/
def execRel (s : State) : Host.Outcome State Fault Refusal :=
  issue .rel bodyRel s

/-- FENCE (R229). -/
def bodyFence : Body := fenceBody

/-- FENCE (R229). -/
def execFence (s : State) : Host.Outcome State Fault Refusal :=
  issue .fence bodyFence s

/-- RED (R231). -/
def bodyRed (o : RedOp) (z : Bool) (b a : BitVec 5) : Body := fun s =>
  redBody o z (s.me.rg a.toNat) (s.me.rg b.toNat) s

/-- RED (R231). -/
def execRed (o : RedOp) (z : Bool) (b a : BitVec 5) (s : State) : Host.Outcome State Fault Refusal :=
  issue (.red o z b a) (bodyRed o z b a) s

/-- VGATHER (R224). -/
def bodyVgather (c : BitVec 2) (b : BitVec 4) (a : BitVec 5) (d : BitVec 4) : Body := gatherBody c b a d

/-- VGATHER (R224). -/
def execVgather (c : BitVec 2) (b : BitVec 4) (a : BitVec 5) (d : BitVec 4) (s : State) : Host.Outcome State Fault Refusal :=
  issue (.vgather c b a d) (bodyVgather c b a d) s

/-- VSCATTER (R224). -/
def bodyVscatter (c : BitVec 2) (b : BitVec 4) (a : BitVec 5) (d : BitVec 4) : Body := fun s =>
  macroBody 6 16 (scatterElem (elemAddr c (s.me.rg a.toNat) (s.me.rv b.toNat)) (s.me.rv d.toNat)) s

/-- VSCATTER (R224). -/
def execVscatter (c : BitVec 2) (b : BitVec 4) (a : BitVec 5) (d : BitVec 4) (s : State) : Host.Outcome State Fault Refusal :=
  issue (.vscatter c b a d) (bodyVscatter c b a d) s

/-- LDX (R220). -/
def bodyLdx (c : BitVec 2) (z : Sz) (u : Bool) (b a d : BitVec 5) : Body := fun s =>
  scalarLoad (s.me.rg a.toNat + s.me.rg b.toNat * BitVec.ofNat 64 (2 ^ c.toNat)) (szBytes z) (!u) d s

/-- LDX (R220). -/
def execLdx (c : BitVec 2) (z : Sz) (u : Bool) (b a d : BitVec 5) (s : State) : Host.Outcome State Fault Refusal :=
  issue (.ldx c z u b a d) (bodyLdx c z u b a d) s

/-- STX (R220). -/
def bodyStx (c : BitVec 2) (z : Sz) (b a d : BitVec 5) : Body := fun s =>
  scalarStore (s.me.rg a.toNat + s.me.rg b.toNat * BitVec.ofNat 64 (2 ^ c.toNat)) (szBytes z) (s.me.rg d.toNat) s

/-- STX (R220). -/
def execStx (c : BitVec 2) (z : Sz) (b a d : BitVec 5) (s : State) : Host.Outcome State Fault Refusal :=
  issue (.stx c z b a d) (bodyStx c z b a d) s

/-- PREF (R233). -/
def bodyPref (a : BitVec 5) : Body := fun s =>
  let (l, s) := quietLine (s.me.rg a.toNat) s
  match l with
  | none => (s, .next)
  | some line => ((s.post (evt .homeRemoteRead s.myCore (16 * line) 0)).post (evt .homeRemoteRead s.myCore (16 * line + 8) 0), .next)

/-- PREF (R233). -/
def execPref (a : BitVec 5) (s : State) : Host.Outcome State Fault Refusal :=
  issue (.pref a) (bodyPref a) s

/-- CFLUSH (R234). -/
def bodyCflush (a : BitVec 5) : Body := fun s =>
  cacheBody false (s.me.rg a.toNat) s

/-- CFLUSH (R234). -/
def execCflush (a : BitVec 5) (s : State) : Host.Outcome State Fault Refusal :=
  issue (.cflush a) (bodyCflush a) s

/-- CINV (R234). -/
def bodyCinv (a : BitVec 5) : Body := fun s =>
  cacheBody true (s.me.rg a.toNat) s

/-- CINV (R234). -/
def execCinv (a : BitVec 5) (s : State) : Host.Outcome State Fault Refusal :=
  issue (.cinv a) (bodyCinv a) s

/-- C_LDW (R52). -/
def bodyCLdw (b d : BitVec 5) : Body := fun s =>
  scalarLoad (s.me.rg b.toNat) 4 true d s

/-- C_LDW (R52). -/
def execCLdw (b d : BitVec 5) (s : State) : Host.Outcome State Fault Refusal :=
  issue (.cLdw b d) (bodyCLdw b d) s

/-- C_STW (R52). -/
def bodyCStw (b d : BitVec 5) : Body := fun s =>
  scalarStore (s.me.rg d.toNat) 4 (s.me.rg b.toNat) s

/-- C_STW (R52). -/
def execCStw (b d : BitVec 5) (s : State) : Host.Outcome State Fault Refusal :=
  issue (.cStw b d) (bodyCStw b d) s

/-! ### TLBFL (R251) -/

/-- Whether a context is a physical-function context (R428). -/
def ctxHv (s : State) (ctx : Nat) : Bool :=
  match tfind s.ctxs ctx with
  | some c => c.hv
  | none => false

/-- The flush of TLBFL (R251): the slot parks until it completes. -/
def tlbflStart (m : BitVec 5) (va : Nat) : Body := fun s =>
  let ctx := if m = 2 then va % 256 else s.myCtx
  let ((lo, hi), s) := if m = 0 then flushRange ctx va s else ((0, 2 ^ 64), s)
  let (id, s) := startFlush ctx lo hi false s
  (s.onMe fun sl => { sl with phase := 1, keep := [BitVec.ofNat 64 id] }, .wait (.flushing id))

/-- TLBFL (R251): first as REL, which a buffered slot enters in its commit buffer, then the flush, until it completes. -/
def execTlbfl (m a : BitVec 5) (s : State) : Host.Outcome State Fault Refusal :=
  issue (.tlbfl m a) (fun s =>
    let sl := s.me
    let va := (sl.rg a.toNat).toNat
    if m = 2 && !ctxHv s s.myCtx then (s, .trap 0x02 (wordOf (.tlbfl m a) s))
    else if sl.phase = 1 then
      if s.flushes.any fun f => f.id == (sl.keep.getD 0 0).toNat then (s, .wait (.flushing (sl.keep.getD 0 0).toNat))
      else (s, .next)
    else if sl.replayed then (s, replayEnding sl)
    else if buffered s s.cur then
      match enter s.cur [(0, .rel)] s with
      | .error e => e
      | .ok s => tlbflStart m va s
    else if !sl.performed then (s, .wait .stores)
    else tlbflStart m va s) s

/-! ### ATR (R250) -/

/-- The code of a page size. -/
def sizeCode (bits : Nat) : Nat := if bits = 13 then 0 else if bits = 18 then 1 else if bits = 23 then 2 else 3

/-- The result of ATR for kind 0 load, 1 store, 2 fetch (R250). ATR walks the tables and leaves the TLB aside (DESIGN CHOICE, log 65). -/
def atrResult (kind : Nat) (va : Word) (s : State) : Word × State :=
  let fail := fun (c : Nat) => BitVec.ofNat 64 (2 ^ 63 + (if kind = 2 then 0x0d else c))
  let k : AccKind := if kind = 0 then .load else if kind = 1 then .store else .fetch
  match regionOf s s.myCore va.toNat with
  | .memory =>
    let (r, s) := walk s.myCtx va.toNat s
    match r with
    | .unmapped _ => (fail (if kind = 0 then 0x0b else 0x0c), s)
    | .format => (fail 0x0e, s)
    | .leaf e bits =>
      let t := tlbOf s.myCtx va.toNat e bits
      let pa := ptePa e + va.toNat % 2 ^ bits
      match grant k s.me.sv pa t.u t.x t.w t.r with
      | .pa pa =>
        if pteSt e = 2 then (fail (if kind = 0 then 0x0b else 0x0c), s)
        else if pteSt e = 1 && kind = 1 then (fail 0x0c, s)
        else (BitVec.ofNat 64 (sizeCode bits * 2 ^ 56 + pa), s)
      | _ => (fail 0x0e, s)
  | .nonCanonical => (fail 0x0e, s)
  | _ => (fail 0x09, s)

/-- ATR (R250). -/
def execAtr (k a d : BitVec 5) (s : State) : Host.Outcome State Fault Refusal :=
  issue (.atr k a d) (fun s =>
    let (x, s) := atrResult k.toNat (s.me.rg a.toNat) s
    later .loadDataReturn [.g d.toNat x] 0 s) s

end Sys2Proof.Machine
end

