-- ==== Sys2Proof/Machine/Transfer.lean ====
section
/-! DEFINITION. Copies: launch, the engines, tags, channels, multicasts and mailboxes (13_transfer). -/

namespace Sys2Proof.Machine

def onTransfer (c : Nat) (f : Transfer → Transfer) (s : State) : State :=
  s.onCore c fun x => { x with transfer := f x.transfer }

/-! ### The checks of a launch (R254) -/

/-- Offsets from a start address that a copy touches, least and greatest, as integers. -/
def cpLow (r : CopyRegs) (st : Word) : Int :=
  min 0 ((cpPlanes r - 1 : Nat) * planeStride st) + min 0 ((cpRows r - 1 : Nat) * rowStride st)
def cpHigh (r : CopyRegs) (st : Word) : Int :=
  max 0 ((cpPlanes r - 1 : Nat) * planeStride st) + max 0 ((cpRows r - 1 : Nat) * rowStride st) + (cpLen r : Int) - 1

/-- A stride register with a stride that is not a multiple of 4. -/
def badStride (x : Word) : Bool := slice x 1 0 != 0 || slice x 33 32 != 0

/-- Step 1: the first offending register, by its index; with CHF = 1, cpext for PLANES and cpdrs for the destination's RSTR
(DESIGN CHOICE, log 67). -/
def cpFormat (r : CopyRegs) : Option Nat :=
  let kind := cpKind r
  let chf := cpChf r
  if r.src.toNat % 4 != 0 then some 0
  else if kind != 1 && r.dst.toNat % 4 != 0 then some 1
  else if kind = 2 && ((r.dst.toNat : Int) + cpLow r r.drs < 0 || 0x17ffff < (r.dst.toNat : Int) + cpHigh r r.drs) then some 1
  else if slice r.ext 63 56 != 0 || cpLen r = 0 || cpLen r % 4 != 0 || (chf && cpPlanes r != 1) ||
      (kind = 1 && (cpLen r % 64 != 0 || 512 < cpLen r)) then some 2
  else if badStride r.srs then some 3
  else if badStride r.drs || (chf && rowStride r.drs != (cpLen r : Int)) then some 4
  else if slice r.flg 32 22 != 0 || slice r.flg 15 3 != 0 || 4 ≤ kind || (chf && kind != 0) ||
      (kind = 3 && (cpOmask r = 0 || cpCmask r = 0)) then some 5
  else none

/-- Step 2 for one end: its lowest and highest byte under orders 2 to 4 of R217. -/
def endCheck (k : Nat) (lo hi : Nat) (s : State) : Option Ending :=
  let c := coreOf k
  let t := fun (cause a : Nat) => some (Ending.trap cause (BitVec.ofNat 64 a))
  let r := regionOf s c lo
  if r = .nonCanonical then t 0x0e lo
  else if regionOf s c hi = .nonCanonical then t 0x0e hi
  else if r = .hole then t 0x09 lo
  else if regionOf s c hi != r then t 0x09 hi
  else if r = .system && !(s.slot k).sv then t 0x0e lo
  else none

def wrap64 (i : Int) : Nat := (i % 2 ^ 64).toNat

def cpEnds (k : Nat) (r : CopyRegs) (s : State) : Option Ending :=
  match endCheck k (wrap64 (r.src.toNat + cpLow r r.srs)) (wrap64 (r.src.toNat + cpHigh r r.srs)) s with
  | some e => some e
  | none =>
    if cpKind r = 0 then endCheck k (wrap64 (r.dst.toNat + cpLow r r.drs)) (wrap64 (r.dst.toNat + cpHigh r r.drs)) s
    else none

/-- The cores that a multicast selects (R269). -/
def cpCores (c : Nat) (r : CopyRegs) : List Nat :=
  ((enumFrom 0 (clusterOctets (clusterOf (octetOf c)))).filter fun e => (cpOmask r).testBit e.1).flatMap fun e =>
    (octetCores e.2).filter fun x => (cpCmask r).testBit (x % 8)

/-- The cores of a group. -/
def groupCores (g : Group) : List Nat := (g.slots.map coreOf).eraseDups

/-- Whether a core runs a group of a kernel: one whose tasks have started and that is on the core still (R269, R340). -/
def runsKernel (s : State) (c kernel : Nat) : Bool :=
  s.groups.any fun e => e.2.kernel == kernel && [.running, .ended, .current].contains e.2.st && (groupCores e.2).contains c

/-- Destination rows in arrays, as (core, offset, address of the launch), and in memory (R274). -/
def arrRows (c : Nat) (r : CopyRegs) (receivers : List Nat) : List (Nat × Nat × Nat) :=
  match cpKind r with
  | 0 => (dstRows r).filterMap fun a =>
      if localBase ≤ a then some (c, a - localBase, a)
      else if peerBase ≤ a then some (c / 8 * 8 + (a - peerBase) / 0x80000, (a - peerBase) % 0x80000, a)
      else none
  | 3 => receivers.flatMap fun x => (dstRows r).map fun a => (x, a, a)
  | _ => []
def memRows (r : CopyRegs) : List Nat := if cpKind r = 0 then (dstRows r).filter (· < peerBase) else []

/-- The lowest of a list of addresses. -/
def lowest (l : List Nat) : Option Nat := l.foldl (fun m a => match m with
  | none => some a
  | some b => some (Nat.min a b)) none

/-- Bytes where the rows of a launch of a context meet those of another copy: the first of each pair of rows, by the launch's own address, a
scratchpad offset for a multicast (R274) (DESIGN CHOICE, log 67). Rows in memory are compared within one context. -/
def rowsMeet (ctx c : Nat) (r : CopyRegs) (rec : List Nat) (c2 : Nat) (x : Copy) : List Nat :=
  let n := cpLen r
  let m := cpLen x.regs
  ((arrRows c r rec).flatMap fun p => (arrRows c2 x.regs x.receivers).filterMap fun q =>
    if p.1 = q.1 && p.2.1 < q.2.1 + m && q.2.1 < p.2.1 + n then some (p.2.2 + (q.2.1 - p.2.1)) else none) ++
  (if octetOf c = octetOf c2 && x.ctx = ctx then
    (memRows r).flatMap fun a => (memRows x.regs).filterMap fun b =>
      if a < b + m && b < a + n then some (Nat.max a b) else none
  else [])

/-- The lowest destination byte that another queue's copy also writes (R274). -/
def cpOverlap (k : Nat) (r : CopyRegs) (rec : List Nat) (s : State) : Option Nat :=
  let c := coreOf k
  lowest ((copyCores s c).flatMap fun c2 => (s.core c2).transfer.copies.flatMap fun e =>
    if c2 = c && cpQueue e.2.regs = cpQueue r then [] else rowsMeet (s.slot k).bind.ctx c r rec c2 e.2)

/-- Step 3: the channel, the multicast and the overlap. `tv` gives the trap value of a register. A multicast that passes `spsz`
traps with cause 0x09 and the local address of the first byte past it (DESIGN CHOICE, log 67). -/
def cpUnits (k : Nat) (r : CopyRegs) (tv : Nat → Word) (s : State) : Option Ending :=
  let c := coreOf k
  let ch := vget (s.core c).transfer.chans (cpChannel r) Channel.reset
  let rec0 := if cpKind r = 3 then cpCores c r else []
  if cpChf r && (!ch.opened || ch.tag.isSome) then some (.trap 0x20 (BitVec.ofNat 64 (0x40 + cpChannel r)))
  else if cpChf r && r.dst.toNat != ch.base then some (.trap 0x01 (tv 1))
  else if cpChf r && cpRows r * cpLen r != ch.len then some (.trap 0x01 (tv 2))
  else match rec0.find? fun x => !runsKernel s x (s.slot k).bind.kernel with
    | some x => some (.trap 0x0e (BitVec.ofNat 64 x))
    | none =>
      let low := wrap64 (r.dst.toNat + cpLow r r.drs)
      let high := wrap64 (r.dst.toNat + cpHigh r r.drs)
      let n := (s.core c).spsz
      if cpKind r = 3 && (n ≤ low || n ≤ high) then
        some (.trap 0x09 (BitVec.ofNat 64 (localBase + Nat.max low n)))
      else if (s.slot k).det then
        (cpOverlap k r rec0 s).map fun a => .trap 0x14 (BitVec.ofNat 64 a)
      else none

/-! ### Launch (R255) -/

/-- The lowest free tag. -/
def freeTag (t : Transfer) : Option Nat := (upTo 64).find? fun j => (tfind t.tags j).isNone

/-- Multicasts of a mailbox whose counts have not arrived (R271). -/
def pendingCasts (t : Transfer) (mbox : Nat) : Nat := (t.multicasts.filter (·.mbox == mbox)).length

/-- Whether the destination is memory, so that a deterministic copy takes a place in the commit buffer (R273). -/
def toMemory (r : CopyRegs) : Bool := cpKind r = 0 && r.dst.toNat < peerBase

/-- The copy of a launch by slot k with tag t. -/
def newCopy (k t : Nat) (r : CopyRegs) (s : State) : Copy :=
  let sl := s.slot k
  let g := groupOf s k
  { tag := t, regs := r, slot := k, ctx := sl.bind.ctx, group := sl.bind.group, sv := sl.sv, done := 0, total := cpTotal r,
    receivers := if cpKind r = 3 then cpCores (coreOf k) r else [], parked := none, err := none,
    entry := if buffered s k && toMemory r then g.map (·.next) else none, started := false,
    seq := (g.map (·.next)).getD 0, row := [], closed := false }

/-- The copy starts: its tag, its place in its queue, its channel, and the count that a multicast is owed. -/
def startCopy (k t : Nat) (r : CopyRegs) (x : Copy) (s : State) : State :=
  let c := coreOf k
  let s := onTransfer c (fun y =>
    { y with tags := tset y.tags t .inFlight, copies := tset y.copies t x,
             q0 := if cpQueue r = 0 then y.q0 ++ [t] else y.q0, q1 := if cpQueue r = 0 then y.q1 else y.q1 ++ [t],
             chans := if cpChf r then
               vset y.chans (cpChannel r) { vget y.chans (cpChannel r) Channel.reset with tag := some t } else y.chans,
             multicasts := if cpKind r = 3 then y.multicasts ++ [⟨cpMb r, x.receivers⟩] else y.multicasts }) s
  if x.entry.isSome then s else s.post (evt .copyWordTransfer c (cpQueue r) 0)

/-- A launch from six register values; `rest` is a reserved doubleword behind them that is not zero, and `fin` ends it with the tag. -/
def launch (r : CopyRegs) (rest : Option Nat) (tv : Nat → Word) (fin : Nat → Body) : Body := fun s =>
  let k := s.cur
  let c := coreOf k
  let t := (s.core c).transfer
  if !s.me.performed then (s, .wait .stores)
  else match freeTag t with
    | none => (s, .wait .freeTag)
    | some tag =>
      if cpKind r = 3 && 8 ≤ pendingCasts t (cpMb r) then (s, .wait (.castRoom (cpMb r)))
      else match (cpFormat r).orElse fun _ => rest with
        | some i => (s, .trap 0x01 (tv i))
        | none => match cpEnds k r s with
          | some e => (s, e)
          | none => match cpUnits k r tv s with
            | some e => (s, e)
            | none =>
              let x := newCopy k tag r s
              match (if x.entry.isSome then enter k [(r.dst.toNat / 8192, .copy c (cpQueue r) tag)] s else .ok s) with
              | .error e => e
              | .ok s => fin tag (startCopy k tag r x s)

/-- CPLAUNCH: MFS of cplaunch (R255). -/
def bodyCplaunch (d : BitVec 5) : Body := fun s =>
  match replayPoint s.me with
  | some e => (s, e)
  | none => launch s.me.sys.cp none (fun i => BitVec.ofNat 64 (0x30 + i))
    (fun t => later .loadDataReturn [.g d.toNat (BitVec.ofNat 64 t)] 0) s

/-- CPLAUNCH (R255). -/
def execCplaunch (d : BitVec 5) (s : State) : Host.Outcome State Fault Refusal := issue (.cplaunch d) (bodyCplaunch d) s

/-! ### COPYP and the parameter-block cache (R264 to R266) -/

/-- Doubleword i of a parameter block. -/
def blockWord (bs : List (BitVec 8)) (i : Nat) : Word := BitVec.ofNat 64 (ofBytesLE ((bs.drop (8 * i)).take 8))

/-- The copy registers of a block (R264). -/
def blockRegs (bs : List (BitVec 8)) : CopyRegs :=
  ⟨blockWord bs 0, blockWord bs 1, blockWord bs 2, blockWord bs 3, blockWord bs 4, blockWord bs 5⟩

/-- The first reserved doubleword of a block that is not zero (R264). -/
def blockRest (bs : List (BitVec 8)) : Option Nat :=
  if blockWord bs 6 != 0 then some 6 else if blockWord bs 7 != 0 then some 7 else none

/-- A block put at the young end of the cache. -/
def cacheBlock (c : Nat) (b : ParamBlock) (s : State) : State :=
  onTransfer c (fun t =>
    let rest := t.params.filter fun x => !(x.ctx == b.ctx && x.addr == b.addr)
    { t with params := rest.drop (rest.length - 15) ++ [b] }) s

/-- The block that COPYP takes: the cached copy, which reads no memory, or the bytes read by a load of the slot (R266). Either passes the
checks of R217 for the slot's own rights. -/
def fetchBlock (a : Nat) (now : Bool) (s : State) : Except (State × Ending) (List (BitVec 8) × State) :=
  let k := s.cur
  let c := coreOf k
  match (s.core c).transfer.params.find? fun b => b.ctx == s.myCtx && b.addr == a with
  | some b => match checkAccess k .load 64 [⟨a, 64⟩] s with
    | some e => .error e
    | none => .ok (b.bytes, cacheBlock c b s)
  | none => match (if now then none else accessWait s.me) with
    | some r => .error (s, .wait r)
    | none => match checkAccess k .load 64 [⟨a, 64⟩] s with
      | some e => .error e
      | none => match meetTargets k [⟨a, 64⟩] false s with
        | some e => .error (s, e)
        | none =>
          let items := itemsOf k (laneWants (BitVec.ofNat 64 a) 0) s
          if loadBlocked s.me s.me.traffic.nextId items then .error (s, .wait .results)
          else
            let (bs, s) := items.foldl (fun (acc : List (BitVec 8) × State) it =>
              let (x, s) := readPlace k it.seq it.place 4 acc.2
              (acc.1 ++ x, s)) ([], s)
            .ok (bs, cacheBlock c ⟨s.myCtx, a, placeAt k .load s a, bs⟩ s)

/-- The eight doublewords of a parameter block. -/
def blockWords8 (bs : List (BitVec 8)) : List Word := (upTo 8).map (blockWord bs)

/-- Element 0 of COPYP. The block that it has read stays while it waits, and an interruption drops it (R39, R265). -/
def copypElem (a : Word) (d : Nat) : Body := fun s =>
  let now := s.me.replaying
  if a.toNat % 64 != 0 then (s, .trap 0x08 a)
  else match (if s.me.phase = 1 then .ok (s.me.keep.flatMap fun w => bytesLE 8 w.toNat, s) else fetchBlock a.toNat now s) with
    | .error e => e
    | .ok (bs, s) =>
      let s := if s.me.phase = 1 then s else s.onMe fun sl => { sl with phase := 1, keep := blockWords8 bs }
      let tv := fun (i : Nat) => a + BitVec.ofNat 64 (8 * i)
      launch (blockRegs bs) (blockRest bs) tv (fun t =>
          let x := RegVal.g d (BitVec.ofNat 64 t)
          if now then onRegs fun sl => sl.wr x else later .loadDataReturn [x] 0) s

/-- COPYP (R265). -/
def bodyCopyp (a d : BitVec 5) : Body := fun s => macroBody 0x0b 1 (fun _ => copypElem (s.me.rg a.toNat) d.toNat) s

/-- COPYP (R265). -/
def execCopyp (a d : BitVec 5) (s : State) : Host.Outcome State Fault Refusal := issue (.copyp a d) (bodyCopyp a d) s

/-! ### The engines (R253, R256, R257) -/

/-- The translation of an address of a context outside a slot, with the rights of a user or supervisor slot: the TLB of octet o, if
there is one, else a walk, which fills it (R243 to R245). A page that is not mapped gives `walk`, a retired one `failed`. -/
def engineLook (o : Option Nat) (sv : Bool) (kind : AccKind) (ctx va : Nat) (s : State) : Xlat × State :=
  match o.bind fun o => tlbFind s o ctx va with
  | some t => (grant kind sv (t.pa + va % 2 ^ t.bits) t.u t.x t.w t.r, s)
  | none =>
    let (r, s) := walk ctx va s
    match r with
    | .unmapped _ => (.walk, s)
    | .format => (.format, s)
    | .leaf e bits =>
      let t := tlbOf ctx va e bits
      let g := grant kind sv (ptePa e + va % 2 ^ bits) t.u t.x t.w t.r
      match pteSt e with
      | 0 => (g, match o with
        | some o => tlbFill o t s
        | none => s)
      | 1 => (if kind = .load || g = .forbidden then g else .migrating, s)
      | _ => (if g = .forbidden then g else .failed, s)

/-- The translation of an access of copy engine q of octet o. A miss whose page has a miss-table entry joins it; a fault parks the copy
(R244, R257). -/
def engineXlat (o : Nat) (x : Copy) (q : Nat) (kind : AccKind) (va : Nat) (s : State) : Xlat × State :=
  let cl := clusterOf o
  let miss := fun (kd : Nat) (s : State) =>
    let (room, s) := joinMiss cl x.ctx va (0xf000 + 4 * o + q) kd s
    (if room then Xlat.walk else .migrating, s)
  let late := (tlbFind s o x.ctx va).isNone
  if late && (missFind s cl x.ctx (va / 8192)).isSome then miss 0 s
  else if late && 256 ≤ (s.cluster cl).misses.length then (.migrating, s)
  else match engineLook (some o) x.sv kind x.ctx va s with
    | (.walk, s) => miss (faultKind kind) s
    | (.failed, s) => miss (retiredKind kind) s
    | r => r

/-- How a word of a copy can go. -/
inductive Moved where
  | done (s : State)
  | again (s : State)
  | held (s : State)
  | failed (cause : Nat) (addr : Nat) (s : State)
  | overlaps (s : State)
  | noMemory
  deriving DecidableEq, Repr

/-- The place of an address of an engine. -/
def enginePlace (c : Nat) (x : Copy) (q : Nat) (kind : AccKind) (a : Nat) (s : State) (go : Place → State → Moved) : Moved :=
  if localBase ≤ a then go (.arr c (a - localBase)) s
  else if peerBase ≤ a then go (.arr (c / 8 * 8 + (a - peerBase) / 0x80000) ((a - peerBase) % 0x80000)) s
  else
    let (r, s) := engineXlat (octetOf c) x q kind a s
    match r with
    | .pa n =>
      if !hasMem n && !isMgmt n then .noMemory
      else if lineBad s n then .held (dataError x.slot n s)
      else go (.mem n) s
    | .walk => .again (onTransfer c (fun t => { t with copies := tset t.copies x.tag { x with parked := some (a / 8192) } }) s)
    | .migrating => .again s
    | _ => .failed 0x0e a s

/-- Four bytes as an engine loads them: a deterministic copy forwards from the entries before its launch (R273). -/
def engineRead (x : Copy) (p : Place) (s : State) : List (BitVec 8) × State :=
  match p with
  | .arr c off => (arrBytes s c off 4, s)
  | .mem pa =>
    if isMgmt pa then registerBytes (pa - 2 ^ 40) 4 s
    else match (if buffered s x.slot then tfind s.groups x.group else none) with
      | some g => bytesBy (fun w s =>
          if forwards g (w / 2 * 2) x.seq then
            let (lo, s) := homeRead (w / 2 * 2) s
            let (hi, s) := homeRead (w / 2 * 2 + 1) s
            (forwardWord g w x.seq (pairWord lo hi), s)
          else homeRead w s) pa 4 s
      | none => homeBytes pa 4 s

/-- Four bytes as an engine stores them; a deterministic store is a drained one, before which held REDs to its word are combined
(R273, R344, R345). -/
def engineWrite (x : Copy) (p : Place) (bs : List (BitVec 8)) (s : State) : State :=
  match p with
  | .arr c off => storeArray c off bs s
  | .mem pa =>
    if isMgmt pa then registerStore (pa - 2 ^ 40) bs s
    else if x.entry.isSome then changing x.group [pa / 4] (homePutBytes pa bs) (combineBefore x.group (pa / 4, 1) s)
    else homePutBytes pa bs s

/-- The sparsity queue of an octet. -/
def sparseQ (s : State) (o q : Nat) : SparseQ := vget (s.octet o).unit.sq q SparseQ.reset
def setSparseQ (o q : Nat) (x : SparseQ) (s : State) : State :=
  s.onOctet o fun y => { y with unit := { y.unit with sq := vset y.unit.sq q x } }

/-- The watermark after i words of a bound copy: the end of the bytes from the base that are all written; it only grows (R268). -/
def moveMark (c : Nat) (x : Copy) (s : State) : State :=
  if !cpChf x.regs then s
  else onTransfer c (fun t =>
    let ch := vget t.chans (cpChannel x.regs) Channel.reset
    if ch.opened && ch.tag = some x.tag then
      { t with chans := vset t.chans (cpChannel x.regs) { ch with wm := BitVec.ofNat 64 (Nat.max ch.wm.toNat (ch.base + 4 * (x.done + 1))) } }
    else t) s

/-- The last word of a multicast has arrived: the mailboxes of the receivers, and what they owe (R269, R271). -/
def castArrived (c : Nat) (x : Copy) (s : State) : State :=
  x.receivers.foldl (fun s y => onTransfer y (fun t =>
    let key := 8 * c + cpMb x.regs
    { t with delivered := tset t.delivered key (tget t.delivered key 0 + 1),
             mb := if cpRmbe x.regs then vset t.mb (cpRmb x.regs) (vget t.mb (cpRmb x.regs) 0 + 1) else t.mb }) s) s

/-- One more word of a copy has been moved: each receiver of a multicast, or else the copy's own core, has consumed a beat (R455)
(DEDUCED, log 66). -/
def wordDone (c : Nat) (x : Copy) (s : State) : State :=
  let x := { x with done := x.done + 1 }
  let s := onTransfer c (fun t => { t with copies := tset t.copies x.tag x }) s
  let s := (if cpKind x.regs = 3 then x.receivers else [c]).foldl (fun s y => countRecv y 1 1 (countSent c 1 1 s)) s
  if x.done = x.total && cpKind x.regs = 3 then castArrived c x s else s

/-- Whether a store of a deterministic copy meets a word that another frontier instance has changed (R352). -/
def copyOverlap (s : State) (x : Copy) (p : Place) : Option (Entry × Nat) :=
  match p with
  | .mem pa =>
    if x.entry.isNone then none
    else (tfind s.groups x.group).bind fun g =>
      if overlapOf s g (pa / 4) then g.entries.head?.map fun e => (e, pa / 4) else none
  | .arr _ _ => none

/-- The store of one word of a copy. -/
def storeCopyWord (c : Nat) (x : Copy) (q : Nat) (bs : List (BitVec 8)) (s : State) : Moved :=
  let o := octetOf c
  let a := dstAddr x.regs x.done
  match cpKind x.regs with
  | 1 =>
    let sq := sparseQ s o (cpSq x.regs)
    if 16 ≤ sq.entries.length then .held s
    else
      let row := x.row ++ bs
      if row.length < cpLen x.regs then .done (wordDone c { x with row := row } s)
      else .done ((wordDone c { x with row := [] } (setSparseQ o (cpSq x.regs) ⟨sq.entries ++ [row], cpLen x.regs⟩ s)).post
        (evt .kStep o 0 0))
  | 2 => .done (wordDone c x (s.onOctet o fun y => { y with unit := { y.unit with bstore := memPut y.unit.bstore a bs } }))
  | 3 => .done (wordDone c x (x.receivers.foldl (fun s r => storeArray r a bs s) s))
  | _ => enginePlace c x q .store a s fun p s =>
      match copyOverlap s x p with
      | some (e, w) => .overlaps (overlapFault x.group e w s)
      | none => .done (wordDone c x (moveMark c x (engineWrite x p bs s)))

/-- The next word of a copy: loaded and stored (R253). -/
def moveWord (c : Nat) (x : Copy) (q : Nat) (s : State) : Moved :=
  if cpKind x.regs = 1 && 16 ≤ (sparseQ s (octetOf c) (cpSq x.regs)).entries.length then .held s
  else enginePlace c x q .load (srcAddr x.regs x.done) s fun p s =>
    let (bs, s) := engineRead x p s
    storeCopyWord c x q bs s

/-- The copies of a queue in launch order. -/
def queueTags (t : Transfer) (q : Nat) : List Nat := if q = 0 then t.q0 else t.q1

/-- Whether two copies of one queue of core c write something that they share: a sparsity queue, bytes of the B store, or bytes of
scratchpads or memory. -/
def sharesTarget (c : Nat) (x y : Copy) : Bool :=
  match cpKind x.regs, cpKind y.regs with
  | 1, 1 => cpSq x.regs == cpSq y.regs
  | 2, 2 => (dstRows x.regs).any fun a => (dstRows y.regs).any fun b => a < b + cpLen y.regs && b < a + cpLen x.regs
  | _, _ => !(rowsMeet x.ctx c x.regs x.receivers c y).isEmpty

/-- The first copy of a queue that can move a word: none that shares its target with an earlier one that is still writing, so that the words
of both come in launch order (R253, R256, R274). -/
def movableOf (c : Nat) : List Copy → List Copy → Option Copy
  | _, [] => none
  | before, x :: t =>
    if !stillWriting x then movableOf c before t
    else if x.parked.isNone && (x.entry.isNone || x.started) && !(before.any (sharesTarget c x)) then some x
    else movableOf c (x :: before) t

/-- The copy of a queue that moves the next word (DESIGN CHOICE, log 55). -/
def movable (c : Nat) (t : Transfer) (q : Nat) : Option Copy := movableOf c [] ((queueTags t q).filterMap (tfind t.copies))

/-- The engine of a queue goes on, unless it is on its way already. -/
def engineOn (c q : Nat) (s : State) : State :=
  if s.inflight.any fun m => m.2.ev == .copyWordTransfer && m.2.arg.k == c && m.2.arg.a == q then s
  else s.soon (evt .copyWordTransfer c q 0)

/-- Whether the copy's next word waits for room in its group's undo log (R344, R348). -/
def copyStalled (s : State) (x : Copy) : Bool :=
  x.entry.isSome && (match tfind s.groups x.group with
    | some g => undoFull g 1
    | none => false)

/-- COPY_WORD_TRANSFER (R253): the core arg.k, the queue arg.a. -/
def execCopyWordTransfer (s : State) : Host.Outcome State Fault Refusal :=
  let c := s.arg.k
  let q := s.arg.a
  match movable c (s.core c).transfer q with
  | none =>
    match (queueTags (s.core c).transfer q).findSome? (fun t => tfind (s.core c).transfer.copies t) with
    | some x => if stillWriting x then .next s else .next (s.soon (evt .copyComplete c q 0))
    | none => .next s
  | some x =>
    if (s.core c).stopped || (cpKind x.regs = 3 && x.receivers.any fun y => (s.core y).stopped) || copyStalled s x then .next (s.post (evt .copyWordTransfer c q 0))
    else match moveWord c x q s with
      | .done s => .next (engineOn c q (if x.done + 1 = x.total then s.soon (evt .copyComplete c q 0) else s))
      | .again s => .next (s.post (evt .copyWordTransfer c q 0))
      | .held s | .overlaps s => .next s
      | .failed cause a s => .next (engineOn c q ((onTransfer c (fun t =>
          { t with copies := tset t.copies x.tag { x with err := some (cause, BitVec.ofNat 64 a) } }) s).soon
            (evt .copyComplete c q 0)))
      | .noMemory => .fault .noMemory

/-- A copy that is done leaves its queue; its tag and its channel say so, and the copies behind it go on or are done in their turn (R256,
R258, R268). -/
def completeCopy (c q : Nat) (s : State) : State :=
  let t := (s.core c).transfer
  match queueTags t q with
  | [] => s
  | tag :: rest => match tfind t.copies tag with
    | none => s
    | some x =>
      if stillWriting x then s
      else
        let st := match x.err with
          | some (cause, a) => TagSt.error cause a
          | none => .complete
        let s := onTransfer c (fun t =>
          { t with tags := tset t.tags tag st,
                   q0 := if q = 0 then rest else t.q0, q1 := if q = 0 then t.q1 else rest,
                   chans := t.chans.map fun ch => if ch.tag = some tag then { ch with tag := none } else ch }) s
        match rest.head?.bind (tfind t.copies) with
        | none => s
        | some y => let s := engineOn c q s; if stillWriting y then s else s.soon (evt .copyComplete c q 0)

/-- COPY_COMPLETE (R256, R258): the core arg.k, the queue arg.a. -/
def execCopyComplete (s : State) : Host.Outcome State Fault Refusal :=
  event (fun s => completeCopy s.arg.k s.arg.a s) s

/-- SPARSITY_STORE_RESUME (R321): the octet arg.k. Copies that wait for room store their next word now, in the cycle after the pop. -/
def execSparsityStoreResume (s : State) : Host.Outcome State Fault Refusal :=
  event (fun s => s.atOnce ((octetCores s.arg.k).flatMap fun c =>
    (if (s.core c).transfer.q0.isEmpty then [] else [evt .copyWordTransfer c 0 0]) ++
      if (s.core c).transfer.q1.isEmpty then [] else [evt .copyWordTransfer c 1 0])) s

/-! ### Tags (R258 to R263) -/

/-- The state of a tag. -/
def tagSt (s : State) (c t : Nat) : TagSt := tget (s.core c).transfer.tags t .free

/-- Whether bit t of `tags` is 1 (R259). -/
def tagBit (s : State) (c t : Nat) : Bool :=
  match tagSt s c t with
  | .complete | .error _ _ => true
  | _ => false

/-- `tags` (R259). -/
def tagsWord (s : State) (c : Nat) : Word := (upTo 64).foldl (fun w t => setBit w t (tagBit s c t)) 0#64

/-- A tag becomes Free; every slot of the core forgets that it waited for it (R261). -/
def clearTag (c t : Nat) (s : State) : State :=
  let s := onTransfer c (fun x => { x with tags := terase x.tags t, copies := terase x.copies t }) s
  { s with slots := s.slots.map fun e =>
      if coreOf e.1 = c then (e.1, { e.2 with traffic := { e.2.traffic with waited := setBit e.2.traffic.waited t false } }) else e }

/-- The tags of a mask, lowest first. -/
def maskTags (m : Word) : List Nat := (upTo 64).filter fun t => m.getLsbD t

/-- A tag reported: one with an error traps and becomes Free (R259). -/
def reportTag (t : Nat) (ok : Body) : Body := fun s =>
  match tagSt s s.myCore t with
  | .error cause a => (clearTag s.myCore t s, .trap cause a)
  | _ => ok s

/-- The tags of a wait have been waited for; the wait is an acquire (R260, R261). -/
def waited (ts : List Nat) (s : State) : State :=
  l1Acquire s.myCore (s.onMe fun sl =>
    { sl with traffic := { sl.traffic with waited := ts.foldl (fun w t => setBit w t true) sl.traffic.waited } })

/-- Whether the tags of a wait allow it to go on: every one, or the first of them in a deterministic slot, or any. -/
def tagsReady (s : State) (k : Nat) (m : Word) (all : Bool) : Bool :=
  let c := coreOf k
  if all then (maskTags m).all (tagBit s c)
  else if (s.slot k).det then (((maskTags m).filter fun t => tagSt s c t != .free).head?.map (tagBit s c)).getD true
  else (maskTags m).any (tagBit s c)

/-- TWAITANY and TWAITALL: the misuse of R263, then the wait. -/
def tagWait (m : Word) (all : Bool) (fin : List Nat → Body) : Body := fun s =>
  let c := s.myCore
  if s.me.replayed then (s, replayEnding s.me)
  else if !all && m = 0 then (s, .trap 0x20 0x100)
  else match (maskTags m).find? fun t => tagSt s c t == .free with
    | some t => (s, .trap 0x20 (BitVec.ofNat 64 t))
    | none =>
      if !tagsReady s s.cur m all then (s, .wait (.tags m all))
      else if all then
        match (maskTags m).find? fun t => match tagSt s c t with
            | .error _ _ => true
            | _ => false with
        | some t => reportTag t (fin []) s
        | none => fin (maskTags m) s
      else match (maskTags m).find? (tagBit s c) with
        | some t => reportTag t (fin [t]) s
        | none => fin [] s

/-- Whether TFIND and TTEST count a tag as Complete (R261). -/
def tagCounts (s : State) (t : Nat) : Bool := tagBit s s.myCore t && (!s.me.det || s.me.traffic.waited.getLsbD t)

/-- The tag that the low six bits of a register name. -/
def tagOf (x : Word) : Nat := slice x 5 0

/-- TWAITANY (R260). -/
def execTwaitany (a d : BitVec 5) (s : State) : Host.Outcome State Fault Refusal :=
  issue (.twaitany a d) (fun s => tagWait (s.me.rg a.toNat) false
    (fun ts s => ((waited ts s).onMe fun sl => sl.wg d.toNat (BitVec.ofNat 64 (ts.headD 0)), .next)) s) s

/-- TWAITALL (R260). -/
def execTwaitall (a : BitVec 5) (s : State) : Host.Outcome State Fault Refusal :=
  issue (.twaitall a) (fun s => tagWait (s.me.rg a.toNat) true (fun ts s => (waited ts s, .next)) s) s

/-- TFIND (R260, R261). -/
def execTfind (a d : BitVec 5) (s : State) : Host.Outcome State Fault Refusal :=
  issue (.tfind a d) (fun s =>
    match (maskTags (s.me.rg a.toNat)).find? (tagCounts s) with
    | some t => reportTag t (setG d fun _ => BitVec.ofNat 64 t) s
    | none => setG d (fun _ => BitVec.allOnes 64) s) s

/-- TTEST (R260, R261). -/
def execTtest (a d : BitVec 5) (s : State) : Host.Outcome State Fault Refusal :=
  issue (.ttest a d) (fun s =>
    let t := tagOf (s.me.rg a.toNat)
    if tagCounts s t then reportTag t (setG d fun _ => 1) s else setG d (fun _ => 0) s) s

/-- TCLR (R258, R263). -/
def execTclr (a : BitVec 5) (s : State) : Host.Outcome State Fault Refusal :=
  issue (.tclr a) (fun s =>
    let t := tagOf (s.me.rg a.toNat)
    if tagSt s s.myCore t = .inFlight then (s, .trap 0x20 (BitVec.ofNat 64 t))
    else (clearTag s.myCore t s, .next)) s

/-! ### Channels (R267, R268) -/

/-- The first address of a range that is not local scratchpad. -/
def notScratch (s : State) (c a n : Nat) : Option Nat :=
  let hi := localBase + (s.core c).spsz
  if a < localBase || hi ≤ a then some a
  else if hi < a + n then some hi
  else none

/-- CHOPEN (R267). -/
def execChopen (b a : BitVec 5) (k : BitVec 2) (s : State) : Host.Outcome State Fault Refusal :=
  issue (.chopen b a k) (fun s =>
    let base := s.me.rg a.toNat
    let n := s.me.rg b.toNat
    if n = 0 || n.toNat % 64 != 0 then (s, .trap 0x01 n)
    else if base.toNat % 64 != 0 then (s, .trap 0x08 base)
    else match notScratch s s.myCore base.toNat n.toNat with
      | some x => (s, .trap 0x09 (BitVec.ofNat 64 x))
      | none =>
        if (vget (s.core s.myCore).transfer.chans k.toNat Channel.reset).opened then
          (s, .trap 0x20 (BitVec.ofNat 64 (0x40 + k.toNat)))
        else (onTransfer s.myCore (fun t =>
          { t with chans := vset t.chans k.toNat ⟨true, base.toNat, n.toNat, none, base⟩ }) s, .next)) s

/-- CHCLOSE (R267). The watermark register keeps its value, and accesses in the range are ordinary (R268). -/
def execChclose (k : BitVec 2) (s : State) : Host.Outcome State Fault Refusal :=
  issue (.chclose k) (fun s =>
    let ch := vget (s.core s.myCore).transfer.chans k.toNat Channel.reset
    if !ch.opened then (s, .next)
    else match ch.tag with
      | some t => (s, .wait (.tags (1#64 <<< t) true))
      | none => (onTransfer s.myCore (fun t =>
          { t with chans := vset t.chans k.toNat { ch with opened := false },
                   copies := t.copies.map fun e =>
                     if cpChf e.2.regs && cpChannel e.2.regs == k.toNat then (e.1, { e.2 with closed := true }) else e }) s, .next)) s

/-! ### MFREE and MBWAIT (R270 to R272) -/

/-- The receiver c has freed the oldest multicast of a mailbox that still waits for it. -/
def freeCast (c mbox : Nat) : List Multicast → List Multicast
  | [] => []
  | m :: t => if m.mbox = mbox && m.waiting.contains c then { m with waiting := m.waiting.filter (· != c) } :: t
    else m :: freeCast c mbox t

/-- The octets of a group, in the order of R358. -/
def Group.octets (g : Group) : List Nat := if g.quad then quadOctets g.octet else [g.octet]

/-- The number of a core among the cores of a group's octets. -/
def Group.coreIndex (g : Group) (c : Nat) : Nat := 8 * g.octets.findIdx (· == octetOf c) + c % 8

/-- The number of a slot among the slots of a group's octets. -/
def Group.slotIndex (g : Group) (k : Nat) : Nat := 16 * g.coreIndex (coreOf k) + slotNo k

/-- The saved group whose core c was, if it still has multicasts of a mailbox that receiver y has not freed (R275). -/
def savedSender (s : State) (c mbox y : Nat) : Option Nat :=
  (s.groups.find? fun e => match e.2.kept with
    | some k => match tfind k.cores (e.2.coreIndex c) with
      | some x => x.1.multicasts.any fun m => m.mbox == mbox && m.waiting.contains y
      | none => false
    | none => false).map (·.1)

/-- A multicast that every receiver has freed counts for its mailbox. -/
def countCast (mbox : Nat) (t : Transfer) : Transfer :=
  match t.multicasts.find? fun m => m.mbox == mbox && m.waiting.isEmpty with
  | some m => { t with multicasts := t.multicasts.erase m, mb := vset t.mb mbox (vget t.mb mbox 0 + 1) }
  | none => t

/-- The last MFREE of a multicast of a saved sender counts in the saved mailbox (R275). -/
def freeSaved (gk c mbox y : Nat) (s : State) : State :=
  s.onGroup gk fun g => { g with kept := g.kept.map fun k =>
    { k with cores := k.cores.map fun e => if e.1 = g.coreIndex c then
        (e.1, (countCast mbox { e.2.1 with multicasts := freeCast y mbox e.2.1.multicasts }, e.2.2)) else e } }

/-- MFREE (R271). -/
def execMfree (a : BitVec 5) (s : State) : Host.Outcome State Fault Refusal :=
  issue (.mfree a) (fun s =>
    let x := s.me.rg a.toNat
    let sender := slice x 15 0
    let mbox := slice x 18 16
    let key := 8 * sender + mbox
    let n := tget (s.core s.myCore).transfer.delivered key 0
    if slice x 63 19 != 0 then (s, .trap 0x01 (wordOf (.mfree a) s))
    else if n = 0 then (s, .trap 0x20 x)
    else if s.me.replayed then (s, replayEnding s.me)
    else if !s.me.performed then (s, .wait .stores)
    else
      let s := onTransfer s.myCore (fun t => { t with delivered := tset t.delivered key (n - 1) }) s
      match savedSender s sender mbox s.myCore with
      | some gk => (freeSaved gk sender mbox s.myCore s, .next)
      | none =>
      let s := onTransfer sender (fun t => { t with multicasts := freeCast s.myCore mbox t.multicasts }) s
      (if (s.core sender).transfer.multicasts.any fun m => m.mbox == mbox && m.waiting.isEmpty then
        s.post (evt .mfreeCombinedArrival sender mbox 0) else s, .next)) s

/-- MFREE_COMBINED_ARRIVAL (R271): mailbox arg.a of core arg.k counts one multicast. -/
def execMfreeCombinedArrival (s : State) : Host.Outcome State Fault Refusal :=
  event (fun s =>
    onTransfer s.arg.k (countCast s.arg.a) s) s

/-- Whether a mailbox has reached a count (R272). -/
def mailboxReady (s : State) (c k : Nat) (n : Word) : Bool :=
  (vget (s.core c).transfer.mb k 0 - n.extractLsb' 0 32).toNat < 2 ^ 31

/-- MBWAIT (R272). -/
def execMbwait (a : BitVec 5) (k : BitVec 3) (s : State) : Host.Outcome State Fault Refusal :=
  issue (.mbwait a k) (fun s =>
    if s.me.replayed then (s, replayEnding s.me)
    else if mailboxReady s s.myCore k.toNat (s.me.rg a.toNat) then (l1Acquire s.myCore s, .next)
    else (s, .wait (.mailbox k.toNat (s.me.rg a.toNat)))) s

end Sys2Proof.Machine
end

