-- ==== Sys2Proof/Machine/Stream.lean ====
section
/-! DEFINITION. The stream table and the sending side of the scale-out ports (R481 to R485). -/

namespace Sys2Proof.Machine

/-- A doubleword of stream-table entry n (R485). -/
def streamWord (s : State) (n half : Nat) : Word := s.mreg (0x38000 + 16 * n + 8 * half)

def streamValid (s : State) (n : Nat) : Bool := (streamWord s n 0).getLsbD 63
def streamDir (s : State) (n : Nat) : Nat := slice (streamWord s n 0) 62 60
def streamPort (s : State) (n : Nat) : Nat := slice (streamWord s n 0) 59 56
def streamCtx (s : State) (n : Nat) : Nat := slice (streamWord s n 0) 55 48
def streamNo (s : State) (n : Nat) : Nat := slice (streamWord s n 0) 47 32
def streamTag (s : State) (n : Nat) : Nat := slice (streamWord s n 0) 31 16
def streamPeer (s : State) (n : Nat) : Nat := slice (streamWord s n 0) 3 0
/-- The ring of an import: its virtual address, and how many items it holds. -/
def streamRing (s : State) (n : Nat) : Nat := slice (streamWord s n 1) 63 6 * 64
def streamRingSize (s : State) (n : Nat) : Nat := 2 ^ slice (streamWord s n 1) 4 0

/-- The valid entry of a direction for a stream of a context; the lowest-numbered applies. -/
def streamFor (s : State) (dir ctx stream : Nat) : Option Nat :=
  (upTo 2048).find? fun n =>
    streamValid s n && streamDir s n == dir && streamCtx s n == ctx && streamNo s n == stream

/-- The block of port p (R483). -/
def portReg (p : Nat) : Nat := 0x31000 + 0x400 * p

/-- Whether port p sends and receives. -/
def portOn (s : State) (p : Nat) : Bool :=
  (s.mreg (portReg p)).getLsbD 3 && slice (s.mreg (portReg p)) 1 0 != 0

/-- JOB of port p (R483). -/
def portJob (s : State) (p : Nat) : Nat := slice (s.mreg (portReg p)) 39 16

/-- DROPS and UP of `portstat` follow the port. -/
def showPort (p : Nat) (s : State) : State :=
  let x := s.port p
  s.setMreg (portReg p + 8) (BitVec.ofNat 64 ((if x.up then 2 ^ 63 else 0) + Nat.min x.drops (2 ^ 32 - 1)))

/-- A payload discarded at a port (R483). -/
def dropPayload (p : Nat) (s : State) : State := showPort p (s.onPort p fun x => { x with drops := x.drops + 1 })

/-- A payload sent through entry n, with the stream's next sequence number; a port that is off sends nothing, and a peer
entry that is not valid discards it (R483, R484) (DESIGN CHOICE, log 34). -/
def sendStream (n kind : Nat) (body : List (BitVec 8)) (s : State) : State :=
  let p := streamPort s n
  let peer := portReg p + 0x200 + 32 * streamPeer s n
  if !portOn s p then s
  else if !(s.mreg (peer + 16)).getLsbD 63 then dropPayload p s
  else
    let key := streamNo s n + 2 ^ 16 * streamTag s n + 2 ^ 32 * streamPeer s n
    let seq := tget (s.port p).send key 0
    let s := s.onPort p fun x => { x with send := tset x.send key ((seq + 1) % 2 ^ 32) }
    let x : Sent :=
      { port := p, job := portJob s p, own := (s.mreg (portReg p + 16), s.mreg (portReg p + 24)), peer := streamPeer s n,
        addr := (s.mreg peer, s.mreg (peer + 8)), payload := ⟨streamNo s n, streamTag s n, seq, kind, body⟩ }
    { s with sentOut := s.sentOut ++ [x] }

/-! ### Context memory as the C9 itself uses it -/

/-- The kind of the C9's own accesses. -/
def ownKind (store : Bool) : AccKind := if store then .store else .load

/-- The translation for the C9 at a cluster, or for the context-save engine of octet o, with the rights of a supervisor slot (R243). A miss
whose page has a fault joins it and walks no more, and with a full miss table it waits (R244, R246). An address that is not in the memory
region is none that the access may have (R216, R239). -/
def ownLook (cl : Nat) (o : Option Nat) (kind : AccKind) (ctx va : Nat) (s : State) : Xlat × State :=
  if regionOf s 0 va != .memory then (.forbidden, s)
  else if (o.bind fun o => tlbFind s o ctx va).isSome then engineLook o true kind ctx va s
  else if (missFind s cl ctx (va / 8192)).isSome then (.walk, s)
  else if 256 ≤ (s.cluster cl).misses.length then (.migrating, s)
  else engineLook o true kind ctx va s

/-- Where a virtual address lies for such an access, if the access can go there now. A load of a line that is pinned bad faults the context
(R462). -/
def ctxXlatAt (cl : Nat) (o : Option Nat) (store : Bool) (ctx va : Nat) (s : State) : Option Nat × State :=
  match ownLook cl o (ownKind store) ctx va s with
  | (.pa n, s) =>
    if !store && lineBad s n then (none, contextFault ctx 0x1e 0xffff (BitVec.ofNat 64 n) 0 s)
    else (if hasMem n then some n else none, s)
  | (_, s) => (none, s)

/-- The same for the C9 itself. -/
def ctxXlat (cl : Nat) (store : Bool) (ctx va : Nat) (s : State) : Option Nat × State := ctxXlatAt cl none store ctx va s

/-- n bytes (within one page) of a context's memory, if they can be read. -/
def ctxBytes (cl ctx va n : Nat) (s : State) : Option (List (BitVec 8)) × State :=
  let (r, s) := ctxXlat cl false ctx va s
  match r with
  | some pa => let (bs, s) := homeBytes pa n s; (some bs, s)
  | none => (none, s)

/-- A number in a context's memory. -/
def ctxNat (cl ctx va n : Nat) (s : State) : Option Nat × State :=
  let (r, s) := ctxBytes cl ctx va n s
  (r.map ofBytesLE, s)

/-- Bytes (within one page) put into a context's memory: whether they could be. -/
def ctxPut (cl ctx va : Nat) (bs : List (BitVec 8)) (s : State) : Bool × State :=
  let (r, s) := ctxXlat cl true ctx va s
  match r with
  | some pa => (true, homePutBytes pa bs s)
  | none => (false, s)

/-- An access of the C9's own, or of a context-save engine, parks on the fault of its page and is counted in it, once (R246, R247); `ea` is
the address that its failure reports. -/
def ownMiss (cl ctx va ea src kind : Nat) (store : Bool) (s : State) : State :=
  let me := (store, ea, src)
  if (missFind s cl ctx (va / 8192)).elim false (·.own.contains me) then s
  else
    let (_, s) := joinMiss cl ctx va src kind s
    s.onCluster cl fun x =>
      { x with misses := x.misses.map fun m => if m.ctx = ctx && m.page = va / 8192 then { m with own := m.own ++ [me] } else m }

/-- What an access of the C9's own to a context's memory meets that could not go: a page that forbids it or a format error faults the
context with cause 0x0e (R241, R243), a migrating page and a full miss table are waited for, and any other is a page fault, counted for a
cluster and a source, which faults the context if it fails (R246, R247). -/
def ctxFaultFor (cl ctx va ea src : Nat) (store : Bool) (s : State) : State :=
  let own := fun (kind : Nat) (s : State) => ownMiss cl ctx va ea src kind store s
  if regionOf s 0 va != .memory then contextFault ctx 0x0e (if src < 4096 then src else 0xffff) (BitVec.ofNat 64 ea) 0 s
  else if (missFind s cl ctx (va / 8192)).isSome then own 0 s
  else if 256 ≤ (s.cluster cl).misses.length then s
  else match engineLook none true (ownKind store) ctx va s with
  | (.forbidden, s) | (.format, s) => contextFault ctx 0x0e (if src < 4096 then src else 0xffff) (BitVec.ofNat 64 ea) 0 s
  | (.migrating, s) => s
  | (.failed, s) => own (retiredKind (ownKind store)) s
  | (.pa n, s) => if hasMem n then s else own (faultKind (ownKind store)) s
  | (.walk, s) => own (faultKind (ownKind store)) s

/-- The same where its failure reports the address itself. -/
def ctxFault (cl ctx va src : Nat) (store : Bool) (s : State) : State := ctxFaultFor cl ctx va va src store s

end Sys2Proof.Machine
end

