-- ==== Sys2Proof/Machine/Resolver.lean ====
section
/-! DEFINITION. Connectors as graphs: ends, classes and widths, the consistent sets of a region and the choice among them
(14_connector R278 to R289, R488). -/

namespace Sys2Proof.Machine

/-! ### Ends (R300) -/

def isEndpoint (e : Nat) : Bool := e / 2 ^ 14 == 0
def isTerminal (e : Nat) : Bool := e / 2 ^ 14 == 1
def isRemote (e : Nat) : Bool := e / 2 ^ 14 == 2
def endNode (e : Nat) : Nat := e / 32 % 2 ^ 9
def endTerm (e : Nat) : Nat := e % 32
def terminal (node t : Nat) : Nat := 2 ^ 14 + 32 * node + t

/-- Node kinds and link kinds (R298, R299). -/
def nkMerge : Nat := 0
def nkRepl : Nat := 1
def nkRoute : Nat := 2
def nkJoin : Nat := 3
def lkSync : Nat := 0
def lkBuf : Nat := 1
def lkLossy : Nat := 2
def lkFilter : Nat := 3

/-- Whether terminal t of a node kind gives items. -/
def gives (kind t : Nat) : Bool := if kind = nkMerge || kind = nkJoin then t == 0 else t != 0

def nodeAt (nodes : List CNode) (n : Nat) : Option CNode := nodes[n]?

/-! ### Classes and widths (R281) -/

/-- Ends next to an end in its class: the other end of its link, and the terminals of its node unless that is a JOIN. -/
def nextEnds (nodes : List CNode) (links : List Link) (e : Nat) : List Nat :=
  (links.flatMap fun l => if l.src = e then [l.dst] else if l.dst = e then [l.src] else []) ++
  (if isTerminal e then
    match nodeAt nodes (endNode e) with
    | some n => if n.kind = nkJoin then [] else (upTo (n.n + 1)).map (terminal (endNode e))
    | none => []
  else [])

/-- The class of a list of ends, grown until it is closed. Remote ends of different links stay apart. -/
def growClass (nodes : List CNode) (links : List Link) : Nat → List Nat → List Nat
  | 0, c => c
  | fuel + 1, c =>
    let new := ((c.filter fun e => !isRemote e).flatMap (nextEnds nodes links)).filter fun e => !c.contains e
    match new.eraseDups with
    | [] => c
    | n => growClass nodes links fuel (c ++ n)

def classOf (nodes : List CNode) (links : List Link) (e : Nat) : List Nat :=
  growClass nodes links (2 * links.length + 1) [e]

/-- Whether a class holds an input, or the output, of a JOIN. -/
def classJoins (nodes : List CNode) (c : List Nat) (out : Bool) : Bool :=
  c.any fun e => isTerminal e && (match nodeAt nodes (endNode e) with
    | some n => n.kind == nkJoin && (endTerm e == 0) == out
    | none => false)

/-- The key of a class: its lowest endpoint. -/
def classKey (c : List Nat) : Nat := (lowest (c.filter isEndpoint)).getD 64

/-- The width of a class, if it has one: true is vector. -/
def classWidth (cn : Connector) (c : List Nat) : Option Bool :=
  if classJoins cn.nodes c true then some true
  else if classJoins cn.nodes c false then some false
  else tfind cn.widths (classKey c)

/-- Whether the items at an end are vectors. -/
def endVector (cn : Connector) (e : Nat) : Bool := (classWidth cn (classOf cn.nodes cn.links e)).getD false

/-- Whether a link carries vector items: a remote end carries the width of the class at the other end (R281). -/
def linkVector (cn : Connector) (l : Link) : Bool := endVector cn (if isRemote l.src then l.dst else l.src)

/-! ### Predicates (R279) -/

/-- Lanes of `w` bytes of the first n bytes of an item. -/
def itemLanes (w n : Nat) (v : VReg) : List Nat := elemsOf (8 * w) (n / w) (ofBytesLE ((vregBytes v).take n))

/-- Whether one lane meets the compare. -/
def laneMeets (l : Link) (bits x : Nat) : Bool :=
  let a := x &&& l.mask.toNat % 2 ^ bits
  let b := l.const.toNat % 2 ^ bits
  let lt := if l.fsgn then decide (Machine.signed bits a < Machine.signed bits b) else decide (a < b)
  match l.fop with
  | 0 => a == b
  | 1 => a != b
  | 2 => lt
  | _ => !lt

def itemMeets (l : Link) (vec : Bool) (v : VReg) : Bool :=
  (itemLanes (2 ^ l.fw) (if vec then 64 else 8) v).all (laneMeets l (8 * 2 ^ l.fw))

/-! ### Sets of ends: for each link of the region, whether its source-side and its sink-side end fire -/

/-- A link of a region with its number and a choice for its two ends. -/
structure Fired where
  num : Nat
  link : Link
  src : Bool
  dst : Bool
  deriving DecidableEq, Repr

def standingAt (cn : Connector) (e : Nat) : Option Standing := (cn.eps[e % 64]?).bind (·.standing)

/-- Whether the source-side end of a link can fire, as far as endpoints, rings and places say. -/
def srcEnabled (cn : Connector) (l : Link) : Bool :=
  if isEndpoint l.src then (standingAt cn l.src).isSome
  else if isRemote l.src then !l.held.isEmpty
  else true

def dstEnabled (cn : Connector) (l : Link) : Bool := !isEndpoint l.dst || (standingAt cn l.dst).isSome

/-- The choices that a link leaves, the fullest first. -/
def linkChoices (cn : Connector) (r num : Nat) (l : Link) : List Fired :=
  let s := srcEnabled cn l
  let d := dstEnabled cn l
  let mk := fun (x : Bool × Bool) => Fired.mk num l x.1 x.2
  if l.kind = lkBuf then
    let up := decide (l.ra = r) && !isRemote l.src && s && decide (l.places < l.cap)
    let down := decide (l.rb = r) && !isRemote l.dst && d && !l.held.isEmpty
    ((if up && down then [(true, true)] else []) ++ (if up then [(true, false)] else []) ++
      (if down then [(false, true)] else []) ++ [(false, false)]).map mk
  else if l.kind = lkSync then ((if s && d then [(true, true)] else []) ++ [(false, false)]).map mk
  else if l.kind = lkLossy && isRemote l.dst then ((if s then [(true, true)] else []) ++ [(false, false)]).map mk
  else ((if s && d then [(true, true)] else []) ++ (if s then [(true, false)] else []) ++ [(false, false)]).map mk

/-- Every choice for a list of links. -/
def allChoices : List (List Fired) → List (List Fired)
  | [] => [[]]
  | c :: cs => c.flatMap fun x => (allChoices cs).map (x :: ·)

/-- Whether an end fires. -/
def endFires (a : List Fired) (e : Nat) : Bool := a.any fun x => (x.link.src == e && x.src) || (x.link.dst == e && x.dst)

/-- The item that leaves a source-side end. -/
def itemFrom (cn : Connector) (a : List Fired) : Nat → Nat → VReg
  | 0, _ => vzero
  | fuel + 1, e =>
    let into := fun (d : Nat) => match a.find? fun x => x.link.dst == d && x.dst with
      | some x =>
        if x.link.kind = lkBuf || isRemote x.link.src then (x.link.held.head?.map (·.1)).getD vzero
        else itemFrom cn a fuel x.link.src
      | none => vzero
    if isEndpoint e then ((standingAt cn e).map (·.item)).getD vzero
    else match nodeAt cn.nodes (endNode e) with
      | none => vzero
      | some n =>
        let node := endNode e
        if n.kind = nkMerge then
          match ((upTo n.n).map fun t => terminal node (t + 1)).find? (endFires a) with
          | some d => into d
          | none => vzero
        else if n.kind = nkJoin then
          vregOfBytes ((upTo 8).flatMap fun t =>
            if t < n.n then (vregBytes (into (terminal node (t + 1)))).take 8 else bytesLE 8 0)
        else into (terminal node 0)

/-- The item that a link carries. -/
def linkItem (cn : Connector) (a : List Fired) (l : Link) : VReg :=
  if isRemote l.src then (l.held.head?.map (·.1)).getD vzero else itemFrom cn a (cn.links.length + 1) l.src

/-- The item that a link gives at its sink-side end. -/
def linkOut (cn : Connector) (a : List Fired) (l : Link) : VReg :=
  if l.kind = lkBuf then (l.held.head?.map (·.1)).getD vzero else linkItem cn a l

/-! ### Choice nodes (R288, R289, R295) -/

/-- A choice among numbered alternatives: a MERGE or ROUTE by terminal, or a PSEL by port, with its pointer. -/
structure Choice where
  /-- node number, or 512 + endpoint for a PSEL -/
  key : Nat
  /-- alternatives with the end of each -/
  alts : List (Nat × Nat)
  count : Nat
  ptr : Nat
  deriving DecidableEq, Repr

/-- The region of an endpoint. -/
def endpointRegion (cn : Connector) (e : Nat) : Option Nat :=
  cn.links.findSome? fun l => if l.src = e then some l.ra else if l.dst = e then some l.rb else none

/-- PSEL groups whose messages stand in a region: slot, mask and endpoints by port. -/
def pselGroups (cn : Connector) (r : Nat) : List (Nat × Nat × List (Nat × Nat)) :=
  let st := (enumFrom 0 cn.eps).filterMap fun e => match e.2.standing with
    | some x => if x.mask != 0 && endpointRegion cn e.1 == some r then some (x.slot, x.mask, x.port, e.1) else none
    | none => none
  ((st.map fun x => (x.1, x.2.1)).eraseDups).map fun g =>
    (g.1, g.2, (st.filter fun x => x.1 = g.1 && x.2.1 = g.2).map fun x => (x.2.2.1, x.2.2.2))

/-- The endpoint bound to the lowest-numbered port of a PSEL's mask keeps its pointer. -/
def pselKeeper (cn : Connector) (slot mask : Nat) : Nat :=
  let low := ((upTo 8).find? fun k => mask.testBit k).getD 0
  ((enumFrom 0 cn.eps).find? fun e => e.2.bound == some (slot, low)).map (·.1) |>.getD 0

/-- The choice nodes of a region in the order of the tie-break: MERGE and ROUTE by their index, then the PSELs, which have none, by the
endpoint that keeps their pointer (DESIGN CHOICE, log 67). -/
def choicesOf (cn : Connector) (r : Nat) : List Choice :=
  ((enumFrom 0 cn.nodes).filterMap fun e =>
    if e.2.region = r && (e.2.kind = nkMerge || e.2.kind = nkRoute) then
      some ⟨e.1, (upTo e.2.n).map fun t => (t, terminal e.1 (t + 1)), e.2.n, e.2.ptr⟩
    else none) ++
  (pselGroups cn r).map fun g =>
    let e := pselKeeper cn g.1 g.2.1
    ⟨512 + e, g.2.2, 8, ((cn.eps[e]?).map (·.ptr)).getD 0⟩

/-- The alternative that fires. -/
def Choice.taken (c : Choice) (a : List Fired) : Option Nat := (c.alts.find? fun x => endFires a x.2).map (·.1)

/-- How far an alternative lies from the pointer in cyclic order; none lies beyond all. -/
def Choice.far (c : Choice) (x : Option Nat) : Nat :=
  match x with
  | some i => (i + c.count - c.ptr % c.count) % c.count
  | none => c.count

/-- The alternative that the pointer names first, among those that exist. -/
def Choice.first (c : Choice) : Option Nat :=
  (c.alts.foldl (fun (m : Option Nat) x => match m with
    | none => some x.1
    | some y => if c.far (some x.1) < c.far (some y) then some x.1 else m) none)

/-! ### Consistency (R278) -/

/-- Whether the terminals of a node fire as its kind asks: at most one alternative of a MERGE or ROUTE, all of a REPL or
JOIN, and the single terminal with them. -/
def nodeHolds (a : List Fired) (num : Nat) (n : CNode) : Bool :=
  let one := endFires a (terminal num 0)
  let fired := ((upTo n.n).filter fun t => endFires a (terminal num (t + 1))).length
  if n.kind = nkMerge || n.kind = nkRoute then fired == (if one then 1 else 0)
  else fired == (if one then n.n else 0)

/-- Whether a FILTER fires its sink end exactly when its item meets the predicate. -/
def filterHolds (cn : Connector) (a : List Fired) (x : Fired) : Bool :=
  x.link.kind != lkFilter || !x.src || x.dst == itemMeets x.link (endVector cn x.link.src) (linkItem cn a x.link)

def consistent (cn : Connector) (r : Nat) (cs : List Choice) (a : List Fired) : Bool :=
  ((enumFrom 0 cn.nodes).all fun e => e.2.region != r || nodeHolds a e.1 e.2) &&
  a.all (filterHolds cn a) &&
  ((cs.filter fun c => 512 ≤ c.key).all fun c => (c.alts.filter fun x => endFires a x.2).length ≤ 1) &&
  (!cn.det || cs.all fun c => match c.taken a with
    | some i => if c.key < 512 then i == c.ptr else c.first == some i
    | none => true)

/-- Whether every end of one set is an end of another. -/
def within (a b : List Fired) : Bool := (a.zip b).all fun x => (!x.1.src || x.2.src) && (!x.1.dst || x.2.dst)

/-- The links of a region, with their numbers. -/
def regionLinks (cn : Connector) (r : Nat) : List (Nat × Link) :=
  (enumFrom 0 cn.links).filter fun l => l.2.ra == r || l.2.rb == r

/-- The consistent sets that no larger one contains. -/
def maximalSets (cn : Connector) (r : Nat) (cs : List Choice) : List (List Fired) :=
  let all := (allChoices ((regionLinks cn r).map fun l => linkChoices cn r l.1 l.2)).filter (consistent cn r cs)
  all.filter fun a => all.all fun b => !(within a b) || b == a

/-! ### The choice (R288) -/

/-- The ages of the ends of a set that have one; a remote end has none (R288). -/
def agesOf (cn : Connector) (evals : Nat) (a : List Fired) : List Nat :=
  a.flatMap fun x =>
    (if x.src && isEndpoint x.link.src then
      (match standingAt cn x.link.src with
        | some t => [evals - t.since]
        | none => []) else []) ++
    (if x.dst && isEndpoint x.link.dst then
      (match standingAt cn x.link.dst with
        | some t => [evals - t.since]
        | none => []) else []) ++
    (if x.dst && x.link.kind = lkBuf && !isRemote x.link.src then
      (match x.link.held.head? with
        | some h => [evals - h.2]
        | none => []) else [])

def insertDown (n : Nat) : List Nat → List Nat
  | [] => [n]
  | x :: t => if x < n then n :: x :: t else x :: insertDown n t

def sortDown (l : List Nat) : List Nat := l.foldl (fun t n => insertDown n t) []

/-- Whether one list of ages is greater than another; none when they are equal. -/
def agesGreater : List Nat → List Nat → Option Bool
  | [], [] => none
  | [], _ => some false
  | _, [] => some true
  | x :: xs, y :: ys => if x = y then agesGreater xs ys else some (decide (y < x))

/-- Whether a set is to be taken before another: by ages, then at the first choice node where they differ. -/
def setBefore (cn : Connector) (evals : Nat) (cs : List Choice) (a b : List Fired) : Bool :=
  match (if cn.det then none else agesGreater (sortDown (agesOf cn evals a)) (sortDown (agesOf cn evals b))) with
  | some x => x
  | none => match cs.find? fun c => c.taken a != c.taken b with
    | some c => c.far (c.taken a) < c.far (c.taken b)
    | none => false

/-- The set that fires. -/
def chosenSet (cn : Connector) (r evals : Nat) (cs : List Choice) : List Fired :=
  match maximalSets cn r cs with
  | [] => []
  | a :: as => as.foldl (fun m b => if setBefore cn evals cs b m then b else m) a

end Sys2Proof.Machine
end

