-- ==== Sys2Proof/Machine/Connector.lean ====
section
/-! DEFINITION. Connectors at work: messages of ports, firings, the loading of images, and the instructions of majors 0x38 to
0x3a (14_connector). -/

namespace Sys2Proof.Machine

/-! ### Ports (R276) -/

def getPort (s : State) (k p : Nat) : Port := vget (s.slot k).ports p Port.reset
def onSlotPort (k p : Nat) (f : Port → Port) (s : State) : State :=
  s.onSlot k fun sl => { sl with ports := vset sl.ports p (f (vget sl.ports p Port.reset)) }

/-- The ports of a mask. -/
def maskPorts (m : Nat) : List Nat := (upTo 8).filter fun p => m.testBit p

/-- The information of a connector fault (R290). -/
def connInfo (mask code info : Nat) : Word := BitVec.ofNat 64 (mask + code * 2 ^ 8 + info * 2 ^ 16)
def connTrap (mask code info : Nat) : Ending := .trap 0x17 (connInfo mask code info)

/-- The octet of a region's resolver. -/
def resolverOctet (cn : Connector) (r : Region) : Nat := octetAt (cn.ox + r.rx) (cn.oy + r.ry)

/-- The evaluation of a region, at the boundary that ends the present frame (R284). -/
def postEval (ck r : Nat) (s : State) : State :=
  if s.inflight.any fun m => m.2.ev == .resolverEvaluation && m.2.arg.k == ck && m.2.arg.a == r then s
  else s.postAt (32 * (netFrame s + 1)) (evt .resolverEvaluation ck r 0)

/-- A message that arrives d frames after the present one. -/
def postFrames (d : Nat) (m : Msg) (s : State) : State := s.postAt (32 * (netFrame s + d) + 1) m

/-- The evaluations, items and credits on their way of connectors that go are discarded (R301). -/
def dropConnEvents (f : Nat → Bool) (s : State) : State :=
  { s with inflight := s.inflight.filter fun m =>
      !([.resolverEvaluation, .bufItemArrival, .bufCreditArrival].contains m.2.ev && f m.2.arg.k) }

/-- An endpoint replaced in a connector. -/
def onEndpoint (ck e : Nat) (f : Endpoint → Endpoint) (s : State) : State :=
  s.onConn ck fun cn => { cn with eps := (enumFrom 0 cn.eps).map fun x => if x.1 = e then f x.2 else x.2 }
def onLink (ck n : Nat) (f : Link → Link) (s : State) : State :=
  s.onConn ck fun cn => { cn with links := (enumFrom 0 cn.links).map fun x => if x.1 = n then f x.2 else x.2 }
def onRegion (ck r : Nat) (f : Region → Region) (s : State) : State :=
  s.onConn ck fun cn => { cn with regions := (enumFrom 0 cn.regions).map fun x => if x.1 = r then f x.2 else x.2 }

/-- A count of CSTAT goes up (R303). -/
def countRegion (ck r j : Nat) (s : State) : State :=
  onRegion ck r (fun x => { x with counts := vset x.counts j (vget x.counts j 0 + 1) }) s

/-- The endpoint that a port of a slot is bound to: connector and number. -/
def portEnd (s : State) (k p : Nat) : Nat × Nat := ((getPort s k p).conn, (getPort s k p).ep)

/-- The frames between a port of slot k and the resolver of its endpoint's region (R284). -/
def portFrames (s : State) (k p : Nat) : Nat :=
  let (ck, e) := portEnd s k p
  match tfind s.conns ck with
  | none => 1
  | some cn => match (endpointRegion cn e).bind fun r => cn.regions[r]? with
    | none => 1
    | some rg => framesBetween (octetOf (coreOf k)) (resolverOctet cn rg)

/-- The cycle in which a port message that slot `cur` issues now is sent: the first of the next frame (R284). -/
def sentAt (s : State) : Word := ((s.core s.myCore).cyc ||| 31#64) + 1#64

/-- OFFER_ACCEPT_ARRIVAL (R284): the message of port arg.a of slot arg.k, with the PSEL mask arg.b, reaches its resolver. -/
def execOfferAcceptArrival (s : State) : Host.Outcome State Fault Refusal :=
  event (fun s =>
    let (ck, e) := portEnd s s.arg.k s.arg.a
    if [.unbound, .idle].contains (getPort s s.arg.k s.arg.a).phase then s else
    match tfind s.conns ck with
    | none => s
    | some cn => match endpointRegion cn e with
      | none => s
      | some r =>
        let since := ((cn.regions[r]?).map (·.evals)).getD 0
        postEval ck r (onEndpoint ck e (fun x =>
          { x with standing := some ⟨s.arg.item, since, s.arg.k, s.arg.a, s.arg.b, false⟩ }) s)) s

/-- WITHDRAWAL_REQUEST_ARRIVAL (R285): the request of port arg.a of slot arg.k reaches its resolver; without a standing
message the fire in flight is the answer. -/
def execWithdrawalRequestArrival (s : State) : Host.Outcome State Fault Refusal :=
  event (fun s =>
    let (ck, e) := portEnd s s.arg.k s.arg.a
    match tfind s.conns ck with
    | none => s
    | some cn => match standingAt cn e, endpointRegion cn e with
      | some _, some r => postEval ck r (onEndpoint ck e (fun x =>
          { x with standing := x.standing.map fun t => { t with withdraw := true } }) s)
      | _, _ => s) s

/-! ### Withdrawal by the slot (R285 to R287) -/

/-- How far a port instruction is: 1 its messages are sent, 2 it has fired, 3 to 5 it withdraws: for a timeout, for an
interruption, or for a save (DEDUCED, log 52). -/
def portSent : Nat := 1
def portFired : Nat := 2

/-- The mask of ports on which a slot is parked. -/
def portMask (sl : Slot) : Option Nat :=
  match sl.run with
  | .parked (.port m) => some m
  | _ => none

/-- The frames until a request of slot k that parked on its ports reaches a resolver d frames away: one sent in the frame of issue follows
the slot's own message, which leaves in the next one (R284, R285). -/
def requestFrames (s : State) (k d : Nat) : Nat :=
  if reached (s.core (coreOf k)).cyc ((s.slot k).keep.getD 0 0) then d else d + 1

/-- A slot parked on ports withdraws its messages, for the reason `why`. -/
def withdrawPorts (k why : Nat) (s : State) : State :=
  match portMask (s.slot k) with
  | some m =>
    if (s.slot k).phase != portSent then s
    else
      let s := s.onSlot k fun sl => { sl with phase := why }
      ((maskPorts m).filter fun p => [.offering, .accepting].contains (getPort s k p).phase).foldl (fun s p =>
        postFrames (requestFrames s k (portFrames s k p)) (evt .withdrawalRequestArrival k p 0)
          (onSlotPort k p (fun x => { x with phase := .withdrawing }) s)) s
  | none => s

/-- PORT_TIMEOUT (R286): slot arg.k has waited `pto` cycles. -/
def execPortTimeout (s : State) : Host.Outcome State Fault Refusal :=
  event (fun s => if slice (s.slot s.arg.k).sys.pto 31 0 = 0 then s else withdrawPorts s.arg.k 3 s) s

/-- WITHDRAWAL_ACK (R276): port arg.a of slot arg.k is withdrawn. When no port of the operation is left, the interruption
proceeds: a timeout or a ticket deadlock traps, and otherwise the instruction is issued again. -/
def execWithdrawalAck (s : State) : Host.Outcome State Fault Refusal :=
  event (fun s =>
    let k := s.arg.k
    if (getPort s k s.arg.a).phase != .withdrawing then s
    else
      match (s.slot k).run with
      | .stopped _ => s.post ⟨.withdrawalAck, s.arg⟩
      | _ =>
        let s := onSlotPort k s.arg.a (fun x => { x with phase := .idle }) s
        let sl := s.slot k
        match portMask sl with
        | none => s
        | some m =>
          if (maskPorts m).any fun p => (getPort s k p).phase == .withdrawing then s
          else if sl.phase = 3 then raiseTrap k 0x16 (BitVec.ofNat 64 m) sl.pc s
          else if sl.phase = 6 then raiseTrap k 0x15 (sl.keep.getD 0 0) sl.pc s
          else if sl.phase = 5 then s.onSlot k fun sl => { sl with phase := 0, run := .saved (some .again) }
          else s.onSlot k fun sl => { sl with phase := 0, run := .running }) s

/-! ### Fires (R276, R284, R295) -/

/-- An item as the doublewords that a slot keeps. -/
def itemWords (v : VReg) : List Word :=
  (upTo 8).map fun i => (vget v (2 * i + 1) 0#32) ++ (vget v (2 * i) 0#32)
def wordsItem (ws : List Word) : VReg :=
  lanes fun j => if j % 2 = 0 then (ws.getD (j / 2) 0).extractLsb' 0 32 else (ws.getD (j / 2) 0).extractLsb' 32 32
/-- A doubleword as an item. -/
def wordItem (w : Word) : VReg := wordsItem [w]

/-- PORT_FIRE (R276): port arg.a of slot arg.k has fired with arg.item, for the PSEL of mask arg.b if that is not 0. The
other ports of the mask are idle again; a PSEL sink keeps the item in its port. -/
def execPortFire (s : State) : Host.Outcome State Fault Refusal :=
  event (fun s =>
    let k := s.arg.k
    let p := s.arg.a
    let m := if s.arg.b = 0 then 2 ^ p else s.arg.b
    let sink := s.arg.c = 1
    if [.unbound, .idle].contains (getPort s k p).phase then s else
    let s := (maskPorts m).foldl (fun s q => onSlotPort k q (fun x => { x with phase := .idle }) s) s
    let s := if s.arg.b != 0 && sink then
        onSlotPort k p (fun x => { x with item := (itemWords s.arg.item).headD 0, full := true }) s else s
    s.onSlot k fun sl =>
      { sl with phase := portFired, keep := if s.arg.b = 0 then itemWords s.arg.item else [BitVec.ofNat 64 p, bool64 sink] }) s

/-! ### Evaluation (R284, R288, R488) -/

/-- A link from a remote end takes the item that its ring holds next, where the ring's page is mapped (R282). -/
def ringHead (cn : Connector) (l : Link) (s : State) : Option VReg × State :=
  match streamFor s 1 cn.ctx l.stream with
  | none => (none, s)
  | some n =>
    let a := streamRing s n + 64 * (l.places % streamRingSize s n)
    let (r, s) := ctxBytes (clusterOf (octetAt cn.ox cn.oy)) cn.ctx a 64 s
    match r with
    | some bs => (some (vregOfBytes bs), s)
    | none => (none, ctxFault (clusterOf (octetAt cn.ox cn.oy)) cn.ctx a (8 * octetAt cn.ox cn.oy) false s)

/-- A connector with the items of its import links in view; a link whose page is not mapped shows none. -/
def viewRings (cn : Connector) (s : State) : Connector × State :=
  let (ls, s) := cn.links.foldl (fun (acc : List Link × State) l =>
    if isRemote l.src then
      match l.held with
      | [] => (acc.1 ++ [l], acc.2)
      | h :: t =>
        let (v, s) := ringHead cn l acc.2
        (acc.1 ++ [{ l with held := match v with
          | some x => (x, h.2) :: t
          | none => [] }], s)
    else (acc.1 ++ [l], acc.2)) ([], s)
  ({ cn with links := ls }, s)

/-- An item or a credit through the stream table. -/
def remoteSend (cn : Connector) (dir kind stream : Nat) (body : List (BitVec 8)) (s : State) : State :=
  match streamFor s dir cn.ctx stream with
  | some n => sendStream n kind body s
  | none => s

/-- The bytes of an item of a class. -/
def itemBytes (vec : Bool) (v : VReg) : List (BitVec 8) := if vec then vregBytes v else (vregBytes v).take 8

/-- The frames between the resolvers of a link's two regions (R488). -/
def linkFrames (cn : Connector) (l : Link) : Nat :=
  match cn.regions[l.ra]?, cn.regions[l.rb]? with
  | some a, some b => framesBetween (resolverOctet cn a) (resolverOctet cn b)
  | _, _ => 1

/-- What a firing does to one link. -/
def fireLink (ck r evals : Nat) (cn : Connector) (a : List Fired) (s : State) (x : Fired) : State :=
  let l := x.link
  let same := l.ra = l.rb && !isRemote l.src && !isRemote l.dst
  let s :=
    if x.src && l.kind = lkBuf then
      let v := linkItem cn a l
      if isRemote l.dst then
        remoteSend cn 0 1 l.stream (itemBytes (linkVector cn l) v) (onLink ck x.num (fun y => { y with places := y.places + 1 }) s)
      else if same then
        onLink ck x.num (fun y => { y with places := y.places + 1, held := y.held ++ [(v, evals + 1)] }) s
      else postFrames (linkFrames cn l) ⟨.bufItemArrival, { Arg.reset with k := ck, a := x.num, item := v }⟩
        (onLink ck x.num (fun y => { y with places := y.places + 1 }) s)
    else s
  let s :=
    if x.dst && l.kind = lkBuf then
      let s := onLink ck x.num (fun y => { y with held := y.held.drop 1 }) s
      if isRemote l.src then
        remoteSend cn 1 2 l.stream [] (onLink ck x.num (fun y => { y with places := y.places + 1 }) s)
      else if same then onLink ck x.num (fun y => { y with places := y.places - 1 }) s
      else postFrames (linkFrames cn l) (evt .bufCreditArrival ck x.num 0) s
    else s
  if x.src && l.kind = lkLossy then
    let s := if isRemote l.src then onLink ck x.num (fun y => { y with held := y.held.drop 1, places := y.places + 1 }) s else s
    if isRemote l.dst then remoteSend cn 0 1 l.stream (itemBytes (linkVector cn l) (linkItem cn a l)) s
    else if x.dst then s else countRegion ck r 3 s
  else if x.src && l.kind = lkFilter && !x.dst then countRegion ck r 3 s
  else s

/-- The message of a fire to the port of an endpoint; the messages of the other ports of its PSEL are removed (R295). -/
def fireEndpoint (ck e : Nat) (item : VReg) (sink : Bool) (s : State) : State :=
  match tfind s.conns ck with
  | none => s
  | some cn => match standingAt cn e with
    | none => s
    | some t =>
      let s := s.onConn ck fun cn => { cn with eps := cn.eps.map fun x => match x.standing with
        | some u => if u.slot = t.slot && (u.port = t.port || (t.mask != 0 && u.mask = t.mask)) then { x with standing := none } else x
        | none => x }
      postFrames (portFrames s t.slot t.port)
        ⟨.portFire, { Arg.reset with k := t.slot, a := t.port, b := t.mask, c := if sink then 1 else 0, item := item }⟩ s

/-- The pointers of the choice nodes that took part (R288, R295). -/
def movePointers (ck : Nat) (cs : List Choice) (a : List Fired) (s : State) : State :=
  cs.foldl (fun s c => match c.taken a with
    | none => s
    | some i =>
      let p := (i + 1) % c.count
      if 512 ≤ c.key then onEndpoint ck (c.key - 512) (fun x => { x with ptr := p }) s
      else s.onConn ck fun cn => { cn with nodes := (enumFrom 0 cn.nodes).map fun x => if x.1 = c.key then { x.2 with ptr := p } else x.2 }) s

/-- Messages whose withdrawal was requested and that did not fire are removed and acknowledged (R285). -/
def answerWithdrawals (ck r : Nat) (s : State) : State :=
  match tfind s.conns ck with
  | none => s
  | some cn => (enumFrom 0 cn.eps).foldl (fun s e => match e.2.standing with
    | some t =>
      if t.withdraw && endpointRegion cn e.1 = some r then
        postFrames (portFrames s t.slot t.port) (evt .withdrawalAck t.slot t.port 0)
          (countRegion ck r 2 (onEndpoint ck e.1 (fun x => { x with standing := none }) s))
      else s
    | none => s) s

/-- Whether a message stands in a region. -/
def someStanding (cn : Connector) (r : Nat) : Bool :=
  (enumFrom 0 cn.eps).any fun e => e.2.standing.isSome && endpointRegion cn e.1 == some r

/-- One evaluation of a region. -/
def evaluate (ck r : Nat) (s : State) : State :=
  match tfind s.conns ck with
  | none => s
  | some cn0 =>
    let (cn, s) := viewRings cn0 s
    match cn.regions[r]? with
    | none => s
    | some rg =>
      let cs := choicesOf cn r
      let a := chosenSet cn r rg.evals cs
      let fired := a.filter fun x => x.src || x.dst
      let s :=
        if fired.isEmpty then (if someStanding cn r then countRegion ck r 1 s else s)
        else
          let s := fired.foldl (fireLink ck r rg.evals cn a) (countRegion ck r 0 s)
          let s := movePointers ck cs a s
          let s := fired.foldl (fun s x => if x.src && isEndpoint x.link.src then fireEndpoint ck x.link.src vzero false s else s) s
          fired.foldl (fun s x => if x.dst && isEndpoint x.link.dst then
            fireEndpoint ck x.link.dst (linkOut cn a x.link) true s else s) s
      let s := answerWithdrawals ck r s
      let s := onRegion ck r (fun x => { x with evals := x.evals + 1 }) s
      let stalled := (cn0.links.zip cn.links).any fun l => l.1.rb == r && !l.1.held.isEmpty && l.2.held.isEmpty
      if fired.isEmpty && !stalled && !someStanding ((tfind s.conns ck).getD cn) r then s else postEval ck r s

/-- RESOLVER_EVALUATION (R284): region arg.a of connector arg.k. A stopped resolver, or one of a Faulted context, does not
evaluate (R287, R301). -/
def execResolverEvaluation (s : State) : Host.Outcome State Fault Refusal :=
  event (fun s =>
    match tfind s.conns s.arg.k with
    | none => s
    | some cn => match cn.regions[s.arg.a]? with
      | none => s
      | some rg =>
        if ctxState s cn.ctx = 7 then s
        else if (s.core (8 * resolverOctet cn rg)).stopped then postEval s.arg.k s.arg.a s
        else evaluate s.arg.k s.arg.a s) s

/-- BUF_ITEM_ARRIVAL (R488): arg.item on link arg.a of connector arg.k. -/
def execBufItemArrival (s : State) : Host.Outcome State Fault Refusal :=
  event (fun s =>
    match tfind s.conns s.arg.k with
    | none => s
    | some cn => match cn.links[s.arg.a]? with
      | none => s
      | some l =>
        let since := ((cn.regions[l.rb]?).map (·.evals)).getD 0
        postEval s.arg.k l.rb (onLink s.arg.k s.arg.a (fun y => { y with held := y.held ++ [(s.arg.item, since)] }) s)) s

/-- BUF_CREDIT_ARRIVAL (R488): a place of link arg.a of connector arg.k is free again. -/
def execBufCreditArrival (s : State) : Host.Outcome State Fault Refusal :=
  event (fun s =>
    match tfind s.conns s.arg.k with
    | none => s
    | some cn => match cn.links[s.arg.a]? with
      | none => s
      | some l => postEval s.arg.k l.ra (onLink s.arg.k s.arg.a (fun y => { y with places := y.places - 1 }) s)) s

/-! ### Port instructions (R290 to R296) -/

/-- The check of a port instruction: bound, direction, width, and for an offer not Full. -/
def portCheck (k p : Nat) (source vec : Bool) (s : State) : Option Ending :=
  let x := getPort s k p
  let m := if vec then 3 * 2 ^ p else 2 ^ p
  if x.phase = .unbound then some (connTrap m 1 0)
  else
    let dir := match tfind s.conns x.conn with
      | some cn => ((cn.eps[x.ep]?).map (·.source)).getD source
      | none => source
    if dir != source then some (connTrap m 2 0)
    else if x.vec != vec then some (connTrap m 3 0)
    else if source && x.full then some (connTrap m 4 0)
    else none

/-- An offer or accept is sent for a port. -/
def sendPort (p mask : Nat) (source : Bool) (item : VReg) (s : State) : State :=
  postFrames (portFrames s s.cur p + 1) ⟨.offerAcceptArrival, { Arg.reset with k := s.cur, a := p, b := mask, item := item }⟩
    (onSlotPort s.cur p (fun x => { x with phase := (if source then .offering else .accepting) }) s)

/-- PUT leaves its item in the port register (R292). -/
def keepItem (p : Nat) (item : VReg) (s : State) : State :=
  onSlotPort s.cur p (fun x => { x with item := (itemWords item).headD 0 }) s

/-- The mask of the ports of an operation: the pair for a vector. -/
def opMask (p : Nat) (vec : Bool) : Nat := if vec then 3 * 2 ^ p else 2 ^ p

/-- A port operation on one port: the messages, the wait, and what follows the fire. -/
def portOp (p : Nat) (source vec : Bool) (item : Slot → VReg) (fin : List Word → Body) : Body := fun s =>
  if s.me.phase = portFired then fin s.me.keep s
  else if s.me.phase != 0 then (s, .wait (.port (opMask p vec)))
  else match portCheck s.cur p source vec s with
    | some e => (s, e)
    | none =>
      if s.me.replayed then (s, replayEnding s.me)
      else if source && !s.me.performed then (s, .wait .stores)
      else
        let x := if source then item s.me else vzero
        let t := sendPort p 0 source x (if source && !vec then keepItem p x s else s)
        (t.onMe fun sl => { sl with phase := portSent, keep := [sentAt s] }, .wait (.port (opMask p vec)))

/-- PUT: its completion is a release (R292). -/
def putBody (p : Nat) (x : Slot → Word) : Body := portOp p true false (fun sl => wordItem (x sl)) fun _ s => (s, .next)

/-- GET: a Full port gives its item at once; else its completion is an acquire (R292). The result is long-latency (R45). -/
def getBody (p d : Nat) : Body := fun s =>
  if s.me.phase = 0 && (getPort s s.cur p).full then
    match portCheck s.cur p false false s with
    | some e => (s, e)
    | none =>
      let x := getPort s s.cur p
      later .loadDataReturn [.g d x.item] 0 (onSlotPort s.cur p (fun y => { y with full := false }) s)
  else portOp p false false (fun _ => vzero)
    (fun ws s => later .loadDataReturn [.g d (ws.headD 0)] 0 (l1Acquire s.myCore s)) s

/-- PUT (R292). -/
def execPut (k : BitVec 3) (a : BitVec 5) (s : State) : Host.Outcome State Fault Refusal :=
  issue (.put k a) (putBody k.toNat fun sl => sl.rg a.toNat) s

/-- GET (R292). -/
def execGet (k : BitVec 3) (d : BitVec 5) (s : State) : Host.Outcome State Fault Refusal :=
  issue (.get k d) (getBody k.toNat d.toNat) s

/-- C_PUT (R52, R291). -/
def execCPut (k : BitVec 3) (d : BitVec 5) (s : State) : Host.Outcome State Fault Refusal :=
  issue (.cPut k d) (putBody k.toNat fun sl => sl.rg d.toNat) s

/-- C_GET (R52, R291). -/
def execCGet (k : BitVec 3) (d : BitVec 5) (s : State) : Host.Outcome State Fault Refusal :=
  issue (.cGet k d) (getBody k.toNat d.toNat) s

/-- PUTV (R292): port 2k and its second. -/
def execPutv (k : BitVec 2) (a : BitVec 4) (s : State) : Host.Outcome State Fault Refusal :=
  issue (.putv k a) (portOp (2 * k.toNat) true true (fun sl => sl.rv a.toNat) fun _ s => (s, .next)) s

/-- GETV (R292). -/
def execGetv (k : BitVec 2) (d : BitVec 4) (s : State) : Host.Outcome State Fault Refusal :=
  issue (.getv k d) (portOp (2 * k.toNat) false true (fun _ => vzero)
    fun ws s => later .loadDataReturn [.v d.toNat (wordsItem ws)] 0 (l1Acquire s.myCore s)) s

/-- The checks of PSEL on its mask: R295 gives an unbound port code 0x05 too (DEDUCED, log 34) (R290, R295). -/
def pselCheck (k m : Nat) (s : State) : Option Ending :=
  let ps := maskPorts m
  let region := fun (p : Nat) => match tfind s.conns (getPort s k p).conn with
    | some cn => endpointRegion cn (getPort s k p).ep
    | none => none
  if m = 0 then some (connTrap 0 5 0)
  else if ps.any fun p => (getPort s k p).phase == .unbound || (getPort s k p).vec then some (connTrap m 5 0)
  else if ps.any fun p => (getPort s k p).conn != (getPort s k (ps.headD 0)).conn || region p != region (ps.headD 0) then
    some (connTrap m 5 0)
  else none

/-- Whether a port is bound to a source endpoint. -/
def portSource (s : State) (k p : Nat) : Bool :=
  match tfind s.conns (getPort s k p).conn with
  | some cn => ((cn.eps[(getPort s k p).ep]?).map (·.source)).getD false
  | none => false

/-- PSEL (R295). -/
def execPsel (b a d : BitVec 5) (s : State) : Host.Outcome State Fault Refusal :=
  issue (.psel b a d) (fun s =>
    let k := s.cur
    let x := s.me.rg a.toNat
    let m := slice x 7 0
    if s.me.phase = portFired then
      later .loadDataReturn [.g d.toNat (s.me.keep.getD 0 0)] 0 (if s.me.keep.getD 1 0 = 1#64 then l1Acquire s.myCore s else s)
    else if s.me.phase != 0 then (s, .wait (.port m))
    else if slice x 63 8 != 0 then (s, .trap 0x01 (wordOf (.psel b a d) s))
    else match pselCheck k m s with
      | some e => (s, e)
      | none => match (maskPorts m).find? fun p => (getPort s k p).full with
        | some p => later .loadDataReturn [.g d.toNat (BitVec.ofNat 64 p)] 0 s
        | none =>
          if s.me.replayed then (s, replayEnding s.me)
          else if (maskPorts m).any (portSource s k) && !s.me.performed then (s, .wait .stores)
          else
            let item := wordItem (s.me.rg b.toNat)
            let s := (maskPorts m).foldl (fun s p => sendPort p m (portSource s k p) item s) s
            (s.onMe fun sl => { sl with phase := portSent, keep := [sentAt s] }, .wait (.port m))) s

/-- The phase of a port instruction is over: the next element of a macro starts anew. -/
def phaseOver (s : State) : State := s.onMe fun sl => { sl with phase := 0, keep := [], entered := 0 }

/-- Element i of PUTB: the item is loaded into the port register, then offered, as a release (R157, R296). -/
def putbElem (p : Nat) (addr : Nat → Nat) (i : Nat) : Body := fun s =>
  if s.me.phase = portFired then (phaseOver s, .next)
  else if s.me.phase != 0 then (s, .wait (.port (2 ^ p)))
  else match portCheck s.cur p true false s with
    | some e => (s, e)
    | none => match (replayPoint s.me).orElse fun _ => (accessWait s.me).map Ending.wait with
      | some e => (s, e)
      | none => match checkAccess s.cur .load 8 [⟨addr i, 8⟩] s with
        | some e => e
        | none => match meetTargets s.cur [⟨addr i, 8⟩] false s with
          | some e => (s, e)
          | none =>
            let items := itemsOf s.cur [⟨⟨0, 0⟩, 0, addr i, 8, 8, false⟩] s
            if loadBlocked s.me s.me.traffic.nextId items then (s, .wait .results)
            else if !s.me.performed then (s, .wait .stores)
            else
              let (v, s) := items.foldl (fun (acc : Word × State) it => readItem s.cur it acc.2) (0#64, s)
              ((sendPort p 0 true (wordItem v) (keepItem p (wordItem v) s)).onMe fun sl => { sl with phase := portSent, keep := [sentAt s] }, .wait (.port (2 ^ p)))

/-- Element i of GETB: accepted once its store has passed its checks, and stored when it has fired (R296). R276 gives a Full port no GETB, so
it is a connector fault (DEDUCED, log 34). -/
def getbElem (p : Nat) (addr : Nat → Nat) (i : Nat) : Body := fun s =>
  if s.me.phase = portFired then
    match storeFor s.cur false 8 [⟨addr i, bytesLE 8 (s.me.keep.headD 0).toNat⟩] (l1Acquire s.myCore s) with
    | .error e => e
    | .ok s => (phaseOver s, .next)
  else if s.me.phase != 0 then (s, .wait (.port (2 ^ p)))
  else match (portCheck s.cur p false false s).orElse fun _ => if (getPort s s.cur p).full then some (connTrap (2 ^ p) 4 0) else none with
    | some e => (s, e)
    | none => match storeWait s.me with
      | some r => (s, .wait r)
      | none => match checkAccess s.cur .store 8 [⟨addr i, 8⟩] s with
        | some e => e
        | none =>
          if s.me.replayed then (s, replayEnding s.me)
          else ((sendPort p 0 false vzero s).onMe fun sl => { sl with phase := portSent, keep := [sentAt s] }, .wait (.port (2 ^ p)))

/-- The addresses of a port macro. -/
def burstAddr (base x : Word) (i : Nat) : Nat :=
  (base + BitVec.ofNat 64 i * sext64 (x.extractLsb' 32 32)).toNat

/-- PUTB (R296). -/
def execPutb (k x : BitVec 3) (a : BitVec 5) (s : State) : Host.Outcome State Fault Refusal :=
  issue (.putb k x a) (fun s => macroBody 7 (slice (s.me.rx x.toNat) 31 0)
    (putbElem k.toNat (burstAddr (s.me.rg a.toNat) (s.me.rx x.toNat))) s) s

/-- GETB (R296). -/
def execGetb (k x : BitVec 3) (a : BitVec 5) (s : State) : Host.Outcome State Fault Refusal :=
  issue (.getb k x a) (fun s => macroBody 8 (slice (s.me.rx x.toNat) 31 0)
    (getbElem k.toNat (burstAddr (s.me.rg a.toNat) (s.me.rx x.toNat))) s) s

/-! ### Images (R297 to R300) -/

/-- A doubleword of an image. -/
def imgWord (bs : List (BitVec 8)) (off : Nat) : Word := BitVec.ofNat 64 (ofBytesLE ((bs.drop off).take 8))

/-- The counts of a header: regions, nodes and links. -/
def imgCounts (h : List (BitVec 8)) : Nat × Nat × Nat :=
  (slice (imgWord h 8) 7 0, slice (imgWord h 8) 47 32, slice (imgWord h 8) 63 48)
def imgW (h : List (BitVec 8)) : Nat := slice (imgWord h 0) 7 0
def imgH (h : List (BitVec 8)) : Nat := slice (imgWord h 0) 15 8
def imgNep (h : List (BitVec 8)) : Nat := slice (imgWord h 8) 23 16

/-- Whether a header keeps R297, apart from LS. -/
def headerGood (h : List (BitVec 8)) : Bool :=
  let a := imgWord h 0
  let b := imgWord h 8
  let (r, n, l) := imgCounts h
  slice a 63 32 == 0x6e634339 && slice a 31 24 == 1 && slice a 23 16 == 0 && 1 ≤ imgH h && imgH h ≤ 16 && 1 ≤ imgW h &&
    imgW h ≤ 32 && 1 ≤ l && l ≤ 4096 && n ≤ 512 && slice b 31 24 == 0 && slice b 15 8 == 0 && 1 ≤ imgNep h &&
    imgNep h ≤ 64 && 1 ≤ r && slice (imgWord h 16) 63 1 == 0 && imgWord h 24 == 0#64

def imgRegions (bs : List (BitVec 8)) (n : Nat) : List Word := (upTo n).map fun i => imgWord bs (32 + 8 * i)
def regionGood (h : List (BitVec 8)) (w : Word) : Bool :=
  slice w 63 16 == 0 && slice w 7 0 < imgW h && slice w 15 8 < imgH h

def nodeOf (w : Word) : CNode := ⟨slice w 23 16, slice w 11 8, slice w 7 0, 0⟩
def nodeGood (nreg : Nat) (w : Word) : Bool :=
  let n := nodeOf w
  slice w 63 24 == 0 && slice w 15 12 == 0 && n.region < nreg && n.kind ≤ 3 && 2 ≤ n.n && n.n ≤ (if n.kind = nkJoin then 8 else 16)

def linkOf (ws : List Word) : Link :=
  let a := ws.getD 0 0
  { src := slice a 63 48, dst := slice a 47 32, kind := slice a 31 28, cap := slice a 27 22 + 1, fop := slice a 21 20,
    fw := slice a 19 18, fsgn := a.getLsbD 17, ra := slice a 15 8, rb := slice a 7 0, mask := ws.getD 1 0,
    const := ws.getD 2 0, stream := slice (ws.getD 3 0) 15 0, held := [], places := 0 }

/-- Whether an end can stand at the source side (or sink side) of a link in a region. -/
def endGood (nep : Nat) (nodes : List CNode) (source : Bool) (kind region e : Nat) : Bool :=
  if isEndpoint e then e < nep && e < 64
  else if isTerminal e then
    match nodeAt nodes (endNode e) with
    | some n => endTerm e ≤ n.n && gives n.kind (endTerm e) == source && n.region == region
    | none => false
  else isRemote e && (kind = lkBuf || kind = lkLossy)

/-- Whether a link record keeps R299 and R300 by itself. -/
def linkGood (nep nreg : Nat) (nodes : List CNode) (ws : List Word) : Bool :=
  let l := linkOf ws
  let filter := l.kind == lkFilter
  let bits := 8 * 2 ^ l.fw
  l.kind ≤ 3 && !(ws.getD 0 0).getLsbD 16 && (l.kind == lkBuf || l.cap == 1) &&
    (if filter then l.mask.toNat < 2 ^ bits && l.const.toNat < 2 ^ bits
     else l.mask == 0 && l.const == 0) &&
    slice (ws.getD 3 0) 63 16 == 0 && (isRemote l.src || isRemote l.dst || l.stream == 0) && l.ra < nreg && l.rb < nreg &&
    (l.kind == lkBuf || l.ra == l.rb) && endGood nep nodes true l.kind l.ra l.src && endGood nep nodes false l.kind l.rb l.dst

/-- Whether a link reuses an end of an earlier one, or an endpoint of the other direction. -/
def linkClash (before : List Link) (l : Link) : Bool :=
  before.any fun x =>
    (!isRemote l.src && (x.src == l.src || x.dst == l.src)) || (!isRemote l.dst && (x.src == l.dst || x.dst == l.dst))

/-- Whether a class would hold both the output and an input of a JOIN: the link feeds one into the other. -/
def joinClash (nodes : List CNode) (links : List Link) (l : Link) : Bool :=
  let c := classOf nodes links l.src
  classJoins nodes c true && classJoins nodes c false

/-- The first link record that breaks the rules, counted among the links. -/
def firstBadLink (nep nreg : Nat) (nodes : List CNode) : Nat → List Link → List (List Word) → Option Nat
  | _, _, [] => none
  | i, before, ws :: t =>
    let l := linkOf ws
    if linkGood nep nreg nodes ws && !linkClash before l && l.src != l.dst && !joinClash nodes (before ++ [l]) l then
      firstBadLink nep nreg nodes (i + 1) (before ++ [l]) t
    else some i

/-- Whether every terminal of a node is used. -/
def nodeUsed (links : List Link) (num : Nat) (n : CNode) : Bool :=
  (upTo (n.n + 1)).all fun t => links.any fun l => l.src == terminal num t || l.dst == terminal num t

/-- An image whose bytes are at hand: its records, or the information of code 0x10. An LS that disagrees with the links makes the header bad,
whatever the records are (R290). -/
def readImage (bs : List (BitVec 8)) : Except Nat (List Word × List CNode × List Link) :=
  let (nreg, nnode, nlink) := imgCounts bs
  let regs := imgRegions bs nreg
  let nws := (upTo nnode).map fun i => imgWord bs (32 + 8 * nreg + 8 * i)
  let lws := (upTo nlink).map fun i => (upTo 4).map fun j => imgWord bs (32 + 8 * nreg + 8 * nnode + 32 * i + 8 * j)
  let nodes := nws.map nodeOf
  let links := lws.map linkOf
  if (imgWord bs 16).getLsbD 0 != links.any (fun l => l.kind == lkLossy) then .error 0xffffffffffff
  else match regs.findIdx? fun w => !regionGood bs w with
  | some i => .error i
  | none => match (enumFrom 0 nws).findIdx? fun w => !nodeGood nreg w.2 || !nodeUsed links w.1 (nodeOf w.2) with
    | some i => .error (nreg + i)
    | none => match firstBadLink (imgNep bs) nreg nodes 0 [] lws with
      | some i => .error (nreg + nnode + i)
      | none => .ok (regs, nodes, links)

/-! ### Room (R10, R283) -/

/-- Octets of a dimension-ordered route that drive a link, with the direction 0 to 3 (east, west, south, north). -/
def routeX : Nat → Nat → Nat → Nat → List (Nat × Nat)
  | 0, _, _, _ => []
  | n + 1, x, x2, y =>
    if x < x2 then (octetAt x y, 0) :: routeX n (x + 1) x2 y
    else if x2 < x then (octetAt x y, 1) :: routeX n (x - 1) x2 y
    else []
def routeY : Nat → Nat → Nat → Nat → List (Nat × Nat)
  | 0, _, _, _ => []
  | n + 1, x, y, y2 =>
    if y < y2 then (octetAt x y, 2) :: routeY n x (y + 1) y2
    else if y2 < y then (octetAt x y, 3) :: routeY n x (y - 1) y2
    else []
def routeOf (a b : Nat) : List (Nat × Nat) :=
  routeX 32 (octetX a) (octetX b) (octetY a) ++ routeY 16 (octetX b) (octetY a) (octetY b)

/-- The octets of a kernel's rectangle. -/
def kernelOctets (s : State) (kernel : Nat) : List Nat :=
  match tfind s.kernels kernel with
  | some k => (upTo k.h).flatMap fun y => (upTo k.w).map fun x => octetAt (k.ox + x) (k.oy + y)
  | none => []

/-- The router links that a region of a connector uses (R283). -/
def regionRoutes (s : State) (cn : Connector) (i : Nat) : List (Nat × Nat) :=
  match cn.regions[i]? with
  | none => []
  | some r =>
    let o := resolverOctet cn r
    let peers := (cn.links.filter fun l => l.kind == lkBuf && l.ra != l.rb && (l.ra == i || l.rb == i)).filterMap fun l =>
      (cn.regions[if l.ra = i then l.rb else l.ra]?).map (resolverOctet cn)
    ((kernelOctets s cn.kernel ++ peers).flatMap fun p => routeOf p o ++ routeOf o p).eraseDups

/-- The router links taken by the loaded connectors. -/
def takenRoutes (s : State) : List (Nat × Nat) :=
  (s.conns.filter fun e => ctxState s e.2.ctx != 6).flatMap fun e => (upTo e.2.regions.length).flatMap (regionRoutes s e.2)

/-- Octets of the node, link and resolver entries of a connector. -/
def nodeOctets (cn : Connector) : List Nat := cn.nodes.filterMap fun n => (cn.regions[n.region]?).map (resolverOctet cn)
def linkOctets (cn : Connector) : List Nat :=
  cn.links.flatMap fun l => (if l.kind = lkBuf then [l.ra, l.rb] else [l.ra]).filterMap fun r => (cn.regions[r]?).map (resolverOctet cn)
def resolverOctets (cn : Connector) : List Nat := cn.regions.map (resolverOctet cn)

/-- The octet that lacks room for a connector beside those that are loaded, if one does (R10, R283). -/
def lackingOctet (s : State) (cn : Connector) : Option Nat :=
  let all := (s.conns.filter fun e => ctxState s e.2.ctx != 6).map (·.2) ++ [cn]
  let short := fun (f : Connector → List Nat) (n : Nat) => (f cn).find? fun o => n < ((all.flatMap f).filter (· == o)).length
  match short nodeOctets 64 with
  | some o => some o
  | none => match short linkOctets 128 with
    | some o => some o
    | none => match short resolverOctets 32 with
      | some o => some o
      | none =>
        let mine := (upTo cn.regions.length).flatMap (regionRoutes s cn)
        let used := takenRoutes s ++ mine
        (mine.find? fun r => 32 < (used.filter (· == r)).length).map (·.1)

/-! ### Connector instructions (R301 to R303) -/

/-- Bytes of an image read as loads of the slot. -/
def imageBytes (a n : Nat) (s : State) : Except (State × Ending) (List (BitVec 8) × State) :=
  let k := s.cur
  let us := (upTo ((n + 63) / 64)).map fun i => (⟨a + 64 * i, Nat.min 64 (n - 64 * i)⟩ : Span)
  match accessWait s.me with
  | some r => .error (s, .wait r)
  | none => match checkAccess k .load 1 us s with
    | some e => .error e
    | none => match meetTargets k us false s with
      | some e => .error (s, e)
      | none =>
        let ws := (upTo (n / 8)).map fun i => (⟨⟨0, 0⟩, 0, a + 8 * i, 8, 8, false⟩ : Want)
        let items := itemsOf k ws s
        if loadBlocked s.me s.me.traffic.nextId items then .error (s, .wait .results)
        else
          .ok (items.foldl (fun (acc : List (BitVec 8) × State) it =>
            let (x, s) := readPlace k it.seq it.place 8 acc.2
            (acc.1 ++ x, s)) ([], s))

/-- The lowest free connector number of a context. -/
def freeConn (s : State) (ctx : Nat) : Option Nat := (upTo 1024).find? fun n => (tfind s.conns (1024 * ctx + n)).isNone

/-- The connector that an image gives at an origin. -/
def newConn (s : State) (num ox oy : Nat) (bs : List (BitVec 8)) (r : List Word × List CNode × List Link) : Connector :=
  let (kx, ky) := match tfind s.kernels s.me.bind.kernel with
    | some k => (k.ox, k.oy)
    | none => (octetX s.myOctet, octetY s.myOctet)
  { ctx := s.myCtx, num := num, ox := kx + ox, oy := ky + oy, kernel := s.me.bind.kernel, det := s.me.det,
    eps := (upTo (imgNep bs)).map fun e =>
      ⟨r.2.2.any (fun l => l.src == e || l.dst == e), r.2.2.any (fun l => l.src == e), none, none, 0⟩,
    regions := r.1.map fun w => ⟨slice w 7 0, slice w 15 8, 0, Vector.replicate 4 0⟩,
    nodes := r.2.1, links := r.2.2, widths := [] }

/-- Whether the image's rectangle lies in the kernel's. -/
def imageFits (s : State) (ox oy : Nat) (bs : List (BitVec 8)) : Bool :=
  match tfind s.kernels s.me.bind.kernel with
  | some k => ox + imgW bs ≤ k.w && oy + imgH bs ≤ k.h
  | none => ox + imgW bs ≤ 1 && oy + imgH bs ≤ 1

/-- A remote end without a stream-table entry of its direction (R485). -/
def missingStream (s : State) (ctx : Nat) (links : List Link) : Option Nat :=
  links.findSome? fun l =>
    if isRemote l.dst && (streamFor s 0 ctx l.stream).isNone then some l.stream
    else if isRemote l.src && (streamFor s 1 ctx l.stream).isNone then some l.stream
    else none

/-- The checks of CLOAD on an image and its place, and the loading. -/
def loadConnector (bs : List (BitVec 8)) (ox oy : Nat) (d : BitVec 5) : Body := fun s =>
  match readImage bs with
  | .error i => (s, connTrap 0 0x10 i)
  | .ok r =>
    if !imageFits s ox oy bs then (s, connTrap 0 0x11 0)
    else
      let cn := newConn s ((freeConn s s.myCtx).getD 0) ox oy bs r
      match lackingOctet s cn with
      | some o => (s, connTrap 0 0x12 o)
      | none => match freeConn s s.myCtx with
        | none => (s, connTrap 0 0x13 0)
        | some n =>
          if s.me.det && r.2.2.any (fun l => l.kind == lkLossy) then (s, connTrap 0 0x14 0)
          else match missingStream s s.myCtx r.2.2 with
            | some t => (s, connTrap 0 0x19 t)
            | none => later .loadDataReturn [.g d.toNat (BitVec.ofNat 64 n)] 0
                { s with conns := tset s.conns (1024 * s.myCtx + n) cn }

/-- CLOAD (R302). -/
def execCload (b a d : BitVec 5) (s : State) : Host.Outcome State Fault Refusal :=
  issue (.cload b a d) (fun s =>
    let addr := s.me.rg a.toNat
    let o := s.me.rg b.toNat
    if slice o 63 16 != 0 then (s, .trap 0x01 (wordOf (.cload b a d) s))
    else if addr.toNat % 64 != 0 then (s, .trap 0x08 addr)
    else match imageBytes addr.toNat 32 s with
      | .error e => e
      | .ok (h, s) =>
        if !headerGood h then (s, connTrap 0 0x10 0xffffffffffff)
        else
          let (r, n, l) := imgCounts h
          match imageBytes addr.toNat (32 + 8 * r + 8 * n + 32 * l) s with
          | .error e => e
          | .ok (bs, s) => loadConnector bs (slice o 7 0) (slice o 15 8) d s) s

/-- The connector that a handle names in the slot's context. -/
def handleConn (s : State) (h : Word) : Option (Nat × Connector) :=
  let key := 1024 * s.myCtx + h.toNat
  if h.toNat < 1024 then (tfind s.conns key).map fun c => (key, c) else none

/-- CUNLOAD (R301, R302). -/
def execCunload (a : BitVec 5) (s : State) : Host.Outcome State Fault Refusal :=
  issue (.cunload a) (fun s =>
    match handleConn s (s.me.rg a.toNat) with
    | none => (s, connTrap 0 0x15 0)
    | some (key, cn) => match (enumFrom 0 cn.eps).find? fun e => e.2.bound.isSome with
      | some e => (s, connTrap 0 0x18 e.1)
      | none => (dropConnEvents (· == key) { s with conns := terase s.conns key }, .next)) s

/-- PBIND (R302). -/
def execPbind (b a : BitVec 5) (k : BitVec 3) (s : State) : Host.Outcome State Fault Refusal :=
  issue (.pbind b a k) (fun s =>
    let x := s.me.rg b.toNat
    let p := k.toNat
    let vec := x.getLsbD 8
    let e := slice x 5 0
    let m := if vec then 3 * 2 ^ p else 2 ^ p
    let ports := if vec then [p, p + 1] else [p]
    if slice x 63 9 != 0 || slice x 7 6 != 0 || (vec && p % 2 != 0) then (s, .trap 0x01 (wordOf (.pbind b a k) s))
    else match handleConn s (s.me.rg a.toNat) with
      | none => (s, connTrap m 0x15 0)
      | some (key, cn) =>
        if ports.any fun q => (getPort s s.cur q).phase != .unbound then (s, connTrap m 4 0)
        else match cn.eps[e]? with
          | none => (s, connTrap m 0x16 e)
          | some ep =>
            let c := classOf cn.nodes cn.links e
            if !ep.used || ep.bound.isSome then (s, connTrap m 0x16 e)
            else if (classWidth cn c).getD vec != vec then (s, connTrap m 0x17 e)
            else
              let s := s.onConn key fun cn => { cn with
                widths := if classJoins cn.nodes c true || classJoins cn.nodes c false then cn.widths else tset cn.widths (classKey c) vec }
              let s := onEndpoint key e (fun y => { y with bound := some (s.cur, p) }) s
              (ports.foldl (fun s q => onSlotPort s.cur q (fun y => { y with phase := .idle, conn := key, ep := e, vec := vec, full := false }) s) s, .next)) s

/-- PUNBIND (R302): a class keeps its width until its last endpoint is unbound (R281). -/
def execPunbind (k : BitVec 3) (s : State) : Host.Outcome State Fault Refusal :=
  issue (.punbind k) (fun s =>
    let p := k.toNat
    let x := getPort s s.cur p
    if x.phase = .unbound then (s, .next)
    else if x.full then (s, connTrap (2 ^ p) 4 0)
    else
      let ports := if x.vec then [p / 2 * 2, p / 2 * 2 + 1] else [p]
      let s := ports.foldl (fun s q => onSlotPort s.cur q (fun _ => Port.reset) s) s
      let s := onEndpoint x.conn x.ep (fun y => { y with bound := none }) s
      (s.onConn x.conn fun cn =>
        let c := classOf cn.nodes cn.links x.ep
        if (enumFrom 0 cn.eps).any fun e => e.2.bound.isSome && c.contains e.1 then cn
        else { cn with widths := terase cn.widths (classKey c) }, .next)) s

/-- CSTAT (R302, R303). -/
def execCstat (b a d : BitVec 5) (s : State) : Host.Outcome State Fault Refusal :=
  issue (.cstat b a d) (fun s =>
    let x := s.me.rg b.toNat
    if slice x 63 10 != 0 then (s, .trap 0x01 (wordOf (.cstat b a d) s))
    else match handleConn s (s.me.rg a.toNat) with
      | none => (s, connTrap 0 0x15 0)
      | some (_, cn) => match cn.regions[slice x 7 0]? with
        | none => (s, .trap 0x01 x)
        | some r => later .loadDataReturn [.g d.toNat (zext64 (vget r.counts (slice x 9 8) 0))] 0 s) s

end Sys2Proof.Machine
end

