-- ==== Sys2Proof/Machine/Tile.lean ====
section
/-! DEFINITION. Tiles, the matrix unit and its commands (16_tile). -/

namespace Sys2Proof.Machine

/-! ### Tiles, B stores and joined quads (R306, R307, R322) -/

def onTile (c : Nat) (f : TileCore → TileCore) (s : State) : State := s.onCore c fun x => { x with tile := f x.tile }
def tileOf (s : State) (c : Nat) : TileCore := (s.core c).tile

/-- Whether a command of the core acts on a joined tile. -/
def joinedTile (s : State) (c : Nat) : Bool := (tileOf s c).st == .leading

/-- The core whose tile holds element (i, j) of the tile of core c, and the element's key there (R322). -/
def tileHome (s : State) (c i j : Nat) : Nat × Nat :=
  if joinedTile s c then
    (8 * (quadOctets (octetOf c)).getD (2 * (i / 128) + j / 192) 0 + c % 8, i % 128 * 192 + j % 192)
  else (c, i * 192 + j)

def getElem (s : State) (c i j : Nat) : BitVec 32 :=
  let (h, k) := tileHome s c i j
  tget (tileOf s h).acc k 0#32

def setElem (c i j : Nat) (v : BitVec 32) (s : State) : State :=
  let (h, k) := tileHome s c i j
  onTile h (fun t => { t with acc := if v = 0#32 then terase t.acc k else tset t.acc k v }) s

/-- The octets whose B store serves column j of the tile of core c, quad row by quad row, and the slice there. -/
def bHomes (s : State) (c j : Nat) : List Nat × Nat :=
  if joinedTile s c then
    let q := quadOctets (octetOf c)
    ([q.getD (j / 192) 0, q.getD (2 + j / 192) 0], j % 192)
  else ([octetOf c], j)

/-- The byte offset of a unit of a slice (R307). -/
def bOffset (slice unit : Nat) : Nat := slice * 8192 + unit % 256 * 32

def bBytes (s : State) (o off n : Nat) : List (BitVec 8) := memBytes (s.octet o).unit.bstore off n
def bPut (o off : Nat) (bs : List (BitVec 8)) (s : State) : State :=
  s.onOctet o fun y => { y with unit := { y.unit with bstore := memPut y.unit.bstore off bs } }

/-! ### The fields of the extension registers (R312, R325, R326) -/

def tcAfmt (x : Word) : Nat := slice x 63 60
def tcBfmt (x : Word) : Nat := slice x 59 56
def tcKs (x : Word) : Nat := slice x 55 32
def tcBu (x : Word) : Nat := slice x 31 24
def tcBsu (x : Word) : Nat := slice x 23 16
def tcN (x : Word) : Nat := 16 * slice x 12 8
def tcM (x : Word) : Nat := 16 * slice x 4 0
def tcSc (x : Word) : Int := Machine.signed 8 (slice x 55 48)
def tcRm (x : Word) : Nat := slice x 59 57
def tcSoff (x : Word) : Int := Machine.signed 32 (slice x 31 0)

/-- The K step of a format (R313). -/
def kStepOf (f : Nat) : Nat := if f = 6 then 64 else if f = 7 || f = 8 then 32 else 16

/-- Macro identities; 0 is TZERO. -/
def midTmma : Nat := 1
def midTldb : Nat := 2
def midTld : Nat := 3
def midTst : Nat := 4

/-- The bytes of an element of a row format. -/
def rowSize (f : Nat) : Nat := Nat.max 1 (fmtBits (fmtOf f) / 8)

/-- The elements of a command. -/
def TileCmd.count (cmd : TileCmd) : Nat :=
  if cmd.mid = 0 then 1 else if cmd.mid = midTmma || cmd.mid = midTldb then tcKs cmd.x0 else tcM cmd.x0

/-- The trap of a tile fault (R330). -/
def tileTrap (code info : Nat) : Ending := .trap 0x18 (BitVec.ofNat 64 (code + info * 2 ^ 8))

/-! ### The checks at issue (R330) -/

/-- The extension register with a reserved field that is not 0, counted from xs. -/
def tileReserved (cmd : TileCmd) : Option Nat :=
  let x := cmd.x0
  if cmd.mid = 0 then none
  else if slice x 7 5 != 0 then some 0
  else if cmd.mid = midTmma || cmd.mid = midTldb then
    let o4 := if cmd.mid = midTmma then tcAfmt x == 6 || tcBfmt x == 6 else tcBfmt x == 6
    if slice x 15 13 != 0 then some 0
    else if o4 && slice cmd.x2 63 34 != 0 then some 2
    else none
  else if slice x 47 13 != 0 || x.getLsbD 56 then some 0
  else if cmd.mid = midTld && (slice x 59 57 != 0 || slice x 55 48 != 0) then some 0
  else none

/-- Whether the formats are allowed. -/
def tileFormats (cmd : TileCmd) : Bool :=
  let a := tcAfmt cmd.x0
  let b := tcBfmt cmd.x0
  let ok := fun (f : Nat) => 6 ≤ f && f ≤ 10
  if cmd.mid = 0 then true
  else if cmd.mid = midTmma then ok a && ok b && kStepOf a == kStepOf b && !(cmd.sparse && a == 6)
  else if cmd.mid = midTldb then ok b
  else if cmd.mid = midTld then 7 ≤ a && a ≤ 11
  else a ≤ 3 || (7 ≤ a && a ≤ 11)

/-- Whether the shape is in range, for a joined tile or not. -/
def tileShape (cmd : TileCmd) (joined : Bool) : Bool :=
  let n := tcN cmd.x0 / 16
  let m := tcM cmd.x0 / 16
  let nOk := 1 ≤ n && n ≤ (if joined then 24 else 12)
  let mOk := 1 ≤ m && m ≤ (if joined then 16 else 8)
  if cmd.mid = 0 then true
  else if cmd.mid = midTmma then nOk && mOk && tcKs cmd.x0 != 0
  else if cmd.mid = midTldb then nOk && tcKs cmd.x0 != 0
  else nOk && mOk

/-- The rounding mode of TST: code 7 reads `mode`. -/
def tstMode (cmd : TileCmd) (sl : Slot) : Nat := if tcRm cmd.x0 = 7 then slice sl.sys.mode 2 0 else tcRm cmd.x0

/-- The commands of other cores of the octet on a sparsity queue (R321). -/
def sparseShared (s : State) (c q : Nat) : Bool :=
  (octetCores (octetOf c)).any fun d => d != c && (tileOf s d).queue.any fun x => x.sparse && x.q == q

/-- The checks of a command in their order. -/
def tileCheck (xs : Nat) (word : Word) (cmd : TileCmd) (s : State) : Option Ending :=
  let c := coreOf cmd.slot
  let o4 := (cmd.mid = midTmma && (tcAfmt cmd.x0 = 6 || tcBfmt cmd.x0 = 6)) || (cmd.mid = midTldb && tcBfmt cmd.x0 = 6)
  match tileReserved cmd with
  | some i => some (tileTrap 6 ((xs + i) % 8))
  | none =>
    if !tileFormats cmd then some (tileTrap 2 0)
    else if cmd.mid = midTst && tcRm cmd.x0 = 6 then some (.trap 0x01 word)
    else if o4 && !accepted s 9 then some (.trap 0x03 word)
    else if cmd.mid = midTst && tstMode cmd (s.slot cmd.slot) = 5 && !accepted s 15 then some (.trap 0x03 word)
    else if !tileShape cmd (joinedTile s c) then some (tileTrap 1 0)
    else if (tileOf s c).st = .lent || (cmd.sparse && joinedTile s c && 8 < tcM cmd.x0 / 16) then some (tileTrap 5 0)
    else if cmd.sparse && (s.slot cmd.slot).det && sparseShared s c cmd.q then some (.trap 0x14 (BitVec.ofNat 64 cmd.q))
    else none

/-! ### One K step (R314 to R320) -/

/-- The values of a 32-byte record; `sc` holds the scale record of an O4 one. -/
def recordValues (f : Nat) (bs sc : List (BitVec 8)) (scf : Bool) (c : Fpu) : List Val × Fpu :=
  if f = 6 then
    let half := fun (h : Nat) (c : Fpu) =>
      let code := (sc.getD (2 * h) 0).toNat
      let ob := (sc.getD (2 * h + 1) 0).toNat % 16
      let vs := ((bs.drop (16 * h)).take 16).flatMap fun b => let (x, y) := pairDecode .o4 b.toNat ob; [x, y]
      vs.foldl (fun (acc : List Val × Fpu) v =>
        let (w, c) := scaleMul v (scaleVal code scf) acc.2
        (acc.1 ++ [w], c)) ([], c)
    let (lo, c) := half 0 c
    let (hi, c) := half 1 c
    (lo ++ hi, c)
  else ((elemsOf (fmtBits (fmtOf f)) (256 / fmtBits (fmtOf f)) (ofBytesLE bs)).map (value (fmtOf f)), c)

/-- A product cut to the 48 bits below 2^e, as a signed count of 2^(e - 48) (R316). -/
def cutProduct (e : Int) (p : Val) : Int :=
  match p with
  | .num n m =>
    let (a, b) := m.inUnits (e - 48)
    let q : Int := ((a / b : Nat) : Int)
    if n then -q else q
  | _ => 0

/-- The largest exponent of the nonzero finite products. -/
def topExponent (ps : List Val) : Option Int :=
  ps.foldl (fun t p => match p with
    | .num _ m => if m.isZero then t else match t with
      | none => some m.exponent
      | some e => some (max e m.exponent)
    | _ => t) none

/-- stepsum of finite products (R316). -/
def stepSum (ps : List Val) : Val :=
  match topExponent ps with
  | none => .num (ps.all Val.neg) (dyadic 0 0)
  | some e =>
    let t := ps.foldl (fun (t : Int) p => t + cutProduct e p) 0
    .num (decide (t < 0)) (dyadic t.natAbs (e - 48))

/-- stepadd: the products added to an element, with the flags of R318 (R317). -/
def stepAdd (old : BitVec 32) (as bs : List Val) (c : Fpu) : BitVec 32 × Fpu :=
  let acc := value .f32 old.toNat
  let quiet := (as ++ bs).any Val.isNan || acc.isNan
  let ps := (as.zip bs).map fun x => (mulVal x.1 x.2 rneFpu).1
  let bad := (as.zip bs).any fun x => !x.1.isNan && !x.2.isNan && (mulVal x.1 x.2 rneFpu).1.isNan
  let infs := fun (n : Bool) => ps.any (· == .inf n)
  let nan : BitVec 32 := 0x7fc00000#32
  if bad || (infs true && infs false) then (nan, c.raise flNV)
  else if quiet then (nan, c)
  else if infs true || infs false then
    if acc == .inf (!infs true) then (nan, c.raise flNV)
    else ((if infs true then 0xff800000#32 else 0x7f800000#32), c)
  else
    let (v, c) := addVal acc (stepSum ps) c
    let (r, c) := roundTo fp32 v c
    (BitVec.ofNat 32 r, c)

/-- The indices of the kept values of group g in a word of a sparsity entry. -/
def keptLo (w : Word) (g : Nat) : Nat := slice w (4 * g + 1) (4 * g)
def keptHi (w : Word) (g : Nat) : Nat := slice w (4 * g + 3) (4 * g + 2)

/-- Word i of an entry. -/
def entryWord (e : List (BitVec 8)) (i : Nat) : Word := BitVec.ofNat 64 (ofBytesLE ((e.drop (4 * i)).take 4))

/-- The entries of a sparse step, checked: the row and group of the first that is wrong (R320). -/
def entriesBad (m : Nat) (es : List (List (BitVec 8))) : Option (Nat × Nat) :=
  es.findSome? fun e =>
    if e.length != 4 * m then some (0, 0)
    else (upTo m).findSome? fun i => ((upTo 8).find? fun g => keptHi (entryWord e i) g ≤ keptLo (entryWord e i) g).map fun g => (i, g)

/-- The logical positions of a row's kept values, in record order. -/
def keptPositions (es : List (List (BitVec 8))) (i : Nat) : List Nat :=
  (enumFrom 0 es).flatMap fun e => (upTo 8).flatMap fun g =>
    let w := entryWord e.2 i
    [32 * e.1 + 4 * g + keptLo w g, 32 * e.1 + 4 * g + keptHi w g]

/-- The row of A over the logical positions of a sparse step: none where nothing is kept. -/
def spreadRow (n : Nat) (ps : List Nat) (vs : List Val) : List (Option Val) :=
  (upTo n).map fun t => ((ps.zip vs).find? fun x => x.1 == t).map (·.2)

/-- The operands of the products of a step. A position that is not kept counts as a +0 product whatever B holds there (R319). -/
def productPairs (as : List (Option Val)) (bs : List Val) : List (Val × Val) :=
  (as.zip bs).map fun x => match x.1 with
    | some a => (a, x.2)
    | none => (.num false (dyadic 0 0), .num false (dyadic 0 0))

/-- Entries that a sparse step uses. -/
def entriesUsed (cmd : TileCmd) : Nat := if kStepOf (tcAfmt cmd.x0) = 16 then 1 else 2

/-- The addresses of the A record and of its scale record, for row i of step st. -/
def aAddr (cmd : TileCmd) (st i : Nat) : Nat := (cmd.addr.toNat + st * slice cmd.x1 63 32 + i * slice cmd.x1 31 0) % 2 ^ 64
def aScale (cmd : TileCmd) (st i : Nat) : Nat :=
  wrap64 ((cmd.addr.toNat : Int) + tcSoff cmd.x2 + (((st * tcM cmd.x0 + i) * 4 : Nat) : Int))

/-- The checks of the records of A (R314, R315): strides, alignment, and lying in the local scratchpad. -/
def aCheck (cmd : TileCmd) (st : Nat) (s : State) : Option Ending :=
  let c := coreOf cmd.slot
  let o4 := tcAfmt cmd.x0 = 6
  let rows := upTo (tcM cmd.x0)
  if slice cmd.x1 63 32 % 32 != 0 || slice cmd.x1 31 0 % 32 != 0 || (o4 && slice cmd.x2 1 0 != 0) then some (tileTrap 3 0)
  else match rows.find? fun i => aAddr cmd st i % 32 != 0 with
    | some i => some (.trap 0x08 (BitVec.ofNat 64 (aAddr cmd st i)))
    | none => match (if o4 then rows.find? fun i => aScale cmd st i % 4 != 0 else none) with
      | some i => some (.trap 0x08 (BitVec.ofNat 64 (aScale cmd st i)))
      | none => match rows.find? fun i => (notScratch s c (aAddr cmd st i) 32).isSome with
        | some i => some (tileTrap 3 (aAddr cmd st i))
        | none => match (if o4 then rows.find? fun i => (notScratch s c (aScale cmd st i) 4).isSome else none) with
          | some i => some (tileTrap 3 (aScale cmd st i))
          | none => none

/-- The units of B that step st reads in slice j. -/
def bUnits (cmd : TileCmd) (st : Nat) : List Nat :=
  if cmd.sparse then [tcBu cmd.x0 + 2 * st, tcBu cmd.x0 + 2 * st + 1] else [tcBu cmd.x0 + st]

/-- A B-store byte that a copy is writing and the slot has not waited for, in the units that hold rows of the shape (R322, R334). -/
def bTarget (s : State) (cmd : TileCmd) (st : Nat) : Option Nat :=
  let c := coreOf cmd.slot
  let sl := s.slot cmd.slot
  let o4 := tcBfmt cmd.x0 = 6
  (upTo (tcN cmd.x0)).findSome? fun j =>
    let (os, sliceNo) := bHomes s c j
    let os := if 128 < tcM cmd.x0 then os else os.take 1
    let offs := ((bUnits cmd st).map (bOffset sliceNo)) ++ (if o4 then [bOffset sliceNo (tcBsu cmd.x0 + st / 8)] else [])
    os.findSome? fun o => offs.find? fun off =>
      (octetCores o).any fun d => (s.core d).transfer.copies.any fun e =>
        cpKind e.2.regs == 2 && unordered sl c d e.2 && (dstRows e.2.regs).any fun b => b < off + 32 && off < b + cpLen e.2.regs

/-- The values of column j of B, for the rows of quad row qr. -/
def bValues (s : State) (cmd : TileCmd) (st qr j : Nat) (c : Fpu) : List Val × Fpu :=
  let (os, sl) := bHomes s (coreOf cmd.slot) j
  let o := os.getD qr (os.headD 0)
  let sc := bBytes s o (bOffset sl (tcBsu cmd.x0 + st / 8) + 4 * (st % 8)) 4
  (bUnits cmd st).foldl (fun (acc : List Val × Fpu) u =>
    let (vs, c) := recordValues (tcBfmt cmd.x0) (bBytes s o (bOffset sl u) 32) sc (cmd.x2.getLsbD 33) acc.2
    (acc.1 ++ vs, c)) ([], c)

/-- The values of row i of A. -/
def aValues (s : State) (cmd : TileCmd) (st i : Nat) (es : List (List (BitVec 8))) (c : Fpu) : List (Option Val) × Fpu :=
  let core := coreOf cmd.slot
  let bs := arrBytes s core (aAddr cmd st i - localBase) 32
  let sc := if tcAfmt cmd.x0 = 6 then arrBytes s core (aScale cmd st i - localBase) 4 else []
  let (vs, c) := recordValues (tcAfmt cmd.x0) bs sc (cmd.x2.getLsbD 32) c
  (if cmd.sparse then spreadRow (2 * kStepOf (tcAfmt cmd.x0)) (keptPositions es i) vs else vs.map some, c)

/-- The new elements of a K step, with its flags: every element is computed from the tile as it stood before. -/
def stepElems (s : State) (cmd : TileCmd) (st : Nat) (es : List (List (BitVec 8))) : List (Nat × Nat × BitVec 32) × Fpu :=
  let c := coreOf cmd.slot
  let cols := fun (qr : Nat) (f : Fpu) => (upTo (tcN cmd.x0)).foldl (fun (acc : List (List Val) × Fpu) j =>
    let (v, f) := bValues s cmd st qr j acc.2
    (acc.1 ++ [v], f)) ([], f)
  let (top, f) := cols 0 rneFpu
  let (bottom, f) := if 128 < tcM cmd.x0 then cols 1 f else (top, f)
  (upTo (tcM cmd.x0)).foldl (fun (acc : List (Nat × Nat × BitVec 32) × Fpu) i =>
    let (a, f) := aValues s cmd st i es acc.2
    (enumFrom 0 (if i < 128 then top else bottom)).foldl (fun (acc : List (Nat × Nat × BitVec 32) × Fpu) b =>
      let ps := productPairs a b.2
      let (v, f) := stepAdd (getElem s c i b.1) (ps.map (·.1)) (ps.map (·.2)) acc.2
      (acc.1 ++ [(i, b.1, v)], f)) (acc.1, f)) ([], f)

/-- The octet whose sparsity queue a command uses: that of the issuing core, which leads a joined tile (R323). -/
def sparseOctet (cmd : TileCmd) : Nat := octetOf (coreOf cmd.slot)

/-- Whether a sparse command has the entries for its next step. -/
def hasEntries (s : State) (cmd : TileCmd) : Bool :=
  !cmd.sparse || entriesUsed cmd ≤ (sparseQ s (sparseOctet cmd) cmd.q).entries.length

/-- The entries of a step that has completed popped (R321). -/
def popEntries (cmd : TileCmd) (s : State) : State :=
  if !cmd.sparse then s
  else
    let o := sparseOctet cmd
    let q := sparseQ s o cmd.q
    let s := setSparseQ o cmd.q { q with entries := q.entries.drop (entriesUsed cmd) } s
    if 16 ≤ q.entries.length then s.soon (evt .sparsityStoreResume o cmd.q 0) else s

/-- Step st of TMMA. -/
def tmmaStep (cmd : TileCmd) (st : Nat) (s : State) : State × Ending :=
  let k := cmd.slot
  let c := coreOf k
  if !hasEntries s cmd then (s, .wait .tile)
  else match aCheck cmd st s with
    | some e => (s, e)
    | none =>
      let spans := (upTo (tcM cmd.x0)).flatMap fun i =>
        ⟨aAddr cmd st i, 32⟩ :: (if tcAfmt cmd.x0 = 6 then [(⟨aScale cmd st i, 4⟩ : Span)] else [])
      match meetTargets k spans false s with
      | some e => (s, e)
      | none => match (if (s.slot k).det then bTarget s cmd st else none) with
        | some off => (s, .trap 0x13 (BitVec.ofNat 64 off))
        | none =>
          let es := if cmd.sparse then (sparseQ s (sparseOctet cmd) cmd.q).entries.take (entriesUsed cmd) else []
          match (if cmd.sparse then entriesBad (tcM cmd.x0) es else none) with
          | some (i, g) => (s, tileTrap 4 (i + g * 2 ^ 8))
          | none =>
            let (vs, f) := stepElems s cmd st es
            let s := vs.foldl (fun s x => setElem c x.1 x.2.1 x.2.2 s) s
            (s.onSlot k (·.raise f.flags), .next)

/-! ### Rows (R325) -/

/-- n bytes at a virtual address as slot k loads them, cut at a page boundary. -/
def readSpan (k a n : Nat) (s : State) : List (BitVec 8) × State :=
  let seq := match groupOf s k with
    | some g => g.next
    | none => 0
  let n1 := Nat.min n (8192 - a % 8192)
  let (x, s) := readPlace k seq (placeAt k .load s a) n1 s
  if n1 = n then (x, s)
  else
    let (y, s) := readPlace k seq (placeAt k .load s (a + n1)) (n - n1) s
    (x ++ y, s)

/-- The address of row i. -/
def rowAt (cmd : TileCmd) (i : Nat) : Nat := (cmd.addr + BitVec.ofNat 64 i * cmd.x1).toNat

/-- Row i of TLD. -/
def tldRow (cmd : TileCmd) (i : Nat) (s : State) : State × Ending :=
  let k := cmd.slot
  let c := coreOf k
  let f := tcAfmt cmd.x0
  let size := rowSize f
  let n := tcN cmd.x0
  let u : Span := ⟨rowAt cmd i, n * size⟩
  match checkAccess k .load size [u] s with
  | some e => e
  | none => match meetTargets k [u] false s with
    | some e => (s, e)
    | none =>
      let (bs, s) := readSpan k u.a u.n s
      let vs := (elemsOf (8 * size) n (ofBytesLE bs)).map fun b => exactF32 (value (fmtOf f) b) rneFpu
      let s := (enumFrom 0 vs).foldl (fun s x => setElem c i x.1 (BitVec.ofNat 32 x.2.1) s) s
      (s.onSlot k (·.raise (vs.foldl (fun f x => f ||| x.2.flags) 0#6)), .next)

/-- The codes of row i of TST, in increasing column, with the rounding state of the slot. -/
def tstCodes (s : State) (cmd : TileCmd) (i : Nat) (c : Fpu) : List Nat × Fpu :=
  (upTo (tcN cmd.x0)).foldl (fun (acc : List Nat × Fpu) j =>
    let v := shiftVal (value .f32 (getElem s (coreOf cmd.slot) i j).toNat) (tcSc cmd.x0)
    let (x, c) := narrow (fmtOf (tcAfmt cmd.x0)) v i acc.2
    (acc.1 ++ [x], c)) ([], c)

/-- Row i of TST. The rows before a row that traps keep their draws, the row that traps makes none (DESIGN CHOICE, log 63). -/
def tstRow (cmd : TileCmd) (i : Nat) (s : State) : State × Ending :=
  let k := cmd.slot
  let sl := s.slot k
  let size := rowSize (tcAfmt cmd.x0)
  let (xs, c) := tstCodes s cmd i ⟨tstMode cmd sl, sl.sys.mode.getLsbD 3, sl.sys.rnk, sl.sys.rnc, 0, none⟩
  match c.trapAt with
  | some j => (s, .trap 0x11 (BitVec.ofNat 64 j))
  | none => match storeFor k (s.slot k).replaying size [⟨rowAt cmd i, xs.flatMap (bytesLE size)⟩] s with
    | .error e => e
    | .ok s => (s.onSlot k (·.absorb c), .next)

/-! ### TLDB (R326) -/

/-- The source addresses of step st: column records, and scale records of an O4 operand. -/
def tldbAddr (cmd : TileCmd) (st j : Nat) : Nat := (cmd.addr.toNat + st * slice cmd.x1 63 32 + j * slice cmd.x1 31 0) % 2 ^ 64
def tldbScale (cmd : TileCmd) (st j : Nat) : Nat :=
  wrap64 ((cmd.addr.toNat : Int) + tcSoff cmd.x2 + (((st * tcN cmd.x0 + j) * 4 : Nat) : Int))

/-- The walk of copy engine 0 for a page that neither a TLB nor an earlier walk gives (R326): what the slot waits for, or the result kept
for the element. -/
def tldbWalk (k va : Nat) (s : State) : Option Ending × State :=
  let sl := s.slot k
  let x : Copy :=
    { tag := 64, regs := CopyRegs.reset, slot := k, ctx := sl.bind.ctx, group := 0, sv := sl.sv, done := 0,
      total := 0, receivers := [], parked := none, err := none, entry := none, started := false, seq := 0, row := [], closed := false }
  let (r, s) := engineXlat (octetOf (coreOf k)) x 0 .load va s
  match r with
  | .walk => (some (.wait (.fault (va / 8192))), s)
  | .migrating => (some (.wait .missFull), s)
  | .pa n => (none, keepXlat k (va / 8192) (.ok (n - va % 8192) true false false true) s)
  | _ => (none, keepXlat k (va / 8192) .format s)

/-- Every page of the element translated by copy engine 0. -/
def tldbXlat (k : Nat) (vs : List Nat) (s : State) : Option Ending × State :=
  vs.foldl (fun (acc : Option Ending × State) v =>
    if acc.1.isNone && translate k .load v acc.2 == .walk then tldbWalk k v acc.2 else acc) (none, s)

/-- Step st of TLDB. -/
def tldbStep (cmd : TileCmd) (st : Nat) (s : State) : State × Ending :=
  let k := cmd.slot
  let c := coreOf k
  let o4 := tcBfmt cmd.x0 = 6
  let cols := upTo (tcN cmd.x0)
  let recs := cols.map fun j => (⟨tldbAddr cmd st j, 32⟩ : Span)
  let scs := if o4 then cols.map fun j => (⟨tldbScale cmd st j, 4⟩ : Span) else []
  if slice cmd.x1 63 32 % 32 != 0 || slice cmd.x1 31 0 % 32 != 0 || (o4 && slice cmd.x2 1 0 != 0) then (s, tileTrap 3 0)
  else match recs.find? fun u => u.a % 32 != 0 with
    | some u => (s, .trap 0x08 (BitVec.ofNat 64 u.a))
    | none => match scs.find? fun u => u.a % 4 != 0 with
      | some u => (s, .trap 0x08 (BitVec.ofNat 64 u.a))
      | none => match tldbXlat k ((recs ++ scs).flatMap fun u => u.pages s c) s with
        | (some e, s) => (s, e)
        | (none, s) => match checkAccess k .load 1 (recs ++ scs) s with
          | some e => e
          | none => match meetTargets k (recs ++ scs) false s with
            | some e => (s, e)
            | none =>
              let put := fun (j off n a : Nat) (s : State) =>
                let (bs, s) := readSpan k a n s
                let (os, sl) := bHomes s c j
                os.foldl (fun s o => bPut o (sl * 8192 + off) bs s) s
              let s := cols.foldl (fun s j => put j ((tcBu cmd.x0 + st) % 256 * 32) 32 (tldbAddr cmd st j) s) s
              (if o4 then cols.foldl (fun s j =>
                put j ((tcBsu cmd.x0 + st / 8) % 256 * 32 + 4 * (st % 8)) 4 (tldbScale cmd st j) s) s else s, .next)

/-- TZERO: every element of the tile is +0 (R324). -/
def zeroTile (c : Nat) (s : State) : State :=
  if joinedTile s c then (quadOctets (octetOf c)).foldl (fun s o => onTile (8 * o + c % 8) (fun t => { t with acc := [] }) s) s
  else onTile c (fun t => { t with acc := [] }) s

/-- One element of a command. -/
def tileElem (cmd : TileCmd) (i : Nat) (s : State) : State × Ending :=
  if cmd.mid = 0 then (zeroTile (coreOf cmd.slot) s, .next)
  else if cmd.mid = midTmma then tmmaStep cmd i s
  else if cmd.mid = midTld then tldRow cmd i s
  else if cmd.mid = midTst then tstRow cmd i s
  else tldbStep cmd i s

/-! ### Queues and the arbiter (R309, R310) -/

/-- The command at the head of a core's queue whose slot stands by it. -/
def headCmd (s : State) (c : Nat) : Option TileCmd :=
  match (tileOf s c).queue.head? with
  | some x => if (s.slot x.slot).run == .parked .tile && !(s.core c).stopped then some x else none
  | none => none

/-- The command at the head of core c's queue has entered its element (R308, R315): `prg` names it. -/
def enterHead (c : Nat) (s : State) : State :=
  match headCmd s c with
  | some x => if x.mid = 0 || x.count ≤ x.elem then s else s.onSlot x.slot (·.onSys fun y => { y with prg := macroPrg x.mid x.elem })
  | none => s

/-- A command leaves its core's queue, and the one behind it is the head. -/
def dropCmd (k : Nat) (s : State) : State :=
  enterHead (coreOf k) (onTile (coreOf k) (fun t => { t with queue := t.queue.filter fun x => x.slot != k }) s)

/-- A K step of slot k's command is on the array: it completes before any interruption, and with the last one the command does (R331). -/
def stepOn (s : State) (k : Nat) : Bool :=
  match headCmd s (coreOf k) with
  | some x => x.slot == k && x.mid == midTmma && (x.busy.isSome || decide (x.count ≤ x.elem))
  | none => false

/-- A command completes. -/
def finishCmd (cmd : TileCmd) (s : State) : State :=
  let s := if cmd.mid = 0 then s else s.onSlot cmd.slot (·.onSys fun y => { y with prg := 0 })
  dropCmd cmd.slot (s.onSlot cmd.slot fun sl => { sl with phase := 2 })

/-- The units that a K step of a command occupies, with the cycles of each (R310, R313): on a joined tile every unit of the quad whose
quadrant holds rows and columns of the shape. -/
def stepUnits (s : State) (cmd : TileCmd) : List (Nat × Nat) :=
  let c := coreOf cmd.slot
  let m := tcM cmd.x0 / 16
  let n := tcN cmd.x0 / 16
  if joinedTile s c then
    ((enumFrom 0 (quadOctets (octetOf c))).map fun x =>
      (x.2, Nat.min 8 (m - 8 * (x.1 / 2)) * Nat.min 12 (n - 12 * (x.1 % 2)))).filter fun x => x.2 != 0
  else [(octetOf c, m * n)]

/-- The cycles that a K step takes. -/
def stepCycles (s : State) (cmd : TileCmd) : Nat := (stepUnits s cmd).foldl (fun n x => Nat.max n x.2) 0

/-- The next element of the command at the head of core c's queue. A TMMA completes only when the array is free of its last step. -/
def runHead (c : Nat) (cmd : TileCmd) (s : State) : State :=
  let k := cmd.slot
  if cmd.count ≤ cmd.elem then finishCmd cmd s
  else match tileElem cmd cmd.elem (enterHead c s) with
    | (s, .next) =>
      if cmd.count ≤ cmd.elem + 1 && cmd.mid != midTmma then finishCmd cmd s
      else
        let busy := if cmd.mid = midTmma then some (s.mcyc + stepCycles s cmd) else none
        let next := fun (x : TileCmd) => if x.slot = k then { x with elem := cmd.elem + 1, busy := busy } else x
        enterHead c (onTile c (fun t => { t with queue := t.queue.map next }) s)
    | (s, .trap cause v) => raiseTrap k cause v (s.slot k).pc (dropCmd k s)
    | (s, .wait r) => if r = .tile then s else s.onSlot k fun sl => { sl with run := .parked r }
    | (s, _) => s

/-- The cores of an octet from a pointer on, in cyclic order. -/
def cyclicCores (o p : Nat) : List Nat := (upTo 8).map fun i => 8 * o + (p + i) % 8

/-- The cycle from which every unit of a command's step is free. -/
def unitsFrom (s : State) (cmd : TileCmd) : Nat :=
  (stepUnits s cmd).foldl (fun t x => Nat.max t (s.octet x.1).unit.freeAt) 0

/-- The head command of core c, where it is a TMMA that has what its next step needs but for the array. -/
def stepHead (s : State) (c : Nat) : Option TileCmd :=
  (headCmd s c).filter fun x => x.mid == midTmma && x.busy.isNone && hasEntries s x

/-- A core whose head command is a TMMA that can start a step. -/
def canStep (s : State) (c : Nat) : Bool :=
  match stepHead s c with
  | some x => decide (unitsFrom s x ≤ s.mcyc)
  | none => false

def onUnit (o : Nat) (f : TileUnit → TileUnit) (s : State) : State := s.onOctet o fun y => { y with unit := f y.unit }

/-- The grant of the arbiter (R310): the core that performs the next K step. -/
def grant1 (o : Nat) (s : State) : Option Nat × State :=
  let u := (s.octet o).unit
  if u.left != 0 && canStep s (8 * o + u.ptr) then (some (8 * o + u.ptr), onUnit o (fun u => { u with left := u.left - 1 }) s)
  else
    let p := if u.left = 0 then u.ptr else (u.ptr + 1) % 8
    match (cyclicCores o p).find? (canStep s) with
    | some c => (some c, onUnit o (fun u => { u with ptr := c % 8, left := (tileOf s c).wt - 1 }) s)
    | none => (none, onUnit o (fun u => { u with ptr := p, left := 0 }) s)

/-- A core that has run its grant passes the pointer on. -/
def passPointer (o : Nat) (s : State) : State :=
  onUnit o (fun u => if u.left = 0 then { u with ptr := (u.ptr + 1) % 8 } else u) s

/-- The head commands of an octet's cores that take no grant (R310). -/
def freeHeads (s : State) (o : Nat) : List (Nat × TileCmd) :=
  (octetCores o).filterMap fun c => ((headCmd s c).filter fun x => x.mid != midTmma).map fun x => (c, x)

/-- What has become of the K step of a command that is on the array: when it has left it, its entries are popped, and after the last step
the command completes (R309, R321). -/
def finishStep (x : TileCmd) (s : State) : State :=
  if x.busy.any fun t => s.mcyc < t then s
  else
    let off := fun (y : TileCmd) => if y.slot = x.slot then { y with busy := none } else y
    let s := if x.busy.isNone then s else popEntries x (onTile (coreOf x.slot) (fun t => { t with queue := t.queue.map off }) s)
    if x.count ≤ x.elem then finishCmd x s else s

/-- The same for every core of an octet. -/
def finishSteps (o : Nat) (s : State) : State :=
  (octetCores o).foldl (fun s c => match headCmd s c with
    | some x => if x.mid == midTmma then finishStep x s else s
    | none => s) s

/-- The next K step, where the array is free and some core can start one. -/
def arrayStep (o : Nat) (s : State) : State :=
  let s := finishSteps o s
  if s.mcyc < (s.octet o).unit.freeAt then s
  else match grant1 o s with
    | (some c, s) => match headCmd s c with
      | some x =>
        let s' := passPointer o (runHead c x s)
        match headCmd s' c with
        | some y =>
          if y.slot = x.slot && x.elem < y.elem then
            (stepUnits s x).foldl (fun s' u => onUnit u.1 (fun t => { t with freeAt := s.mcyc + u.2 }) s') s'
          else s'
        | none => s'
      | none => s
    | (none, s) => s

/-- The cycles at which the commands of octet o can run: the next one where no grant is needed, else when the units of the step are
free. -/
def unitDue (s : State) (o : Nat) : List Nat :=
  (octetCores o).filterMap fun c => match headCmd s c with
    | some x =>
      if x.mid != midTmma || (x.busy.isNone && x.count ≤ x.elem) then some (s.mcyc + 1)
      else match x.busy with
        | some t => some (Nat.max (s.mcyc + 1) t)
        | none => (stepHead s c).map fun x => Nat.max (s.mcyc + 1) (unitsFrom s x)
    | none => none

/-- The next work of the matrix unit of octet o, unless it is on its way. -/
def postStep (o : Nat) (s : State) : State :=
  match unitDue s o with
  | [] => s
  | d :: ds =>
    let due := ds.foldl Nat.min d
    if s.inflight.any fun m => m.2.ev == .kStep && m.2.arg.k == o && decide (m.1 ≤ due) then s else s.postAt due (evt .kStep o 0 0)

/-- K_STEP (R310, R315): the octet arg.k performs one element of each head command that takes no grant, and a K step where the array is
free. -/
def execKStep (s : State) : Host.Outcome State Fault Refusal :=
  event (fun s =>
    let o := s.arg.k
    postStep o (arrayStep o ((freeHeads s o).foldl (fun s x => runHead x.1 x.2 s) s))) s

/-- A slot whose command is interrupted: the command leaves the queue, and the slot issues it again (R331). -/
def leaveTile (k : Nat) (s : State) : State :=
  (dropCmd k s).onSlot k fun sl => { sl with phase := 0, entered := 0, run := .running }

/-! ### The instructions -/

/-- A command in a replay: every element at once, once the core's queue is empty (R156). -/
def tileNow (cmd : TileCmd) : Body := fun s =>
  if !(tileOf s s.myCore).queue.isEmpty then (s, .wait .tile)
  else if cmd.mid = 0 then tileElem cmd 0 s
  else macroBody cmd.mid cmd.count (fun i s => match tileElem { cmd with elem := i } i s with
    | (s, .next) => (if cmd.mid = midTmma then popEntries cmd s else s, .next)
    | r => r) s

/-- What a command waits for at issue beside its queue: its accesses come after every earlier one of its slot (R333). -/
def tileWait (cmd : TileCmd) (sl : Slot) : Option Reason :=
  if cmd.mid = 0 then none
  else match (if cmd.mid = midTst then storeWait sl else accessWait sl) with
    | some r => some r
    | none =>
      if sl.pend.any Pending.unread then some .results
      else if sl.traffic.out.any fun o => match o with
          | .red _ _ | .stl _ _ => true
          | _ => false
      then some .stores else none

/-- A tile command (R309). -/
def tileBody (i : Instr) (mid : Nat) (sparse : Bool) (q : Nat) (a xs : Nat) : Body := fun s =>
  let k := s.cur
  let c := s.myCore
  let cmd : TileCmd := ⟨k, mid, s.me.rg a, s.me.rx xs, s.me.rx (xs + 1), s.me.rx (xs + 2), sparse, q, 0, none⟩
  if s.me.replaying then
    match tileCheck xs (wordOf i s) cmd s with
    | some e => (s, e)
    | none => tileNow cmd s
  else if s.me.phase = 2 then (s, .next)
  else if s.me.phase = 1 then (s.postAt (s.mcyc + 1) (evt .kStep (octetOf c) 0 0), .wait .tile)
  else match (if mid = 0 then some 0 else macroStart mid s.me.sys.prg) with
    | none => (s, .trap 0x01 s.me.sys.prg)
    | some first => match tileCheck xs (wordOf i s) cmd s with
      | some e => (s, e)
      | none => match tileWait cmd s.me with
        | some r => (s, .wait r)
        | none =>
          if 4 ≤ (tileOf s c).queue.length then (s, .wait .tile)
          else
            let s := onTile c (fun t => { t with queue := t.queue ++ [{ cmd with elem := first }] }) s
            let s := if (tileOf s c).queue.length = 1 && mid != 0 then s.onMe (·.onSys fun y => { y with prg := macroPrg mid first }) else s
            ((s.onMe fun sl => { sl with phase := 1 }).postAt (s.mcyc + 1) (evt .kStep (octetOf c) 0 0), .wait .tile)

/-- The group of a slot occupies a quad, and the slot's octet leads it. -/
def leadsQuad (s : State) (k : Nat) : Bool :=
  match groupOf s k with
  | some g => g.quad && octetOf (coreOf k) == g.octet
  | none => false

/-- The cores of number c in the quad of core c's octet. -/
def quadCores (c : Nat) : List Nat := (quadOctets (octetOf c)).map fun o => 8 * o + c % 8

/-- TJOIN (R322, R327). -/
def tjoinBody (a : Nat) : Body := fun s =>
  let x := s.me.rg a
  let c := s.myCore
  if x != 0 && x != 1 then (s, tileTrap 1 0)
  else if !leadsQuad s s.cur then (s, tileTrap 5 0)
  else if (quadCores c).any fun d => !(tileOf s d).queue.isEmpty then (s, .wait .quad)
  else
    let st := fun (d : Nat) => if x = 0 then TileSt.own else if d = c then .leading else .lent
    ((quadCores c).foldl (fun s d => onTile d (fun t => { t with st := st d }) s) s, .next)

/-- TWT (R328). -/
def twtBody (a : Nat) : Body := fun s =>
  let x := (s.me.rg a).toNat
  if x = 0 || 15 < x then (s, tileTrap 1 0) else (onTile s.myCore (fun t => { t with wt := x }) s, .next)

/-- What TSTAT gives (R329). -/
def tileStatus (s : State) (c x : Nat) : Word :=
  let t := tileOf s c
  if x = 0 then
    BitVec.ofNat 64 (t.wt * 2 ^ 12 + (if t.st = .own then 0 else 2 ^ 11) + (if t.st = .leading then 2 ^ 10 else 0) + t.queue.length)
  else
    let q := sparseQ s (octetOf c) (x - 1)
    BitVec.ofNat 64 (q.last / 4 * 32 + q.entries.length)

/-- TSTAT (R329). -/
def tstatBody (a d : Nat) : Body := fun s =>
  let x := (s.me.rg a).toNat
  if 4 < x then (s, tileTrap 1 0) else (s.onMe fun sl => sl.wg d (tileStatus s s.myCore x), .next)

/-- TMMA (R312). -/
def bodyTmma (x : BitVec 3) (a : BitVec 5) : Body := tileBody (.tmma x a) midTmma false 0 a.toNat x.toNat
/-- TMMA (R312). -/
def execTmma (x : BitVec 3) (a : BitVec 5) (s : State) : Host.Outcome State Fault Refusal := issue (.tmma x a) (bodyTmma x a) s

/-- TMMA_SP (R312, R319). -/
def bodyTmmaSp (q : BitVec 2) (x : BitVec 3) (a : BitVec 5) : Body := tileBody (.tmmaSp q x a) midTmma true q.toNat a.toNat x.toNat
/-- TMMA_SP (R312, R319). -/
def execTmmaSp (q : BitVec 2) (x : BitVec 3) (a : BitVec 5) (s : State) : Host.Outcome State Fault Refusal :=
  issue (.tmmaSp q x a) (bodyTmmaSp q x a) s

/-- TZERO (R324). -/
def bodyTzero : Body := tileBody .tzero 0 false 0 0 0
/-- TZERO (R324). -/
def execTzero (s : State) : Host.Outcome State Fault Refusal := issue .tzero bodyTzero s

/-- TLD (R325). -/
def bodyTld (x : BitVec 3) (a : BitVec 5) : Body := tileBody (.tld x a) midTld false 0 a.toNat x.toNat
/-- TLD (R325). -/
def execTld (x : BitVec 3) (a : BitVec 5) (s : State) : Host.Outcome State Fault Refusal := issue (.tld x a) (bodyTld x a) s

/-- TST (R325). -/
def bodyTst (x : BitVec 3) (a : BitVec 5) : Body := tileBody (.tst x a) midTst false 0 a.toNat x.toNat
/-- TST (R325). -/
def execTst (x : BitVec 3) (a : BitVec 5) (s : State) : Host.Outcome State Fault Refusal := issue (.tst x a) (bodyTst x a) s

/-- TLDB (R326). -/
def bodyTldb (x : BitVec 3) (a : BitVec 5) : Body := tileBody (.tldb x a) midTldb false 0 a.toNat x.toNat
/-- TLDB (R326). -/
def execTldb (x : BitVec 3) (a : BitVec 5) (s : State) : Host.Outcome State Fault Refusal := issue (.tldb x a) (bodyTldb x a) s

/-- TJOIN (R327). -/
def bodyTjoin (a : BitVec 5) : Body := tjoinBody a.toNat
/-- TJOIN (R327). -/
def execTjoin (a : BitVec 5) (s : State) : Host.Outcome State Fault Refusal := issue (.tjoin a) (bodyTjoin a) s

/-- TWT (R328). -/
def bodyTwt (a : BitVec 5) : Body := twtBody a.toNat
/-- TWT (R328). -/
def execTwt (a : BitVec 5) (s : State) : Host.Outcome State Fault Refusal := issue (.twt a) (bodyTwt a) s

/-- TSTAT (R329). -/
def bodyTstat (a d : BitVec 5) : Body := tstatBody a.toNat d.toNat
/-- TSTAT (R329). -/
def execTstat (a d : BitVec 5) (s : State) : Host.Outcome State Fault Refusal := issue (.tstat a d) (bodyTstat a d) s

end Sys2Proof.Machine
end

