-- ==== Sys2Proof/Machine/Values.lean ====
section
/-! DEFINITION. The conversions (04_values R79 to R86). A conversion to O4 is long-latency (R45). -/

namespace Sys2Proof.Machine

/-- VPACK: to O4 the result comes later, to any other format at once (R45, R83). -/
def packBody (f : Fmt) (r : Rm) (g : Slot → Fpu → List RegVal × Fpu) : Body :=
  if f = .o4 then fpLater r none g else fpBody r g

/-- CVT (R81). -/
def execCvt (f e : Fmt) (r : Rm) (x : BitVec 3) (a d : BitVec 5) (s : State) : Host.Outcome State Fault Refusal :=
  issue (.cvt f e r x a d) ((if f = .o4 then fpLater r none else fpBody r) fun sl c => let (y, c) := cvtVal f e (sl.rx x.toNat) (sl.rg a.toNat) c
    ([.g d.toNat y], c)) s

/-- The effect of VCVT (R82). -/
def bodyVcvt (f : Fmt) (r : Rm) (p : BitVec 3) (e : Fmt) (a d : BitVec 4) : Body := fpBody r fun sl c => let (x, c) := vcvtVal f e (sl.rp p.toNat) (sl.rv d.toNat) (sl.rv a.toNat) c
  ([.v d.toNat x], c)

/-- VCVT (R82). -/
def execVcvt (f : Fmt) (r : Rm) (p : BitVec 3) (e : Fmt) (a d : BitVec 4) (s : State) : Host.Outcome State Fault Refusal :=
  issue (.vcvt f r p e a d) (bodyVcvt f r p e a d) s

/-- The effect of VPACK (R83). -/
def bodyVpack (f : Fmt) (r : Rm) (p : BitVec 3) (b a d : BitVec 4) : Body := packBody f r fun sl c => let (x, c) := vpackVal f (sl.rp p.toNat) (sl.rv d.toNat) (sl.rv a.toNat) (sl.rv b.toNat) c
  ([.v d.toNat x], c)

/-- VPACK (R83). -/
def execVpack (f : Fmt) (r : Rm) (p : BitVec 3) (b a d : BitVec 4) (s : State) : Host.Outcome State Fault Refusal :=
  issue (.vpack f r p b a d) (bodyVpack f r p b a d) s

/-- The effect of VUNPK (R84). -/
def bodyVunpk (f : Fmt) (p : BitVec 3) (h : Bool) (a d : BitVec 4) : Body := fpBody .rne fun sl c => let (x, c) := vunpkVal f h (sl.rp p.toNat) (sl.rv d.toNat) (sl.rv a.toNat) c
  ([.v d.toNat x], c)

/-- VUNPK (R84). -/
def execVunpk (f : Fmt) (p : BitVec 3) (h : Bool) (a d : BitVec 4) (s : State) : Host.Outcome State Fault Refusal :=
  issue (.vunpk f p h a d) (bodyVunpk f p h a d) s

/-- The effect of VBSCALE (R85). -/
def bodyVbscale (f : Fmt) (r : Rm) (p : BitVec 3) (b a d : BitVec 4) : Body := fpBody r fun sl c => let (x, c) := vbscaleVal f (sl.rp p.toNat) (sl.rv d.toNat) (sl.rv a.toNat) (sl.rv b.toNat) c
  ([.v d.toNat x], c)

/-- VBSCALE (R85). -/
def execVbscale (f : Fmt) (r : Rm) (p : BitVec 3) (b a d : BitVec 4) (s : State) : Host.Outcome State Fault Refusal :=
  issue (.vbscale f r p b a d) (bodyVbscale f r p b a d) s

end Sys2Proof.Machine
end

