-- ==== Sys2Proof/Machine/Vector.lean ====
section
/-! DEFINITION. The vector instructions (08_vector). Each has its effect apart, which a replay performs too (R156). -/

namespace Sys2Proof.Machine

/-- A floating-point operation on the elements of active lanes (R170, R174). -/
def fpv (t : Bool) (p : BitVec 3) (b a d : BitVec 4) (sl : Slot) (c : Fpu)
    (f : Nat → Nat → Nat → Fpu → Nat × Fpu) : List RegVal × Fpu :=
  let (x, c) := fpLanes t (sl.rp p.toNat) (sl.rv d.toNat) (sl.rv a.toNat) (sl.rv b.toNat) f c
  ([.v d.toNat x], c)

/-- An integer lane operation (R177). -/
def intv (op : LaneOp) (l : Lanes) (p : BitVec 3) (b a d : BitVec 4) : Body :=
  onRegs fun sl => sl.wv d.toNat (intLanes op l (sl.rp p.toNat) (sl.rv d.toNat) (sl.rv a.toNat) (sl.rv b.toNat))

/-- The effect of VADD (R174). -/
def bodyVadd (t : Bool) (r : Rm) (p : BitVec 3) (b a d : BitVec 4) : Body := fpBody r fun sl c => fpv t p b a d sl c fun x y _ c => fpOp (laneFloat t) .add x y 0 c

/-- VADD (R174). -/
def execVadd (t : Bool) (r : Rm) (p : BitVec 3) (b a d : BitVec 4) (s : State) : Host.Outcome State Fault Refusal :=
  issue (.vadd t r p b a d) (bodyVadd t r p b a d) s

/-- The effect of VSUB (R174). -/
def bodyVsub (t : Bool) (r : Rm) (p : BitVec 3) (b a d : BitVec 4) : Body := fpBody r fun sl c => fpv t p b a d sl c fun x y _ c => fpOp (laneFloat t) .sub x y 0 c

/-- VSUB (R174). -/
def execVsub (t : Bool) (r : Rm) (p : BitVec 3) (b a d : BitVec 4) (s : State) : Host.Outcome State Fault Refusal :=
  issue (.vsub t r p b a d) (bodyVsub t r p b a d) s

/-- The effect of VMUL (R174). -/
def bodyVmul (t : Bool) (r : Rm) (p : BitVec 3) (b a d : BitVec 4) : Body := fpBody r fun sl c => fpv t p b a d sl c fun x y _ c => fpOp (laneFloat t) .mul x y 0 c

/-- VMUL (R174). -/
def execVmul (t : Bool) (r : Rm) (p : BitVec 3) (b a d : BitVec 4) (s : State) : Host.Outcome State Fault Refusal :=
  issue (.vmul t r p b a d) (bodyVmul t r p b a d) s

/-- The effect of VFMA (R174). -/
def bodyVfma (t : Bool) (r : Rm) (p : BitVec 3) (b a d : BitVec 4) : Body := fpBody r fun sl c => fpv t p b a d sl c fun x y z c => fpOp (laneFloat t) .fma x y z c

/-- VFMA (R174). -/
def execVfma (t : Bool) (r : Rm) (p : BitVec 3) (b a d : BitVec 4) (s : State) : Host.Outcome State Fault Refusal :=
  issue (.vfma t r p b a d) (bodyVfma t r p b a d) s

/-- The effect of VFMS (R174). -/
def bodyVfms (t : Bool) (r : Rm) (p : BitVec 3) (b a d : BitVec 4) : Body := fpBody r fun sl c => fpv t p b a d sl c fun x y z c => fpOp (laneFloat t) .fms x y z c

/-- VFMS (R174). -/
def execVfms (t : Bool) (r : Rm) (p : BitVec 3) (b a d : BitVec 4) (s : State) : Host.Outcome State Fault Refusal :=
  issue (.vfms t r p b a d) (bodyVfms t r p b a d) s

/-- The effect of VMIN (R174). -/
def bodyVmin (t : Bool) (p : BitVec 3) (b a d : BitVec 4) : Body := fpBody .rne fun sl c => fpv t p b a d sl c fun x y _ c => minMax (laneFloat t) false x y c

/-- VMIN (R174). -/
def execVmin (t : Bool) (p : BitVec 3) (b a d : BitVec 4) (s : State) : Host.Outcome State Fault Refusal :=
  issue (.vmin t p b a d) (bodyVmin t p b a d) s

/-- The effect of VMAX (R174). -/
def bodyVmax (t : Bool) (p : BitVec 3) (b a d : BitVec 4) : Body := fpBody .rne fun sl c => fpv t p b a d sl c fun x y _ c => minMax (laneFloat t) true x y c

/-- VMAX (R174). -/
def execVmax (t : Bool) (p : BitVec 3) (b a d : BitVec 4) (s : State) : Host.Outcome State Fault Refusal :=
  issue (.vmax t p b a d) (bodyVmax t p b a d) s

/-- The effect of VABS (R174). -/
def bodyVabs (t : Bool) (p : BitVec 3) (a d : BitVec 4) : Body := fpBody .rne fun sl c => fpv t p a a d sl c fun x _ _ c => (x % 2 ^ ((laneFloat t).bits - 1), c)

/-- VABS (R174). -/
def execVabs (t : Bool) (p : BitVec 3) (a d : BitVec 4) (s : State) : Host.Outcome State Fault Refusal :=
  issue (.vabs t p a d) (bodyVabs t p a d) s

/-- The effect of VNEG (R174). -/
def bodyVneg (t : Bool) (p : BitVec 3) (a d : BitVec 4) : Body := fpBody .rne fun sl c => fpv t p a a d sl c fun x _ _ c => ((x + 2 ^ ((laneFloat t).bits - 1)) % 2 ^ (laneFloat t).bits, c)

/-- VNEG (R174). -/
def execVneg (t : Bool) (p : BitVec 3) (a d : BitVec 4) (s : State) : Host.Outcome State Fault Refusal :=
  issue (.vneg t p a d) (bodyVneg t p a d) s

/-- The effect of VRCP (R176). -/
def bodyVrcp (r : Rm) (p : BitVec 3) (a d : BitVec 4) : Body := fpBody r fun sl c => fpv false p a a d sl c fun x _ _ c => fpUnary rcpVal x c

/-- VRCP (R176). -/
def execVrcp (r : Rm) (p : BitVec 3) (a d : BitVec 4) (s : State) : Host.Outcome State Fault Refusal :=
  issue (.vrcp r p a d) (bodyVrcp r p a d) s

/-- The effect of VRSQ (R176). -/
def bodyVrsq (r : Rm) (p : BitVec 3) (a d : BitVec 4) : Body := fpBody r fun sl c => fpv false p a a d sl c fun x _ _ c => fpUnary rsqrtVal x c

/-- VRSQ (R176). -/
def execVrsq (r : Rm) (p : BitVec 3) (a d : BitVec 4) (s : State) : Host.Outcome State Fault Refusal :=
  issue (.vrsq r p a d) (bodyVrsq r p a d) s

/-- The effect of VEXP2 (R176). -/
def bodyVexp2 (r : Rm) (p : BitVec 3) (a d : BitVec 4) : Body := fpBody r fun sl c => fpv false p a a d sl c fun x _ _ c => fpUnary exp2Val x c

/-- VEXP2 (R176). -/
def execVexp2 (r : Rm) (p : BitVec 3) (a d : BitVec 4) (s : State) : Host.Outcome State Fault Refusal :=
  issue (.vexp2 r p a d) (bodyVexp2 r p a d) s

/-- The effect of VIADD (R177). -/
def bodyViadd (l : Lanes) (p : BitVec 3) (b a d : BitVec 4) : Body := intv .add l p b a d

/-- VIADD (R177). -/
def execViadd (l : Lanes) (p : BitVec 3) (b a d : BitVec 4) (s : State) : Host.Outcome State Fault Refusal :=
  issue (.viadd l p b a d) (bodyViadd l p b a d) s

/-- The effect of VISUB (R177). -/
def bodyVisub (l : Lanes) (p : BitVec 3) (b a d : BitVec 4) : Body := intv .sub l p b a d

/-- VISUB (R177). -/
def execVisub (l : Lanes) (p : BitVec 3) (b a d : BitVec 4) (s : State) : Host.Outcome State Fault Refusal :=
  issue (.visub l p b a d) (bodyVisub l p b a d) s

/-- The effect of VIMUL (R177). -/
def bodyVimul (l : Lanes) (p : BitVec 3) (b a d : BitVec 4) : Body := intv .mul l p b a d

/-- VIMUL (R177). -/
def execVimul (l : Lanes) (p : BitVec 3) (b a d : BitVec 4) (s : State) : Host.Outcome State Fault Refusal :=
  issue (.vimul l p b a d) (bodyVimul l p b a d) s

/-- The effect of VIMAD (R177). -/
def bodyVimad (l : Lanes) (p : BitVec 3) (b a d : BitVec 4) : Body := intv .mad l p b a d

/-- VIMAD (R177). -/
def execVimad (l : Lanes) (p : BitVec 3) (b a d : BitVec 4) (s : State) : Host.Outcome State Fault Refusal :=
  issue (.vimad l p b a d) (bodyVimad l p b a d) s

/-- The effect of VIMIN (R177). -/
def bodyVimin (l : Lanes) (p : BitVec 3) (b a d : BitVec 4) : Body := intv .min l p b a d

/-- VIMIN (R177). -/
def execVimin (l : Lanes) (p : BitVec 3) (b a d : BitVec 4) (s : State) : Host.Outcome State Fault Refusal :=
  issue (.vimin l p b a d) (bodyVimin l p b a d) s

/-- The effect of VIMAX (R177). -/
def bodyVimax (l : Lanes) (p : BitVec 3) (b a d : BitVec 4) : Body := intv .max l p b a d

/-- VIMAX (R177). -/
def execVimax (l : Lanes) (p : BitVec 3) (b a d : BitVec 4) (s : State) : Host.Outcome State Fault Refusal :=
  issue (.vimax l p b a d) (bodyVimax l p b a d) s

/-- The effect of VAND (R177). -/
def bodyVand (l : Lanes) (p : BitVec 3) (b a d : BitVec 4) : Body := intv .and l p b a d

/-- VAND (R177). -/
def execVand (l : Lanes) (p : BitVec 3) (b a d : BitVec 4) (s : State) : Host.Outcome State Fault Refusal :=
  issue (.vand l p b a d) (bodyVand l p b a d) s

/-- The effect of VOR (R177). -/
def bodyVor (l : Lanes) (p : BitVec 3) (b a d : BitVec 4) : Body := intv .or l p b a d

/-- VOR (R177). -/
def execVor (l : Lanes) (p : BitVec 3) (b a d : BitVec 4) (s : State) : Host.Outcome State Fault Refusal :=
  issue (.vor l p b a d) (bodyVor l p b a d) s

/-- The effect of VXOR (R177). -/
def bodyVxor (l : Lanes) (p : BitVec 3) (b a d : BitVec 4) : Body := intv .xor l p b a d

/-- VXOR (R177). -/
def execVxor (l : Lanes) (p : BitVec 3) (b a d : BitVec 4) (s : State) : Host.Outcome State Fault Refusal :=
  issue (.vxor l p b a d) (bodyVxor l p b a d) s

/-- The effect of VSLL (R177). -/
def bodyVsll (l : Lanes) (p : BitVec 3) (b a d : BitVec 4) : Body := intv .sll l p b a d

/-- VSLL (R177). -/
def execVsll (l : Lanes) (p : BitVec 3) (b a d : BitVec 4) (s : State) : Host.Outcome State Fault Refusal :=
  issue (.vsll l p b a d) (bodyVsll l p b a d) s

/-- The effect of VSRL (R177). -/
def bodyVsrl (l : Lanes) (p : BitVec 3) (b a d : BitVec 4) : Body := intv .srl l p b a d

/-- VSRL (R177). -/
def execVsrl (l : Lanes) (p : BitVec 3) (b a d : BitVec 4) (s : State) : Host.Outcome State Fault Refusal :=
  issue (.vsrl l p b a d) (bodyVsrl l p b a d) s

/-- The effect of VSRA (R177). -/
def bodyVsra (l : Lanes) (p : BitVec 3) (b a d : BitVec 4) : Body := intv .sra l p b a d

/-- VSRA (R177). -/
def execVsra (l : Lanes) (p : BitVec 3) (b a d : BitVec 4) (s : State) : Host.Outcome State Fault Refusal :=
  issue (.vsra l p b a d) (bodyVsra l p b a d) s

/-- The effect of VIABS (R177). -/
def bodyViabs (l : Lanes) (p : BitVec 3) (a d : BitVec 4) : Body := intv .abs l p a a d

/-- VIABS (R177). -/
def execViabs (l : Lanes) (p : BitVec 3) (a d : BitVec 4) (s : State) : Host.Outcome State Fault Refusal :=
  issue (.viabs l p a d) (bodyViabs l p a d) s

/-- The effect of VCMP (R178). -/
def bodyVcmp (t : Bool) (c : Cond) (p : BitVec 3) (b a : BitVec 4) (d : BitVec 3) : Body := fun s => let (x, f) := vcmpVal t c (s.me.rp p.toNat) (s.me.rp d.toNat) (s.me.rv a.toNat) (s.me.rv b.toNat) (fpuOf .rne s.me)
  (s.onMe fun sl => (sl.wp d.toNat x).absorb f, .next)

/-- VCMP (R178). -/
def execVcmp (t : Bool) (c : Cond) (p : BitVec 3) (b a : BitVec 4) (d : BitVec 3) (s : State) : Host.Outcome State Fault Refusal :=
  issue (.vcmp t c p b a d) (bodyVcmp t c p b a d) s

/-- The effect of VSEL (R179). -/
def bodyVsel (p : BitVec 3) (b a d : BitVec 4) : Body := onRegs fun sl => sl.wv d.toNat (lanes fun j => if (sl.rp p.toNat).getLsbD j then lane (sl.rv a.toNat) j else lane (sl.rv b.toNat) j)

/-- VSEL (R179). -/
def execVsel (p : BitVec 3) (b a d : BitVec 4) (s : State) : Host.Outcome State Fault Refusal :=
  issue (.vsel p b a d) (bodyVsel p b a d) s

/-- The effect of VPERM (R179). -/
def bodyVperm (p : BitVec 3) (b a d : BitVec 4) : Body := onRegs fun sl => let x := sl.rv a.toNat; let y := sl.rv b.toNat
  sl.wv d.toNat (permLanes (sl.rp p.toNat) (sl.rv d.toNat) fun j => lane x ((lane y j).toNat % 16))

/-- VPERM (R179). -/
def execVperm (p : BitVec 3) (b a d : BitVec 4) (s : State) : Host.Outcome State Fault Refusal :=
  issue (.vperm p b a d) (bodyVperm p b a d) s

/-- The effect of VREV (R179). -/
def bodyVrev (p : BitVec 3) (a d : BitVec 4) : Body := onRegs fun sl => let x := sl.rv a.toNat
  sl.wv d.toNat (permLanes (sl.rp p.toNat) (sl.rv d.toNat) fun j => lane x (15 - j))

/-- VREV (R179). -/
def execVrev (p : BitVec 3) (a d : BitVec 4) (s : State) : Host.Outcome State Fault Refusal :=
  issue (.vrev p a d) (bodyVrev p a d) s

/-- The effect of VSLIDE (R180). -/
def bodyVslide (m : BitVec 6) (p : BitVec 3) (b a d : BitVec 4) : Body := onRegs fun sl => let x := sl.rv a.toNat; let y := sl.rv b.toNat
  sl.wv d.toNat (permLanes (sl.rp p.toNat) (sl.rv d.toNat) fun j => slideLane x y m.toInt j)

/-- VSLIDE (R180). -/
def execVslide (m : BitVec 6) (p : BitVec 3) (b a d : BitVec 4) (s : State) : Host.Outcome State Fault Refusal :=
  issue (.vslide m p b a d) (bodyVslide m p b a d) s

/-- The effect of VZIP (R179). -/
def bodyVzip (p : BitVec 3) (b a d : BitVec 4) : Body := onRegs fun sl => let x := sl.rv a.toNat; let y := sl.rv b.toNat
  sl.wv d.toNat (permLanes (sl.rp p.toNat) (sl.rv d.toNat) fun j => if j % 2 = 0 then lane x (j / 2) else lane y (j / 2))

/-- VZIP (R179). -/
def execVzip (p : BitVec 3) (b a d : BitVec 4) (s : State) : Host.Outcome State Fault Refusal :=
  issue (.vzip p b a d) (bodyVzip p b a d) s

/-- The effect of VUNZIP (R179). -/
def bodyVunzip (p : BitVec 3) (a d : BitVec 4) : Body := onRegs fun sl => let x := sl.rv a.toNat
  sl.wv d.toNat (permLanes (sl.rp p.toNat) (sl.rv d.toNat) fun j => if j < 8 then lane x (2 * j) else lane x (2 * (j - 8) + 1))

/-- VUNZIP (R179). -/
def execVunzip (p : BitVec 3) (a d : BitVec 4) (s : State) : Host.Outcome State Fault Refusal :=
  issue (.vunzip p a d) (bodyVunzip p a d) s

/-- The effect of VBCAST (R181). -/
def bodyVbcast (p : BitVec 2) (g : BitVec 5) (d : BitVec 4) : Body := onRegs fun sl => let n := (sl.rg g.toNat).extractLsb' 0 32
  sl.wv d.toNat (permLanes (sl.rp p.toNat) (sl.rv d.toNat) fun _ => n)

/-- VBCAST (R181). -/
def execVbcast (p : BitVec 2) (g : BitVec 5) (d : BitVec 4) (s : State) : Host.Outcome State Fault Refusal :=
  issue (.vbcast p g d) (bodyVbcast p g d) s

/-- The effect of VEXT (R181). -/
def bodyVext (l : BitVec 4) (g : BitVec 5) (a : BitVec 4) : Body := setG g fun sl => zext64 (lane (sl.rv a.toNat) l.toNat)

/-- VEXT (R181). -/
def execVext (l : BitVec 4) (g : BitVec 5) (a : BitVec 4) (s : State) : Host.Outcome State Fault Refusal :=
  issue (.vext l g a) (bodyVext l g a) s

/-- The effect of VINS (R181). -/
def bodyVins (l : BitVec 4) (g : BitVec 5) (d : BitVec 4) : Body := onRegs fun sl => sl.wv d.toNat (vset (sl.rv d.toNat) l.toNat ((sl.rg g.toNat).extractLsb' 0 32))

/-- VINS (R181). -/
def execVins (l : BitVec 4) (g : BitVec 5) (d : BitVec 4) (s : State) : Host.Outcome State Fault Refusal :=
  issue (.vins l g d) (bodyVins l g d) s

/-- The effect of VIOTA (R181). -/
def bodyViota (p : BitVec 2) (g : BitVec 5) (d : BitVec 4) : Body := onRegs fun sl => let n := (sl.rg g.toNat).extractLsb' 0 32
  sl.wv d.toNat (permLanes (sl.rp p.toNat) (sl.rv d.toNat) fun j => n + BitVec.ofNat 32 j)

/-- VIOTA (R181). -/
def execViota (p : BitVec 2) (g : BitVec 5) (d : BitVec 4) (s : State) : Host.Outcome State Fault Refusal :=
  issue (.viota p g d) (bodyViota p g d) s

/-- The effect of VMIX (R181). -/
def bodyVmix (p : BitVec 2) (g : BitVec 5) (a d : BitVec 4) : Body := onRegs fun sl => let n := (sl.rg g.toNat).extractLsb' 0 32
  sl.wv d.toNat (permLanes (sl.rp p.toNat) (sl.rv d.toNat) fun j => mix32 (lane (sl.rv a.toNat) j) n)

/-- VMIX (R181). -/
def execVmix (p : BitVec 2) (g : BitVec 5) (a d : BitVec 4) (s : State) : Host.Outcome State Fault Refusal :=
  issue (.vmix p g a d) (bodyVmix p g a d) s

/-- The effect of VRED (R183). -/
def bodyVred (o : VRedOp) (r : Rm) (p : BitVec 3) (a d : BitVec 4) : Body := fpBody r fun sl c => let (x, c) := vredVal o (sl.rp p.toNat) (sl.rv a.toNat) c
  ([.v d.toNat x], c)

/-- VRED (R183). -/
def execVred (o : VRedOp) (r : Rm) (p : BitVec 3) (a d : BitVec 4) (s : State) : Host.Outcome State Fault Refusal :=
  issue (.vred o r p a d) (bodyVred o r p a d) s

/-- The effect of VSCAN (R184). -/
def bodyVscan (o : VRedOp) (r : Rm) (p : BitVec 3) (a d : BitVec 4) : Body := fpBody r fun sl c => let (x, c) := vscanVal o (sl.rp p.toNat) (sl.rv d.toNat) (sl.rv a.toNat) c
  ([.v d.toNat x], c)

/-- VSCAN (R184). -/
def execVscan (o : VRedOp) (r : Rm) (p : BitVec 3) (a d : BitVec 4) (s : State) : Host.Outcome State Fault Refusal :=
  issue (.vscan o r p a d) (bodyVscan o r p a d) s

/-- The effect of VDOT (R187). -/
def bodyVdot (f : Fmt) (r : Rm) (p : BitVec 3) (b a d : BitVec 4) : Body := fpBody r fun sl c => let (x, c) := vdotVal f (sl.rp p.toNat) (sl.rv d.toNat) (sl.rv a.toNat) (sl.rv b.toNat) (sl.rx 0) c
  ([.v d.toNat x], c)

/-- VDOT (R187). -/
def execVdot (f : Fmt) (r : Rm) (p : BitVec 3) (b a d : BitVec 4) (s : State) : Host.Outcome State Fault Refusal :=
  issue (.vdot f r p b a d) (bodyVdot f r p b a d) s

end Sys2Proof.Machine
end

