-- ==== Sys2Proof/Machine/Repeat.lean ====
section
/-! DEFINITION. Hardware loops (07_control_fp R147 to R153) and REP with its replay (R154 to R158). -/

namespace Sys2Proof.Machine

/-! ### LOOP and LOOPI (R149) -/

/-- A loop set to n passes: with none, the instruction behind its last one follows (DEDUCED, log 24). -/
def loopBody (k : Bool) (i : BitVec 14) (n : Slot → Nat) : Body := fun s =>
  let sl := s.me
  let ls := sl.pc + 4
  let le := ls + 2 * zext64 i
  let n := n sl
  let l : Loop := ⟨ls, le, setBit (BitVec.ofNat 64 n) 63 sl.th⟩
  if n = 0 then
    match fetchParcel s.cur le s with
    | .error (s, .trap _ _) => (s, .trap 0x0d le)
    | .error e => e
    | .ok (x, s) => (s.onMe (·.setLoop k l), .jump (le + (if x % 2 = 0 then 2 else 4)))
  else (s.onMe (·.setLoop k l), .next)

/-- LOOP (R149). -/
def execLoop (i : BitVec 14) (a : BitVec 5) (k : Bool) (s : State) : Host.Outcome State Fault Refusal :=
  issue (.loop i a k) (loopBody k i fun sl => slice (sl.rg a.toNat) 31 0) s

/-- LOOPI (R149). -/
def execLoopi (i : BitVec 14) (m : BitVec 5) (n : BitVec 4) (k : Bool) (s : State) : Host.Outcome State Fault Refusal :=
  issue (.loopi i m n k) (loopBody k i fun _ => (n ++ m).toNat) s

/-! ### What a replay can hold -/

/-- The effect of an instruction that a window may hold. -/
def engineBody (i : Instr) : Body :=
  match i with
  | .vadd t r p b a d => bodyVadd t r p b a d
  | .vsub t r p b a d => bodyVsub t r p b a d
  | .vmul t r p b a d => bodyVmul t r p b a d
  | .vfma t r p b a d => bodyVfma t r p b a d
  | .vfms t r p b a d => bodyVfms t r p b a d
  | .vmin t p b a d => bodyVmin t p b a d
  | .vmax t p b a d => bodyVmax t p b a d
  | .vabs t p a d => bodyVabs t p a d
  | .vneg t p a d => bodyVneg t p a d
  | .vrcp r p a d => bodyVrcp r p a d
  | .vrsq r p a d => bodyVrsq r p a d
  | .vexp2 r p a d => bodyVexp2 r p a d
  | .viadd l p b a d => bodyViadd l p b a d
  | .visub l p b a d => bodyVisub l p b a d
  | .vimul l p b a d => bodyVimul l p b a d
  | .vimad l p b a d => bodyVimad l p b a d
  | .vimin l p b a d => bodyVimin l p b a d
  | .vimax l p b a d => bodyVimax l p b a d
  | .vand l p b a d => bodyVand l p b a d
  | .vor l p b a d => bodyVor l p b a d
  | .vxor l p b a d => bodyVxor l p b a d
  | .vsll l p b a d => bodyVsll l p b a d
  | .vsrl l p b a d => bodyVsrl l p b a d
  | .vsra l p b a d => bodyVsra l p b a d
  | .viabs l p a d => bodyViabs l p a d
  | .vcmp t c p b a d => bodyVcmp t c p b a d
  | .vsel p b a d => bodyVsel p b a d
  | .vperm p b a d => bodyVperm p b a d
  | .vrev p a d => bodyVrev p a d
  | .vslide m p b a d => bodyVslide m p b a d
  | .vzip p b a d => bodyVzip p b a d
  | .vunzip p a d => bodyVunzip p a d
  | .vbcast p g d => bodyVbcast p g d
  | .vext l g a => bodyVext l g a
  | .vins l g d => bodyVins l g d
  | .viota p g d => bodyViota p g d
  | .vmix p g a d => bodyVmix p g a d
  | .vred o r p a d => bodyVred o r p a d
  | .vscan o r p a d => bodyVscan o r p a d
  | .vdot f r p b a d => bodyVdot f r p b a d
  | .vcvt f r p e a d => bodyVcvt f r p e a d
  | .vpack f r p b a d => bodyVpack f r p b a d
  | .vunpk f p h a d => bodyVunpk f p h a d
  | .vbscale f r p b a d => bodyVbscale f r p b a d
  | .vld o a d => bodyVld o a d
  | .vst o a d => bodyVst o a d
  | .vlds x o a d => bodyVlds x o a d
  | .vsts x o a d => bodyVsts x o a d
  | .vldp o a d => bodyVldp o a d
  | .vldWindow w o a d => bodyVldWindow w o a d
  | .vgather c b a d => bodyVgather c b a d
  | .vscatter c b a d => bodyVscatter c b a d
  | .copyp a d => bodyCopyp a d
  | .tmma x a => bodyTmma x a
  | .tmmaSp q x a => bodyTmmaSp q x a
  | .tld x a => bodyTld x a
  | .tst x a => bodyTst x a
  | .tldb x a => bodyTldb x a
  | .tjoin a => bodyTjoin a
  | .twt a => bodyTwt a
  | .tstat a d => bodyTstat a d
  | .tzero => bodyTzero
  | _ => fun s => (s, .next)

/-- The registers that such an instruction writes; a VLDP two, also from an odd d (DESIGN CHOICE, log 67). -/
def engineWrites (i : Instr) : List RegId :=
  match i with
  | .vadd _ _ _ _ _ d => [vId d]
  | .vsub _ _ _ _ _ d => [vId d]
  | .vmul _ _ _ _ _ d => [vId d]
  | .vfma _ _ _ _ _ d => [vId d]
  | .vfms _ _ _ _ _ d => [vId d]
  | .vmin _ _ _ _ d => [vId d]
  | .vmax _ _ _ _ d => [vId d]
  | .vabs _ _ _ d => [vId d]
  | .vneg _ _ _ d => [vId d]
  | .vrcp _ _ _ d => [vId d]
  | .vrsq _ _ _ d => [vId d]
  | .vexp2 _ _ _ d => [vId d]
  | .viadd _ _ _ _ d => [vId d]
  | .visub _ _ _ _ d => [vId d]
  | .vimul _ _ _ _ d => [vId d]
  | .vimad _ _ _ _ d => [vId d]
  | .vimin _ _ _ _ d => [vId d]
  | .vimax _ _ _ _ d => [vId d]
  | .vand _ _ _ _ d => [vId d]
  | .vor _ _ _ _ d => [vId d]
  | .vxor _ _ _ _ d => [vId d]
  | .vsll _ _ _ _ d => [vId d]
  | .vsrl _ _ _ _ d => [vId d]
  | .vsra _ _ _ _ d => [vId d]
  | .viabs _ _ _ d => [vId d]
  | .vcmp _ _ _ _ _ d => [pId d]
  | .vsel _ _ _ d => [vId d]
  | .vperm _ _ _ d => [vId d]
  | .vrev _ _ d => [vId d]
  | .vslide _ _ _ _ d => [vId d]
  | .vzip _ _ _ d => [vId d]
  | .vunzip _ _ d => [vId d]
  | .vbcast _ _ d => [vId d]
  | .vext _ g _ => [gId g]
  | .vins _ _ d => [vId d]
  | .viota _ _ d => [vId d]
  | .vmix _ _ _ d => [vId d]
  | .vred _ _ _ _ d => [vId d]
  | .vscan _ _ _ _ d => [vId d]
  | .vdot _ _ _ _ _ d => [vId d]
  | .vcvt _ _ _ _ _ d => [vId d]
  | .vpack _ _ _ _ _ d => [vId d]
  | .vunpk _ _ _ _ d => [vId d]
  | .vbscale _ _ _ _ _ d => [vId d]
  | .vld _ _ d => [vId d]
  | .vlds _ _ _ d => [vId d]
  | .vldp _ _ d => [vId d, vId (d + 1)]
  | .vldWindow _ _ _ d => [vId d]
  | .vgather _ _ _ d => [vId d]
  | .copyp _ d => [gId d]
  | .tstat _ d => [gId d]
  | _ => []

/-! ### REP (R154, R155) -/

/-- Whether the word of four bytes at a holds `le` of a loop that governs. -/
def endsLoop (sl : Slot) (a : Word) : Bool :=
  [true, false].any fun k => governs sl k && (upTo 4).any fun j => (sl.loop k).le == a + BitVec.ofNat 64 j

/-- The window's words from a on, each fetched and checked in turn (DEDUCED, log 27). -/
def captureWindow (a : Word) : Nat → State → Except (State × Ending) (List (Instr × BitVec 32) × State)
  | 0, s => .ok ([], s)
  | n + 1, s =>
    match fetchWord s.cur a s with
    | .error e => .error e
    | .ok (bits, w, s) =>
      match decodeWord (BitVec.ofNat 32 w) with
      | .error _ => .error (s, .trap 0x01 a)
      | .ok f =>
        if bits != 32 || !repLegal f.i || endsLoop s.me a then .error (s, .trap 0x01 a)
        else match gateCause f.i s with
          | some c => .error (s, .trap c (BitVec.ofNat 64 w))
          | none => match captureWindow (a + 4) n s with
            | .error e => .error e
            | .ok (is, s) => .ok ((f.i, BitVec.ofNat 32 w) :: is, s)

/-- Every register that the replay writes; g0 and p0 never among them. -/
def replayWrites (window : List Instr) (reps mask step : Nat) : List RegId :=
  (((upTo reps).flatMap fun i => window.flatMap fun x => engineWrites (staggered mask (i * step) x)).filter fun r =>
    !(r.num == 0 && (r.file == 0 || r.file == 2))).eraseDups

/-- Whether another slot's replay holds the repetition buffer of the core of slot k (R12). -/
def bufferTaken (s : State) (k : Nat) : Bool :=
  (busySlots s (coreOf k)).any fun j => j != k && (s.slot j).replaying

/-- The effect of REP: the window captured and the replay on its way; the slot goes on behind the window (R157). It waits for the
core's one repetition buffer (R12) (DEDUCED, log 26). -/
def repBody (n r mask step : Nat) : Body := fun s =>
  match replayPoint s.me with
  | some e => (s, e)
  | none =>
  if bufferTaken s s.cur then (s, .wait .buffer) else
    let pc := s.me.pc
    match captureWindow (pc + 4) n s with
    | .error e => e
    | .ok (ws, s) =>
      let is := ws.map (·.1)
      let owed := replayWrites is r mask step
      let s := s.onMe fun sl =>
        let sl := owed.foldl Slot.claimReg sl
        let r : Replay :=
          { window := is, words := ws.map (·.2), reps := r, mask := mask, step := step, i := 0, j := 0, owed := owed, trap := none, ended := false,
            fault := none, xlat := [], prg := 0, phase := 0, keep := [], entered := 0, first := sl.traffic.nextId + 1, g := sl.g, v := sl.v, p := sl.p, x := sl.x }
        { sl with replay := some r, traffic := { sl.traffic with nextId := sl.traffic.nextId + 1 } }
      (s.post (evt .replayEnd s.cur 0 0), .after (pc + BitVec.ofNat 64 (4 * n + 4)))

/-- REP (R154). -/
def execRep (n : BitVec 4) (r : BitVec 6) (k : BitVec 3) (p : BitVec 5) (s : State) : Host.Outcome State Fault Refusal :=
  issue (.rep n r k p) (repBody (n.toNat + 1) (r.toNat + 1) k.toNat p.toNat) s

/-! ### The replay (R156 to R158) -/

/-- The slot as a replayed instruction sees it. -/
def Slot.enterReplay (sl : Slot) (r : Replay) : Slot :=
  { sl with g := r.g, v := r.v, p := r.p, x := r.x, phase := r.phase, keep := r.keep, entered := r.entered, sys := { sl.sys with prg := r.prg },
            traffic := { sl.traffic with xlat := r.xlat } }

/-- A value that a replayed instruction would bring later lands within the replay. -/
def Slot.landNow (sl : Slot) (q : Pending) : Slot :=
  match q.kind with
  | .value xs f | .timed xs f _ _ => (sl.raise f).deliver q.id xs
  | .loaded xs => sl.deliver q.id xs
  | _ => sl

/-- What the replay keeps of the slot after one instruction. -/
def Replay.keepFrom (r : Replay) (sl : Slot) : Replay :=
  { r with g := sl.g, v := sl.v, p := sl.p, x := sl.x, prg := sl.sys.prg, phase := sl.phase, keep := sl.keep, entered := sl.entered, xlat := sl.traffic.xlat }

/-- The slot after one replayed instruction: its own registers and outstanding results as they were. -/
def Slot.leaveReplay (old new : Slot) : Slot :=
  { new with g := old.g, v := old.v, p := old.p, x := old.x, phase := old.phase, keep := old.keep, entered := old.entered, pend := old.pend,
             replay := old.replay, run := old.run, sys := { new.sys with prg := old.sys.prg },
             traffic := { new.traffic with xlat := old.traffic.xlat } }

/-- The walk for a page that a replayed access needs (R158): its result, or the page whose fault is waited for. -/
def replayWalk (k va kind : Nat) (r : Replay) (s : State) : Replay × State :=
  let ctx := (s.slot k).bind.ctx
  let page := va / 8192
  let miss := fun (kd : Nat) (s : State) =>
    let (room, s) := joinMiss (clusterOf (octetOf (coreOf k))) ctx va (coreOf k) kd s
    (if room then { r with fault := some page } else r, s)
  let got := fun (x : WalkRes) (s : State) => ({ r with xlat := r.xlat ++ [⟨page, x⟩] }, s)
  let (e, s) := walk ctx va s
  match e with
  | .unmapped _ => miss (faultKind (accOf kind)) s
  | .format => got .format s
  | .leaf e bits =>
    let t := tlbOf ctx va e bits
    match pteSt e with
    | 0 => got (.ok (frameOf e bits va) t.u t.x t.w t.r) (tlbFill (octetOf (coreOf k)) t s)
    | 1 => got (.migrating (frameOf e bits va) t.u t.x t.w t.r) s
    | _ =>
      if allowed (accOf kind) (s.slot k).sv t.u t.x t.w t.r then miss 3 s
      else got (.ok (frameOf e bits va) t.u t.x t.w t.r) s

/-- How one replayed instruction ended. -/
inductive ReplayStep where
  | on
  | again
  | stop (f : Fault)
  deriving DecidableEq, Repr

/-- Whether an access of the slot that issued before the REP is not yet performed, so that the replay's own accesses wait (R201, R203, R218)
(DEDUCED, log 26). A release's message that issued later waits for the replay, not the replay for it. -/
def replayBehind (r : Replay) (sl : Slot) : Bool :=
  (sl.pend.any fun p => p.id < r.first && isAccess p) ||
    sl.traffic.out.any fun o => match o with
      | .rel id | .send id _ | .red id _ | .stl id _ => decide (id < r.first)
      | .flush _ _ => true
      | .store _ => false

/-- What comes before a replayed instruction's effect: a rounding mode that the driver has not accepted (R63), or in deterministic mode a
register that an earlier result owes (R120). -/
def replayGate (i : Instr) (word : BitVec 32) (r : Replay) (s : State) (sl : Slot) : Option (Nat × Word) :=
  let late := (sl.pend.filter fun p => p.id < r.first).flatMap (·.regs)
  match gateCause i s with
  | some c => some (c, zext64 word)
  | none => (if sl.det then (regsRead i).find? late.contains else none).map fun h => (0x12, BitVec.ofNat 64 (h.file * 32 + h.num))

/-- The messages of releases that wait for the replay and are then entries of a commit buffer (R157, R374). -/
def sendsDue (r : Replay) (k : Nat) (s : State) : List (Nat × EntryAct) :=
  if buffered s k then (s.slot k).traffic.out.filterMap fun o => match o with
    | .send id m => if r.first ≤ id && m.ev == .weightArrival then some (0, .msg m false id) else none
    | _ => none
  else []

/-- They enter once the replay's instructions are performed. -/
def enterSends (r : Replay) : Body := fun s =>
  match enter s.cur (sendsDue r s.cur s) s with
  | .error e => e
  | .ok s => (s.onMe fun sl => { sl with traffic := { sl.traffic with out := sl.traffic.out.filter fun o => match o with
      | .send id m => !(r.first ≤ id && m.ev == .weightArrival)
      | _ => true } }, .next)

/-- The replay's instructions are over, with a trap or without: it ends, unless messages have to enter first. -/
def Replay.over (r : Replay) (k : Nat) (s : State) (t : Option (Nat × Word)) : Replay :=
  { r with i := r.reps, j := 0, trap := t, ended := (sendsDue r k s).isEmpty }

/-- The next instruction of the replay (DEDUCED, log 26). -/
def replayOne (k : Nat) (r : Replay) (s : State) : Replay × State × ReplayStep :=
  let old := s.slot k
  let done := decide (r.reps ≤ r.i)
  let i := staggered r.mask (r.i * r.step) (r.window.getD r.j .tzero)
  match (if done then none else replayGate i (r.words.getD r.j 0) r s old) with
  | some t => (r.over k s (some t), s, .on)
  | none =>
    if !done && touchesMemory i && replayBehind r old then (r, s, .again) else
    let (s, e) := (if done then enterSends r else engineBody i) (s.setSlot k (old.enterReplay r))
    let new := ((s.slot k).pend.filter fun p => old.traffic.nextId ≤ p.id).foldl Slot.landNow (s.slot k)
    let r := r.keepFrom new
    let s := s.setSlot k (old.leaveReplay new)
    match e with
    | .trap c v => (r.over k s (some (c, v)), s, .on)
    | .bad pa => (r.over k s (some (0x1e, BitVec.ofNat 64 pa)), s, .on)
    | .stop f => (r, s, .stop f)
    | .wait (.fault page) => ({ r with fault := some page }, s, .again)
    | .wait (.walk _) =>
      match s.inflight.getLast? with
      | some (_, m) =>
        let (r, s) := replayWalk k m.arg.a m.arg.b r { s with inflight := s.inflight.dropLast }
        (r, s, .again)
      | none => (r, s, .again)
    | .wait _ => (r, s, .again)
    | _ =>
      let r : Replay := { r with xlat := [], prg := 0, phase := 0, keep := [], entered := 0 }
      if done then ({ r with ended := true }, s, .on)
      else if r.j + 1 < r.window.length then ({ r with j := r.j + 1 }, s, .on)
      else if r.i + 1 < r.reps then ({ r with j := 0, i := r.i + 1 }, s, .on)
      else (r.over k s none, s, .on)

/-- At most n more instructions of the replay. -/
def replayRun (k : Nat) : Nat → Replay → State → Replay × State × ReplayStep
  | 0, r, s => (r, s, .on)
  | n + 1, r, s =>
    if r.ended then (r, s, .on)
    else match replayOne k r s with
      | (r, s, .on) => replayRun k n r s
      | x => x

/-- The registers that the replay still owes take their values (R119). -/
def mergeReplay (r : Replay) (owed : List RegId) (sl : Slot) : Slot :=
  owed.foldl (fun sl i => match i.file with
    | 0 => sl.put (.g i.num (vget r.g i.num 0#64))
    | 1 => sl.put (.v i.num (vget r.v i.num vzero))
    | _ => sl.put (.p i.num (vget r.p i.num 0#16))) sl

/-- What the slot's replay still owes. -/
def Slot.replayOwed (sl : Slot) : List RegId :=
  match sl.replay with
  | some r => r.owed
  | none => []

/-- The replay of a slot has ended: a trap of it stays until the slot's first point that waits for the replay (R158). -/
def endReplay (r : Replay) (sl : Slot) : Slot :=
  { mergeReplay r sl.replayOwed sl with replay := if r.trap.isSome then some { r with owed := sl.replayOwed } else none }

/-- REPLAY_END (R156, R158): the replay of slot arg.k performs its instructions, and ends if none of them has to wait. -/
def execReplayEnd (s : State) : Host.Outcome State Fault Refusal :=
  let k := s.arg.k
  let again := fun (s : State) => s.post (evt .replayEnd k 0 0)
  match (s.slot k).replay with
  | none => .next s
  | some r =>
    if r.ended then .next s
    else if r.fault.isSome then .next (again s)
    else
      let (cur, mark) := (s.cur, s.mark)
      let (r, s, e) := replayRun k (r.window.length * r.reps + 1) r { s with cur := k, mark := false }
      let s := { s with cur := cur, mark := mark }
      match e with
      | .stop f => .fault f
      | _ =>
        if r.ended then .next (settleOut k (s.onSlot k (endReplay r)))
        else .next (again (s.onSlot k fun sl => { sl with replay := some { r with owed := sl.replayOwed } }))

end Sys2Proof.Machine
end

