-- ==== Sys2Proof/Machine/Work.lean ====
section
/-! DEFINITION. Tasks, run lists, deques and overflow rings (05_slot R98 to R101, R489; 23_queue R416 to R419). -/

namespace Sys2Proof.Machine

/-! ### Task records (R98) -/

/-- Doubleword i of a record. -/
def recWord (bs : List (BitVec 8)) (i : Nat) : Word := BitVec.ofNat 64 (ofBytesLE ((bs.drop (8 * i)).take 8))

/-- HOME, PRIO, CTR and CREF, from bytes 48 to 63 of a record. -/
def recHome (bs : List (BitVec 8)) : Nat := slice (recWord bs 0) 15 0
def recPrio (bs : List (BitVec 8)) : Nat := slice (recWord bs 1) 1 0
def recCtr (bs : List (BitVec 8)) : Bool := (recWord bs 1).getLsbD 8
def recCref (bs : List (BitVec 8)) : Nat := slice (recWord bs 1) 31 16
/-- Whether CREF is one that R419 allows. -/
def crefOk (c : Nat) : Bool := c % 4 = 0 && c ≤ 0x3fc

/-- Where a core's counter lies, and its COUNT (R419). -/
def ctrOff (cref : Nat) : Nat := 0x7d000 + 4 * cref
def ctrCount (s : State) (home cref : Nat) : Nat := arrNat s home (ctrOff cref) 8 % 2 ^ 32

/-- n bytes of a context's memory as slot k would load them: behind its group's commit buffer where it has one (R236), after
the stores of its own core (R218). -/
def pageBytes (k ctx a n : Nat) (s : State) : Option (List (BitVec 8)) × State :=
  let (r, s) := ctxXlat (clusterOf (octetOf (coreOf k))) false ctx a s
  match r with
  | none => (none, s)
  | some pa =>
    match (if buffered s k && (s.slot k).bind.ctx = ctx then groupOf s k else none) with
    | some g => let (bs, s) := bytesBy (fun w s => bufferedRead g g.next (coreOf k) (s.core (coreOf k)).predict w s) pa n s; (some bs, s)
    | none =>
      let s := (upTo ((n + 3) / 4)).foldl (fun s j => registerOwn (coreOf k) (pa / 4 + j) s) s
      let (bs, s) := homeBytes pa n s
      (some bs, s)

/-- n bytes at an address in the local or a peer window of core c (R216); none elsewhere. -/
def windowBytes (s : State) (c a n : Nat) : Option (List (BitVec 8)) :=
  match regionOf s c a with
  | .scratch | .system => some (arrBytes s c (a - localBase) n)
  | .peer i => some (arrBytes s (c / 8 * 8 + i) ((a - peerBase) % 0x80000) n)
  | _ => none

/-- n bytes of a record as slot k would load them (R420) (DEDUCED, log 41). -/
def slotBytes (k ctx a n : Nat) (s : State) : Option (List (BitVec 8)) × State :=
  match windowBytes s (coreOf k) a n with
  | some bs => (some bs, s)
  | none => pageBytes k ctx a n s

/-- Whether the C9 already waits for a page of a context on behalf of a core. -/
def pageAwaited (s : State) (c ctx a : Nat) : Bool := (missFind s (clusterOf (octetOf c)) ctx (a / 8192)).isSome

/-- A page that the C9 needs at core c is not mapped: a fault record is posted. -/
def coreFault (c ctx a : Nat) (store : Bool) (s : State) : State := ctxFault (clusterOf (octetOf c)) ctx a c store s

/-! ### Run lists, deques and rings (R416, R418) -/

/-- Whether slots of a context take new work (R430, R433). -/
def ctxOpen (s : State) (ctx : Nat) : Bool :=
  match tfind s.ctxs ctx with
  | some c => (c.st = 2 || c.st = 3) && !c.prq
  | none => false

/-- The base of a context's overflow ring and how many entries it holds. -/
def ovfBase (s : State) (ctx : Nat) : Nat := slice (ctxWord s ctx 3) 63 6 * 64
def ovfSize (s : State) (ctx : Nat) : Nat := if slice (ctxWord s ctx 3) 5 0 = 0 then 0 else 2 ^ slice (ctxWord s ctx 3) 5 0

/-- What became of an entry on its way to a list. -/
inductive Pushed where
  | done
  | full
  deriving DecidableEq, Repr

/-- The first place of a ring, from n on, that no entry takes. -/
def freePlace (es : List RingEntry) (size : Nat) (n : Nat) : Nat :=
  ((upTo es.length.succ).find? fun i => !(es.any fun e => e.place == (n + i) % size)).elim (n % size) fun i => (n + i) % size

/-- An entry appended to the overflow ring of its context (R418); the page of its place being unmapped, the core holds it. -/
def spill (c : Nat) (x : Spill) (s : State) : Pushed × State :=
  let size := ovfSize s x.ctx
  match tfind s.ctxs x.ctx with
  | none => (.done, s)
  | some cx =>
    if (s.core c).holding.isSome then (.full, s)
    else if size = 0 then (.full, contextFault x.ctx 0x1a c (BitVec.ofNat 64 (ovfBase s x.ctx)) 0 s)
    else if size ≤ cx.ring.length then (.full, s)
    else
      let n := freePlace cx.ring size cx.ringNext
      let a := ovfBase s x.ctx + 16 * n
      let (ok, s) := ctxPut (clusterOf (octetOf c)) x.ctx a (bytesLE 8 x.record.toNat ++ bytesLE 8 (x.level * 2 ^ 18 + x.kind * 2 ^ 16 + c)) s
      if ok then
        (.done, s.onCtx x.ctx fun y => { y with ring := y.ring ++ [⟨n, c, x.kind, x.level, x.since⟩], ringNext := (n + 1) % size })
      else (.done, coreFault c x.ctx a true ((s.onCore c fun y => { y with holding := some x }).post (evt .overflowRingRefill c 0 0)))

/-- Whether a core takes entries of a context's ring back: not while the context is Saving or Saved (R438). -/
def ringServed (x : Ctx) : Bool := x.st != 5 && x.st != 6

/-- Whether some context's ring holds an entry of a kind that a core takes back. -/
def ringHas (s : State) (c kind : Nat) : Bool := s.ctxs.any fun e => ringServed e.2 && e.2.ring.any fun r => r.core == c && r.kind == kind

/-- A record enqueued on the run list of a core at a priority (R416, R418). -/
def enqueue (c ctx : Nat) (record : Word) (prio : Nat) (s : State) : Pushed × State :=
  if (s.core c).runList.length < 64 then
    (.done, s.onCore c fun x => { x with runList := x.runList ++ [⟨prio, record, ctx, x.cyc.toNat⟩] })
  else spill c ⟨record, ctx, 1, prio, (s.core c).cyc.toNat⟩ s

/-- A record pushed on the bottom of a core's deque; a full one gives its top entry to the ring (R418). -/
def pushDeque (c ctx : Nat) (record : Word) (s : State) : Pushed × State :=
  let put := fun (s : State) => s.onCore c fun x => { x with deque := x.deque ++ [⟨record, ctx, x.cyc.toNat⟩] }
  match (s.core c).deque with
    | [] => (.done, put s)
    | t :: ts =>
      if (t :: ts).length < 64 then (.done, put s)
      else match spill c ⟨t.record, t.ctx, 0, 0, t.since⟩ s with
        | (.done, s) => (.done, put (s.onCore c fun x => { x with deque := ts }))
        | r => r

/-- Whether a push on the deque or the run list of the core of slot k has room (R418). -/
def pushRoom (s : State) (k : Nat) (deque : Bool) : Bool :=
  let x := s.core (coreOf k)
  (if deque then decide (x.deque.length < 64) else decide (x.runList.length < 64)) ||
    (x.holding.isNone && match tfind s.ctxs (s.slot k).bind.ctx with
      | some cx => decide (cx.ring.length < ovfSize s (s.slot k).bind.ctx) || ovfSize s (s.slot k).bind.ctx == 0
      | none => true)

/-- The entries of a kind that a core has in the rings, with their contexts. -/
def ringEntries (s : State) (c kind : Nat) : List (Nat × RingEntry) :=
  (s.ctxs.filter fun e => ringServed e.2).flatMap fun e =>
    (e.2.ring.filter fun r => r.core == c && r.kind == kind).map fun r => (e.1, r)

/-- The oldest of them. -/
def ringOldest (s : State) (c kind : Nat) : Option (Nat × RingEntry) :=
  (ringEntries s c kind).foldl (fun m x => match m with
    | none => some x
    | some y => if x.2.since < y.2.since then some x else some y) none

/-- An entry put into a run list, or a deque, in the order of age. -/
def insertRun (x : RunEntry) : List RunEntry → List RunEntry
  | [] => [x]
  | y :: t => if x.since < y.since then x :: y :: t else y :: insertRun x t

def insertDeque (x : DequeEntry) : List DequeEntry → List DequeEntry
  | [] => [x]
  | y :: t => if x.since ≤ y.since then x :: y :: t else y :: insertDeque x t

/-- An entry taken out of its ring with its record; none while the page is unmapped. -/
def takeRing (ctx : Nat) (r : RingEntry) (s : State) : Option Word × State :=
  let a := ovfBase s ctx + 16 * r.place
  let (x, s) := ctxNat (clusterOf (octetOf r.core)) ctx a 8 s
  match x with
  | some n => (some (BitVec.ofNat 64 n), s.onCtx ctx fun y => { y with ring := y.ring.erase r })
  | none => (none, coreFault r.core ctx a false s)

/-- OVERFLOW_RING_REFILL (R418): core arg.k writes what it holds, and takes its oldest entries back while it has room; they
keep their age (DEDUCED, log 44). -/
def refill (c : Nat) (s : State) : State :=
  let s := match (s.core c).holding with
    | some x =>
      match spill c x (s.onCore c fun y => { y with holding := none }) with
      | (.done, s) => s
      | (.full, s) => (s.onCore c fun y => { y with holding := some x }).post (evt .overflowRingRefill c 0 0)
    | none => s
  let s := match (if (s.core c).runList.length < 64 then ringOldest s c 1 else none) with
    | some (ctx, r) => match takeRing ctx r s with
      | (some w, s) => (s.onCore c fun x =>
          { x with runList := insertRun ⟨r.level, w, ctx, r.since⟩ x.runList }).post (evt .overflowRingRefill c 0 0)
      | (none, s) => s.post (evt .overflowRingRefill c 0 0)
    | none => s
  match (if (s.core c).deque.length < 64 then ringOldest s c 0 else none) with
  | some (ctx, r) => match takeRing ctx r s with
    | (some w, s) => (s.onCore c fun x => { x with deque := insertDeque ⟨w, ctx, r.since⟩ x.deque }).post (evt .overflowRingRefill c 0 0)
    | (none, s) => s.post (evt .overflowRingRefill c 0 0)
  | none => s

/-- OVERFLOW_RING_REFILL (R418). -/
def execOverflowRingRefill (s : State) : Host.Outcome State Fault Refusal := event (refill s.arg.k) s

/-- Room has been made on a core that has entries in a ring. -/
def roomMade (c : Nat) (s : State) : State :=
  if ringHas s c 0 || ringHas s c 1 then s.post (evt .overflowRingRefill c 0 0) else s

/-- RUN_LIST_AGING (R416): entries of core arg.k that have waited 65,536 cycles move up one level. -/
def aged (x : Core) (e : RunEntry) : Bool := e.level < 3 && 65536 ≤ x.cyc.toNat - e.since

def execRunListAging (s : State) : Host.Outcome State Fault Refusal :=
  event (fun s => s.onCore s.arg.k fun x =>
    { x with runList := (x.runList.filter fun e => !aged x e) ++
        (x.runList.filter (aged x)).map fun e => { e with level := e.level + 1, since := x.cyc.toNat } }) s

/-! ### Ending and starting a task (R99, R100, R116 to R118, R416) -/

/-- A group may have all its work done: GROUP_RETIRE looks. -/
def pokeGroup (gk : Nat) (s : State) : State := s.post (evt .groupRetire gk 0 0)

/-- A slot that holds no task any more. -/
def Slot.free (sl : Slot) : Slot :=
  { sl with run := .free, phase := 0, keep := [], entered := 0, fresh := false, replay := none,
            bind := { sl.bind with owner := none }, traffic := { sl.traffic with xlat := [] } }

/-- A slot holds no task any more: the group to which it is bound may have all its work done. -/
def freeSlot (k : Nat) (s : State) : State :=
  let b := (s.slot k).bind
  let s := s.onSlot k Slot.free
  if b.bound && b.owner != some b.group then pokeGroup b.group s else s

/-- The task of a slot ends (DEDUCED, log 31). -/
def endTask (k : Nat) (s : State) : State :=
  let s' := freeSlot k s
  match (s.slot k).bind.owner with
  | some g => pokeGroup g (s'.onGroup g fun x => { x with live := x.live - 1 })
  | none => s'

/-- The task of a slot is suspended under its record. -/
def suspendTask (k : Nat) (s : State) : State :=
  let s' := freeSlot k s
  match (s.slot k).bind.owner with
  | some g => s'.onGroup g fun x => { x with susp := x.susp ++ [(s.slot k).sys.trec] }
  | none => s'

/-- A pushing slot whose entry has been taken, and whose core holds one that the ring has no mapped page for (R418). -/
def listedPhase : Nat := 7

/-- The task of slot k is on a list already; the slot itself parks for its core's holding register. -/
def listTask (k : Nat) (s : State) : State :=
  let s' := s.onSlot k fun sl => { sl with phase := listedPhase, keep := [], bind := { sl.bind with owner := none } }
  match (s.slot k).bind.owner with
  | some g => s'.onGroup g fun x => { x with susp := x.susp ++ [(s.slot k).sys.trec] }
  | none => s'

/-- The registers that the start of a task in the cycle `now` clears (R99). -/
def Slot.startRegs (sl : Slot) (now : Nat) : Slot :=
  { sl with g := Vector.replicate 32 0, v := Vector.replicate 16 vzero, p := Vector.replicate 8 0, x := Vector.replicate 8 0,
            pend := sl.pend.map fun p => { p with regs := [] }, run := .running, phase := 0, keep := [], entered := 0, steal := 0,
            fresh := false, replay := none, traffic := { sl.traffic with xlat := [], since := now },
            sys := { sl.sys with prg := 0, st := setSlice sl.sys.st 9 0 0,
                                 loop0 := { sl.sys.loop0 with lc := 0 }, loop1 := { sl.sys.loop1 with lc := 0 } } }

/-- The registers of R100 cleared. -/
def Slot.bindRegs (sl : Slot) (rnk : Word) : Slot :=
  sl.onSys fun y => { y with cause := 0, epc := 0, tval := 0, tvec := 0, escr := 0, tmr := 0, tmrc := 0, pto := 0, rnc := 0,
                             mode := setSlice y.mode 2 0 0, cp := CopyRegs.reset, rnk := rnk }

/-- A slot bound to no group runs a record of a context: R100's registers are zero, and it has neither rights nor order of
a kernel (R416) (DEDUCED, log 31). -/
def Slot.unbind (sl : Slot) (ctx : Nat) : Slot :=
  let sl := sl.bindRegs 0
  { sl with bind := { Binding.reset with ctx := ctx }, sys := { sl.sys with st := setSlice sl.sys.st 11 10 0 }, tmrPend := false }

/-- The octet of a slot relative to its kernel's origin, as `coord` gives it (R106): that of the place of the group to which the slot is
bound, also for a task of another group, and 0, 0 without one (DESIGN CHOICE, log 67). -/
def coordXY (s : State) (k : Nat) : Nat × Nat :=
  match groupOf s k with
  | some g => match tfind s.kernels g.kernel with
    | some kn => (octetX g.octet - kn.ox, octetY g.octet - kn.oy)
    | none => (0, 0)
  | none => (0, 0)

/-- `coord` from TASK, GROUP, STAGE and a place. -/
def coordWord (task group stage : Nat) (xy : Nat × Nat) : Word :=
  BitVec.ofNat 64 (task % 2 ^ 16 + group % 2 ^ 16 * 2 ^ 16 + xy.1 % 2 ^ 8 * 2 ^ 32 + xy.2 % 2 ^ 8 * 2 ^ 40 + stage % 2 ^ 4 * 2 ^ 48)

/-- The group of a context whose suspended task a record is. -/
def suspGroup (s : State) (ctx : Nat) (record : Word) : Option Nat :=
  (s.groups.find? fun e => e.2.susp.contains record &&
    (match tfind s.kernels e.2.kernel with
      | some k => k.ctx == ctx
      | none => false)).map (·.1)

/-- TASK_START clears ARM of the counter that the record owns at a core of the context's partition (R419). -/
def disarm (ctx : Nat) (bs : List (BitVec 8)) (s : State) : State :=
  let q := bs.drop 48
  if recCtr q && crefOk (recCref q) && (partitionCores s ctx).contains (recHome q) then
    let off := 0x7d000 + 4 * recCref q
    arrPutNat (recHome q) off 8 (arrNat s (recHome q) off 8 % 2 ^ 63) s
  else s

/-- A task starts from the 64 bytes of a record (R99, R416). PC bit 0 "must be 0" (R98): a record that has it set starts at the address
without it (DESIGN CHOICE, log 41). -/
def startWith (k ctx : Nat) (record : Word) (bs : List (BitVec 8)) (s : State) : State :=
  let keepBind := (s.slot k).bind.bound && (s.slot k).bind.ctx = ctx
  let s := if keepBind then s else s.onSlot k (·.unbind ctx)
  let owner := suspGroup s ctx record
  let s := match owner with
    | some g => s.onGroup g fun x => { x with susp := x.susp.erase record }
    | none => s
  let xy := coordXY s k
  let w := fun (i : Nat) => recWord bs i
  let s := s.onSlot k fun sl =>
    let sl := sl.startRegs s.mcyc
    let g := vset (vset (vset (vset (vset sl.g 2 (w 1)) 4 (w 2)) 5 (w 3)) 6 (w 4)) 7 (w 5)
    { sl with g := g, pc := setBit (w 0) 0 false, bind := { sl.bind with owner := owner },
              sys := { sl.sys with trec := record, coord := coordWord (slice (w 6) 47 32) (slice (w 6) 31 16) (slice (w 7) 5 2) xy } }
  l1Acquire (coreOf k) (disarm ctx bs s)

/-- A task starts from a record, if its page is mapped. -/
def startRecord (k ctx : Nat) (record : Word) (s : State) : Bool × State :=
  let (r, s) := slotBytes k ctx record.toNat 64 s
  match r with
  | some bs => (true, startWith k ctx record bs s)
  | none => (false, coreFault (coreOf k) ctx record.toNat false s)

/-- Whether a slot that is bound to a group may take the work of others: its own context takes work (R433). -/
def slotOpen (s : State) (k : Nat) : Bool := !(s.slot k).bind.bound || ctxOpen s (s.slot k).bind.ctx

/-- The run-list entry that a slot takes: the oldest of the highest level whose context takes work (R416). -/
def nextEntry (s : State) (k : Nat) : Option RunEntry :=
  let c := coreOf k
  let ok := fun (e : RunEntry) => ctxOpen s e.ctx && !pageAwaited s c e.ctx e.record.toNat
  if slotOpen s k then [3, 2, 1, 0].findSome? fun l => (s.core c).runList.find? fun e => e.level == l && ok e
  else none

/-- The group and task that dispatch has waiting for a slot (R414). -/
def nextBound (s : State) (k : Nat) : Option (Nat × Nat) :=
  s.groups.findSome? fun e =>
    match (e.2.toStart.find? fun i => e.2.slots[i]? == some k), tfind s.kernels e.2.kernel with
    | some i, some kn =>
      if ctxOpen s kn.ctx && (e.2.st == .placed || e.2.st == .running || e.2.st == .current) then some (e.1, i) else none
    | _, _ => none

/-- The window table of a kernel set in a slot (R398). -/
def setWindows (kn : Kernel) (sl : Slot) : Slot := sl.onSys fun y => { y with wb := kn.wb, wl := kn.wl }

/-- Whether a kernel's rectangle touches more than one die (R77). -/
def manyDies (kn : Kernel) : Bool := kn.ox / 16 != (kn.ox + kn.w - 1) / 16 || kn.oy / 8 != (kn.oy + kn.h - 1) / 8

/-- A slot bound to a group, before its first task start for it (R100, R394). -/
def bindSlot (gk : Nat) (g : Group) (kn : Kernel) (index k : Nat) (s : State) : State :=
  s.onSlot k fun sl =>
    let sl := setWindows kn (sl.bindRegs (mix64 (BitVec.ofNat 64 index) (BitVec.ofNat 64 g.ticket)))
    let st := setBit (setBit sl.sys.st stSV kn.sv) stDET kn.det
    { sl with bind := ⟨kn.ctx, g.kernel, gk, index, true, none⟩, tmrPend := false,
              traffic := { sl.traffic with seq := 0 },
              sys := { sl.sys with st := st, mode := setBit sl.sys.mode 3 (kn.np && !manyDies kn) } }

/-- Task i of a group starts in its slot (R414). -/
def startBound (gk i k : Nat) (s : State) : State :=
  match tfind s.groups gk with
  | none => s
  | some g => match tfind s.kernels g.kernel with
    | none => s
    | some kn =>
      let s := bindSlot gk g kn i k s
      let xy := (octetX g.octet - kn.ox, octetY g.octet - kn.oy)
      let stage := if kn.stages = 0 then 0 else g.index % kn.stages
      let s := s.onSlot k fun sl =>
        let sl := sl.startRegs s.mcyc
        { sl with pc := BitVec.ofNat 64 (kn.entries.getD stage 0), bind := { sl.bind with owner := some gk },
                  sys := { sl.sys with trec := 0, coord := coordWord i g.index stage xy } }
      let s := s.onGroup gk fun x => { x with toStart := x.toStart.erase i, st := if x.st = .placed then .running else x.st }
      l1Acquire (coreOf k) (pokeGroup gk s)

/-- Whether the slot, Free after a TPICK, first looks at the deque (R423). -/
def picking (sl : Slot) : Bool := sl.phase = 5

/-- Whether a Free slot has work to take, or must look for it. -/
def hasWork (s : State) (k : Nat) : Bool :=
  (s.slot k).run == .free && !(s.core (coreOf k)).stopped &&
    (picking (s.slot k) || (nextEntry s k).isSome || (nextBound s k).isSome)

/-- The work that a slot takes for itself as its task ends or stops: in a deterministic kernel the next of its fixed list (R118, R358),
else the first ready task of its core's run list (R116 to R118, R416). -/
def takeListed (k : Nat) (s : State) : State :=
  let c := coreOf k
  match (if (s.slot k).det && (s.slot k).bind.bound then nextBound s k else none) with
  | some (g, i) => startBound g i k s
  | none => match nextEntry s k with
    | some e => match startRecord k e.ctx e.record s with
      | (true, s) => roomMade c (s.onCore c fun x => { x with runList := x.runList.erase e })
      | (false, s) => s
    | none => s

/-- A slot whose task has ended or stopped takes its next one, unless its context is asked to stop: then it is Free (R433). -/
def takeNext (k : Nat) (s : State) : State := if ctxOpen s (s.slot k).bind.ctx then takeListed k s else s

/-- TASK_START of a slot: the deque for TPICK, the run list, then what dispatch has waiting (R416). -/
def takeWork (k : Nat) (s : State) : State :=
  let c := coreOf k
  if (s.slot k).run != .free || (s.core c).stopped then s
  else
    let pick := picking (s.slot k)
    let s := s.onSlot k fun sl => { sl with phase := 0 }
    match (if pick then (s.core c).deque.getLast? else none) with
    | some e =>
      if !ctxOpen s e.ctx || !slotOpen s k then s
      else match startRecord k e.ctx e.record s with
        | (true, s) => roomMade c (s.onCore c fun x => { x with deque := x.deque.dropLast })
        | (false, s) => s.onSlot k fun sl => { sl with phase := 5 }
    | none =>
      let s := takeListed k s
      if (s.slot k).run != .free || (nextEntry s k).isSome then s
      else match nextBound s k with
        | some (g, i) => startBound g i k s
        | none => s

/-- TASK_START (R99): arg.k the slot. -/
def execTaskStart (s : State) : Host.Outcome State Fault Refusal := event (takeWork s.arg.k) s

/-! ### Writing a task record (R101, R429, R489) -/

/-- A record taken from the pool of a context: its address, or the context faults. -/
def poolRecord (k : Nat) (s : State) : Option Word × State :=
  let ctx := (s.slot k).bind.ctx
  let (x, s) := descGet ctx 48 s
  let (next, n) := (x / 2 ^ 32, x % 2 ^ 32)
  let base := slice (ctxWord s ctx 5) 63 6 * 64
  if next = n then (none, contextFault ctx 0x1a (coreOf k) (BitVec.ofNat 64 base) (s.slot k).pc s)
  else (some (BitVec.ofNat 64 (base + 64 * next)), descPut ctx 52 4 (next + 1) s)

/-- The first 48 bytes of a slot's record, and the last 16 of one from the pool. -/
def recordHead (sl : Slot) (pc : Word) : List (BitVec 8) :=
  [pc, sl.rg 2, sl.rg 4, sl.rg 5, sl.rg 6, sl.rg 7].flatMap fun w => bytesLE 8 w.toNat

def recordTail (s : State) (k : Nat) : List (BitVec 8) :=
  let sl := s.slot k
  let prio := match tfind s.kernels sl.bind.kernel with
    | some kn => if sl.bind.bound then kn.prio else 0
    | none => 0
  bytesLE 8 (slice sl.sys.coord 15 0 * 2 ^ 32 + slice sl.sys.coord 31 16 * 2 ^ 16 + coreOf k) ++
    bytesLE 8 (slice sl.sys.coord 51 48 * 4 + prio)

/-- The slot's record written with a pc, as a store of the slot; `trec` 0 takes a record from the pool first. -/
def writeRecord (pc : Word) (s : State) : Except (State × Ending) State :=
  let k := s.cur
  let write := fun (s : State) =>
    let sl := s.slot k
    let bs := recordHead sl pc ++ (if sl.fresh then recordTail s k else [])
    match storeFor k false 64 [⟨sl.sys.trec.toNat, bs⟩] s with
    | .error e => .error e
    | .ok s => .ok (s.onSlot k fun sl => { sl with fresh := false })
  if s.me.sys.trec != 0#64 then write s
  else match poolRecord k s with
    | (some a, s) => write (s.onSlot k fun sl => { sl with fresh := true, sys := { sl.sys with trec := a } })
    | (none, s) => .error (s, .gone)

/-- The mask of a slot's Full ports. -/
def fullMask (sl : Slot) : Nat := (upTo 8).foldl (fun m p => if (vget sl.ports p Port.reset).full then m + 2 ^ p else m) 0

/-- The first register that a record takes its fields from whose result is outstanding, in deterministic mode (R120). -/
def recordHazard (sl : Slot) : Option RegId :=
  if sl.det then ([2, 4, 5, 6, 7].map fun n => (⟨0, n⟩ : RegId)).find? fun r => sl.owed.contains r else none

/-- What comes before a suspension point's own effect: the replay (R158), the registers that go into the record (R120), and the ports
(R101). -/
def suspendPoint (s : State) : Option Ending :=
  match replayPoint s.me with
  | some e => some e
  | none => match recordHazard s.me with
    | some r => some (.trap 0x12 (BitVec.ofNat 64 (r.file * 32 + r.num)))
    | none => if fullMask s.me = 0 then none else some (.trap 0x17 (BitVec.ofNat 64 (fullMask s.me)))

/-- Bytes 48 to 63 of the record that a slot suspends under: none while their page is not mapped. -/
def ownTail (k : Nat) (s : State) : Option (List (BitVec 8)) × State :=
  slotBytes k (s.slot k).bind.ctx ((s.slot k).sys.trec.toNat + 48) 16 s

/-- An instruction that has had some of its effect, and now needs a page that is not mapped, parks on the page's fault and goes on from
there; a fault that fails faults the context (R40) (DEDUCED, log 41). -/
def parkOnPage (va : Nat) : Body := fun s =>
  let k := s.cur
  if s.me.traffic.xlat.any fun x => x.page == va / 8192 && x.res == .failed then
    (contextFault s.myCtx 0x0b (coreOf k) (BitVec.ofNat 64 va) s.me.pc s, .gone)
  else
    let (room, s) := joinMiss (clusterOf (octetOf (coreOf k))) s.myCtx va (coreOf k) 0 s
    (s, .wait (if room then .fault (va / 8192) else .missFull))

/-- What follows the writing of the slot's record and needs its bytes 48 to 63. -/
def withTail (f : List (BitVec 8) → Body) : Body := fun s =>
  match ownTail s.cur s with
  | (some q, s) => f q s
  | (none, s) => parkOnPage (s.me.sys.trec.toNat + 48) s

end Sys2Proof.Machine
end

