-- ==== Sys2Proof/Machine/System.lean ====
section
/-! DEFINITION. Special registers, the system instructions of major 0x1e and traps at their entry (05_slot R102 to R118). -/

namespace Sys2Proof.Machine

/-! ### Special registers (R102) -/

/-- An octet's copy of the frontier of an instance (R338). -/
def octetF (s : State) (o inst : Nat) : Nat := tget (s.octet o).f inst 0

/-- `tkt` and `tkf` of a slot (R339). -/
def tktWord (s : State) (k : Nat) : Word :=
  match groupOf s k with
  | some g => match tfind s.kernels g.kernel with
    | some kn => BitVec.ofNat 64 (kn.scope * 2 ^ 36 + g.ticket)
    | none => 0
  | none => 0

def tkfWord (s : State) (k : Nat) : Word :=
  match groupOf s k with
  | some g =>
    let f := octetF s (octetOf (coreOf k)) g.inst
    setBit (BitVec.ofNat 64 (f % 2 ^ 32)) 63 (f == g.ticket)
  | none => 0

/-- `prq` and `pdl` of a slot's context (R432). -/
def prqWord (s : State) (ctx : Nat) : Word :=
  match tfind s.ctxs ctx with
  | some c => bool64 c.prq
  | none => 0
def pdlWord (s : State) (ctx : Nat) : Word :=
  match tfind s.ctxs ctx with
  | some c => BitVec.ofNat 64 (c.pdl % 2 ^ 32)
  | none => 65536

/-- The value of special register n for slot k (R110). -/
def sregRead (s : State) (k n : Nat) : Word :=
  let sl := s.slot k
  let y := sl.sys
  let x := s.core (coreOf k)
  match n with
  | 0x000 => sl.pc
  | 0x001 => y.prg
  | 0x002 => y.st
  | 0x003 => y.mode
  | 0x004 => y.cause
  | 0x005 => y.epc
  | 0x006 => y.tval
  | 0x007 => y.tvec
  | 0x008 => y.escr
  | 0x010 => y.loop0.ls
  | 0x011 => y.loop0.le
  | 0x012 => y.loop0.lc
  | 0x013 => y.loop1.ls
  | 0x014 => y.loop1.le
  | 0x015 => y.loop1.lc
  | 0x020 => tagsWord s (coreOf k)
  | 0x030 => y.cp.src
  | 0x031 => y.cp.dst
  | 0x032 => y.cp.ext
  | 0x033 => y.cp.srs
  | 0x034 => y.cp.drs
  | 0x035 => y.cp.flg
  | 0x040 => prqWord s sl.bind.ctx
  | 0x041 => pdlWord s sl.bind.ctx
  | 0x042 => y.tmr
  | 0x043 => y.tmrc
  | 0x050 => y.pto
  | 0x060 => tktWord s k
  | 0x061 => tkfWord s k
  | 0x070 => y.rnk
  | 0x071 => y.rnc
  | 0x080 => y.coord
  | 0x081 => x.cyc
  | 0x082 => trafficWord x.sent
  | 0x083 => trafficWord x.recv
  | 0x084 => y.trec
  | 0x0a0 => BitVec.ofNat 64 x.spsz
  | _ =>
    if 0x021 ≤ n && n < 0x025 then (vget x.transfer.chans (n - 0x021) Channel.reset).wm
    else if 0x025 ≤ n && n < 0x02d then zext64 (vget x.transfer.mb (n - 0x025) 0#32)
    else if 0x090 ≤ n && n < 0x098 then vget y.wb (n - 0x090) 0
    else if 0x098 ≤ n && n < 0x0a0 then vget y.wl (n - 0x098) 0
    else if 0x0b0 ≤ n && n < 0x0b8 then sl.rx (n - 0x0b0)
    else 0

/-- `st` after an MTS: bits 7 to 0 are cleared by ones, TH takes its bit (R78, R104). -/
def stWritten (st v : Word) : Word := setBit (st &&& ~~~(v &&& 0xff#64)) stTH (v.getLsbD stTH)

/-- `mode` after an MTS: a rounding mode of 6 or 7 leaves it (R78). -/
def modeWritten (mode v : Word) : Word := if 6 ≤ slice v 2 0 then mode else setSlice mode 2 0 (slice v 2 0)

/-- A loop count register after an MTS (R147). -/
def lcWritten (v : Word) : Word := v &&& 0x80000000ffffffff#64

/-- Special register n of a slot written (R102): those that the slot holds. -/
def sregWrite (n : Nat) (v : Word) (sl : Slot) : Slot :=
  let even := setBit v 0 false
  match n with
  | 0x001 => sl.onSys fun y => { y with prg := v &&& 0xff000000ffffffff#64 }
  | 0x002 => sl.onSys fun y => { y with st := stWritten y.st v }
  | 0x003 => sl.onSys fun y => { y with mode := modeWritten y.mode v }
  | 0x004 => sl.onSys fun y => { y with cause := v &&& 0xff#64 }
  | 0x005 => sl.onSys fun y => { y with epc := even }
  | 0x006 => sl.onSys fun y => { y with tval := v }
  | 0x007 => sl.onSys fun y => { y with tvec := even }
  | 0x008 => sl.onSys fun y => { y with escr := v }
  | 0x010 => sl.onSys fun y => { y with loop0 := { y.loop0 with ls := even } }
  | 0x011 => sl.onSys fun y => { y with loop0 := { y.loop0 with le := even } }
  | 0x012 => sl.onSys fun y => { y with loop0 := { y.loop0 with lc := lcWritten v } }
  | 0x013 => sl.onSys fun y => { y with loop1 := { y.loop1 with ls := even } }
  | 0x014 => sl.onSys fun y => { y with loop1 := { y.loop1 with le := even } }
  | 0x015 => sl.onSys fun y => { y with loop1 := { y.loop1 with lc := lcWritten v } }
  | 0x030 => sl.onSys fun y => { y with cp := { y.cp with src := v } }
  | 0x031 => sl.onSys fun y => { y with cp := { y.cp with dst := v } }
  | 0x032 => sl.onSys fun y => { y with cp := { y.cp with ext := v } }
  | 0x033 => sl.onSys fun y => { y with cp := { y.cp with srs := v } }
  | 0x034 => sl.onSys fun y => { y with cp := { y.cp with drs := v } }
  | 0x035 => sl.onSys fun y => { y with cp := { y.cp with flg := v } }
  | 0x042 => sl.onSys fun y => { y with tmr := v }
  | 0x043 => sl.onSys fun y => { y with tmrc := v &&& 1#64 }
  | 0x050 => sl.onSys fun y => { y with pto := v &&& 0xffffffff#64 }
  | 0x070 => sl.onSys fun y => { y with rnk := v }
  | 0x071 => sl.onSys fun y => { y with rnc := v }
  | 0x084 => sl.onSys fun y => { y with trec := v }
  | _ => if 0x0b0 ≤ n && n < 0x0b8 then { sl with x := vset sl.x (n - 0x0b0) v } else sl

/-- The effect of MTS: a user slot may not write a register marked S; a register that is RO keeps its value. -/
def mtsBody (n : Nat) (v : Word) (word : Word) : Body := fun s =>
  if (n = 0x041 || n = 0x084) && !s.me.sv then (s, .trap 0x02 word)
  else if n = 0x041 then (s.onCtx s.myCtx fun c => { c with pdl := slice v 31 0 }, .next)
  else if 0x025 ≤ n && n < 0x02d then
    (onTransfer s.myCore (fun t => { t with mb := vset t.mb (n - 0x025) (v.extractLsb' 0 32) }) s, .next)
  else (s.onMe (sregWrite n v), .next)

/-- MFS (R110). -/
def execMfs (n : BitVec 12) (d : BitVec 5) (s : State) : Host.Outcome State Fault Refusal :=
  issue (.mfs n d) (fun s => (s.onMe fun sl => sl.wg d.toNat (sregRead s s.cur n.toNat), .next)) s

/-- MTS (R110). -/
def execMts (n : BitVec 12) (a : BitVec 5) (s : State) : Host.Outcome State Fault Refusal :=
  issue (.mts n a) (fun s => mtsBody n.toNat (s.me.rg a.toNat) (wordOf (.mts n a) s) s) s

/-! ### The system instructions (R111 to R118) -/

/-- ERET (R113) (DEDUCED, log 25). -/
def eretBody (i : Instr) : Body := fun s =>
  if s.me.th then
    let (t, sl) := leaveTrap s.me
    (s.setMe sl, .goto t)
  else (s, .trap 0x01 (wordOf i s))

/-- BKPT: an armed slot stops its partition (R112, R460). -/
def bkptBody : Body := fun s =>
  if s.me.armed then (stopPartition s.myCtx 5 s.myCore s, .gone) else (s, .trap 0x06 0)

/-- WAITE (R115). -/
def waiteBody : Body := fun s =>
  if s.me.sys.st.getLsbD stEV then (s.onMe (·.setSt stEV false), .next) else (s, .wait .event)

/-- WFW (R118): the slot starts its next task at once, if one is ready. -/
def wfwBody : Body := fun s =>
  match replayPoint s.me with
  | some e => (s, e)
  | none => (takeNext s.cur (endTask s.cur s), .left)

/-- YIELD once its record is written: the record goes to the run list of its home core, at its priority (R116, R433). A
record of another core's goes there as a message (DEDUCED, log 32). -/
def yieldOn : Body := fun s =>
  let k := s.cur
  let ctx := s.myCtx
  let trec := s.me.sys.trec
  if s.me.phase = listedPhase then (takeNext k (suspendTask k s), .left)
  else withTail (fun q s =>
    if recHome q = coreOf k then
      match enqueue (coreOf k) ctx trec (recPrio q) s with
      | (.done, s) => if (s.core (coreOf k)).holding.isSome then (listTask k s, .wait (.listRoom false))
        else (takeNext k (suspendTask k s), .left)
      | (.full, s) => (s, .wait (.listRoom false))
    else (takeNext k (suspendTask k (sendMsg k ⟨.tenqArrival, { Arg.reset with k := ctx, a := recHome q, c := recPrio q, w := trec }⟩ s)), .left))
    (s.onMe fun sl => { sl with phase := 3, keep := [] })

/-- YIELD of `len` bytes (R116). Where it acts as NOP it is no point at which the task could be suspended, and a Full port does not trap
(DESIGN CHOICE, log 32). -/
def yieldBody (len : Nat) : Body := fun s =>
  if s.me.phase = listedPhase then yieldOn s
  else if s.me.det && prqWord s s.myCtx = 0 then (s, .next)
  else if s.me.phase = 3 then yieldOn s
  else match suspendPoint s with
    | some e => (s, e)
    | none => match writeRecord (s.me.pc + BitVec.ofNat 64 len) s with
      | .error e => e
      | .ok s => yieldOn s

/-- The counter's home is told that the record of slot k waits for the counter (R117, R424) (DEDUCED, log 37). -/
def armMsg (k : Nat) (q : List (BitVec 8)) (s : State) : Msg :=
  ⟨.counterRequestArrival, { Arg.reset with k := k, a := recHome q, b := 3, c := recCref q, w := (s.slot k).sys.trec,
                                            u := BitVec.ofNat 64 (s.slot k).bind.ctx }⟩

/-- SUSPEND once its record is written: a record whose counter is 0 at that moment is appended as by YIELD, and else the task stops (R117)
(DEDUCED, log 37). -/
def suspendOn : Body := fun s =>
  withTail (fun q s =>
    let k := s.cur
    if !recCtr q then (takeNext k (suspendTask k s), .left)
    else if ctrCount s (recHome q) (recCref q) = 0 then yieldOn s
    else (takeNext k (suspendTask k (sendMsg k (armMsg k q s) s)), .left))
    (s.onMe fun sl => { sl with phase := 3, keep := [1#64] })

/-- SUSPEND of `len` bytes (R117). -/
def suspendBody (len : Nat) : Body := fun s =>
  if s.me.phase = listedPhase || (s.me.phase = 3 && s.me.keep.isEmpty) then yieldOn s
  else if s.me.phase = 3 then suspendOn s
  else match suspendPoint s with
    | some e => (s, e)
    | none => match writeRecord (s.me.pc + BitVec.ofNat 64 len) s with
      | .error e => e
      | .ok s => suspendOn s

/-- TRAP (R112). -/
def execTrap (b a : BitVec 5) (s : State) : Host.Outcome State Fault Refusal :=
  issue (.trap b a) (fun s => (s, .trap 0x05 (zext64 (a ++ b)))) s

/-- ERET (R113). -/
def execEret (s : State) : Host.Outcome State Fault Refusal := issue .eret (eretBody .eret) s

/-- YIELD (R116). -/
def execYield (s : State) : Host.Outcome State Fault Refusal := issue .yield (yieldBody 4) s

/-- SUSPEND (R117). -/
def execSuspend (s : State) : Host.Outcome State Fault Refusal := issue .suspend (suspendBody 4) s

/-- WFW (R118). -/
def execWfw (s : State) : Host.Outcome State Fault Refusal := issue .wfw wfwBody s

/-- BKPT (R112). -/
def execBkpt (s : State) : Host.Outcome State Fault Refusal := issue .bkpt bkptBody s

/-- NOP (R114). -/
def execNop (s : State) : Host.Outcome State Fault Refusal := issue .nop (fun s => (s, .next)) s

/-- WAITE (R115). -/
def execWaite (s : State) : Host.Outcome State Fault Refusal := issue .waite waiteBody s

/-- C_NOP (R52). -/
def execCNop (s : State) : Host.Outcome State Fault Refusal := issue .cNop (fun s => (s, .next)) s

/-- C_YIELD (R52). -/
def execCYield (s : State) : Host.Outcome State Fault Refusal := issue .cYield (yieldBody 2) s

/-- C_SUSPEND (R52). -/
def execCSuspend (s : State) : Host.Outcome State Fault Refusal := issue .cSuspend (suspendBody 2) s

/-- C_WFW (R52). -/
def execCWfw (s : State) : Host.Outcome State Fault Refusal := issue .cWfw wfwBody s

/-- C_ERET (R52). -/
def execCEret (s : State) : Host.Outcome State Fault Refusal := issue .cEret (eretBody .cEret) s

/-- C_BKPT (R52). -/
def execCBkpt (s : State) : Host.Outcome State Fault Refusal := issue .cBkpt bkptBody s

/-- C_WAITE (R52). -/
def execCWaite (s : State) : Host.Outcome State Fault Refusal := issue .cWaite waiteBody s

/-! ### Timers and trap entry (R107, R109) -/

/-- `tmr` of slot k reaches 0 (R107). -/
def expire (k : Nat) (s : State) : State :=
  setEvent k (s.onSlot k fun sl =>
    { sl with tmrPend := sl.tmrPend || sl.sys.tmrc.getLsbD 0, sys := { sl.sys with tmr := 0 } })

/-- TIMER_EXPIRY (R107): slot arg.k. -/
def execTimerExpiry (s : State) : Host.Outcome State Fault Refusal := event (expire s.arg.k) s

/-- TRAP_ENTRY (R109): the trap for which slot arg.k waits is entered, once every long-latency result is written. -/
def execTrapEntry (s : State) : Host.Outcome State Fault Refusal :=
  event (fun s => match (s.slot s.arg.k).run with
    | .parked (.trapEntry c v p) => if (s.slot s.arg.k).quiet then enterTrap s.arg.k c v p s else s
    | .parked (.faultEntry c v p) => if (s.slot s.arg.k).quiet then enterFault s.arg.k c v p s else s
    | _ => s) s

end Sys2Proof.Machine
end

