-- ==== Sys2Proof/Machine/Ticket.lean ====
section
/-! DEFINITION. Frontier instances, the life of a group, and the ticket instructions (17_ticket_group R336 to R356). -/

namespace Sys2Proof.Machine

/-! ### Frontier instances (R337, R338) -/

/-- The number of the scope instance that holds an octet: cluster, die, or 0 (R335, R411). -/
def scopePlace (scope o : Nat) : Nat := if scope = 5 then clusterOf o else if scope = 6 then dieOfOctet o else 0

/-- The instance of a kernel's frontier scope at a place. -/
def findInst (s : State) (kn : Kernel) (place : Nat) : Option Nat :=
  (s.frontiers.find? fun e => e.2.queue == kn.fq && e.2.scope == kn.scope && e.2.place == place && e.2.fid == kn.fid).map (·.1)

/-- The places that a kernel's rectangle touches, in increasing number. -/
def kernelPlaces (s : State) (k : Nat) : List Nat :=
  match tfind s.kernels k with
  | some kn => ((upTo 32).filter fun p => (kernelOctets s k).any fun o => scopePlace kn.scope o == p)
  | none => []

/-- The frontier instances that a kernel's rectangle touches, in increasing place. -/
def kernelInsts (s : State) (k : Nat) : List Nat :=
  match tfind s.kernels k with
  | some kn => (kernelPlaces s k).filterMap (findInst s kn)
  | none => []

/-- The same with those in which groups of the kernel have stood before a restore elsewhere (R442). -/
def kernelEverInsts (s : State) (k : Nat) : List Nat :=
  (s.frontiers.filter fun e => (kernelInsts s k).contains e.1 || s.groups.any fun g => g.2.kernel == k && g.2.inst == e.1).map (·.1)

/-- Whether a group has not retired. -/
def Group.open (g : Group) : Bool := g.st != .retired && g.st != .discarded

def kernelPlacing (st : KSt) : Bool := st == .placing || st == .saved .placing

/-- The tickets of an instance that have not retired: of its groups, and the next of every kernel still placing (R337). -/
def instTickets (s : State) (i : Nat) : List Nat :=
  (s.groups.filterMap fun e => if e.2.inst = i && e.2.open then some e.2.ticket else none) ++
  s.kernels.filterMap fun e =>
    if kernelPlacing e.2.st && e.2.placed < e.2.ngrp && (kernelInsts s e.1).contains i then some (e.2.t0 + e.2.placed) else none

/-- The entries of the stream table that join an instance of fleet scope to other packages (R485). -/
def fleetStreams (s : State) (x : Frontier) : List Nat :=
  if x.scope != 9 then []
  else (upTo 2048).filter fun n => streamValid s n && streamDir s n == 2 && streamNo s n == x.fid

/-- Whether the group of ticket F of an instance has retired here. -/
def retiredAt (s : State) (i f : Nat) : Bool := s.groups.any fun e => e.2.inst == i && e.2.st == .retired && e.2.ticket == f

/-- The frontier as R337 defines it. An instance that other packages share moves past its own group at F, and on to the lowest ticket here
if no package has a group below that: what the others have is a free value (DEDUCED, log 33). -/
def frontierValue (s : State) (i : Nat) (x : Frontier) : Nat :=
  let m := (instTickets s i).foldl Nat.min (2 ^ 40)
  let last := if m = 2 ^ 40 then x.lastEnd else m
  let f := if retiredAt s i x.f then x.f + 1 else x.f
  if (fleetStreams s x).isEmpty then last
  else if m ≤ x.f then m
  else if f < last && Config.fleetClear s.mcyc i last then last else f

/-- A group at the frontier becomes current and begins its drain (R340). -/
def makeCurrent (s : State) (e : Nat × Group) : State :=
  match tfind s.frontiers e.2.inst with
  | some x =>
    if x.f = e.2.ticket && (e.2.st == .running || e.2.st == .ended) then
      let s := s.onGroup e.1 fun g => { g with st := .current }
      pokeGroup e.1 (if e.2.entries.isEmpty then s else s.post (evt .commitDrain e.1 0 0))
    else s
  | none => s

/-- The octets on which an instance's groups stand. -/
def instOctets (s : State) (i : Nat) : List Nat :=
  ((s.groups.filter fun e => e.2.inst == i && e.2.open).flatMap fun e =>
    if e.2.quad then quadOctets e.2.octet else [e.2.octet]).eraseDups

/-- F takes a new value: it is sent to the octets, and to other packages for a fleet instance (R338, R485). -/
def setFrontier (i f : Nat) (s : State) : State :=
  match tfind s.frontiers i with
  | none => s
  | some x =>
    if x.f = f then s
    else
      let s := { s with frontiers := tset s.frontiers i { x with f := f } }
      let s := (instOctets s i).foldl (fun s o => s.post (evt .frontierAdvanceDelivery o i f)) s
      let s := (fleetStreams s x).foldl (fun s n => sendStream n 3 (bytesLE 8 f) s) s
      (s.groups.filter fun e => e.2.inst == i).foldl makeCurrent s

/-- F of an instance brought up to date (R337). -/
def advance (i : Nat) (s : State) : State :=
  match tfind s.frontiers i with
  | some x => setFrontier i (frontierValue s i x) s
  | none => s

/-- FRONTIER_ADVANCE_DELIVERY (R338): the octet arg.k has the frontier arg.b of instance arg.a; its copy moves forward only. -/
def execFrontierAdvanceDelivery (s : State) : Host.Outcome State Fault Refusal :=
  event (fun s =>
    if octetF s s.arg.k s.arg.a < s.arg.b then s.onOctet s.arg.k fun x => { x with f := tset x.f s.arg.a s.arg.b } else s) s

/-! ### Completion records (R411) -/

/-- Bytes put into a context's memory, page by page, by a way `put` of writing at a physical address, through the TLB of octet o if there
is one (R244): none where every page takes the store, or the address of a page that does not, with whether it forbids the store; then
nothing is written. -/
def storeBlockBy (cl : Nat) (o : Option Nat) (put : Nat → List (BitVec 8) → State → State) (ctx va : Nat) (bs : List (BitVec 8)) (s : State) :
    Option (Nat × Bool) × State :=
  let n1 := Nat.min bs.length (8192 - va % 8192)
  let parts := if n1 = bs.length then [(va, bs)] else [(va, bs.take n1), (va + n1, bs.drop n1)]
  let look := fun (acc : Option (Nat × Bool) × List (Nat × List (BitVec 8)) × State) (p : Nat × List (BitVec 8)) =>
    match acc with
    | (some e, ws, s) => (some e, ws, s)
    | (none, ws, s) => match ownLook cl o .store ctx p.1 s with
      | (.pa n, s) => if hasMem n then (none, ws ++ [(n, p.2)], s) else (some (p.1, false), ws, s)
      | (.forbidden, s) | (.format, s) => (some (p.1, true), ws, s)
      | (_, s) => (some (p.1, false), ws, s)
  match parts.foldl look (none, [], s) with
  | (some e, _, s) => (some e, s)
  | (none, ws, s) => (none, ws.foldl (fun s w => put w.1 w.2 s) s)

/-- A store of the firmware in a context's memory. -/
def storeBlock (cl ctx va : Nat) (bs : List (BitVec 8)) (s : State) : Option (Nat × Bool) × State :=
  storeBlockBy cl none homePutBytes ctx va bs s

/-- The bytes of a completion record but for its first doubleword, and that one. -/
def completionBytes (charge disc : Nat) (insts : List (Nat × Nat)) : List (BitVec 8) :=
  bytesLE 8 charge ++ bytesLE 8 (disc % 2 ^ 32 * 2 ^ 32 + insts.length) ++
    insts.flatMap fun i => bytesLE 8 (i.1 * 2 ^ 32 + i.2 % 2 ^ 32)

def statusWord (status code seq : Nat) : Nat := status * 2 ^ 56 + code % 256 * 2 ^ 48 + seq % 2 ^ 32

/-- A completion record written, STATUS last: whether it is done with. An unmapped page posts a fault record and the write waits; a page
that forbids the store, or whose fault fails, faults the context, and no part of the record is written (R411). The fault record of a
firmware's own access has SRC 0xffff (DESIGN CHOICE, log 61). -/
def writeCompletion (ctx va : Nat) (first : Nat) (rest : List (BitVec 8)) (s : State) : Bool × State :=
  if (tfind s.ctxs ctx).elim false (·.lost.contains va) then (true, s) else
  match storeBlock (clusterOf 0) ctx (va + 8) rest s with
  | (some (a, false), s) => (false, ctxFaultFor (clusterOf 0) ctx a va 0xffff true s)
  | (some (_, true), s) => (true, contextFault ctx 0x0e 0xffff (BitVec.ofNat 64 va) 0 s)
  | (none, s) =>
    match storeBlock (clusterOf 0) ctx va (bytesLE 8 first) s with
    | (some (a, false), s) => (false, ctxFaultFor (clusterOf 0) ctx a va 0xffff true s)
    | (some (_, true), s) => (true, contextFault ctx 0x0e 0xffff (BitVec.ofNat 64 va) 0 s)
    | (none, s) => (true, s)

/-- Frontiers in increasing place. -/
def insertPlace (x : Nat × Nat) : List (Nat × Nat) → List (Nat × Nat)
  | [] => [x]
  | y :: t => if x.1 < y.1 then x :: y :: t else y :: insertPlace x t

/-- The instances of a kernel with their frontiers, as a completion record lists them. -/
def instList (s : State) (k : Nat) : List (Nat × Nat) :=
  ((kernelEverInsts s k).filterMap fun i => (tfind s.frontiers i).map fun x => (x.place, x.f)).foldl (fun l x => insertPlace x l) []

/-- The completion record of a kernel. -/
def completeKernel (k status code : Nat) (s : State) : Bool × State :=
  match tfind s.kernels k with
  | none => (true, s)
  | some kn => writeCompletion kn.ctx kn.compl.toNat (statusWord status code kn.seq)
      (completionBytes kn.charge kn.disc (instList s k)) s

/-! ### Retirement (R340, R341, R344, R345) -/

/-- The slots of a group that are still bound to it. -/
def boundSlots (s : State) (gk : Nat) : List Nat :=
  (s.slots.filter fun e => e.2.bind.bound && e.2.bind.group == gk).map (·.1)

/-- Whether every task of a group has ended, and no slot bound to it runs a task. -/
def groupEnded (s : State) (gk : Nat) (g : Group) : Bool :=
  g.live = 0 && g.toStart.isEmpty && (boundSlots s gk).all fun k => (s.slot k).run == .free

/-- Whether a copy of the group is still on its way. -/
def copiesOpen (s : State) (gk : Nat) : Bool :=
  s.cores.any fun e => e.2.transfer.copies.any fun c => c.2.group == gk && tfind e.2.transfer.tags c.1 == some .inFlight

/-- Whether a current group may retire. -/
def groupDone (s : State) (gk : Nat) (g : Group) : Bool :=
  groupEnded s gk g && g.entries.isEmpty && !copiesOpen s gk &&
    (boundSlots s gk).all fun k => (s.slot k).traffic.out.isEmpty && (s.slot k).pend.isEmpty

/-- A number put in its place, and a list in rising order. -/
def insertNat (n : Nat) : List Nat → List Nat
  | [] => [n]
  | m :: t => if n ≤ m then n :: m :: t else m :: insertNat n t
def sortNats (ns : List Nat) : List Nat := ns.foldl (fun t n => insertNat n t) []

/-- Held REDs in increasing address order, those of one word by (core, slot, program order) (R345). -/
def heldByWord (g : Group) : List (List Entry) :=
  (sortNats ((g.held.map fun e => e.act.span.1).eraseDups)).map fun w => g.held.filter fun e => e.act.span.1 == w

/-- A slot is bound to no group any more. -/
def releaseSlot (gk : Nat) (s : State) (k : Nat) : State :=
  s.onSlot k fun sl => if sl.bind.bound && sl.bind.group = gk then { sl with bind := { sl.bind with bound := false, owner := none } } else sl

/-- The tiles of a quad group no longer joined (R322). -/
def unjoin (g : Group) (s : State) : State :=
  if !g.quad then s
  else ((quadOctets g.octet).flatMap octetCores).foldl (fun s c =>
    if (tileOf s c).st = .own then s else onTile c (fun t => { t with st := .own }) s) s

/-- The slot-cycles of a group charged to its tenant and its kernel (R412). -/
def chargeGroup (g : Group) (s : State) : State :=
  match tfind s.kernels g.kernel with
  | none => s
  | some kn =>
    let t := match tfind s.ctxs kn.ctx with
      | some c => c.tenant
      | none => 0
    let s := { s with deficits := tset s.deficits t (tget s.deficits t 0 - (g.cycles : Int)) }
    s.onKernel g.kernel fun k => { k with charge := k.charge + g.cycles }

/-- A kernel all of whose groups have retired is Complete once its record is written (R402, R411). -/
def finishKernel (k : Nat) (s : State) : State :=
  match tfind s.kernels k with
  | none => s
  | some kn =>
    if kn.retired = kn.ngrp && (kn.st == .placing || kn.st == .running) then
      match completeKernel k 1 0 s with
      | (true, s) =>
        let s := s.onKernel k fun x => { x with st := .complete }
        { s with changed := s.changed.filter fun e => e.2.2 != k }
      | (false, s) => s.post ⟨.groupRetire, { Arg.reset with a := k, b := 1 }⟩
    else s

/-- A context with no live kernel and no waiting queue is Bound again (R430). -/
def settleCtx (ctx : Nat) (s : State) : State :=
  match tfind s.ctxs ctx with
  | some c =>
    if c.st = 3 && (liveKernels s ctx).isEmpty && c.queues.toList.all fun q => q.st == .disabled || q.st == .empty
    then setCtxState ctx 2 s else s
  | none => s

/-- A current group retires. -/
def retire (gk : Nat) (g : Group) (s : State) : State :=
  let s := (heldByWord g).foldl (fun s es => combineHeld gk es s) s
  let s := chargeGroup g s
  let s := unjoin g s
  let s := s.onGroup gk fun x => { x with st := .retired, held := [], undo := [], entries := [], inRing := 0 }
  let s := (boundSlots s gk).foldl (releaseSlot gk) s
  let s := (s.onKernel g.kernel fun k => { k with retired := k.retired + 1 }).post (evt .groupPlacement 0 0 0)
  let s := finishKernel g.kernel (advance g.inst s)
  match tfind s.kernels g.kernel with
  | some kn => settleCtx kn.ctx s
  | none => s

/-- GROUP_RETIRE (R340): the group arg.k moves on as far as its work allows; with arg.b = 1, the kernel arg.a still waits to
write its completion record. -/
def execGroupRetire (s : State) : Host.Outcome State Fault Refusal :=
  event (fun s =>
    if s.arg.b = 1 then
      let s' := finishKernel s.arg.a s
      match tfind s'.kernels s.arg.a with
      | some kn => settleCtx kn.ctx s'
      | none => s'
    else
      let gk := s.arg.k
      match tfind s.groups gk with
      | none => s
      | some g =>
        if groupHeld s g then s
        else if g.st = .running then
          let s := if groupEnded s gk g then s.onGroup gk fun x => { x with st := .ended } else s
          match tfind s.groups gk with
          | some g => makeCurrent s (gk, g)
          | none => s
        else if g.st = .ended then makeCurrent s (gk, g)
        else if g.st = .current then
          if g.stopped then s
          else if groupDone s gk g then
            match overlapAmong s g g.held with
            | some (e, w) => overlapFault gk e w s
            | none => retire gk g s
          else if groupEnded s gk g then pokeGroup gk s else s
        else s) s

/-! ### Ticket deadlock (R348) -/

def parkedOnPort (sl : Slot) : Bool :=
  match sl.run with
  | .parked (.port _) => true
  | _ => false

/-- Whether a slot is parked on commit space (R347). -/
def onCommit (s : State) (k : Nat) : Bool :=
  match (s.slot k).run with
  | .parked (.commitFull _) => true
  | _ => false

/-- Whether a slot of the current group is parked on commit space for its undo log: on room, or on an entry's drain. -/
def parkedOnUndo (g : Group) (sl : Slot) : Bool :=
  undoStalled g && (match sl.run with
    | .parked (.commitFull _) | .parked (.drain _) => true
    | _ => false)

/-- Whether a kernel of an instance still has groups to place whose tickets are above F (R337). -/
def unplacedLater (s : State) (i f : Nat) : Bool :=
  s.kernels.any fun e => kernelPlacing e.2.st && e.2.placed < e.2.ngrp && f < e.2.t0 + e.2.ngrp - 1 && (kernelInsts s e.1).contains i

/-- Whether a frontier instance is in ticket deadlock. A later group that is not yet placed has no slot parked on commit space, and with no
later group the second and third conditions hold (DEDUCED, log 62). -/
def deadlocked (s : State) (i : Nat) (x : Frontier) : Bool :=
  match s.groups.find? fun e => e.2.inst == i && e.2.st == .current && e.2.ticket == x.f with
  | none => false
  | some e =>
    let later := s.groups.filter fun y => y.2.inst == i && y.2.open && x.f < y.2.ticket
    let busy := (boundSlots s e.1).filter fun k => (s.slot k).run != .free
    !busy.isEmpty && !unplacedLater s i x.f &&
    (busy.all fun k => parkedOnPort (s.slot k) || parkedOnUndo e.2 (s.slot k)) &&
    later.all fun y => ((boundSlots s y.1).any fun k => onCommit s k) &&
      (boundSlots s y.1).all fun k => (s.slot k).run != .running

/-- TICKET_DEADLOCK (R348): instance arg.k; the parked port operations of its current group are withdrawn, and their slots
trap with cause 0x15; a slot parked on commit space traps in the same way. -/
def execTicketDeadlock (s : State) : Host.Outcome State Fault Refusal :=
  event (fun s =>
    match tfind s.frontiers s.arg.k with
    | none => s
    | some x =>
      if !deadlocked s s.arg.k x then s
      else
        let cur := (s.groups.filter fun e => e.2.inst == s.arg.k && e.2.st == .current).map (·.1)
        (cur.flatMap (boundSlots s)).foldl (fun s k =>
          let onDrain := match (s.slot k).run with
            | .parked (.drain _) => true
            | _ => false
          if parkedOnPort (s.slot k) then
            if (s.slot k).phase = portSent then (withdrawPorts k 6 s).onSlot k fun sl => { sl with keep := [BitVec.ofNat 64 x.f] } else s
          else if onCommit s k || onDrain then raiseTrap k 0x15 (BitVec.ofNat 64 x.f) (s.slot k).pc s
          else s) s) s

/-! ### Aborts (R350) -/

/-- A slot of an aborted group: its task is gone, and it is bound to nothing. -/
def abandonSlot (gk : Nat) (s : State) (k : Nat) : State :=
  let s := match (s.slot k).run with
    | .parked r => leaveMiss k r s
    | _ => s
  let s := match (s.slot k).replay.bind (·.fault) with
    | some page => leaveMiss k (.fault page) s
    | none => s
  releaseSlot gk (s.onSlot k fun sl => { sl.free with pend := [], traffic := { sl.traffic with out := [] } }) k

/-- The copies of an aborted group are discarded: none of them writes memory any more, and one that is parked leaves its fault (R247,
R350). -/
def discardCopies (gk : Nat) (s : State) : State :=
  let parked := s.cores.flatMap fun e => e.2.transfer.copies.filterMap fun y =>
    if y.2.group = gk then y.2.parked.map fun p => (clusterOf (octetOf e.1), y.2.ctx, p) else none
  let s := parked.foldl (fun s p => leaveFault p.1 p.2.1 p.2.2 s) s
  { s with cores := s.cores.map fun e =>
      let x := e.2.transfer
      let gone := (x.copies.filter fun y => y.2.group == gk && tfind x.tags y.1 == some .inFlight).map (·.1)
      if gone.isEmpty then e
      else (e.1, { e.2 with transfer := { x with
        tags := x.tags.filter fun y => !gone.contains y.1, copies := x.copies.filter fun y => !gone.contains y.1,
        q0 := x.q0.filter fun y => !gone.contains y, q1 := x.q1.filter fun y => !gone.contains y } }) }

/-- The core of a slot as its group was first placed (R376, R384): a restored group keeps it. -/
def firstCore (s : State) (k : Nat) : Nat :=
  let c := coreOf k
  match groupOf s k with
  | some g =>
    let j := if g.quad then (quadOctets g.octet).findIdx (· == octetOf c) else 0
    8 * (if g.quad then (quadOctets g.home).getD j g.home else g.home) + c % 8
  | none => c

/-- The slot at its first place. -/
def firstSlot (s : State) (k : Nat) : Nat := 16 * firstCore s k + slotNo k

/-- One group of an aborted kernel discarded; a current one writes its undo log back, last word first. -/
def discardGroup (gk : Nat) (s : State) : State :=
  match tfind s.groups gk with
  | none => s
  | some g =>
    if !g.open then s
    else
      let firsts := (boundSlots s gk).map (firstSlot s)
      let s := { s with spawns := s.spawns.filter fun e =>
        !(e.1 % 256 == (tfind s.kernels g.kernel).elim 256 (·.ctx) && firsts.contains (e.1 / 256)) }
      let asked := fun (m : Msg) => (m.ev == .doorbell && m.arg.b == 1 && (boundSlots s gk).contains m.arg.c) ||
        (g.sent && m.ev == .homeAtomicAccess && (g.entries.head?.elim false fun e => e.slot == m.arg.k))
      let s := { s with inflight := s.inflight.filter fun m => !asked m.2 }
      let s := discardCopies gk ((boundSlots s gk).foldl (abandonSlot gk) s)
      let s := if g.st = .current || g.st = .saved .current then
          g.undo.reverse.foldl (fun s u => homeStore u.word 0xf#4 u.old s) s
        else s
      let s := chargeGroup g s
      ((if g.kept.isSome then s else unjoin g s).post (evt .groupPlacement 0 0 0)).onGroup gk fun x =>
        { x with st := .discarded, entries := [], held := [], undo := [], inRing := 0, sent := false, toStart := [], live := 0, susp := [] }

/-- The last end ticket of an instance of the aborted kernel becomes its frontier. -/
def stopFrontier (insts : List Nat) (e : Nat × Frontier) : Nat × Frontier :=
  if insts.contains e.1 then (e.1, { e.2 with lastEnd := e.2.f }) else e

/-- KERNEL_ABORT (R350, R402): kernel arg.k with the cause arg.a. The frontiers stay, and are the last end tickets. With
arg.b = 1 only the completion record is still to be written. -/
def execKernelAbort (s : State) : Host.Outcome State Fault Refusal :=
  event (fun s =>
    let k := s.arg.k
    match tfind s.kernels k with
    | none => s
    | some kn =>
      if kn.st == .complete || (kn.st == .aborted && s.arg.b != 1) then s
      else
        let s := if s.arg.b = 1 then s
          else
            let gs := (s.groups.filter fun e => e.2.kernel == k).map (·.1)
            let insts := kernelEverInsts s k
            let s := gs.foldl (fun s g => discardGroup g s) s
            let s := { s with frontiers := s.frontiers.map (stopFrontier insts) }
            let s := (s.onKernel k fun x => { x with st := .aborted }).post (evt .groupPlacement 0 0 0)
            { s with changed := s.changed.filter fun e => e.2.2 != k }
        match completeKernel k 3 s.arg.a s with
        | (true, s) => settleCtx kn.ctx s
        | (false, s) => s.post ⟨.kernelAbort, { s.arg with b := 1 }⟩) s

/-! ### The instructions (R353 to R356) -/

/-- What TKGET gives for a selector. -/
def ticketValue (s : State) (k n : Nat) : Word :=
  match groupOf s k with
  | none => 0
  | some g => match tfind s.kernels g.kernel with
    | none => 0
    | some kn =>
      if n = 0 then BitVec.ofNat 64 g.ticket
      else if n = 1 then BitVec.ofNat 64 kn.t0
      else if n = 2 then BitVec.ofNat 64 (kn.t0 + kn.ngrp)
      else BitVec.ofNat 64 (octetF s (octetOf (coreOf k)) g.inst)

/-- TKGET (R354). -/
def execTkget (a d : BitVec 5) (s : State) : Host.Outcome State Fault Refusal :=
  issue (.tkget a d) (fun s =>
    let n := (s.me.rg a.toNat).toNat
    if 3 < n then (s, .trap 0x01 (s.me.rg a.toNat))
    else (s.onMe fun sl => sl.wg d.toNat (ticketValue s s.cur n), .next)) s

/-- TKWAIT (R355). -/
def execTkwait (a : BitVec 5) (s : State) : Host.Outcome State Fault Refusal :=
  issue (.tkwait a) (fun s =>
    let t := slice (s.me.rg a.toNat) 31 0
    let f := slice (tkfWord s s.cur) 31 0
    if slice (tktWord s s.cur) 31 0 ≤ t then (s, .trap 0x15 (BitVec.ofNat 64 f))
    else if t < f then acqBody s
    else (s, .wait (.frontier t))) s

def EntryAct.isPublish (a : EntryAct) : Bool := a == .publish

/-- PUBLISH (R356). -/
def execPublish (s : State) : Host.Outcome State Fault Refusal :=
  issue .publish (fun s =>
    if s.me.det then
      if s.me.replayed then (s, replayEnding s.me)
      else enterAndWait 0 .publish EntryAct.isPublish (fun _ s => (s, .next)) s
    else relBody s) s

end Sys2Proof.Machine
end

