-- ==== Sys2Proof/Machine/Tensor.lean ====
section
/-! DEFINITION. Counted distributed tensors (18_tensor), and the accesses whose slot parks until another unit answers. -/

namespace Sys2Proof.Machine

/-! ### Answers -/

/-- An entry that is a message whose slot waits for its answer. -/
def EntryAct.asks (a : EntryAct) : Bool :=
  match a with
  | .msg _ w _ => w
  | _ => false

/-- A message whose slot parks until the answer: `done` has the answer. A buffered slot's message is an entry and leaves
when it drains (R236, R374, R427); one that names memory keeps the page of its address, 0 if there is none (R249). -/
def askHome (page : Nat) (m : Msg) (done : Word → Body) : Body := fun s =>
  if s.me.phase = 2 then done (s.me.keep.getD 0 0) s
  else if buffered s s.cur then enterAndWait page (.msg m true 0) EntryAct.asks done s
  else if s.me.phase = 1 then (s, .wait .answer)
  else ((sendMsg s.cur m s).onMe fun sl => { sl with phase := 1 }, .wait .answer)

/-- A message that is a release leaves once every earlier access of the slot is performed, and its replay is over; the slot goes on (R157,
R200, R203). -/
def releaseMsg (k : Nat) (m : Msg) (s : State) : State :=
  let id := (s.slot k).traffic.nextId
  if (s.slot k).performed && !replayHolds (s.slot k) id then sendMsg k m s else addOut k (.send id m) s

/-- A release's message that no slot waits for: sent when its turn comes, or as an entry, behind the slot's replay. -/
def tellHome (m : Msg) (done : Body) : Body := fun s =>
  let id := s.me.traffic.nextId
  if buffered s s.cur && !replayHolds s.me id then
    match enter s.cur [(0, .msg m false id)] s with
    | .error e => e
    | .ok s => done s
  else done (releaseMsg s.cur m s)

/-- What a release whose slot parks waits for, with the reason for which it then parks: the replay, and every earlier access outside a
commit buffer, of a buffered slot those to scratchpads (R200, R203) (DEDUCED, log 37). -/
def releaseWaitOn (r : Reason) (s : State) : Option Ending :=
  match replayPoint s.me with
  | some e => some e
  | none => if s.me.performed then none else some (.wait r)

def releaseWait (s : State) : Option Ending := releaseWaitOn .stores s

/-! ### Handles (R360) -/

def hndE (h : Word) : Nat := slice h 63 59
def hndInd (h : Word) : Bool := h.getLsbD 58
def hndPtr (h : Word) : Nat := slice h 50 0
/-- The address that a direct handle names. -/
def hndAddr (h : Word) : Nat := (sext64 (h.extractLsb' 0 51 ++ 0#6)).toNat
def hndNull (h : Word) : Bool := slice h 58 0 = 0
/-- A handle with another weight. -/
def hndWith (h : Word) (e : Nat) : Word := setSlice h 63 59 e
/-- The handle of a new tensor (R366). -/
def newHandle (a : Word) : Word := BitVec.ofNat 64 (31 * 2 ^ 59 + slice a 56 6)

/-- The core and offset of an indirection record that a handle names, if the context's partition has that core (R368). -/
def hndRecord (s : State) (ctx : Nat) (h : Word) : Option (Nat × Nat) :=
  if slice h 50 18 != 0 then none
  else ((partitionCores s ctx)[slice h 17 6]?).map fun c => (c, 0x7f000 + 64 * slice h 5 0)

/-- The partition core index of a core. -/
def partIndex (s : State) (ctx c : Nat) : Nat := (partitionCores s ctx).findIdx (· == c)

/-- The direct handle at the end of a chain of parents (R370); a longer chain than there are records has no end. -/
def chainEnd (s : State) (ctx : Nat) : Nat → Word → Option Word
  | 0, _ => none
  | n + 1, h =>
    if !hndInd h then some h
    else match hndRecord s ctx h with
      | none => none
      | some (c, off) => chainEnd s ctx n (BitVec.ofNat 64 (arrNat s c (off + 8) 8))

/-! ### Descriptors at their home (R362, R364) -/

def dscLive (x : Nat) : Bool := x % 2 = 1

/-- HNEW at the home: none if the tensor is Live. -/
def hnewHome (pa : Nat) (s : State) : Option State :=
  let (f, s) := homeNat (pa + 40) 8 s
  if dscLive f then none
  else
    let s := homePutNat pa 8 (2 ^ 31) s
    let s := homePutNat (pa + 8) 8 0 s
    some (homePutNat (pa + 40) 8 (f / 8 * 8 + 1) s)

/-- HBIND at the home: none if the tensor is not Live, is Faulted or is bound. -/
def hbindHome (pa : Nat) (record : Word) (s : State) : Option State :=
  let (f, s) := homeNat (pa + 40) 8 s
  let (b, s) := homeNat (pa + 8) 8 s
  if !dscLive f || f / 4 % 2 = 1 || b % 2 = 1 then none
  else some (homePutNat (pa + 8) 8 (slice record 63 6 * 64 + 1) s)

/-- A weight for a direct handle at its home, pa the descriptor (R364, R370, R371). A Faulted descriptor takes none. -/
def weightHome (ctx pa : Nat) (h : Word) (kernel : Nat) (s : State) : State :=
  let (x, s) := homeNat pa 8 s
  let (f, s) := homeNat (pa + 40) 8 s
  let (b, s) := homeNat (pa + 8) 8 s
  let init := x % 2 ^ 32
  let ret := x / 2 ^ 32 + 2 ^ hndE h
  if dscLive f && f / 4 % 2 = 1 then s
  else if !dscLive f || init < ret then
    contextFault ctx 0x19 0xffff h 0 (homePutNat (pa + 40) 8 (setBit (BitVec.ofNat 64 f) 2 true).toNat s)
  else
    let s := homePutNat pa 8 (ret * 2 ^ 32 + init) s
    if ret < init then s
    else
      let s := homePutNat (pa + 40) 8 (f / 4 * 4 + 2) s
      if b % 2 = 0 then s
      else s.post ⟨.tdecArrival, { Arg.reset with k := ctx, a := tget s.binders pa 0, c := kernel, w := BitVec.ofNat 64 (b / 64 * 64), l := [1] }⟩

/-- The message of a dropped weight: context, kernel, handle, the dropping core, and the copies it waits for. -/
def weightMsg (ctx kernel core : Nat) (h : Word) (tags : List Nat) : Msg :=
  ⟨.weightArrival, { Arg.reset with k := core, a := ctx, c := kernel, w := h, l := tags }⟩

/-- A weight for an indirection record (R368, R371). -/
def weightRecord (ctx c off : Nat) (h : Word) (kernel : Nat) (s : State) : State :=
  let x := arrNat s c off 8
  let init := x % 2 ^ 32
  let ret := x / 2 ^ 32 + 2 ^ hndE h
  if init = 0 || init < ret then contextFault ctx 0x19 c h 0 s
  else if ret < init then arrPutNat c off 8 (ret * 2 ^ 32 + init) s
  else
    let parent := BitVec.ofNat 64 (arrNat s c (off + 8) 8)
    let s := (arrPut c off (List.replicate 16 0) s).onCore c fun x => { x with indirect := terase x.indirect ((off - 0x7f000) / 64) }
    countSent c 0 1 (s.post (weightMsg ctx kernel c parent []))

/-- WEIGHT_ARRIVAL (R364, R369): context arg.a, kernel arg.c, handle arg.w, from core arg.k once its copies arg.l are complete. -/
def weightArrive (s : State) : State :=
  let m := s.arg
  if m.l.any fun t => tfind (s.core m.k).transfer.tags t == some .inFlight then s.post ⟨.weightArrival, m⟩
  else if hndInd m.w then
    match hndRecord s m.a m.w with
    | some (c, off) => weightRecord m.a c off m.w m.c (countRecv c 0 1 s)
    | none => contextFault m.a 0x19 0xffff m.w 0 s
  else
    let va := hndAddr m.w
    let (r, s) := ctxXlat (clusterOf (octetOf m.k)) true m.a va s
    match r with
    | some pa => weightHome m.a pa m.w m.c (countRecv (homeSlice pa) 0 1 s)
    | none => (ctxFault (clusterOf (octetOf m.k)) m.a va m.k true s).post ⟨.weightArrival, m⟩

/-- WEIGHT_ARRIVAL (R364). -/
def execWeightArrival (s : State) : Host.Outcome State Fault Refusal := event weightArrive s

/-- HNEW or HBIND performed at the home: of the kind b, 1 or 2, on the descriptor at pa, with the record. -/
def tensorDo (b pa : Nat) (record : Word) (s : State) : Option State :=
  if b = 1 then hnewHome pa s else hbindHome pa record s

/-- The words of a descriptor that the two change. -/
def tensorWords (b pa : Nat) : List Nat :=
  let w := pa / 4
  if b = 1 then [w, w + 1, w + 2, w + 3, w + 10] else [w + 2, w + 3]

/-- HNEW or HBIND of slot arg.k at the home (R373, R374): arg.b the kind, arg.a the descriptor, arg.w the record. The answer is 1 if it was
performed. That of a buffered slot is the change of its group's drain: it is checked and recorded as an atomic's is (R352). -/
def tensorArrive (s : State) : State :=
  let m := s.arg
  let answer := fun (v : Word) (s : State) => answerSlot m.k v s
  match tensorDo m.b m.a m.w s with
  | none => answer 0 s
  | some done =>
    let bound := fun (s : State) => if m.b = 2 then { s with binders := tset s.binders m.a (coreOf m.k) } else s
    match (if buffered s m.k then groupOf s m.k else none) with
    | none => answer 1 (bound done)
    | some g =>
      let gk := (s.slot m.k).bind.group
      match g.entries.head?, (tensorWords m.b m.a).find? (overlapOf s g) with
      | some e, some w => overlapFault gk e w s
      | _, _ => answer 1 (bound (changing gk (tensorWords m.b m.a) (fun s => (tensorDo m.b m.a m.w s).getD s) s))

/-! ### Barriers (R376, R377) -/

def barOf (s : State) (key : Nat) : Barrier := tget s.bars key ⟨0, 0, 0⟩
def setBar (key : Nat) (b : Barrier) (s : State) : State := { s with bars := tset s.bars key b }

/-- One arrival (R377). -/
def Barrier.arrive (b : Barrier) : Barrier :=
  if b.arr + 1 < b.exp then { b with arr := b.arr + 1 } else { b with arr := 0, p := (b.p + 1) % 2 ^ 32 }

/-- The arrival of a BARI of slot arg.k that waited for the slot's earlier accesses (R380): the result arg.a of register arg.c is the phase
of the barrier of key arg.l that it joins. -/
def barrierArrive (s : State) : State :=
  let key := s.arg.l.getD 0 0
  let p := (barOf s key).p
  setBar key (barOf s key).arrive (s.onSlot s.arg.k fun sl => sl.deliver s.arg.a [.g s.arg.c (BitVec.ofNat 64 p)])

/-- HOME_ATOMIC_ACCESS (R196, R206, R227, R373): arg.k the slot, arg.a the access; with arg.b 1 or 2, a tensor's,
with 3 an arrival at a barrier, and with 4 the answer to an HNEW whose result arg.a is outstanding. -/
def execHomeAtomicAccess (s : State) : Host.Outcome State Fault Refusal :=
  event (fun s => if s.arg.b = 0 then atomicArrive s else if s.arg.b = 3 then barrierArrive s else if s.arg.b = 4 then returnValue s
    else tensorArrive s) s

/-- The core at whose input a message waits while the core is stopped (R453); for a weight whose page cannot be walked, none (DEDUCED, log 66). -/
def receiver (s : State) (m : Msg) : Option Nat :=
  match m.ev with
  | .tdecArrival => if m.arg.l = [1] then none else some m.arg.a
  | .tenqArrival => if m.arg.b = 1 then none else some m.arg.a
  | .counterRequestArrival | .wenqArrival | .stealRequestArrival => some m.arg.a
  | .watchRequestArrival => some (if m.arg.b = 1 then m.arg.w.toNat / 16 % 4096 else homeSlice (4 * m.arg.l.getD 0 0))
  | .weightArrival =>
    if hndInd m.arg.w then (hndRecord s m.arg.a m.arg.w).map (·.1)
    else match (engineLook none true .store m.arg.a (hndAddr m.arg.w) s).1 with
      | .pa pa => some (homeSlice pa)
      | _ => none
  | .stealAnswerArrival | .portFire => some (coreOf m.arg.k)
  | _ => none

/-! ### The instructions (R365 to R372) -/

/-- The tags of the copies of a slot that are in flight. -/
def openCopies (k : Nat) (s : State) : List Nat :=
  ((s.core (coreOf k)).transfer.copies.filter fun e =>
    e.2.slot == k && tfind (s.core (coreOf k)).transfer.tags e.1 == some .inFlight).map (·.1)

/-- The kernel of a slot. -/
def kernelOf (s : State) (k : Nat) : Nat := (s.slot k).bind.kernel

/-- A tensor access at the home, of the kind b, whose slot parks until the home answers: as a message, or as an entry of the commit
buffer. `fin` has whether it was done. -/
def tensorHome (page b pa : Nat) (record : Word) (fin : Bool → Body) : Body := fun s =>
  askHome page ⟨.homeAtomicAccess, { Arg.reset with k := s.cur, a := pa, b := b, w := record }⟩ (fun v s => fin (v == 1) s) s

/-- HNEW once its checks have passed: in a commit buffer its slot waits for the home; else the home's answer comes with the result. -/
def hnewOn (d page pa : Nat) (h : Word) : Body := fun s =>
  let fin := fun (ok : Bool) (s : State) => if ok then (s.onMe fun sl => sl.wg d h, Ending.next) else (s, .trap 0x19 h)
  if buffered s s.cur then tensorHome page 1 pa 0 fin s
  else match hnewHome pa s with
    | some s =>
      let id := s.me.traffic.nextId
      let s := s.onMe fun sl => sl.addPend [⟨0, d⟩] (.value [.g d h] 0)
      (s.post ⟨.homeAtomicAccess, { Arg.reset with k := s.cur, a := id, b := 4 }⟩, .next)
    | none => (s, .trap 0x19 h)

/-- HNEW (R366). -/
def hnewBody (a d : Nat) : Body := fun s =>
  let x := s.me.rg a
  let h := newHandle x
  if s.me.phase = 1 || s.me.phase = 2 then hnewOn d 0 0 h s
  else match releaseWait s with
  | some e => (s, e)
  | none =>
    if x.toNat % 64 != 0 then (s, .trap 0x08 x)
    else if regionOf s s.myCore x.toNat != .memory || hndNull h then (s, .trap 0x19 h)
    else match checkAccess s.cur .store 64 [⟨x.toNat, 64⟩] s with
      | some e => e
      | none => match placeAt s.cur .store s x.toNat with
        | .mem pa => hnewOn d (x.toNat / 8192) pa h s
        | .arr _ _ => (s, .trap 0x19 h)

/-- The lowest indirection record of a core that is not in use. -/
def freeIndirect (s : State) (c : Nat) : Option Nat := (upTo 64).find? fun r => arrNat s c (0x7f000 + 64 * r) 8 % 2 ^ 32 == 0

/-- HCOPY (R367). -/
def hcopyBody (a d : Nat) : Body := fun s =>
  let h := s.me.rg a
  let c := s.myCore
  if hndNull h then (s, .trap 0x19 h)
  else if 1 ≤ hndE h then
    let x := hndWith h (hndE h - 1)
    (s.onMe fun sl => (sl.wg a x).wg d x, .next)
  else match freeIndirect s c with
    | none => (s, .trap 0x19 h)
    | some r =>
      let x := BitVec.ofNat 64 (30 * 2 ^ 59 + 2 ^ 58 + partIndex s s.myCtx c % 2 ^ 12 * 2 ^ 6 + r)
      later .loadDataReturn [.g a x, .g d x] 0 ((arrPut c (0x7f000 + 64 * r) (bytesLE 8 (2 ^ 31) ++ bytesLE 8 h.toNat) s).onCore c fun y =>
        { y with indirect := tset y.indirect r s.myCtx })

/-- HDROP (R369): the handle goes at once, the weight when it may, behind a running replay; a trap that a replay has deferred is taken
here. -/
def hdropBody (a : Nat) : Body := fun s =>
  let h := s.me.rg a
  if hndNull h then (s, .trap 0x19 0)
  else if hndInd h && (hndRecord s s.myCtx h).isNone then (s, .trap 0x19 h)
  else match (if s.me.replaying then none else replayPoint s.me) with
    | some e => (s, e)
    | none => tellHome (weightMsg s.myCtx (kernelOf s s.cur) s.myCore h (openCopies s.cur s))
        (fun s => (s.onMe fun sl => sl.wg a 0, .next)) s

/-- HBIND (R370). The home reads the descriptor, which is checked as a store of the slot is (DEDUCED, log 41). -/
def hbindBody (b a : Nat) : Body := fun s =>
  let h := s.me.rg a
  let r := s.me.rg b
  let k := s.cur
  let fin := fun (ok : Bool) (s : State) => if ok then (s, Ending.next) else (s, .trap 0x19 h)
  if s.me.phase = 1 || s.me.phase = 2 then tensorHome 0 2 0 r fin s
  else match replayPoint s.me with
  | some e => (s, e)
  | none => match checkAccess k .load 64 [⟨r.toNat, 64⟩] s with
    | some e => e
    | none => match meetTargets k [⟨r.toNat, 64⟩] false s with
      | some e => (s, e)
      | none =>
        let (bs, s) := readSpan k r.toNat 64 s
        match chainEnd s s.myCtx (64 * (partitionCores s s.myCtx).length + 1) h with
        | none => (s, .trap 0x19 h)
        | some t =>
          if !recCtr (bs.drop 48) then (s, .trap 0x19 h)
          else match checkAccess k .store 64 [⟨hndAddr t, 64⟩] s with
            | some e => e
            | none => match placeAt k .store s (hndAddr t) with
              | .mem pa => tensorHome (hndAddr t / 8192) 2 pa r fin s
              | .arr _ _ => (s, .trap 0x19 h)

/-- HNEW (R366). -/
def execHnew (a d : BitVec 5) (s : State) : Host.Outcome State Fault Refusal := issue (.hnew a d) (hnewBody a.toNat d.toNat) s

/-- HCOPY (R367). -/
def execHcopy (a d : BitVec 5) (s : State) : Host.Outcome State Fault Refusal := issue (.hcopy a d) (hcopyBody a.toNat d.toNat) s

/-- HDROP (R369). -/
def execHdrop (a : BitVec 5) (s : State) : Host.Outcome State Fault Refusal := issue (.hdrop a) (hdropBody a.toNat) s

/-- HWT (R372). -/
def execHwt (a d : BitVec 5) (s : State) : Host.Outcome State Fault Refusal :=
  issue (.hwt a d) (setG d fun sl => BitVec.ofNat 64 (hndE (sl.rg a.toNat))) s

/-- HBIND (R370). -/
def execHbind (b a : BitVec 5) (s : State) : Host.Outcome State Fault Refusal := issue (.hbind b a) (hbindBody b.toNat a.toNat) s

end Sys2Proof.Machine
end

