-- ==== Sys2Proof/Machine/Barrier.lean ====
section
/-! DEFINITION. Hardware barriers, the kernel-wide barrier, combining trees and flush probes (19_barrier). -/

namespace Sys2Proof.Machine

/-! ### Places -/

/-- The number of the instance of a span that contains a slot, by the slot's first place (R335). -/
def spanPlace (span k : Nat) : Nat :=
  let o := octetOf (coreOf k)
  match span with
  | 0 | 1 => k
  | 2 => coreOf k
  | 3 => o
  | 4 => quadLeader o
  | 5 => clusterOf o
  | 6 => dieOfOctet o
  | _ => 0

/-! ### Hardware barriers (R376 to R382) -/

/-- The barrier that an identifier names for a slot: none for another value (DEDUCED, log 35). -/
def barKey (s : State) (k : Nat) (x : Word) : Option Nat :=
  let span := slice x 11 8
  let i := slice x 5 0
  if slice x 63 12 != 0 || slice x 7 6 != 0 then none
  else if (span = 3 && i < 16) || span = 5 then
    some ((((s.slot k).bind.ctx * 16 + span) * 512 + spanPlace span (firstSlot s k)) * 64 + i)
  else none

/-- Whether BARW for phase q passes at a barrier that has completed p phases (R381). -/
def phasePast (p q : Nat) : Bool :=
  let d := (p + 2 ^ 32 - q) % 2 ^ 32
  1 ≤ d && d ≤ 2 ^ 31

/-- BARINIT (R379). -/
def barinitBody (b a : Nat) : Body := fun s =>
  let x := s.me.rg a
  let n := (s.me.rg b).toNat
  match barKey s s.cur x with
  | none => (s, .trap 0x01 x)
  | some key =>
    if n = 0 || (if slice x 11 8 = 3 then 128 else 2048) < n || (barOf s key).arr != 0 then (s, .trap 0x01 x)
    else (setBar key { barOf s key with exp := n, arr := 0 } s, .next)

/-- BARI (R380): it completes at issue. Where earlier accesses are not performed, the arrival waits for them as a message, and the result
is the phase that it then joins; a store that stands in a commit buffer is none of them (R294). It waits for a replay as a release does
(R157). -/
def bariBody (a d : Nat) : Body := fun s =>
  let x := s.me.rg a
  match barKey s s.cur x with
  | none => (s, .trap 0x01 x)
  | some key =>
    if (barOf s key).exp = 0 then (s, .trap 0x01 x)
    else match replayPoint s.me with
      | some e => (s, e)
      | none =>
        if s.me.performed then
          later .loadDataReturn [.g d (BitVec.ofNat 64 (barOf s key).p)] 0 (setBar key (barOf s key).arrive s)
        else
          let id := s.me.traffic.nextId
          let m : Arg := { Arg.reset with k := s.cur, a := id, b := 3, c := d, l := [key] }
          (releaseMsg s.cur ⟨.homeAtomicAccess, m⟩ (s.onMe fun sl => sl.addPend [⟨0, d⟩] .answer), .next)

/-- The entry of a slot and a barrier in `passed`. -/
def passKey (s : State) (key : Nat) : Nat := firstSlot s s.cur * 2 ^ 32 + key

/-- A BARW past phase q is recorded for BART in a deterministic kernel (R381). -/
def recordPass (key q : Nat) (s : State) : State :=
  if !s.me.det then s
  else s.onGroup s.me.bind.group fun g =>
    let old := tget g.passed (passKey s key) q
    { g with passed := tset g.passed (passKey s key) (if phasePast (old + 1) q then old else q) }

/-- BARW (R381). -/
def barwBody (b a : Nat) : Body := fun s =>
  let x := s.me.rg a
  let q := slice (s.me.rg b) 31 0
  match barKey s s.cur x with
  | none => (s, .trap 0x01 x)
  | some key =>
    if phasePast (barOf s key).p q then
      match acqBody s with
      | (s, .next) => (recordPass key q s, .next)
      | r => r
    else (s, .wait (.barrier 0 key q))

/-- BART (R381) (DEDUCED, log 35). -/
def bartBody (b a d : Nat) : Body := fun s =>
  let x := s.me.rg a
  let q := slice (s.me.rg b) 31 0
  match barKey s s.cur x with
  | none => (s, .trap 0x01 x)
  | some key =>
    let yes := if s.me.det then
        (match (groupOf s s.cur).bind fun g => tfind g.passed (passKey s key) with
          | some r => phasePast (r + 1) q
          | none => false)
      else phasePast (barOf s key).p q
    (s.onMe fun sl => sl.wg d (bool64 yes), .next)

/-! ### The kernel-wide barrier (R383) -/

/-- The barrier of a span of the kernel of slot k at a place. -/
def gbarAt (s : State) (k span place : Nat) : Nat := ((s.slot k).bind.kernel * 16 + span) * 4 + place

def gbarOf (s : State) (key : Nat) : GBar := tget s.gbars key ⟨0, 0, 0, []⟩

/-- The name of a slot among those that arrive: its group and its number there, which a restore elsewhere keeps. -/
def gbarName (s : State) (k : Nat) : Nat :=
  match groupOf s k with
  | some g => savedSlot (s.slot k).bind.group (g.slotIndex k)
  | none => k

/-- The barrier that holds a standing arrival of the slot, which a restore elsewhere leaves there, or else that of the instance in which
the slot stands. -/
def gbarKey (s : State) (k span : Nat) : Nat :=
  (((upTo 4).map (gbarAt s k span)).find? fun key => (tfind (gbarOf s key).waiters (gbarName s k)).isSome).getD
    (gbarAt s k span (spanPlace span k))

def setGbar (key : Nat) (b : GBar) (s : State) : State := { s with gbars := tset s.gbars key b }

/-- One arrival by a slot with a count. -/
def GBar.arrive (b : GBar) (k n : Nat) : GBar :=
  let b := { b with waiters := tset b.waiters k b.phase }
  if b.arr + 1 < n then { b with count := n, arr := b.arr + 1 } else { b with count := 0, arr := 0, phase := b.phase + 1 }

/-- A GBAR whose arrival of a phase stands: it waits for the phase, and then acquires. -/
def gbarWait (key phase : Nat) : Body := fun s =>
  if (gbarOf s key).phase = phase then (s, .wait (.gbar key phase))
  else match acqBody s with
    | (s, .next) =>
      let b := gbarOf s key
      (setGbar key { b with waiters := terase b.waiters (gbarName s s.cur) } s, .next)
    | r => r

/-- GBAR (R383). -/
def gbarBody (word : Word) (b a : Nat) : Body := fun s =>
  let x := s.me.rg a
  let n := s.me.rg b
  if x.toNat < 6 || 8 < x.toNat then (s, .trap 0x01 word)
  else
    let key := gbarKey s s.cur x.toNat
    let me := gbarName s s.cur
    match tfind (gbarOf s key).waiters me with
    | some phase => gbarWait key phase s
    | none =>
      let g := gbarOf s key
      if n = 0#64 || 2 ^ 20 < n.toNat || (g.count != 0 && g.count != n.toNat) then (s, .trap 0x01 n)
      else match releaseWaitOn .release s with
        | some e => (s, e)
        | none => gbarWait key g.phase (setGbar key (g.arrive me n.toNat) s)

/-! ### Flush probes (R388) -/

/-- Whether everything that slot k has sent is delivered, as a save of its group needs it: its accesses, its messages, and the words of its
copies; the entries and the copies that wait in a commit buffer are not yet sent (R438). -/
def delivered (s : State) (k : Nat) : Bool :=
  (s.slot k).performed && !(s.inflight.any fun m => m.2.arg.sender == k + 1) &&
  (s.core (coreOf k)).transfer.copies.all fun c =>
    c.2.slot != k || (c.2.entry.isSome && !c.2.started) ||
      tfind (s.core (coreOf k)).transfer.tags c.1 != some .inFlight

/-- The slots whose messages a probe of slot k follows: its own, and with b = 1 those of its group. -/
def probed (s : State) (k b : Nat) : List Nat :=
  if b = 1 && (groupOf s k).isSome then boundSlots s (s.slot k).bind.group else [k]

/-- Whether core c lies in the instance of a span that contains slot k. -/
def inSpan (span k c : Nat) : Bool := spanPlace span (16 * c) == spanPlace span (16 * coreOf k)

/-- The cycle from which on the traffic of slot k counts for a probe: the start of its task or, with b = 1, the dispatch of its group, or the
last restore of the group (R388). -/
def probeSince (s : State) (k b : Nat) : Nat :=
  match (if b = 1 then groupOf s k else none) with
  | some g => g.since
  | none => (s.slot k).traffic.since

/-- Whether the probes of slot k have returned, whose event is p: no message that its slots had sent before, from the moment on from which
they count, is on its way to a core in the span, and none of their releases before it still holds one back. Copy data and drained entries are
delivered when they are sent (R388) (DEDUCED, log 35). -/
def probesBack (s : State) (p : Arg) : Bool :=
  let js := probed s p.k p.b
  !(s.inflight.any fun m => counted m.2.ev && js.any (fun j => m.2.arg.sender == j + 1) && probeSince s p.k p.b ≤ m.2.arg.sent &&
    m.2.arg.sent ≤ p.sent && (receiver s m.2).any (inSpan p.c p.k)) &&
  !(js.any fun j => (s.slot j).traffic.out.any fun o => match o with
    | .send id m => p.l.any (fun n => n % 65536 == j && decide (id < n / 65536)) && (receiver s m).any (inSpan p.c p.k)
    | _ => false)

/-- FLUSHP, or with `g` FLUSHP_G for the slots of the whole group: the slot parks until every probe has returned (DEDUCED, log 35). -/
def flushpBody (g : Bool) (a : Nat) : Body := fun s =>
  let x := s.me.rg a
  if x.toNat < 3 || 8 < x.toNat then (s, .trap 0x01 x)
  else if s.me.phase = 2 then (s, .next)
  else if s.me.phase = 1 then (s, .wait .probes)
  else
    let id := s.me.traffic.nextId
    let s := s.onMe fun sl =>
      { sl with phase := 1, keep := [BitVec.ofNat 64 id], traffic := { sl.traffic with nextId := id + 1 } }
    let b := if g then 1 else 0
    let ids := (probed s s.cur b).map fun j => 65536 * (s.slot j).traffic.nextId + j
    let p : Arg := { Arg.reset with k := s.cur, a := id, b := b, c := x.toNat, sent := s.mcyc, l := ids }
    (s.post ⟨.flushProbeReturn, p⟩, .wait .probes)

/-- FLUSH_PROBE_RETURN (R388): the probes arg.a of slot arg.k, which left in the cycle arg.sent for the span arg.c, return behind the traffic
that they follow; arg.l is each probed slot with the identity that came next there, times 65536. -/
def execFlushProbeReturn (s : State) : Host.Outcome State Fault Refusal :=
  event (fun s =>
    let sl := s.slot s.arg.k
    if sl.phase = 1 && sl.run == .parked .probes && sl.keep == [BitVec.ofNat 64 s.arg.a] then
      if probesBack s s.arg then s.onSlot s.arg.k fun sl => { sl with phase := 2 }
      else s.soon ⟨.flushProbeReturn, s.arg⟩
    else s) s

/-! ### Tree descriptors (R384) -/

/-- The first three doublewords of a tree descriptor; the others are zero. -/
abbrev TreeDesc := Vector Word 3

def TreeDesc.id (d : TreeDesc) : Nat := slice d[0] 63 48
def TreeDesc.span (d : TreeDesc) : Nat := slice d[0] 47 44
def TreeDesc.op (d : TreeDesc) : Option VRedOp := if slice d[0] 43 40 < 6 then VRedOp.ofCode (BitVec.ofNat 3 (slice d[0] 43 40)) else none
def TreeDesc.rm (d : TreeDesc) : Nat := slice d[0] 39 37
def TreeDesc.lr (d : TreeDesc) : Bool := d[0].getLsbD 36
def TreeDesc.n (d : TreeDesc) : Nat := slice d[0] 31 0
def TreeDesc.cmask (d : TreeDesc) : Nat := slice d[1] 23 16
def TreeDesc.smask (d : TreeDesc) : Nat := slice d[1] 15 0
def TreeDesc.dst (d : TreeDesc) : Nat := d[2].toNat

/-- The fields of a descriptor that R387 checks, from its 64 bytes. -/
def treeFieldsOk (bs : List (BitVec 8)) (d : TreeDesc) : Bool :=
  (bs.drop 24).all (· == 0#8) && slice d[0] 35 32 == 0 && slice d[1] 63 24 == 0 &&
  (d.span == 0 || (2 ≤ d.span && d.span ≤ 8)) && d.op.isSome &&
  (if d.op == some .fadd then d.rm ≤ 4 else d.rm == 0) &&
  1 ≤ d.n && d.n ≤ 4096 && d.dst % (if d.lr then 4 else 64) == 0 && (d.span != 0 || d.lr)

/-- The octets of a kernel's rectangle as it was first placed (R385). -/
def firstOctets (s : State) (kernel : Nat) : List Nat :=
  match tfind s.kernels kernel with
  | some k => (upTo k.h).flatMap fun y => (upTo k.w).map fun x => octetAt (k.firstX + x) (k.firstY + y)
  | none => []

/-- Those that lie in the span instance of a slot at its first place, in their order. -/
def treeOctets (s : State) (kernel span k : Nat) : List Nat :=
  if span ≤ 3 then [octetOf (coreOf k)]
  else sortNats ((firstOctets s kernel).filter fun o => spanPlace span (128 * o) == spanPlace span k)

/-- The member slots of a tree, by core * 16 + slot (R384). -/
def treeMembers (d : TreeDesc) (octets : List Nat) (k : Nat) : List Nat :=
  if d.span = 0 then [k]
  else
    let cores := (octets.flatMap octetCores).filter fun c => d.cmask.testBit (c % 8) && (d.span != 2 || c == coreOf k)
    cores.flatMap fun c => ((upTo 16).filter fun i => d.smask.testBit i).map (16 * c + ·)

/-! ### The fixed tree (R385) -/

/-- Words padded with the identity to the next power of two and combined pairwise, level by level; `n` bounds the levels. -/
def treeReduce (op : VRedOp) : Nat → List (BitVec 32) → Fpu → BitVec 32 × Fpu
  | 0, xs, c => (xs.getD 0 (redIdentity op), c)
  | n + 1, xs, c =>
    if xs.length ≤ 1 then (xs.getD 0 (redIdentity op), c)
    else
      let (ys, c) := redLevel op (if xs.length % 2 = 1 then xs ++ [redIdentity op] else xs) c
      treeReduce op n ys c

/-- The children of one node combined lane by lane, each child of `width` words. -/
def treeNode (op : VRedOp) (width : Nat) (kids : List (List (BitVec 32))) (c : Fpu) : List (BitVec 32) × Fpu :=
  (upTo width).foldl (fun (a : List (BitVec 32) × Fpu) i =>
    let (x, c) := treeReduce op 16 (kids.map fun k => k.getD i (redIdentity op)) a.2
    (a.1 ++ [x], c)) ([], c)

/-- Nodes of one level, each from the nodes below it. -/
def treeLevel {α : Type} (op : VRedOp) (width : Nat) (kid : α → Fpu → List (BitVec 32) × Fpu) (xs : List α) (c : Fpu) :
    List (BitVec 32) × Fpu :=
  let (ks, c) := xs.foldl (fun (a : List (List (BitVec 32)) × Fpu) x =>
    let (k, c) := kid x a.2
    (a.1 ++ [k], c)) ([], c)
  treeNode op width ks c

/-- The result words of a block from the members' blocks, with the flags that the nodes raise. -/
def treeBlock (d : TreeDesc) (op : VRedOp) (octets : List Nat) (k : Nat) (leaf : Nat → Option VReg) : List (BitVec 32) × Fpu :=
  let c : Fpu := ⟨d.rm, false, 0, 0, 0, none⟩
  let w := if d.lr then 1 else 16
  let slot := fun (i : Nat) (c : Fpu) => match leaf i with
    | none => (List.replicate w (redIdentity op), c)
    | some v => if d.lr then treeNode op 1 (v.toList.map fun x => [x]) c else (v.toList, c)
  let core := fun (i : Nat) => treeLevel op w slot ((upTo 16).map (16 * i + ·))
  let octet := fun (o : Nat) => treeLevel op w core (octetCores o)
  let die := fun (x : Nat) => treeLevel op w octet (octets.filter fun o => dieOfOctet o == x)
  if d.span = 0 then slot k c
  else if d.span = 2 then core (coreOf k) c
  else if d.span ≤ 5 then treeLevel op w octet octets c
  else treeLevel op w die ((octets.map dieOfOctet).eraseDups) c

/-! ### Trees in flight -/

/-- Whether a tree is one of a context, identifier, span and place. -/
def Tree.is (t : Tree) (ctx id : Nat) (place : Nat × Nat) : Bool :=
  t.ctx == ctx && TreeDesc.id t.desc == id && t.place == place

/-- Whether every block of a tree is written: it is then no longer in flight, and keeps what members still have to see. -/
def Tree.finished (t : Tree) : Bool := TreeDesc.n t.desc ≤ t.written.length

/-- The first element that meets a condition replaced. -/
def onFirst {α : Type} (p : α → Bool) (f : α → α) : List α → List α
  | [] => []
  | x :: xs => if p x then f x :: xs else x :: onFirst p f xs

/-- The tree of a member: the oldest that it has not completed (DEDUCED, log 36). -/
def Tree.mine (ctx id : Nat) (place : Nat × Nat) (me : Nat) (t : Tree) : Bool := t.is ctx id place && !t.completed.contains me
def findTree (s : State) (ctx id : Nat) (place : Nat × Nat) (me : Nat) : Option Tree := s.trees.find? (Tree.mine ctx id place me)
def onTree (ctx id : Nat) (place : Nat × Nat) (me : Nat) (f : Tree → Tree) (s : State) : State :=
  { s with trees := onFirst (Tree.mine ctx id place me) f s.trees }

/-- The members of a tree in flight: of its octets, with the slot that opened it for the small spans. -/
def Tree.members (t : Tree) : List Nat :=
  treeMembers t.desc t.octets (if t.place.1 = 0 then t.place.2 else 16 * t.place.2)

/-- The blocks sent of one number. -/
def Tree.leaf (t : Tree) (j i : Nat) : Option VReg := (t.leaves.find? fun l => l.pos == i && l.block == j).map (·.item)

/-- TREE_NODE_COMBINE (R385, R386): context arg.k, identifier arg.a, block arg.b, span and place arg.l. Every leaf of the block
has come: the root writes the result at the homes of its words. An unmapped page posts a fault record and the write
waits (DEDUCED, log 36). -/
def treeCombine (s : State) : State :=
  let place := (s.arg.l.getD 0 0, s.arg.l.getD 1 0)
  let j := s.arg.b
  match s.trees.find? fun t => t.is s.arg.k s.arg.a place && !t.finished with
  | none => s
  | some t => match TreeDesc.op t.desc with
    | none => s
    | some op =>
      if t.written.contains j || !(t.members.all fun i => (t.leaf j i).isSome) then s
      else
        let (ws, c) := treeBlock t.desc op t.octets (if t.place.1 = 0 then t.place.2 else 16 * t.place.2) (t.leaf j)
        let va := (TreeDesc.dst t.desc + (if TreeDesc.lr t.desc then 4 else 64) * j) % 2 ^ 64
        let src := 8 * t.octets.getD 0 0
        let wrote := fun (t : Tree) => { t with written := t.written ++ [j], flags := t.flags ||| c.flags,
                                                leaves := t.leaves.filter fun l => l.block != j }
        let done := fun (s : State) => { s with trees := onFirst (fun x => x.is t.ctx s.arg.a place && !x.finished) wrote s.trees }
        match storeBlock (clusterOf (octetOf src)) t.ctx va (ws.flatMap fun w => bytesLE 4 w.toNat) s with
        | (none, s) => done s
        | (some (a, false), s) => (coreFault src t.ctx a true s).post ⟨.treeNodeCombine, s.arg⟩
        | (some (_, true), s) => contextFault t.ctx 0x0e src (BitVec.ofNat 64 va) 0 s

/-- TREE_NODE_COMBINE (R385). -/
def execTreeNodeCombine (s : State) : Host.Outcome State Fault Refusal := event treeCombine s

/-! ### REDT (R386, R387) -/

/-- n bytes, within one page, that an instruction of slot `cur` loads at once: alignment, the checks of R217, and the order
after the slot's earlier accesses. -/
def loadAtOnce (al a n : Nat) (s : State) : Except (State × Ending) (List (BitVec 8) × State) :=
  match accessWait s.me with
  | some r => .error (s, .wait r)
  | none => match checkAccess s.cur .load al [⟨a, n⟩] s with
    | some e => .error e
    | none => match meetTargets s.cur [⟨a, n⟩] false s with
      | some e => .error (s, e)
      | none =>
        if loadBlocked s.me s.me.traffic.nextId [⟨⟨0, 0⟩, 0, placeAt s.cur .load s a, n, n, false, 0, false⟩] then
          .error (s, .wait .results)
        else .ok (readSpan s.cur a n s)

/-- Whether a descriptor may be used by slot k: its fields, its members, and the first member's descriptor (R387). -/
def treeOk (s : State) (k : Nat) (bs : List (BitVec 8)) (d : TreeDesc) : Bool :=
  let me := firstSlot s k
  let kn := (s.slot k).bind.kernel
  treeFieldsOk bs d &&
  (d.span == 0 || (groupOf s k).isSome) &&
  (treeMembers d (treeOctets s kn d.span me) me).contains me &&
  match findTree s (s.slot k).bind.ctx d.id (d.span, spanPlace d.span me) me with
  | some t => t.desc == d && t.kernel == kn
  | none => true

/-- Whether each of some octets has room for one more tree (R387). -/
def treeRoom (s : State) (os : List Nat) : Bool :=
  os.all fun o => (s.trees.filter fun t => t.octets.contains o && !t.finished).length < 4

/-- The tree of slot k opened, unless it is. -/
def openTree (k : Nat) (d : TreeDesc) (s : State) : State :=
  let me := firstSlot s k
  let sl := s.slot k
  let place := (d.span, spanPlace d.span me)
  if (findTree s sl.bind.ctx d.id place me).isSome then s
  else { s with trees := s.trees ++ [⟨sl.bind.ctx, sl.bind.kernel, place, d, treeOctets s sl.bind.kernel d.span me, [], [], 0, []⟩] }

/-- The leaf of element j sent to the member's tree; the last one of the block brings its result about. -/
def sendLeaf (d : TreeDesc) (j : Nat) (v : VReg) (s : State) : State :=
  let me := firstSlot s s.cur
  let place := (d.span, spanPlace d.span me)
  let s := onTree s.myCtx d.id place me (fun t => { t with leaves := t.leaves ++ [⟨me, j, v⟩] }) (openTree s.cur d s)
  if (findTree s s.myCtx d.id place me).elim false fun t => t.members.all fun i => (t.leaf j i).isSome then
    s.post ⟨.treeNodeCombine, { Arg.reset with k := s.myCtx, a := d.id, b := j, l := [place.1, place.2] }⟩
  else s

/-- Whether the block at which a parked REDT of slot k stands is written. -/
def treeWritten (s : State) (k : Nat) : Bool :=
  let me := firstSlot s k
  let j := (macroStart 0x0c (s.slot k).sys.prg).getD 0
  s.trees.any fun t => t.ctx == (s.slot k).bind.ctx && !t.completed.contains me && t.members.contains me && t.written.contains j

/-- Element j: the leaf is sent once, and the element is done when its block is written. -/
def redtElem (d : TreeDesc) (a : Nat) (j : Nat) : Body := fun s =>
  let me := firstSlot s s.cur
  let t := findTree s s.myCtx d.id (d.span, spanPlace d.span me) me
  let os := treeOctets s s.me.bind.kernel d.span me
  if t.elim false fun t => t.written.contains j then (s, .next)
  else if t.elim false fun t => (t.leaf j me).isSome then (s, .wait .tree)
  else if t.isNone && !treeRoom s os then (s, .wait (.treeRoom os))
  else match releaseWaitOn .release s with
    | some e => (s, e)
    | none => match loadAtOnce 64 (a + 64 * j) 64 s with
      | .error e => e
      | .ok (bs, s) => (sendLeaf d j (vregOfBytes bs) s, .wait .tree)

/-- The member has all its blocks: the flags of the tree are set, and the tree goes with its last member. -/
def redtDone (d : TreeDesc) (s : State) : State :=
  let me := firstSlot s s.cur
  let place := (d.span, spanPlace d.span me)
  match findTree s s.myCtx d.id place me with
  | none => s
  | some t =>
    let s := l1Acquire s.myCore (s.onMe (·.raise t.flags))
    let s := onTree s.myCtx d.id place me (fun t => { t with completed := t.completed ++ [me] }) s
    { s with trees := s.trees.filter fun t => !(t.finished && t.members.all fun i => t.completed.contains i) }

/-- The elements of a REDT with its descriptor, which the slot keeps while it is parked. -/
def redtOn (d : TreeDesc) (a : Nat) : Body := fun s =>
  let elem := redtElem d a
  let r := if 1 < d.n then macroBody 0x0c d.n elem s
    else if 0 < (macroStart 0x0c s.me.sys.prg).getD 0 then (s, .next) else elem 0 s
  match r with
  | (s, .next) => (setPrg 0 (redtDone d s), .next)
  | (s, .wait w) => (s.onMe fun sl => { sl with phase := 1, keep := d.toList }, .wait w)
  | r => r

/-- REDT (R386, R387): it reads and checks its descriptor at each issue, and a parked one goes on with it (R39). -/
def redtBody (b a : Nat) : Body := fun s =>
  let x := s.me.rg a
  let y := s.me.rg b
  if s.me.phase = 1 then redtOn #v[s.me.keep.getD 0 0, s.me.keep.getD 1 0, s.me.keep.getD 2 0] x.toNat s
  else if x.toNat % 64 != 0 then (s, .trap 0x08 x)
  else match replayPoint s.me with
    | some e => (s, e)
    | none => match loadAtOnce 64 y.toNat 64 s with
      | .error e => e
      | .ok (bs, s) =>
        let d : TreeDesc := #v[recWord bs 0, recWord bs 1, recWord bs 2]
        if !treeOk s s.cur bs d then (s, .trap 0x01 y)
        else if s.me.pend.any isAccess then (s, .wait .results)
        else redtOn d x.toNat s

/-! ### The instructions (R378) -/

/-- BARINIT (R379). -/
def execBarinit (b a : BitVec 5) (s : State) : Host.Outcome State Fault Refusal :=
  issue (.barinit b a) (barinitBody b.toNat a.toNat) s

/-- BARI (R380). -/
def execBari (a d : BitVec 5) (s : State) : Host.Outcome State Fault Refusal := issue (.bari a d) (bariBody a.toNat d.toNat) s

/-- BARW (R381). -/
def execBarw (b a : BitVec 5) (s : State) : Host.Outcome State Fault Refusal := issue (.barw b a) (barwBody b.toNat a.toNat) s

/-- BART (R381). -/
def execBart (b a d : BitVec 5) (s : State) : Host.Outcome State Fault Refusal :=
  issue (.bart b a d) (bartBody b.toNat a.toNat d.toNat) s

/-- GBAR (R383). -/
def execGbar (b a : BitVec 5) (s : State) : Host.Outcome State Fault Refusal :=
  issue (.gbar b a) (gbarBody (wordOf (.gbar b a) s) b.toNat a.toNat) s

/-- FLUSHP (R388). -/
def execFlushp (a : BitVec 5) (s : State) : Host.Outcome State Fault Refusal := issue (.flushp a) (flushpBody false a.toNat) s

/-- FLUSHP_G (R388). -/
def execFlushpG (a : BitVec 5) (s : State) : Host.Outcome State Fault Refusal := issue (.flushpG a) (flushpBody true a.toNat) s

/-- REDT (R386). -/
def execRedt (b a : BitVec 5) (s : State) : Host.Outcome State Fault Refusal := issue (.redt b a) (redtBody b.toNat a.toNat) s

end Sys2Proof.Machine
end

