-- ==== Sys2Proof/Machine/Task.lean ====
section
/-! DEFINITION. Task counters, run-list messages, watches and steals, and the instructions that use them (23_queue R417, R419
to R427). -/

namespace Sys2Proof.Machine

/-! ### Counters at their home (R419, R421, R423, R424) -/

def ctrArm (s : State) (home cref : Nat) : Bool := arrNat s home (ctrOff cref) 8 / 2 ^ 63 == 1

/-- ARM and COUNT of a counter written. -/
def ctrPut (home cref : Nat) (arm : Bool) (count : Nat) (s : State) : State :=
  arrPutNat home (ctrOff cref) 8 ((if arm then 2 ^ 63 else 0) + count) s

/-- RECORD of a counter written. -/
def ctrRecord (home cref : Nat) (record : Word) (s : State) : State :=
  arrPutNat home (ctrOff cref + 8) 8 (slice record 63 6 * 64) s

/-- A record is to be enqueued at its HOME and PRIO, which are still to be read; core c asks for the page. -/
def enqueueLater (c ctx : Nat) (record : Word) (s : State) : State :=
  s.post ⟨.tenqArrival, { Arg.reset with k := ctx, a := c, b := 1, w := record, l := [1] }⟩

/-- A count of 0 with ARM set enqueues the record (R419). -/
def ctrSettle (ctx home cref : Nat) (s : State) : State :=
  if ctrArm s home cref && ctrCount s home cref = 0 then
    enqueueLater home ctx (BitVec.ofNat 64 (arrNat s home (ctrOff cref + 8) 8)) (ctrPut home cref false 0 s)
  else s

/-- COUNTER_REQUEST_ARRIVAL: slot arg.k, home arg.a, CREF arg.c, record arg.w, context arg.u. arg.b is 0 for TCTR with the
count in arg.l, 1 for SPAWN's increment with the slot's first place in arg.l, 2 for JOIN's read, and 3 to arm the counter
(R117, R421, R423, R424). -/
def counterRequest (s : State) : State :=
  let m := s.arg
  let (k, h, c, ctx) := (m.k, m.a, m.c, m.u.toNat)
  let s := countRecv h 0 1 s
  match m.b with
  | 0 => answerSlot k 0 (ctrSettle ctx h c (ctrRecord h c m.w (ctrPut h c true (m.l.getD 0 0) s)))
  | 1 =>
    let key := (256 * m.l.getD 0 0 + ctx, m.w)
    if s.spawns.contains key then answerSlot k 0 s
    else answerSlot k 0 (ctrPut h c (ctrArm s h c) ((ctrCount s h c + 1) % 2 ^ 32) { s with spawns := s.spawns ++ [key] })
  | 2 => answerSlot k (BitVec.ofNat 64 (ctrCount s h c)) s
  | _ =>
    if ctrCount s h c = 0 then enqueueLater h ctx m.w s
    else ctrRecord h c m.w (ctrPut h c true (ctrCount s h c) s)

/-- COUNTER_REQUEST_ARRIVAL (R419). -/
def execCounterRequestArrival (s : State) : Host.Outcome State Fault Refusal := event counterRequest s

/-- The 16 bytes of a record that hold HOME, PRIO, CTR and CREF, for a core's own access: none while the page is unmapped (DEDUCED, log 41). -/
def tailAt (c ctx : Nat) (record : Word) (s : State) : Option (List (BitVec 8)) × State :=
  match windowBytes s c (record.toNat + 48) 16 with
  | some bs => (some bs, s)
  | none =>
    let (r, s) := ctxBytes (clusterOf (octetOf c)) ctx (record.toNat + 48) 16 s
    match r with
    | some bs => (some bs, s)
    | none => (none, coreFault c ctx (record.toNat + 48) false s)

/-- Whether a context can still receive what arrives for it. -/
def ctxGone (s : State) (ctx : Nat) : Bool := ctxState s ctx == 0 || ctxState s ctx == 7

/-- A record whose HOME names no core of the partition faults the context. -/
def badHome (ctx c : Nat) (record : Word) (s : State) : State := contextFault ctx 0x0e c record 0 s

/-- TDEC_ARRIVAL (R421): context arg.k, home arg.a, CREF arg.b, kernel arg.c, record arg.w; with arg.l = [1], HOME and CREF are still
to be read from the record (R370). -/
def tdecArrive (s : State) : State :=
  let m := s.arg
  let s := if m.l.isEmpty then countRecv m.a 0 1 s else s
  if ctxGone s m.k then s
  else if m.l != [1] then
    if ctrCount s m.a m.b = 0 then s.onKernel m.c fun k => { k with disc := k.disc + 1 }
    else ctrSettle m.k m.a m.b (ctrPut m.a m.b (ctrArm s m.a m.b) (ctrCount s m.a m.b - 1) s)
  else match tailAt m.a m.k m.w s with
    | (none, s) => s.post ⟨.tdecArrival, m⟩
    | (some q, s) =>
      if !(partitionCores s m.k).contains (recHome q) || !crefOk (recCref q) then badHome m.k m.a m.w s
      else s.post ⟨.tdecArrival, { m with a := recHome q, b := recCref q, l := [2] }⟩

/-- TDEC_ARRIVAL (R421). -/
def execTdecArrival (s : State) : Host.Outcome State Fault Refusal := event tdecArrive s

/-- TENQ_ARRIVAL (R418, R421): context arg.k, home arg.a, priority arg.c, record arg.w; with arg.b = 1, HOME and PRIO are
still to be read from the record, and arg.l is not empty where no slot sent it. While the lists and the ring are full it waits at the home's input. -/
def tenqArrive (s : State) : State :=
  let m := s.arg
  let taken := fun (s : State) => if m.l.isEmpty then countRecv m.a 0 1 s else s
  if ctxGone s m.k then taken s
  else if m.b = 1 then
    match tailAt m.a m.k m.w s with
    | (none, s) => s.post ⟨.tenqArrival, m⟩
    | (some q, s) =>
      if !(partitionCores s m.k).contains (recHome q) then badHome m.k m.a m.w s
      else s.post ⟨.tenqArrival, { m with a := recHome q, b := 0, c := recPrio q }⟩
  else
    match enqueue m.a m.k m.w m.c s with
    | (.done, s) => taken s
    | (.full, s) => s.post ⟨.tenqArrival, m⟩

/-- TENQ_ARRIVAL (R421). -/
def execTenqArrival (s : State) : Host.Outcome State Fault Refusal := event tenqArrive s

/-- A write of a message at its home. Where the sender's entry was one of group gk it is a change of that group's drain: held REDs to its
words go first, the old values go into the undo log, and a word of another instance stops the drain (R344, R345, R352). -/
def homePutFor (gk : Nat) (pa : Nat) (bs : List (BitVec 8)) (s : State) : State :=
  let n := (pa % 4 + bs.length + 3) / 4
  let ws := (upTo n).map (pa / 4 + ·)
  match (if gk = 0 then none else tfind s.groups gk) with
  | none => if gk = 0 then homePutBytes pa bs s else s
  | some g => match ws.find? (overlapOf s g), tfind s.kernels g.kernel with
    | some w, some kn => contextFault kn.ctx 0x14 (coreOf (g.slots.headD 0)) (BitVec.ofNat 64 (4 * w)) 0
        (s.onGroup gk fun g => { g with stopped := true })
    | _, _ => changing gk ws (homePutBytes pa bs) (combineBefore gk (pa / 4, n) s)

/-- WENQ_ARRIVAL (R425): context arg.k, home arg.a, priority arg.c, record arg.w, payload arg.item for the address arg.u, the
sender's group arg.b; arg.l is the place in a local array, if the payload goes to one. -/
def wenqArrive (s : State) : State :=
  let m := s.arg
  let bs := vregBytes m.item
  let taken := countRecv m.a 0 1
  if ctxGone s m.k then taken s
  else
    let go := fun (s : State) => (taken s).post ⟨.tenqArrival, { Arg.reset with k := m.k, a := m.a, c := m.c, w := m.w, l := [1] }⟩
    match m.l with
    | c :: off :: _ => go (storeArray c off bs s)
    | _ => match storeBlockBy (clusterOf (octetOf m.a)) none (homePutFor m.b) m.k m.u.toNat bs s with
      | (none, s) => go s
      | (some (a, false), s) => (coreFault m.a m.k a true s).post ⟨.wenqArrival, m⟩
      | (some (a, true), s) => contextFault m.k 0x0e m.a (BitVec.ofNat 64 a) 0 (taken s)

/-- WENQ_ARRIVAL (R425). -/
def execWenqArrival (s : State) : Host.Outcome State Fault Refusal := event wenqArrive s

/-! ### Watches (R426) -/

/-- The first free identifier of a slice. -/
def freeWatch (s : State) (slice : Nat) : Option Nat :=
  ((upTo 16).map (16 * slice + ·)).find? fun i => !(s.watches.any fun e => e.id == i)

/-- A value comes back to a slot: for an outstanding result, or for the instruction that waits. -/
def answerEither (k id : Nat) (d : Nat) (v : Word) (s : State) : State :=
  if id = 0 then answerSlot k v s else s.onSlot k fun sl => sl.deliver (id - 1) [.g d v]

/-- WATCH_REQUEST_ARRIVAL (R426): slot arg.k; arg.a is 0 for an answer that the slot waits for, or the result's identity + 1
for register arg.c. arg.b = 0 is WATCH with the first word, number of words and context in arg.l, the record in arg.w and
mask and value in arg.u; arg.b = 1 is UNWATCH of the identifier arg.w. -/
def watchRequest (s : State) : State :=
  let m := s.arg
  if m.b = 1 then
    let i := m.w.toNat
    let hit := s.watches.any fun e => e.id == i
    let s := countRecv (i / 16 % 4096) 0 1 s
    answerEither m.k m.a m.c (bool64 hit) { s with watches := s.watches.filter fun e => e.id != i }
  else
    let w := m.l.getD 0 0
    let s := countRecv (homeSlice (4 * w)) 0 1 s
    match freeWatch s (homeSlice (4 * w)) with
    | none => answerEither m.k m.a m.c (BitVec.allOnes 64) s
    | some i =>
      let e : WatchEntry := { id := i, word := w, nw := m.l.getD 1 0, mask := m.u.extractLsb' 32 32, value := m.u.extractLsb' 0 32,
                              record := m.w, ctx := m.l.getD 2 0, slot := m.k }
      answerEither m.k m.a m.c (BitVec.ofNat 64 i) { s with watches := s.watches ++ [e] }

/-- WATCH_REQUEST_ARRIVAL (R426). -/
def execWatchRequestArrival (s : State) : Host.Outcome State Fault Refusal := event watchRequest s

/-! ### Steals (R417) -/

/-- Whether a slot may steal: nothing waits for it on its core, and no task of its group (R414, R417). -/
def maySteal (s : State) (k : Nat) : Bool :=
  let sl := s.slot k
  let x := s.core (coreOf k)
  sl.run == .free && sl.bind.bound && !sl.det && x.runList.isEmpty && x.deque.isEmpty && ctxOpen s sl.bind.ctx && !x.stopped &&
    (nextBound s k).isNone

/-- The victim of attempt a by core n. -/
def victim (n a : Nat) : Nat :=
  let cl := clusterOctets (clusterOf (octetOf n))
  let own := 8 * cl.findIdx (· == octetOf n) + n % 8
  let v := (mix32 (BitVec.ofNat 32 n) (BitVec.ofNat 32 a)).toNat % 128
  let v := if v = own then (v + 1) % 128 else v
  8 * cl.getD (v / 8) 0 + v % 8

/-- STEAL_ATTEMPT (R417): slot arg.k without work sends a request to its next victim. -/
def execStealAttempt (s : State) : Host.Outcome State Fault Refusal :=
  event (fun s =>
    let k := s.arg.k
    if !maySteal s k then s
    else
      let v := victim (coreOf k) (s.slot k).steal
      let s := s.onSlot k fun sl => { sl with steal := sl.steal + 1 }
      sendMsg k ⟨.stealRequestArrival, { Arg.reset with k := k, a := v, c := (s.slot k).bind.ctx }⟩ s) s

/-- Whether a core serves a deterministic kernel: only its own slots pop its deque (R358, R427). -/
def coreDet (s : State) (c : Nat) : Bool := s.slots.any fun e => coreOf e.1 == c && e.2.bind.bound && e.2.det

/-- STEAL_REQUEST_ARRIVAL (R417): the victim arg.a answers slot arg.k with its oldest entry, if that is of context arg.c. -/
def stealRequest (s : State) : State :=
  let m := s.arg
  let s := countRecv m.a 0 1 s
  let answer := fun (s : State) (r : Option Word) =>
    countSent m.a 0 1 (s.post ⟨.stealAnswerArrival,
      { Arg.reset with k := m.k, b := if r.isSome then 1 else 0, c := m.c, w := r.getD 0 }⟩)
  if coreDet s m.a then answer s none else
  match ringOldest s m.a 0 with
  | some (ctx, e) => if ctx != m.c then answer s none else let (r, s) := takeRing ctx e s; answer s r
  | none => match (s.core m.a).deque with
    | e :: es => if e.ctx != m.c then answer s none
      else answer (s.onCore m.a fun x => { x with deque := es }) (some e.record)
    | [] => answer s none

/-- STEAL_REQUEST_ARRIVAL (R417). -/
def execStealRequestArrival (s : State) : Host.Outcome State Fault Refusal := event stealRequest s

/-- STEAL_ANSWER_ARRIVAL (R417): slot arg.k starts the record arg.w; a slot that has found other work puts it on its core's
deque (DEDUCED, log 32). -/
def stealAnswer (s : State) : State :=
  let m := s.arg
  let taken := countRecv (coreOf m.k) 0 1
  if m.b = 0 || ctxGone s m.c then taken s
  else if (s.slot m.k).run == .free && ctxOpen s m.c && !(s.core (coreOf m.k)).stopped then
    match startRecord m.k m.c m.w s with
    | (true, s) => taken s
    | (false, s) => s.post ⟨.stealAnswerArrival, m⟩
  else match pushDeque (coreOf m.k) m.c m.w s with
    | (.done, s) => taken s
    | (.full, s) => s.post ⟨.stealAnswerArrival, m⟩

/-- STEAL_ANSWER_ARRIVAL (R417). -/
def execStealAnswerArrival (s : State) : Host.Outcome State Fault Refusal := event stealAnswer s

/-! ### Record operands (R420) -/

/-- Bytes 48 to 63 of the record at x, loaded and checked; with `ctr`, CTR and CREF too. -/
def recordOperand (ctr : Bool) (x : Word) (s : State) : Except (State × Ending) (List (BitVec 8) × State) :=
  if x.toNat % 64 != 0 then .error (s, .trap 0x08 x)
  else match loadAtOnce 1 (x.toNat + 48) 16 s with
    | .error e => .error e
    | .ok (q, s) =>
      if !(partitionCores s s.myCtx).contains (recHome q) then .error (s, .trap 0x0e x)
      else if ctr && !(recCtr q && crefOk (recCref q)) then .error (s, .trap 0x01 x)
      else .ok (q, s)

/-- A message to a counter's home. -/
def counterMsg (k b : Nat) (q : List (BitVec 8)) (record : Word) (l : List Nat) (s : State) : Msg :=
  ⟨.counterRequestArrival, { Arg.reset with k := k, a := recHome q, b := b, c := recCref q, w := record,
                                            u := BitVec.ofNat 64 (s.slot k).bind.ctx, l := l }⟩

/-- A message whose slot waits for the answer, not by way of a commit buffer. -/
def askNow (m : Msg) (done : Word → Body) : Body := fun s =>
  if s.me.phase = 2 then done (s.me.keep.getD 0 0) s
  else if s.me.phase = 1 then (s, .wait .answer)
  else ((sendMsg s.cur m s).onMe fun sl => { sl with phase := 1 }, .wait .answer)

/-! ### The instructions (R421 to R426) -/

/-- The name under which the home has acknowledged an increment: the slot's first place, its context, and `trec` (R423). -/
def spawnKey (s : State) (k : Nat) (trec : Word) : Nat × Word := (256 * firstSlot s k + (s.slot k).bind.ctx, trec)

/-- SPAWN once the increment is acknowledged: trec goes to the deque, and the child starts in this slot. Where the core has to hold the
entry that this pushed out, the slot parks until the ring has it (R418). -/
def spawnPush (x : Word) : Body := fun s =>
  let k := s.cur
  let ctx := s.myCtx
  let trec := s.me.sys.trec
  match slotBytes k ctx x.toNat 64 s with
  | (none, s) => parkOnPage x.toNat s
  | (some bs, s) =>
    let start := fun (s : State) => (startWith k ctx x bs (suspendTask k s), Ending.left)
    if s.me.phase = listedPhase then start s
    else match pushDeque (coreOf k) ctx trec s with
      | (.full, s) => (s, .wait (.listRoom true))
      | (.done, s) =>
        let s := { s with spawns := s.spawns.filter fun e => e != spawnKey s k trec }
        if (s.core (coreOf k)).holding.isSome then (listTask k s, .wait (.listRoom true)) else start s

/-- SPAWN once its record is written: earlier stores are performed, and the home counts (R423). -/
def spawnOn (x : Word) : Body := fun s =>
  let k := s.cur
  if !buffered s k && !s.me.performed then (s, .wait .stores)
  else if s.me.phase = listedPhase then spawnPush x s
  else
    let count := fun (q : List (BitVec 8)) (s : State) =>
      askHome 0 (counterMsg k 1 q s.me.sys.trec [firstSlot s k] s) (fun _ => spawnPush x) s
    if s.me.phase = 3 then withTail (fun q s => if recCtr q then count q s else spawnPush x s) s
    else count [] s

/-- SPAWN (R423) (DEDUCED, log 37). -/
def spawnBody (a : Nat) : Body := fun s =>
  let x := s.me.rg a
  if s.me.phase != 0 then spawnOn x s
  else match replayPoint s.me with
    | some e => (s, e)
    | none => match recordHazard s.me with
    | some r => (s, .trap 0x12 (BitVec.ofNat 64 (r.file * 32 + r.num)))
    | none => match recordOperand false x s with
      | .error e => e
      | .ok (_, s) => match writeRecord (s.me.pc + 4) s with
        | .error e => e
        | .ok s => spawnOn x (s.onMe fun sl => { sl with phase := 3 })

/-- JOIN when its home has answered with COUNT (R424). -/
def joinOn (v : Word) : Body := fun s =>
  let k := s.cur
  if v = 0#64 then acqBody s
  else match writeRecord s.me.pc s with
    | .error e => e
    | .ok s => withTail (fun q s => (takeNext k (suspendTask k (sendMsg k (armMsg k q s) s)), .left)) s

/-- JOIN (R424). Whether the task's record has a counter comes first: only then is it a suspension point. -/
def joinBody : Body := fun s =>
  let k := s.cur
  let trec := s.me.sys.trec
  if trec = 0#64 then (s, .trap 0x01 trec)
  else if s.me.phase != 0 then askNow (counterMsg k 2 [] trec [] s) joinOn s
  else match loadAtOnce 1 (trec.toNat + 48) 16 s with
    | .error e => e
    | .ok (q, s) =>
      if !recCtr q then (s, .trap 0x01 trec)
      else match suspendPoint s with
        | some e => (s, e)
        | none => askNow (counterMsg k 2 q trec [] s) joinOn s

/-- TENQ (R421). -/
def tenqBody (a : Nat) : Body := fun s =>
  let x := s.me.rg a
  match recordOperand false x s with
  | .error e => e
  | .ok (q, s) => match replayPoint s.me with
    | some e => (s, e)
    | none => tellHome ⟨.tenqArrival, { Arg.reset with k := s.myCtx, a := recHome q, c := recPrio q, w := x }⟩
        (fun s => (s, .next)) s

/-- TPICK (R423): the slot then takes work, at the deque's bottom first. -/
def tpickBody : Body := fun s =>
  match replayPoint s.me with
  | some e => (s, e)
  | none =>
    let free := endTask s.cur s
    (if ctxOpen s s.myCtx then takeWork s.cur (free.onMe fun sl => { sl with phase := 5 }) else free, .left)

/-- TCTR (R421). -/
def tctrBody (b a : Nat) : Body := fun s =>
  let x := s.me.rg a
  let ask := fun (q : List (BitVec 8)) (s : State) =>
    askHome 0 (counterMsg s.cur 0 q x [slice (s.me.rg b) 31 0] s) (fun _ s => (s, .next)) s
  if s.me.phase != 0 then ask [] s
  else match recordOperand true x s with
    | .error e => e
    | .ok (q, s) => match releaseWait s with
      | some e => (s, e)
      | none => ask q s

/-- TDEC (R421). -/
def tdecBody (a : Nat) : Body := fun s =>
  let x := s.me.rg a
  match recordOperand true x s with
  | .error e => e
  | .ok (q, s) => match replayPoint s.me with
    | some e => (s, e)
    | none => tellHome ⟨.tdecArrival, { Arg.reset with k := s.myCtx, a := recHome q, b := recCref q, c := kernelOf s s.cur, w := x }⟩
        (fun s => (s, .next)) s

/-- The checks of WENQ's write: orders 1 to 4 of R217, and the rights of the pages that are mapped (R425). -/
def wenqCheck (k a : Nat) (s : State) : Option (State × Ending) :=
  let u : Span := ⟨a, 64⟩
  match checkAccess k .store 4 [{ u with n := 0 }] s with
  | some e => some e
  | none =>
    let c := coreOf k
    match u.nonCanonical s c with
    | some b => some (s, .trap 0x0e (BitVec.ofNat 64 b))
    | none => match u.straddle s c with
      | some b => some (s, .trap 0x09 (BitVec.ofNat 64 b))
      | none =>
        if !(s.slot k).sv && regionOf s c a == .system then some (s, .trap 0x0e (BitVec.ofNat 64 a))
        else
          let ctx := (s.slot k).bind.ctx
          let barred := (u.pages s c).any fun v => match (walk ctx v s).1 with
            | .leaf e bits =>
              let t := tlbOf ctx v e bits
              !allowed .store (s.slot k).sv t.u t.x t.w t.r
            | .format => true
            | .unmapped _ => false
          if barred then some (s, .trap 0x0e (BitVec.ofNat 64 a)) else none

/-- WENQ (R425). -/
def wenqBody (b a d : Nat) : Body := fun s =>
  let k := s.cur
  let x := s.me.rg a
  let r := s.me.rg d
  match wenqCheck k x.toNat s with
  | some e => e
  | none => match recordOperand false r s with
    | .error e => e
    | .ok (q, s) => match replayPoint s.me with
      | some e => (s, e)
      | none =>
        let l := if regionOf s (coreOf k) x.toNat == .memory then [] else match placeAt k .store s x.toNat with
          | .arr c off => [c, off]
          | .mem _ => []
        let m : Arg := { k := s.myCtx, a := recHome q, b := if buffered s k then s.me.bind.group else 0, c := recPrio q, w := r,
                         u := x, l := l, item := s.me.rv b, bytes := [], sender := 0, seq := 0, sent := 0 }
        tellHome ⟨.wenqArrival, m⟩ (fun s => (s, .next)) (dropParams k [(placeAt k .store s x.toNat, 64)] s)

/-- A request to a slice whose answer is a long-latency result, or, in a commit buffer, one that the slot waits for (R427). -/
def askSlice (page : Nat) (m : Arg) (d : Nat) : Body := fun s =>
  if buffered s s.cur then askHome page ⟨.watchRequestArrival, m⟩ (fun v s => (s.onMe fun sl => sl.wg d v, .next)) s
  else
    let id := s.me.traffic.nextId
    let s := s.onMe fun sl => sl.addPend [⟨0, d⟩] .answer
    (sendMsg s.cur ⟨.watchRequestArrival, { m with a := id + 1 }⟩ s, .next)

/-- WATCH (R426) (DEDUCED, log 39). -/
def watchBody (a d : Nat) : Body := fun s =>
  let k := s.cur
  let x := s.me.rg a
  match loadAtOnce 32 x.toNat 32 s with
  | .error e => e
  | .ok (bs, s) =>
    let addr := (recWord bs 0).toNat
    let nw := slice (recWord bs 3) 4 0
    if slice (recWord bs 2) 5 0 != 0 || slice (recWord bs 3) 63 5 != 0 || nw = 0 || 16 < nw || 64 < addr % 64 + 4 * nw then
      (s, .trap 0x01 x)
    else if addr % 4 != 0 then (s, .trap 0x08 (recWord bs 0))
    else if regionOf s (coreOf k) addr != .memory then (s, .trap 0x09 (recWord bs 0))
    else match checkAccess k .load 4 [⟨addr, 4 * nw⟩] s with
      | some e => e
      | none => match placeAt k .load s addr with
        | .mem pa => askSlice (addr / 8192) { Arg.reset with k := k, c := d, l := [pa / 4, nw, s.myCtx], w := recWord bs 2, u := recWord bs 1 } d s
        | .arr _ _ => (s, .trap 0x09 (recWord bs 0))

/-- UNWATCH (R426). -/
def unwatchBody (a d : Nat) : Body := fun s =>
  askSlice 0 { Arg.reset with k := s.cur, b := 1, c := d, w := s.me.rg a } d s

/-- SPAWN (R423). -/
def execSpawn (a : BitVec 5) (s : State) : Host.Outcome State Fault Refusal := issue (.spawn a) (spawnBody a.toNat) s

/-- JOIN (R424). -/
def execJoin (s : State) : Host.Outcome State Fault Refusal := issue .join joinBody s

/-- TENQ (R421). -/
def execTenq (a : BitVec 5) (s : State) : Host.Outcome State Fault Refusal := issue (.tenq a) (tenqBody a.toNat) s

/-- TPICK (R423). -/
def execTpick (s : State) : Host.Outcome State Fault Refusal := issue .tpick tpickBody s

/-- TCTR (R421). -/
def execTctr (b a : BitVec 5) (s : State) : Host.Outcome State Fault Refusal := issue (.tctr b a) (tctrBody b.toNat a.toNat) s

/-- TDEC (R421). -/
def execTdec (a : BitVec 5) (s : State) : Host.Outcome State Fault Refusal := issue (.tdec a) (tdecBody a.toNat) s

/-- WENQ (R425). -/
def execWenq (b : BitVec 4) (a d : BitVec 5) (s : State) : Host.Outcome State Fault Refusal :=
  issue (.wenq b a d) (wenqBody b.toNat a.toNat d.toNat) s

/-- WATCH (R426). -/
def execWatch (a d : BitVec 5) (s : State) : Host.Outcome State Fault Refusal := issue (.watch a d) (watchBody a.toNat d.toNat) s

/-- UNWATCH (R426). -/
def execUnwatch (a d : BitVec 5) (s : State) : Host.Outcome State Fault Refusal :=
  issue (.unwatch a d) (unwatchBody a.toNat d.toNat) s

end Sys2Proof.Machine
end

