-- ==== Sys2Proof/Machine/Kernel.lean ====
section
/-! DEFINITION. Queues, launches, placement and binding (21_kernel, 23_queue R409 to R415). -/

namespace Sys2Proof.Machine

/-! ### Queues (R409, R410) -/

/-- A queue descriptor. -/
structure QueueDesc where
  base : Nat
  size : Nat
  head : Nat
  tail : Nat
  tie : Nat
  en : Bool
  deriving DecidableEq, Repr

/-- The virtual address of descriptor q of a context. -/
def queueAt (s : State) (ctx q : Nat) : Nat := slice (ctxWord s ctx 4) 63 9 * 512 + 32 * q

/-- A queue descriptor, if its page is mapped; otherwise a fault record is posted. -/
def queueDesc (ctx q : Nat) (s : State) : Option QueueDesc × State :=
  let (r, s) := ctxBytes (clusterOf 0) ctx (queueAt s ctx q) 32 s
  match r with
  | none => (none, ctxFault (clusterOf 0) ctx (queueAt s ctx q) 0xffff false s)
  | some bs =>
    let w := recWord bs
    (some ⟨slice (w 0) 63 6 * 64, 2 ^ slice (w 0) 3 0, slice (w 1) 63 32, slice (w 1) 31 0, slice (w 2) 63 48, (w 2).getLsbD 0⟩, s)

/-- Records appended and not yet taken. -/
def QueueDesc.used (d : QueueDesc) : Nat := (d.tail + 2 ^ 32 - d.head) % 2 ^ 32

/-- The address of record n. -/
def QueueDesc.recordAt (d : QueueDesc) (n : Nat) : Nat := d.base + 64 * (n % d.size)

def queueOf (s : State) (ctx q : Nat) : Queue :=
  match tfind s.ctxs ctx with
  | some c => vget c.queues q ⟨.disabled, none⟩
  | none => ⟨.disabled, none⟩

def onQueue (ctx q : Nat) (f : Queue → Queue) (s : State) : State :=
  s.onCtx ctx fun c => { c with queues := vset c.queues q (f (vget c.queues q ⟨.disabled, none⟩)) }

/-- The state that a queue takes by its descriptor (R410). -/
def queueNext (old : QueueSt) (d : QueueDesc) : QueueSt :=
  if !d.en then .disabled
  else if old = .faulted || d.size < d.used then .faulted
  else if old = .held then .held
  else if d.used = 0 then .empty else .ready

/-- A queue brought up to date with its descriptor; a Faulted one serves nothing more, its head record neither (R410). -/
def refreshQueue (ctx q : Nat) (s : State) : State :=
  match queueDesc ctx q s with
  | (some d, s) => onQueue ctx q (fun x =>
      let st := queueNext x.st d
      { st := st, waiting := if st = .faulted then none else x.waiting }) s
  | (none, s) => s

/-- A count of a queue descriptor written: TAIL at +8, HEAD at +12. -/
def queuePut (ctx q off v : Nat) (s : State) : Bool × State := ctxPut (clusterOf 0) ctx (queueAt s ctx q + off) (bytesLE 4 (v % 2 ^ 32)) s

/-- The firmware is to look at the queues. -/
def wakeFirmware (s : State) : State := s.post (evt .tenantTurn 0 0 0)

/-- A record appended to a queue, if it has a free entry: its sequence number (R403). -/
def appendLaunch (ctx q : Nat) (bs : List (BitVec 8)) (s : State) : Option Nat × State :=
  match queueDesc ctx q s with
  | (none, s) => (none, s)
  | (some d, s) =>
    if d.size ≤ d.used then (none, s)
    else match storeBlock (clusterOf 0) ctx (d.recordAt d.tail) bs s with
      | (some (a, _), s) => (none, ctxFault (clusterOf 0) ctx a 0xffff true s)
      | (none, s) =>
        let (_, s) := queuePut ctx q 8 (d.tail + 1) s
        (some d.tail, wakeFirmware (refreshQueue ctx q s))

/-- DOORBELL (R409): TAIL of queue arg.a of context arg.k becomes arg.w. With arg.b = 1, a launch record of slot arg.c that a
commit buffer held is appended (R404); while its context is being saved, one that finds the queue full stays in the commit buffer
(R236, R403). -/
def execDoorbell (s : State) : Host.Outcome State Fault Refusal :=
  event (fun s =>
    let m := s.arg
    if m.b = 1 then
      match appendLaunch m.k m.a m.bytes s with
      | (some n, s) => answerSlot m.c (BitVec.ofNat 64 n) s
      | (none, s) =>
        if ctxGone s m.k then s
        else if ctxHeld s m.k then s.onGroup (s.slot m.c).bind.group fun g => { g with sent := false }
        else s.post ⟨.doorbell, m⟩
    else if ctxState s m.k = 0 || !hostMay s m.k then s
    else match queuePut m.k m.a 8 (slice m.w 31 0) s with
      | (true, s) => wakeFirmware (refreshQueue m.k m.a s)
      | (false, s) => (ctxFault (clusterOf 0) m.k (queueAt s m.k m.a) 0xffff true s).post ⟨.doorbell, m⟩) s

/-! ### Rectangles (R392, R396) -/

/-- The octets of a rectangle in order of y and then x. -/
def rectOctets (x y w h : Nat) : List Nat := (upTo h).flatMap fun j => (upTo w).map fun i => octetAt (x + i) (y + j)

/-- The retirement word of an octet (R465). -/
def retiredWord (s : State) (o : Nat) : BitVec 32 := tget s.defect o 0

/-- The signature of a rectangle (R392). -/
def signature (s : State) (os : List Nat) : Nat :=
  if os.all fun o => retiredWord s o == 0#32 then 0
  else shake256First8 (os.flatMap fun o => bytesLE 4 (retiredWord s o).toNat)

/-- Candidate origins in a context's partition (R396). -/
def origins (s : State) (ctx w h : Nat) (even : Bool) : List (Nat × Nat) :=
  match tfind s.ctxs ctx with
  | none => []
  | some c =>
    ((upTo (17 - h)).flatMap fun y => (upTo (33 - w)).map fun x => (x, y)).filter fun p =>
      (!even || (p.1 % 2 = 0 && p.2 % 2 = 0)) && (rectOctets p.1 p.2 w h).all fun o => c.clusters.testBit (clusterOf o)

/-- The octet of a unit under quarantine (R461, R464). -/
def unitOctet (u : Nat) : Nat := if u / 65536 = 0 || u / 65536 = 6 then u % 65536 / 8 else u % 65536

/-- Whether a group may be placed on an octet at all: its router is not retired, and no unit of it is under quarantine. -/
def octetFit (s : State) (o : Nat) : Bool := !(retiredWord s o).getLsbD 22 && !(s.quarantine.any fun u => unitOctet u == o)

/-- Whether no unretired group stands on an octet. -/
def octetFree (s : State) (o : Nat) : Bool := !(s.groups.any fun e => e.2.open && (match e.2.st with
  | .saved _ => false
  | _ => true) && e.2.octets.contains o)

/-- Whether another kernel that is still placing reserves an octet (R397). -/
def octetReserved (s : State) (k o : Nat) : Bool :=
  s.kernels.any fun e => e.1 != k && e.2.st == .placing && (rectOctets e.2.ox e.2.oy e.2.w e.2.h).contains o

/-! ### Launch records (R391, R393, R395) -/

def wordsOf (bs : List (BitVec 8)) (n : Nat) : List Word := (upTo n).map (recWord bs)

/-- `n` blocks of 64 bytes, each within a page, through the TLB of octet o if there is one: the bytes, or the address of one that is not
mapped. -/
def readBlocksBy (cl : Nat) (o : Option Nat) (ctx va : Nat) : Nat → State → Except Nat (List (BitVec 8)) × State
  | 0, s => (.ok [], s)
  | n + 1, s =>
    match ctxXlatAt cl o false ctx va s with
    | (none, s) => (.error va, s)
    | (some pa, s) =>
      let (bs, s) := homeBytes pa 64 s
      match readBlocksBy cl o ctx (va + 64) n s with
      | (.ok t, s) => (.ok (bs ++ t), s)
      | r => r

def readBlocks (ctx va n : Nat) (s : State) : Except Nat (List (BitVec 8)) × State := readBlocksBy (clusterOf 0) none ctx va n s

def Launch.word (l : Launch) (i : Nat) : Word := l.r.getD i 0
def Launch.head (l : Launch) (i : Nat) : Word := l.h.getD i 0
def Launch.image (l : Launch) : Nat := (l.word 0).toNat
def Launch.ngrp (l : Launch) : Nat := slice (l.word 2) 63 32
def Launch.t0 (l : Launch) : Nat := slice (l.word 2) 31 0
def Launch.fid (l : Launch) : Nat := slice (l.word 3) 63 48
def Launch.w (l : Launch) : Nat := slice (l.word 3) 47 43 + 1
def Launch.h' (l : Launch) : Nat := slice (l.word 3) 42 39 + 1
def Launch.scope (l : Launch) : Nat := if slice (l.word 3) 35 32 = 0 then slice (l.head 0) 15 12 else slice (l.word 3) 35 32
def Launch.cont (l : Launch) : Bool := (l.word 3).getLsbD 31
def Launch.det (l : Launch) : Bool := (l.word 3).getLsbD 30
def Launch.np (l : Launch) : Bool := (l.word 3).getLsbD 29
def Launch.sv (l : Launch) : Bool := (l.word 3).getLsbD 28
def Launch.scr (l : Launch) : Nat := slice (l.word 3) 27 22
def Launch.stages (l : Launch) : Nat := slice (l.word 3) 21 18 + 1
def Launch.prio (l : Launch) : Nat := slice (l.word 3) 17 16
def Launch.compl (l : Launch) : Nat := slice (l.word 4) 63 6 * 64
def Launch.slots (l : Launch) : Nat := slice (l.head 1) 41 32
def Launch.quad (l : Launch) : Bool := 128 < l.slots
def Launch.imageStages (l : Launch) : Nat := slice (l.head 0) 19 16 + 1
/-- WSZ of window k. -/
def Launch.wsz (l : Launch) (k : Nat) : Nat := if k % 2 = 0 then slice (l.head (4 + k / 2)) 31 0 else slice (l.head (4 + k / 2)) 63 32

/-- Whether every reserved field is zero and every image field in its range (code 0x02). -/
def launchWellFormed (l : Launch) (nvar : Nat) : Bool :=
  slice (l.head 0) 63 32 == 0x6b6e4339 && slice (l.head 0) 31 24 == 1 && 1 ≤ nvar && nvar ≤ 8 &&
  5 ≤ slice (l.head 0) 15 12 && slice (l.head 0) 15 12 ≤ 9 && slice (l.head 0) 11 10 == 0 && slice (l.head 0) 8 6 == 0 &&
  slice (l.head 0) 5 0 ≤ 36 && slice (l.head 1) 63 42 == 0 && slice (l.head 1) 31 0 == 0 && 1 ≤ l.slots && l.slots ≤ 512 &&
  slice (l.head 2) 5 0 == 0 && l.head 3 == 0#64 && ((upTo 8).all fun k => l.wsz k ≤ 65536) &&
  (l.vars.all fun v => v.2.1 % 64 == 0 &&
    (enumFrom 0 v.2.2).all fun e => if e.1 < l.imageStages then e.2 % 2 == 0 else e.2 == 0) &&
  slice (l.word 1) 5 0 == 0 && slice (l.word 3) 38 36 == 0 && slice (l.word 3) 15 0 == 0 && slice (l.word 4) 5 0 == 0 &&
  l.word 5 == 0#64 && l.word 6 == 0#64 && l.word 7 == 0#64

/-- SIG, TOFF and entries of a variant record; none if a reserved field is not zero. -/
def variantOf (bs : List (BitVec 8)) : Option (Nat × Nat × List Nat) :=
  if (bs.drop 16).take 48 |>.all (· == 0#8) then
    some ((recWord bs 0).toNat, slice (recWord bs 1) 31 0, (upTo 16).map fun i => ofBytesLE ((bs.drop (64 + 4 * i)).take 4))
  else none

/-- The queue, or the tied queues, as frontier instances name them (R337, R409). -/
def frontierQueue (ctx q tie : Nat) : Nat := ctx * 2 ^ 17 + (if tie = 0 then q else 2 ^ 16 + tie)

/-- The frontier identifier that takes part in naming an instance. -/
def Launch.instFid (l : Launch) : Nat := if 8 ≤ l.scope then l.fid else 0

/-- The instances of a launch on a rectangle that exist. -/
def launchInsts (s : State) (fq : Nat) (l : Launch) (os : List Nat) : List (Nat × Frontier) :=
  s.frontiers.filter fun e => e.2.queue == fq && e.2.scope == l.scope && e.2.fid == l.instFid &&
    os.any fun o => scopePlace l.scope o == e.2.place

/-- The first ticket of a launch on a rectangle: its own, or by continuation (R336) (DEDUCED, log 40). -/
def firstTicket (s : State) (fq : Nat) (l : Launch) (os : List Nat) : Nat :=
  if l.cont then ((launchInsts s fq l os).map (·.2.lastEnd)).foldl Nat.max 0 else l.t0

/-- A ticket refusal of R336 for a rectangle. -/
def ticketBad (s : State) (fq : Nat) (l : Launch) (os : List Nat) : Bool :=
  2 ^ 32 < firstTicket s fq l os + l.ngrp ||
  (!l.cont && (launchInsts s fq l os).any fun e => !(instTickets s e.1).isEmpty)

/-- The first of some variants that matches a signature. -/
def matchVar (vars : List (Nat × Nat × List Nat)) (sig : Nat) : Option Nat := (enumFrom 0 vars).findSome? fun v =>
  if v.2.1 = sig then some v.1 else none

/-- The origins at which some variant matches, with the variant. -/
def matching (s : State) (ctx : Nat) (l : Launch) : List ((Nat × Nat) × Nat) :=
  (origins s ctx l.w l.h' l.quad).filterMap fun p =>
    (matchVar l.vars (signature s (rectOctets p.1 p.2 l.w l.h'))).map fun v => (p, v)

/-- Whether a rectangle is free for a launch (R396, R397) (DEDUCED, log 56). -/
def rectFree (s : State) (os : List Nat) : Bool := os.all fun o => octetFree s o && !octetReserved s 0 o

/-- The refusal code of a launch whose pages could all be read, 0 for none (R395). -/
def launchCode (s : State) (ctx fq nvar : Nat) (l : Launch) : Nat :=
  let hv := (tfind s.ctxs ctx).elim false (·.hv)
  let ms := matching s ctx l
  let pick := (ms.find? fun m => rectFree s (rectOctets m.1.1 m.1.2 l.w l.h')).or ms.head?
  let declared := fun (k : Nat) => l.wsz k != 0
  if !launchWellFormed l nvar || l.vars.length != nvar || (l.det && !accepted s 16) then 0x02
  else if l.det != (l.head 0).getLsbD 9 then 0x03
  else if 36 < l.scr then 0x04
  else if l.scr < slice (l.head 0) 5 0 then 0x05
  else if (upTo 8).any fun k => let x := l.wt.getD k 0
      if declared k then x == 0#64 || slice x 5 0 != 0 else x != 0#64 then 0x06
  else if l.imageStages < l.stages || l.ngrp = 0 then 0x07
  else if l.scope < 5 || 9 < l.scope || (l.scope = 9 && !accepted s 19) ||
      (match pick with
        | some m => ticketBad s fq l (rectOctets m.1.1 m.1.2 l.w l.h')
        | none => !l.cont && 2 ^ 32 < l.t0 + l.ngrp) then 0x08
  else if l.sv && !hv then 0x09
  else if l.quad && (l.w % 2 = 1 || l.h' % 2 = 1) then 0x0a
  else if ms.isEmpty then 0x0b
  else if ctxDh s ctx && ((121 ≤ l.slots && l.slots ≤ 128) || 480 < l.slots) then 0x0c
  else 0

/-- What the firmware finds of the launch at the head of a queue. -/
inductive Checked where
  | page (va : Nat)
  | refuse (code : Nat) (l : Launch)
  | fine (l : Launch)
  deriving DecidableEq, Repr

/-- R395 for a launch: the record, the header, the variant records and the window table are read in turn. -/
def checkLaunch (ctx q : Nat) (d : QueueDesc) (rec0 : List (BitVec 8)) (s : State) : Checked × State :=
  let l : Launch := ⟨wordsOf rec0 8, [], [], []⟩
  if l.image % 64 != 0 then (.refuse 0x01 l, s)
  else match readBlocks ctx l.image 1 s with
    | (.error a, s) => (.page a, s)
    | (.ok hd, s) =>
      let l := { l with h := wordsOf hd 8 }
      let nvar := slice (l.head 0) 23 20
      match readBlocks ctx (l.image + 64) (2 * Nat.min 8 nvar) s with
      | (.error a, s) => (.page a, s)
      | (.ok vb, s) => match readBlocks ctx (slice (l.word 1) 63 6 * 64) 1 s with
        | (.error a, s) => (.page a, s)
        | (.ok wt, s) =>
          let l := { l with vars := (upTo (Nat.min 8 nvar)).filterMap (fun v => variantOf ((vb.drop (128 * v)).take 128)),
                            wt := wordsOf wt 8 }
          let code := launchCode s ctx (frontierQueue ctx q d.tie) nvar l
          (if code = 0 then .fine l else .refuse code l, s)

/-! ### Taking a launch (R396, R402, R410 to R412) -/

/-- The head record leaves its queue. -/
def dropHead (ctx q : Nat) (d : QueueDesc) (s : State) : State :=
  let (_, s) := queuePut ctx q 12 (d.head + 1) s
  refreshQueue ctx q (onQueue ctx q (fun x => { x with waiting := none, st := if x.st = .held then .ready else x.st }) s)

/-- The firmware is to try again for queue q of a context, after the page of an address (DEDUCED, log 40). -/
def retryLaunch (ctx q : Nat) (l : List Nat) (s : State) : State :=
  s.post ⟨.tenantTurn, { Arg.reset with k := ctx, a := q, b := 2, l := l }⟩

/-- A launch refused with a code: the completion record is written, and the head goes. -/
def refuseLaunch (ctx q : Nat) (d : QueueDesc) (compl seq code : Nat) (s : State) : State :=
  match writeCompletion ctx compl (statusWord 2 code seq) (completionBytes 0 0 []) s with
  | (true, s) => settleCtx ctx (dropHead ctx q d s)
  | (false, s) => s.post ⟨.tenantTurn, { Arg.reset with k := ctx, a := q, b := 3, c := code }⟩

/-- An instance of a launch at a place, made if it does not exist, with the last end ticket of the launch (R337). -/
def takeInst (fq scope fid endT : Nat) (s : State) (place : Nat) : State :=
  match s.frontiers.find? fun e => e.2.queue == fq && e.2.scope == scope && e.2.place == place && e.2.fid == fid with
  | some e => { s with frontiers := tset s.frontiers e.1 { e.2 with lastEnd := endT } }
  | none => { s with frontiers := tset s.frontiers (Nat.max 1 (freeKey s.frontiers)) ⟨fq, scope, place, fid, 0, endT, none⟩ }

/-- A launch placed at an origin: the kernel is made, its rectangle reserved (R402), and its instances know it (R337). -/
def startKernel (ctx q : Nat) (d : QueueDesc) (seq : Nat) (l : Launch) (p : Nat × Nat) (v : Nat) (s : State) : State :=
  let fq := frontierQueue ctx q d.tie
  let os := rectOctets p.1 p.2 l.w l.h'
  let t0 := firstTicket s fq l os
  let var := l.vars.getD v (0, 0, [])
  let base := l.image + var.2.1
  let k := Nat.max 1 (freeKey s.kernels)
  let kn : Kernel :=
    { ctx := ctx, queue := q, seq := seq, st := .placing, image := l.image, var := v, base := base,
      entries := var.2.2.map (base + ·), stages := l.stages, det := l.det, np := l.np, sv := l.sv, scr := l.scr, prio := l.prio,
      ox := p.1, oy := p.2, w := l.w, h := l.h', firstX := p.1, firstY := p.2, tasks := l.slots, ngrp := l.ngrp, placed := 0, retired := 0, t0 := t0,
      scope := l.scope, fid := l.instFid, fq := fq, compl := BitVec.ofNat 64 l.compl, wtab := l.word 1,
      wb := Vector.ofFn fun (i : Fin 8) => l.wt.getD i.val 0,
      wl := Vector.ofFn fun (i : Fin 8) => BitVec.ofNat 64 (l.wsz i.val), charge := 0, disc := 0, sig := var.1 }
  let s := { s with kernels := tset s.kernels k kn }
  let s := (kernelPlaces s k).foldl (takeInst fq l.scope l.instFid (t0 + l.ngrp)) s
  let s := (kernelInsts s k).foldl (fun s i => advance i s) s
  (dropHead ctx q d s).post (evt .groupPlacement k 0 0)

/-- The launch at the head of a queue is checked, once, and placed as soon as a matching candidate is free (R395, R396, R402). `awaited` names the
page for which it has waited, plus 1. A page that the context may not read counts as one that cannot be mapped (DEDUCED, log 40). -/
def tryLaunch (ctx q : Nat) (awaited : List Nat) (s : State) : State :=
  let cl := clusterOf 0
  let page := fun (a seq : Nat) (d : QueueDesc) (compl : Nat) (s : State) =>
    let wait := fun (kind : Nat) (s : State) =>
      if awaited == [a / 8192 + 1] && (missFind s cl ctx (a / 8192)).isNone then refuseLaunch ctx q d compl seq 0x01 s
      else
        let s := if (missFind s cl ctx (a / 8192)).isSome then s else (joinMiss cl ctx a 0xffff kind s).2
        retryLaunch ctx q [a / 8192 + 1] s
    match ownLook (clusterOf 0) none .load ctx a s with
    | (.forbidden, s) | (.format, s) => refuseLaunch ctx q d compl seq 0x01 s
    | (.failed, s) => wait 3 s
    | (_, s) => wait 0 s
  match (queueOf s ctx q).waiting with
  | none => s
  | some t =>
    if !ctxOpen s ctx then s
    else match queueDesc ctx q s with
      | (none, s) => retryLaunch ctx q awaited s
      | (some d, s) =>
        match (if t.record.isEmpty then readBlocks ctx (d.recordAt t.seq) 1 s else (.ok t.record, s)) with
        | (.error a, s) => page a t.seq d 0 s
        | (.ok bs, s) =>
          let s := onQueue ctx q (fun x => { x with waiting := some { t with record := bs } }) s
          match t.checked.elim (checkLaunch ctx q d bs s) (fun l => (Checked.fine l, s)) with
          | (.page a, s) => page a t.seq d (slice (recWord bs 4) 63 6 * 64) s
          | (.refuse code l, s) => refuseLaunch ctx q d l.compl t.seq code s
          | (.fine l, s) =>
            let s := onQueue ctx q (fun x => { x with waiting := some ⟨t.seq, bs, some l⟩ }) s
            match (matching s ctx l).find? fun m => rectFree s (rectOctets m.1.1 m.1.2 l.w l.h') with
            | some m => startKernel ctx q d t.seq l m.1 m.2 s
            | none => s

/-- Whether the firmware may take the head of a queue: it is Ready, and every earlier kernel of it has placed its groups. -/
def queueReady (s : State) (ctx q : Nat) : Bool :=
  (queueOf s ctx q).st == .ready && (queueOf s ctx q).waiting.isNone && ctxOpen s ctx &&
    !(s.kernels.any fun e => e.2.ctx == ctx && e.2.queue == q && kernelPlacing e.2.st)

/-- The Ready queues of a tenant, by 16 * context + queue, in their order. -/
def readyQueues (s : State) (t : Nat) : List Nat :=
  (s.ctxs.filter fun e => e.2.tenant == t).flatMap fun e =>
    ((upTo 16).filter fun q => queueReady s e.1 q).map fun q => 16 * e.1 + q

/-- PRIO of the head record of a queue. -/
def headPrio (s : State) (x : Nat) : Nat :=
  match (queueDesc (x / 16) (x % 16) s).1 with
  | some d => match (ctxNat (clusterOf 0) (x / 16) (d.recordAt d.head + 24) 8 s).1 with
    | some n => n / 2 ^ 16 % 4
    | none => 0
  | none => 0

/-- The queue that is served next: the highest PRIO, ties going to the one after the last served, cyclically (R412). -/
def chooseQueue (s : State) (t : Nat) : Option Nat :=
  let qs := readyQueues s t
  let top := (qs.map (headPrio s)).foldl Nat.max 0
  let cs := qs.filter fun x => headPrio s x == top
  match tfind s.lastQ t with
  | some n => (cs.find? fun x => n < x).or cs.head?
  | none => cs.head?

/-- The head of a tenant's next queue taken; the tenant's turn goes on (R412). -/
def takeFor (t : Nat) (s : State) : State :=
  match chooseQueue s t with
  | none => s
  | some x =>
    match queueDesc (x / 16) (x % 16) s with
    | (none, s) => wakeFirmware s
    | (some d, s) =>
      let s := onQueue (x / 16) (x % 16) (fun y => { y with st := .held, waiting := some ⟨d.head, [], none⟩ }) s
      (tryLaunch (x / 16) (x % 16) [] { s with lastQ := tset s.lastQ t x }).post (evt .tenantTurn t 0 1)

/-- Every queue of the contexts that take work, brought up to date. -/
def refreshAll (s : State) : State :=
  (s.ctxs.filter fun e => ctxOpen s e.1).foldl (fun s e => (upTo 16).foldl (fun s q => refreshQueue e.1 q s) s) s

/-- The next tenant in cyclic order with a Ready queue. -/
def nextTenant (s : State) : Option Nat :=
  ((upTo 64).map fun i => (s.tenant + 1 + i) % 64).find? fun t => !(readyQueues s t).isEmpty

/-- W of a tenant (R412, R470). -/
def tenantWeight (s : State) (t : Nat) : Nat := slice (s.mreg (0x30000 + 8 * t)) 7 0

/-- TENANT_TURN (R412, R472): the next tenant's turn, unless the loop is under way already; with arg.b = 1 tenant arg.k's goes on; with arg.b = 2 the launch that waits
at the head of queue arg.a of context arg.k is looked at again; with arg.b = 3 it is refused with code arg.c once its
completion record can be written. -/
def execTenantTurn (s : State) : Host.Outcome State Fault Refusal :=
  event (fun s =>
    let m := s.arg
    if !(s.mreg 0x40).getLsbD 0 then s
    else if m.b = 2 then tryLaunch m.k m.a m.l s
    else if m.b = 3 then
      match (queueOf s m.k m.a).waiting, queueDesc m.k m.a s with
      | some t, (some d, s) => refuseLaunch m.k m.a d (slice (recWord t.record 4) 63 6 * 64) t.seq m.c s
      | some _, (none, s) => if ctxGone s m.k then s else s.post ⟨.tenantTurn, m⟩
      | none, _ => s
    else if m.b = 0 && s.inflight.any fun x => x.2.ev == .tenantTurn && x.2.arg.b < 2 then s
    else
      let s := refreshAll s
      if m.b = 1 && 0 < tget s.deficits m.k 0 && !(readyQueues s m.k).isEmpty then takeFor m.k s
      else match nextTenant s with
        | none => s
        | some t =>
          let w : Int := ((tenantWeight s t : Nat) : Int)
          let dd := min (tget s.deficits t 0 + w * 2 ^ 16) (w * 2 ^ 20)
          let s := { s with deficits := tset s.deficits t dd, tenant := t }
          if 0 < dd then takeFor t s else wakeFirmware s) s

/-! ### Placement (R397, R402, R413, R415) -/

/-- The rectangle's units in order: the octets, or the leaders of its quads. -/
def kernelUnits (kn : Kernel) : List Nat :=
  if 128 < kn.tasks then (rectOctets kn.ox kn.oy kn.w kn.h).filter fun o => quadLeader o == o else rectOctets kn.ox kn.oy kn.w kn.h

/-- The first unit of a kernel's rectangle on which its next group can stand. -/
def freeUnit (s : State) (kn : Kernel) : Option Nat :=
  (kernelUnits kn).find? fun u => (if 128 < kn.tasks then quadOctets u else [u]).all fun o => octetFree s o && octetFit s o

/-- Cores and slots of each that a group of n tasks takes (R415). -/
def groupShape (quad : Bool) (m n : Nat) : Nat × Nat :=
  let k := if quad then 4 else 1
  let c := (n + k * m - 1) / (k * m)
  (c, (n + k * c - 1) / (k * c))

/-- The slots that tasks of a group take, in the order of R358. -/
def groupSlots (octets : List Nat) (c k n : Nat) : List Nat :=
  (octets.flatMap fun o => (upTo c).flatMap fun i => (upTo k).map fun j => 16 * (8 * o + i) + j).take n

/-- The first spill ring of a context's pool that no group of it has (R346) (DEDUCED, log 39). -/
def freeRing (s : State) (ctx : Nat) : Nat × Nat :=
  let w := ctxWord s ctx 2
  let size := 2 ^ (13 + slice w 5 0)
  let base := slice w 63 6 * 64
  let used := s.groups.filter fun e => e.2.open && (tfind s.kernels e.2.kernel).elim false (·.ctx == ctx)
  let i := ((upTo (used.length + 1)).find? fun i => !(used.any fun e => e.2.ring == base + i * size && e.2.ringSize == size)).getD 0
  (base + i * size, size)

/-- The next group of a kernel placed on a unit, and its bind record written (R397, R413); a placed group no longer counts in the
kernel's other instances (R337). -/
def placeGroup (k : Nat) (kn : Kernel) (u : Nat) (s : State) : State :=
  let quad := decide (128 < kn.tasks)
  let os := if quad then quadOctets u else [u]
  let (c, n) := groupShape quad (if ctxDh s kn.ctx then 15 else 16) kn.tasks
  let stage := kn.placed % kn.stages
  let t := kn.t0 + kn.placed
  let gk := Nat.max 1 (freeKey s.groups)
  let (ring, size) := if kn.det then freeRing s kn.ctx else (0, 0)
  let g : Group :=
    { kernel := k, index := kn.placed, ticket := t, inst := (findInst s kn (scopePlace kn.scope u)).getD 0, st := .placed, octet := u,
      quad := quad, cores := 2 ^ c - 1, slots := groupSlots os c n kn.tasks, toStart := [], live := kn.tasks, entries := [], next := 0,
      held := [], undo := [], stopped := false, sent := false, ring := ring, ringSize := size, inRing := 0, written := 0, cycles := 0, susp := [],
      home := u, passed := [], kept := none, since := 0 }
  let b : Bind :=
    { entry := BitVec.ofNat 64 (kn.entries.getD stage 0), ticket := t, cmask := 2 ^ c - 1, stage := stage, var := kn.var, quad := quad,
      smask := 2 ^ n - 1, wtab := kn.wtab, ctx := kn.ctx, octet := u, index := kn.placed, group := gk }
  let s := { s with groups := tset s.groups gk g }
  let s := s.onCluster (clusterOf u) fun x => { x with binds := x.binds ++ [b] }
  let s := s.onKernel k fun x => { x with placed := x.placed + 1, st := if x.placed + 1 = x.ngrp then .running else x.st }
  let s := (kernelInsts s k).foldl (fun s i => advance i s) s
  let s := if ctxState s kn.ctx = 2 then setCtxState kn.ctx 3 s else s
  let s := s.post (evt .bindRecordDispatch (clusterOf u) 0 0)
  if kn.placed + 1 < kn.ngrp then s.post (evt .groupPlacement k 0 0) else (wakeFirmware s).post (evt .groupPlacement 0 0 0)

/-- Every launch and kernel that waits for octets is looked at. -/
def lookAgain (s : State) : State :=
  let s := s.ctxs.foldl (fun s e => (upTo 16).foldl (fun s q =>
    if (vget e.2.queues q ⟨.disabled, none⟩).waiting.isSome then retryLaunch e.1 q [] s else s) s) s
  s.kernels.foldl (fun s e => if e.2.st == .placing then s.post (evt .groupPlacement e.1 0 0) else s) s

/-- GROUP_PLACEMENT (R397): the next group of kernel arg.k; with arg.k = 0 octets have become free. -/
def execGroupPlacement (s : State) : Host.Outcome State Fault Refusal :=
  event (fun s =>
    let k := s.arg.k
    if k = 0 then lookAgain s
    else match tfind s.kernels k with
      | none => s
      | some kn =>
        if kn.st != .placing || !ctxOpen s kn.ctx || kn.ngrp ≤ kn.placed then s
        else match freeUnit s kn with
          | none => s
          | some u =>
            if 256 ≤ (s.cluster (clusterOf u)).binds.length then s.post (evt .groupPlacement k 0 0)
            else placeGroup k kn u s) s

/-! ### Binding (R398 to R401, R414) -/

/-- Whether a copy that may write the scratchpad of core c is in flight. -/
def scratchBusy (s : State) (c : Nat) : Bool :=
  s.cores.any fun e => e.2.transfer.copies.any fun y =>
    tfind e.2.transfer.tags y.1 == some .inFlight && (e.1 / 8 == c / 8 || y.2.receivers.contains c)

/-- Whether a block holds words to be written back or partials. -/
def blockDirty (l : L1) (b : Block) : Bool := l.words.any fun e => b.has e.1 && e.2.st != .valid

/-- The boundary of core c moved to `new` granules for a context (R400, R401). -/
def moveBoundary (c new ctx : Nat) (s : State) : State :=
  let x := s.core c
  let old := x.spsz / 8192
  let gone := x.l1.blocks.filter fun b => old + b.way < new
  let wb := (gone.filter (blockDirty x.l1)).length
  let s := gone.foldl (fun s b => evictBlock c b s) s
  let kept := if x.lastCtx = ctx then Nat.min old new else 0
  let rec1 := bytesLE 8 (wb * 2 ^ 32 + (gone.length - wb)) ++
    bytesLE 8 ((new - kept) * 2 ^ 40 + old * 2 ^ 32 + new * 2 ^ 24)
  s.onCore c fun y =>
    { y with spsz := 8192 * new, lastCtx := ctx, predict := 8,
             l1 := { y.l1 with blocks := y.l1.blocks.map fun b => { b with way := b.way + old - new } },
             arr := memPut (y.arr.filter fun e => e.1 < 8192 * kept || 0x7c000 ≤ e.1) 0x7c000 rec1 }

/-- A kernel's first group to be bound on core c: windows and boundary (R398, R400). -/
def bindCore (gk k : Nat) (kn : Kernel) (s : State) (c : Nat) : State :=
  let s := if (s.core c).lastKernel = k then s
    else (moveBoundary c kn.scr kn.ctx s).onCore c fun x => { x with lastKernel := k }
  match tfind s.groups gk with
  | some g => (g.slots.filter fun sl => coreOf sl == c).foldl (fun s sl => s.onSlot sl (setWindows kn)) s
  | none => s

/-- The matrix unit of an octet as dispatch of a group leaves it (R306, R310, R311). -/
def resetUnit (s : State) (o : Nat) : State :=
  (octetCores o).foldl (fun s c => s.onCore c fun x => { x with tile := TileCore.reset })
    (s.onOctet o fun x => { x with unit := TileUnit.reset })

/-- The cores of a group, those of its CMASK on each of its octets (R413). -/
def Group.usedCores (g : Group) : List Nat := (g.octets.flatMap octetCores).filter fun c => g.cores.testBit (c % 8)

/-- A group's cores are bound, its octets' matrix units are reset and have F of its instance; its tasks may start. -/
def bindGroup (gk : Nat) (g : Group) (kn : Kernel) (s : State) : State :=
  let s := g.usedCores.foldl (bindCore gk g.kernel kn) s
  let s := g.octets.foldl resetUnit s
  let f := (tfind s.frontiers g.inst).elim 0 (·.f)
  let s := g.octets.foldl (fun s o => s.onOctet o fun x => { x with f := tset x.f g.inst f }) s
  s.onGroup gk fun x => { x with toStart := upTo x.slots.length, since := s.mcyc }

/-- BIND_RECORD_DISPATCH (R414): the oldest bind record of cluster arg.k whose context takes work; it waits for copies that
write a scratchpad whose boundary moves. -/
def dispatchBind (s : State) : State :=
  let cl := s.arg.k
  match (s.cluster cl).binds.find? fun b => ctxOpen s b.ctx with
  | none => s
  | some b =>
    let drop := fun (s : State) => s.onCluster cl fun x => { x with binds := x.binds.erase b }
    match tfind s.groups b.group with
    | none => drop s
    | some g => match tfind s.kernels g.kernel with
      | none => drop s
      | some kn =>
        if g.st != .placed then drop s
        else if g.usedCores.any fun c => (s.core c).lastKernel != g.kernel && scratchBusy s c then
          s.post (evt .bindRecordDispatch cl 0 0)
        else bindGroup b.group g kn (drop s)

/-- BIND_RECORD_DISPATCH (R414). -/
def execBindRecordDispatch (s : State) : Host.Outcome State Fault Refusal := event dispatchBind s

/-! ### KLAUNCH (R403, R404) -/

/-- Whether queue q of a context has a free entry, as its descriptor now stands. -/
def queueHasRoom (s : State) (ctx q : Nat) : Bool :=
  match (queueDesc ctx q s).1 with
  | some d => decide (d.used < d.size)
  | none => false

/-- KLAUNCH once its record is read: the release, and the append when queue q has room. The slot keeps the record while it waits. -/
def klaunchOn (q d : Nat) (bs : List (BitVec 8)) : Body := fun s =>
  let s := s.onMe fun sl => { sl with phase := 6, keep := wordsOf bs 8 }
  match releaseWait s with
  | some e => (s, e)
  | none => match appendLaunch s.myCtx q bs s with
    | (some n, s) => later .loadDataReturn [.g d (BitVec.ofNat 64 n)] 0 s
    | (none, s) => (s, .wait (.queueRoom q))

/-- KLAUNCH. -/
def klaunchBody (b a d : Nat) : Body := fun s =>
  let k := s.cur
  let x := s.me.rg a
  let q := s.me.rg b
  let n := slice q 3 0
  let ask := fun (bs : List (BitVec 8)) =>
    askHome 0 ⟨.doorbell, { Arg.reset with k := s.myCtx, a := n, b := 1, c := k, bytes := bs }⟩ (fun v s => (s.onMe fun sl => sl.wg d v, .next))
  if slice q 63 4 != 0 then (s, .trap 0x01 q)
  else if x.toNat % 64 != 0 then (s, .trap 0x08 x)
  else if s.me.phase = 6 then klaunchOn n d (s.me.keep.flatMap fun w => bytesLE 8 w.toNat) s
  else if s.me.phase != 0 then ask [] s
  else match loadAtOnce 64 x.toNat 64 s with
    | .error e => e
    | .ok (bs, s) => match replayPoint s.me with
      | some e => (s, e)
      | none => if buffered s k then ask bs s else klaunchOn n d bs s

/-- KLAUNCH (R403). -/
def execKlaunch (b a d : BitVec 5) (s : State) : Host.Outcome State Fault Refusal :=
  issue (.klaunch b a d) (klaunchBody b.toNat a.toNat d.toNat) s

end Sys2Proof.Machine
end

