-- ==== Sys2Proof/Machine/Context.lean ====
section
/-! DEFINITION. Contexts: their commands, pre-emption, saving and restoring (24_context, R473), with CTXSAVE and CTXLOAD. -/

namespace Sys2Proof.Machine

/-! ### The slot save area (R435 to R437) -/

/-- Bytes of doublewords. -/
def dwords (ws : List Word) : List (BitVec 8) := ws.flatMap fun w => bytesLE 8 w.toNat

/-- Doubleword at byte offset off of some bytes. -/
def dword (bs : List (BitVec 8)) (off : Nat) : Word := BitVec.ofNat 64 (ofBytesLE ((bs.drop off).take 8))

/-- BIND of a port: the endpoint and connector, Unbound, or the second port of a vector pair. -/
def bindCode (sl : Slot) (p : Nat) : Nat :=
  let x := vget sl.ports p Port.reset
  if x.phase = .unbound then 0xffff
  else if x.vec && p % 2 = 1 then 0xfffe
  else x.ep * 1024 + x.conn % 1024

def bindWord (sl : Slot) (p : Nat) : Word :=
  BitVec.ofNat 64 (((upTo 4).map fun i => bindCode sl (p + i) * 2 ^ (16 * i)).foldl (· + ·) 0)

/-- The header of slot n's area (R436). -/
def areaHeader (sl : Slot) (parked : Bool) (n : Nat) : List Word :=
  let y := sl.sys
  [BitVec.ofNat 64 (2 ^ 63 + 0x1d * 2 ^ 48 + (if parked then 2 else 1) * 16 + n % 16),
   y.cp.src, y.cp.dst, y.cp.ext, y.cp.srs, y.cp.drs, y.cp.flg, y.rnk, y.rnc, y.trec, y.tmr,
   BitVec.ofNat 64 (slice y.tmrc 0 0 * 2 ^ 32 + slice y.pto 31 0), bindWord sl 0, bindWord sl 4, 0, 0]

/-- Predicates from k on, 16 bits each. -/
def predWord (sl : Slot) (k n : Nat) : Nat :=
  ((upTo n).map fun i => (vget sl.p (k + i) 0).toNat * 2 ^ (16 * i)).foldl (· + ·) 0

/-- The block of R437. -/
def areaBlock (sl : Slot) : List Word :=
  let y := sl.sys
  [BitVec.ofNat 64 (predWord sl 1 4), BitVec.ofNat 64 (fullMask sl * 2 ^ 48 + predWord sl 5 3), sl.pc, y.prg,
   BitVec.ofNat 64 (slice y.loop1.lc 63 63 * 2 ^ 25 + slice y.loop0.lc 63 63 * 2 ^ 24 + slice y.cause 7 0 * 2 ^ 16 +
     slice y.mode 3 0 * 2 ^ 12 + slice y.st 11 0),
   y.epc, y.tval, y.tvec, y.escr, y.loop0.ls, y.loop0.le, y.loop1.ls, y.loop1.le,
   BitVec.ofNat 64 (slice y.loop1.lc 31 0 * 2 ^ 32 + slice y.loop0.lc 31 0), 0, 0]

/-- The 1,664 bytes of a slot save area (R435). -/
def slotArea (sl : Slot) (parked : Bool) (n : Nat) : List (BitVec 8) :=
  dwords (areaHeader sl parked n) ++ dwords ((upTo 32).map sl.rg) ++ ((upTo 16).flatMap fun k => vregBytes (sl.rv k)) ++
    dwords ((upTo 8).map sl.rx) ++ dwords ((upTo 8).map fun p => (vget sl.ports p Port.reset).item) ++ dwords (areaBlock sl)

/-- The loop count register of COUNT and H. -/
def lcOf (h count : Nat) : Word := BitVec.ofNat 64 (h * 2 ^ 63 + count)

/-- Port p as an area gives it, for connectors of a context. -/
def areaPort (bs : List (BitVec 8)) (ctx p : Nat) : Port :=
  let code := fun (q : Nat) => slice (dword bs (96 + 8 * (q / 4))) (16 * (q % 4) + 15) (16 * (q % 4))
  let c := if code p = 0xfffe then code (p - 1) else code p
  let vec := code p == 0xfffe || (p % 2 = 0 && code (p + 1) == 0xfffe)
  if c = 0xffff then { Port.reset with item := dword bs (1472 + 8 * p), full := (dword bs 1544).getLsbD (48 + p) }
  else { item := dword bs (1472 + 8 * p), full := (dword bs 1544).getLsbD (48 + p), phase := .idle, conn := 1024 * ctx + c % 1024,
         ep := c / 1024, vec := vec }

/-- The special registers of an area put over those of a slot; reserved bits are zero (R4). -/
def areaSys (bs : List (BitVec 8)) (y : Sys) : Sys :=
  let w := dword bs
  let even := fun (i : Nat) => setBit (w i) 0 false
  let h := w 1568
  { y with prg := w 1560 &&& 0xff000000ffffffff#64, st := setBit (BitVec.ofNat 64 (slice h 11 0)) 8 false, mode := BitVec.ofNat 64 (slice h 15 12), cause := BitVec.ofNat 64 (slice h 23 16),
           epc := even 1576, tval := w 1584, tvec := even 1592, escr := w 1600,
           loop0 := ⟨even 1608, even 1616, lcOf (slice h 24 24) (slice (w 1640) 31 0)⟩,
           loop1 := ⟨even 1624, even 1632, lcOf (slice h 25 25) (slice (w 1640) 63 32)⟩,
           cp := ⟨w 8, w 16, w 24, w 32, w 40, w 48⟩, rnk := w 56, rnc := w 64, trec := w 72, tmr := w 80,
           tmrc := BitVec.ofNat 64 (slice (w 88) 32 32), pto := BitVec.ofNat 64 (slice (w 88) 31 0) }

/-- The state of a save area put over a slot. -/
def fromArea (bs : List (BitVec 8)) (ctx : Nat) (sl : Slot) : Slot :=
  { sl with g := Vector.ofFn fun (i : Fin 32) => if i.val = 0 then 0 else dword bs (128 + 8 * i.val),
            v := Vector.ofFn fun (i : Fin 16) => vregOfBytes ((bs.drop (384 + 64 * i.val)).take 64),
            x := Vector.ofFn fun (i : Fin 8) => dword bs (1408 + 8 * i.val),
            p := Vector.ofFn fun (i : Fin 8) => if i.val = 0 then 0
              else if i.val < 5 then BitVec.ofNat 16 (slice (dword bs 1536) (16 * i.val - 1) (16 * i.val - 16))
              else BitVec.ofNat 16 (slice (dword bs 1544) (16 * i.val - 65) (16 * i.val - 80)),
            ports := Vector.ofFn fun (i : Fin 8) => areaPort bs ctx i.val, pc := dword bs 1552, sys := areaSys bs sl.sys }

/-- Whether STATE of an area says Parked. -/
def areaParked (bs : List (BitVec 8)) : Bool := slice (dword bs 0) 5 4 == 2

/-! ### The core block and the group header (R439) -/

def tagMask (t : Transfer) (p : TagSt → Bool) : Word :=
  (upTo 64).foldl (fun w j => setBit w j (p (tget t.tags j .free))) 0#64

def tagFailed (x : TagSt) : Bool :=
  match x with
  | .error _ _ => true
  | _ => false

/-- Tags of copies whose places in the commit buffer the drain has not reached (R275). -/
def unstarted (t : Transfer) : Word := (upTo 64).foldl (fun w j => setBit w j (match tfind t.copies j with
  | some c => c.entry.isSome && !c.started && tfind t.tags j == some .inFlight
  | none => false)) 0#64

def coreBlock (s : State) (c : Nat) : List (BitVec 8) :=
  let t := (s.core c).transfer
  let chan := fun (k : Nat) => vget t.chans k Channel.reset
  dwords ([tagMask t (fun x => x == .complete || tagFailed x), tagMask t tagFailed, BitVec.ofNat 64 (tileOf s c).wt] ++
    (upTo 4).map (fun k => (chan k).wm) ++
    (upTo 4).flatMap (fun k => [BitVec.ofNat 64 (chan k).base, BitVec.ofNat 64 ((if (chan k).opened then 2 ^ 63 else 0) + (chan k).len)]) ++
    (upTo 8).map (fun k => zext64 (vget t.mb k 0)) ++ [unstarted t] ++ List.replicate 8 0#64 ++
    (upTo 64).flatMap (fun j => match tget t.tags j .free with
      | .error cause a => [BitVec.ofNat 64 cause, a]
      | _ => [0, 0]) ++
    (upTo 16).map (fun j => (s.slot (16 * c + j)).traffic.waited) ++ List.replicate 80 0#64)

/-- The transfer state that a core block gives, over what the C9 kept; the mailboxes have also counted since (R275). -/
def blockTransfer (bs : List (BitVec 8)) (t : Transfer) : Transfer :=
  let w := dword bs
  { t with tags := (upTo 64).filterMap fun j =>
             if (w 8).getLsbD j then some (j, .error (slice (w (256 + 16 * j)) 7 0) (w (264 + 16 * j)))
             else if (w 0).getLsbD j then some (j, .complete)
             else if (w 184).getLsbD j then some (j, .inFlight)
             else none,
           chans := Vector.ofFn fun (i : Fin 4) =>
             { vget t.chans i.val Channel.reset with opened := (w (64 + 16 * i.val)).getLsbD 63, base := (w (56 + 16 * i.val)).toNat,
                                                     len := slice (w (64 + 16 * i.val)) 31 0, wm := w (24 + 8 * i.val) } }

/-- SMASK of a group: the slots of its cores that its tasks take. -/
def Group.smask (g : Group) : Nat := g.slots.foldl (fun m k => m ||| 2 ^ slotNo k) 0

def groupHeader (s : State) (g : Group) (o : Nat) : List (BitVec 8) :=
  let (seq, var, stages) := match tfind s.kernels g.kernel with
    | some kn => (kn.seq, kn.var, kn.stages)
    | none => (0, 0, 1)
  let sqn := ((upTo 4).map fun q => (sparseQ s o q).entries.length * 2 ^ (5 * q + 16)).foldl (· + ·) 0
  let spsz := (s.core (coreOf (g.slots.headD 0))).spsz / 8192
  dwords ([BitVec.ofNat 64 (2 ^ 63 + g.ticket), BitVec.ofNat 64 (seq * 2 ^ 32 + g.index),
    BitVec.ofNat 64 (g.smask * 2 ^ 48 + g.cores * 2 ^ 40 + var * 2 ^ 24 + g.index % Nat.max 1 stages * 2 ^ 20 + if g.quad then 2 ^ 16 else 0),
    BitVec.ofNat 64 (sqn + spsz)] ++ List.replicate 28 0#64)

/-! ### The units of a group's save (R438, R441) -/

/-- The elements of a tile as words, and words as a tile. -/
def tileBytes (t : TileCore) : List (BitVec 8) := (upTo 24576).flatMap fun i => bytesLE 4 (tget t.acc i 0).toNat

def words4 : List (BitVec 8) → List (BitVec 32)
  | a :: b :: c :: d :: t => (d ++ c ++ b ++ a) :: words4 t
  | _ => []

def tileOfBytes (bs : List (BitVec 8)) : Tbl (BitVec 32) := (enumFrom 0 (words4 bs)).filter fun e => e.2 != 0#32

/-- The bytes of a sparsity queue: 512 for each of its 16 entries. -/
def queueBytes (q : SparseQ) : List (BitVec 8) :=
  (upTo 16).flatMap fun j => let e := q.entries.getD j []; (e ++ List.replicate 512 0#8).take 512

/-- The sections of one octet of a group in increasing offset, without the header: offset in the area and bytes. -/
def octetSections (s : State) (g : Group) (o : Nat) : List (Nat × List (BitVec 8)) :=
  let cs := g.usedCores.filter fun c => octetOf c == o
  let size := (s.core (coreOf (g.slots.headD 0))).spsz
  let saved := (g.slots.filter fun k => octetOf (coreOf k) == o).filterMap fun k => match (s.slot k).run with
    | .saved r => some (k, r.isSome)
    | _ => none
  cs.map (fun c => (0x800 + 0x800 * (c % 8), coreBlock s c)) ++
    saved.map (fun e => (0x4800 + 1664 * (e.1 % 128), slotArea (s.slot e.1) e.2 e.1)) ++
    cs.map (fun c => (0x40000 + 0x18000 * (c % 8), tileBytes (tileOf s c))) ++
    (upTo 4).map (fun q => (0x100000 + 0x2000 * q, queueBytes (sparseQ s o q))) ++
    [(0x110000, memBytes (s.octet o).unit.bstore 0 0x180000)] ++
    cs.map (fun c => (0x290000 + size * (c % 8), arrBytes s c 0 size))

/-- The next multiple of 64 KiB. -/
def roundArea (n : Nat) : Nat := (n + 0xffff) / 0x10000 * 0x10000

/-- Offsets of the areas of a group's octets from offset `off` on, and the offset after them (R438, R441). -/
def areaOffsets (size : Nat) : Nat → Nat → List Nat × Nat
  | 0, off => ([], off)
  | n + 1, off => let (t, e) := areaOffsets size n (roundArea (off + 0x290000 + 8 * size)); (off :: t, e)

/-- Units of 64 bytes from an offset of the pool on. -/
def poolUnits : Nat → Nat → List (BitVec 8) → List (Nat × List (BitVec 8))
  | 0, _, _ => []
  | n + 1, off, bs => (off, bs.take 64) :: poolUnits n (off + 64) (bs.drop 64)

def sectionUnits (off : Nat) (bs : List (BitVec 8)) : List (Nat × List (BitVec 8)) := poolUnits (bs.length / 64) off bs

/-- A header's units, the one with VALID last. -/
def headerUnits (off : Nat) (bs : List (BitVec 8)) : List (Nat × List (BitVec 8)) :=
  sectionUnits (off + 64) (bs.drop 64) ++ [(off, bs.take 64)]

/-- Every section of a group's save in the order of writing, as offsets in the pool: each area in turn, the leader's header last. -/
def groupSections (s : State) (g : Group) (offs : List Nat) : List (List (Nat × List (BitVec 8))) :=
  let os := g.octets.zip offs
  let body := fun (e : Nat × Nat) => (octetSections s g e.1).map fun x => sectionUnits (e.2 + x.1) x.2
  let head := fun (e : Nat × Nat) => headerUnits e.2 (groupHeader s g e.1)
  match os with
  | [] => []
  | e :: t => body e ++ (t.flatMap fun x => body x ++ [head x]) ++ [head e]

/-! ### Badger's accesses to a pool (R440) -/

/-- The octet whose context-save engine serves an octet (R465). -/
def badgerOf (s : State) (o : Nat) : Nat :=
  if (retiredWord s o).getLsbD 21 then octetAt (octetX o / 2 * 2 + 1 - octetX o % 2) (octetY o) else o

def poolBase (s : State) (ctx : Nat) : Nat := slice (ctxWord s ctx 7) 63 6 * 64
def poolSize (s : State) (ctx : Nat) : Nat := (ctxWord s ctx 8).toNat

/-- What an access of Badger's came to. -/
inductive Badger where
  | done
  | page
  | full
  deriving DecidableEq, Repr

/-- An unmapped page of the pool, met by the context-save engine of an octet, which SRC names as engine 2 (DESIGN CHOICE, log 67). -/
def poolFault (ctx o va : Nat) (store : Bool) (s : State) : State :=
  let b := badgerOf s o
  ctxFault (clusterOf b) ctx va (0xf000 + 4 * b + 2) store s

/-- The hypervisor pool that holds a context, or is being filled or read for it (R443); bytes written to it. -/
def hyperOf (s : State) (ctx : Nat) : Option Hyper := (tfind s.ctxs ctx).bind (·.hyper)
def hyperPut (ctx off : Nat) (bs : List (BitVec 8)) (s : State) : State :=
  s.onCtx ctx fun c => { c with hyper := c.hyper.map fun h => { h with pool := memPut h.pool off bs } }

/-- Units written in order; how many were written. -/
def putUnits (ctx o : Nat) : List (Nat × List (BitVec 8)) → Nat → State → Badger × Nat × State
  | [], n, s => (.done, n, s)
  | u :: us, n, s =>
    if (hyperOf s ctx).isSome then putUnits ctx o us (n + 1) (hyperPut ctx u.1 u.2 s)
    else match storeBlockBy (clusterOf (badgerOf s o)) (some (badgerOf s o)) homePutBytes ctx (poolBase s ctx + u.1) u.2 s with
    | (none, s) => putUnits ctx o us (n + 1) s
    | (some (a, false), s) => (.page, n, poolFault ctx o a true s)
    | (some (a, true), s) => (.page, n, contextFault ctx 0x0e 0xffff (BitVec.ofNat 64 a) 0 s)

/-- Sections written in order, none that would end beyond the pool (R440). -/
def putSections (ctx o : Nat) : List (List (Nat × List (BitVec 8))) → Nat → State → Badger × Nat × State
  | [], n, s => (.done, n, s)
  | x :: xs, n, s =>
    if (hyperOf s ctx).isNone && x.any fun u => poolSize s ctx < u.1 + 64 then (.full, n, s)
    else match putUnits ctx o x n s with
      | (.done, n, s) => putSections ctx o xs n s
      | r => r

/-- Sections read, each an offset and a number of units: their bytes, unless a page is not mapped. -/
def getSections (ctx o : Nat) : List (Nat × Nat) → List (List (BitVec 8)) → State → Option (List (List (BitVec 8))) × State
  | [], acc, s => (some acc, s)
  | x :: xs, acc, s =>
    match hyperOf s ctx with
    | some h => getSections ctx o xs (acc ++ [memBytes h.pool x.1 (64 * x.2)]) s
    | none => match readBlocksBy (clusterOf (badgerOf s o)) (some (badgerOf s o)) ctx (poolBase s ctx + x.1) x.2 s with
      | (.ok bs, s) => getSections ctx o xs (acc ++ [bs]) s
      | (.error a, s) => (none, poolFault ctx o a false s)

/-! ### The request and the forced saves (R432 to R434) -/

/-- The groups of a context that have not retired. -/
def ctxGroups (s : State) (ctx : Nat) : List (Nat × Group) :=
  s.groups.filter fun e => e.2.open && (tfind s.kernels e.2.kernel).elim false (·.ctx == ctx)

/-- The slots of a context that hold a task. -/
def ctxSlots (s : State) (ctx : Nat) : List Nat :=
  (s.slots.filter fun e => e.2.bind.ctx == ctx && e.2.run != .free).map (·.1)

/-- `prq` of a context set: every slot has its event, and the deadline starts (R430, R432) (DEDUCED, log 42). -/
def requestSave (ctx : Nat) (bySlot auto : Bool) (s : State) : State :=
  let v : SaveSt := ⟨false, bySlot, auto, s.mcyc, [], 0x2000, 0, 0, false, none⟩
  let s := s.onCtx ctx fun c => { c with prq := true, save := some v }
  let s := setCtxState ctx 4 s
  let s := (s.slots.filter fun e => e.2.bind.ctx == ctx).foldl (fun s e => setEvent e.1 s) s
  s.post (evt .preemptDeadline ctx 0 0)

/-- A slot that stands at no instruction in progress is Saved; a parked one issues its instruction again later. It keeps what stands of
the instruction in its group's commit buffer (R236), and the item of an element of GETB that has fired (R296, R347); a COPYP and
a REDT read their descriptors again (R265, R386). -/
def saveNow (parked : Bool) (sl : Slot) : Slot :=
  let mid := slice sl.sys.prg 63 56
  let stays := sl.phase = 3 || (sl.phase = 2 && mid = 8) || (sl.phase = 1 && (match sl.run with
    | .parked .probes | .parked .tile | .parked (.port _) => false
    | .parked (.flushing _) => true
    | _ => sl.keep.isEmpty))
  let sl := if stays then sl else { sl with phase := 0, keep := [], entered := 0 }
  { sl with run := .saved (if parked then some .again else none), traffic := { sl.traffic with xlat := [] } }

/-- A replay's deferred trap, taken before the slot is saved (R158). -/
def replayTrap (k : Nat) (s : State) : State :=
  match (s.slot k).replay with
  | some r => match r.trap with
    | some t => if r.ended then raiseTrap k t.1 t.2 (s.slot k).pc s else s
    | none => s
  | none => s

/-- Whether the entry of slot k is the request that its group's drain has sent and that has no answer yet (R373, R404). -/
def entrySent (s : State) (k : Nat) : Bool :=
  match groupOf s k with
  | some g => g.sent && (g.entries.head?.elim false (·.slot == k))
  | none => false

/-- What a forced save does to a slot for now (R434). A slot that waits for an answer, or whose parked instruction has had its
effect at another unit, first completes that instruction; so does one with a replay in progress (R158) or with the last step of its TMMA
on the array (R331). -/
def forceSlot (s : State) (k : Nat) : State :=
  let s := replayTrap k s
  let sl := s.slot k
  if sl.replaying then s
  else match sl.run with
  | .running => if sl.phase = 2 || sl.phase = listedPhase then s else s.onSlot k (saveNow false)
  | .parked r =>
    let saved := fun (s : State) => (leaveMiss k r s).onSlot k (saveNow true)
    match r with
    | .marker body => if sl.quiet then s.onSlot k fun sl =>
        saveNow false (match body with
          | some a => endOfBody sl a sl.pc
          | none => sl) else s
    | .trapEntry _ _ _ | .faultEntry _ _ _ => s
    | .port _ => withdrawPorts k 5 s
    | .answer => s
    | .commitFull _ => saved (dropCmd k s)
    | .drain _ => if sl.phase = 2 || entrySent s k then s else saved s
    | .tile => if sl.phase = 2 || stepOn s k then s else if sl.phase = 1 then saved (leaveTile k s) else saved s
    | _ => if sl.phase = 2 || sl.phase = listedPhase then s else saved (dropCmd k s)
  | _ => s

/-- Whether a forced save of a slot is complete: nothing of it is on its way. -/
def slotSaved (sl : Slot) : Bool :=
  (match sl.run with
    | .free | .saved _ => true
    | _ => false) && sl.pend.isEmpty && sl.traffic.out.isEmpty && sl.replay.isNone &&
  !(sl.ports.toList.any fun p => p.phase == .withdrawing)

/-- PREEMPT_DEADLINE (R433): context arg.k; every slot is Free or the deadline has passed, and Badger begins. -/
def execPreemptDeadline (s : State) : Host.Outcome State Fault Refusal :=
  event (fun s =>
    let ctx := s.arg.k
    match tfind s.ctxs ctx with
    | none => s
    | some c => match c.save with
      | none => s
      | some v =>
        if c.st != 4 then s
        else if (ctxSlots s ctx).isEmpty || v.since + c.pdl ≤ s.mcyc then
          (setCtxState ctx 5 s).post (evt .groupSave ctx 0 0)
        else s.post (evt .preemptDeadline ctx 0 0)) s

/-! ### Saving a group (R438 to R441) -/

/-- Whether a copy of the group's cores is still on its way, other than one that waits in the commit buffer (R275). -/
def copiesAwaited (s : State) (g : Group) : Bool :=
  g.usedCores.any fun c => (s.core c).transfer.copies.any fun e =>
    tfind (s.core c).transfer.tags e.1 == some .inFlight && !(e.2.entry.isSome && !e.2.started)

/-- Run-list and deque entries of a context on one core moved to its overflow ring: whether all of them could go. -/
def spillCore (ctx : Nat) (acc : Bool × State) (c : Nat) : Bool × State :=
  let x := acc.2.core c
  let acc := (x.runList.filter fun e => e.ctx == ctx).foldl (fun (acc : Bool × State) e =>
    if !acc.1 then acc
    else match spill c ⟨e.record, ctx, 1, e.level, e.since⟩ acc.2 with
      | (.done, s) => (true, s.onCore c fun y => { y with runList := y.runList.erase e })
      | (.full, s) => (false, s)) acc
  let acc := (x.deque.filter fun e => e.ctx == ctx).foldl (fun (acc : Bool × State) e =>
    if !acc.1 then acc
    else match spill c ⟨e.record, ctx, 0, 0, e.since⟩ acc.2 with
      | (.done, s) => (true, s.onCore c fun y => { y with deque := y.deque.erase e })
      | (.full, s) => (false, s)) acc
  (acc.1 && (acc.2.core c).holding.all (·.ctx != ctx), acc.2)

/-- Whether a core whose Badger serves a group stands still (R453). -/
def badgerStopped (s : State) (g : Group) : Bool := (octetCores (badgerOf s g.octet)).any fun c => (s.core c).stopped

/-- The groups that a save writes: those that have started and not retired. -/
def savable (g : Group) : Bool := g.st == .running || g.st == .ended || g.st == .current

/-- Everything of a context is looked at again: its groups, its kernels, and the dispatchers. -/
def pokeCtx (ctx : Nat) (s : State) : State :=
  let s := (ctxGroups s ctx).foldl (fun s e =>
    let s := pokeGroup e.1 s
    if e.2.st = .current && !e.2.entries.isEmpty then s.post (evt .commitDrain e.1 0 0) else s) s
  let s := (match tfind s.ctxs ctx with
    | some c => maskClusters c.clusters
    | none => []).foldl (fun s c => s.post (evt .bindRecordDispatch c 0 0)) s
  let s := (partitionCores s ctx).foldl (fun s c => roomMade c s) s
  wakeFirmware (s.post (evt .groupPlacement 0 0 0))

/-- A Saved slot runs again in its place: a parked instruction is issued again (R440). -/
def unsave (sl : Slot) : Slot :=
  match sl.run with
  | .saved none => { sl with run := .running }
  | .saved (some _) => { sl with run := .parked .again }
  | .stopped (.saved none) => { sl with run := .stopped .running }
  | .stopped (.saved (some _)) => { sl with run := .stopped (.parked .again) }
  | _ => sl

/-- The save pool is exhausted: the context runs again, and the driver has cause 0x1b with the pool's address (R440); a group that
is out of the partition comes back (DEDUCED, log 42). -/
def exhausted (ctx : Nat) (s : State) : State :=
  let s := descPut ctx 80 8 (0x1b * 2 ^ 56 + 0xffff) s
  let s := descPut ctx 88 8 (poolBase s ctx) s
  let s := s.onCtx ctx fun c => { c with prq := false, save := c.save.map fun v => { v with failed := some 0x1b } }
  let s := (ctxSlots s ctx).foldl (fun s k => s.onSlot k unsave) s
  (endCommand ctx 3 0 (pokeCtx ctx (setCtxState ctx 3 s))).post (evt .groupRestore ctx 0 1)

/-- A group's octets released: what the area does not hold is kept for the restore. A group may be out of the partition already (R443). -/
def releaseGroup (s : State) (e : Nat × Group) : State :=
  let g := e.2
  if (match g.st with
    | .saved _ => true
    | _ => false) then s
  else if !savable g then
    s.onGroup e.1 fun g => { g with st := .saved g.st, toStart := [] }
  else
    let cs := g.usedCores
    let kept : Kept := ⟨g.slots.map fun k => (g.slotIndex k, s.slot k),
      cs.map fun c => (g.coreIndex c, ((s.core c).transfer, (tileOf s c).st)),
      g.octets.map fun o => (upTo 4).map fun q => (sparseQ s o q).entries.map (·.length)⟩
    let away := fun (w : WatchEntry) => if g.slots.contains w.slot then { w with slot := savedSlot e.1 (g.slotIndex w.slot) } else w
    let s := { s with watches := s.watches.map away }
    let s := cs.foldl (fun s c => s.onCore c fun x => { x with transfer := Transfer.reset, tile := TileCore.reset, lastKernel := 0 }) s
    let s := g.octets.foldl (fun s o => s.onOctet o fun x => { x with unit := TileUnit.reset }) s
    let s := g.slots.foldl (fun s k => s.setSlot k { Slot.reset with armed := (s.slot k).armed }) s
    s.onGroup e.1 fun g => { g with st := .saved g.st, kept := some kept }

/-- Slots of a context that belong to no group are held in the context block (DEDUCED, log 42). -/
def holdLoose (ctx : Nat) (s : State) : State :=
  let ks := ctxSlots s ctx
  let s := s.onCtx ctx fun c => { c with loose := ks.map fun k => (k, s.slot k) }
  ks.foldl (fun s k => s.setSlot k { Slot.reset with armed := (s.slot k).armed }) s

/-- Slots without a task forget a context that has left the partition. -/
def forgetCtx (ctx : Nat) (s : State) : State :=
  (s.slots.filter fun e => e.2.bind.ctx == ctx && e.2.run == .free).foldl (fun s e =>
    s.onSlot e.1 fun sl => { sl with bind := Binding.reset }) s

/-- A kernel that has not ended is Saved (R402). -/
def saveKernel (kn : Kernel) : Kernel := if kn.st = .placing || kn.st = .running then { kn with st := .saved kn.st } else kn

/-- The kernels of a context, by number. -/
def ctxKernels (s : State) (ctx : Nat) : List Nat := (s.kernels.filter fun e => e.2.ctx == ctx).map (·.1)

/-- The bind records of a context leave the slot tables. -/
def dropBinds (ctx : Nat) (s : State) : State :=
  (upTo 32).foldl (fun s c => s.onCluster c fun x => { x with binds := x.binds.filter fun b => b.ctx != ctx }) s

/-- The descriptor is read by its physical address (R428) (DEDUCED, log 54). -/
def readDesc (ctx : Nat) (s : State) : State :=
  match tfind s.ctxs ctx with
  | none => s
  | some c =>
    let (bs, s) := homeBytes c.desc 128 s
    s.onCtx ctx fun c => { c with words := (upTo 16).map fun i => dword bs (8 * i) }

/-- A restore begins. -/
def startRestore (ctx : Nat) (bySlot : Bool) (s : State) : State :=
  let v : SaveSt := ⟨true, bySlot, false, s.mcyc, [], 0x2000, 0, 1, false, none⟩
  (s.onCtx ctx fun c => { c with save := some { v with groups := (c.save.map (·.groups)).getD [] } }).post (evt .groupRestore ctx 0 0)

/-- The indirection records of a context, by partition core index, leave its cores for the context block (R368, R441). -/
def saveRecords (ctx : Nat) (s : State) : State :=
  (enumFrom 0 (partitionCores s ctx)).foldl (fun s e =>
    let mine := ((s.core e.2).indirect.filter fun x => x.2 == ctx).map (·.1)
    let s := s.onCtx ctx fun c => { c with records := c.records ++ mine.map fun r => (e.1, r, arrBytes s e.2 (0x7f000 + 64 * r) 64) }
    mine.foldl (fun s r => (arrPut e.2 (0x7f000 + 64 * r) (List.replicate 64 0) s).onCore e.2 fun x => { x with indirect := terase x.indirect r }) s) s

/-- They return to the same partition core indices. -/
def restoreRecords (ctx : Nat) (s : State) : State :=
  let back := fun (s : State) (x : Nat × Nat × List (BitVec 8)) => match (partitionCores s ctx)[x.1]? with
    | some c => (arrPut c (0x7f000 + 64 * x.2.1) x.2.2 s).onCore c fun y => { y with indirect := tset y.indirect x.2.1 ctx }
    | none => s
  (((tfind s.ctxs ctx).elim [] (·.records)).foldl back s).onCtx ctx fun c => { c with records := [] }

/-- A context becomes Saved: its partition's octets and slots are released (R430). -/
def becomeSaved (ctx : Nat) (s : State) : State :=
  let s := setCtxState ctx 6 s
  let s := (ctxGroups s ctx).foldl releaseGroup s
  let s := (ctxKernels s ctx).foldl (fun s k => s.onKernel k saveKernel) s
  let s := saveRecords ctx (forgetCtx ctx (holdLoose ctx (dropBinds ctx s)))
  let auto := ((tfind s.ctxs ctx).bind (·.save)).elim false (·.auto)
  let s := s.onCtx ctx fun c => { c with save := c.save.map fun v => { v with finished := true } }
  let s := wakeFirmware (s.post (evt .groupPlacement 0 0 0))
  let s := if (hyperOf s ctx).isSome then s else endCommand ctx 3 0 s
  if auto then startRestore ctx false (readDesc ctx s) else s

/-- The directory's units, doubleword 0 in the last of them: n groups with the offsets of their areas (R441). -/
def directoryUnits (offs : List Nat) : List (Nat × List (BitVec 8)) :=
  let ws := (2 ^ 63 + offs.length) :: offs
  let bs := (ws.map (BitVec.ofNat 64)).flatMap fun w => bytesLE 8 w.toNat
  let n := (bs.length + 63) / 64
  let us := poolUnits n 0 ((bs ++ List.replicate 64 0#8).take (64 * n))
  us.drop 1 ++ us.take 1

/-- A free unit of 64 bytes: the context block's format is the C9's own (DESIGN CHOICE, log 11). -/
def freeUnits : Nat → State → List (BitVec 8) × State
  | 0, s => ([], s)
  | n + 1, s =>
    let (x, s) := s.freshFree
    let (t, s) := freeUnits n s
    (bytesLE 8 (Config.freeWord x).toNat ++ t, s)

/-- The context block and the directory, once every group is saved (DESIGN CHOICE, log 13). -/
def finishSave (ctx : Nat) (v : SaveSt) (s : State) : State :=
  let o := match tfind s.ctxs ctx with
    | some c => 16 * ((maskClusters c.clusters).headD 0)
    | none => 0
  let (bs, s) := freeUnits 8 s
  match putSections ctx o [[(v.offset, bs)], directoryUnits (v.groups.map (·.2))] v.units s with
  | (.full, _, s) => exhausted ctx s
  | (.page, _, s) => s.post (evt .groupSave ctx 0 0)
  | (.done, n, s) =>
    let s := s.onCtx ctx fun c => { c with save := some { v with units := n } }
    becomeSaved ctx s

/-- One group saved: the lists, the commit buffer and the area, in this order (R438). -/
def saveGroup (ctx gk : Nat) (g : Group) (v : SaveSt) (s : State) : State :=
  let again := fun (s : State) => s.post (evt .groupSave ctx 0 0)
  match g.usedCores.foldl (spillCore ctx) (true, s) with
  | (false, s) => again s
  | (true, s) =>
    let s := s.onGroup gk fun x => { x with inRing := x.entries.length, written := x.written + (x.entries.length - x.inRing) }
    let size := (s.core (coreOf (g.slots.headD 0))).spsz
    let (offs, next) := areaOffsets size g.octets.length v.offset
    match putSections ctx g.octet (groupSections s g offs) v.units s with
    | (.full, _, s) => exhausted ctx s
    | (.page, _, s) => again s
    | (.done, n, s) => again (s.onCtx ctx fun c =>
        { c with save := some { v with groups := v.groups ++ [(gk, offs.headD 0)], offset := next, units := n } })

/-- Whether a weight for an indirection record of a context is still on its way (R438). -/
def weightsDue (s : State) (ctx : Nat) : Bool :=
  s.inflight.any fun m => m.2.ev == .weightArrival && m.2.arg.a == ctx && hndInd m.2.arg.w

/-- Whether a record of a context is still on its way to a run list or a deque (R438). -/
def entriesDue (s : State) (ctx : Nat) : Bool :=
  s.inflight.any fun m => (m.2.ev == .stealAnswerArrival && m.2.arg.c == ctx) || (m.2.ev == .tenqArrival && m.2.arg.k == ctx)

/-- The groups that a context's own save has written when it is saved into a hypervisor pool: they are out of its partition (R443). -/
def ownSaved (c : Ctx) : List (Nat × Nat) :=
  match c.hyper with
  | some h => if h.st = 5 then h.save.elim [] (·.groups) else []
  | none => []

/-- GROUP_SAVE (R438): Badger saves the next group of context arg.k once every slot of the context is Free or saved; then the
context block and the directory (DEDUCED, log 42). -/
def execGroupSave (s : State) : Host.Outcome State Fault Refusal :=
  event (fun s =>
    let ctx := s.arg.k
    match tfind s.ctxs ctx with
    | none => s
    | some c => match c.save with
      | none => s
      | some v =>
        if c.st != 5 then s
        else
          let s := (ctxSlots s ctx).foldl forceSlot s
          let again := s.post (evt .groupSave ctx 0 0)
          if !((s.slots.filter fun e => e.2.bind.ctx == ctx).all fun e => slotSaved e.2 && delivered s e.1) ||
              (ctxGroups s ctx).any (fun e => e.2.sent) || weightsDue s ctx || entriesDue s ctx then again
          else match (ctxGroups s ctx).find? fun e => savable e.2 && !((v.groups ++ ownSaved c).any fun x => x.1 == e.1) with
            | some e => if copiesAwaited s e.2 || badgerStopped s e.2 then again else saveGroup ctx e.1 e.2 v s
            | none => finishSave ctx v s) s

/-! ### Restoring (R442) -/

/-- A doubleword of the directory, read by the context-save engine of octet o; none while its page is unmapped. -/
def directoryWord (ctx o i : Nat) (s : State) : Option Nat × State :=
  let a := poolBase s ctx + 8 * i
  match hyperOf s ctx with
  | some h => (some (ofBytesLE (memBytes h.pool (8 * i) 8)), s)
  | none => match ctxXlatAt (clusterOf (badgerOf s o)) (some (badgerOf s o)) false ctx a s with
    | (some pa, s) =>
      let (n, s) := homeNat pa 8 s
      (some n, s)
    | (none, s) => (none, poolFault ctx o a false s)

/-- Whether the directory of a context's pool is valid; none while its page is unmapped. -/
def directoryValid (ctx o : Nat) (s : State) : Option Bool × State :=
  match directoryWord ctx o 0 s with
  | (some n, s) => (some (n / 2 ^ 63 == 1), s)
  | (none, s) => (none, s)

/-- A message that a commit buffer holds, for the new place of its group. -/
def moveMsg (move : Nat → Nat) (m : Msg) : Msg :=
  let core := fun (c : Nat) => move (16 * c) / 16
  match m.ev with
  | .doorbell => { m with arg := { m.arg with c := move m.arg.c } }
  | .counterRequestArrival | .watchRequestArrival | .homeAtomicAccess => { m with arg := { m.arg with k := move m.arg.k } }
  | .weightArrival => { m with arg := { m.arg with k := core m.arg.k } }
  | .wenqArrival => { m with arg := { m.arg with l := (match m.arg.l with
      | c :: t => core c :: t
      | [] => []) } }
  | _ => m

def moveAct (move : Nat → Nat) (a : EntryAct) : EntryAct :=
  match a with
  | .copy core q tag => .copy (move (16 * core) / 16) q tag
  | .msg m w id => .msg (moveMsg move m) w id
  | a => a

def moveEntry (move : Nat → Nat) (e : Entry) : Entry := { e with slot := move e.slot, act := moveAct move e.act }

def moveCopies (move : Nat → Nat) (t : Transfer) : Transfer :=
  { t with copies := t.copies.map fun y => (y.1, { y.2 with slot := move y.2.slot }) }

def moveKept (move : Nat → Nat) (k : Kept) : Kept :=
  { k with cores := k.cores.map fun e => (e.1, (moveCopies move e.2.1, e.2.2)) }

/-- A group moved to the octet o, or to the quad that o leads. -/
def moveGroup (o : Nat) (g : Group) : Group :=
  let old := g.octets
  let new := ({ g with octet := o } : Group).octets
  let move := fun (k : Nat) =>
    if old.contains (octetOf (coreOf k)) then 128 * new.getD (old.findIdx (· == octetOf (coreOf k))) 0 + k % 128 else k
  { g with octet := o, slots := g.slots.map move, entries := g.entries.map (moveEntry move), held := g.held.map (moveEntry move),
           kept := g.kept.map (moveKept move) }

/-- A kernel whose rectangle has moved is taken into the instances that it now touches, and its groups stand in them; the instances it has
left move on (R337) (DEDUCED, log 42). -/
def moveInsts (k : Nat) (old : List Nat) (s : State) : State :=
  match tfind s.kernels k with
  | none => s
  | some kn =>
    let had := old.filterMap fun i => (tfind s.frontiers i).map (·.place)
    let s := ((kernelPlaces s k).filter fun p => !had.contains p).foldl (takeInst kn.fq kn.scope kn.fid (kn.t0 + kn.ngrp)) s
    let s := { s with groups := s.groups.map fun e =>
      if e.2.kernel = k && e.2.open then (e.1, { e.2 with inst := (findInst s kn (scopePlace kn.scope e.2.octet)).getD e.2.inst }) else e }
    (kernelEverInsts s k ++ old).eraseDups.foldl (fun s i => advance i s) s

/-- The connectors of a kernel whose rectangle moves from its origin to p (R301). -/
def moveConns (k : Nat) (kn : Kernel) (p : Nat × Nat) (s : State) : State :=
  { s with conns := s.conns.map fun e =>
      if e.2.ctx = kn.ctx && e.2.kernel = k then (e.1, { e.2 with ox := p.1 + (e.2.ox - kn.ox), oy := p.2 + (e.2.oy - kn.oy) }) else e }

/-- A saved kernel takes a rectangle that its own variant matches, as R396 chooses; its groups and its connectors move with it (R301, R442)
(DEDUCED, log 42). Its slots keep the `mode` they were saved with, also a 1 in bit 3 on a rectangle that touches two dies, for which R77 fixes
the bit only at the launch (DESIGN CHOICE, log 42). -/
def placeSaved (k : Nat) (kn : Kernel) (was : KSt) (s : State) : Option State :=
  let gs := s.groups.filter fun e => e.2.kernel == k && e.2.open
  let move := fun (p : Nat × Nat) (o : Nat) => octetAt (p.1 + (octetX o - kn.ox)) (p.2 + (octetY o - kn.oy))
  match (origins s kn.ctx kn.w kn.h (128 < kn.tasks)).find? fun p =>
      let os := rectOctets p.1 p.2 kn.w kn.h
      signature s os == kn.sig && rectFree s os && gs.all fun e => (moveGroup (move p e.2.octet) e.2).octets.all (octetFit s) with
  | none => none
  | some p =>
    let old := kernelInsts s k
    let s := gs.foldl (fun s e => s.onGroup e.1 fun g => moveGroup (move p g.octet) g)
      (moveConns k kn p (s.onKernel k fun x => { x with ox := p.1, oy := p.2, st := was }))
    some (moveInsts k old s)

/-- The sections of a group's areas that a restore reads: for each octet the header, and for each of its cores the core block,
tile and scratchpad, and the areas of the slots that were saved, and the queues and the B store. -/
def restoreSections (kp : Kept) (size : Nat) (i off : Nat) : List (Nat × Nat) :=
  let cs := (kp.cores.filter fun e => e.1 / 8 == i).map fun e => e.1 % 8
  let ks := (kp.slots.filter fun e => e.1 / 128 == i && e.2.run != .free).map fun e => e.1 % 128
  cs.map (fun c => (off + 0x800 + 0x800 * c, 32)) ++ ks.map (fun k => (off + 0x4800 + 1664 * k, 26)) ++
    cs.map (fun c => (off + 0x40000 + 0x18000 * c, 1536)) ++ (upTo 4).map (fun q => (off + 0x100000 + 0x2000 * q, 128)) ++
    [(off + 0x110000, 24576)] ++ cs.map (fun c => (off + 0x290000 + size * c, size / 64)) ++ [(off, 4)]

/-- A slot put back at its new place from its area, or as it was kept when it held no task; its ports are bound there (R277). -/
def restoreSlot (ctx gk rel k : Nat) (sl : Slot) (area : Option (List (BitVec 8))) (waited : Word) (s : State) : State :=
  let armed := (s.slot k).armed
  let ev := sl.sys.st.getLsbD stEV
  let sl := match area with
    | some bs =>
      let sl := fromArea bs ctx sl
      let sl := if ev then sl.setSt stEV true else sl
      { sl with run := if areaParked bs then .parked .again else .running }
    | none => sl
  let sl := { sl with armed := armed, traffic := { sl.traffic with waited := waited.setWidth 64, since := s.mcyc } }
  let s := s.setSlot k sl
  let back := fun (w : WatchEntry) => if w.slot = savedSlot gk rel then { w with slot := k } else w
  let s := { s with watches := s.watches.map back }
  (upTo 8).foldl (fun s p =>
    let x := vget sl.ports p Port.reset
    if x.phase = .unbound || (x.vec && p % 2 = 1) then s
    else onEndpoint x.conn x.ep (fun y => { y with bound := some (k, p) }) s) s

/-- One octet of a group filled from the bytes of its sections, in the order of `restoreSections`. -/
def restoreOctet (ctx gk : Nat) (g : Group) (kp : Kept) (size i : Nat) (bss : List (List (BitVec 8))) (s : State) : State :=
  let o := g.octets.getD i 0
  let cs := (kp.cores.filter fun e => e.1 / 8 == i)
  let ks := (kp.slots.filter fun e => e.1 / 128 == i && e.2.run != .free).map (·.1)
  let n := cs.length
  let m := ks.length
  let part := fun (j : Nat) => bss.getD j []
  let s := (enumFrom 0 cs).foldl (fun s e =>
    let c := 8 * o + e.2.1 % 8
    let t := blockTransfer (part e.1) e.2.2.1
    let tile : TileCore := ⟨tileOfBytes (part (n + m + e.1)), e.2.2.2, [], slice (dword (part e.1) 16) 3 0⟩
    s.onCore c fun x => { x with transfer := t, tile := tile, lastKernel := g.kernel,
                                 arr := memBlit x.arr 0 size (memPut [] 0 (part (n + m + n + 5 + e.1))) }) s
  let lens := kp.lens.getD i []
  let hdr := part (n + m + n + 5 + n)
  let sq := Vector.ofFn fun (q : Fin 4) =>
    let count := slice (dword hdr 24) (5 * q.val + 20) (5 * q.val + 16)
    let bs := part (n + m + n + q.val)
    let es := (upTo count).map fun j => ((bs.drop (512 * j)).take 512).take (((lens.getD q.val []).getD j 512))
    (⟨es, (es.getLast?.map (·.length)).getD 0⟩ : SparseQ)
  let s := s.onOctet o fun x => { x with unit := ⟨memPut [] 0 (part (n + m + n + 4)), sq, 0, 0, 0⟩ }
  (kp.slots.filter fun e => e.1 / 128 == i).foldl (fun s e =>
    let k := 128 * o + e.1 % 128
    let blk := part (cs.findIdx fun y => y.1 % 8 == e.1 % 128 / 16)
    let area := (enumFrom 0 ks).find? fun y => y.2 == e.1
    restoreSlot ctx gk e.1 k e.2 (area.map fun y => part (n + y.1)) (dword blk (1280 + 8 * (e.1 % 16))) s) s

/-- VALID of each area that a restore has read is cleared. -/
def clearValid (ctx : Nat) (offs : List Nat) (s : State) : State :=
  if (hyperOf s ctx).isSome then offs.foldl (fun s off => hyperPut ctx off (bytesLE 8 0) s) s
  else offs.foldl (fun s off => (storeBlock (clusterOf 0) ctx (poolBase s ctx + off) (bytesLE 8 0) s).2) s

/-- A group put back: boundaries, units, slots; then it is in the state before the save (R340, R442). -/
def restoreGroup (ctx gk off0 : Nat) (g : Group) (kp : Kept) (v : SaveSt) (s : State) : State :=
  let b := s.arg.b
  let again := fun (s : State) => s.post (evt .groupRestore ctx 0 b)
  let places := kp.slots.map fun e => 128 * g.octets.getD (e.1 / 128) 0 + e.1 % 128
  let cores := kp.cores.map fun e => 8 * g.octets.getD (e.1 / 8) 0 + e.1 % 8
  if (places.any fun k => (s.slot k).run != .free) || cores.any (fun c => scratchBusy s c) || badgerStopped s g then again s
  else match getSections ctx g.octet [(off0, 4)] [] s with
    | (none, s) => again s
    | (some hd, s) =>
      let gran := slice (dword (hd.headD []) 24) 5 0
      let size := 8192 * gran
      let offs := (areaOffsets size g.octets.length off0).1
      let secs := (enumFrom 0 offs).map fun e => restoreSections kp size e.1 e.2
      match getSections ctx g.octet secs.flatten [] s with
      | (none, s) => again s
      | (some bss, s) =>
        let s := cores.foldl (fun s c => moveBoundary c gran ctx s) s
        let cut := fun (i : Nat) => (bss.drop ((secs.take i).map (·.length) |>.foldl (· + ·) 0)).take ((secs.getD i []).length)
        let s := (upTo offs.length).foldl (fun s i => restoreOctet ctx gk g kp size i (cut i) s) s
        let f := (tfind s.frontiers g.inst).elim 0 (·.f)
        let s := g.octets.foldl (fun s o => s.onOctet o fun x => { x with f := tset x.f g.inst f }) s
        let slotAreas := (enumFrom 0 offs).flatMap fun e =>
          (kp.slots.filter fun y => y.1 / 128 == e.1 && y.2.run != .free).map fun y => e.2 + 0x4800 + 1664 * (y.1 % 128)
        let s := clearValid ctx (slotAreas ++ offs) s
        let s := s.onGroup gk fun x => { x with kept := none, since := s.mcyc, inRing := x.entries.length, st := (match x.st with
          | .saved w => w
          | w => w) }
        let s := s.onGroup gk fun x => { x with inRing := x.entries.length - Nat.min x.entries.length (bufferRoom s x) }
        let units := (secs.flatten.map (·.2)).foldl (· + ·) 0
        again (s.onCtx ctx fun c => { c with save := some { v with next := v.next + 1, units := v.units + units } })

/-- A group that had not started when its kernel was saved is placed again: its bind record is written anew (R413). -/
def rebind (s : State) (e : Nat × Group) : State :=
  let g := e.2
  match g.st, tfind s.kernels g.kernel with
  | .saved .placed, some kn =>
    let stage := g.index % Nat.max 1 kn.stages
    let b : Bind :=
      { entry := BitVec.ofNat 64 (kn.entries.getD stage 0), ticket := g.ticket, cmask := g.cores, stage := stage, var := kn.var,
        quad := g.quad, smask := g.smask, wtab := kn.wtab, ctx := kn.ctx, octet := g.octet, index := g.index, group := e.1 }
    (s.onGroup e.1 fun x => { x with st := .placed }).onCluster (clusterOf g.octet) fun x => { x with binds := x.binds ++ [b] }
  | _, _ => s

/-- The next saved kernel of a context, with the state before the save. -/
def savedKernel (s : State) (ctx : Nat) : Option (Nat × Kernel × KSt) :=
  s.kernels.findSome? fun e => match e.2.st with
    | .saved w => if e.2.ctx = ctx then some (e.1, e.2, w) else none
    | _ => none

/-- The first step of a restore: the slots and the indirection records of the context block; their places must be free (R442). -/
def restoreBlock (ctx : Nat) (s : State) : State :=
  let loose := (tfind s.ctxs ctx).elim [] (·.loose)
  if loose.any fun e => (s.slot e.1).run != .free then s
  else
    let s := loose.foldl (fun s e => s.setSlot e.1 { unsave e.2 with armed := (s.slot e.1).armed }) s
    restoreRecords ctx (s.onCtx ctx fun c => { c with prq := false, loose := [] })

/-- A context that comes back from a hypervisor pool is in the state in which it was saved, and its own save or restore goes on (R443). -/
def leaveHyper (ctx : Nat) (h : Hyper) (s : State) : State :=
  let s := s.onCtx ctx fun c => { c with save := h.save, prq := h.prq, loose := h.loose, records := h.records, hyper := none }
  let s := setCtxState ctx h.st s
  if h.st = 4 then s.post (evt .preemptDeadline ctx 0 0)
  else if h.st = 5 then s.post (evt .groupSave ctx 0 0)
  else if h.st = 6 then s.post (evt .groupRestore ctx 0 0)
  else pokeCtx ctx s

/-- The last steps of a restore: groups that had not started, and directory doubleword 0; then the context runs (R430, R442). -/
def finishRestore (ctx : Nat) (v : SaveSt) (s : State) : State :=
  let s := clearValid ctx [0] ((ctxGroups s ctx).foldl rebind s)
  match hyperOf s ctx with
  | some h => leaveHyper ctx h s
  | none =>
    let s := s.onCtx ctx fun c => { c with save := some { v with units := v.units + (v.groups.length + 8) / 8, finished := true } }
    endCommand ctx 4 0 (pokeCtx ctx (setCtxState ctx 3 s))

/-- The next step of the restore of a context (R442): the context block, then the next group, in directory order, onto a rectangle for its
kernel, then the kernels without a started group. -/
def restoreStep (ctx : Nat) (c : Ctx) (v : SaveSt) (s : State) : State :=
  let again := fun (s : State) => s.post (evt .groupRestore ctx 0 0)
  let place := fun (k : Nat) (kn : Kernel) (w : KSt) => again ((placeSaved k kn w s).getD s)
  if c.prq then again (restoreBlock ctx s)
  else match v.groups[v.next]? with
    | none => match savedKernel s ctx with
      | some (k, kn, w) => place k kn w
      | none => finishRestore ctx v s
    | some x => match tfind s.groups x.1 with
      | none => again s
      | some g => match g.kept, tfind s.kernels g.kernel with
        | some kp, some kn => match kn.st with
          | .saved w => place g.kernel kn w
          | _ => match directoryWord ctx g.octet (v.next + 1) s with
            | (some off, s) => restoreGroup ctx x.1 off g kp v s
            | (none, s) => again s
        | _, _ => again (s.onCtx ctx fun c => { c with save := some { v with next := v.next + 1 } })

/-- A group that is out of the partition of a context that runs again, with the offset of its area (R440, R443). -/
def groupOut (s : State) (v : SaveSt) : Option (Nat × Nat × Group × Kept) :=
  v.groups.findSome? fun x => (tfind s.groups x.1).bind fun g => match g.st, g.kept with
    | .saved _, some kp => some (x.1, x.2, g, kp)
    | _, _ => none

/-- GROUP_RESTORE (R442): the restore of context arg.k goes on; with arg.b = 1 the save of the context has failed, and the next group that is
out of its partition comes back. -/
def execGroupRestore (s : State) : Host.Outcome State Fault Refusal :=
  event (fun s =>
    let ctx := s.arg.k
    match tfind s.ctxs ctx with
    | none => s
    | some c => match c.save with
      | none => s
      | some v =>
        if s.arg.b = 1 then
          if c.st != 3 then s
          else match groupOut s v with
            | some (gk, off, g, kp) => restoreGroup ctx gk off g kp v s
            | none => s
        else if c.st != 6 || !v.restore || v.finished then s
        else restoreStep ctx c v s) s

/-! ### Commands (R430, R473) -/

/-- A write of `ctxcmd`, reserved bit 8 reading 0 (R4): ignored while a command runs, or from a virtual function; with arg.b = 1 the running command goes on. -/
def ctxcmd (go : Word → State → State) (s : State) : State :=
  if ((s.mreg 0x100).getLsbD 63 && s.arg.b != 1) || s.arg.c != 0 then s
  else
    let v := setSlice (setBit s.arg.w 8 false) 63 56 0
    go v (s.setMreg 0x100 v)

/-- The command has ended with a status. -/
def cmdStatus (v : Word) (n : Nat) (s : State) : State := s.setMreg 0x100 (setSlice v 63 56 n)

/-- A context right after its creation. -/
def Ctx.new (desc tenant : Nat) (hv : Bool) : Ctx :=
  { desc := desc, st := 1, tenant := tenant, hv := hv, clusters := 0, prq := false, pdl := 65536,
    queues := Vector.replicate 16 ⟨.disabled, none⟩, save := none, words := [], ring := [], ringNext := 0, loose := [], records := [],
    lost := [], hyper := none }

/-- CTX_CREATE (R430, R473): the lowest free number; CTXN, HV, TENANT and STATE are written to the descriptor (DEDUCED, log 43). -/
def execCtxCreate (s : State) : Host.Outcome State Fault Refusal :=
  event (ctxcmd fun v s =>
    match (upTo 256).find? fun i => (tfind s.ctxs i).isNone with
    | none => cmdStatus v 2 s
    | some n =>
      let c := Ctx.new (slice (s.mreg 0x108) 63 7 * 128) (slice v 15 10) (v.getLsbD 9)
      let s := { s with ctxs := tset s.ctxs n c }
      let s := descPut n 76 4 (2 ^ 24 + n * 2 ^ 8 + (if c.hv then 2 ^ 6 else 0) + c.tenant) s
      cmdStatus (setSlice v 55 48 n) 0 s) s

/-- Whether a set of clusters holds one that is bound to a context of another tenant. -/
def clustersTaken (s : State) (tenant mask : Nat) : Bool := s.ctxs.any fun e => e.2.tenant != tenant && e.2.clusters &&& mask != 0

/-- CTX_BIND (R430, R473). -/
def execCtxBind (s : State) : Host.Outcome State Fault Refusal :=
  event (ctxcmd fun v s =>
    let n := slice v 55 48
    match tfind s.ctxs n with
    | none => cmdStatus v 1 s
    | some c =>
      let m := slice v 47 16
      if c.st != 1 then cmdStatus v 1 s
      else if m = 0 || clustersTaken s c.tenant m then cmdStatus v 3 s
      else
        let s := readDesc n (s.onCtx n fun c => { c with clusters := m })
        cmdStatus v 0 (wakeFirmware (setCtxState n 2 s))) s

/-- Whether a save or restore of a context is under way. -/
def Ctx.busy (c : Ctx) : Bool :=
  match c.save with
  | some v => !v.finished && v.failed.isNone && (if v.restore then c.st == 6 else c.st == 4 || c.st == 5)
  | none => false

/-- A context that has something to save is saved into a hypervisor pool as it stands: its save or restore stops at an element boundary
(R443) (DEDUCED, log 59). -/
def hyperSave (s : State) (ctx : Nat) : State :=
  match tfind s.ctxs ctx with
  | none => s
  | some c =>
    if c.hyper.isSome || !([2, 3, 4, 5].contains c.st || c.busy) then s
    else
      let h : Hyper := ⟨c.st, c.save, c.prq, c.loose, c.records, []⟩
      let v : SaveSt := ⟨false, false, false, s.mcyc, [], 0x2000, 0, 0, false, none⟩
      let s := s.onCtx ctx fun c => { c with hyper := some h, save := some v, prq := true, loose := [], records := [] }
      (setCtxState ctx 5 s).post (evt .groupSave ctx 0 0)

/-- A context is restored from its hypervisor pool (R443). -/
def hyperRestore (s : State) (ctx : Nat) : State :=
  match tfind s.ctxs ctx with
  | none => s
  | some c => if c.hyper.isSome && c.st = 6 && (c.save.elim false fun v => v.finished && !v.restore) then startRestore ctx false s else s

/-- What the physical function's driver does to every context of a tenant (R443). -/
def onTenant (f : State → Nat → State) (t : Nat) (s : State) : State :=
  ((s.ctxs.filter fun e => e.2.tenant == t).map (·.1)).foldl f s

/-- CTX_SAVE (R473): as CTXSAVE with the deadline in `pdl`; of a context that is already asked to stop, but not by CTXSAVE, it is told the end.
With arg.b = 2 the physical function pre-empts tenant arg.k (R443). -/
def execCtxSave (s : State) : Host.Outcome State Fault Refusal :=
  event (fun s =>
    if s.arg.b = 2 then pfOnly (onTenant hyperSave s.arg.k) s
    else ctxcmd (fun v s =>
      let n := slice v 55 48
      match tfind s.ctxs n with
      | none => cmdStatus v 1 s
      | some c =>
        if c.st = 4 && !(c.save.elim false (·.bySlot)) then
          (cmdStatus v 0x80 s).onCtx n fun c => { c with save := c.save.map fun v => { v with auto := false } }
        else if !(c.st = 2 || c.st = 3) || c.busy then cmdStatus v 1 s
        else requestSave n false false (cmdStatus v 0x80 s)) s) s

/-- CTX_RESTORE (R430, R473): an invalid directory ends it with status 1. With arg.b = 2 the physical function restores tenant arg.k from its
hypervisor pool (R443). -/
def execCtxRestore (s : State) : Host.Outcome State Fault Refusal :=
  event (fun s =>
    if s.arg.b = 2 then pfOnly (onTenant hyperRestore s.arg.k) s
    else ctxcmd (fun v s =>
      let n := slice v 55 48
      match tfind s.ctxs n with
      | none => cmdStatus v 1 s
      | some c =>
        if c.st != 6 || c.busy || c.hyper.isSome then cmdStatus v 1 s
        else match directoryValid n 0 (readDesc n s) with
          | (none, s) => (cmdStatus v 0x80 s).post ⟨.ctxRestore, { s.arg with b := 1 }⟩
          | (some false, s) => cmdStatus v 1 s
          | (some true, s) => startRestore n false (cmdStatus v 0x80 s)) s) s

/-- The indirection records of a context go with it. -/
def clearRecords (ctx : Nat) (s : State) : State :=
  s.cores.foldl (fun s e =>
    let mine := (e.2.indirect.filter fun x => x.2 == ctx).map (·.1)
    mine.foldl (fun s r => (arrPut e.1 (0x7f000 + 64 * r) (List.replicate 64 0) s).onCore e.1 fun x => { x with indirect := terase x.indirect r }) s) s

/-- Whether what is on its way concerns a context, one of its kernels or one of its slots. -/
def ofContext (s : State) (ctx : Nat) (m : Msg) : Bool :=
  let a := m.arg
  match m.ev with
  | .tdecArrival | .tenqArrival | .wenqArrival | .treeNodeCombine | .preemptDeadline | .groupSave | .groupRestore => a.k == ctx
  | .weightArrival => a.a == ctx
  | .counterRequestArrival => a.u.toNat == ctx
  | .watchRequestArrival => a.b != 1 && a.l.getD 2 256 == ctx
  | .stealRequestArrival | .stealAnswerArrival => a.c == ctx
  | .doorbell => a.b == 1 && a.k == ctx
  | .tenantTurn => decide (2 ≤ a.b) && a.k == ctx
  | .kernelAbort => (ctxKernels s ctx).contains a.k
  | .portFire | .offerAcceptArrival | .withdrawalRequestArrival | .withdrawalAck | .portTimeout | .loadDataReturn =>
    s.slots.any fun e => e.1 == a.k && e.2.bind.ctx == ctx
  | _ => false

/-- What belongs to a context goes with it (R430): the breakpoint arms on cores that its tenant has no more (R459), its slots, lists,
kernels, groups, connectors, barriers, trees, watches and cached translations (DEDUCED, log 43). -/
def dropCtx (ctx : Nat) (s : State) : State :=
  let ks := ctxKernels s ctx
  let gs := (s.groups.filter fun e => ks.contains e.2.kernel).map (·.1)
  let s := { s with inflight := s.inflight.filter fun m => !ofContext s ctx m.2 }
  let tenant := (tfind s.ctxs ctx).elim 64 (·.tenant)
  let kept := (s.ctxs.filter fun e => e.1 != ctx && e.2.tenant == tenant).flatMap fun e => partitionCores s e.1
  let left := (partitionCores s ctx).filter fun c => !kept.contains c
  let s : State := { s with slots := s.slots.map fun e => if left.contains (coreOf e.1) then (e.1, { e.2 with armed := false }) else e }
  let s := (s.slots.filter fun e => e.2.bind.ctx == ctx).foldl (fun s e => s.setSlot e.1 { Slot.reset with armed := e.2.armed }) s
  let s : State := { s with slots := s.slots.map fun e => (e.1, { e.2 with ports := e.2.ports.map fun p =>
    if p.phase != .unbound && p.conn / 1024 = ctx then Port.reset else p }) }
  let s := s.cores.foldl (fun s e => s.onCore e.1 fun x =>
    { x with lastCtx := if x.lastCtx = ctx then 256 else x.lastCtx, lastKernel := if ks.contains x.lastKernel then 0 else x.lastKernel,
             runList := x.runList.filter fun r => r.ctx != ctx, deque := x.deque.filter fun r => r.ctx != ctx,
             holding := x.holding.bind fun h => if h.ctx = ctx then none else some h }) s
  let s := clearRecords ctx s
  let s := (upTo 32).foldl (fun s c => s.onCluster c fun x => { x with misses := x.misses.filter fun m => m.ctx != ctx }) (dropBinds ctx s)
  let s := dropConnEvents (fun k => k / 1024 == ctx) (dropTlb ctx 0 (2 ^ 64) s)
  { s with kernels := s.kernels.filter fun e => e.2.ctx != ctx, frontiers := s.frontiers.filter fun e => e.2.queue / 2 ^ 17 != ctx,
           changed := s.changed.filter fun e => !ks.contains e.2.2, spawns := s.spawns.filter fun e => e.1 % 256 != ctx, groups := s.groups.filter fun e => !gs.contains e.1,
           conns := s.conns.filter fun e => e.2.ctx != ctx, bars := s.bars.filter fun e => e.1 / 64 / 512 / 16 != ctx,
           gbars := s.gbars.filter fun e => !ks.contains (e.1 / 64), trees := s.trees.filter fun t => t.ctx != ctx,
           watches := s.watches.filter fun w => w.ctx != ctx, ctxs := terase s.ctxs ctx }

/-- CTX_DESTROY (R430, R473). -/
def execCtxDestroy (s : State) : Host.Outcome State Fault Refusal :=
  event (ctxcmd fun v s =>
    let n := slice v 55 48
    match tfind s.ctxs n with
    | none => cmdStatus v 1 s
    | some c =>
      if [1, 2, 6, 7].contains (c.hyper.elim c.st (·.st)) then
        cmdStatus v 0 ((dropCtx n (setCtxState n 0 s)).post (evt .groupPlacement 0 0 0))
      else cmdStatus v 1 s) s

/-! ### CTXSAVE and CTXLOAD (R444, R445) -/

/-- The tenant of a context. -/
def tenantOf (s : State) (ctx : Nat) : Nat := (tfind s.ctxs ctx).elim 64 (·.tenant)

/-- A CTXSAVE or CTXLOAD issued again with `prg` naming it: the save or restore of its target that it drives. -/
def ownSave (load : Bool) (c : Ctx) : Option SaveSt :=
  match c.save with
  | some v =>
    if v.restore = load && v.bySlot && (v.finished || v.failed.isSome || c.busy) && c.st != 7 then some v else none
  | none => none

/-- The elements of a CTXSAVE or CTXLOAD: each is done when Badger has moved its unit; then the instruction is an acquire. -/
def ctxUnits (mid t : Nat) (v : SaveSt) : Body := fun s =>
  match v.failed with
  | some c => (setPrg 0 s, .trap c (BitVec.ofNat 64 (poolBase s t)))
  | none =>
    if v.finished then
      match acqBody s with
      | (s, .next) => (setPrg 0 s, .next)
      | r => r
    else (setPrg (macroPrg mid v.units) s, .wait (.context t))

/-- The checks of R445 that hold for both instructions, and the target. -/
def ctxTarget (x : Word) (s : State) : Except Nat Ctx :=
  match tfind s.ctxs (slice x 7 0) with
  | none => .error 0x01
  | some c =>
    if slice x 63 8 != 0 then .error 0x01
    else if tenantOf s s.myCtx != c.tenant then .error 0x0e
    else if slice x 7 0 = s.myCtx then .error 0x01
    else .ok c

/-- CTXSAVE. A `prg` that is not 0 must name the save (R445), also one whose MID is 0 (DEDUCED, log 42). -/
def ctxsaveBody (b a : Nat) : Body := fun s =>
  let x := s.me.rg a
  let t := slice x 7 0
  match ctxTarget x s with
  | .error c => (s, .trap c x)
  | .ok c =>
    if c.hyper.isSome then (s, .wait (.context t))
    else if s.me.sys.prg != 0#64 then
      match (if slice s.me.sys.prg 63 56 = 0x09 then ownSave false c else none) with
      | some v => ctxUnits 0x09 t v s
      | none => (s, .trap 0x01 x)
    else if (c.busy && (c.save.elim false (·.bySlot))) || !(c.st = 2 || c.st = 3 || c.st = 4) then (s, .trap 0x01 x)
    else
      let s := if c.st = 4 then s.onCtx t fun c => { c with save := c.save.map fun v => { v with bySlot := true } }
        else requestSave t true false s
      let s := s.onCtx t fun c => { c with pdl := slice (s.me.rg b) 31 0 }
      (setPrg (macroPrg 0x09 0) s, .wait (.context t))

/-- CTXLOAD. A `prg` that is not 0 must name the restore (R445), also one whose MID is 0 (DEDUCED, log 42). -/
def ctxloadBody (a : Nat) : Body := fun s =>
  let x := s.me.rg a
  let t := slice x 7 0
  match ctxTarget x s with
  | .error c => (s, .trap c x)
  | .ok c =>
    if c.hyper.isSome then (s, .wait (.context t))
    else if s.me.sys.prg != 0#64 then
      match (if slice s.me.sys.prg 63 56 = 0x0a then ownSave true c else none) with
      | some v => ctxUnits 0x0a t v s
      | none => (s, .trap 0x01 x)
    else if c.busy || c.st != 6 then (s, .trap 0x01 x)
    else match releaseWait s with
      | some e => (s, e)
      | none => match directoryValid t (octetOf s.myCore) (readDesc t s) with
        | (none, s) => (s, .wait (.pool t))
        | (some false, s) => (s, .trap 0x01 (BitVec.ofNat 64 (poolBase s t)))
        | (some true, s) => (setPrg (macroPrg 0x0a 0) (startRestore t true s), .wait (.context t))

/-- CTXSAVE (R444). -/
def execCtxsave (b a : BitVec 5) (s : State) : Host.Outcome State Fault Refusal :=
  issue (.ctxsave b a) (ctxsaveBody b.toNat a.toNat) s

/-- CTXLOAD (R444). -/
def execCtxload (a : BitVec 5) (s : State) : Host.Outcome State Fault Refusal := issue (.ctxload a) (ctxloadBody a.toNat) s

end Sys2Proof.Machine
end

