-- ==== Sys2Proof/Machine/Halt.lean ====
section
/-! DEFINITION. Stopping and resuming, Owl, errors, quarantine and retirement (27_trap, R475, R478), with HALTP and SELFTEST. -/

namespace Sys2Proof.Machine

/-! ### HALTP and `haltcmd` (R452, R458, R466, R475) -/

/-- The cores of the instance of a span that contains core c, within a context's partition. -/
def spanCores (s : State) (ctx span c : Nat) : List Nat :=
  (partitionCores s ctx).filter fun d => spanPlace span (16 * d) == spanPlace span (16 * c)

/-- HALTP (R466). -/
def haltpBody (a : Nat) : Body := fun s =>
  let x := s.me.rg a
  if !(x == 3 || x == 5 || x == 6 || x == 8) then (s, .trap 0x01 x)
  else match replayPoint s.me with
    | some e => (s, e)
    | none => (stopSpan s.myCtx (spanCores s s.myCtx x.toNat s.myCore) 1 s.myCore s, .next)

/-- HALTP (R466). -/
def execHaltp (a : BitVec 5) (s : State) : Host.Outcome State Fault Refusal := issue (.haltp a) (haltpBody a.toNat) s

/-- Whether a core of a context's partition has a stop that waits for replays (R158). -/
def partitionHalting (s : State) (ctx : Nat) : Bool := (partitionCores s ctx).any fun c => (s.core c).halting.isSome

/-- A span resumes: what its slots could not send during the stop goes out, and its matrix units go on (R453, R457, R458). -/
def resumeCores (cores : List Nat) (s : State) : State :=
  let s := resumeSpan cores s
  let s := (cores.flatMap fun c => (upTo 16).map (16 * c + ·)).foldl (fun s k => settleOut k s) s
  ((cores.map octetOf).eraseDups).foldl (fun s o => postStep o s) s

/-- A write of `haltcmd` for context arg.k, ignored while a command runs: its register keeps the RW fields, and the command ends with a
status, a stop once every core has stopped (R475). -/
def haltcmd (go : Nat → State → Nat × State) : State → State := pfOnly fun s =>
  if (s.mreg 0x200).getLsbD 63 then s
  else
    let (n, s) := if [0, 1, 6, 7].contains (ctxState s s.arg.k) then (2, s) else go s.arg.k s
    s.setMreg 0x200 (setSlice (s.arg.w &&& 0xff00000000ff#64) 63 56 (if n = 0 && partitionHalting s s.arg.k then 0x80 else n))

/-- HALT_STOP (R475). -/
def execHaltStop (s : State) : Host.Outcome State Fault Refusal :=
  event (haltcmd fun ctx s => if partitionStopped s ctx then (1, s) else (0, stopPartition ctx 6 0xffff s)) s

/-- HALT_RESUME (R475). -/
def execHaltResume (s : State) : Host.Outcome State Fault Refusal :=
  event (haltcmd fun ctx s =>
    let cs := partitionCores s ctx
    if cs.any fun c => (s.core c).stopped then (0, resumeCores cs s) else (1, s)) s

/-! ### Owl (R459, R460, R478) -/

def onOwl (f : Owl → Owl) (s : State) : State := { s with owl := f s.owl }

/-- The contexts of a tenant. -/
def tenantCtxs (s : State) (t : Nat) : List Nat := (s.ctxs.filter fun e => e.2.tenant == t).map (·.1)

/-- The cores of a tenant's partitions. -/
def tenantCores (s : State) (t : Nat) : List Nat := (tenantCtxs s t).flatMap (partitionCores s)

/-- Every breakpoint arm dropped: Owl serves one tenant at a time, so that all are that tenant's. -/
def dropArms (s : State) : State :=
  (s.slots.filter fun e => e.2.armed).foldl (fun s e => s.onSlot e.1 fun sl => { sl with armed := false }) s

/-- The fields of `owlcmd` that a write changes (R478). -/
def owlMask : Word := 0x00ffff00ffff00ff#64

/-- A command that Owl performs: `owlcmd` takes arg.w with the code op, unless the write has already started it (arg.b = 1); it
ends with a status. Without feature 21 every code but 1 is refused. -/
def owlCommand (op : Nat) (go : State → Nat × State) (s : State) : State :=
  if s.owl.cmd.getLsbD 63 && s.arg.b != 1 then s
  else
    let v := if s.arg.b = 1 then s.owl.cmd else setSlice (s.arg.w &&& owlMask) 7 0 op
    let s := onOwl (fun o => { o with cmd := v }) s
    let (n, s) := if op != 1 && !accepted s 21 then (1, s) else go s
    onOwl (fun o => { o with cmd := setSlice v 63 56 n }) s

/-- A command for the unlocked tenant: wrong in any other state. -/
def owlUnlocked (op : Nat) (go : Nat → State → Nat × State) (s : State) : State :=
  owlCommand op (fun s => if s.owl.st = 2 then go s.owl.tenant s else (2, s)) s

/-- CORE and the slot that CORE and SLOT name. -/
def owlCore (s : State) : Nat := slice s.owl.cmd 31 20
def owlSlot (s : State) : Nat := 16 * owlCore s + slice s.owl.cmd 19 16

/-- Whether a slot belongs to a tenant. -/
def slotOf (s : State) (t k : Nat) : Bool :=
  (tenantCores s t).contains (coreOf k) && ((s.slot k).run == .free || tenantOf s (s.slot k).bind.ctx == t)

def isStopped (sl : Slot) : Bool :=
  match sl.run with
  | .stopped _ => true
  | _ => false

/-- The session ends: Owl is Locked and the tenant's arms are dropped. -/
def owlLock (s : State) : State :=
  let s := if s.owl.st = 2 then dropArms s else s
  onOwl (fun o => { o with st := 0, tenant := 0 }) s

/-- OWL_SPDM_EXCHANGE (R477, R478): the response arg.bytes comes with the event (DESIGN CHOICE, log 12); with arg.a = 1 the exchange establishes
the secure session, with arg.a = 2 it ends it. -/
def execOwlSpdmExchange (s : State) : Host.Outcome State Fault Refusal :=
  event (owlCommand 1 fun s =>
    let bs := s.arg.bytes.take 2048
    let s := onOwl (fun o => { o with data := memBlit o.data 0 bs.length (memPut [] 0 bs), len := BitVec.ofNat 64 bs.length }) s
    (0, if s.arg.a = 1 && s.owl.st = 0 then onOwl (fun o => { o with st := 1 }) s
      else if s.arg.a = 2 then owlLock s else s)) s

/-- OWL_UNLOCK (R459): whether the credential for TENANT is verified comes with the event, in arg.a (DESIGN CHOICE, log 12). -/
def execOwlUnlock (s : State) : Host.Outcome State Fault Refusal :=
  event (owlCommand 2 fun s =>
    let t := slice s.owl.cmd 47 40
    if s.owl.st != 1 then (2, s)
    else if s.arg.a = 1 then (0, onOwl (fun o => { o with st := 2, tenant := t, unlocks := o.unlocks ++ [t] }) s)
    else (1, onOwl (fun o => { o with fails := Nat.min (o.fails + 1) (2 ^ 32 - 1) }) s)) s

/-- OWL_LOCK (R459). -/
def execOwlLock (s : State) : Host.Outcome State Fault Refusal := event (owlUnlocked 3 fun _ s => (0, owlLock s)) s

/-- OWL_STOP (R452, R478). -/
def execOwlStop (s : State) : Host.Outcome State Fault Refusal :=
  event (owlUnlocked 4 fun t s =>
    let s := (tenantCtxs s t).foldl (fun s c => stopPartition c 2 0xffff s) s
    (if (tenantCtxs s t).any (partitionHalting s) then 0x80 else 0, s)) s

/-- The commands that stop a span end once no stop of it waits any more (R475, R478). -/
def settleStops (s : State) : State :=
  let w := s.mreg 0x200
  let s := if w.getLsbD 63 && !partitionHalting s (slice w 47 40) then s.setMreg 0x200 (setSlice w 63 56 0) else s
  if s.owl.cmd.getLsbD 63 && slice s.owl.cmd 7 0 = 4 && !(tenantCtxs s s.owl.tenant).any (partitionHalting s) then
    onOwl (fun o => { o with cmd := setSlice o.cmd 63 56 0 }) s
  else s

/-- OWL_RESUME (R458, R478): a stop command that still waits for the span has ended (R475). -/
def execOwlResume (s : State) : Host.Outcome State Fault Refusal :=
  event (owlUnlocked 5 fun t s => (0, settleStops (resumeCores (tenantCores s t) s))) s

/-- An arm set or dropped. -/
def owlArm (op : Nat) (on : Bool) (s : State) : State :=
  owlUnlocked op (fun t s =>
    if slotOf s t (owlSlot s) then (0, s.onSlot (owlSlot s) fun sl => { sl with armed := on }) else (1, s)) s

/-- OWL_ARM (R460). -/
def execOwlArm (s : State) : Host.Outcome State Fault Refusal := event (owlArm 6 true) s

/-- OWL_DISARM (R478). -/
def execOwlDisarm (s : State) : Host.Outcome State Fault Refusal := event (owlArm 7 false) s

/-- Whether a stopped slot was parked. -/
def wasParked (sl : Slot) : Bool :=
  match sl.run with
  | .stopped (.parked _) | .stopped (.saved (some _)) => true
  | _ => false

/-- OWL_READ_SLOT (R459, R478). -/
def execOwlReadSlot (s : State) : Host.Outcome State Fault Refusal :=
  event (owlUnlocked 8 fun t s =>
    let k := owlSlot s
    if !slotOf s t k || !isStopped (s.slot k) then (1, s)
    else
      let bs := slotArea (s.slot k) (wasParked (s.slot k)) (slotNo k)
      (0, onOwl (fun o => { o with data := memBlit o.data 0 1664 (memPut [] 0 bs) }) s)) s

/-- A stopped slot written from an area. Its ports keep their bindings and messages; a new `pc` or STATE makes it issue the
instruction there anew. -/
def owlWrite (bs : List (BitVec 8)) (ctx : Nat) (sl : Slot) : Slot :=
  let new := fromArea bs ctx sl
  let ports := Vector.ofFn fun (i : Fin 8) =>
    { vget sl.ports i.val Port.reset with item := (vget new.ports i.val Port.reset).item, full := (vget new.ports i.val Port.reset).full }
  let new := { new with ports := ports }
  if new.pc = sl.pc && areaParked bs == wasParked sl then new
  else { new with run := .stopped (if areaParked bs then .parked .again else .running), phase := 0, keep := [], entered := 0 }

/-- OWL_WRITE_SLOT (R459, R478) (DESIGN CHOICE, log 46). -/
def execOwlWriteSlot (s : State) : Host.Outcome State Fault Refusal :=
  event (owlUnlocked 9 fun t s =>
    let k := owlSlot s
    if !slotOf s t k || !isStopped (s.slot k) then (1, s)
    else (0, s.onSlot k fun sl => owlWrite (memBytes s.owl.data 0 1664) sl.bind.ctx sl)) s

/-- The place of bytes that a memory command names, cut at page boundaries: a local-window address at core CORE, or a virtual
address of context CTX; none where they do not belong to the tenant. -/
def owlPlaces (store : Bool) (t : Nat) : Nat → Nat → Nat → State → Option (List (Place × Nat)) × State
  | 0, _, _, s => (some [], s)
  | fuel + 1, a, n, s =>
    if n = 0 then (some [], s)
    else if localBase ≤ a then
      let off := a - localBase
      let c := owlCore s
      if (tenantCores s t).contains c && (off + n ≤ (s.core c).spsz || (0x7c000 ≤ off && off + n ≤ 0x80000)) then (some [(.arr c off, n)], s)
      else (none, s)
    else
      let ctx := slice s.owl.cmd 55 48
      let m := Nat.min n (8192 - a % 8192)
      if tenantOf s ctx != t then (none, s)
      else match engineLook none true (ownKind store) ctx a s with
        | (.pa pa, s) => if !hasMem pa then (none, s) else match owlPlaces store t fuel (a + m) (n - m) s with
          | (some ps, s) => (some ((.mem pa, m) :: ps), s)
          | r => r
        | (_, s) => (none, s)

/-- A memory command of 1 to 2,048 bytes (DESIGN CHOICE, log 46). -/
def owlMemory (op : Nat) (go : List (Place × Nat) → State → State) (s : State) : State :=
  owlUnlocked op (fun t s =>
    let n := s.owl.len.toNat
    if n = 0 || 2048 < n then (1, s)
    else match owlPlaces (op = 11) t 3 s.owl.addr.toNat n s with
      | (some ps, s) => (0, go ps s)
      | (none, s) => (1, s)) s

/-- OWL_READ_MEMORY (R478). -/
def execOwlReadMemory (s : State) : Host.Outcome State Fault Refusal :=
  event (owlMemory 10 fun ps s =>
    let (bs, s) := ps.foldl (fun (acc : List (BitVec 8) × State) p =>
      match p.1 with
      | .arr c off => (acc.1 ++ arrBytes acc.2 c off p.2, acc.2)
      | .mem pa => let (x, s) := homeBytes pa p.2 acc.2; (acc.1 ++ x, s)) ([], s)
    onOwl (fun o => { o with data := memBlit o.data 0 bs.length (memPut [] 0 bs) }) s) s

/-- OWL_WRITE_MEMORY (R478). -/
def execOwlWriteMemory (s : State) : Host.Outcome State Fault Refusal :=
  event (owlMemory 11 fun ps s =>
    (ps.foldl (fun (acc : Nat × State) p =>
      let bs := memBytes s.owl.data acc.1 p.2
      (acc.1 + p.2, match p.1 with
        | .arr c off => storeArray c off bs acc.2
        | .mem pa => homePutBytes pa bs acc.2)) (0, s)).2) s

/-- OWL_READ_HALT_RECORD (R456, R478). -/
def execOwlReadHaltRecord (s : State) : Host.Outcome State Fault Refusal :=
  event (owlUnlocked 12 fun t s =>
    let c := owlCore s
    if (tenantCores s t).contains c then
      (0, onOwl (fun o => { o with data := memBlit o.data 0 64 (memPut [] 0 (arrBytes s c 0x7c040 64)) }) s)
    else (1, s)) s

/-- `owlstat` (R478). -/
def owlStat (s : State) : Word :=
  BitVec.ofNat 64 (s.owl.st * 2 ^ 62 + (if s.owl.st = 2 then s.owl.tenant % 256 * 2 ^ 40 else 0) + s.owl.fails)

/-- The event that an operation code starts; none for an unknown one. The outcomes of codes 1 and 2 come from outside. -/
def owlEvent (op : Nat) : Option Instr :=
  match op with
  | 1 => some .owlSpdmExchange
  | 2 => some .owlUnlock
  | 3 => some .owlLock
  | 4 => some .owlStop
  | 5 => some .owlResume
  | 6 => some .owlArm
  | 7 => some .owlDisarm
  | 8 => some .owlReadSlot
  | 9 => some .owlWriteSlot
  | 10 => some .owlReadMemory
  | 11 => some .owlWriteMemory
  | 12 => some .owlReadHaltRecord
  | _ => none

/-- A write of a doubleword to Owl's registers. -/
def owlRegister (off : Nat) (v : Word) (s : State) : State :=
  if off = 0x008 then onOwl (fun o => { o with addr := v }) s
  else if off = 0x010 then onOwl (fun o => { o with len := v }) s
  else if 0x800 ≤ off && off < 0x1000 then
    onOwl (fun o => { o with data := memBlit o.data (off - 0x800) 8 (memPut [] 0 (bytesLE 8 v.toNat)) }) s
  else if off != 0 || s.owl.cmd.getLsbD 63 then s
  else match owlEvent (slice v 7 0) with
    | none => onOwl (fun o => { o with cmd := setSlice (v &&& owlMask) 63 56 (if accepted s 21 then 3 else 1) }) s
    | some e =>
      let s := onOwl (fun o => { o with cmd := setSlice (v &&& owlMask) 63 56 0x80 }) s
      if slice v 7 0 ≤ 2 then s else s.post ⟨e, { Arg.reset with b := 1 }⟩

/-! ### Errors, quarantine and retirement (R461 to R465, R467) -/

/-- Kind and number of a unit, and whether there is such a unit (R461). -/
def unitKind (u : Nat) : Nat := u / 65536
def unitNo (u : Nat) : Nat := u % 65536
def unitExists (u : Nat) : Bool := unitKind u ≤ 8 && unitNo u < (if unitKind u = 0 || unitKind u = 6 then 4096 else 512)

/-- The die of a unit. -/
def unitDie (u : Nat) : Nat := dieOfOctet (unitOctet u)

/-- Contexts, none of them Faulted, of which an open group stands on a unit's octet. -/
def unitCtxs (s : State) (u : Nat) : List Nat :=
  ((s.groups.filter fun e => e.2.open && e.2.kept.isNone && e.2.octets.contains (unitOctet u)).filterMap fun e =>
    (tfind s.kernels e.2.kernel).map (·.ctx)).eraseDups.filter fun c => ctxState s c != 7

/-- The contexts whose groups stand on a unit are asked to leave it: those that run, and any other as soon as it does (R464). -/
def leaveUnit (u : Nat) (s : State) : State :=
  (unitCtxs s u).foldl (fun s c => if ctxState s c = 3 then requestSave c false true s else s) s

/-- A unit goes under quarantine: its groups are saved and restored elsewhere, and a self-test is to be run (R464) (DEDUCED, log 42). -/
def quarantineUnit (u : Nat) (s : State) : State :=
  let s := if s.quarantine.contains u then s else { s with quarantine := s.quarantine ++ [u] }
  (leaveUnit u s).post (evt .unitSelftestComplete u 0 0)

/-- ERROR_DETECTED (R461, R462, R464): unit arg.a, class arg.b (0 corrected, 1 uncorrectable data error, 2 hardware error), physical
address arg.w, and in arg.c the slot concerned plus 1, or 0 (DEDUCED, log 47). -/
def errorDetected (s : State) : State :=
  let m := s.arg
  let d := unitDie m.a
  let pa := m.w.toNat
  let s := logError d (Nat.min m.b 2 + 1) pa m.a s
  let s :=
    if m.b = 0 then s
    else if m.b = 1 then
      if m.c != 0 then dataError (m.c - 1) pa s
      else
        let slice := homeSlice pa
        if s.pinned.contains (pa / 64) then s
        else if 16 ≤ (s.pinned.filter fun l => homeSlice (64 * l) == slice).length then
          (s.ctxs.filter fun e => (maskClusters e.2.clusters).any fun c => c / 8 == dieOf slice).foldl
            (fun s e => contextFault e.1 0x1e 0xffff m.w 0 s) s
        else { s with pinned := s.pinned ++ [pa / 64] }
    else if m.c != 0 then faultTrap (m.c - 1) 0x1f (BitVec.ofNat 64 m.a) s
    else s
  quarantineUnit m.a s

/-- ERROR_DETECTED (R461). -/
def execErrorDetected (s : State) : Host.Outcome State Fault Refusal := event errorDetected s

/-- The bit of a retirement word for a unit (R465). -/
def retireBit (u : Nat) : Nat :=
  match unitKind u with
  | 0 => unitNo u % 8
  | 1 => 16
  | 2 => 17
  | 3 => 18
  | 4 => 21
  | 5 => 20
  | 6 => 8 + unitNo u % 8
  | 7 => 19
  | _ => 22

/-- A unit retired: the defect map (R464, R465). -/
def retireUnit (u : Nat) (s : State) : State :=
  let o := unitOctet u
  { s with defect := tset s.defect o (setBit (retiredWord s o) (retireBit u) true) }

/-- A core as its self-test leaves it: what its L1 holds goes home first. -/
def clearCore (c : Nat) (s : State) : State :=
  let s := (s.core c).l1.blocks.foldl (fun s b => evictBlock c b s) s
  let s := (upTo 16).foldl (fun s j => if (s.slot (16 * c + j)).run = .free then s.setSlot (16 * c + j) Slot.reset else s) s
  s.onCore c fun x => { Core.reset with cyc := x.cyc, stopped := x.stopped, halting := x.halting }

/-- Copy engine q of a core as its self-test leaves it: it has no copy. -/
def clearEngine (q : Nat) (x : Transfer) : Transfer :=
  let gone := if q = 0 then x.q0 else x.q1
  { x with q0 := if q = 0 then [] else x.q0, q1 := if q = 0 then x.q1 else [], tags := x.tags.filter fun e => !gone.contains e.1,
           copies := x.copies.filter fun e => !gone.contains e.1 }

/-- The connector engine of octet o as its self-test leaves it: the regions evaluated there have counted nothing, their nodes point at the
first place, and their links hold nothing. -/
def clearResolver (o : Nat) (cn : Connector) : Connector :=
  let here := fun (r : Nat) => (cn.regions[r]?).elim false fun x => resolverOctet cn x == o
  { cn with regions := cn.regions.map fun r => if resolverOctet cn r = o then { r with evals := 0, counts := Vector.replicate 4 0 } else r,
            nodes := cn.nodes.map fun n => if here n.region then { n with ptr := 0 } else n,
            links := cn.links.map fun l => if here l.rb then { l with held := [], places := 0 } else l }

/-- An L2 slice as its self-test leaves it: no word has an owner or a holder, no working line, no watch and no bad line; what the L1s and the
slice hold goes to memory first. -/
def clearSlice (c : Nat) (s : State) : State :=
  let lines := (s.home.map fun e => e.1 / 16) ++ s.work.map (·.1)
  let s := ((lines.filter fun l => homeSlice (64 * l) = c).eraseDups).foldl (fun s l => recallLine l s) s
  { s with work := s.work.filter fun e => homeSlice (64 * e.1) != c, watches := s.watches.filter fun w => w.id / 16 % 4096 != c,
           pinned := s.pinned.filter fun l => homeSlice (64 * l) != c }

/-- A self-test leaves every state of the unit zero (R467); a context-save engine and a router have none between two accesses or messages
(DEDUCED, log 45). -/
def clearUnit (u : Nat) (s : State) : State :=
  let o := unitOctet u
  match unitKind u with
  | 0 => clearCore (unitNo u) s
  | 1 => resetUnit s o
  | 2 | 3 => (octetCores o).foldl (fun s c => onTransfer c (clearEngine (unitKind u - 2)) s) s
  | 5 => { s with conns := s.conns.map fun e => (e.1, clearResolver o e.2) }
  | 6 => clearSlice (unitNo u) s
  | 7 => { s with rdc := s.rdc.filter fun e => rdcOctet (e.1 % 4) (e.1 / 4) != o }
  | _ => s

/-- UNIT_SELFTEST_COMPLETE (R464, R467): the test of unit arg.k ends; arg.b says 1 passed, 2 failed, and with 0 the outcome is a free
value (DESIGN CHOICE, log 12). With arg.c = 0 the management core returns the unit to service or retires it; a SELFTEST of slot arg.c - 1 has its
answer. The test runs once no group stands on the unit. -/
def selftestComplete (s : State) : State :=
  let m := s.arg
  if !s.quarantine.contains m.k then (if m.c = 0 then s else answerSlot (m.c - 1) 2 s)
  else if !(unitCtxs s m.k).isEmpty then (leaveUnit m.k s).post ⟨.unitSelftestComplete, m⟩
  else
    let (n, s) := s.freshFree
    let pass := if m.b = 0 then (Config.freeWord n).getLsbD 0 else m.b == 1
    let s := clearUnit m.k s
    if m.c != 0 then answerSlot (m.c - 1) (bool64 !pass) s
    else
      let s := logError (unitDie m.k) (if pass then 5 else 6) 0 m.k s
      let s := if pass then s else retireUnit m.k s
      ({ s with quarantine := s.quarantine.filter (· != m.k) }).post (evt .groupPlacement 0 0 0)

/-- UNIT_SELFTEST_COMPLETE (R464) (DESIGN CHOICE, log 12). -/
def execUnitSelftestComplete (s : State) : Host.Outcome State Fault Refusal := event selftestComplete s

/-- SELFTEST (R467): a unit that is not quarantined answers 2 at once. -/
def selftestBody (word : Word) (a d : Nat) : Body := fun s =>
  let x := s.me.rg a
  if s.me.phase = 2 then (s.onMe fun sl => sl.wg d (s.me.keep.getD 0 0), .next)
  else if s.me.phase = 1 then (s, .wait .answer)
  else if !ctxHv s s.myCtx then (s, .trap 0x02 word)
  else if slice x 63 20 != 0 || !unitExists x.toNat then (s, .trap 0x01 x)
  else if !s.quarantine.contains x.toNat then later .loadDataReturn [.g d 2] 0 s
  else ((s.onMe fun sl => { sl with phase := 1 }).post (evt .unitSelftestComplete x.toNat 0 (s.cur + 1)), .wait .answer)

/-- SELFTEST (R467). -/
def execSelftest (a d : BitVec 5) (s : State) : Host.Outcome State Fault Refusal :=
  issue (.selftest a d) (fun s => selftestBody (wordOf (.selftest a d) s) a.toNat d.toNat s) s

end Sys2Proof.Machine
end

