-- ==== Sys2Proof/Machine/Link.lean ====
section
/-! DEFINITION. Registers of the management block (R470 to R472, R483 to R485, R88), the receiving side of the scale-out ports
(R481 to R485), reset, start-up and power (R5, R476, R486, R487), and major 0x3f (R61). -/

namespace Sys2Proof.Machine

/-! ### Features, weights and other registers -/

/-- The feature vector that the firmware offers: bits 0 to 21 (R62, R472; DEDUCED, log 3). -/
def featOffered : Word := 0x3fffff#64

/-- FEATLOCK_WRITE (R470, R472): once set, the lock stays until package reset; the firmware may take launches from then on. -/
def execFeatlockWrite (s : State) : Host.Outcome State Fault Refusal :=
  event (pfOnly fun s => wakeFirmware (s.setMreg 0x40 ((s.mreg 0x40 ||| s.arg.w) &&& 1))) s

/-- TWEIGHT_WRITE (R412, R470): a weight of 0 leaves W unchanged. -/
def execTweightWrite (s : State) : Host.Outcome State Fault Refusal :=
  event (pfOnly fun s =>
    if slice s.arg.w 7 0 = 0 then s else s.setMreg (0x30000 + 8 * s.arg.k) (BitVec.ofNat 64 (slice s.arg.w 7 0))) s

/-- Whether the working range [base, lim) lies in memory homed on die d (R88). -/
def rangeOnDie (d base lim : Nat) : Bool :=
  base < lim && hasMem base && hasMem (lim - 1) && homeDie base == d && homeDie (lim - 1) == d

/-- Whether window k of die d, with the base register v, can be enabled (R88, R472). -/
def windowFits (s : State) (d k : Nat) (v : Word) : Bool :=
  let f := s.mreg (winReg d k + 0x10)
  accepted s 20 && (winFormats (fmtOf (slice f 3 0)) (fmtOf (slice f 7 4))).isSome &&
    rangeOnDie d (slice v 51 13 * 8192) (slice (s.mreg (winReg d k + 8)) 51 13 * 8192)

/-- FORMAT_WINDOW_ENABLE (R88): `fwbase` of window arg.a of die arg.k is written with EN = 1. -/
def execFormatWindowEnable (s : State) : Host.Outcome State Fault Refusal :=
  event (pfOnly fun s =>
    let v := s.arg.w &&& 0xfffffffffe000#64
    s.setMreg (winReg s.arg.k s.arg.a) (if windowFits s s.arg.k s.arg.a v then v ||| 1 else v)) s

/-- The bits of a format window's register, by its offset, that a write changes (R87). -/
def windowMask (r : Nat) : Word :=
  match r with
  | 0x00 | 0x08 => 0xfffffffffe000#64
  | 0x10 => 0x1ff#64
  | 0x18 | 0x20 => 0xfffffffffffc0#64
  | 0x28 => 0xffffffff#64
  | _ => 0#64

/-- A register of a format window written without enabling it; a window whose limit or formats no longer fit is disabled (DEDUCED, log 51). -/
def windowWrite (off : Nat) (v : Word) (s : State) : State :=
  let d := (off - 0x20000) / 0x1000
  let k := off % 0x1000 / 0x40
  let s := s.setMreg off (v &&& windowMask (off % 0x40))
  let b := s.mreg (winReg d k)
  if b.getLsbD 0 && !windowFits s d k b then s.setMreg (winReg d k) (setBit b 0 false) else s

/-- The bits of a register of a port's block that a write changes (R483, R484). -/
def portMaskBits (r : Nat) : Word :=
  if r = 0x10 || r = 0x18 then BitVec.allOnes 64
  else if 0x200 ≤ r then
    (if r % 32 < 16 then BitVec.allOnes 64 else if r % 32 = 16 then 0x8000000000000000#64 else 0#64)
  else 0#64

/-- The command registers keep what was written in their RW fields (R473, R475). -/
def keepFields (off : Nat) (mask v : Word) (s : State) : State := s.setMreg off ((s.mreg off &&& ~~~mask) ||| (v &&& mask))

/-- A register of the block written that has no event of its own (R470); where the start-up has failed, only the recovery mailbox is there
(R476). -/
def registerWrite (off : Nat) (v : Word) (s : State) : State :=
  if s.power.boot = 1 then (if off = 0 then { s with power := { s.power with mailbox := v } } else s)
  else if 0x20 ≤ off && off < 0x40 then
    if (s.mreg 0x40).getLsbD 0 then s else s.setMreg off (v &&& s.mreg (off - 0x20))
  else if off = 0x100 then (if (s.mreg 0x100).getLsbD 63 then s else keepFields off 0x00fffffffffffeff#64 v s)
  else if off = 0x108 then s.setMreg off v
  else if off = 0x200 then (if (s.mreg 0x200).getLsbD 63 then s else keepFields off 0xff00000000ff#64 v s)
  else if 0x10000 ≤ off && off < 0x14000 && off % 0x1000 = 0 then s.setMreg off v
  else if 0x20000 ≤ off && off < 0x24000 && off % 0x1000 < 0x400 then windowWrite off v s
  else if 0x31000 ≤ off && off < 0x35000 then
    let r := off % 0x400
    if portMaskBits r = 0#64 || (r < 0x200 && (s.mreg (off - r)).getLsbD 3) then s
    else s.setMreg off (v &&& portMaskBits r)
  else s

/-- REGISTER_WRITE (R470, R471, R478): arg.w at offset arg.a of the block, or, with arg.b = 1, of Owl's registers. With arg.b = 2 a slot's
store of some bytes of a register has arrived. -/
def execRegisterWrite (s : State) : Host.Outcome State Fault Refusal :=
  event (fun s =>
    if s.arg.b = 2 then registerPut s.arg.a s.arg.bytes s
    else if s.arg.b = 1 then owlRegister s.arg.a s.arg.w s else pfOnly (fun s => registerWrite s.arg.a s.arg.w s) s) s

/-! ### What the host reads (R468, R470, R476, R478) -/

/-- A doubleword of Owl's registers. -/
def owlRead (off : Nat) (s : State) : Word :=
  if off = 0 then s.owl.cmd
  else if off = 0x008 then s.owl.addr
  else if off = 0x010 then s.owl.len
  else if off = 0x018 then owlStat s
  else if 0x800 ≤ off && off < 0x1000 then BitVec.ofNat 64 (ofBytesLE (memBytes s.owl.data (off - 0x800) 8))
  else 0

/-- The context whose fault-queue head or flush register lies at an offset of the block. -/
def tenantRegister (off : Nat) : Option Nat := if 0x8000 ≤ off && off < 0x9000 then some ((off - 0x8000) / 16) else none

/-- What function n of the host reads at an aligned offset of its BAR0: 0 and 1 to 64 the physical function 0 and the virtual functions, 65 the
physical function 1. A virtual function's reads outside its own registers are zero; so are all while the machine has not started, but for
the recovery mailbox (R468, R476). -/
def hostRead (n off : Nat) (s : State) : Word × State :=
  if s.power.boot != 2 then (if n = 0 && s.power.boot = 1 && off = 0 then s.power.mailbox else 0, s)
  else if n = 0 then registerRead off s
  else if n = 65 then (owlRead off s, s)
  else match tenantRegister off with
    | some ctx => if (tfind s.ctxs ctx).elim false fun x => x.tenant + 1 == n && !x.hv then registerRead off s else (0, s)
    | none => (0, s)

/-! ### Ports and the stream table (R483 to R485) -/

/-- The TRANSPORT that a write selects: one that the driver has not accepted is none. -/
def transportOf (s : State) (n : Nat) : Nat := if (n = 1 && accepted s 17) || (n = 2 && accepted s 18) then n else 0

/-- PORTCFG_WRITE (R483): `portcfg` of port arg.k. With EN = 1 only EN changes. -/
def execPortcfgWrite (s : State) : Host.Outcome State Fault Refusal :=
  event (pfOnly fun s =>
    let r := portReg s.arg.k
    let old := s.mreg r
    if old.getLsbD 3 then s.setMreg r (setBit old 3 (s.arg.w.getLsbD 3))
    else s.setMreg r (setSlice (s.arg.w &&& 0xffffff0008#64) 1 0 (transportOf s (slice s.arg.w 1 0)))) s

/-- Whether a loaded connector or a running fleet instance uses entry n (R485). -/
def entryUsed (s : State) (n : Nat) : Bool :=
  streamValid s n &&
    (if streamDir s n = 2 then
      s.frontiers.any fun e => e.2.scope == 9 && e.2.fid == streamNo s n && !(instTickets s e.1).isEmpty
    else
      s.conns.any fun e => e.2.ctx == streamCtx s n && e.2.links.any fun l =>
        l.stream == streamNo s n && (if streamDir s n = 0 then isRemote l.dst else isRemote l.src) &&
        streamFor s (streamDir s n) e.2.ctx l.stream == some n)

/-- STREAM_TABLE_WRITE (R485): half arg.a of entry arg.k. -/
def execStreamTableWrite (s : State) : Host.Outcome State Fault Refusal :=
  event (pfOnly fun s =>
    if entryUsed s s.arg.k then s
    else s.setMreg (0x38000 + 16 * s.arg.k + 8 * s.arg.a)
      (s.arg.w &&& (if s.arg.a = 0 then 0xffffffffffff000f#64 else 0xffffffffffffffdf#64))) s

/-- PORT_LINK_TRAINED (R483): the link of port arg.k trains, or, with arg.b = 0, is lost. -/
def execPortLinkTrained (s : State) : Host.Outcome State Fault Refusal :=
  event (fun s => showPort s.arg.k (s.onPort s.arg.k fun x => { x with up := s.arg.b != 0 })) s

/-! ### Receiving (R481, R482, R485) -/

/-- A payload's stream and tag as one number (DESIGN CHOICE, log 34). -/
def Payload.flow (x : Payload) : Nat := x.stream + 2 ^ 16 * x.tag

/-- The payload that bytes make (R481). -/
def payloadOf (bs : List (BitVec 8)) : Payload :=
  let lo := ofBytesLE (bs.take 8)
  let hi := ofBytesLE ((bs.drop 8).take 8)
  { stream := lo % 2 ^ 16, tag := lo / 2 ^ 16 % 2 ^ 16, seq := lo / 2 ^ 32, kind := hi % 2 ^ 8,
    body := (bs.drop 16).take (hi / 2 ^ 8 % 2 ^ 16) }

/-- Whether a payload is the next of its stream at a port. -/
def isNext (x : PortLink) (y : Payload) : Bool := y.seq == tget x.next y.flow 0

/-- A delivery is due at a port when its queue holds the next payload of a stream. -/
def deliverDue (p : Nat) (s : State) : State :=
  if (s.port p).queue.any (isNext (s.port p)) then s.post (evt .streamPayloadDelivery p 0 0) else s

/-- PAYLOAD_RECEIVE (R481 to R483): the payload of bytes arg.bytes, in packets of JobID arg.a, reaches port arg.k. A port that is off discards
it, and one of another job does not accept it; a full queue lets it wait; one that has come before is dropped. -/
def execPayloadReceive (s : State) : Host.Outcome State Fault Refusal :=
  event (fun s =>
    let p := s.arg.k
    let x := s.port p
    let y := payloadOf s.arg.bytes
    if !portOn s p || s.arg.a != portJob s p then s
    else if 4096 ≤ x.queue.length then s.post ⟨.payloadReceive, s.arg⟩
    else if 2 ^ 31 ≤ (y.seq + 2 ^ 32 - tget x.next y.flow 0) % 2 ^ 32 || x.queue.any (fun z => z.flow == y.flow && z.seq == y.seq) then s
    else deliverDue p (s.onPort p fun x => { x with queue := x.queue ++ [y] })) s

/-- An entry of die 0's error log whose KIND the spec does not give (R481, R485, R487) (DESIGN CHOICE, log 34). -/
def logOpen (s : State) : State :=
  let (n, s) := s.freshFree
  logError 0 ((Config.freeWord n).toNat % 256) 0 ((Config.freeWord n).toNat / 256 % 2 ^ 20) s

/-- A payload discarded, counted and logged (R481, R485). -/
def discardPayload (p : Nat) (s : State) : State := logOpen (dropPayload p s)

/-- The entry to which a payload of a direction goes: its PORT, STREAM and TAG match (R485). -/
def entryFor (s : State) (dir p : Nat) (y : Payload) : Option Nat :=
  (upTo 2048).find? fun n =>
    streamValid s n && streamDir s n == dir && streamPort s n == p && streamNo s n == y.stream && streamTag s n == y.tag

/-- The remote end of a stream in a context: connector, link number and link. -/
def remoteEnd (s : State) (ctx stream : Nat) (imported : Bool) : Option (Nat × Nat × Link) :=
  s.conns.findSome? fun e =>
    if e.2.ctx = ctx then
      ((enumFrom 0 e.2.links).find? fun l => l.2.stream == stream && isRemote (if imported then l.2.src else l.2.dst)).map
        fun l => (e.1, l.1, l.2)
    else none

/-- The resolver evaluations of the region of a link. -/
def evalsOf (s : State) (ck r : Nat) : Nat :=
  match tfind s.conns ck with
  | some cn => ((cn.regions[r]?).map (·.evals)).getD 0
  | none => 0

/-- Whether an item of n bytes has the width of a link's class (R281). -/
def widthFits (s : State) (ck : Nat) (l : Link) (n : Nat) : Bool :=
  match tfind s.conns ck with
  | some cn => n == (if linkVector cn l then 64 else 8)
  | none => false

/-- A connector item is put into its ring (R282): whether it could be, and the state. A LOSSY link discards one that finds no room (R278)
(DEDUCED, log 34). -/
def deliverItem (p : Nat) (y : Payload) (s : State) : Bool × State :=
  match entryFor s 1 p y with
  | none => (true, discardPayload p s)
  | some n => match remoteEnd s (streamCtx s n) y.stream true with
    | none => (true, discardPayload p s)
    | some (ck, i, l) =>
      if !widthFits s ck l y.body.length then (true, countRegion ck l.rb 3 s)
      else if streamRingSize s n ≤ l.held.length then (if l.kind = lkLossy then (true, countRegion ck l.rb 3 s) else (false, s))
      else
        let a := streamRing s n + 64 * ((l.places + l.held.length) % streamRingSize s n)
        match ctxPut (clusterOf 0) (streamCtx s n) a ((y.body ++ List.replicate 64 0).take 64) s with
        | (true, s) =>
          (true, postEval ck l.rb (onLink ck i (fun z =>
            { z with held := z.held ++ [(vregOfBytes ((y.body ++ List.replicate 64 0).take 64), evalsOf s ck l.rb)] }) s))
        | (false, s) => (false, ctxFault (clusterOf 0) (streamCtx s n) a 0xffff true s)

/-- A credit frees a place of its export end (R485). -/
def deliverCredit (p : Nat) (y : Payload) (s : State) : State :=
  match entryFor s 0 p y with
  | none => discardPayload p s
  | some n => match remoteEnd s (streamCtx s n) y.stream false with
    | none => discardPayload p s
    | some (ck, i, l) => postEval ck l.ra (onLink ck i (fun z => { z with places := z.places - 1 }) s)

/-- A frontier advance of another package: F and its copies move forward only, and never past a ticket of this package that has not
retired (R337, R338, R482) (DEDUCED, log 33). -/
def deliverAdvance (p : Nat) (y : Payload) (s : State) : State :=
  match entryFor s 2 p y with
  | none => discardPayload p s
  | some _ =>
    (s.frontiers.filter fun e => e.2.scope == 9 && e.2.fid == y.stream).foldl (fun s e =>
      let f := (instTickets s e.1).foldl Nat.min (ofBytesLE (y.body.take 8))
      if f ≤ e.2.f then s
      else
        let s := { s with frontiers := tset s.frontiers e.1 { e.2 with f := f } }
        let s := (instOctets s e.1).foldl (fun s o => s.post (evt .frontierAdvanceDelivery o e.1 f)) s
        (s.groups.filter fun g => g.2.inst == e.1).foldl makeCurrent s) s

/-- What a payload does at its receiver, by its kind (R481, R485): whether it is delivered. No rule says what copy data does there: it is
taken, neither discarded nor counted, and has no effect (DESIGN CHOICE, log 34). -/
def deliverPayload (p : Nat) (y : Payload) (s : State) : Bool × State :=
  match y.kind with
  | 1 => deliverItem p y s
  | 2 => (true, deliverCredit p y s)
  | 3 => (true, deliverAdvance p y s)
  | 4 => (true, s)
  | _ => (true, discardPayload p s)

/-- STREAM_PAYLOAD_DELIVERY (R482, R485): the oldest payload of port arg.k that is the next of its stream is delivered. One whose ring
has no mapped page or no room stays, and others go first. -/
def execStreamPayloadDelivery (s : State) : Host.Outcome State Fault Refusal :=
  event (fun s =>
    let p := s.arg.k
    match (s.port p).queue.find? (isNext (s.port p)) with
    | none => s
    | some y =>
      let (done, s) := deliverPayload p y s
      let s := s.onPort p fun x =>
        if done then { x with queue := x.queue.erase y, next := tset x.next y.flow ((y.seq + 1) % 2 ^ 32) }
        else { x with queue := x.queue.erase y ++ [y] }
      deliverDue p s) s

/-! ### Reset, start-up and power -/

/-- The machine after a package reset: the defect map is in flash (R465), and what the outside world does next is not the machine's
(DESIGN CHOICE, log 4). -/
def resetPackage (s : State) : State :=
  { State.reset with defect := s.defect, inputs := s.inputs, sentOut := s.sentOut, free := s.free }

/-- PACKAGE_RESET (R5). -/
def execPackageReset (s : State) : Host.Outcome State Fault Refusal := event resetPackage s

/-- POWER_UP_SEQUENCE (R476): arg.a = 1 says that the firmware's signature is good, arg.b = 1 that the defect map's is, and arg.l names
the units that fail their self-test (DESIGN CHOICE, log 12). -/
def execPowerUpSequence (s : State) : Host.Outcome State Fault Refusal :=
  event (fun s =>
    let m := s.arg
    let s := resetPackage s
    if m.a != 1 then { s with power := { s.power with boot := 1 } }
    else
      let s := if m.b = 1 then s else { s with defect := [] }
      let s := (m.l.filter unitExists).foldl (fun s u => retireUnit u s) s
      { s.setMreg 0 featOffered with power := { s.power with boot := 2 } }) s

/-- SUPPLY_DROOP_STRETCH (R486): the clock of cluster arg.k is stretched, or, with arg.b = 0, no longer; nothing else changes. -/
def execSupplyDroopStretch (s : State) : Host.Outcome State Fault Refusal :=
  event (fun s => s.onCluster s.arg.k fun x => { x with stretched := s.arg.b != 0 }) s

/-- Every clock is stretched, or no longer, by the mechanism of R486. -/
def stretchAll (on : Bool) (s : State) : State :=
  (upTo 32).foldl (fun s c => s.onCluster c fun x => { x with stretched := on }) s

/-- THERMAL_THROTTLE (R487): above the limit every clock is stretched and the event is logged; with arg.b = 0 the heat is gone. -/
def execThermalThrottle (s : State) : Host.Outcome State Fault Refusal :=
  event (fun s =>
    let on := s.arg.b != 0
    let s := stretchAll on { s with power := { s.power with throttled := on } }
    if on then logOpen s else s) s

/-- THERMAL_SHUTDOWN (R487): every partition stops, for a reason to which R456 gives no code, and power is removed. -/
def execThermalShutdown (s : State) : Host.Outcome State Fault Refusal :=
  event (fun s =>
    let (n, s) := s.freshFree
    let s := s.ctxs.foldl (fun s e => stopPartition e.1 ((Config.freeWord n).toNat % 256) 0xffff s) s
    { s with power := { s.power with boot := 3 } }) s

/-! ### Emulation space (R59, R61) -/

/-- What the C7 word of bits 31:8 reads of a slot, in whichever file its fields name a register. -/
def emulationReads (e : BitVec 24) (sl : Slot) : List Word :=
  let r := fun (n : Nat) => sl.rg n :: zext64 (sl.rp (n % 8)) ::
    (upTo 8).map fun i => (vget (sl.rv (n % 16)) (2 * i + 1) 0#32) ++ (vget (sl.rv (n % 16)) (2 * i) 0#32)
  sl.sys.mode :: sl.sys.st :: (r (slice e 4 0) ++ r (slice e 9 5) ++ r (slice e 14 10))

/-- What the resident routine does to a slot: the registers that the field d can name, and the sticky flags, take the values that the
C7 gives them (DESIGN CHOICE, log 11). -/
def emulateC7 (e : BitVec 24) (sl : Slot) : Slot :=
  let d := slice e 4 0
  let x := Config.emulated e (emulationReads e sl)
  let v : VReg := Vector.ofFn fun (i : Fin 16) => (x (i.val / 2)).extractLsb' (32 * (i.val % 2)) 32
  ((((sl.wg d (x 8)).wv (d % 16) v).wp (d % 8) ((x 9).extractLsb' 0 16)).raise ((x 9).extractLsb' 16 6))

/-- EMULATION (R61): functions 1 and 2 are carried out by the resident routine, and any other word traps. The routine is entered as a trap
is: once the slot's replay has ended and every outstanding result has been written (R109, R158), and the word's S has no effect (R60). -/
def emulationBody (e : BitVec 24) : Body := fun s =>
  if slice e 22 15 = 1 || slice e 22 15 = 2 then
    match replayPoint s.me with
    | some x => (s, x)
    | none => if s.me.pend.isEmpty then ({ s with mark := false }.onMe (emulateC7 e), .next) else (s, .wait .results)
  else (s, .trap 0x01 (wordOf (.emulation e) s))

/-- EMULATION (R61). -/
def execEmulation (e : BitVec 24) (s : State) : Host.Outcome State Fault Refusal := issue (.emulation e) (emulationBody e) s

end Sys2Proof.Machine
end

