-- ==== Sys2Proof/Machine/Schedule.lean ====
section
/-! DEFINITION. What happens next: park reasons (R94), interruptions, the rotation of issue (R95, R96), the passing of cycles (R107,
R286, R412, R416, R417), and the choice of the next action. -/

namespace Sys2Proof.Machine

/-! ### Park reasons -/

/-- Whether the reason of a parked slot k holds (R94). -/
def reasonHolds (s : State) (k : Nat) (r : Reason) : Bool :=
  let sl := s.slot k
  let c := coreOf k
  match r with
  | .marker _ => sl.quiet
  | .trapEntry _ _ _ | .faultEntry _ _ _ => false
  | .again => true
  | .replay => !sl.replaying
  | .results => sl.pend.isEmpty
  | .stores | .release => sl.performed
  | .buffer => !bufferTaken s k
  | .acquire => !(sl.pend.any isLda)
  | .walk p => sl.traffic.xlat.any (·.page == p)
  | .fault p => (missFind s (clusterOf (octetOf c)) sl.bind.ctx p).isNone
  | .migrating _ => false
  | .event => sl.sys.st.getLsbD stEV
  | .watermark ch need =>
    let x := vget (s.core c).transfer.chans ch Channel.reset
    !x.opened || decide (need ≤ x.wm.toNat)
  | .tags m all => tagsReady s k m all
  | .mailbox j n => mailboxReady s c j n
  | .port _ | .drain _ | .answer | .probes => sl.phase == 2
  | .tile => sl.phase == 2 || (sl.phase == 0 && decide ((tileOf s c).queue.length < 4))
  | .quad => (quadCores c).all fun d => (tileOf s d).queue.isEmpty
  | .missFull => decide ((s.cluster (clusterOf (octetOf c))).misses.length < 256)
  | .freeTag => (freeTag (s.core c).transfer).isSome
  | .castRoom b => decide (pendingCasts (s.core c).transfer b < 8)
  | .commitFull n => (groupOf s k).all fun g => decide (n ≤ entryRoom s g)
  | .tree => treeWritten s k
  | .treeRoom os => treeRoom s os
  | .listRoom d => if sl.phase = listedPhase then (s.core c).holding.isNone else pushRoom s k d
  | .queueRoom q => queueHasRoom s sl.bind.ctx q
  | .pool ctx => (missFind s (clusterOf (badgerOf s (octetOf c))) ctx (poolBase s ctx / 8192)).isNone
  | .frontier t => decide (t < slice (tkfWord s k) 31 0)
  | .barrier _ key q => phasePast (barOf s key).p q
  | .gbar key phase => (gbarOf s key).phase != phase
  | .flushing id => !(s.flushes.any fun f => f.id == id)
  | .context ctx =>
    match tfind s.ctxs ctx with
    | none => true
    | some x => x.st == 7 || (x.hyper.isNone && match x.save with
      | none => true
      | some v => v.finished || v.failed.isSome || decide (slice sl.sys.prg 31 0 < v.units))

/-- A slot continues at its marker: the end-of-body rule that waited is applied, and a trap that a replay deferred is taken at the
following instruction (R45, R150, R158) (DEDUCED, log 28). -/
def passMarker (k : Nat) (body : Option Word) (s : State) : State :=
  let s := s.onSlot k fun sl =>
    let sl := { sl with run := .running }
    match body with
    | some a => endOfBody sl a sl.pc
    | none => sl
  match (s.slot k).replay.bind (·.trap) with
  | some t => raiseTrap k t.1 t.2 (s.slot k).pc s
  | none => s

/-- The parked slot k, whose reason holds, continues (R94). WAITE does so before a timer cause is taken (R115) (DESIGN CHOICE, log 30). -/
def release (k : Nat) (s : State) : State :=
  match (s.slot k).run with
  | .parked r =>
    if !reasonHolds s k r then s
    else match r with
      | .marker body => passMarker k body s
      | .event => s.onSlot k fun sl => { sl with run := .running, phase := 1 }
      | _ => s.onSlot k fun sl => { sl with run := .running }
  | _ => s

/-- PARK_RELEASE (R94): slot arg.k. -/
def execParkRelease (s : State) : Host.Outcome State Fault Refusal := event (release s.arg.k) s

/-! ### Interruptions of a parked slot (R94) -/

/-- Whether a parked instruction's entry admits a timer cause (R259, R262, R287, R331, R347, R355, R382, R383, R386, R388, R403). -/
def admits (r : Reason) : Bool :=
  match r with
  | .port _ | .tile | .commitFull _ | .frontier _ | .barrier _ _ _ | .gbar _ _ | .tree | .treeRoom _ | .release | .probes | .queueRoom _ |
    .tags _ _ | .freeTag | .castRoom _ => true
  | _ => false

/-- Whether a slot has a command in its core's tile queue. -/
def hasCmd (s : State) (k : Nat) : Bool := (tileOf s (coreOf k)).queue.any (·.slot == k)

/-- Whether a pending timer cause ends the wait of slot k (DEDUCED, log 29). An element of GETB that has fired completes first, though its
store waits for commit space (R296, R347). -/
def interruptible (s : State) (k : Nat) : Bool :=
  let sl := s.slot k
  sl.timerDue && (match sl.run with
    | .parked (.port _) => sl.phase == portSent
    | .parked (.commitFull _) => !stepOn s k && (sl.phase != 2 || slice sl.sys.prg 63 56 != 8)
    | .parked r => sl.phase != 2 && !stepOn s k && (admits r || hasCmd s k)
    | _ => false)

/-- The wait of slot k ends: a port operation is withdrawn, a tile command leaves its queue, and any other instruction issues again
once the trap has been handled. -/
def interrupt (k : Nat) (s : State) : State :=
  match (s.slot k).run with
  | .parked (.port _) => withdrawPorts k 4 s
  | .parked r =>
    if hasCmd s k then leaveTile k (leaveMiss k r s)
    else s.onSlot k fun sl => { sl with run := .running, phase := 0, keep := [], entered := 0 }
  | _ => s

/-! ### The passing of a cycle -/

/-- The timer of slot k after one cycle (R107). -/
def tickTimer (k : Nat) (s : State) : State :=
  let sl := s.slot k
  match sl.run with
  | .running | .parked _ =>
    if sl.sys.tmr = 0 then s
    else if sl.sys.tmr = 1 then expire k s
    else s.onSlot k fun sl => sl.onSys fun y => { y with tmr := y.tmr - 1 }
  | _ => s

/-- The group for which slot k runs. -/
def workGroup (sl : Slot) : Option Nat := if sl.bind.owner.isSome then sl.bind.owner else if sl.bind.bound then some sl.bind.group else none

/-- A cycle of slot k charged to its group (R412). -/
def tickCharge (k : Nat) (s : State) : State :=
  let sl := s.slot k
  match sl.run, workGroup sl with
  | .running, some g | .parked _, some g => s.onGroup g fun x => { x with cycles := x.cycles + 1 }
  | _, _ => s

/-- A port operation of slot k that has waited `pto` cycles (R286). -/
def tickPort (k : Nat) (s : State) : State :=
  let sl := s.slot k
  let pto := slice sl.sys.pto 31 0
  if (portMask sl).isSome && sl.phase = portSent && pto != 0 &&
      (let t := (s.core (coreOf k)).cyc - sl.keep.headD 0; !t.msb && decide (pto ≤ t.toNat)) then
    withdrawPorts k 3 s
  else s

/-- Whether an event about k is on its way. -/
def underWay (s : State) (e : Instr) (k : Nat) : Bool := s.inflight.any fun m => m.2.ev == e && m.2.arg.k == k

/-- An event about k, unless it is on its way already. -/
def postOnce (e : Instr) (k : Nat) (s : State) : State := if underWay s e k then s else s.post (evt e k 0 0)

/-- Whether an attempt of slot k to steal is on its way. -/
def stealing (s : State) (k : Nat) : Bool :=
  underWay s .stealAttempt k || underWay s .stealRequestArrival k || underWay s .stealAnswerArrival k

/-- The slots of core c. -/
def coreSlots (c : Nat) : List Nat := (upTo 16).map (16 * c + ·)

/-- What a cycle of core c brings to its lists: tasks to start, entries that have aged, and in each frame the attempts to steal. -/
def tickLists (c : Nat) (s : State) : State :=
  let x := s.core c
  let s := ((coreSlots c).filter (hasWork s)).foldl (fun s k => postOnce .taskStart k s) s
  let s := if x.runList.any (aged x) then postOnce .runListAging c s else s
  if x.cyc.toNat % 32 = 0 then ((coreSlots c).filter fun k => maySteal s k && !stealing s k).foldl (fun s k => s.post (evt .stealAttempt k 0 0)) s
  else s

/-- One cycle of core c. -/
def tickCore (c : Nat) (s : State) : State :=
  let s := (busySlots s c).foldl (fun s k => tickPort k (tickTimer k (tickCharge k s))) s
  tickLists c s

/-- Ticket deadlocks are found (R348): an instance that has been in one without a break for as long as the bound of 65,536 cycles lets
pass before the detection (DEDUCED, log 62). -/
def findDeadlocks (s : State) : State :=
  s.frontiers.foldl (fun s e =>
    let stuck := fun (n : Option Nat) => { s with frontiers := tset s.frontiers e.1 { e.2 with stuck := n } }
    match deadlocked s e.1 e.2, e.2.stuck with
    | true, none => stuck (some s.mcyc)
    | true, some n => if n + 65519 ≤ s.mcyc then postOnce .ticketDeadlock e.1 s else s
    | false, some _ => stuck none
    | false, none => s) s

/-- The cores that have something to do. -/
def activeCores (s : State) : List Nat :=
  ((s.slots.filter fun e => e.2.run != .free || picking e.2 || maySteal s e.1).map fun e => coreOf e.1) ++
    ((s.cores.filter fun e => !e.2.runList.isEmpty).map (·.1)) ++
    (s.groups.filter fun e => !e.2.toStart.isEmpty).flatMap fun e => e.2.slots.map coreOf

/-- The next active core after c, in cyclic order; c where there is none. -/
def nextCore (s : State) (c : Nat) : Nat :=
  let cs := activeCores s
  let least := fun (l : List Nat) => l.foldl (fun m x => match m with
    | none => some x
    | some y => some (Nat.min x y)) none
  ((least (cs.filter fun x => c < x)).or (least cs)).getD c

/-- A cycle of the package ends: every core counts it (R104) (DESIGN CHOICE, log 19). -/
def tickAll (s : State) : State :=
  { s with mcyc := s.mcyc + 1, cores := s.cores.map fun e => (e.1, { e.2 with cyc := e.2.cyc + 1 }) }

/-- The cycle of the current core ends, and the next core has its turn; when every core has had its turn, the cycle of the package
ends (DESIGN CHOICE, log 5). -/
def endCycle (s : State) : State :=
  let c := coreOf s.cur
  let s := findDeadlocks (tickCore c s)
  let n := nextCore s c
  { (if c < n then s else tickAll s) with cur := 16 * n, turn := false }

/-- Whether the name of a message comes before another's, by core, slot and sequence number (R359). -/
def namedBefore (x y : Msg) : Bool :=
  x.arg.sender < y.arg.sender || (x.arg.sender == y.arg.sender && x.arg.seq < y.arg.seq)

/-- Whether a message waits at its receiver for one on its way there whose name comes first: names rise by core, slot and sequence number
(R359) (DEDUCED, log 37). -/
def outOfTurn (s : State) (m : Msg) : Bool :=
  m.arg.seq != 0 && (receiver s m).isSome &&
    s.inflight.any fun y => y.2.arg.seq != 0 && namedBefore y.2 m && receiver s y.2 == receiver s m

/-- Whether the router of an octet is retired: no traffic reaches the octet's own units (R465). -/
def cutOff (s : State) (o : Nat) : Bool := (retiredWord s o).getLsbD 22

/-- Whether what is on its way goes to a unit that no traffic reaches: a message to a core, or an access to a slice or an array (R465)
(DEDUCED, log 66). -/
def unreached (s : State) (m : Msg) : Bool :=
  let away := fun (p : Place) => match p with
    | .mem pa => !isMgmt pa && cutOff s (octetOf (homeSlice pa))
    | .arr c _ => cutOff s (octetOf c)
  let pending := fun (f : PendKind → Bool) => ((s.slot m.arg.k).findPend m.arg.a).elim false fun p => f p.kind
  (receiver s m).any (fun c => cutOff s (octetOf c)) || (match m.ev with
    | .loadDataReturn => pending fun k => match k with
      | .load items => items.any fun it => 0 < it.avail && away it.place
      | _ => false
    | .homeAtomicAccess => if 1 ≤ m.arg.b && m.arg.b ≤ 2 then away (.mem m.arg.a) else pending fun k => match k with
      | .atomic a => away a.place
      | _ => false
    | .homeRegistration | .homeRedArrival => away (.mem (4 * m.arg.a))
    | _ => false)

/-- The message on its way that is performed next, and the others: the oldest that is due, that reaches its receiver, and whose turn it is. A
stopped core takes no message from its input (R453) (DEDUCED, log 37). -/
def dueMsg (s : State) : Option (Msg × List (Nat × Msg)) :=
  (s.inflight.find? fun m => m.1 ≤ s.mcyc && (!(receiver s m.2).any fun c => (s.core c).stopped) && !unreached s m.2 && !outOfTurn s m.2).map fun m =>
    (m.2, s.inflight.erase m)

/-! ### The rotation of issue (R95, R96) -/

/-- Whether slot k may issue: it is Running. A context that is being saved only completes instructions that have had their effect
(R434). -/
def ready (s : State) (k : Nat) : Bool :=
  (s.slot k).run == .running && (!ctxHeld s (s.slot k).bind.ctx || (s.slot k).phase == 2 || (s.slot k).phase == listedPhase)

/-- Whether slot j of a core has issued in the previous three cycles (R96). -/
def Core.justIssued (x : Core) (j : Nat) : Bool :=
  x.recent.any fun e => e.2 == j && decide ((x.cyc - e.1).toNat ≤ 3)

/-- The first eligible slot in the order last + 1, last + 2, … (R96). -/
def compressed (s : State) (c : Nat) : Option Nat :=
  let x := s.core c
  (((upTo 16).map fun i => (x.last + 1 + i) % 16).find? fun j =>
    !(s.slot (16 * c + j)).det && !x.justIssued j && ready s (16 * c + j)).map (16 * c + ·)

/-- The slot of core c that issues in this cycle. -/
def chosen (s : State) (c : Nat) : Option Nat :=
  let k := 16 * c + (s.core c).cyc.toNat % 16
  if (s.slot k).run != .free && (s.slot k).det then (if ready s k then some k else none) else compressed s c

/-- The core remembers that slot j has issued in this cycle. -/
def noteIssue (c j : Nat) (s : State) : State :=
  s.onCore c fun x =>
    { x with recent := ((x.cyc, j) :: x.recent).take 3, last := if (s.slot (16 * c + j)).det then x.last else j }

/-! ### The next action -/

/-- What a step does: it is done with a new state, it performs an instruction, or it ends in some outcome. -/
inductive Action where
  | done (s : State)
  | perform (i : Instr) (s : State)
  | ended (r : Host.Outcome State Fault Refusal)

/-- The instruction that slot k issues. A pending timer cause is taken before it, unless the instruction has had its effect and only
completes (R109, R287). -/
def issueAction (k : Nat) (s : State) : Action :=
  let sl := s.slot k
  if sl.timerDue && sl.phase = 0 then
    .done (raiseTrap k 0x1c 0 sl.pc (s.onSlot k fun sl => { sl with tmrPend := false }))
  else match fetchWord k sl.pc s with
    | .error r => .ended (conclude sl.pc 0 r)
    | .ok (n, w, s) =>
      match decodeWord (BitVec.ofNat 32 w) with
      | .error _ => .ended (conclude sl.pc (n / 8) (s, .trap 0x01 (BitVec.ofNat 64 w)))
      | .ok f => .perform f.i { s with mark := f.sb }

/-- Slot k of core c as it issues. -/
def atIssue (c k : Nat) (s : State) : State :=
  let s := noteIssue c (slotNo k) s
  { s.onSlot k (fun sl => { sl with run := .running }) with cur := k, turn := true }

/-- Whether slot k waits for its trap entry, and every long-latency result has been written (R109). -/
def entryDue (s : State) (k : Nat) : Bool :=
  match (s.slot k).run with
  | .parked (.trapEntry _ _ _) | .parked (.faultEntry _ _ _) => (s.slot k).quiet && !atHome s k
  | _ => false

/-- Whether the park reason of slot k holds. -/
def releaseDue (s : State) (k : Nat) : Bool :=
  match (s.slot k).run with
  | .parked r => reasonHolds s k r
  | _ => false

/-- The event e about k is performed. -/
def about (e : Instr) (k : Nat) (s : State) : Action := .perform e { s with arg := { Arg.reset with k := k } }

/-- The result of slot k that is due (R123, R161): its identity, and whether it is a floating-point one. -/
def dueOf (s : State) (k : Nat) : Option (Nat × Bool) :=
  (s.slot k).pend.findSome? fun p => match p.kind with
    | .timed _ _ due fp => if reached (s.core (coreOf k)).cyc due then some (p.id, fp) else none
    | _ => none

/-- The next result that is due at core c: its slot, identity and kind. -/
def coreDue (s : State) (c : Nat) : Option (Nat × Nat × Bool) :=
  (coreSlots c).findSome? fun k => (dueOf s k).map fun d => (k, d)

/-- The stop of core c that waits: the traps that they deferred are taken, and then it stops (R158). -/
def haltAction (c : Nat) (h : Nat × Nat × Nat) (s : State) : Action :=
  match (coreSlots c).find? fun k => (s.slot k).deferred with
  | some k => .done (replayTrap k s)
  | none => if stopAwaits s c then .done { s with turn := true } else .done (settleStops (stopCore h.1 h.2.1 h.2.2 c s))

/-- The next action of core c: results that are due, interruptions, trap entries and releases of its slots, then one issue. -/
def coreAction (c : Nat) (s : State) : Action :=
  match coreDue s c with
  | some (k, id, fp) => .perform (if fp then .fdivFsqrtResult else .divideResult) { s with arg := { Arg.reset with k := k, a := id } }
  | none => if (s.core c).stopped then .done { s with turn := true }
  else match (s.core c).halting with
  | some h => haltAction c h s
  | none => match (coreSlots c).find? (interruptible s) with
    | some k => .done (interrupt k s)
    | none => match (coreSlots c).find? (entryDue s) with
      | some k => about .trapEntry k s
      | none => match (coreSlots c).find? (releaseDue s) with
        | some k => about .parkRelease k s
        | none => match chosen s c with
          | some k => issueAction k (atIssue c k s)
          | none => .done { s with turn := true }

/-- A message is performed; an encoded instruction is none. -/
def msgAction (m : Msg) (s : State) : Action :=
  if m.ev.len != 0 then .ended (.refused .notAnEvent) else .perform m.ev { s with arg := m.arg }

/-- The events that the host brings about through the link (R468). -/
def fromHost (e : Instr) : Bool :=
  [.featlockWrite, .tweightWrite, .portcfgWrite, .streamTableWrite, .registerWrite, .formatWindowEnable, .fqheadWrite, .flushPage,
    .flushContext, .doorbell, .ctxCreate, .ctxBind, .ctxSave, .ctxRestore, .ctxDestroy, .haltStop, .haltResume, .owlSpdmExchange,
    .owlUnlock, .owlLock, .owlStop, .owlResume, .owlArm, .owlDisarm, .owlReadSlot, .owlWriteSlot, .owlReadMemory, .owlWriteMemory,
    .owlReadHaltRecord].contains e

/-- Whether an event from outside reaches the machine: without power only the start-up does, and the host only after it (R476, R487), but for
physical function 0's write of the recovery mailbox where the start-up has failed (DEDUCED, log 3). -/
def reaches (s : State) (m : Msg) : Bool :=
  m.ev == .powerUpSequence || (s.power.boot != 3 && (s.power.boot = 2 || !fromHost m.ev ||
    (s.power.boot = 1 && m.ev == .registerWrite && m.arg.a == 0 && m.arg.b == 0 && m.arg.c == 0)))

/-- The next action: what the outside world does, then a core's, then what is due of what is on its way, and the end of the core's
cycle (DESIGN CHOICE, log 5). -/
def nextAction (s : State) : Action :=
  match s.inputs with
  | m :: t => if reaches s m then msgAction m { s with inputs := t } else .done { s with inputs := t }
  | [] =>
    if s.power.boot = 3 then .done s
    else if s.turn then
      match dueMsg s with
      | none => .done (endCycle s)
      | some (m, t) => msgAction m { s with inflight := t }
    else coreAction (coreOf s.cur) s

/-! ### Placing one instruction -/

/-- The bytes of an instruction of `nbits` bits, and zeros up to four bytes. -/
def wordBytes (nbits w : Nat) : List (BitVec 8) := bytesLE 4 (w % 2 ^ nbits)

/-- One instruction at address 0x2000, fetched next by slot 0 of core 0 (DEDUCED, log 17). -/
def placeWord (nbits w : Nat) (s : State) : State :=
  let sl := { s.slot 0 with run := .running, pc := 0x2000, phase := 0, keep := [], entered := 0, pend := [], replay := none, tmrPend := false }
  let sl := { sl with sys := { sl.sys with st := setBit sl.sys.st stDET false } }
  let t : TlbEntry := ⟨sl.bind.ctx, 0x2000, 13, 0x2000, true, true, true, true⟩
  let s := { s with
    slots := (0, sl) :: s.slots.filter fun e => 16 ≤ e.1,
    mem := memPut s.mem 0x2000 (wordBytes nbits w),
    home := s.home.filter fun e => e.1 != 0x800,
    work := [], pinned := [], inputs := [], turn := false, cur := 0, power := ⟨2, s.power.throttled, s.power.mailbox⟩ }
  let s := s.onCore 0 fun x => { x with last := 15, recent := [], stopped := false, halting := none }
  let s := s.onOctet 0 fun x => { x with tlb := t :: x.tlb }
  s.onCtx sl.bind.ctx fun c =>
    { c with st := if c.st = 5 then 3 else c.st, hyper := if c.hyper.elim false (·.st == 5) then none else c.hyper }

end Sys2Proof.Machine
end

