-- ==== Sys2Proof/Machine/Dispatch.lean ====
section
/-! DEFINITION. Each instruction and event by its meaning. -/

namespace Sys2Proof.Machine

/-- The effect of an instruction of slot `cur`, or of an event with the data `arg`. -/
def exec (i : Instr) (s : State) : Host.Outcome State Fault Refusal :=
  match i with
  | .add w b a d => Sys2Proof.Machine.execAdd w b a d s
  | .sub w b a d => Sys2Proof.Machine.execSub w b a d s
  | .mul w b a d => Sys2Proof.Machine.execMul w b a d s
  | .mulh b a d => Sys2Proof.Machine.execMulh b a d s
  | .mulhu b a d => Sys2Proof.Machine.execMulhu b a d s
  | .div w b a d => Sys2Proof.Machine.execDiv w b a d s
  | .divu w b a d => Sys2Proof.Machine.execDivu w b a d s
  | .rem w b a d => Sys2Proof.Machine.execRem w b a d s
  | .remu w b a d => Sys2Proof.Machine.execRemu w b a d s
  | .min w b a d => Sys2Proof.Machine.execMin w b a d s
  | .max w b a d => Sys2Proof.Machine.execMax w b a d s
  | .minu w b a d => Sys2Proof.Machine.execMinu w b a d s
  | .maxu w b a d => Sys2Proof.Machine.execMaxu w b a d s
  | .lea c b a d => Sys2Proof.Machine.execLea c b a d s
  | .and b a d => Sys2Proof.Machine.execAnd b a d s
  | .or b a d => Sys2Proof.Machine.execOr b a d s
  | .xor b a d => Sys2Proof.Machine.execXor b a d s
  | .andn b a d => Sys2Proof.Machine.execAndn b a d s
  | .orn b a d => Sys2Proof.Machine.execOrn b a d s
  | .sll w b a d => Sys2Proof.Machine.execSll w b a d s
  | .srl w b a d => Sys2Proof.Machine.execSrl w b a d s
  | .sra w b a d => Sys2Proof.Machine.execSra w b a d s
  | .rot w b a d => Sys2Proof.Machine.execRot w b a d s
  | .clz w a d => Sys2Proof.Machine.execClz w a d s
  | .ctz w a d => Sys2Proof.Machine.execCtz w a d s
  | .popc w a d => Sys2Proof.Machine.execPopc w a d s
  | .bswap a d => Sys2Proof.Machine.execBswap a d s
  | .sext n a d => Sys2Proof.Machine.execSext n a d s
  | .zext n a d => Sys2Proof.Machine.execZext n a d s
  | .addi imm a d => Sys2Proof.Machine.execAddi imm a d s
  | .andi imm a d => Sys2Proof.Machine.execAndi imm a d s
  | .ori imm a d => Sys2Proof.Machine.execOri imm a d s
  | .xori imm a d => Sys2Proof.Machine.execXori imm a d s
  | .slli w n a d => Sys2Proof.Machine.execSlli w n a d s
  | .srli w n a d => Sys2Proof.Machine.execSrli w n a d s
  | .srai w n a d => Sys2Proof.Machine.execSrai w n a d s
  | .roti w n a d => Sys2Proof.Machine.execRoti w n a d s
  | .lui imm d => Sys2Proof.Machine.execLui imm d s
  | .auipc imm d => Sys2Proof.Machine.execAuipc imm d s
  | .bfx l n a d => Sys2Proof.Machine.execBfx l n a d s
  | .bfxu l n a d => Sys2Proof.Machine.execBfxu l n a d s
  | .bfi l n a d => Sys2Proof.Machine.execBfi l n a d s
  | .pcmp w k c b a d => Sys2Proof.Machine.execPcmp w k c b a d s
  | .pcmpi c imm a d => Sys2Proof.Machine.execPcmpi c imm a d s
  | .pand b a d => Sys2Proof.Machine.execPand b a d s
  | .por b a d => Sys2Proof.Machine.execPor b a d s
  | .pxor b a d => Sys2Proof.Machine.execPxor b a d s
  | .pnot a d => Sys2Proof.Machine.execPnot a d s
  | .sel k b a d => Sys2Proof.Machine.execSel k b a d s
  | .mix b a d => Sys2Proof.Machine.execMix b a d s
  | .bcc o b a c => Sys2Proof.Machine.execBcc o b a c s
  | .bp o n j k => Sys2Proof.Machine.execBp o n j k s
  | .j o => Sys2Proof.Machine.execJ o s
  | .jl o => Sys2Proof.Machine.execJl o s
  | .jlr imm a d => Sys2Proof.Machine.execJlr imm a d s
  | .jr imm a => Sys2Proof.Machine.execJr imm a s
  | .loop imm a k => Sys2Proof.Machine.execLoop imm a k s
  | .loopi imm m n k => Sys2Proof.Machine.execLoopi imm m n k s
  | .rep n r k p => Sys2Proof.Machine.execRep n r k p s
  | .replayEnd => Sys2Proof.Machine.execReplayEnd s
  | .cvt f e r x a d => Sys2Proof.Machine.execCvt f e r x a d s
  | .faddS r b a d => Sys2Proof.Machine.execFaddS r b a d s
  | .fsubS r b a d => Sys2Proof.Machine.execFsubS r b a d s
  | .fmulS r b a d => Sys2Proof.Machine.execFmulS r b a d s
  | .fdivS r b a d => Sys2Proof.Machine.execFdivS r b a d s
  | .fsqrtS r a d => Sys2Proof.Machine.execFsqrtS r a d s
  | .fminS b a d => Sys2Proof.Machine.execFminS b a d s
  | .fmaxS b a d => Sys2Proof.Machine.execFmaxS b a d s
  | .fsgnS b a d => Sys2Proof.Machine.execFsgnS b a d s
  | .fsgnnS b a d => Sys2Proof.Machine.execFsgnnS b a d s
  | .fsgnxS b a d => Sys2Proof.Machine.execFsgnxS b a d s
  | .fclassS a d => Sys2Proof.Machine.execFclassS a d s
  | .faddD r b a d => Sys2Proof.Machine.execFaddD r b a d s
  | .fsubD r b a d => Sys2Proof.Machine.execFsubD r b a d s
  | .fmulD r b a d => Sys2Proof.Machine.execFmulD r b a d s
  | .fdivD r b a d => Sys2Proof.Machine.execFdivD r b a d s
  | .fsqrtD r a d => Sys2Proof.Machine.execFsqrtD r a d s
  | .fminD b a d => Sys2Proof.Machine.execFminD b a d s
  | .fmaxD b a d => Sys2Proof.Machine.execFmaxD b a d s
  | .fsgnD b a d => Sys2Proof.Machine.execFsgnD b a d s
  | .fsgnnD b a d => Sys2Proof.Machine.execFsgnnD b a d s
  | .fsgnxD b a d => Sys2Proof.Machine.execFsgnxD b a d s
  | .fclassD a d => Sys2Proof.Machine.execFclassD a d s
  | .ffma t r b a d => Sys2Proof.Machine.execFfma t r b a d s
  | .ffms t r b a d => Sys2Proof.Machine.execFfms t r b a d s
  | .fcmp t k c b a d => Sys2Proof.Machine.execFcmp t k c b a d s
  | .mfs n d => Sys2Proof.Machine.execMfs n d s
  | .mts n a => Sys2Proof.Machine.execMts n a s
  | .cplaunch d => Sys2Proof.Machine.execCplaunch d s
  | .trap b a => Sys2Proof.Machine.execTrap b a s
  | .eret => Sys2Proof.Machine.execEret s
  | .yield => Sys2Proof.Machine.execYield s
  | .suspend => Sys2Proof.Machine.execSuspend s
  | .wfw => Sys2Proof.Machine.execWfw s
  | .bkpt => Sys2Proof.Machine.execBkpt s
  | .nop => Sys2Proof.Machine.execNop s
  | .waite => Sys2Proof.Machine.execWaite s
  | .ctxsave b a => Sys2Proof.Machine.execCtxsave b a s
  | .ctxload a => Sys2Proof.Machine.execCtxload a s
  | .atr k a d => Sys2Proof.Machine.execAtr k a d s
  | .tlbfl m a => Sys2Proof.Machine.execTlbfl m a s
  | .haltp a => Sys2Proof.Machine.execHaltp a s
  | .selftest a d => Sys2Proof.Machine.execSelftest a d s
  | .vadd t r p b a d => Sys2Proof.Machine.execVadd t r p b a d s
  | .vsub t r p b a d => Sys2Proof.Machine.execVsub t r p b a d s
  | .vmul t r p b a d => Sys2Proof.Machine.execVmul t r p b a d s
  | .vfma t r p b a d => Sys2Proof.Machine.execVfma t r p b a d s
  | .vfms t r p b a d => Sys2Proof.Machine.execVfms t r p b a d s
  | .vmin t p b a d => Sys2Proof.Machine.execVmin t p b a d s
  | .vmax t p b a d => Sys2Proof.Machine.execVmax t p b a d s
  | .vabs t p a d => Sys2Proof.Machine.execVabs t p a d s
  | .vneg t p a d => Sys2Proof.Machine.execVneg t p a d s
  | .vrcp r p a d => Sys2Proof.Machine.execVrcp r p a d s
  | .vrsq r p a d => Sys2Proof.Machine.execVrsq r p a d s
  | .vexp2 r p a d => Sys2Proof.Machine.execVexp2 r p a d s
  | .viadd l p b a d => Sys2Proof.Machine.execViadd l p b a d s
  | .visub l p b a d => Sys2Proof.Machine.execVisub l p b a d s
  | .vimul l p b a d => Sys2Proof.Machine.execVimul l p b a d s
  | .vimad l p b a d => Sys2Proof.Machine.execVimad l p b a d s
  | .vimin l p b a d => Sys2Proof.Machine.execVimin l p b a d s
  | .vimax l p b a d => Sys2Proof.Machine.execVimax l p b a d s
  | .vand l p b a d => Sys2Proof.Machine.execVand l p b a d s
  | .vor l p b a d => Sys2Proof.Machine.execVor l p b a d s
  | .vxor l p b a d => Sys2Proof.Machine.execVxor l p b a d s
  | .vsll l p b a d => Sys2Proof.Machine.execVsll l p b a d s
  | .vsrl l p b a d => Sys2Proof.Machine.execVsrl l p b a d s
  | .vsra l p b a d => Sys2Proof.Machine.execVsra l p b a d s
  | .viabs l p a d => Sys2Proof.Machine.execViabs l p a d s
  | .vcmp t c p b a d => Sys2Proof.Machine.execVcmp t c p b a d s
  | .vsel p b a d => Sys2Proof.Machine.execVsel p b a d s
  | .vperm p b a d => Sys2Proof.Machine.execVperm p b a d s
  | .vrev p a d => Sys2Proof.Machine.execVrev p a d s
  | .vslide m p b a d => Sys2Proof.Machine.execVslide m p b a d s
  | .vzip p b a d => Sys2Proof.Machine.execVzip p b a d s
  | .vunzip p a d => Sys2Proof.Machine.execVunzip p a d s
  | .vbcast p g d => Sys2Proof.Machine.execVbcast p g d s
  | .vext l g a => Sys2Proof.Machine.execVext l g a s
  | .vins l g d => Sys2Proof.Machine.execVins l g d s
  | .viota p g d => Sys2Proof.Machine.execViota p g d s
  | .vmix p g a d => Sys2Proof.Machine.execVmix p g a d s
  | .vred o r p a d => Sys2Proof.Machine.execVred o r p a d s
  | .vscan o r p a d => Sys2Proof.Machine.execVscan o r p a d s
  | .vdot f r p b a d => Sys2Proof.Machine.execVdot f r p b a d s
  | .vcvt f r p e a d => Sys2Proof.Machine.execVcvt f r p e a d s
  | .vpack f r p b a d => Sys2Proof.Machine.execVpack f r p b a d s
  | .vunpk f p h a d => Sys2Proof.Machine.execVunpk f p h a d s
  | .vbscale f r p b a d => Sys2Proof.Machine.execVbscale f r p b a d s
  | .ld o k a d => Sys2Proof.Machine.execLd o k a d s
  | .ldWindow w z o a d => Sys2Proof.Machine.execLdWindow w z o a d s
  | .st o k a d => Sys2Proof.Machine.execSt o k a d s
  | .vld o a d => Sys2Proof.Machine.execVld o a d s
  | .vst o a d => Sys2Proof.Machine.execVst o a d s
  | .vlds x o a d => Sys2Proof.Machine.execVlds x o a d s
  | .vsts x o a d => Sys2Proof.Machine.execVsts x o a d s
  | .ldp o a d => Sys2Proof.Machine.execLdp o a d s
  | .vldp o a d => Sys2Proof.Machine.execVldp o a d s
  | .vldWindow w o a d => Sys2Proof.Machine.execVldWindow w o a d s
  | .amo w o b a d => Sys2Proof.Machine.execAmo w o b a d s
  | .cas w b a d => Sys2Proof.Machine.execCas w b a d s
  | .lda w a d => Sys2Proof.Machine.execLda w a d s
  | .stl w b a => Sys2Proof.Machine.execStl w b a s
  | .acq => Sys2Proof.Machine.execAcq s
  | .rel => Sys2Proof.Machine.execRel s
  | .fence => Sys2Proof.Machine.execFence s
  | .red o z b a => Sys2Proof.Machine.execRed o z b a s
  | .vgather c b a d => Sys2Proof.Machine.execVgather c b a d s
  | .vscatter c b a d => Sys2Proof.Machine.execVscatter c b a d s
  | .ldx c z u b a d => Sys2Proof.Machine.execLdx c z u b a d s
  | .stx c z b a d => Sys2Proof.Machine.execStx c z b a d s
  | .wenq b a d => Sys2Proof.Machine.execWenq b a d s
  | .watch a d => Sys2Proof.Machine.execWatch a d s
  | .unwatch a d => Sys2Proof.Machine.execUnwatch a d s
  | .pref a => Sys2Proof.Machine.execPref a s
  | .cflush a => Sys2Proof.Machine.execCflush a s
  | .cinv a => Sys2Proof.Machine.execCinv a s
  | .copyp a d => Sys2Proof.Machine.execCopyp a d s
  | .twaitany a d => Sys2Proof.Machine.execTwaitany a d s
  | .twaitall a => Sys2Proof.Machine.execTwaitall a s
  | .tfind a d => Sys2Proof.Machine.execTfind a d s
  | .ttest a d => Sys2Proof.Machine.execTtest a d s
  | .tclr a => Sys2Proof.Machine.execTclr a s
  | .chopen b a k => Sys2Proof.Machine.execChopen b a k s
  | .chclose k => Sys2Proof.Machine.execChclose k s
  | .mfree a => Sys2Proof.Machine.execMfree a s
  | .mbwait a k => Sys2Proof.Machine.execMbwait a k s
  | .put k a => Sys2Proof.Machine.execPut k a s
  | .get k d => Sys2Proof.Machine.execGet k d s
  | .putv k a => Sys2Proof.Machine.execPutv k a s
  | .getv k d => Sys2Proof.Machine.execGetv k d s
  | .psel b a d => Sys2Proof.Machine.execPsel b a d s
  | .putb k x a => Sys2Proof.Machine.execPutb k x a s
  | .getb k x a => Sys2Proof.Machine.execGetb k x a s
  | .cload b a d => Sys2Proof.Machine.execCload b a d s
  | .cunload a => Sys2Proof.Machine.execCunload a s
  | .pbind b a k => Sys2Proof.Machine.execPbind b a k s
  | .punbind k => Sys2Proof.Machine.execPunbind k s
  | .cstat b a d => Sys2Proof.Machine.execCstat b a d s
  | .tmma x a => Sys2Proof.Machine.execTmma x a s
  | .tmmaSp q x a => Sys2Proof.Machine.execTmmaSp q x a s
  | .tzero => Sys2Proof.Machine.execTzero s
  | .tld x a => Sys2Proof.Machine.execTld x a s
  | .tst x a => Sys2Proof.Machine.execTst x a s
  | .tldb x a => Sys2Proof.Machine.execTldb x a s
  | .tjoin a => Sys2Proof.Machine.execTjoin a s
  | .twt a => Sys2Proof.Machine.execTwt a s
  | .tstat a d => Sys2Proof.Machine.execTstat a d s
  | .tkget a d => Sys2Proof.Machine.execTkget a d s
  | .tkwait a => Sys2Proof.Machine.execTkwait a s
  | .publish => Sys2Proof.Machine.execPublish s
  | .hnew a d => Sys2Proof.Machine.execHnew a d s
  | .hcopy a d => Sys2Proof.Machine.execHcopy a d s
  | .hdrop a => Sys2Proof.Machine.execHdrop a s
  | .hwt a d => Sys2Proof.Machine.execHwt a d s
  | .hbind b a => Sys2Proof.Machine.execHbind b a s
  | .barinit b a => Sys2Proof.Machine.execBarinit b a s
  | .bari a d => Sys2Proof.Machine.execBari a d s
  | .barw b a => Sys2Proof.Machine.execBarw b a s
  | .bart b a d => Sys2Proof.Machine.execBart b a d s
  | .gbar b a => Sys2Proof.Machine.execGbar b a s
  | .flushp a => Sys2Proof.Machine.execFlushp a s
  | .flushpG a => Sys2Proof.Machine.execFlushpG a s
  | .redt b a => Sys2Proof.Machine.execRedt b a s
  | .spawn a => Sys2Proof.Machine.execSpawn a s
  | .join => Sys2Proof.Machine.execJoin s
  | .tenq a => Sys2Proof.Machine.execTenq a s
  | .tpick => Sys2Proof.Machine.execTpick s
  | .tctr b a => Sys2Proof.Machine.execTctr b a s
  | .tdec a => Sys2Proof.Machine.execTdec a s
  | .klaunch b a d => Sys2Proof.Machine.execKlaunch b a d s
  | .emulation e => Sys2Proof.Machine.execEmulation e s
  | .cMv b d => Sys2Proof.Machine.execCMv b d s
  | .cAdd b d => Sys2Proof.Machine.execCAdd b d s
  | .cSub b d => Sys2Proof.Machine.execCSub b d s
  | .cAddi imm d => Sys2Proof.Machine.execCAddi imm d s
  | .cLi imm d => Sys2Proof.Machine.execCLi imm d s
  | .cAnd b d => Sys2Proof.Machine.execCAnd b d s
  | .cOr b d => Sys2Proof.Machine.execCOr b d s
  | .cSlli imm d => Sys2Proof.Machine.execCSlli imm d s
  | .cLdw b d => Sys2Proof.Machine.execCLdw b d s
  | .cStw b d => Sys2Proof.Machine.execCStw b d s
  | .cB o => Sys2Proof.Machine.execCB o s
  | .cBnz imm d => Sys2Proof.Machine.execCBnz imm d s
  | .cPut k d => Sys2Proof.Machine.execCPut k d s
  | .cGet k d => Sys2Proof.Machine.execCGet k d s
  | .cNop => Sys2Proof.Machine.execCNop s
  | .cYield => Sys2Proof.Machine.execCYield s
  | .cSuspend => Sys2Proof.Machine.execCSuspend s
  | .cWfw => Sys2Proof.Machine.execCWfw s
  | .cEret => Sys2Proof.Machine.execCEret s
  | .cBkpt => Sys2Proof.Machine.execCBkpt s
  | .cWaite => Sys2Proof.Machine.execCWaite s
  | .packageReset => Sys2Proof.Machine.execPackageReset s
  | .powerUpSequence => Sys2Proof.Machine.execPowerUpSequence s
  | .supplyDroopStretch => Sys2Proof.Machine.execSupplyDroopStretch s
  | .thermalThrottle => Sys2Proof.Machine.execThermalThrottle s
  | .thermalShutdown => Sys2Proof.Machine.execThermalShutdown s
  | .portLinkTrained => Sys2Proof.Machine.execPortLinkTrained s
  | .bindRecordDispatch => Sys2Proof.Machine.execBindRecordDispatch s
  | .taskStart => Sys2Proof.Machine.execTaskStart s
  | .parkRelease => Sys2Proof.Machine.execParkRelease s
  | .loadDataReturn => Sys2Proof.Machine.execLoadDataReturn s
  | .divideResult => Sys2Proof.Machine.execDivideResult s
  | .fdivFsqrtResult => Sys2Proof.Machine.execFdivFsqrtResult s
  | .timerExpiry => Sys2Proof.Machine.execTimerExpiry s
  | .trapEntry => Sys2Proof.Machine.execTrapEntry s
  | .homeRegistration => Sys2Proof.Machine.execHomeRegistration s
  | .homeRemoteRead => Sys2Proof.Machine.execHomeRemoteRead s
  | .homeWriteBack => Sys2Proof.Machine.execHomeWriteBack s
  | .homeRedArrival => Sys2Proof.Machine.execHomeRedArrival s
  | .directoryHandlerDone => Sys2Proof.Machine.execDirectoryHandlerDone s
  | .formatWindowFill => Sys2Proof.Machine.execFormatWindowFill s
  | .formatWindowWriteback => Sys2Proof.Machine.execFormatWindowWriteback s
  | .formatWindowEnable => Sys2Proof.Machine.execFormatWindowEnable s
  | .pageWalk => Sys2Proof.Machine.execPageWalk s
  | .fqheadWrite => Sys2Proof.Machine.execFqheadWrite s
  | .faultRepost => Sys2Proof.Machine.execFaultRepost s
  | .flushPage => Sys2Proof.Machine.execFlushPage s
  | .flushContext => Sys2Proof.Machine.execFlushContext s
  | .flushComplete => Sys2Proof.Machine.execFlushComplete s
  | .copyWordTransfer => Sys2Proof.Machine.execCopyWordTransfer s
  | .copyComplete => Sys2Proof.Machine.execCopyComplete s
  | .mfreeCombinedArrival => Sys2Proof.Machine.execMfreeCombinedArrival s
  | .sparsityStoreResume => Sys2Proof.Machine.execSparsityStoreResume s
  | .offerAcceptArrival => Sys2Proof.Machine.execOfferAcceptArrival s
  | .resolverEvaluation => Sys2Proof.Machine.execResolverEvaluation s
  | .withdrawalRequestArrival => Sys2Proof.Machine.execWithdrawalRequestArrival s
  | .portFire => Sys2Proof.Machine.execPortFire s
  | .withdrawalAck => Sys2Proof.Machine.execWithdrawalAck s
  | .portTimeout => Sys2Proof.Machine.execPortTimeout s
  | .bufItemArrival => Sys2Proof.Machine.execBufItemArrival s
  | .bufCreditArrival => Sys2Proof.Machine.execBufCreditArrival s
  | .payloadReceive => Sys2Proof.Machine.execPayloadReceive s
  | .streamPayloadDelivery => Sys2Proof.Machine.execStreamPayloadDelivery s
  | .frontierAdvanceDelivery => Sys2Proof.Machine.execFrontierAdvanceDelivery s
  | .kStep => Sys2Proof.Machine.execKStep s
  | .commitDrain => Sys2Proof.Machine.execCommitDrain s
  | .groupRetire => Sys2Proof.Machine.execGroupRetire s
  | .ticketDeadlock => Sys2Proof.Machine.execTicketDeadlock s
  | .kernelAbort => Sys2Proof.Machine.execKernelAbort s
  | .weightArrival => Sys2Proof.Machine.execWeightArrival s
  | .treeNodeCombine => Sys2Proof.Machine.execTreeNodeCombine s
  | .flushProbeReturn => Sys2Proof.Machine.execFlushProbeReturn s
  | .doorbell => Sys2Proof.Machine.execDoorbell s
  | .tenantTurn => Sys2Proof.Machine.execTenantTurn s
  | .groupPlacement => Sys2Proof.Machine.execGroupPlacement s
  | .runListAging => Sys2Proof.Machine.execRunListAging s
  | .stealAttempt => Sys2Proof.Machine.execStealAttempt s
  | .stealRequestArrival => Sys2Proof.Machine.execStealRequestArrival s
  | .overflowRingRefill => Sys2Proof.Machine.execOverflowRingRefill s
  | .tdecArrival => Sys2Proof.Machine.execTdecArrival s
  | .tenqArrival => Sys2Proof.Machine.execTenqArrival s
  | .wenqArrival => Sys2Proof.Machine.execWenqArrival s
  | .preemptDeadline => Sys2Proof.Machine.execPreemptDeadline s
  | .groupSave => Sys2Proof.Machine.execGroupSave s
  | .groupRestore => Sys2Proof.Machine.execGroupRestore s
  | .ctxCreate => Sys2Proof.Machine.execCtxCreate s
  | .ctxBind => Sys2Proof.Machine.execCtxBind s
  | .ctxSave => Sys2Proof.Machine.execCtxSave s
  | .ctxRestore => Sys2Proof.Machine.execCtxRestore s
  | .ctxDestroy => Sys2Proof.Machine.execCtxDestroy s
  | .haltStop => Sys2Proof.Machine.execHaltStop s
  | .haltResume => Sys2Proof.Machine.execHaltResume s
  | .featlockWrite => Sys2Proof.Machine.execFeatlockWrite s
  | .tweightWrite => Sys2Proof.Machine.execTweightWrite s
  | .portcfgWrite => Sys2Proof.Machine.execPortcfgWrite s
  | .streamTableWrite => Sys2Proof.Machine.execStreamTableWrite s
  | .registerWrite => Sys2Proof.Machine.execRegisterWrite s
  | .owlSpdmExchange => Sys2Proof.Machine.execOwlSpdmExchange s
  | .owlUnlock => Sys2Proof.Machine.execOwlUnlock s
  | .owlLock => Sys2Proof.Machine.execOwlLock s
  | .owlStop => Sys2Proof.Machine.execOwlStop s
  | .owlResume => Sys2Proof.Machine.execOwlResume s
  | .owlArm => Sys2Proof.Machine.execOwlArm s
  | .owlDisarm => Sys2Proof.Machine.execOwlDisarm s
  | .owlReadSlot => Sys2Proof.Machine.execOwlReadSlot s
  | .owlWriteSlot => Sys2Proof.Machine.execOwlWriteSlot s
  | .owlReadMemory => Sys2Proof.Machine.execOwlReadMemory s
  | .owlWriteMemory => Sys2Proof.Machine.execOwlWriteMemory s
  | .owlReadHaltRecord => Sys2Proof.Machine.execOwlReadHaltRecord s
  | .errorDetected => Sys2Proof.Machine.execErrorDetected s
  | .unitSelftestComplete => Sys2Proof.Machine.execUnitSelftestComplete s
  | .homeAtomicAccess => Sys2Proof.Machine.execHomeAtomicAccess s
  | .counterRequestArrival => Sys2Proof.Machine.execCounterRequestArrival s
  | .watchRequestArrival => Sys2Proof.Machine.execWatchRequestArrival s
  | .stealAnswerArrival => Sys2Proof.Machine.execStealAnswerArrival s

end Sys2Proof.Machine
end

