-- ==== Sys2Proof/Machine/Step.lean ====
section
/-! DEFINITION. One step, and the placing of one instruction where the next step fetches. -/

namespace Sys2Proof.Machine

/-- One step: the next action of `nextAction`. -/
def step (s : State) : Host.Outcome State Fault Refusal :=
  match nextAction s with
  | .done s' => .next s'
  | .perform i s' => exec i s'
  | .ended r => r

/-- The state with one instruction placed where the next step fetches (DEDUCED, log 17): slot 0 of core 0 is Running at virtual and physical
address 0x2000, no other slot of core 0 holds a task, nothing comes from outside first, and the octet's TLB maps the page. -/
def State.withFetchWord (s : State) (nbits w : Nat) : State := placeWord nbits w s

end Sys2Proof.Machine
end

