-- ==== Sys2Proof/Safety.lean ====
section
/-! DEFINITION. What claims mean by a run, by a safe state, and by an instruction that is ready, that completes, and that
leaves a part of the machine alone. -/

namespace Sys2Proof.Machine

/-- The states that some number of steps lead to from a state, without a fault or a refusal. -/
inductive Reaches : State → State → Prop where
  | refl (s : State) : Reaches s s
  | step {s t u : State} : Sys2Proof.Machine.step s = .next t → Reaches t u → Reaches s u

/-- Memory in its canonical form: physical memory and every core's local array. -/
def State.memWf (s : State) : Prop := Memory.wf s.mem = true ∧ ∀ e ∈ s.cores, Memory.wf e.2.arr = true

/-- A state is safe if its step neither faults nor is refused. -/
def Safe (s : State) : Prop := ∃ t, Sys2Proof.Machine.step s = .next t

/-- The power of the package is off (R487), and no start-up waits outside. -/
def PoweredOff (s : State) : Prop := s.power.boot = 3 ∧ ∀ m ∈ s.inputs, m.ev ≠ .powerUpSequence

/-! ### When an instruction has its own effect -/

/-- An instruction of the issuing slot has its own effect, not a trap or a wait of the checks before it (R59, R63, R120,
R157): the driver has accepted its features, a privileged one runs with SV set, a dynamic rounding mode of 5 is
accepted, no register that it reads is outstanding, and no replay is in progress. -/
structure Ready (i : Instr) (s : State) : Prop where
  features : ∀ n ∈ featureGroups i, accepted s n = true
  rights : privileged i = true → s.me.sv = true
  rounding : roundingOf i = some .dyn → slice s.me.sys.mode 2 0 = 5 → accepted s 15 = true
  results : ∀ r ∈ regsRead i, r ∉ s.me.owed
  replay : s.me.replay = none

/-- An instruction completes and the next one follows: `t` is what its own effect makes of the state, and the end-of-body
rule is applied at its address (R150), or the slot parks for the switch marker (R45). -/
def Completes (i : Instr) (s t : State) : Prop :=
  exec i s = .next (completeAt s.me.pc (s.me.pc + BitVec.ofNat 64 i.len) t)

/-- An instruction completes with an effect on the issuing slot alone. -/
def Writes (i : Instr) (s : State) (f : Slot → Slot) : Prop := Completes i s (s.onMe f)

/-- A control transfer to `target` (R151): `t` is what the instruction's own effect makes of the state. -/
def JumpsTo (i : Instr) (s t : State) (target : Word) : Prop :=
  exec i s = .next (t.onMe fun sl =>
    let sl := branchOut sl.settle target
    if t.mark && sl.marks then sl.park (.marker none) else sl)

/-- A trap is raised with its cause and information, and nothing else happens (R109). -/
def Traps (i : Instr) (s : State) (cause : Nat) (info : Word) : Prop :=
  exec i s = .next (raiseTrap s.cur cause info s.me.pc s)

/-- The instruction parks its slot on a reason, with the state otherwise `t`. -/
def ParksOn (i : Instr) (s t : State) (r : Reason) : Prop := exec i s = .next (t.onMe (·.park r))

/-- What an instruction with W = 1 sees of a signed source and writes of a result: bits 31:0 sign-extended (R121). -/
def signedOf (w : Bool) (x : Word) : Word := if w then (x.setWidth 32).signExtend 64 else x

/-- What an instruction with W = 1 sees of an unsigned source: bits 31:0 zero-extended (R121). -/
def unsignedOf (w : Bool) (x : Word) : Word := if w then (x.setWidth 32).setWidth 64 else x

/-- The width of the values of an instruction with the bit W. -/
def bitsOf (w : Bool) : Nat := if w then 32 else 64

/-- An instruction completes and owes its general register `d` the value `v`, which lands when `cyc` of the core has advanced
by `n` (R123, R161). -/
def OwesAfter (i : Instr) (s : State) (fp : Bool) (n : Nat) (d : BitVec 5) (v : Word) (flags : BitVec 6) : Prop :=
  Completes i s (s.onMe fun sl => sl.addPend [⟨0, d.toNat⟩]
    (.timed [.g d.toNat v] flags ((s.core (coreOf s.cur)).cyc + BitVec.ofNat 64 n) fp))

/-- An instruction that rounds completes: its registers take their values, its flags are set in `st` and `rnc` has moved past its
draws; or, where an element narrows out of range under the policy TRAP, it raises 0x11 with the element's index, which `prg`
keeps with identity 0, and no register or flag changes (R73, R76, R78). -/
def RoundsTo (i : Instr) (s : State) (xs : List RegVal) (c : Fpu) : Prop :=
  match c.trapAt with
  | none => Writes i s fun sl => (xs.foldl Slot.wr sl).onSys fun y =>
      { y with st := y.st ||| c.flags.setWidth 64, rnc := c.rnc }
  | some e => exec i s = .next (raiseTrap s.cur 0x11 (BitVec.ofNat 64 e) s.me.pc
      (s.onMe fun sl => sl.onSys fun y => { y with prg := narrowPrg y.prg e }))

/-! ### What a step leaves alone -/

/-- Every part of the machine but the slots is as before: every byte of memory and of the local arrays, every cache,
register of a unit, connector, context and message; and every slot but the issuing one is. -/
def OnlyMySlot (s t : State) : Prop :=
  t = { s with slots := t.slots } ∧ (∀ k, k ≠ s.cur → t.slot k = s.slot k) ∧
  (∀ a, memByte t.mem a = memByte s.mem a) ∧ ∀ c a, memByte (t.core c).arr a = memByte (s.core c).arr a

/-- Every register of a slot but the pc and the loop counts is as before, except those of `d`. -/
structure RegsKept (d : RegId → Prop) (sl sl' : Slot) : Prop where
  general : ∀ n, n < 32 → ¬ d ⟨0, n⟩ → sl'.rg n = sl.rg n
  vector : ∀ n, n < 16 → ¬ d ⟨1, n⟩ → sl'.rv n = sl.rv n
  predicate : ∀ n, n < 8 → ¬ d ⟨2, n⟩ → sl'.rp n = sl.rp n
  extension : ∀ n, ¬ d ⟨3, n⟩ → sl'.rx n = sl.rx n
  ports : sl'.ports = sl.ports

/-- Every special register of a slot is as before, but the counts of the hardware loops (R102 to R107, R147). -/
def SpecialKept (sl sl' : Slot) : Prop :=
  sl'.sys = { sl.sys with loop0 := sl'.sys.loop0, loop1 := sl'.sys.loop1 } ∧
  (∀ k, (sl'.loop k).ls = (sl.loop k).ls ∧ (sl'.loop k).le = (sl.loop k).le ∧
    ∀ j, 32 ≤ j → (sl'.loop k).lc.getLsbD j = (sl.loop k).lc.getLsbD j)

/-! ### Accesses -/

/-- The access of n bytes at each of these spans passes every check of R217 (order 1 to 6) for its kind and alignment, meets no
open channel's range and no copy's target (R235), and no earlier access of the slot holds it up (R157, R201). -/
structure Passes (s : State) (kind : AccKind) (al : Nat) (us : List Span) : Prop where
  checks : checkAccess s.cur kind al us s = none
  targets : meetTargets s.cur us (kind != .load) s = none
  early : accessWait s.me = none

/-- n bytes from a lie in the scratchpad of the issuing slot's core, which ends below the system local area (R193, R216), the slot is a
throughput slot and no channel of the core is open (R235). -/
structure InScratchpad (s : State) (a n : Nat) : Prop where
  above : localBase ≤ a
  inside : a - localBase + n ≤ (s.core s.myCore).spsz
  below : a - localBase + n ≤ 0x7c000
  fits : a + n ≤ 2 ^ 64
  some : 0 < n
  throughput : s.me.det = false
  closed : ∀ c ∈ (s.core s.myCore).transfer.chans.toList, c.opened = false

/-- No load and no atomic of the issuing slot is on its way. -/
def NothingOnItsWay (s : State) : Prop := ∀ p ∈ s.me.pend, isAccess p = false

/-- What a load still has to fetch for lane j of register r: `avail` of the n bytes at virtual address a. The instruction's accesses are us:
where they cover the sector of the word, it is fetched as one block (R405). -/
def itemAt (s : State) (us : List Span) (r : RegId) (j : Nat) (a : Word) (n avail : Nat) (sgn : Bool) : LoadItem :=
  let place := if avail = 0 then .arr 0 0 else placeAt s.cur .load s a.toNat
  { reg := r, lane := j, place := place, size := n, avail := avail,
    signed := sgn, seq := match groupOf s s.cur with
      | some g => g.next
      | none => 0,
    sector := match place with
      | .mem _ => decide (8 ≤ us.length) && coversSector us a.toNat
      | .arr _ _ => false }

/-- The state in which a load owes its registers, and its data are on their way (R222). -/
def owingData (s : State) (xs : List LoadItem) : State :=
  (s.onMe fun sl => sl.addPend (itemRegs xs) (.load xs)).post (evt .loadDataReturn s.cur s.me.traffic.nextId 0)

/-- An instruction stores into the local array of core c and does nothing else than `g` to its slot: the byte at offset a takes
the value `f a` where it has one; every other byte of every array and of memory, and every other slot, is as before. -/
def StoresInArray (i : Instr) (s : State) (g : Slot → Slot) (c : Nat) (f : Nat → Option (BitVec 8)) : Prop :=
  ∃ t, Completes i s t ∧ t.me = g s.me ∧ t.cur = s.cur ∧ (∀ k, k ≠ s.cur → t.slot k = s.slot k) ∧ t.mem = s.mem ∧
    ∀ d a, memByte (t.core d).arr a =
      if d = c then (f a).getD (memByte (s.core d).arr a) else memByte (s.core d).arr a

/-- The state in which an instruction owes a register a value that is known, and its return is on its way (R45). -/
def owing (s : State) (x : RegVal) : State :=
  (s.onMe fun sl => sl.addPend [x.id] (.value [x] 0#6)).post (evt .loadDataReturn s.cur s.me.traffic.nextId 0)

/-- The same for a general register. -/
def owingValue (s : State) (d : BitVec 5) (v : Word) : State := owing s (.g d.toNat v)

/-- No access of the issuing slot is on its way, and no commit buffer stands before its group's accesses (R236). -/
structure Settled (s : State) : Prop where
  none : NothingOnItsWay s
  out : s.me.traffic.out = []
  plain : buffered s s.cur = false

/-- A task record at address x in the scratchpad of the issuing slot's core (R98): its bytes from 48 on are q, and its HOME is a
core of the context's partition (R420). -/
structure RecordAt (s : State) (x : Word) (q : List (BitVec 8)) : Prop where
  aligned : x.toNat % 64 = 0
  inside : InScratchpad s x.toNat 64
  tail : q = memBytes (s.core s.myCore).arr (x.toNat - localBase + 48) 16
  home : recHome q ∈ partitionCores s s.myCtx

/-- A message as the issuing slot sends it: named by its core, slot and, in a deterministic slot, the next sequence number (R359). -/
def named (s : State) (e : Instr) (m : Arg) : Msg :=
  ⟨e, { m with sender := s.cur + 1, seq := if s.me.det then s.me.traffic.seq + 1 else 0, sent := s.mcyc }⟩

/-- The issuing slot after it has sent a message: a deterministic slot has used one more sequence number (R359). -/
def afterSend (sl : Slot) : Slot :=
  if sl.det then { sl with traffic := { sl.traffic with seq := sl.traffic.seq + 1 } } else sl

/-- No work stands ready for slot k: no entry of its core's run list has a context that takes work, and, for a slot of a deterministic
kernel, dispatch has no task waiting in any group (R358, R416). -/
structure NothingListed (s : State) (k : Nat) : Prop where
  entries : ∀ e ∈ (s.core (coreOf k)).runList, ctxOpen s e.ctx = false
  tasks : (s.slot k).det = true → (s.slot k).bind.bound = true → ∀ g ∈ s.groups, g.2.toStart = []

/-- An event happens: its effect is `t`. -/
def Happens (e : Instr) (s t : State) : Prop := exec e s = .next t

end Sys2Proof.Machine
end

