-- ==== Sys2Proof/Certificates/Slice0/Obligations.lean ====
section
/-! DEFINITION. The statements for the provers: what the rules of the spec say that the instructions, the events and the
machine do. -/

open Sys2Proof Sys2Proof.Machine

/-- A step performs exec of the decoded instruction. In a state with no event from outside, with power and at a core's turn, let
the core run with no stop waiting, owe no timed result, have no wait to interrupt, no trap entry and no release due, and let
slot k be chosen with no timer cause to take. If the fetch at the pc of k gives the word w and w decodes to i with switch
marker b, then step is exec of i, on the state in which k issues (atIssue, with what the fetch changed) and the marker is b;
the completion of i moves the pc past the word (the other statements). After reset with any word placed (log 17), step is exec
of the decoded instruction with the pc at the word and the marker as decoded. (03_encoding R44, 05_slot R96) -/
def Obligations.StepRunsDecodedInstruction : Prop :=
  (∀ (s s' : State) (k n w : Nat) (f : Fetched),
    s.inputs = [] → s.power.boot ≠ 3 → s.turn = false → coreDue s (coreOf s.cur) = none →
    (s.core (coreOf s.cur)).stopped = false → (s.core (coreOf s.cur)).halting = none →
    (∀ j ∈ coreSlots (coreOf s.cur), interruptible s j = false ∧ entryDue s j = false ∧ releaseDue s j = false) →
    chosen s (coreOf s.cur) = some k →
    ((atIssue (coreOf s.cur) k s).slot k).timerDue = false →
    fetchWord k ((atIssue (coreOf s.cur) k s).slot k).pc (atIssue (coreOf s.cur) k s) = .ok (n, w, s') →
    decodeWord (BitVec.ofNat 32 w) = .ok f →
    step s = exec f.i { s' with mark := f.sb }) ∧
  ∀ (w : BitVec 32) (f : Fetched), decodeWord w = .ok f →
    ∃ t : State, step (State.reset.withFetchWord 32 w.toNat) = exec f.i t ∧
      t.cur = 0 ∧ t.mark = f.sb ∧ t.me.pc = 0x2000#64 ∧ t.me.run = .running

/-- Words written out from the encoding tables decode to their instructions with the switch marker clear: ADD.W, BFXU, DIV.W, MFS
of coord, TRAP 37, GET, GBAR and C.WFW; ADD.W with S set decodes with the marker set; the parcels 0x0000 and 0xffff are
illegal. (03_encoding R48, 03_encoding R52, 03_encoding R55, 03_encoding R59) -/
def Obligations.WordsOfTheManualDecode : Prop :=
  decodeWord 0x8018e705#32 = .ok ⟨.add true 6#5 7#5 7#5, false, 4⟩ ∧
  decodeWord 0x8018e707#32 = .ok ⟨.add true 6#5 7#5 7#5, true, 4⟩ ∧
  decodeWord 0x403ca629#32 = .ok ⟨.bfxu 0#6 15#6 5#5 6#5, false, 4⟩ ∧
  decodeWord 0x82ad4905#32 = .ok ⟨.div true 11#5 10#5 9#5, false, 4⟩ ∧
  decodeWord 0x02000571#32 = .ok ⟨.mfs 0x080#12 5#5, false, 4⟩ ∧
  decodeWord 0x00142079#32 = .ok ⟨.trap 5#5 1#5, false, 4⟩ ∧
  decodeWord 0x240009e1#32 = .ok ⟨.get 1#3 9#5, false, 4⟩ ∧
  decodeWord 0x0a18a0f5#32 = .ok ⟨.gbar 6#5 5#5, false, 4⟩ ∧
  decodeWord 0x000000f8#32 = .ok ⟨.cWfw, false, 2⟩ ∧
  (∀ x : BitVec 16, decodeWord (x ++ 0x0000#16) = .error .illegalParcel) ∧
  ∀ x : BitVec 16, decodeWord (x ++ 0xffff#16) = .error .illegalParcel

/-- For every instruction that has a word (well formed, encoded, and not one whose first parcel is 0x0000 or 0xffff, which are
illegal), with either switch marker and whatever bytes follow: decoding its bytes gives the same instruction with every
operand, the marker, and its length. The length is 4 exactly if bit 0 of the first byte is 1, and 2 otherwise. (03_encoding
R43, 03_encoding R44, 03_encoding R48, 03_encoding R51, 03_encoding R52, 03_encoding R55) -/
def Obligations.DecodeInvertsEncode : Prop :=
  ∀ (sb : Bool) (i : Instr) (rest : List (BitVec 8)), Encodable sb i →
    decodeBytes (encode sb i ++ rest) = .ok ⟨i, sb, i.len⟩ ∧
    (encode sb i).length = i.len ∧
    ((encode sb i).headD 0#8).getLsbD 0 = decide (i.len = 4)

/-- In every state, exec of every instruction and event answers a next state or the one fault of the model, an access to a
physical address at which there is neither memory nor a register; it never answers a refusal. (95_what_each_step_holds,
09_word R190, 28_link R469) -/
def Obligations.NothingIsRefused : Prop :=
  ∀ (i : Instr) (s : State), (∃ t, exec i s = .next t) ∨ exec i s = .fault .noMemory

/-- R487 removes power. An invariant of the step: if the package is off and nothing that comes from outside is a start-up, then a
step answers a next state, in which the package is still off and everything is as before but for the event that was taken from
the inputs and lost. (That no event but the start-up reaches a package without power is the model's reading, log 3.) (28_link
R487) -/
def Obligations.PowerOffLasts : Prop :=
  ∀ s : State, PoweredOff s → ∃ t, step s = .next t ∧ PoweredOff t ∧ t = { s with inputs := s.inputs.tail }

/-- A trap raised at a slot with every long-latency result written and no trap deferred by a replay: with TH 0 and a handler, the
slot runs with cause, epc, tval as given, st as before but for TH set, the pc at tvec, and every other register (general,
vector, predicate, extension, port, mode, loop and other special registers) as before; no other slot and no other part of the
machine changes, no byte of memory among it. With TH set or tvec 0, the context of the slot faults with this cause: a context
that is not Faulted or Free becomes Faulted (code 7). With a result still outstanding, the slot parks for the entry and
nothing else happens. The event TRAP_ENTRY completes; at a slot that waits for its trap entry it leaves everything as it is
while a long-latency result is outstanding, and enters the trap with the cause, information and address that were recorded
when all are written; where the trap is one with which the context faults, the context becomes Faulted then. Choices of the
model on which it rests: log 21. (05_slot R109, 24_context R431) -/
def Obligations.TrapEntrySavesAndVectors : Prop :=
  (∀ (s : State) (k c : Nat) (v e : Word), (s.slot k).replay = none →
    ((s.slot k).quiet = true →
      ((s.slot k).th = false → (s.slot k).sys.tvec ≠ 0#64 →
        ∃ t, raiseTrap k c v e s = t ∧
          (t.slot k).pc = (s.slot k).sys.tvec ∧ (t.slot k).run = .running ∧
          (t.slot k).sys = { (s.slot k).sys with
            cause := BitVec.ofNat 64 c, epc := e, tval := v, st := (s.slot k).sys.st ||| 0x200#64 } ∧
          RegsKept (fun _ => False) (s.slot k) (t.slot k) ∧
          t = { s with slots := t.slots } ∧ ∀ j, j ≠ k → t.slot j = s.slot j) ∧
      ((s.slot k).th = true ∨ (s.slot k).sys.tvec = 0#64 →
        ∀ x, tfind s.ctxs (s.slot k).bind.ctx = some x → x.st ≠ 0 → x.st ≠ 7 →
          ctxState (raiseTrap k c v e s) (s.slot k).bind.ctx = 7)) ∧
    ((s.slot k).quiet = false →
      raiseTrap k c v e s = s.onSlot k fun sl => { sl with run := .parked (.trapEntry c v e) })) ∧
  (∀ (s : State) (c : Nat) (v e : Word) (x : Ctx), (s.slot s.arg.k).run = .parked (.faultEntry c v e) →
    ((s.slot s.arg.k).quiet = false → exec .trapEntry s = .next s) ∧
    ((s.slot s.arg.k).quiet = true → tfind s.ctxs (s.slot s.arg.k).bind.ctx = some x → x.st ≠ 0 → x.st ≠ 7 →
      ∃ t, exec .trapEntry s = .next t ∧ ctxState t (s.slot s.arg.k).bind.ctx = 7)) ∧
  ∀ (s : State) (c : Nat) (v e : Word), (s.slot s.arg.k).run = .parked (.trapEntry c v e) →
    ((s.slot s.arg.k).quiet = false → exec .trapEntry s = .next s) ∧
    ((s.slot s.arg.k).quiet = true → (s.slot s.arg.k).replay = none → (s.slot s.arg.k).th = false → (s.slot s.arg.k).sys.tvec ≠ 0#64 →
      ∃ t, exec .trapEntry s = .next t ∧ (t.slot s.arg.k).pc = (s.slot s.arg.k).sys.tvec ∧ (t.slot s.arg.k).run = .running ∧
        (t.slot s.arg.k).sys.cause = BitVec.ofNat 64 c ∧ (t.slot s.arg.k).sys.epc = e ∧ (t.slot s.arg.k).sys.tval = v ∧
        (t.slot s.arg.k).th = true ∧ t = { s with slots := t.slots } ∧ ∀ j, j ≠ s.arg.k → t.slot j = s.slot j)

/-- A ready TRAP raises cause 0x05 with the code a:b; a ready BKPT or C_BKPT at a slot that the debug function has not armed
raises cause 0x06 with information 0; at an armed slot it stops the partition and the slot does not move on. For a ready ERET
or C_ERET: with TH set the next state has the pc at epc and TH clear, every other special register and every other register as
before, and no other part of the machine changed; with TH clear the trap 0x01 is raised with the word. (05_slot R112, 05_slot
R113) -/
def Obligations.TrapInstructionsAndReturns : Prop :=
  (∀ (s : State) (b a : BitVec 5), Ready (.trap b a) s → Traps (.trap b a) s 0x05 ((a ++ b).setWidth 64)) ∧
  (∀ (s : State) (i : Instr), i = .bkpt ∨ i = .cBkpt → Ready i s →
    (s.me.armed = false → Traps i s 0x06 0#64) ∧
    (s.me.armed = true → exec i s = .next (stopPartition s.myCtx 5 s.myCore s))) ∧
  ∀ (s : State) (i : Instr), i = .eret ∨ i = .cEret → Ready i s →
    (s.me.th = true → ∃ t, exec i s = .next t ∧ t.me.pc = s.me.sys.epc ∧ t.me.th = false ∧
      t.me.sys = { s.me.sys with st := t.me.sys.st } ∧ (∀ j, j ≠ 9 → t.me.sys.st.getLsbD j = s.me.sys.st.getLsbD j) ∧
      RegsKept (fun _ => False) s.me t.me ∧ OnlyMySlot s t) ∧
    (s.me.th = false → Traps i s 0x01 (wordOf i s))

/-- For every encoded instruction and every state: if the driver has not accepted one of its features, it raises 0x03 with its
word; if all are accepted, it is of major 0x1f and SV is clear, it raises 0x02 with its word. Nothing else happens than the
trap. (03_encoding R59, 03_encoding R60, 03_encoding R62) -/
def Obligations.FeatureAndPrivilegeGates : Prop :=
  ∀ (i : Instr) (s : State), i.len ≠ 0 →
    ((∃ n ∈ featureGroups i, accepted s n = false) → Traps i s 0x03 ((encodeWord s.mark i).setWidth 64)) ∧
    ((∀ n ∈ featureGroups i, accepted s n = true) → privileged i = true → s.me.sv = false →
      Traps i s 0x02 ((encodeWord s.mark i).setWidth 64))

/-- For every encoded instruction past its gates, in deterministic mode and with no replay: if it reads a register that an
outstanding result owes, it raises cause 0x12 with file times 32 plus number of the first such register that it reads. (Which
one of several is named is the model's choice, log 20.) (05_slot R120, 05_slot R108) -/
def Obligations.HazardTrapsInDeterministicMode : Prop :=
  ∀ (i : Instr) (s : State) (r : RegId), i.len ≠ 0 → gateCause i s = none → s.me.det = true → s.me.replay = none →
    (regsRead i).find? (fun x => s.me.owed.contains x) = some r →
    Traps i s 0x12 (BitVec.ofNat 64 (r.file * 32 + r.num))

/-- The frame of every instruction whose effect the other statements give as a write of one register (Writes with wg, wv or wp):
in the next state the destination holds the value (g0 and p0 keep theirs: the write is discarded), every other register,
special register and port is as before but the pc and the loop counts, every flag among them; no other slot and nothing else
of the machine changes, no byte of memory or of a local array. (05_slot R119, 03_encoding R50, 07_control_fp R150) -/
def Obligations.RegisterResultFrame : Prop :=
  ∀ (s : State) (a next : Word) (r : RegVal),
    (match r with | .g n _ => n < 32 | .v n _ => n < 16 | .p n _ => n < 8) →
    ∃ t, completeAt a next (s.onMe fun sl => sl.wr r) = t ∧
      RegsKept (fun x => x = r.id) s.me t.me ∧ SpecialKept s.me t.me ∧ OnlyMySlot s t ∧
      (match r with
        | .g n x => t.me.rg n = if n = 0 then 0#64 else x
        | .v n x => t.me.rv n = x
        | .p n x => t.me.rp n = if n = 0 then 0xffff#16 else x)

/-- A ready ADD, SUB, MUL, MIN, MAX, MINU or MAXU with either W completes and writes its result: the wrapped sum, difference or
product of the sources, sign-extended from 32 bits under W = 1, or the lesser or greater of them, signed or unsigned; MULH and
MULHU write bits 127:64 of the exact product; LEA writes g[a] + g[b] * 2^c mod 2^64. Nothing else changes
(RegisterResultFrame). (06_integer R121, 06_integer R122, 06_integer R125, 06_integer R126, 06_integer R128) -/
def Obligations.ArithmeticResults : Prop :=
  ∀ (s : State) (w : Bool) (c : BitVec 2) (b a d : BitVec 5),
    let x := s.me.rg a.toNat
    let y := s.me.rg b.toNat
    let w1 := fun (i : Instr) (v : Word) => Ready i s → Writes i s fun sl => sl.wg d.toNat v
    w1 (.add w b a d) (signedOf w (x + y)) ∧
    w1 (.sub w b a d) (signedOf w (x - y)) ∧
    w1 (.mul w b a d) (signedOf w (x * y)) ∧
    w1 (.mulh b a d) ((x.signExtend 128 * y.signExtend 128).extractLsb' 64 64) ∧
    w1 (.mulhu b a d) ((x.setWidth 128 * y.setWidth 128).extractLsb' 64 64) ∧
    w1 (.min w b a d) (if (signedOf w y).slt (signedOf w x) then signedOf w y else signedOf w x) ∧
    w1 (.max w b a d) (if (signedOf w x).slt (signedOf w y) then signedOf w y else signedOf w x) ∧
    w1 (.minu w b a d) (signedOf w (if (unsignedOf w y).ult (unsignedOf w x) then y else x)) ∧
    w1 (.maxu w b a d) (signedOf w (if (unsignedOf w x).ult (unsignedOf w y) then y else x)) ∧
    w1 (.lea c b a d) (x + y * BitVec.ofNat 64 (2 ^ c.toNat))

/-- A ready DIV, DIVU, REM or REMU whose divisor (bits 31:0 of it under W = 1) is zero raises 0x10 with information 0, whatever d
is; otherwise it completes and owes g[d] the quotient rounded toward zero or the remainder with the dividend's sign (the most
negative value by -1 gives itself and 0), sign-extended from 32 bits under W = 1, to be written 40 cycles later, or 24 for the
W form. Both events complete in every state. For a slot whose one outstanding result of identity a is a timed value for g[d]
that it still owes: before its cycle the event changes nothing; from then on the flags are set, g[d] holds the value (g0 reads
zero), the result is outstanding no more, and no other register, no special register but st and nothing outside the slot
changes. Choices of the model on which it rests: logs 22, 23. (06_integer R123, 06_integer R125, 06_integer R127, 05_slot
R119, 07_control_fp R161) -/
def Obligations.DividesAndOwedResults : Prop :=
  (∀ (s : State) (w : Bool) (b a d : BitVec 5),
    let x := s.me.rg a.toNat
    let y := s.me.rg b.toNat
    let n := if w then 24 else 40
    let one := fun (i : Instr) (v : Word) => Ready i s →
      (unsignedOf w y = 0#64 → Traps i s 0x10 0#64) ∧ (unsignedOf w y ≠ 0#64 → OwesAfter i s false n d v 0#6)
    one (.div w b a d) (signedOf w ((signedOf w x).sdiv (signedOf w y))) ∧
    one (.rem w b a d) (signedOf w ((signedOf w x).srem (signedOf w y))) ∧
    one (.divu w b a d) (signedOf w ((unsignedOf w x).udiv (unsignedOf w y))) ∧
    one (.remu w b a d) (signedOf w ((unsignedOf w x).umod (unsignedOf w y)))) ∧
  ((∀ (s : State) (i : Instr), i = .divideResult ∨ i = .fdivFsqrtResult → ∃ t, exec i s = .next t) ∧
  ∀ (s : State) (i : Instr) (d : Nat) (v due : Word) (flags : BitVec 6) (fp : Bool), i = .divideResult ∨ i = .fdivFsqrtResult → d < 32 →
    (s.slot s.arg.k).replay = none →
    (s.slot s.arg.k).pend = [⟨s.arg.a, [⟨0, d⟩], .timed [.g d v] flags due fp⟩] →
    (reached (s.core (coreOf s.arg.k)).cyc due = false → exec i s = .next s) ∧
    (reached (s.core (coreOf s.arg.k)).cyc due = true → ∃ t, exec i s = .next t ∧
      (t.slot s.arg.k).rg d = (if d = 0 then 0#64 else v) ∧ (t.slot s.arg.k).pend = [] ∧
      (t.slot s.arg.k).sys = { (s.slot s.arg.k).sys with st := (s.slot s.arg.k).sys.st ||| flags.setWidth 64 } ∧
      RegsKept (fun x => x = ⟨0, d⟩) (s.slot s.arg.k) (t.slot s.arg.k) ∧
      t = { s with slots := t.slots } ∧ ∀ j, j ≠ s.arg.k → t.slot j = s.slot j))

/-- Ready AND, OR, XOR, ANDN, ORN, SLL, SRL, SRA and ROT, with amounts from bits 5:0 (4:0 under W = 1) of g[b], ADDI, ANDI, ORI
and XORI with the sign-extended immediate, and SLLI, SRLI, SRAI and ROTI with their amount (below 32 under W = 1, as every
legal word has it) complete and write the result; under W = 1 it is taken from bits 31:0 and sign-extended. (06_integer R129,
06_integer R130, 06_integer R131) -/
def Obligations.LogicAndShiftResults : Prop :=
  ∀ (s : State) (w : Bool) (b a d : BitVec 5) (imm : BitVec 14) (n : BitVec 6),
    let x := s.me.rg a.toNat
    let y := s.me.rg b.toNat
    let k := y.toNat % bitsOf w
    let w1 := fun (i : Instr) (v : Word) => Ready i s → Writes i s fun sl => sl.wg d.toNat v
    let sll := fun (k : Nat) => if w then ((x.setWidth 32) <<< k).signExtend 64 else x <<< k
    let srl := fun (k : Nat) => if w then ((x.setWidth 32) >>> k).signExtend 64 else x >>> k
    let sra := fun (k : Nat) => if w then ((x.setWidth 32).sshiftRight k).signExtend 64 else x.sshiftRight k
    let rot := fun (k : Nat) => if w then ((x.setWidth 32).rotateRight k).signExtend 64 else x.rotateRight k
    w1 (.and b a d) (x &&& y) ∧ w1 (.or b a d) (x ||| y) ∧ w1 (.xor b a d) (x ^^^ y) ∧
    w1 (.andn b a d) (x &&& ~~~y) ∧ w1 (.orn b a d) (x ||| ~~~y) ∧
    w1 (.sll w b a d) (sll k) ∧ w1 (.srl w b a d) (srl k) ∧ w1 (.sra w b a d) (sra k) ∧ w1 (.rot w b a d) (rot k) ∧
    w1 (.addi imm a d) (x + imm.signExtend 64) ∧ w1 (.andi imm a d) (x &&& imm.signExtend 64) ∧
    w1 (.ori imm a d) (x ||| imm.signExtend 64) ∧ w1 (.xori imm a d) (x ^^^ imm.signExtend 64) ∧
    (n.toNat < bitsOf w →
      w1 (.slli w n a d) (sll n.toNat) ∧ w1 (.srli w n a d) (srl n.toNat) ∧
      w1 (.srai w n a d) (sra n.toNat) ∧ w1 (.roti w n a d) (rot n.toNat))

/-- Ready CLZ, CTZ and POPC write the number of leading zeros, trailing zeros and ones of v, told by its bits; BSWAP moves byte i
to byte 7 - i; SEXT and ZEXT extend bits n-1:0; BFX and BFXU extend the field of width n + 1 at lsb l, and BFI replaces it (l
+ n + 1 at most 64, as every legal word has it); LUI writes imm19 over 13 zeros, sign-extended; AUIPC adds the sign-extended
imm19 to the pc. (06_integer R129, 06_integer R132, 06_integer R133, 06_integer R134) -/
def Obligations.CountsBytesAndFields : Prop :=
  ∀ (s : State) (w : Bool) (a d : BitVec 5) (l n : BitVec 6) (imm : BitVec 19),
    let x := s.me.rg a.toNat
    let old := s.me.rg d.toNat
    let hi := l.toNat + n.toNat
    let ws := fun (i : Instr) (P : Word → Prop) => Ready i s → ∃ v, P v ∧ Writes i s fun sl => sl.wg d.toNat v
    ws (.clz w a d) (fun v => ∃ m, v = BitVec.ofNat 64 m ∧ m ≤ bitsOf w ∧
      (∀ j, bitsOf w - m ≤ j → j < bitsOf w → x.getLsbD j = false) ∧ (m < bitsOf w → x.getLsbD (bitsOf w - 1 - m) = true)) ∧
    ws (.ctz w a d) (fun v => ∃ m, v = BitVec.ofNat 64 m ∧ m ≤ bitsOf w ∧
      (∀ j, j < m → x.getLsbD j = false) ∧ (m < bitsOf w → x.getLsbD m = true)) ∧
    ws (.popc w a d) (fun v => v = BitVec.ofNat 64 ((List.range (bitsOf w)).filter x.getLsbD).length) ∧
    ws (.bswap a d) (fun v => ∀ i, i < 8 → v.extractLsb' (8 * (7 - i)) 8 = x.extractLsb' (8 * i) 8) ∧
    ws (.sext .n8 a d) (· = (x.setWidth 8).signExtend 64) ∧ ws (.sext .n16 a d) (· = (x.setWidth 16).signExtend 64) ∧
    ws (.sext .n32 a d) (· = (x.setWidth 32).signExtend 64) ∧ ws (.zext .n8 a d) (· = (x.setWidth 8).setWidth 64) ∧
    ws (.zext .n16 a d) (· = (x.setWidth 16).setWidth 64) ∧ ws (.zext .n32 a d) (· = (x.setWidth 32).setWidth 64) ∧
    (hi < 64 →
      ws (.bfx l n a d) (· = (x.extractLsb' l.toNat (n.toNat + 1)).signExtend 64) ∧
      ws (.bfxu l n a d) (· = (x.extractLsb' l.toNat (n.toNat + 1)).setWidth 64) ∧
      ws (.bfi l n a d) (fun v => ∀ j, j < 64 →
        v.getLsbD j = if l.toNat ≤ j ∧ j ≤ hi then x.getLsbD (j - l.toNat) else old.getLsbD j)) ∧
    ws (.lui imm d) (· = (imm ++ 0#13).signExtend 64) ∧
    ws (.auipc imm d) (· = s.me.pc + imm.signExtend 64)

/-- A ready PCMP (legal: a condition of codes 0 to 9 and, for a predicate destination, d below 8) puts the outcome of the
comparison, signed for codes 0 to 5 and unsigned for 6 to 9, of the sources (bits 31:0 under W = 1) into bit 0 of the
predicate, whose other bits become 0, or into the general register; PCMPI compares with the sign-extended immediate; PAND,
POR, PXOR and PNOT combine all 16 bits, p0 reading as all ones; SEL copies g[a] if bit 0 of the predicate is 1 and g[b] if
not; MIX writes the hash of bits 31:0. (06_integer R135, 06_integer R136, 06_integer R137, 06_integer R138, 06_integer R139) -/
def Obligations.CompareAndPredicateResults : Prop :=
  ∀ (s : State) (w : Bool) (c : Cond) (b a d : BitVec 5) (pb pa pd : BitVec 3) (imm : BitVec 10), c ≠ .un →
    let x := s.me.rg a.toNat
    let y := s.me.rg b.toNat
    let holds := fun (w : Bool) (x y : Word) => match c with
      | .eq => unsignedOf w x == unsignedOf w y
      | .ne => unsignedOf w x != unsignedOf w y
      | .lt => (signedOf w x).slt (signedOf w y)
      | .le => (signedOf w x).sle (signedOf w y)
      | .gt => (signedOf w y).slt (signedOf w x)
      | .ge => (signedOf w y).sle (signedOf w x)
      | .ltu => (unsignedOf w x).ult (unsignedOf w y)
      | .leu => (unsignedOf w x).ule (unsignedOf w y)
      | .gtu => (unsignedOf w y).ult (unsignedOf w x)
      | .geu => (unsignedOf w y).ule (unsignedOf w x)
      | .un => false
    let wp := fun (i : Instr) (v : BitVec 16) => Ready i s → Writes i s fun sl => sl.wp pd.toNat v
    let wg := fun (i : Instr) (v : Word) => Ready i s → Writes i s fun sl => sl.wg d.toNat v
    wp (.pcmp w false c b a (pd.setWidth 5)) (if holds w x y then 1#16 else 0#16) ∧
    wg (.pcmp w true c b a d) (if holds w x y then 1#64 else 0#64) ∧
    wp (.pcmpi c imm a pd) (if holds false x (imm.signExtend 64) then 1#16 else 0#16) ∧
    wp (.pand pb pa pd) (s.me.rp pa.toNat &&& s.me.rp pb.toNat) ∧
    wp (.por pb pa pd) (s.me.rp pa.toNat ||| s.me.rp pb.toNat) ∧
    wp (.pxor pb pa pd) (s.me.rp pa.toNat ^^^ s.me.rp pb.toNat) ∧
    wp (.pnot pa pd) (~~~ s.me.rp pa.toNat) ∧
    wg (.sel pb b a d) (if (s.me.rp pb.toNat).getLsbD 0 then x else y) ∧
    wg (.mix b a d)
      (let h0 : BitVec 32 := x.setWidth 32 + y.setWidth 32 * 0x9e3779b9#32
       let h1 := (h0 ^^^ (h0 >>> 16)) * 0x85ebca6b#32
       let h2 := (h1 ^^^ (h1 >>> 13)) * 0xc2b2ae35#32
       (h2 ^^^ (h2 >>> 16)).setWidth 64)

/-- C_MV, C_ADD, C_SUB, C_ADDI, C_LI, C_AND, C_OR and C_SLLI, when ready, complete with the effect on the registers that ADD with
g0, ADD, SUB, ADDI, ADDI from g0, AND, OR and SLLI have with W = 0, d as destination and first source and imm5 sign-extended
(unsigned for C_SLLI); the equivalent, when ready, completes with that same effect and moves the pc by 4 instead of 2.
(03_encoding R52, 06_integer R140) -/
def Obligations.CompressedFormsEqualTheirEquivalents : Prop :=
  ∀ (s : State) (b d imm : BitVec 5),
    let x := s.me.rg b.toNat
    let y := s.me.rg d.toNat
    let pair := fun (c i : Instr) (v : Word) => c.len = 2 ∧ i.len = 4 ∧
      (Ready c s → Writes c s fun sl => sl.wg d.toNat v) ∧ (Ready i s → Writes i s fun sl => sl.wg d.toNat v)
    pair (.cMv b d) (.add false b 0#5 d) x ∧ pair (.cAdd b d) (.add false b d d) (y + x) ∧
    pair (.cSub b d) (.sub false b d d) (y - x) ∧
    pair (.cAddi imm d) (.addi (imm.signExtend 14) d d) (y + imm.signExtend 64) ∧
    pair (.cLi imm d) (.addi (imm.signExtend 14) 0#5 d) (imm.signExtend 64) ∧
    pair (.cAnd b d) (.and b d d) (y &&& x) ∧ pair (.cOr b d) (.or b d d) (y ||| x) ∧
    pair (.cSlli imm d) (.slli false (imm.setWidth 6) d d) (y <<< imm.toNat)

/-- LEA is major 0x01 with func 0x10 + log2(s) and W = 0, writes (g[a] + g[b] * s) mod 2^64 for s = 1, 2, 4, 8 when ready, and
accesses, translates and checks nothing: it changes no other part of the machine. AUIPC is major 0x09 with imm19 in its high
bits and writes (pc + sext(imm19, 64)) mod 2^64, pc the address of its first parcel. (R128, R134) -/
def Obligations.LeaAndAuipcFormAddresses : Prop :=
  ∀ (s : State) (c : BitVec 2) (b a d : BitVec 5) (imm : BitVec 19) (sb : Bool),
    encodeWord sb (.lea c b a d) = (0#1 ++ (0x10#8 + c.setWidth 8) ++ b ++ a ++ d ++ 0x01#6 ++ BitVec.ofBool sb ++ 1#1) ∧
    encodeWord sb (.auipc imm d) = (imm ++ d ++ 0x09#6 ++ BitVec.ofBool sb ++ 1#1) ∧
    (Ready (.lea c b a d) s →
      Writes (.lea c b a d) s fun sl => sl.wg d.toNat (s.me.rg a.toNat + s.me.rg b.toNat * BitVec.ofNat 64 (2 ^ c.toNat))) ∧
    (Ready (.auipc imm d) s → Writes (.auipc imm d) s fun sl => sl.wg d.toNat (s.me.pc + imm.signExtend 64))

/-- A ready NOP or C_NOP completes, and the next state is the old one but for the pc (and the loop it may end); with the switch
marker set and a long-latency result outstanding the slot is parked on the marker at the following instruction, a reason that
holds exactly when every outstanding result has returned and no replay runs. (R114) -/
def Obligations.NopHasNoEffect : Prop :=
  ∀ (s : State) (i : Instr), i = .nop ∨ i = .cNop → Ready i s → Completes i s s ∧
    (s.mark = true → s.me.quiet = false → ∃ t, exec i s = .next t ∧
      t = s.onMe (fun sl => { sl.settle with pc := s.me.pc + BitVec.ofNat 64 i.len, run := (sl.settle.park (.marker (some s.me.pc))).run }) ∧
      (s.me.run = .running → t.me.run = .parked (.marker (some s.me.pc)) ∧
        ∀ u : State, reasonHolds u s.cur (.marker (some s.me.pc)) = (u.slot s.cur).quiet))

/-- Ready Bcc and C_BNZ compare whole 64-bit registers, signed for lt and ge; BP tests bit j of p[k]; taken, each transfers
control to pc + 2 * sext(offset) (C_BNZ: imm5 + 1 parcels ahead), else it completes with nothing changed. J and C_B transfer
to pc + 2 * sext(offset), JL too, with g1 := pc + 4. JLR and JR go to g[a] + sext(imm14), with g[d] := pc + 4 for JLR, after
g[a] is read; an odd target raises 0x08 with the target and no link is written. A control transfer (JumpsTo) sets the pc to
its target and applies R151 (ControlTransferLeavesLoops). Where a control transfer sets the pc to its target: each loop with
COUNT nonzero and H equal to TH, and the target below ls or above le, gets COUNT 0; every other loop, and everything of the
slot but the pc, stays as it is. (07_control_fp R141, 07_control_fp R143, 07_control_fp R144, 07_control_fp R145,
07_control_fp R146, 03_encoding R52, 03_encoding R53, 07_control_fp R148, 07_control_fp R151) -/
def Obligations.BranchesJumpsAndLoopExits : Prop :=
  (∀ (s : State) (o11 : BitVec 11) (o23 : BitVec 23) (o10 : BitVec 10) (imm : BitVec 14) (b a d : BitVec 5) (n : Bool) (j : BitVec 4)
      (k : BitVec 3) (c : BCond),
    let x := s.me.rg a.toNat
    let y := s.me.rg b.toNat
    let pc := s.me.pc
    let holds := match c with
      | .eq => x == y
      | .ne => x != y
      | .lt => x.slt y
      | .ge => y.sle x
      | .ltu => x.ult y
      | .geu => y.ule x
    let branch := fun (i : Instr) (taken : Bool) (t : Word) => Ready i s →
      (taken = true → JumpsTo i s s t) ∧ (taken = false → Completes i s s)
    let t := x + imm.signExtend 64
    branch (.bcc o11 b a c) holds (pc + 2 * o11.signExtend 64) ∧
    branch (.bp o11 n j k) ((s.me.rp k.toNat).getLsbD j.toNat == n) (pc + 2 * o11.signExtend 64) ∧
    branch (.cBnz b a) (x != 0#64) (pc + 2 * (b.setWidth 64 + 1)) ∧
    branch (.j o23) true (pc + 2 * o23.signExtend 64) ∧ branch (.cB o10) true (pc + 2 * o10.signExtend 64) ∧
    (Ready (.jl o23) s → JumpsTo (.jl o23) s (s.onMe fun sl => sl.wg 1 (pc + 4)) (pc + 2 * o23.signExtend 64)) ∧
    (Ready (.jlr imm a d) s →
      (t.getLsbD 0 = false → JumpsTo (.jlr imm a d) s (s.onMe fun sl => sl.wg d.toNat (pc + 4)) t) ∧
      (t.getLsbD 0 = true → Traps (.jlr imm a d) s 0x08 t)) ∧
    (Ready (.jr imm a) s →
      (t.getLsbD 0 = false → JumpsTo (.jr imm a) s s t) ∧ (t.getLsbD 0 = true → Traps (.jr imm a) s 0x08 t))) ∧
  (∀ (sl : Slot) (t : Word),
    (branchOut sl t).pc = t ∧ RegsKept (fun _ => False) sl (branchOut sl t) ∧ SpecialKept sl (branchOut sl t) ∧
    ∀ k : Bool,
      let l := sl.loop k
      (branchOut sl t).loop k =
        if l.lc.setWidth 32 ≠ 0#32 ∧ l.lc.getLsbD 63 = sl.th ∧ (t.ult l.ls = true ∨ l.le.ult t = true)
        then { l with lc := l.lc &&& 0xffffffff00000000#64 } else l)

/-- An instruction at a that completes without parking: where a loop governs (COUNT nonzero and H = TH) and ends at a, a COUNT
above 1 is lowered by 1 and the pc goes to ls, and a COUNT of 1 becomes 0; loop 1 is looked at first, and loop 0 only if loop
1 does not go back; with no loop going back the pc goes to the next instruction. A ready LOOP or LOOPI with a nonzero count
completes with ls[k] := pc + 4, le[k] := pc + 4 + 2 * imm14, and in lc[k] the count (g[a] bits 31:0, or the 9-bit immediate)
with H := TH; nothing else changes. With count 0 and the parcel at le fetched, it sets the same registers and transfers
control to the instruction behind the one at le, whose length its parcel says; a fetch that traps gives 0x0d with le and no
loop register changes. Choices of the model on which it rests: log 24. (07_control_fp R148, 07_control_fp R150, 07_control_fp
R147, 07_control_fp R149) -/
def Obligations.LoopsAreSetAndEnd : Prop :=
  (∀ (s : State) (a next : Word), (s.mark = false ∨ s.me.marks = false) →
    let l1 := s.me.sys.loop1
    let l0 := s.me.sys.loop0
    let at1 := l1.lc.setWidth 32 ≠ 0#32 ∧ l1.lc.getLsbD 63 = s.me.th ∧ a = l1.le
    let at0 := l0.lc.setWidth 32 ≠ 0#32 ∧ l0.lc.getLsbD 63 = s.me.th ∧ a = l0.le
    let ended := fun (l : Loop) => { l with lc := l.lc &&& 0xffffffff00000000#64 }
    let goes := fun (l : Loop) => l.lc.setWidth 32 ≠ 1#32
    ∃ t, completeAt a next s = t ∧
      (at1 → goes l1 → t.me.pc = l1.ls ∧ t.me.sys.loop1 = { l1 with lc := l1.lc - 1 } ∧ t.me.sys.loop0 = l0) ∧
      (at1 → ¬ goes l1 → t.me.sys.loop1 = ended l1) ∧ (¬ at1 → t.me.sys.loop1 = l1) ∧
      (¬ (at1 ∧ goes l1) → at0 → goes l0 → t.me.pc = l0.ls ∧ t.me.sys.loop0 = { l0 with lc := l0.lc - 1 }) ∧
      (¬ (at1 ∧ goes l1) → at0 → ¬ goes l0 → t.me.pc = next ∧ t.me.sys.loop0 = ended l0) ∧
      (¬ (at1 ∧ goes l1) → ¬ at0 → t.me.pc = next ∧ t.me.sys.loop0 = l0)) ∧
  (∀ (s : State) (i : Instr) (k : Bool) (imm : BitVec 14) (n : BitVec 32),
    ((∃ a : BitVec 5, i = .loop imm a k ∧ n = (s.me.rg a.toNat).setWidth 32) ∨
     ∃ (m : BitVec 5) (h : BitVec 4), i = .loopi imm m h k ∧ n = (h ++ m).setWidth 32) →
    Ready i s →
    let ls := s.me.pc + 4
    let le := ls + 2 * imm.setWidth 64
    let set := fun (sl : Slot) => sl.setLoop k ⟨ls, le, n.setWidth 64 ||| (if s.me.th then 0x8000000000000000#64 else 0#64)⟩
    (n ≠ 0#32 → Writes i s set) ∧
    (n = 0#32 → ∀ (x : Nat) (t : State), fetchParcel s.cur le s = .ok (x, t) →
      JumpsTo i s (t.onMe set) (le + if x % 2 = 0 then 2 else 4)) ∧
    (n = 0#32 → ∀ (c : Nat) (v : Word) (t : State), fetchParcel s.cur le s = .error (t, .trap c v) →
      exec i s = .next (raiseTrap t.cur 0x0d le s.me.pc t)))

/-- A ready REP whose window of n + 1 words is fetched and legal, with no other slot's replay in the core's repetition buffer,
completes, the pc moving behind the window, with a replay of r + 1 repetitions, mask and step under way that owes exactly the
registers that some replayed instruction writes (not g0 or p0); every register of the slot keeps its value. When the replay
has run to its end without a trap or a wait, REPLAY_END completes: each general, vector and predicate register that the replay
still owes takes its value (g0 and p0 keep theirs), no other register changes, and no replay is left. REPLAY_END at a slot
without a replay changes nothing. Choices of the model on which it rests: logs 26, 27. (07_control_fp R154, 07_control_fp
R155, 07_control_fp R157, 07_control_fp R158) -/
def Obligations.RepCapturesItsWindow : Prop :=
  (∀ (s t : State) (n : BitVec 4) (r : BitVec 6) (k : BitVec 3) (p : BitVec 5) (ws : List (Instr × BitVec 32)), Ready (.rep n r k p) s → bufferTaken s s.cur = false →
    captureWindow (s.me.pc + 4) (n.toNat + 1) s = .ok (ws, t) → t.cur = s.cur →
    ∃ u q, exec (.rep n r k p) s = .next (completeAt s.me.pc (s.me.pc + BitVec.ofNat 64 (4 * (n.toNat + 1) + 4)) u) ∧
      u.me.replay = some q ∧ q.window = ws.map (·.1) ∧ q.reps = r.toNat + 1 ∧ q.mask = k.toNat ∧ q.step = p.toNat ∧ q.ended = false ∧
      q.trap = none ∧ RegsKept (fun _ => False) t.me u.me ∧
      ∀ x : RegId, x ∈ q.owed ↔ ¬ (x.num = 0 ∧ (x.file = 0 ∨ x.file = 2)) ∧
        ∃ i, i < r.toNat + 1 ∧ ∃ w ∈ ws, x ∈ engineWrites (staggered k.toNat (i * p.toNat) w.1)) ∧
  (∀ s : State, (s.slot s.arg.k).replay = none → exec .replayEnd s = .next s) ∧
  ∀ (s t : State) (r q : Replay), (s.slot s.arg.k).replay = some r → r.ended = false → r.fault = none →
    replayRun s.arg.k (r.window.length * r.reps + 1) r { s with cur := s.arg.k, mark := false } = (q, t, .on) →
    q.ended = true → q.trap = none →
    ∃ u, exec .replayEnd s = .next u ∧ (u.slot s.arg.k).replay = none ∧
      let owed := (t.slot s.arg.k).replayOwed
      (∀ n, n < 32 → ⟨0, n⟩ ∈ owed → (u.slot s.arg.k).rg n = if n = 0 then 0#64 else vget q.g n 0#64) ∧
      (∀ n, n < 16 → ⟨1, n⟩ ∈ owed → (u.slot s.arg.k).rv n = vget q.v n vzero) ∧
      (∀ n, n < 8 → ⟨2, n⟩ ∈ owed → (u.slot s.arg.k).rp n = if n = 0 then 0xffff#16 else vget q.p n 0#16) ∧
      ((∀ x ∈ owed, x.file < 3) → RegsKept (· ∈ owed) (t.slot s.arg.k) (u.slot s.arg.k))

/-- A magnitude a / b in units is rounded to lo = floor(a / b) or lo + 1, and is inexact exactly if b does not divide a. Toward
zero gives lo; up and down give lo or lo + 1 by the sign; to nearest even gives the neighbour at the lesser distance, at equal
distances the even one; nearest away gives the upper one at equal distances; stochastic rounding gives lo + 1 exactly if
floor(2^32 * fraction) + draw reaches 2^32. An exact magnitude stays. (04_values R72, 04_values R73) -/
def Obligations.RoundingOfUnitsIsCorrect : Prop :=
  ∀ (rm : Nat) (neg : Bool) (m : Mag) (u : Int) (r : Nat), m.sticky = false → 0 < m.den →
    let a := (m.inUnits u).1
    let b := (m.inUnits u).2
    let q := (roundUnits rm neg m u r).1
    0 < b ∧ (roundUnits rm neg m u r).2 = decide (¬ b ∣ a) ∧ (b ∣ a → q * b = a) ∧ (q = a / b ∨ q = a / b + 1) ∧
    (rm = 1 → q * b ≤ a ∧ a < (q + 1) * b) ∧
    (rm = 2 → if neg then q * b ≤ a ∧ a < (q + 1) * b else a ≤ q * b ∧ q * b < a + b) ∧
    (rm = 3 → if neg then a ≤ q * b ∧ q * b < a + b else q * b ≤ a ∧ a < (q + 1) * b) ∧
    (rm = 0 → 2 * a ≤ 2 * (q * b) + b ∧ 2 * (q * b) ≤ 2 * a + b ∧
      (2 * a = 2 * (q * b) + b ∨ 2 * (q * b) = 2 * a + b → q % 2 = 0)) ∧
    (rm = 4 → 2 * a < 2 * (q * b) + b ∧ 2 * (q * b) ≤ 2 * a + b) ∧
    (rm = 5 → ¬ b ∣ a → (q = a / b + 1 ↔ 2 ^ 32 ≤ (a % b) * 2 ^ 32 / b + r))

/-- Ready FADD, FSUB, FMUL and FFMA, FFMS of either type complete in every rounding mode: g[d] gets the rounded exact result on
the codes in g[a], g[b] and, for FFMA and FFMS, the old g[d] (bits 31:0 for FP32, zero-extended), st gets their flags, and rnc
moves on past the draw of mode 5. FMIN and FMAX write the lesser or greater operand. FCMP writes its outcome as PCMP does and
sets NV as its entry says. None of them takes a narrowing trap. (07_control_fp R159, 07_control_fp R160, 07_control_fp R162,
07_control_fp R164, 07_control_fp R167, 07_control_fp R168) -/
def Obligations.ScalarFloatArithmetic : Prop :=
  ∀ (s : State) (r : Rm) (t : Bool) (c : Cond) (b a d : BitVec 5) (pd : BitVec 3),
    let code := fun (f : FloatFmt) (n : BitVec 5) => (s.me.rg n.toNat).toNat % 2 ^ f.bits
    let fin := fun (i : Instr) (y : Nat × Fpu) => Ready i s → y.2.trapAt = none ∧ RoundsTo i s [.g d.toNat (BitVec.ofNat 64 y.1)] y.2
    let op := fun (f : FloatFmt) (o : FOp) => fpOp f o (code f a) (code f b) 0 (fpuOf r s.me)
    let op3 := fun (f : FloatFmt) (o : FOp) => fpOp f o (code f a) (code f b) (code f d) (fpuOf r s.me)
    let cmp := fpCompare (fpType t) c (code (fpType t) a) (code (fpType t) b) (fpuOf .rne s.me)
    fin (.faddS r b a d) (op fp32 .add) ∧ fin (.fsubS r b a d) (op fp32 .sub) ∧ fin (.fmulS r b a d) (op fp32 .mul) ∧
    fin (.faddD r b a d) (op fp64 .add) ∧ fin (.fsubD r b a d) (op fp64 .sub) ∧ fin (.fmulD r b a d) (op fp64 .mul) ∧
    fin (.ffma t r b a d) (op3 (fpType t) .fma) ∧ fin (.ffms t r b a d) (op3 (fpType t) .fms) ∧
    fin (.fminS b a d) (minMax fp32 false (code fp32 a) (code fp32 b) (fpuOf .rne s.me)) ∧
    fin (.fmaxS b a d) (minMax fp32 true (code fp32 a) (code fp32 b) (fpuOf .rne s.me)) ∧
    fin (.fminD b a d) (minMax fp64 false (code fp64 a) (code fp64 b) (fpuOf .rne s.me)) ∧
    fin (.fmaxD b a d) (minMax fp64 true (code fp64 a) (code fp64 b) (fpuOf .rne s.me)) ∧
    (Ready (.fcmp t true c b a d) s → RoundsTo (.fcmp t true c b a d) s [.g d.toNat (if cmp.1 then 1#64 else 0#64)] cmp.2) ∧
    (Ready (.fcmp t false c b a (pd.setWidth 5)) s →
      RoundsTo (.fcmp t false c b a (pd.setWidth 5)) s [.p pd.toNat (if cmp.1 then 1#16 else 0#16)] cmp.2)

/-- Ready FSGN, FSGNN and FSGNX write a's exponent and mantissa with b's sign, its inverse, or the exclusive-or of both signs,
FP32 zero-extended; FCLASS writes exactly one bit, by sign, exponent and mantissa. No flag or other register changes. (R165,
R166) -/
def Obligations.FloatSignsAndClasses : Prop :=
  ∀ (s : State) (b a d : BitVec 5),
    let x := s.me.rg a.toNat
    let y := s.me.rg b.toNat
    let w1 := fun (i : Instr) (v : Word) => Ready i s → Writes i s fun sl => sl.wg d.toNat v
    let mag32 := x.toNat % 2 ^ 31
    let mag64 := x.toNat % 2 ^ 63
    let cls := fun (neg : Bool) (mag inf least quiet : Nat) =>
      if mag = inf then (if neg then 0 else 7) else if inf < mag then (if quiet ≤ mag then 9 else 8)
      else if mag = 0 then (if neg then 3 else 4) else if mag < least then (if neg then 2 else 5) else (if neg then 1 else 6)
    w1 (.fsgnS b a d) ((x &&& 0x7fffffff#64) ||| (y &&& 0x80000000#64)) ∧
    w1 (.fsgnnS b a d) ((x &&& 0x7fffffff#64) ||| (~~~y &&& 0x80000000#64)) ∧
    w1 (.fsgnxS b a d) ((x &&& 0xffffffff#64) ^^^ (y &&& 0x80000000#64)) ∧
    w1 (.fsgnD b a d) ((x &&& 0x7fffffffffffffff#64) ||| (y &&& 0x8000000000000000#64)) ∧
    w1 (.fsgnnD b a d) ((x &&& 0x7fffffffffffffff#64) ||| (~~~y &&& 0x8000000000000000#64)) ∧
    w1 (.fsgnxD b a d) (x ^^^ (y &&& 0x8000000000000000#64)) ∧
    w1 (.fclassS a d) (BitVec.ofNat 64 (2 ^ cls (x.getLsbD 31) mag32 0x7f800000 0x00800000 0x7fc00000)) ∧
    w1 (.fclassD a d)
      (BitVec.ofNat 64 (2 ^ cls (x.getLsbD 63) mag64 0x7ff0000000000000 0x0010000000000000 0x7ff8000000000000))

/-- Ready FDIV and FSQRT complete for every operand, draw at issue, and owe g[d] the quotient or root of the codes in g[a] and
g[b] with its flags, to be written 16 cycles later for FP32 and 30 for FP64 (FloatDivideAndRootValues says which value;
OwedResultLands that it lands). For FP32 and FP64, in every rounding mode, with one draw under mode 5: a NaN operand gives the
default NaN, with NV only for a signalling one; 0/0 and inf/inf give it with NV; a finite nonzero number over a zero gives the
signed infinity with DZ; an infinity over a finite number gives the signed infinity, and finite over infinity the signed zero;
the root of a number below zero gives the default NaN with NV, that of a zero is the zero, that of +infinity is +infinity. The
quotient of finite numbers, the divisor not zero, and the root of a number above zero are the exact quotient (a fraction) and
the root, rounded once. Choices of the model on which it rests: log 23. (07_control_fp R161, 07_control_fp R162, 07_control_fp
R163, 07_control_fp R160) -/
def Obligations.FloatDivideAndRoot : Prop :=
  (∀ (s : State) (r : Rm) (b a d : BitVec 5),
    let code := fun (f : FloatFmt) (n : BitVec 5) => (s.me.rg n.toNat).toNat % 2 ^ f.bits
    let owes := fun (i : Instr) (n : Nat) (y : Nat × Fpu) => Ready i s →
      exec i s = .next (completeAt s.me.pc (s.me.pc + 4) (s.onMe fun sl => (sl.onSys fun z => { z with rnc := y.2.rnc }).addPend [⟨0, d.toNat⟩]
        (.timed [.g d.toNat (BitVec.ofNat 64 y.1)] y.2.flags ((s.core (coreOf s.cur)).cyc + BitVec.ofNat 64 n) true)))
    owes (.fdivS r b a d) 16 (fpDiv fp32 (code fp32 a) (code fp32 b) (fpuOf r s.me)) ∧
    owes (.fdivD r b a d) 30 (fpDiv fp64 (code fp64 a) (code fp64 b) (fpuOf r s.me)) ∧
    owes (.fsqrtS r a d) 16 (fpSqrt fp32 (code fp32 a) (fpuOf r s.me)) ∧
    owes (.fsqrtD r a d) 30 (fpSqrt fp64 (code fp64 a) (fpuOf r s.me))) ∧
  (∀ (f : FloatFmt) (x y : Nat) (c : Fpu), f = fp32 ∨ f = fp64 →
    let vx := floatVal f x
    let vy := floatVal f y
    let gives := fun (z : Nat × Fpu) (code : Nat) (fl : BitVec 6) =>
      z = (code, { c with flags := c.flags ||| fl, rnc := if c.rm = 5 then c.rnc + 1 else c.rnc })
    (vx.isNan = true ∨ vy.isNan = true → gives (fpDiv f x y c) f.nanCode (if vx.snan || vy.snan then 0x10 else 0)) ∧
    (∀ p q, vx = .inf p → vy = .inf q → gives (fpDiv f x y c) f.nanCode 0x10) ∧
    (∀ p q m, vx = .inf p → vy = .num q m → gives (fpDiv f x y c) (signCode f (p != q) + f.infCode.getD 0) 0) ∧
    (∀ p q m, vx = .num p m → vy = .inf q → gives (fpDiv f x y c) (signCode f (p != q)) 0) ∧
    (∀ p q m n, vx = .num p m → vy = .num q n →
      (n.isZero = true → m.isZero = true → gives (fpDiv f x y c) f.nanCode 0x10) ∧
      (n.isZero = true → m.isZero = false → gives (fpDiv f x y c) (signCode f (p != q) + f.infCode.getD 0) 0x08) ∧
      (n.isZero = false → m.isZero = true → gives (fpDiv f x y c) (signCode f (p != q)) 0) ∧
      (n.isZero = false → m.isZero = false →
        fpDiv f x y c = roundTo f (.num (p != q) ⟨m.num * n.den, m.den * n.num, m.e - n.e, false⟩) c)) ∧
    (vx.isNan = true → gives (fpSqrt f x c) f.nanCode (if vx.snan then 0x10 else 0)) ∧
    (vx = .inf true → gives (fpSqrt f x c) f.nanCode 0x10) ∧ (vx = .inf false → gives (fpSqrt f x c) (f.infCode.getD 0) 0) ∧
    (∀ p m, vx = .num p m → m.isZero = true → gives (fpSqrt f x c) (signCode f p) 0) ∧
    (∀ m, vx = .num true m → m.isZero = false → gives (fpSqrt f x c) f.nanCode 0x10) ∧
    ∀ m, vx = .num false m → m.isZero = false → fpSqrt f x c = roundTo f (.num false m.sqrt) c ∧
      ∃ n big : Nat, m.sqrt.num ^ 2 ≤ big ∧ big < (m.sqrt.num + 1) ^ 2 ∧ big = n * 2 ^ 256 ∧ m.sqrt.den = 1 ∧
        (m.sqrt.sticky = true ↔ m.sqrt.num ^ 2 ≠ big) ∧
        ((m.e % 2 = 0 ∧ n = m.num ∧ 2 * (m.sqrt.e + 128) = m.e) ∨ (m.e % 2 = 1 ∧ n = 2 * m.num ∧ 2 * (m.sqrt.e + 128) = m.e - 1)))

/-- Ready VADD, VSUB, VMUL, VFMA, VFMS, VMIN, VMAX, VRCP, VRSQ and VEXP2 complete: the elements of active lanes (FP32, or the two
BF16 halves) get the operation's result, in increasing element index under mode 5, st gets the flags; every inactive lane
keeps its bits. VABS and VNEG clear or invert the sign bits of active elements and set no flag. (08_vector R170, 08_vector
R174, 08_vector R175, 08_vector R176) -/
def Obligations.VectorFloatLanes : Prop :=
  ∀ (s : State) (r : Rm) (t : Bool) (p : BitVec 3) (b a d : BitVec 4),
    let pr := s.me.rp p.toNat
    let fin := fun (i : Instr) (t : Bool) (r : Rm) (b : BitVec 4) (f : Nat → Nat → Nat → Fpu → Nat × Fpu) => Ready i s →
      let y := fpLanes t pr (s.me.rv d.toNat) (s.me.rv a.toNat) (s.me.rv b.toNat) f (fpuOf r s.me)
      y.2.trapAt = none ∧ RoundsTo i s [.v d.toNat y.1] y.2 ∧
      ∀ j, j < 16 → pr.getLsbD j = false → lane y.1 j = lane (s.me.rv d.toNat) j
    let sign := fun (i : Instr) (g : BitVec 32 → BitVec 32) => Ready i s → ∃ v : VReg,
      (Writes i s fun sl => sl.wv d.toNat v) ∧
      ∀ j, j < 16 → lane v j = if pr.getLsbD j then g (lane (s.me.rv a.toNat) j) else lane (s.me.rv d.toNat) j
    fin (.vadd t r p b a d) t r b (fun x y _ c => fpOp (laneFloat t) .add x y 0 c) ∧
    fin (.vsub t r p b a d) t r b (fun x y _ c => fpOp (laneFloat t) .sub x y 0 c) ∧
    fin (.vmul t r p b a d) t r b (fun x y _ c => fpOp (laneFloat t) .mul x y 0 c) ∧
    fin (.vfma t r p b a d) t r b (fun x y z c => fpOp (laneFloat t) .fma x y z c) ∧
    fin (.vfms t r p b a d) t r b (fun x y z c => fpOp (laneFloat t) .fms x y z c) ∧
    fin (.vmin t p b a d) t .rne b (fun x y _ c => minMax (laneFloat t) false x y c) ∧
    fin (.vmax t p b a d) t .rne b (fun x y _ c => minMax (laneFloat t) true x y c) ∧
    fin (.vrcp r p a d) false r a (fun x _ _ c => fpUnary rcpVal x c) ∧
    fin (.vrsq r p a d) false r a (fun x _ _ c => fpUnary rsqrtVal x c) ∧
    fin (.vexp2 r p a d) false r a (fun x _ _ c => fpUnary exp2Val x c) ∧
    sign (.vabs t p a d) (fun x => x &&& if t then 0x7fff7fff#32 else 0x7fffffff#32) ∧
    sign (.vneg t p a d) (fun x => x ^^^ if t then 0x80008000#32 else 0x80000000#32)

/-- Ready VIADD, VISUB, VIMUL, VIMAD, VIMIN, VIMAX, VAND, VOR, VXOR, VSLL, VSRL, VSRA and VIABS complete, writing only vd: element
i of an active lane, at bits w*i + w - 1 to w*i, is the operation on the w-bit elements n, m and old d at that place, shifts
by the low log2(w) bits of m; every inactive lane keeps its bits. (08_vector R169, 08_vector R170, 08_vector R177) -/
def Obligations.VectorIntegerLanes : Prop :=
  ∀ (s : State) (l : Lanes) (p : BitVec 3) (b a d : BitVec 4),
    let w := match l with | .i8 => 8 | .i16 => 16 | .i32 => 32
    let pr := s.me.rp p.toNat
    let fin := fun (i : Instr) (b : BitVec 4) (f : (n m d : BitVec w) → BitVec w) => Ready i s → ∃ v : VReg,
      (Writes i s fun sl => sl.wv d.toNat v) ∧
      ∀ j, j < 16 →
        (pr.getLsbD j = false → lane v j = lane (s.me.rv d.toNat) j) ∧
        (pr.getLsbD j = true → ∀ e, e < 32 / w →
          (lane v j).extractLsb' (w * e) w = f ((lane (s.me.rv a.toNat) j).extractLsb' (w * e) w)
            ((lane (s.me.rv b.toNat) j).extractLsb' (w * e) w) ((lane (s.me.rv d.toNat) j).extractLsb' (w * e) w))
    fin (.viadd l p b a d) b (fun n m _ => n + m) ∧ fin (.visub l p b a d) b (fun n m _ => n - m) ∧
    fin (.vimul l p b a d) b (fun n m _ => n * m) ∧ fin (.vimad l p b a d) b (fun n m d => d + n * m) ∧
    fin (.vimin l p b a d) b (fun n m _ => if m.slt n then m else n) ∧
    fin (.vimax l p b a d) b (fun n m _ => if n.slt m then m else n) ∧
    fin (.vand l p b a d) b (fun n m _ => n &&& m) ∧ fin (.vor l p b a d) b (fun n m _ => n ||| m) ∧
    fin (.vxor l p b a d) b (fun n m _ => n ^^^ m) ∧
    fin (.vsll l p b a d) b (fun n m _ => n <<< (m.toNat % w)) ∧ fin (.vsrl l p b a d) b (fun n m _ => n >>> (m.toNat % w)) ∧
    fin (.vsra l p b a d) b (fun n m _ => n.sshiftRight (m.toNat % w)) ∧
    fin (.viabs l p a d) a (fun n _ _ => if n.msb then -n else n)

/-- Ready VSEL, VPERM, VREV, VSLIDE (amount -15 to 15), VZIP, VUNZIP, VBCAST, VINS, VIOTA and VMIX complete and write only vd,
each lane as its entry says, inactive lanes keeping their bits (VSEL writes every lane); VEXT writes the lane zero-extended to
g; VCMP puts the outcome of each active lane into its bit of the predicate, keeps the others, and sets NV as FCMP does.
(08_vector R170, 08_vector R178, 08_vector R179, 08_vector R180, 08_vector R181) -/
def Obligations.VectorMovesAndCompares : Prop :=
  ∀ (s : State) (p : BitVec 3) (q : BitVec 2) (b a d : BitVec 4) (l : BitVec 4) (g : BitVec 5) (m : BitVec 6) (c : Cond) (pd : BitVec 3),
    let x := fun j => lane (s.me.rv a.toNat) j
    let y := fun j => lane (s.me.rv b.toNat) j
    let old := fun j => lane (s.me.rv d.toNat) j
    let n : BitVec 32 := (s.me.rg g.toNat).setWidth 32
    let fin := fun (i : Instr) (f : Nat → BitVec 32) => Ready i s → ∃ v : VReg,
      (Writes i s fun sl => sl.wv d.toNat v) ∧ ∀ j, j < 16 → lane v j = f j
    let act := fun (i : Instr) (pr : BitVec 16) (f : Nat → BitVec 32) => fin i fun j => if pr.getLsbD j then f j else old j
    fin (.vsel p b a d) (fun j => if (s.me.rp p.toNat).getLsbD j then x j else y j) ∧
    act (.vperm p b a d) (s.me.rp p.toNat) (fun j => x ((y j).toNat % 16)) ∧
    act (.vrev p a d) (s.me.rp p.toNat) (fun j => x (15 - j)) ∧
    (-15 ≤ m.toInt → m.toInt ≤ 15 → act (.vslide m p b a d) (s.me.rp p.toNat) (fun j =>
      let k := (j : Int) + m.toInt
      if 0 ≤ m.toInt then (if k < 16 then x k.toNat else y (k - 16).toNat)
      else (if k + 16 < 16 then y (k + 16).toNat else x k.toNat))) ∧
    act (.vzip p b a d) (s.me.rp p.toNat) (fun j => if j % 2 = 0 then x (j / 2) else y (j / 2)) ∧
    act (.vunzip p a d) (s.me.rp p.toNat) (fun j => if j < 8 then x (2 * j) else x (2 * (j - 8) + 1)) ∧
    act (.vbcast q g d) (s.me.rp q.toNat) (fun _ => n) ∧
    act (.viota q g d) (s.me.rp q.toNat) (fun j => n + BitVec.ofNat 32 j) ∧
    act (.vmix q g a d) (s.me.rp q.toNat) (fun j => mix32 (x j) n) ∧
    fin (.vins l g d) (fun j => if j = l.toNat then n else old j) ∧
    (Ready (.vext l g a) s → Writes (.vext l g a) s fun sl => sl.wg g.toNat ((x l.toNat).setWidth 64)) ∧
    (Ready (.vcmp true c p b a pd) s → c ≠ .un → ∃ v : BitVec 16, (Writes (.vcmp true c p b a pd) s fun sl => sl.wp pd.toNat v) ∧
      ∀ j, j < 16 → v.getLsbD j = if (s.me.rp p.toNat).getLsbD j
        then intCompare c true ((x j).setWidth 64) ((y j).setWidth 64) else (s.me.rp pd.toNat).getLsbD j) ∧
    (Ready (.vcmp false c p b a pd) s → ∃ (v : BitVec 16) (f : Fpu), RoundsTo (.vcmp false c p b a pd) s [.p pd.toNat v] f ∧
      f.trapAt = none ∧ f.rnc = s.me.sys.rnc ∧
      (let cmp := fun (j : Nat) => fpCompare fp32 c (x j).toNat (y j).toNat (fpuOf .rne s.me)
       let active := fun (j : Nat) => (s.me.rp p.toNat).getLsbD j
       (∀ m, f.flags.getLsbD m = (List.range 16).any fun j => active j && (cmp j).2.flags.getLsbD m) ∧
       ∀ j, j < 16 → v.getLsbD j = if active j then (cmp j).1 else (s.me.rp pd.toNat).getLsbD j))

/-- Ready VRED, VSCAN and VDOT complete with the value of the fixed tree, the prefixes, and the dot products, and their flags, in
every rounding mode. VRED.IADD leaves the sum of the active lanes modulo 2^32 in lane 0 and zeros elsewhere; VSCAN.IADD leaves
in each active lane the sum of the active lanes up to it and keeps the others; VRED.FADD of no active lane is +0. (08_vector
R182, 08_vector R183, 08_vector R184, 08_vector R187, 08_vector R188) -/
def Obligations.ReductionsScansAndDots : Prop :=
  (∀ (s : State) (o : VRedOp) (r : Rm) (f : Fmt) (p : BitVec 3) (b a d : BitVec 4),
    let fin := fun (i : Instr) (y : VReg × Fpu) => Ready i s → y.2.trapAt = none ∧ RoundsTo i s [.v d.toNat y.1] y.2
    fin (.vred o r p a d) (vredVal o (s.me.rp p.toNat) (s.me.rv a.toNat) (fpuOf r s.me)) ∧
    fin (.vscan o r p a d) (vscanVal o (s.me.rp p.toNat) (s.me.rv d.toNat) (s.me.rv a.toNat) (fpuOf r s.me)) ∧
    (dotFmt f = true →
      fin (.vdot f r p b a d)
        (vdotVal f (s.me.rp p.toNat) (s.me.rv d.toNat) (s.me.rv a.toNat) (s.me.rv b.toNat) (s.me.rx 0) (fpuOf r s.me)))) ∧
  ∀ (p : BitVec 16) (old a : VReg) (c : Fpu),
    let sum := fun (n : Nat) => ((List.range n).map fun j => if p.getLsbD j then lane a j else 0#32).foldl (· + ·) 0#32
    (∀ j, j < 16 → lane (vredVal .iadd p a c).1 j = if j = 0 then sum 16 else 0#32) ∧ (vredVal .iadd p a c).2 = c ∧
    (∀ j, j < 16 → lane (vscanVal .iadd p old a c).1 j = if p.getLsbD j then sum (j + 1) else lane old j) ∧
    (vscanVal .iadd p old a c).2 = c ∧ lane (vredVal .fadd 0#16 a c).1 0 = 0#32

/-- Ready CVT, VCVT, VPACK, VUNPK and VBSCALE complete with the converted value of their entry and its flags, or raise 0x11 with
the index of the lowest element that narrows out of range under the policy TRAP and leave it in prg. To O4, CVT and VPACK
without such an element complete with their flags set and owe the result, which LOAD_DATA_RETURN brings. A CVT between integer
formats that fit does not change the number: from I32 to I64 and from I8 to I16 it sign-extends. (04_values R76, 04_values
R79, 04_values R81, 04_values R82, 04_values R83, 04_values R84, 04_values R85, 03_encoding R45) -/
def Obligations.ConversionsAndPacks : Prop :=
  (∀ (s : State) (f e : Fmt) (r : Rm) (h : Bool) (x p : BitVec 3) (g gd : BitVec 5) (b a d : BitVec 4),
    let rv := fun (n : BitVec 4) => s.me.rv n.toNat
    let fin := fun (i : Instr) (z : RegVal) (c : Fpu) => Ready i s → RoundsTo i s [z] c
    let late := fun (i : Instr) (z : RegVal) (c : Fpu) => Ready i s →
      (c.trapAt ≠ none → RoundsTo i s [z] c) ∧
      (c.trapAt = none → Completes i s (((s.onMe fun sl => (sl.onSys fun y =>
          { y with st := y.st ||| c.flags.setWidth 64, rnc := c.rnc }).addPend [z.id] (.value [z] 0#6))).post
            (evt .loadDataReturn s.cur s.me.traffic.nextId 0)))
    let cv := cvtVal f e (s.me.rx x.toNat) (s.me.rg g.toNat) (fpuOf r s.me)
    let pk := vpackVal f (s.me.rp p.toNat) (rv d) (rv a) (rv b) (fpuOf r s.me)
    let vc := vcvtVal f e (s.me.rp p.toNat) (rv d) (rv a) (fpuOf r s.me)
    let un := vunpkVal f h (s.me.rp p.toNat) (rv d) (rv a) (fpuOf .rne s.me)
    let bs := vbscaleVal f (s.me.rp p.toNat) (rv d) (rv a) (rv b) (fpuOf r s.me)
    (f ≠ .o4 → fin (.cvt f e r x g gd) (.g gd.toNat cv.1) cv.2) ∧ (f = .o4 → late (.cvt f e r x g gd) (.g gd.toNat cv.1) cv.2) ∧
    (f ≠ .o4 → fin (.vpack f r p b a d) (.v d.toNat pk.1) pk.2) ∧ (f = .o4 → late (.vpack f r p b a d) (.v d.toNat pk.1) pk.2) ∧
    fin (.vcvt f r p e a d) (.v d.toNat vc.1) vc.2 ∧ fin (.vunpk f p h a d) (.v d.toNat un.1) un.2 ∧
    fin (.vbscale f r p b a d) (.v d.toNat bs.1) bs.2) ∧
  ∀ (x g : Word) (c : Fpu), c.rm ≠ 5 →
    cvtVal .i64 .i32 x g c = ((g.setWidth 32).signExtend 64, c) ∧ cvtVal .i16 .i8 x g c = ((g.setWidth 8).signExtend 64, c)

/-- Where a ready LD, ST, AMO, CAS, LDA, STL or RED of n bytes waits for nothing earlier: a misaligned address raises 0x08 with
it; else a non-canonical one 0x0e, one in a hole 0x09, one in the system window with SV clear 0x0e, and one whose page the
octet's TLB holds without the rights (U or SV; R for a load, W for a store, both for the others) 0x0e, each with the address.
An aligned access whole in the core's own scratchpad passes every check and lies in the array at that offset. (10_access R216,
10_access R217, 12_page R243, 10_access R219) -/
def Obligations.AccessesAreChecked : Prop :=
  (∀ (s : State) (o : BitVec 11) (k : LdKind) (z : Sz) (w : Bool) (ao : AmoOp) (ro : RedOp) (b a d : BitVec 5),
    let check := fun (i : Instr) (kind : AccKind) (n : Nat) (x : Word) => Ready i s → s.me.phase = 0 → storeWait s.me = none →
      let area := regionOf s s.myCore x.toNat
      (x.toNat % n ≠ 0 → Traps i s 0x08 x) ∧
      (x.toNat % n = 0 → area = .nonCanonical → Traps i s 0x0e x) ∧
      (x.toNat % n = 0 → area = .hole → Traps i s 0x09 x) ∧
      (x.toNat % n = 0 → area = .system → regionOf s s.myCore (x.toNat + (n - 1)) = .system → s.me.sv = false → Traps i s 0x0e x) ∧
      (x.toNat % n = 0 → area = .memory → ∀ t, tlbFind s s.myOctet s.myCtx x.toNat = some t →
        ¬ ((s.me.sv = true ∨ t.u = true) ∧ (kind = .load ∨ t.w = true) ∧ (kind = .store ∨ t.r = true)) → Traps i s 0x0e x)
    let size := fun (z : Sz) => match z with | .b => 1 | .h => 2 | .w => 4 | .d => 8
    let lsize := match k with | .b | .bz => 1 | .h | .hz => 2 | .w | .wz => 4 | .d => 8
    let word := if w then 4 else 8
    check (.ld o k a d) .load lsize (s.me.rg a.toNat + o.signExtend 64 * BitVec.ofNat 64 lsize) ∧
    check (.st o z a d) .store (size z) (s.me.rg a.toNat + o.signExtend 64 * BitVec.ofNat 64 (size z)) ∧
    check (.amo w ao b a d) .rmw word (s.me.rg a.toNat) ∧ check (.cas w b a d) .rmw word (s.me.rg a.toNat) ∧
    check (.lda w a d) .load word (s.me.rg a.toNat) ∧ check (.stl w b a) .store word (s.me.rg a.toNat) ∧
    check (.red ro (!w) b a) .rmw word (s.me.rg a.toNat)) ∧
  ∀ (s : State) (kind : AccKind) (a n : Nat), InScratchpad s a n → accessWait s.me = none → ∀ al, a % al = 0 →
    Passes s kind al [⟨a, n⟩] ∧ placeAt s.cur kind s a = .arr s.myCore (a - localBase)

/-- Where the access passes the checks of R217, a ready LD, LDX, LDP, C_LDW, VLD, VLDS, VLDP, LD_WINDOW or VLD_WINDOW completes:
its registers or lanes are owed the bytes at their addresses, of the given size and extension. A window load sets st.WF if a
byte lies beyond the window's length, which then reads as zero, and raises 0x0a with the window's number where the window is
unbound and 0x08 where its offset is misaligned. VGATHER, with no other macro in prg, no timer cause due, no save of its
context and its 16 words in the scratchpad, owes them and leaves prg 0. The event for all lanes of a load of local arrays that
nothing holds up ends the load's result and writes the registers that it owes and no other: a general register takes the
little-endian bytes, bytes beyond a window's length as zero, then the sign of the last byte or zeros above; lane j of a vector
register takes its four bytes. Memory and every array keep every byte. Choices of the model on which it rests: logs 8, 18.
(10_access R219, 10_access R220, 10_access R221, 10_access R222, 10_access R223, 10_access R224, 03_encoding R52, 05_slot
R119, 04_values R64) -/
def Obligations.LoadsAndTheirData : Prop :=
  (∀ (s : State) (o : BitVec 11) (o8 : BitVec 8) (o6 : BitVec 6) (k : LdKind) (z : Sz) (u : Bool) (c : BitVec 2) (x w : BitVec 3)
      (b a d : BitVec 5) (vb vd : BitVec 4),
    let size := fun (z : Sz) => match z with | .b => 1 | .h => 2 | .w => 4 | .d => 8
    let lsize := match k with | .b | .bz => 1 | .h | .hz => 2 | .w | .wz => 4 | .d => 8
    let lsgn := match k with | .bz | .hz | .wz => false | _ => true
    let base := s.me.rg a.toNat
    let owes := fun (i : Instr) (al : Nat) (us : List Span) (xs : List LoadItem) => Ready i s → Passes s .load al us →
      Completes i s (owingData s xs)
    let scalar := fun (i : Instr) (n : Nat) (sgn : Bool) (p : Word) => owes i n [⟨p.toNat, n⟩] [itemAt s [] ⟨0, d.toNat⟩ 0 p n n sgn]
    let spans := fun (p : Nat → Word) => (List.range 16).map fun j => (⟨(p j).toNat, 4⟩ : Span)
    let lanesAt := fun (us : List Span) (r : Nat) (p : Nat → Word) => (List.range 16).map fun j => itemAt s us ⟨1, r⟩ j (p j) 4 4 false
    let lanes := fun (r : Nat) (p : Nat → Word) => lanesAt (spans p) r p
    let off := fun (n : Nat) => base + o.signExtend 64 * BitVec.ofNat 64 n
    let wbase := vget s.me.sys.wb w.toNat 0
    let bound := ((vget s.me.sys.wl w.toNat 0).extractLsb' 0 17).toNat
    let window := fun (i : Instr) (al total : Nat) (off : Word) (xs : Nat → List LoadItem) => Ready i s →
      let avail := min total (bound - off.toNat)
      (bound = 0 → Traps i s 0x0a (w.setWidth 64)) ∧
      (bound ≠ 0 → off.toNat % al ≠ 0 → Traps i s 0x08 (wbase + off)) ∧
      (bound ≠ 0 → off.toNat % al = 0 → Passes s .load 1 [⟨(wbase + off).toNat, avail⟩] →
        Completes i s (if avail = total then owingData s (xs avail)
          else (owingData s (xs avail)).onMe fun sl => sl.onSys fun y => { y with st := y.st ||| 0x80#64 }))
    scalar (.ld o k a d) lsize lsgn (off lsize) ∧
    scalar (.ldx c z u b a d) (size z) (!u) (base + s.me.rg b.toNat * (1#64 <<< c.toNat)) ∧
    scalar (.cLdw b d) 4 true (s.me.rg b.toNat) ∧
    owes (.ldp o a d) 8 [⟨(off 16).toNat, 8⟩, ⟨(off 16 + 8).toNat, 8⟩]
      [itemAt s [] ⟨0, d.toNat⟩ 0 (off 16) 8 8 false, itemAt s [] ⟨0, d.toNat + 1⟩ 0 (off 16 + 8) 8 8 false] ∧
    owes (.vld o a vd) 4 [⟨(off 64).toNat, 64⟩] (lanes vd.toNat fun j => off 64 + BitVec.ofNat 64 (4 * j)) ∧
    (let lo := fun (j : Nat) => off 128 + BitVec.ofNat 64 (4 * j);
      let hi := fun (j : Nat) => off 128 + 64 + BitVec.ofNat 64 (4 * j);
      owes (.vldp o a vd) 4 [⟨(off 128).toNat, 64⟩, ⟨(off 128 + 64).toNat, 64⟩]
        (lanesAt (spans lo ++ spans hi) vd.toNat lo ++ lanesAt (spans lo ++ spans hi) ((vd.toNat + 1) % 16) hi)) ∧
    (let p := fun (j : Nat) => base + o8.signExtend 64 * 4 + BitVec.ofNat 64 j * s.me.rx x.toNat;
      owes (.vlds x o8 a vd) 4 (spans p) (lanes vd.toNat p)) ∧
    (let off := base + o6.setWidth 64 * BitVec.ofNat 64 (size z);
      window (.ldWindow w z o6 a d) (size z) (size z) off fun m => [itemAt s [] ⟨0, d.toNat⟩ 0 (wbase + off) (size z) m true]) ∧
    (let off := base + o8.setWidth 64 * 64;
      let p := fun (j : Nat) => wbase + off + BitVec.ofNat 64 (4 * j);
      let avail := fun (j : Nat) => min 4 (bound - (off.toNat + 4 * j));
      window (.vldWindow w o8 a vd) 4 64 off fun _ => (List.range 16).map fun j =>
        itemAt s ((List.range 16).map fun j => ⟨(p j).toNat, avail j⟩) ⟨1, vd.toNat⟩ j (p j) 4 (avail j) false) ∧
    (let p := fun (j : Nat) => base + (lane (s.me.rv vb.toNat) j).setWidth 64 * (1#64 <<< c.toNat);
      Ready (.vgather c vb a vd) s → s.me.sys.prg.extractLsb' 56 8 = 0#8 → s.me.timerDue = false → ctxState s s.myCtx ≠ 5 → accessWait s.me = none →
      (∀ j, j < 16 → InScratchpad s (p j).toNat 4 ∧ (p j).toNat % 4 = 0) →
      Completes (.vgather c vb a vd) s
        (owingData (s.onMe fun sl => sl.onSys fun y => { y with prg := 0 }) (lanes vd.toNat p)))) ∧
  (∀ (s : State) (id len : Nat) (k : Nat), s.arg.k = k → s.arg.a = id → s.arg.b = len → s.arg.c = 0 →
    let lands := fun (xs : List LoadItem) (p : Slot → Prop) =>
      (s.slot k).findPend id = some ⟨id, itemRegs xs, .load xs⟩ → loadBlocked (s.slot k) id xs = false →
      (xs.map fun it => (it.reg, it.lane)).Nodup →
      ∃ t, exec .loadDataReturn s = .next t ∧ p (t.slot k) ∧ (t.slot k).findPend id = none ∧
        RegsKept (· ∈ xs.map (·.reg)) (s.slot k) (t.slot k) ∧ SpecialKept (s.slot k) (t.slot k) ∧
        (∀ j, j ≠ k → t.slot j = s.slot j) ∧ t.mem = s.mem ∧ ∀ c a, memByte (t.core c).arr a = memByte (s.core c).arr a
    let byte := fun (it : LoadItem) (c off j : Nat) =>
      let m := fun (j : Nat) => if j < it.avail then memByte (s.core c).arr (off + j) else 0#8
      if j < it.size then m j else if it.signed && (m (it.size - 1)).msb then 0xff#8 else 0#8
    (∀ xs : List LoadItem,
      (∀ it ∈ xs, it.reg.file = 0 ∧ it.reg.num < 32 ∧ it.lane = 0 ∧ 0 < it.size ∧ it.size ≤ 8 ∧ it.avail ≤ it.size ∧
        ∃ c off, it.place = .arr c off) →
      lands xs fun sl => ∀ it ∈ xs, ∀ c off, it.place = .arr c off → it.reg.num ≠ 0 →
        ∀ j, j < 8 → (sl.rg it.reg.num).extractLsb' (8 * j) 8 = byte it c off j) ∧
    ∀ xs : List LoadItem,
      (∀ it ∈ xs, it.reg.file = 1 ∧ it.reg.num < 16 ∧ it.lane < 16 ∧ it.size = 4 ∧ it.avail ≤ 4 ∧ it.signed = false ∧
        ∃ c off, it.place = .arr c off) →
      lands xs fun sl => ∀ it ∈ xs, ∀ c off, it.place = .arr c off →
        ∀ j, j < 4 → (lane (sl.rv it.reg.num) it.lane).extractLsb' (8 * j) 8 = byte it c off j)

/-- A ready ST, STX, C_STW, VST, VSTS or VSCATTER whose aligned accesses lie in the core's scratchpad, with nothing of the slot on
its way, completes: each byte of the array takes the byte stored to it, for VSTS and VSCATTER that of the last lane that
stores to it, and every other byte of every array and of memory, every register, and every other slot is as before (VSCATTER
ends with prg 0). A word that ST.W stores to memory from a throughput slot, with no RED of its own to it on the way, is at
once in the core's L1, Owned, and its registration is on its way. Choices of the model on which it rests: log 52. (10_access
R220, 10_access R221, 10_access R223, 10_access R224, 09_word R198, 03_encoding R52) -/
def Obligations.StoresWriteTheirBytesAlone : Prop :=
  ∀ (s : State) (o : BitVec 11) (o8 : BitVec 8) (z : Sz) (c : BitVec 2) (x : BitVec 3) (b a d : BitVec 5) (vb vd : BitVec 4),
    storeWait s.me = none → NothingOnItsWay s →
    let size := match z with | .b => 1 | .h => 2 | .w => 4 | .d => 8
    let base := s.me.rg a.toNat
    let one := fun (i : Instr) (al n : Nat) (p : Word) (v : Nat → BitVec 8) => Ready i s →
      InScratchpad s p.toNat n → p.toNat % al = 0 →
      StoresInArray i s (fun sl => sl) s.myCore fun e =>
        if p.toNat - localBase ≤ e ∧ e < p.toNat - localBase + n then some (v (e - (p.toNat - localBase))) else none
    let many := fun (i : Instr) (g : Slot → Slot) (p : Nat → Word) => Ready i s →
      (∀ j, j < 16 → InScratchpad s (p j).toNat 4 ∧ (p j).toNat % 4 = 0) →
      StoresInArray i s g s.myCore fun e =>
        ((List.range 16).reverse.find? fun j => decide ((p j).toNat - localBase ≤ e) && decide (e < (p j).toNat - localBase + 4)).map
          fun j => (lane (s.me.rv vd.toNat) j).extractLsb' (8 * (e - ((p j).toNat - localBase))) 8
    let scalar := fun (r : BitVec 5) (j : Nat) => (s.me.rg r.toNat).extractLsb' (8 * j) 8
    let off := fun (n : Nat) => base + o.signExtend 64 * BitVec.ofNat 64 n
    one (.st o z a d) size size (off size) (scalar d) ∧
    one (.stx c z b a d) size size (base + s.me.rg b.toNat * (1#64 <<< c.toNat)) (scalar d) ∧
    one (.cStw b d) 4 4 (s.me.rg d.toNat) (scalar b) ∧
    one (.vst o a vd) 4 64 (off 64) (fun j => (lane (s.me.rv vd.toNat) (j / 4)).extractLsb' (8 * (j % 4)) 8) ∧
    many (.vsts x o8 a vd) (fun sl => sl) (fun j => base + o8.signExtend 64 * 4 + BitVec.ofNat 64 j * s.me.rx x.toNat) ∧
    (s.me.sys.prg.extractLsb' 56 8 = 0#8 → s.me.timerDue = false → ctxState s s.myCtx ≠ 5 →
      many (.vscatter c vb a vd) (fun sl => sl.onSys fun y => { y with prg := 0 })
        (fun j => base + (lane (s.me.rv vb.toNat) j).setWidth 64 * (1#64 <<< c.toNat))) ∧
    ∀ pa, Ready (.st o .w a d) s → Passes s .store 4 [⟨(off 4).toNat, 4⟩] → placeAt s.cur .store s (off 4).toNat = .mem pa →
      pa % 4 = 0 → isMgmt pa = false → buffered s s.cur = false → redMeets s.me [(.mem pa, 4)] = false →
      ∃ (t : State) (r : Bool), Completes (.st o .w a d) s t ∧
        l1Find t s.myCore (pa / 4) = some ⟨.owned r, ((s.me.rg d.toNat).setWidth 32).setWidth 64, 0xf⟩ ∧
        t.me.traffic.out = s.me.traffic.out ++ [.store (pa / 4)] ∧
        (s.mcyc + 17, evt .homeRegistration s.cur (pa / 4) 0) ∈ t.inflight

/-- Where its access passes the checks, no load or atomic of the slot is on its way and, for AMO and CAS, no release, a ready AMO,
CAS or LDA completes and owes g[d] the result of its atomic; STL completes with its access in program order.
HOME_ATOMIC_ACCESS performs one below the system area of a local array that nothing holds up: the word becomes what the
operation makes of it (for LDA it keeps its value), g[d] takes the old value, for .w sign-extended, and every other byte
stays. RED of an integer operation on a word of the scratchpad combines it at once. Choices of the model on which it rests:
logs 18, 49. (10_access R227, 10_access R228, 10_access R231, 09_word R206, 10_access R218) -/
def Obligations.AtomicsAndRed : Prop :=
  (∀ (s : State) (w : Bool) (ao : AmoOp) (b a d : BitVec 5) (p : Place),
    NothingOnItsWay s → s.me.phase = 0 → (buffered s s.cur = false ∨ ∃ c off, p = .arr c off) →
    let ad := s.me.rg a.toNat
    let bv := s.me.rg b.toNat
    let sent := fun (i : Instr) (acc : AccKind) (f : Slot → Slot) => Ready i s →
      Passes s acc (if w then 4 else 8) [⟨ad.toNat, if w then 4 else 8⟩] → placeAt s.cur acc s ad.toNat = p →
      ∃ t, Completes i s t ∧ t.me = f s.me ∧ t.cur = s.cur ∧ t.mem = s.mem ∧ t.inflight =
        s.inflight ++ [(s.mcyc + 17, evt .homeAtomicAccess s.cur s.me.traffic.nextId 0)]
    let owes := fun (i : Instr) (acc : AccKind) (kd : AtomicKind) (v : Word) =>
      sent i acc fun sl => sl.addPend [⟨0, d.toNat⟩] (.atomic ⟨kd, p, w, v⟩)
    (storeWait s.me = none → owes (.amo w ao b a d) .rmw (.amo ao) bv ∧ owes (.cas w b a d) .rmw (.cas (s.me.rg d.toNat)) bv) ∧
    owes (.lda w a d) .load .lda 0 ∧
    sent (.stl w b a) .store fun sl =>
      { sl with traffic := { sl.traffic with out := sl.traffic.out ++ [.stl sl.traffic.nextId ⟨.stl, p, w, bv⟩],
                                             nextId := sl.traffic.nextId + 1 } }) ∧
  (∀ (s : State) (k id d c off : Nat) (kd : AtomicKind) (w : Bool) (v : Word),
    s.arg.k = k → s.arg.a = id → s.arg.b = 0 → 0 < d → d < 32 →
    (s.slot k).findPend id = some ⟨id, [⟨0, d⟩], .atomic ⟨kd, .arr c off, w, v⟩⟩ →
    atomicBlocked (s.slot k) id ⟨kd, .arr c off, w, v⟩ = false →
    let n := if w then 4 else 8
    off + n ≤ 0x7c000 →
    let old : Word := BitVec.ofNat 64 (ofBytesLE ((List.range n).map fun j => memByte (s.core c).arr (off + j)))
    let x : Word := if w then (old.setWidth 32).signExtend 64 else old
    let y : Word := if w then (v.setWidth 32).signExtend 64 else v
    let new : Word := match kd with
      | .amo .swap => y
      | .amo .add => x + y
      | .amo .and => x &&& y
      | .amo .or => x ||| y
      | .amo .xor => x ^^^ y
      | .amo .min => if y.slt x then y else x
      | .amo .max => if x.slt y then y else x
      | .amo .minu => if y.ult x then y else x
      | .amo .maxu => if x.ult y then y else x
      | .cas e => if x = (if w then (e.setWidth 32).signExtend 64 else e) then y else x
      | .lda => x
      | .stl => y
    ∃ t, exec .homeAtomicAccess s = .next t ∧ (t.slot k).rg d = x ∧ (t.slot k).findPend id = none ∧
      RegsKept (· = ⟨0, d⟩) (s.slot k) (t.slot k) ∧ SpecialKept (s.slot k) (t.slot k) ∧ t.mem = s.mem ∧
      ∀ e a, memByte (t.core e).arr a = if e = c ∧ off ≤ a ∧ a < off + n then new.extractLsb' (8 * (a - off)) 8
        else memByte (s.core e).arr a) ∧
  ∀ (s : State) (w : Bool) (ro : RedOp) (b a : BitVec 5),
    let p := (s.me.rg a.toNat).toNat
    let n := if w then 4 else 8
    Ready (.red ro (!w) b a) s → storeWait s.me = none → NothingOnItsWay s → InScratchpad s p n → p % n = 0 →
    ∃ (new : Word) (fl : BitVec 6),
      StoresInArray (.red ro (!w) b a) s (fun sl => sl.onSys fun y => { y with st := y.st ||| fl.setWidth 64 }) s.myCore (fun e =>
        if p - localBase ≤ e ∧ e < p - localBase + n then some (new.extractLsb' (8 * (e - (p - localBase))) 8) else none) ∧
      let old : Word := BitVec.ofNat 64 (ofBytesLE ((List.range n).map fun j => memByte (s.core s.myCore).arr (p - localBase + j)))
      let x : Word := if w then (old.setWidth 32).signExtend 64 else old
      let y : Word := if w then ((s.me.rg b.toNat).setWidth 32).signExtend 64 else s.me.rg b.toNat
      let low := fun (v : Word) => if w then (v.setWidth 32).setWidth 64 else v
      (ro = .iadd → fl = 0 ∧ new = low (x + y)) ∧ (ro = .min → fl = 0 ∧ new = low (if y.slt x then y else x)) ∧
      (ro = .max → fl = 0 ∧ new = low (if x.slt y then y else x)) ∧ (ro = .minu → fl = 0 ∧ new = low (if y.ult x then y else x)) ∧
      (ro = .maxu → fl = 0 ∧ new = low (if x.ult y then y else x))

/-- A ready ACQ with a load or atomic on its way parks for it; else it completes, and the core's L1 holds no Valid word while the
others stay. REL completes, and stands behind the slot's earlier accesses that are not performed. FENCE parks for earlier
stores, then for loads, and else completes as ACQ (REL and FENCE of a throughput slot). PREF, CFLUSH and CINV never trap: of
an address that is not in the memory region or not mapped they complete with nothing requested; of a mapped line PREF requests
reads of it, and CFLUSH and CINV of a throughput slot put the line's flush behind the slot's earlier accesses. Choices of the
model on which it rests: logs 18, 52. (09_word R200, 09_word R201, 10_access R229, 10_access R232, 10_access R233, 10_access
R234) -/
def Obligations.FencesAndCacheControl : Prop :=
  ∀ (s : State) (a : BitVec 5),
    let acquired := l1Acquire s.myCore s
    let line := quietLine (s.me.rg a.toNat) s
    let addr := (s.me.rg a.toNat).toNat
    let flush := fun (i : Instr) (inv : Bool) => Ready i s →
      (line.1 = none → Completes i s line.2) ∧
      ∀ l, line.1 = some l → buffered line.2 s.cur = false → NothingOnItsWay line.2 → line.2.cur = s.cur → Completes i s
        ((line.2.onMe fun sl => { sl with traffic := { sl.traffic with out := sl.traffic.out ++ [.flush l inv] } }).post
          ⟨.homeWriteBack, { Arg.reset with k := s.myCore, a := l, b := if inv then 2 else 1, c := s.cur }⟩)
    (Ready .acq s → (NothingOnItsWay s → Completes .acq s acquired) ∧ (¬ NothingOnItsWay s → ParksOn .acq s s .results)) ∧
    (∀ w x, l1Find acquired s.myCore w = some x → x.st ≠ .valid) ∧
    (∀ w x, l1Find s s.myCore w = some x → x.st ≠ .valid → l1Find acquired s.myCore w = some x) ∧
    acquired.slots = s.slots ∧ acquired.mem = s.mem ∧
    (buffered s s.cur = false →
      (Ready .rel s → Completes .rel s (if s.me.traffic.out = [] ∧ ∀ p ∈ s.me.pend, p.unread = false then s else
        s.onMe fun sl => { sl with traffic := { sl.traffic with out := sl.traffic.out ++ [.rel sl.traffic.nextId] } })) ∧
      (Ready .fence s →
        (s.me.traffic.out ≠ [] → ParksOn .fence s s .stores) ∧
        (s.me.traffic.out = [] → ¬ NothingOnItsWay s → ParksOn .fence s s .results) ∧
        (s.me.traffic.out = [] → NothingOnItsWay s → Completes .fence s acquired))) ∧
    (regionOf s s.myCore addr ≠ .memory → line = (none, s)) ∧
    (regionOf s s.myCore addr = .memory → ∀ t, tlbFind s s.myOctet s.myCtx addr = some t →
      hasMem (t.pa + addr % 2 ^ t.bits) = true → line = (some ((t.pa + addr % 2 ^ t.bits) / 64), s)) ∧
    (Ready (.pref a) s → (line.1 = none → Completes (.pref a) s line.2) ∧
      ∀ l, line.1 = some l → Completes (.pref a) s ((line.2.post (evt .homeRemoteRead line.2.myCore (16 * l) 0)).post
        (evt .homeRemoteRead line.2.myCore (16 * l + 8) 0))) ∧
    flush (.cflush a) false ∧ flush (.cinv a) true

/-- Ready MFS of each special register of R102 completes with g[d] := its value (prq and pdl of a slot with a context; tkt and tkf
read 0 without a group). Ready MTS completes: a register that holds its value takes g[a], prg without its reserved bits, epc,
tvec, ls and le with bit 0 clear, cause its low 8 bits, tmrc its low bit, pto its low 32, lc without its reserved bits, mode a
rounding mode below 6; in st the bits 7:0 that are 1 in g[a] are cleared and TH takes its bit; a mailbox register takes 32
bits; a read-only one keeps its value. MTS of pdl and trec raises 0x02 with SV clear. Choices of the model on which it rests:
log 1. (05_slot R102, 05_slot R103, 05_slot R104, 05_slot R107, 05_slot R110, 04_values R78, 07_control_fp R147, 13_transfer
R259, 24_context R432) -/
def Obligations.SpecialRegistersReadAndWrite : Prop :=
  (∀ (s : State) (d : BitVec 5),
    let y := s.me.sys
    let x := s.core s.myCore
    let reads := fun (n : BitVec 12) (v : Word) => Ready (.mfs n d) s → Writes (.mfs n d) s fun sl => sl.wg d.toNat v
    reads 0x000 s.me.pc ∧ reads 0x001 y.prg ∧ reads 0x002 y.st ∧ reads 0x003 y.mode ∧ reads 0x004 y.cause ∧ reads 0x005 y.epc ∧
    reads 0x006 y.tval ∧ reads 0x007 y.tvec ∧ reads 0x008 y.escr ∧ reads 0x010 y.loop0.ls ∧ reads 0x011 y.loop0.le ∧
    reads 0x012 y.loop0.lc ∧ reads 0x013 y.loop1.ls ∧ reads 0x014 y.loop1.le ∧ reads 0x015 y.loop1.lc ∧ reads 0x030 y.cp.src ∧
    reads 0x031 y.cp.dst ∧ reads 0x032 y.cp.ext ∧ reads 0x033 y.cp.srs ∧ reads 0x034 y.cp.drs ∧ reads 0x035 y.cp.flg ∧
    reads 0x042 y.tmr ∧ reads 0x043 y.tmrc ∧ reads 0x050 y.pto ∧ reads 0x070 y.rnk ∧ reads 0x071 y.rnc ∧ reads 0x080 y.coord ∧
    reads 0x081 x.cyc ∧ reads 0x084 y.trec ∧ reads 0x0a0 (BitVec.ofNat 64 x.spsz) ∧
    (∀ c, tfind s.ctxs s.myCtx = some c → reads 0x040 (if c.prq then 1 else 0) ∧ reads 0x041 (BitVec.ofNat 64 (c.pdl % 2 ^ 32))) ∧
    (let count := fun (n : Vector Nat 3) => BitVec.ofNat 64
        (vget n 0 0 % 2 ^ 21 + vget n 1 0 % 2 ^ 21 * 2 ^ 21 + vget n 2 0 % 2 ^ 21 * 2 ^ 42);
      reads 0x082 (count x.sent) ∧ reads 0x083 (count x.recv)) ∧
    (∀ g kn, groupOf s s.cur = some g → tfind s.kernels g.kernel = some kn →
      reads 0x060 (BitVec.ofNat 64 (kn.scope * 2 ^ 36 + g.ticket)) ∧
      let f := tget (s.octet s.myOctet).f g.inst 0
      reads 0x061 ((BitVec.ofNat 64 (f % 2 ^ 32) &&& 0x7fffffffffffffff) ||| if f = g.ticket then 0x8000000000000000 else 0)) ∧
    (groupOf s s.cur = none → reads 0x060 0 ∧ reads 0x061 0) ∧
    (∀ j, j < 4 → reads (0x021 + BitVec.ofNat 12 j) (vget x.transfer.chans j Channel.reset).wm) ∧
    (∀ j, j < 8 → reads (0x025 + BitVec.ofNat 12 j) ((vget x.transfer.mb j 0).setWidth 64) ∧
      reads (0x090 + BitVec.ofNat 12 j) (vget y.wb j 0) ∧ reads (0x098 + BitVec.ofNat 12 j) (vget y.wl j 0) ∧
      reads (0x0b0 + BitVec.ofNat 12 j) (s.me.rx j)) ∧
    ∃ v, reads 0x020 v ∧ ∀ t, t < 64 → v.getLsbD t = match tagSt s s.myCore t with
      | .complete | .error _ _ => true
      | _ => false) ∧
  ∀ (s : State) (a : BitVec 5),
    let v := s.me.rg a.toNat
    let even := v &&& ~~~1#64
    let writes := fun (n : BitVec 12) (f : Sys → Sys) => Ready (.mts n a) s → Writes (.mts n a) s fun sl => sl.onSys f
    let keeps := fun (n : BitVec 12) => Ready (.mts n a) s → Writes (.mts n a) s fun sl => sl
    writes 0x001 (fun y => { y with prg := v &&& 0xff000000ffffffff }) ∧
    writes 0x002 (fun y => { y with st := (y.st &&& ~~~(v &&& 0xff) &&& ~~~0x200) ||| (v &&& 0x200) }) ∧
    writes 0x003 (fun y => { y with mode := if 6 ≤ (v &&& 7).toNat then y.mode else (y.mode &&& ~~~7) ||| (v &&& 7) }) ∧
    writes 0x004 (fun y => { y with cause := v &&& 0xff }) ∧ writes 0x005 (fun y => { y with epc := even }) ∧
    writes 0x006 (fun y => { y with tval := v }) ∧ writes 0x007 (fun y => { y with tvec := even }) ∧
    writes 0x008 (fun y => { y with escr := v }) ∧
    writes 0x010 (fun y => { y with loop0 := { y.loop0 with ls := even } }) ∧
    writes 0x011 (fun y => { y with loop0 := { y.loop0 with le := even } }) ∧
    writes 0x012 (fun y => { y with loop0 := { y.loop0 with lc := v &&& 0x80000000ffffffff } }) ∧
    writes 0x013 (fun y => { y with loop1 := { y.loop1 with ls := even } }) ∧
    writes 0x014 (fun y => { y with loop1 := { y.loop1 with le := even } }) ∧
    writes 0x015 (fun y => { y with loop1 := { y.loop1 with lc := v &&& 0x80000000ffffffff } }) ∧
    writes 0x030 (fun y => { y with cp := { y.cp with src := v } }) ∧ writes 0x031 (fun y => { y with cp := { y.cp with dst := v } }) ∧
    writes 0x032 (fun y => { y with cp := { y.cp with ext := v } }) ∧ writes 0x033 (fun y => { y with cp := { y.cp with srs := v } }) ∧
    writes 0x034 (fun y => { y with cp := { y.cp with drs := v } }) ∧ writes 0x035 (fun y => { y with cp := { y.cp with flg := v } }) ∧
    writes 0x042 (fun y => { y with tmr := v }) ∧ writes 0x043 (fun y => { y with tmrc := v &&& 1 }) ∧
    writes 0x050 (fun y => { y with pto := v &&& 0xffffffff }) ∧ writes 0x070 (fun y => { y with rnk := v }) ∧
    writes 0x071 (fun y => { y with rnc := v }) ∧
    keeps 0x000 ∧ keeps 0x020 ∧ keeps 0x021 ∧ keeps 0x022 ∧ keeps 0x023 ∧ keeps 0x024 ∧ keeps 0x040 ∧ keeps 0x060 ∧ keeps 0x061 ∧
    keeps 0x080 ∧ keeps 0x081 ∧ keeps 0x082 ∧ keeps 0x083 ∧ keeps 0x0a0 ∧
    (∀ j, j < 8 → keeps (0x090 + BitVec.ofNat 12 j) ∧ keeps (0x098 + BitVec.ofNat 12 j) ∧
      (Ready (.mts (0x0b0 + BitVec.ofNat 12 j) a) s → ∃ sl, Writes (.mts (0x0b0 + BitVec.ofNat 12 j) a) s (fun _ => sl) ∧
        sl = { s.me with x := sl.x } ∧ ∀ i, i < 8 → sl.rx i = if i = j then v else s.me.rx i) ∧
      (Ready (.mts (0x025 + BitVec.ofNat 12 j) a) s → ∃ t, Completes (.mts (0x025 + BitVec.ofNat 12 j) a) s t ∧ t.slots = s.slots ∧
        ∀ i, i < 8 → vget (t.core s.myCore).transfer.mb i 0 =
          if i = j then v.setWidth 32 else vget (s.core s.myCore).transfer.mb i 0)) ∧
    (s.me.sv = false → ∀ n : BitVec 12, n = 0x041 ∨ n = 0x084 → Ready (.mts n a) s →
      Traps (.mts n a) s 0x02 (wordOf (.mts n a) s)) ∧
    (s.me.sv = true → writes 0x084 (fun y => { y with trec := v }) ∧
      (Ready (.mts 0x041 a) s → Completes (.mts 0x041 a) s (s.onCtx s.myCtx fun c => { c with pdl := (v.setWidth 32).toNat })))

/-- Ready WAITE with EV set clears it and completes, else it parks for an event. WFW ends the task: its group counts one task
less, and the slot, its registers as they stand, is Free where no work stands ready for it; where its core's run list has a
ready task whose record can be read and the context takes work, the slot runs that task (or parks for its marker, with results
outstanding) and the entry is gone. TPICK ends the task too: the slot takes the last entry of its core's deque if the context
of the entry takes work, and is Free where the deque is empty and nothing else stands ready. A ready deterministic YIELD
without a pre-emption request does nothing. Any other YIELD, and SUSPEND, with no port Full and no register of the record
outstanding in deterministic mode, write the record (the pc behind them, g2, g4 to g7, from byte 0 on) and, where no work
stands ready, the slot is Free, its group keeping the record. SUSPEND of a record with CTR and a count above 0 sends the
request that arms its counter; with a count of 0 it goes on as YIELD. YIELD sends the record to the run list of its home at
its priority, or appends it there if the home is its own core: the slot is Free then while the context takes no new work, and
else runs the first ready task of that list. Choices of the model on which it rests: logs 18, 32, 37, 38. (05_slot R115,
05_slot R118, 23_queue R423, 23_queue R416, 03_encoding R52, 05_slot R98, 05_slot R101, 05_slot R116, 05_slot R117, 05_slot
R120, 17_ticket_group R359) -/
def Obligations.WaitsEndsYieldsAndSuspends : Prop :=
  (∀ s : State,
    let waite := fun (i : Instr) => Ready i s →
      (s.me.sys.st.getLsbD 6 = true → Writes i s fun sl => sl.onSys fun y => { y with st := y.st &&& ~~~0x40#64 }) ∧
      (s.me.sys.st.getLsbD 6 = false → ParksOn i s s .event)
    let frees := fun (i : Instr) => ∃ t, exec i s = .next t ∧ t.me.run = .free ∧ t.me.pc = s.me.pc ∧
      RegsKept (fun _ => False) s.me t.me ∧ t.me.sys = s.me.sys ∧ (∀ k, k ≠ s.cur → t.slot k = s.slot k) ∧ t.mem = s.mem ∧
      ∀ g G, s.me.bind.owner = some g → tfind s.groups g = some G → ∃ G', tfind t.groups g = some G' ∧ G' = { G with live := G.live - 1 }
    let runs := fun (i : Instr) (record : Word) (u : State) (p : State → Prop) => ctxOpen s s.myCtx = true → ∃ t, exec i s = .next t ∧
      t.me.run = (if u.mark && (u.slot s.cur).marks then .parked (.marker none) else .running) ∧ t.me.sys.trec = record ∧ p t
    let ends := fun (i : Instr) => Ready i s →
      (NothingListed s s.cur → frees i) ∧
      (s.me.det = false → ∀ e u, nextEntry (endTask s.cur s) s.cur = some e →
        startRecord s.cur e.ctx e.record (endTask s.cur s) = (true, u) →
        runs i e.record u fun t => (t.core s.myCore).runList = (s.core s.myCore).runList.erase e)
    waite .waite ∧ waite .cWaite ∧ ends .wfw ∧ ends .cWfw ∧
    (Ready .tpick s → (s.core s.myCore).stopped = false →
      (NothingListed s s.cur → (s.core s.myCore).deque = [] → (∀ g ∈ s.groups, g.2.toStart = []) → frees .tpick) ∧
      ∀ e u, (s.core s.myCore).deque.getLast? = some e → ctxOpen s e.ctx = true →
        startRecord s.cur e.ctx e.record ((endTask s.cur s).onMe fun sl => { sl with phase := 0 }) = (true, u) →
        runs .tpick e.record u fun t => (t.core s.myCore).deque = (s.core s.myCore).deque.dropLast)) ∧
  (∀ s : State,
    let tail := fun (s1 s2 : State) (kp : List Word) (q : List (BitVec 8)) =>
      ownTail s.cur (s1.onMe fun sl => { sl with phase := 3, keep := kp }) = (some q, s2) ∧ s2.cur = s.cur
    let parts := fun (len : Nat) (s1 s2 : State) (kp : List Word) (q : List (BitVec 8)) =>
      fullMask s.me = 0 ∧ recordHazard s.me = none ∧ s.me.phase = 0 ∧
        writeRecord (s.me.pc + BitVec.ofNat 64 len) s = .ok s1 ∧ s1.cur = s.cur ∧ tail s1 s2 kp q
    let frees := fun (i : Instr) (s2 : State) (p : State → Prop) => ∃ t, exec i s = .next t ∧ (t.slot s.cur).run = .free ∧
      RegsKept (fun _ => False) (s2.slot s.cur) (t.slot s.cur) ∧ p t ∧
      ∀ g G, (s2.slot s.cur).bind.owner = some g → tfind s2.groups g = some G →
        ∃ G', tfind t.groups g = some G' ∧ G' = { G with susp := G.susp ++ [(s2.slot s.cur).sys.trec] }
    let queued := fun (i : Instr) (s1 s2 : State) (q : List (BitVec 8)) =>
      (recHome q ≠ s.myCore → NothingListed s2 s.cur → frees i s2 fun t =>
        (s2.mcyc + 17, named s2 .tenqArrival { Arg.reset with k := s1.myCtx, a := recHome q, c := recPrio q, w := s1.me.sys.trec }) ∈ t.inflight) ∧
      (recHome q = s.myCore → (s2.core s.myCore).holding = none → (s2.core s.myCore).runList.length < 64 →
        let list := (s2.core s.myCore).runList ++ [⟨recPrio q, s1.me.sys.trec, s1.myCtx, (s2.core s.myCore).cyc.toNat⟩]
        let after := suspendTask s.cur (s2.onCore s.myCore fun x => { x with runList := list })
        (NothingListed s2 s.cur → ctxOpen s2 s1.myCtx = false → frees i s2 fun t => (t.core s.myCore).runList = list) ∧
        (s2.me.det = false → ctxOpen s2 s2.myCtx = true →
          ∀ e u, nextEntry after s.cur = some e → startRecord s.cur e.ctx e.record after = (true, u) →
            ∃ t, exec i s = .next t ∧ t.me.run = (if u.mark && (u.slot s.cur).marks then .parked (.marker none) else .running) ∧
              t.me.sys.trec = e.record ∧ (t.core s.myCore).runList = list.erase e))
    let suspend := fun (i : Instr) (len : Nat) => Ready i s → ∀ s1 s2 q, parts len s1 s2 [1#64] q →
      let count := ctrCount s2 (recHome q) (recCref q)
      (recCtr q = false ∨ count ≠ 0 → NothingListed s2 s.cur → frees i s2 fun t =>
        recCtr q = true → (s2.mcyc + 17, named s2 .counterRequestArrival { Arg.reset with
          k := s.cur, a := recHome q, b := 3, c := recCref q, w := s2.me.sys.trec, u := BitVec.ofNat 64 s2.me.bind.ctx }) ∈ t.inflight) ∧
      (recCtr q = true → count = 0 → ∀ s3 q3, tail s2 s3 [] q3 → queued i s2 s3 q3)
    let yield := fun (i : Instr) (len : Nat) => Ready i s →
      (s.me.det = true → prqWord s s.myCtx = 0 → s.me.phase = 0 → Completes i s s) ∧
      (s.me.det = false ∨ prqWord s s.myCtx ≠ 0 → ∀ s1 s2 q, parts len s1 s2 [] q → queued i s1 s2 q)
    suspend .suspend 4 ∧ suspend .cSuspend 2 ∧ yield .yield 4 ∧ yield .cYield 2 ∧
    ∀ pc, s.me.sys.trec ≠ 0 → s.me.fresh = false → storeWait s.me = none → NothingOnItsWay s →
      InScratchpad s s.me.sys.trec.toNat 48 → s.me.sys.trec.toNat % 64 = 0 →
      ∃ t, writeRecord pc s = .ok t ∧ ∀ c a, memByte (t.core c).arr a =
        let off := s.me.sys.trec.toNat - localBase
        if c = s.myCore ∧ off ≤ a ∧ a < off + 48 then
          (match (a - off) / 8 with
            | 0 => pc
            | 1 => s.me.rg 2
            | 2 => s.me.rg 4
            | 3 => s.me.rg 5
            | 4 => s.me.rg 6
            | _ => s.me.rg 7).extractLsb' (8 * ((a - off) % 8)) 8
        else memByte (s.core c).arr a)

/-- Ready ATR of a load, store or fetch completes and owes g[d] its answer: bit 63 with the cause where the address is not
canonical (0x0e), not in the memory region (0x09), not mapped (0x0b for a load, 0x0c for a store), has a format error or not
the rights (0x0e), lies on a retired page (0x0b, 0x0c) or, for a store, on a migrating one (0x0c), the cause being 0x0d for
every fetch; else the size code in bits 57:56 and the physical address. Ready TLBFL of mode 2 raises 0x02 outside a physical-
function context. Else it first waits for the slot's earlier accesses, or enters a release in the slot's commit buffer; then
no TLB holds a translation of its range (mode 0: the page of g[a]; 1: the slot's context; 2: the context numbered in g[a]), a
flush is under way and the slot parks for it; issued again with its flush over, it completes and nothing else changes. Choices
of the model on which it rests: logs 18, 48, 65. (12_page R250, 12_page R241, 12_page R243, 12_page R246, 10_access R216,
12_page R251, 12_page R249, 09_word R200, 10_access R236) -/
def Obligations.AtrAndTlbfl : Prop :=
  (∀ (s : State) (k a d : BitVec 5), k.toNat < 3 →
    let x := s.me.rg a.toNat
    let area := regionOf s s.myCore x.toNat
    let n := k.toNat
    let answers := fun (v : Word) (s' : State) => Ready (.atr k a d) s → Completes (.atr k a d) s (owingValue s' d v)
    let fails := fun (cause : Word) => answers (0x8000000000000000 + if n = 2 then 0x0d else cause)
    (area = .nonCanonical → fails 0x0e s) ∧
    (area ≠ .nonCanonical → area ≠ .memory → fails 0x09 s) ∧
    (area = .memory → ∀ s',
      (∀ n, walk s.myCtx x.toNat s = (.unmapped n, s') → fails (if n = 0 then 0x0b else 0x0c) s') ∧
      (walk s.myCtx x.toNat s = (.format, s') → fails 0x0e s') ∧
      ∀ pte bits, walk s.myCtx x.toNat s = (.leaf pte bits, s') →
        let pa := (pte.extractLsb' 13 39).toNat * 8192 + x.toNat % 2 ^ bits
        let right := pte.getLsbD (if n = 0 then 3 else if n = 1 then 4 else 5) &&
          (s'.me.sv || (pte.getLsbD 6 && !isMgmt pa))
        let st := pte.extractLsb' 62 2
        (right = false → fails 0x0e s') ∧
        (right = true → st = 2 → fails (if n = 0 then 0x0b else 0x0c) s') ∧
        (right = true → st = 1 → n = 1 → fails 0x0c s') ∧
        (right = true → st ≠ 2 → (st ≠ 1 ∨ n ≠ 1) →
          answers (BitVec.ofNat 64 (pa + (if bits = 13 then 0 else if bits = 18 then 1 else if bits = 23 then 2 else 3) * 2 ^ 56)) s'))) ∧
  (∀ (s : State) (m a : BitVec 5), Ready (.tlbfl m a) s →
    let x := s.me.rg a.toNat
    let hv := match tfind s.ctxs s.myCtx with
      | some c => c.hv
      | none => false
    let flushes := ∃ t id, ParksOn (.tlbfl m a) s t (.flushing id) ∧ t.me.phase = 1 ∧ t.me.keep = [BitVec.ofNat 64 id] ∧
      (∃ f ∈ t.flushes, f.id = id) ∧ ∀ o, ∀ y ∈ (t.octet o).tlb,
        (m = 0 → y.hit s.myCtx x.toNat = false) ∧
        (m ≠ 0 → y.ctx = (if m = 2 then x.toNat % 256 else s.myCtx) → 2 ^ 64 ≤ y.base)
    (m = 2 → hv = false → Traps (.tlbfl m a) s 0x02 (wordOf (.tlbfl m a) s)) ∧
    (m ≠ 2 ∨ hv = true →
      (s.me.phase = 1 → (∀ f ∈ s.flushes, f.id ≠ (s.me.keep.getD 0 0).toNat) → Completes (.tlbfl m a) s s) ∧
      (s.me.phase = 0 → buffered s s.cur = false →
        (s.me.performed = true → flushes) ∧ (s.me.performed = false → ParksOn (.tlbfl m a) s s .stores)) ∧
      (s.me.phase = 0 → buffered s s.cur = true → ∀ u, enter s.cur [(0, .rel)] s = .ok u → flushes)))

/-- Ready CTXSAVE of a Bound or Running context of its own tenant other than its own, with no save of it under way and prg 0, sets
its prq, its deadline and the state code 4, and parks; of another tenant's context it raises 0x0e. CTXSAVE and CTXLOAD issued
again with prg naming them, while the save or restore that they drive has finished, complete: the L1 acquires and prg is 0.
Choices of the model on which it rests: log 42. (24_context R444, 24_context R445, 24_context R432, 24_context R430) -/
def Obligations.ContextInstructions : Prop :=
  ∀ (s : State) (b a : BitVec 5),
    let x := s.me.rg a.toNat
    let done := fun (i : Instr) (id : Nat) (load : Bool) => Ready i s → ∀ c v c', tfind s.ctxs x.toNat = some c →
      x.toNat < 256 → x.toNat ≠ s.myCtx → tfind s.ctxs s.myCtx = some c' → c'.tenant = c.tenant → c.hyper = none → c.save = some v → v.restore = load →
      v.bySlot = true → v.finished = true → v.failed = none → c.st ≠ 7 → s.me.sys.prg ≠ 0 → s.me.sys.prg.extractLsb' 56 8 = BitVec.ofNat 8 id →
      NothingOnItsWay s →
      exec i s = .next (completeAt s.me.pc (s.me.pc + 4) ((l1Acquire s.myCore s).onMe fun sl => sl.onSys fun y => { y with prg := 0 }))
    done (.ctxsave b a) 9 false ∧ done (.ctxload a) 10 true ∧
    (Ready (.ctxsave b a) s → ∀ c c', tfind s.ctxs x.toNat = some c → x.toNat < 256 → x.toNat ≠ s.myCtx →
      tfind s.ctxs s.myCtx = some c' → s.me.sys.prg = 0 → c.hyper = none → c.busy = false → c.st = 2 ∨ c.st = 3 →
      (c'.tenant ≠ c.tenant → Traps (.ctxsave b a) s 0x0e x) ∧
      (c'.tenant = c.tenant → ∃ t, ParksOn (.ctxsave b a) s t (.context x.toNat) ∧ ∃ c1, tfind t.ctxs x.toNat = some c1 ∧ c1.prq = true ∧
        c1.st = 4 ∧ c1.pdl = ((s.me.rg b.toNat).setWidth 32).toNat))

/-- Ready HALTP with span code 3, 5, 6 or 8 completes, and each core of the span's instance within the partition is stopped, or
its stop waits for a replay, a divide or a tensor's answer of one of its slots; where no core of it has to wait, all are
stopped. Any other code raises 0x01 with the code. A write of haltcmd changes nothing while a command runs or from a virtual
function; it keeps the RW fields. A context that is not in operation gives status 2; a partition already stopped, or one with
no core stopped to resume, status 1. Else HALT_STOP stops every core of the partition at once, but one with a replay in
progress, which stops after it; the status is 0x80 while one waits, else 0. HALT_RESUME lets every core go on, with status 0.
Memory, the contexts and every other core stay as they are. Choices of the model on which it rests: log 18. (27_trap R466,
27_trap R452, 27_trap R453, 07_control_fp R158, 28_link R475, 27_trap R458) -/
def Obligations.StopsOfSpans : Prop :=
  (∀ (s : State) (a : BitVec 5), Ready (.haltp a) s →
    let x := s.me.rg a.toNat
    let span := spanCores s s.myCtx x.toNat s.myCore
    (x = 3 ∨ x = 5 ∨ x = 6 ∨ x = 8 → ∃ t, exec (.haltp a) s = .next (completeAt s.me.pc (s.me.pc + 4) t) ∧
      (∀ c ∈ span, (t.core c).stopped = true ∨ (t.core c).halting.isSome = true) ∧
      ((∀ c ∈ span, stopAwaits s c = false ∧ (s.core c).halting = none) → ∀ c ∈ span, (t.core c).stopped = true)) ∧
    (¬ (x = 3 ∨ x = 5 ∨ x = 6 ∨ x = 8) → Traps (.haltp a) s 0x01 x)) ∧
  (∀ (s : State),
    let k := s.arg.k
    let status := fun (t : State) (m : Nat) => t.mreg 0x200 = setSlice (s.arg.w &&& 0xff00000000ff#64) 63 56 m
    let ends := fun (e : Instr) (m : Nat) => Happens e s (s.setMreg 0x200 (setSlice (s.arg.w &&& 0xff00000000ff#64) 63 56 m))
    (s.arg.c ≠ 0 ∨ (s.mreg 0x200).getLsbD 63 = true → Happens .haltStop s s ∧ Happens .haltResume s s) ∧
    (s.arg.c = 0 → (s.mreg 0x200).getLsbD 63 = false →
      (ctxState s k ∈ [0, 1, 6, 7] → ends .haltStop 2 ∧ ends .haltResume 2) ∧
      (ctxState s k ∉ [0, 1, 6, 7] →
        (partitionStopped s k = true → ends .haltStop 1) ∧
        (partitionStopped s k = false → ∃ t, Happens .haltStop s t ∧ status t (if partitionHalting t k then 0x80 else 0) ∧
          (∀ d ∈ partitionCores s k, (t.core d).stopped = true ∨ (t.core d).halting.isSome = true) ∧
          (∀ d ∈ partitionCores s k, (s.core d).halting = none → stopAwaits s d = false → (t.core d).stopped = true) ∧
          (∀ d, d ∉ partitionCores s k → t.core d = s.core d) ∧ t.mem = s.mem ∧ t.ctxs = s.ctxs) ∧
        ((∀ d ∈ partitionCores s k, (s.core d).stopped = false) → ends .haltResume 1) ∧
        ((∃ d ∈ partitionCores s k, (s.core d).stopped = true) → ∃ t, Happens .haltResume s t ∧ status t 0 ∧
          (∀ d ∈ partitionCores s k, (t.core d).stopped = false ∧ (t.core d).halting = none) ∧
          (∀ d, d ∉ partitionCores s k → t.core d = s.core d) ∧ t.mem = s.mem ∧ t.ctxs = s.ctxs))))

/-- Ready SELFTEST raises 0x02 outside a physical-function context; of a unit not under quarantine it owes 2, else it asks for the
test, parks, and completes with the answer. A ready C7 word of function 1 or 2 waits for every outstanding result, then
completes, its marker without effect, and writes at most g[d], v[d], p[d] and the sticky flags, with free values (log 11);
another one raises 0x01 with its word. An error is logged with its class, and its unit goes under quarantine, with a self-test
to come. A data error consumed by a slot traps it with 0x1e; one that none has consumed pins the line bad at its slice, and
with 16 lines pinned there every context with a cluster on the slice's die faults; a hardware error traps the slot concerned
with 0x1f. A self-test of a unit under quarantine asks the contexts whose groups stand on it to leave, and waits until none
does. The test of a unit that is not under quarantine answers 2 and changes nothing. Another leaves a core's array zero; a
test of the management core ends the quarantine, a failed one retires the unit, and placement is looked at again; the SELFTEST
of a slot has 0 for a test passed and 1 for one failed. Choices of the model on which it rests: logs 11, 12, 14, 18, 42, 45,
47. (27_trap R467, 03_encoding R61, 03_encoding R60, 27_trap R461, 27_trap R462, 27_trap R464, 27_trap R465) -/
def Obligations.ErrorsSelftestsAndEmulation : Prop :=
  (∀ (s : State) (a d : BitVec 5) (e : BitVec 24),
    let x := s.me.rg a.toNat
    let hv := match tfind s.ctxs s.myCtx with
      | some c => c.hv
      | none => false
    (Ready (.selftest a d) s →
      (s.me.phase = 2 → Writes (.selftest a d) s fun sl => sl.wg d.toNat (s.me.keep.getD 0 0)) ∧
      (s.me.phase = 0 → hv = false → Traps (.selftest a d) s 0x02 (wordOf (.selftest a d) s)) ∧
      (s.me.phase = 0 → hv = true → x.toNat < 2 ^ 20 → unitExists x.toNat = true →
        (x.toNat ∉ s.quarantine → Completes (.selftest a d) s (owingValue s d 2)) ∧
        (x.toNat ∈ s.quarantine → ∃ t, ParksOn (.selftest a d) s t .answer ∧ t.me.phase = 1 ∧
          (s.mcyc + 17, evt .unitSelftestComplete x.toNat 0 (s.cur + 1)) ∈ t.inflight))) ∧
    (Ready (.emulation e) s →
      (e.extractLsb' 15 8 = 1#8 ∨ e.extractLsb' 15 8 = 2#8 →
        (s.me.pend ≠ [] → ParksOn (.emulation e) s s .results) ∧
        (s.me.pend = [] → ∃ sl, Completes (.emulation e) s ({ s with mark := false }.onMe fun _ => sl) ∧
          (let n := (e.setWidth 5).toNat
           RegsKept (fun r => r = ⟨0, n⟩ ∨ r = ⟨1, n % 16⟩ ∨ r = ⟨2, n % 8⟩) s.me sl) ∧ sl.pc = s.me.pc ∧
          sl.sys = { s.me.sys with st := sl.sys.st } ∧ ∀ j, 6 ≤ j → sl.sys.st.getLsbD j = s.me.sys.st.getLsbD j)) ∧
      (¬ (e.extractLsb' 15 8 = 1#8 ∨ e.extractLsb' 15 8 = 2#8) → Traps (.emulation e) s 0x01 (wordOf (.emulation e) s)))) ∧
  (∀ (s : State),
    let k := s.arg.k
    let a := s.arg.a
    let b := s.arg.b
    let w := s.arg.w
    let soonMsg := fun (t : State) (m : Msg) => (s.mcyc + 17, m) ∈ t.inflight
    let logged := fun (m : Nat) => logError (unitDie a) m w.toNat a s
    let detects := fun (t : State) => Happens .errorDetected s (quarantineUnit a t)
    let pinnedThere := (s.pinned.filter fun l => homeSlice (64 * l) == homeSlice w.toNat).length
    (∃ t, Happens .errorDetected s t ∧ a ∈ t.quarantine ∧ soonMsg t (evt .unitSelftestComplete a 0 0)) ∧
    (b = 0 → detects (logged 1)) ∧
    (b = 1 → s.arg.c ≠ 0 → detects (faultTrap (s.arg.c - 1) 0x1e (BitVec.ofNat 64 w.toNat) (logged 2))) ∧
    (b = 1 → s.arg.c = 0 →
      (w.toNat / 64 ∈ s.pinned → detects (logged 2)) ∧
      (w.toNat / 64 ∉ s.pinned → pinnedThere < 16 → detects { logged 2 with pinned := s.pinned ++ [w.toNat / 64] }) ∧
      (w.toNat / 64 ∉ s.pinned → 16 ≤ pinnedThere → detects
        ((s.ctxs.filter fun e => (maskClusters e.2.clusters).any fun c => c / 8 == dieOf (homeSlice w.toNat)).foldl
          (fun t e => contextFault e.1 0x1e 0xffff w 0 t) (logged 2)))) ∧
    (1 < b → s.arg.c ≠ 0 → detects (faultTrap (s.arg.c - 1) 0x1f (BitVec.ofNat 64 a) (logged 3))) ∧
    (1 < b → s.arg.c = 0 → detects (logged 3)) ∧
    (k ∈ s.quarantine → unitCtxs s k ≠ [] → Happens .unitSelftestComplete s ((leaveUnit k s).post ⟨.unitSelftestComplete, s.arg⟩)) ∧
    (k ∉ s.quarantine →
      Happens .unitSelftestComplete s (if s.arg.c = 0 then s else answerSlot (s.arg.c - 1) 2 s)) ∧
    (unitCtxs s k = [] → k ∈ s.quarantine →
      (s.arg.c = 0 → ∃ t, Happens .unitSelftestComplete s t ∧ k ∉ t.quarantine ∧ soonMsg t (evt .groupPlacement 0 0 0) ∧
        (unitKind k = 0 → (t.core (unitNo k)).arr = []) ∧ (b = 1 → t.defect = s.defect) ∧
        (1 < b → (retiredWord t (unitOctet k)).getLsbD (retireBit k) = true)) ∧
      (s.arg.c ≠ 0 → ∃ t, Happens .unitSelftestComplete s t ∧ t.quarantine = s.quarantine ∧ t.defect = s.defect ∧
        (unitKind k = 0 → (t.core (unitNo k)).arr = []) ∧
        (b ≠ 0 → (s.slot (s.arg.c - 1)).run = .parked .answer → (s.slot (s.arg.c - 1)).phase = 1 →
          (t.slot (s.arg.c - 1)).phase = 2 ∧ (t.slot (s.arg.c - 1)).keep = [if b = 1 then 0#64 else 1#64]))))

/-- Where earlier stores are performed and the copy passes the checks of R254, a ready CPLAUNCH completes: the lowest Free tag is
In flight, its copy has the six registers as read, it stands last in its queue, and g[d] is owed the tag. COPYP does the same
with the registers of a block in the scratchpad whose reserved doublewords are 0, and leaves prg 0. CPLAUNCH parks for earlier
stores, where no tag is Free, and for a multicast while its mailbox has 8 that are not counted; an offending copy register
makes it raise 0x01 with the register's number. Choices of the model on which it rests: logs 15, 18. (13_transfer R254,
13_transfer R255, 13_transfer R258, 13_transfer R264, 13_transfer R265) -/
def Obligations.CopiesAreLaunched : Prop :=
  ∀ (s : State) (a d : BitVec 5), buffered s s.cur = false →
    let c := s.myCore
    let tr := (s.core c).transfer
    let x := s.me.rg a.toNat
    let block := memBytes (s.core c).arr (x.toNat - localBase) 64
    let w := fun (i : Nat) => BitVec.ofNat 64 (ofBytesLE ((block.drop (8 * i)).take 8))
    let lowest := fun (tag : Nat) => tag < 64 ∧ tagSt s c tag = .free ∧ tfind tr.tags tag = none ∧ ∀ j, j < tag → tfind tr.tags j ≠ none
    let passes := fun (r : CopyRegs) (tv : Nat → Word) => (cpKind r = 3 → pendingCasts tr (cpMb r) < 8) ∧ cpFormat r = none ∧
      cpEnds s.cur r s = none ∧ cpUnits s.cur r tv s = none
    let launched := fun (i : Instr) (r : CopyRegs) (tag : Nat) => ∃ t, Completes i s t ∧ tagSt t c tag = .inFlight ∧
      (∃ y, tfind (t.core c).transfer.copies tag = some y ∧ y.regs = r ∧ y.slot = s.cur ∧ y.ctx = s.myCtx ∧ y.sv = s.me.sv ∧ y.done = 0 ∧
        y.err = none) ∧
      queueTags (t.core c).transfer (cpQueue r) = queueTags tr (cpQueue r) ++ [tag] ∧
      (∀ j, j ≠ tag → tagSt t c j = tagSt s c j) ∧
      (∃ p ∈ t.me.pend, p = ⟨s.me.traffic.nextId, [⟨0, d.toNat⟩], .value [.g d.toNat (BitVec.ofNat 64 tag)] 0#6⟩) ∧
      t.me.sys = s.me.sys ∧ t.mem = s.mem
    let regs := s.me.sys.cp
    let number := fun (j : Nat) => BitVec.ofNat 64 (0x30 + j)
    (Ready (.cplaunch d) s →
      (s.me.performed = false → ParksOn (.cplaunch d) s s .stores) ∧
      (s.me.performed = true → (∀ j, j < 64 → tfind tr.tags j ≠ none) → ParksOn (.cplaunch d) s s .freeTag) ∧
      (s.me.performed = true → ∀ tag, lowest tag →
        (cpKind regs = 3 → 8 ≤ pendingCasts tr (cpMb regs) → ParksOn (.cplaunch d) s s (.castRoom (cpMb regs))) ∧
        (passes regs number → launched (.cplaunch d) regs tag) ∧
        ((cpKind regs = 3 → pendingCasts tr (cpMb regs) < 8) → ∀ j, cpFormat regs = some j → Traps (.cplaunch d) s 0x01 (number j)))) ∧
    (Ready (.copyp a d) s → NothingOnItsWay s → s.me.traffic.out = [] → s.me.sys.prg = 0 → tr.params = [] → x.toNat % 64 = 0 →
      InScratchpad s x.toNat 64 → w 6 = 0 → w 7 = 0 → ∀ tag, lowest tag →
      passes ⟨w 0, w 1, w 2, w 3, w 4, w 5⟩ (fun j => x + BitVec.ofNat 64 (8 * j)) →
      launched (.copyp a d) ⟨w 0, w 1, w 2, w 3, w 4, w 5⟩ tag)

/-- Ready TWAITANY of no tag, and either wait naming a Free tag, raise 0x20; in a throughput slot TWAITANY completes with g[d] :=
the lowest Complete tag, TWAITALL when all are; both acquire and record that the slot has waited; else they park. A tag with
an error that a wait or test reports becomes Free and its error is raised. TFIND gives the lowest tag that has ended, or all
ones; TTEST 1 or 0; they change nothing else. TCLR of a tag in flight raises 0x20, else the tag is Free and no other changes.
(13_transfer R258, 13_transfer R259, 13_transfer R260, 13_transfer R261, 13_transfer R263) -/
def Obligations.TagsAreWaitedForAndFound : Prop :=
  ∀ (s : State) (a d : BitVec 5),
    let c := s.myCore
    let m := s.me.rg a.toNat
    let st := fun (t : Nat) => tagSt s c t
    let ended := fun (t : Nat) => st t ≠ .free ∧ st t ≠ .inFlight
    let first := fun (p : Nat → Prop) (t : Nat) => t < 64 ∧ m.getLsbD t = true ∧ p t ∧ ∀ j, j < t → m.getLsbD j = true → ¬ p j
    let got := fun (ts : List Nat) => (l1Acquire c (s.onMe fun sl => { sl with traffic := { sl.traffic with
      waited := ts.foldl (fun w t => w ||| (1#64 <<< t)) sl.traffic.waited } }))
    let reports := fun (i : Instr) (t : Nat) => ∀ cause addr, st t = .error cause addr →
      ∃ s', exec i s = .next (raiseTrap s.cur cause addr s.me.pc s') ∧ tagSt s' c t = .free ∧ s'.mem = s.mem ∧
        RegsKept (fun _ => False) s.me s'.me
    let named := fun (i : Instr) => ∀ t, first (fun t => st t = .free) t → Traps i s 0x20 (BitVec.ofNat 64 t)
    let allNamed := ∀ t, t < 64 → m.getLsbD t = true → st t ≠ .free
    (Ready (.twaitany a d) s →
      (m = 0 → Traps (.twaitany a d) s 0x20 0x100) ∧ named (.twaitany a d) ∧
      (s.me.det = false → m ≠ 0 → allNamed →
        ((∀ t, t < 64 → m.getLsbD t = true → ¬ ended t) → ParksOn (.twaitany a d) s s (.tags m false)) ∧
        ∀ t, first ended t → reports (.twaitany a d) t ∧
          (st t = .complete → Completes (.twaitany a d) s ((got [t]).onMe fun sl => sl.wg d.toNat (BitVec.ofNat 64 t))))) ∧
    (Ready (.twaitall a) s → named (.twaitall a) ∧
      (allNamed → (∃ t, t < 64 ∧ m.getLsbD t = true ∧ st t = .inFlight) → ParksOn (.twaitall a) s s (.tags m true)) ∧
      ((∀ t, t < 64 → m.getLsbD t = true → ended t) → ∀ t, first (fun t => st t ≠ .complete) t → reports (.twaitall a) t) ∧
      ((∀ t, t < 64 → m.getLsbD t = true → st t = .complete) →
        Completes (.twaitall a) s (got ((List.range 64).filter fun t => m.getLsbD t)))) ∧
    (s.me.det = false → Ready (.tfind a d) s →
      (∀ t, first ended t → reports (.tfind a d) t ∧
        (st t = .complete → Writes (.tfind a d) s fun sl => sl.wg d.toNat (BitVec.ofNat 64 t))) ∧
      ((∀ t, t < 64 → m.getLsbD t = true → ¬ ended t) → Writes (.tfind a d) s fun sl => sl.wg d.toNat (BitVec.allOnes 64))) ∧
    (s.me.det = false → Ready (.ttest a d) s →
      let t := m.toNat % 64
      reports (.ttest a d) t ∧ (st t = .complete → Writes (.ttest a d) s fun sl => sl.wg d.toNat 1) ∧
      (¬ ended t → Writes (.ttest a d) s fun sl => sl.wg d.toNat 0)) ∧
    (Ready (.tclr a) s →
      let t := m.toNat % 64
      (st t = .inFlight → Traps (.tclr a) s 0x20 (BitVec.ofNat 64 t)) ∧
      (st t ≠ .inFlight → ∃ u, Completes (.tclr a) s u ∧ tagSt u c t = .free ∧ (∀ j, j ≠ t → tagSt u c j = st j) ∧
        RegsKept (fun _ => False) s.me u.me ∧ u.me.sys = s.me.sys ∧ u.mem = s.mem))

/-- Ready CHOPEN of a range of the scratchpad, base and length multiples of 64, opens a closed channel with its watermark at the
base; a bad length raises 0x01, a bad base 0x08, a range beyond the scratchpad 0x09, an open channel 0x20. CHCLOSE closes a
channel whose copy has ended, keeping the watermark, and parks for the copy otherwise. MFREE takes one from the multicasts
delivered and not yet freed, and raises 0x20 where there is none. MBWAIT completes as an acquire once the mailbox has reached
the count modulo 2^32, and parks before. (13_transfer R267, 13_transfer R268, 13_transfer R270, 13_transfer R271, 13_transfer
R272) -/
def Obligations.ChannelsAndMailboxes : Prop :=
  ∀ (s : State) (a b : BitVec 5) (k : BitVec 2) (m : BitVec 3),
    let c := s.myCore
    let tr := (s.core c).transfer
    let base := s.me.rg a.toNat
    let n := s.me.rg b.toNat
    let ch := vget tr.chans k.toNat Channel.reset
    let room := localBase ≤ base.toNat ∧ base.toNat + n.toNat ≤ localBase + (s.core c).spsz
    let changed := fun (t : State) (x : Channel) => t.slots = s.slots ∧ t.mem = s.mem ∧
      ∀ j, j < 4 → vget (t.core c).transfer.chans j Channel.reset = if j = k.toNat then x else vget tr.chans j Channel.reset
    let value := s.me.rg a.toNat
    let sender := (value.setWidth 16).toNat
    let mbox := (value.extractLsb' 16 3).toNat
    let count := tget tr.delivered (8 * sender + mbox) 0
    (Ready (.chopen b a k) s →
      (n = 0 ∨ n.toNat % 64 ≠ 0 → Traps (.chopen b a k) s 0x01 n) ∧
      (n ≠ 0 → n.toNat % 64 = 0 → base.toNat % 64 ≠ 0 → Traps (.chopen b a k) s 0x08 base) ∧
      (n ≠ 0 → n.toNat % 64 = 0 → base.toNat % 64 = 0 →
        (base.toNat < localBase → Traps (.chopen b a k) s 0x09 base) ∧
        (localBase ≤ base.toNat → base.toNat < localBase + (s.core c).spsz → localBase + (s.core c).spsz < base.toNat + n.toNat →
          Traps (.chopen b a k) s 0x09 (BitVec.ofNat 64 (localBase + (s.core c).spsz))) ∧
        (room → ch.opened = true → Traps (.chopen b a k) s 0x20 (0x40 + k.setWidth 64)) ∧
        (room → ch.opened = false → ∃ t, Completes (.chopen b a k) s t ∧ changed t ⟨true, base.toNat, n.toNat, none, base⟩))) ∧
    (Ready (.chclose k) s →
      (ch.opened = false → Completes (.chclose k) s s) ∧
      (∀ t, ch.opened = true → ch.tag = some t → ParksOn (.chclose k) s s (.tags (1#64 <<< t) true)) ∧
      (ch.opened = true → ch.tag = none → ∃ t, Completes (.chclose k) s t ∧ changed t { ch with opened := false })) ∧
    (Ready (.mfree a) s → value.toNat < 2 ^ 19 →
      (count = 0 → Traps (.mfree a) s 0x20 value) ∧
      (count ≠ 0 → s.me.performed = false → ParksOn (.mfree a) s s .stores) ∧
      (count ≠ 0 → s.me.performed = true → ∃ t, Completes (.mfree a) s t ∧ t.slots = s.slots ∧ t.mem = s.mem ∧
        tget (t.core c).transfer.delivered (8 * sender + mbox) 0 = count - 1 ∧
        ∀ j, j ≠ 8 * sender + mbox → tget (t.core c).transfer.delivered j 0 = tget tr.delivered j 0)) ∧
    (Ready (.mbwait a m) s →
      let reached := (vget tr.mb m.toNat 0 - value.setWidth 32).toNat < 2 ^ 31
      (reached → Completes (.mbwait a m) s (l1Acquire c s)) ∧ (¬ reached → ParksOn (.mbwait a m) s s (.mailbox m.toNat value)))

/-- A ready PUT, GET, PUTV, GETV, C_PUT or C_GET of a bound port of its direction and width sends its message in the next frame
and parks, an offer once earlier accesses are performed; an unbound port raises 0x17 with code 1. When the port has fired, an
offer completes, and an accept completes, as an acquire, and owes its register the item; a GET of a Full port takes its item
at once. PSEL completes and owes the number of the port that fired, or of the lowest Full one, and parks otherwise. PUTB and
GETB complete after their last element, which GETB stores; they leave prg 0. Choices of the model on which it rests: log 52.
(14_connector R276, 14_connector R284, 14_connector R290, 14_connector R291, 14_connector R292, 14_connector R295,
14_connector R296, 03_encoding R52) -/
def Obligations.PortInstructions : Prop :=
  ∀ (s : State) (k x : BitVec 3) (h : BitVec 2) (b a d : BitVec 5) (vd : BitVec 4),
    let port := fun (t : State) (p : Nat) => vget t.me.ports p Port.reset
    let ready := s.me.phase = 0
    let fired := s.me.phase = 2
    let mask := fun (p : Nat) (vec : Bool) => if vec then 3 * 2 ^ p else 2 ^ p
    let sends := fun (i : Instr) (p : Nat) (source vec : Bool) (item : VReg) =>
      ready → portCheck s.cur p source vec s = none → (source = true → s.me.performed = true) →
      ∃ t, ParksOn i s t (.port (mask p vec)) ∧ t.me.phase = 1 ∧ (port t p).phase = (if source then .offering else .accepting) ∧
        (32 * (s.mcyc / 32 + (portFrames s s.cur p + 1)) + 1,
          ⟨.offerAcceptArrival, { Arg.reset with k := s.cur, a := p, b := 0, item := item }⟩) ∈ t.inflight
    let unbound := fun (i : Instr) (p : Nat) (mask : Nat) => ready → (port s p).phase = .unbound → Traps i s 0x17 (BitVec.ofNat 64 (mask + 2 ^ 8))
    let put := fun (i : Instr) (v : Word) => Ready i s →
      (fired → Completes i s s) ∧ sends i k.toNat true false (wordItem v) ∧ unbound i k.toNat (2 ^ k.toNat)
    let get := fun (i : Instr) => Ready i s →
      (fired → Completes i s (owingValue (l1Acquire s.myCore s) d (s.me.keep.headD 0))) ∧
      (ready → (port s k.toNat).full = true → portCheck s.cur k.toNat false false s = none →
        Completes i s (owingValue (s.onMe fun sl => { sl with ports := vset sl.ports k.toNat { port s k.toNat with full := false } }) d
          (port s k.toNat).item)) ∧
      ((port s k.toNat).full = false → sends i k.toNat false false vzero ∧ unbound i k.toNat (2 ^ k.toNat))
    let m := (s.me.rg a.toNat).toNat
    let n := ((s.me.rx x.toNat).setWidth 32).toNat
    let addr := s.me.rg a.toNat + BitVec.ofNat 64 (n - 1) * ((s.me.rx x.toNat).extractLsb' 32 32).signExtend 64
    let ended := fun (sl : Slot) => { sl with phase := 0, keep := [], entered := 0, sys := { sl.sys with prg := 0 } }
    let last := fun (id : Nat) => fired ∧ 1 ≤ n ∧ s.me.sys.prg = BitVec.ofNat 64 (id * 2 ^ 56 + (n - 1))
    put (.put k a) (s.me.rg a.toNat) ∧ put (.cPut k d) (s.me.rg d.toNat) ∧ get (.get k d) ∧ get (.cGet k d) ∧
    (Ready (.putv h vd) s → (fired → Completes (.putv h vd) s s) ∧
      sends (.putv h vd) (2 * h.toNat) true true (s.me.rv vd.toNat) ∧ unbound (.putv h vd) (2 * h.toNat) (3 * 2 ^ (2 * h.toNat))) ∧
    (Ready (.getv h vd) s →
      (fired → ∃ v, Completes (.getv h vd) s (owing (l1Acquire s.myCore s) (.v vd.toNat v)) ∧
        ∀ j, j < 16 → lane v j = (s.me.keep.getD (j / 2) 0).extractLsb' (32 * (j % 2)) 32) ∧
      sends (.getv h vd) (2 * h.toNat) false true vzero ∧ unbound (.getv h vd) (2 * h.toNat) (3 * 2 ^ (2 * h.toNat))) ∧
    (Ready (.psel b a d) s →
      (fired → Completes (.psel b a d) s
        (owingValue (if s.me.keep.getD 1 0 = 1#64 then l1Acquire s.myCore s else s) d (s.me.keep.getD 0 0))) ∧
      (ready → 2 ^ 8 ≤ m → Traps (.psel b a d) s 0x01 (wordOf (.psel b a d) s)) ∧
      (ready → m = 0 → Traps (.psel b a d) s 0x17 0x500) ∧
      (ready → m < 2 ^ 8 → pselCheck s.cur m s = none → ∀ p, m.testBit p = true → (port s p).full = true →
        (∀ q, q < p → m.testBit q = true → (port s q).full = false) →
        Completes (.psel b a d) s (owingValue s d (BitVec.ofNat 64 p))) ∧
      (ready → m < 2 ^ 8 → pselCheck s.cur m s = none → (∀ p, m.testBit p = true → (port s p).full = false) →
        ((∃ p, m.testBit p = true ∧ portSource s s.cur p = true) → s.me.performed = true) →
        ∃ t, ParksOn (.psel b a d) s t (.port m) ∧ t.me.phase = 1 ∧
          ∀ p, m.testBit p = true → (port t p).phase = (if portSource s s.cur p then .offering else .accepting))) ∧
    (Ready (.putb k x a) s → (last 7 → Writes (.putb k x a) s ended) ∧
      (n = 0 → s.me.sys.prg = 0 → Writes (.putb k x a) s fun sl => { sl with sys := { sl.sys with prg := 0 } })) ∧
    (Ready (.getb k x a) s →
      (n = 0 → s.me.sys.prg = 0 → Writes (.getb k x a) s fun sl => { sl with sys := { sl.sys with prg := 0 } }) ∧
      (last 8 → storeWait s.me = none → NothingOnItsWay s → InScratchpad s addr.toNat 8 → addr.toNat % 8 = 0 →
        StoresInArray (.getb k x a) s ended s.myCore fun e =>
          if addr.toNat - localBase ≤ e ∧ e < addr.toNat - localBase + 8 then
            some ((s.me.keep.headD 0).extractLsb' (8 * (e - (addr.toNat - localBase))) 8) else none))

/-- Ready CLOAD of a well-formed image that fits and has room completes: the connector stands under the lowest free number of the
context, which g[d] is owed; reserved bits, a misaligned address and a bad header trap. CUNLOAD removes a connector with no
bound endpoint, and raises 0x17 with the endpoint otherwise, or with code 0x15 for no connector. PBIND binds an unbound port
to a free endpoint, PUNBIND unbinds one that is not Full. CSTAT owes g[d] the counter of a region. Other connectors stay as
they are. (14_connector R281, 14_connector R290, 14_connector R297, 14_connector R301, 14_connector R302, 14_connector R303) -/
def Obligations.ConnectorsAreLoadedAndBound : Prop :=
  ∀ (s : State) (k : BitVec 3) (b a d : BitVec 5),
    let ha := s.me.rg a.toNat
    let xb := s.me.rg b.toNat
    let key := 1024 * s.myCtx + ha.toNat
    let conn := if ha.toNat < 1024 then tfind s.conns key else none
    let code := fun (n info : Nat) => BitVec.ofNat 64 (n * 2 ^ 8 + info * 2 ^ 16)
    let port := fun (t : State) (p : Nat) => vget t.me.ports p Port.reset
    (Ready (.cload b a d) s →
      (2 ^ 16 ≤ xb.toNat → Traps (.cload b a d) s 0x01 (wordOf (.cload b a d) s)) ∧
      (xb.toNat < 2 ^ 16 → ha.toNat % 64 ≠ 0 → Traps (.cload b a d) s 0x08 ha) ∧
      (xb.toNat < 2 ^ 16 → ha.toNat % 64 = 0 → ∀ hd s1, imageBytes ha.toNat 32 s = .ok (hd, s1) →
        (headerGood hd = false → s1 = s → Traps (.cload b a d) s 0x17 (code 0x10 0xffffffffffff)) ∧
        (headerGood hd = true → ∀ bs s2 r n,
          imageBytes ha.toNat (32 + 8 * (imgCounts hd).1 + 8 * (imgCounts hd).2.1 + 32 * (imgCounts hd).2.2) s1 = .ok (bs, s2) →
          readImage bs = .ok r → imageFits s2 (xb.toNat % 256) (xb.toNat / 256) bs = true →
          freeConn s2 s2.myCtx = some n →
          let cn := newConn s2 n (xb.toNat % 256) (xb.toNat / 256) bs r
          lackingOctet s2 cn = none → s2.me.det = false → missingStream s2 s2.myCtx r.2.2 = none →
          Completes (.cload b a d) s (owingValue { s2 with conns := tset s2.conns (1024 * s2.myCtx + n) cn } d (BitVec.ofNat 64 n))))) ∧
    (Ready (.cunload a) s →
      (conn = none → Traps (.cunload a) s 0x17 (code 0x15 0)) ∧
      ∀ cn, conn = some cn →
        ((∀ e ∈ cn.eps, e.bound = none) → ∃ t, Completes (.cunload a) s t ∧ tfind t.conns key = none ∧ t.slots = s.slots ∧
          ∀ j, j ≠ key → tfind t.conns j = tfind s.conns j) ∧
        (∀ e x, cn.eps[e]? = some x → x.bound ≠ none → (∀ f y, f < e → cn.eps[f]? = some y → y.bound = none) →
          Traps (.cunload a) s 0x17 (code 0x18 e))) ∧
    (Ready (.pbind b a k) s → xb.toNat < 64 → ∀ cn ep, conn = some cn → cn.eps[xb.toNat]? = some ep → (port s k.toNat).phase = .unbound →
      ep.used = true → ep.bound = none → classWidth cn (classOf cn.nodes cn.links xb.toNat) ≠ some true →
      ∃ t, Completes (.pbind b a k) s t ∧ (port t k.toNat).phase = .idle ∧ (port t k.toNat).conn = key ∧ (port t k.toNat).ep = xb.toNat ∧
        (port t k.toNat).full = false ∧ (port t k.toNat).vec = false ∧
        (∀ j, j ≠ k.toNat → port t j = port s j) ∧ (∃ cn', tfind t.conns key = some cn' ∧
          (cn'.eps[xb.toNat]?).map (·.bound) = some (some (s.cur, k.toNat)))) ∧
    (Ready (.punbind k) s →
      ((port s k.toNat).phase = .unbound → Completes (.punbind k) s s) ∧
      ((port s k.toNat).phase ≠ .unbound → (port s k.toNat).full = true → Traps (.punbind k) s 0x17 (BitVec.ofNat 64 (2 ^ k.toNat + 4 * 2 ^ 8))) ∧
      ((port s k.toNat).phase ≠ .unbound → (port s k.toNat).full = false → ∃ t, Completes (.punbind k) s t ∧ port t k.toNat = Port.reset ∧
        t.mem = s.mem ∧ t.me.g = s.me.g)) ∧
    (Ready (.cstat b a d) s → xb.toNat < 2 ^ 10 → ∀ cn r, conn = some cn → cn.regions[xb.toNat % 256]? = some r →
      Completes (.cstat b a d) s (owingValue s d ((vget r.counts (xb.toNat / 256) 0).setWidth 64)))

/-- A ready tile command that passes its checks and waits for nothing goes to the end of the core's queue, with its address and
extension registers as read, and its slot parks for the tile, with prg at its first element if it heads the queue; when the
command has completed the instruction completes. A reserved bit of its first extension register raises 0x18 with code 6 and
the register. TJOIN joins or splits the tiles of the quad's cores of its number, TWT sets the weight, 1 to 15, and TSTAT gives
weight, state and queue length, or a sparsity queue's last length and entries; a value out of range raises 0x18 with code 1.
Choices of the model on which it rests: log 18. (16_tile R308, 16_tile R309, 16_tile R322, 16_tile R324, 16_tile R327, 16_tile
R328, 16_tile R329, 16_tile R330) -/
def Obligations.TileCommands : Prop :=
  ∀ (s : State) (q : BitVec 2) (x : BitVec 3) (a d : BitVec 5),
    let c := s.myCore
    let v := (s.me.rg a.toNat)
    let queue := fun (t : State) => (tileOf t c).queue
    let command := fun (i : Instr) (mid : Nat) (sparse : Bool) (q : Nat) (addr : Word) (xs : Nat) => Ready i s →
      let cmd : TileCmd := ⟨s.cur, mid, addr, s.me.rx xs, s.me.rx (xs + 1), s.me.rx (xs + 2), sparse, q, 0, none⟩
      (s.me.phase = 2 → Completes i s s) ∧
      (s.me.phase = 0 → s.me.sys.prg = 0 → tileCheck xs (wordOf i s) cmd s = none → tileWait cmd s.me = none →
        ((queue s).length < 4 → ∃ t, ParksOn i s t .tile ∧ queue t = queue s ++ [cmd] ∧ t.me.phase = 1 ∧ (tileOf t c).acc = (tileOf s c).acc ∧
          (queue s = [] → mid ≠ 0 → t.me.sys.prg = BitVec.ofNat 64 (mid * 2 ^ 56)) ∧
          (s.mcyc + 1, evt .kStep (octetOf c) 0 0) ∈ t.inflight) ∧
        (4 ≤ (queue s).length → ParksOn i s s .tile)) ∧
      (mid ≠ 0 → s.me.phase = 0 → s.me.sys.prg = 0 → (s.me.rx xs).extractLsb' 5 3 ≠ 0 → Traps i s 0x18 (BitVec.ofNat 64 (6 + xs % 8 * 2 ^ 8)))
    let bad := fun (i : Instr) => Traps i s 0x18 1
    let tile := fun (t : State) (c : Nat) => tileOf t c
    command (.tmma x a) 1 false 0 v x.toNat ∧ command (.tmmaSp q x a) 1 true q.toNat v x.toNat ∧ command .tzero 0 false 0 (s.me.rg 0) 0 ∧
    command (.tld x a) 3 false 0 v x.toNat ∧ command (.tst x a) 4 false 0 v x.toNat ∧ command (.tldb x a) 2 false 0 v x.toNat ∧
    (Ready (.tjoin a) s →
      (v ≠ 0 → v ≠ 1 → bad (.tjoin a)) ∧
      (v = 0 ∨ v = 1 → leadsQuad s s.cur = false → Traps (.tjoin a) s 0x18 5) ∧
      (v = 0 ∨ v = 1 → leadsQuad s s.cur = true → (∀ e ∈ quadCores c, (tileOf s e).queue = []) → ∃ t, Completes (.tjoin a) s t ∧
        t.slots = s.slots ∧ (∀ e ∈ quadCores c, tile t e = { tileOf s e with st := if v = 0 then .own else if e = c then .leading else .lent }) ∧
        ∀ e, e ∉ quadCores c → t.core e = s.core e) ∧
      (v = 0 ∨ v = 1 → leadsQuad s s.cur = true → (∃ e ∈ quadCores c, (tileOf s e).queue ≠ []) → ParksOn (.tjoin a) s s .quad)) ∧
    (Ready (.twt a) s →
      (v.toNat = 0 ∨ 15 < v.toNat → bad (.twt a)) ∧
      (v.toNat ≠ 0 → v.toNat ≤ 15 → ∃ t, Completes (.twt a) s t ∧ tile t c = { tileOf s c with wt := v.toNat } ∧ t.slots = s.slots)) ∧
    (Ready (.tstat a d) s →
      (4 < v.toNat → bad (.tstat a d)) ∧
      (v = 0 → Writes (.tstat a d) s fun sl => sl.wg d.toNat (BitVec.ofNat 64 ((tileOf s c).wt * 2 ^ 12 +
        (match (tileOf s c).st with
          | .own => 0
          | .lent => 2 ^ 11
          | .leading => 2 ^ 11 + 2 ^ 10) + (queue s).length))) ∧
      (v ≠ 0 → v.toNat ≤ 4 → Writes (.tstat a d) s fun sl => sl.wg d.toNat (BitVec.ofNat 64
        ((sparseQ s (octetOf c) (v.toNat - 1)).last / 4 * 32 + (sparseQ s (octetOf c) (v.toNat - 1)).entries.length))))

/-- Ready TKGET gives the ticket, T0, the last ticket + 1 or F, and raises 0x01 for a selector above 3; TKWAIT of t completes as
an acquire once F is above t, parks before, and raises 0x15 with F for a t not below its own ticket; PUBLISH completes as REL,
or in a deterministic slot once its entry has drained. In a slot without a commit buffer HNEW of a tensor that is not Live
owes g[d] its handle with exponent 31, HCOPY of a handle with an exponent e >= 1 gives two of e - 1, of one with 0 makes an
indirection record; HDROP clears g[a] at once and sends the weight, or sends it when earlier accesses are performed, or enters
it in the commit buffer; HWT gives the exponent; HBIND asks the home, parks, and completes if it was done. HNEW and HBIND
refused raise 0x19 with the handle; so do null handles of HNEW, HCOPY and HDROP (0 for HDROP). Choices of the model on which
it rests: logs 18, 37. (17_ticket_group R354, 17_ticket_group R355, 17_ticket_group R356, 18_tensor R360, 18_tensor R366,
18_tensor R367, 18_tensor R369, 18_tensor R370, 18_tensor R372) -/
def Obligations.TicketsAndTensors : Prop :=
  ∀ (s : State) (b a d : BitVec 5),
    let x := s.me.rg a.toNat
    let e := x.extractLsb' 59 5
    let null := x.extractLsb' 0 59 = 0#59
    let acquired := l1Acquire s.myCore s
    let handle : Word := 0xf800000000000000 + (x.extractLsb' 6 51).setWidth 64
    (Ready (.tkget a d) s →
      (3 < x.toNat → Traps (.tkget a d) s 0x01 x) ∧
      ∀ g kn, groupOf s s.cur = some g → tfind s.kernels g.kernel = some kn →
        let gives := fun (n : Word) (v : Nat) => x = n → Writes (.tkget a d) s fun sl => sl.wg d.toNat (BitVec.ofNat 64 v)
        gives 0 g.ticket ∧ gives 1 kn.t0 ∧ gives 2 (kn.t0 + kn.ngrp) ∧ gives 3 (tget (s.octet s.myOctet).f g.inst 0)) ∧
    (Ready (.tkwait a) s → ∀ g kn, groupOf s s.cur = some g → tfind s.kernels g.kernel = some kn →
      let f := tget (s.octet s.myOctet).f g.inst 0 % 2 ^ 32
      let own := g.ticket % 2 ^ 32
      let t := (x.setWidth 32).toNat
      (own ≤ t → Traps (.tkwait a) s 0x15 (BitVec.ofNat 64 f)) ∧
      (t < own → t < f → NothingOnItsWay s → Completes (.tkwait a) s acquired) ∧
      (t < own → f ≤ t → ParksOn (.tkwait a) s s (.frontier t))) ∧
    (Ready .publish s →
      (s.me.det = true → s.me.phase = 2 → Completes .publish s s) ∧
      (s.me.det = false → s.me.performed = true → Completes .publish s s) ∧
      (s.me.det = false → s.me.performed = false → Completes .publish s (s.onMe fun sl =>
        { sl with traffic := { sl.traffic with out := sl.traffic.out ++ [.rel sl.traffic.nextId] } }))) ∧
    (Ready (.hnew a d) s → Settled s → s.me.phase = 0 →
      (x.toNat % 64 ≠ 0 → Traps (.hnew a d) s 0x08 x) ∧
      (x.toNat % 64 = 0 → regionOf s s.myCore x.toNat ≠ .memory ∨ x.extractLsb' 6 51 = 0 → Traps (.hnew a d) s 0x19 handle) ∧
      (x.toNat % 64 = 0 → regionOf s s.myCore x.toNat = .memory → x.extractLsb' 6 51 ≠ 0 → checkAccess s.cur .store 64 [⟨x.toNat, 64⟩] s = none →
        ∀ pa, placeAt s.cur .store s x.toNat = .mem pa →
          (∀ s', hnewHome pa s = some s' → Completes (.hnew a d) s ((s'.onMe fun sl => sl.addPend [⟨0, d.toNat⟩] (.value [.g d.toNat handle] 0#6)).post
            ⟨.homeAtomicAccess, { Arg.reset with k := s'.cur, a := s'.me.traffic.nextId, b := 4 }⟩)) ∧
          (hnewHome pa s = none → Traps (.hnew a d) s 0x19 handle))) ∧
    (Ready (.hcopy a d) s →
      (null → Traps (.hcopy a d) s 0x19 x) ∧
      (¬ null → e ≠ 0 → Writes (.hcopy a d) s fun sl =>
        (sl.wg a.toNat (x - 0x0800000000000000)).wg d.toNat (x - 0x0800000000000000)) ∧
      (¬ null → e = 0 → freeIndirect s s.myCore = none → Traps (.hcopy a d) s 0x19 x) ∧
      (¬ null → e = 0 → ∀ r, freeIndirect s s.myCore = some r → ∃ t, Completes (.hcopy a d) s t ∧ t.mem = s.mem ∧
        tfind (t.core s.myCore).indirect r = some s.myCtx ∧
        let h : Word := BitVec.ofNat 64 (30 * 2 ^ 59 + 2 ^ 58 + partIndex s s.myCtx s.myCore % 2 ^ 12 * 2 ^ 6 + r)
        (∃ p ∈ t.me.pend, p = ⟨s.me.traffic.nextId, [⟨0, a.toNat⟩, ⟨0, d.toNat⟩], .value [.g a.toNat h, .g d.toNat h] 0#6⟩) ∧
        ∀ c j, memByte (t.core c).arr j = if c = s.myCore ∧ 0x7f000 + 64 * r ≤ j ∧ j < 0x7f000 + 64 * r + 16 then
            (if j < 0x7f000 + 64 * r + 8 then (0x80000000 : Word) else x).extractLsb' (8 * ((j - (0x7f000 + 64 * r)) % 8)) 8
          else memByte (s.core c).arr j)) ∧
    (Ready (.hdrop a) s →
      let m := weightMsg s.myCtx s.me.bind.kernel s.myCore x (openCopies s.cur s)
      let present := x.getLsbD 58 = false ∨ (hndRecord s s.myCtx x).isSome = true
      (null → Traps (.hdrop a) s 0x19 0) ∧ (¬ null → ¬ present → Traps (.hdrop a) s 0x19 x) ∧
      (¬ null → present → buffered s s.cur = true → ∀ s', enter s.cur [(0, .msg m false s.me.traffic.nextId)] s = .ok s' →
        Completes (.hdrop a) s (s'.onMe fun sl => sl.wg a.toNat 0)) ∧
      (¬ null → present → buffered s s.cur = false → s.me.performed = true → ∃ t, Completes (.hdrop a) s t ∧ t.me = (afterSend s.me).wg a.toNat 0 ∧
        t.mem = s.mem ∧ (s.mcyc + 17, named s m.ev m.arg) ∈ t.inflight) ∧
      (¬ null → present → buffered s s.cur = false → s.me.performed = false → Writes (.hdrop a) s fun sl =>
        { sl with traffic := { sl.traffic with out := sl.traffic.out ++ [OutOp.send sl.traffic.nextId m] } }.wg a.toNat 0)) ∧
    (Ready (.hwt a d) s → Writes (.hwt a d) s fun sl => sl.wg d.toNat (e.setWidth 64)) ∧
    (Ready (.hbind b a) s →
      let r := s.me.rg b.toNat
      (s.me.phase = 2 → (s.me.keep.getD 0 0 = 1 → Completes (.hbind b a) s s) ∧
        (s.me.keep.getD 0 0 ≠ 1 → Traps (.hbind b a) s 0x19 x)) ∧
      (s.me.phase = 0 → Settled s → InScratchpad s r.toNat 64 → r.toNat % 64 = 0 →
        let end_ := chainEnd s s.myCtx (64 * (partitionCores s s.myCtx).length + 1) x
        (x.getLsbD 58 = false → end_ = some x) ∧ (end_ = none → Traps (.hbind b a) s 0x19 x) ∧
        (recCtr (memBytes (s.core s.myCore).arr (r.toNat - localBase + 48) 16) = false → Traps (.hbind b a) s 0x19 x) ∧
        (recCtr (memBytes (s.core s.myCore).arr (r.toNat - localBase + 48) 16) = true → ∀ h, end_ = some h →
          checkAccess s.cur .store 64 [⟨hndAddr h, 64⟩] s = none → ∀ pa, placeAt s.cur .store s (hndAddr h) = .mem pa →
          ∃ t, ParksOn (.hbind b a) s t .answer ∧ t.me.phase = 1 ∧ t.mem = s.mem ∧
            (s.mcyc + 17, named s .homeAtomicAccess { Arg.reset with k := s.cur, a := pa, b := 2, w := r }) ∈ t.inflight)))

/-- Ready BARINIT of a barrier without arrivals sets the expected count; a wrong identifier or count raises 0x01. BARI completes
at issue and owes g[d] the phase before its arrival, which ends the phase if it is the last; the arrival waits for earlier
accesses of the slot. BARW of a phase that is past completes as an acquire, and parks before; BART tells whether it is past.
GBAR's last arrival ends the phase and completes, an earlier one parks. FLUSHP and FLUSHP.G park behind a probe and complete
once it has returned. REDT with every block of its tree written completes, with the tree's flags, as an acquire. Choices of
the model on which it rests: logs 18, 35, 36. (19_barrier R377, 19_barrier R379, 19_barrier R380, 19_barrier R381, 19_barrier
R383, 19_barrier R386, 19_barrier R388) -/
def Obligations.BarriersTreesAndProbes : Prop :=
  ∀ (s : State) (b a d : BitVec 5),
    let x := s.me.rg a.toNat
    let y := s.me.rg b.toNat
    let q := (y.setWidth 32).toNat
    let key := barKey s s.cur x
    let limit := if x.extractLsb' 8 4 = 3#4 then 128 else 2048
    let past := fun (p : Nat) => 1 ≤ (p + 2 ^ 32 - q) % 2 ^ 32 ∧ (p + 2 ^ 32 - q) % 2 ^ 32 ≤ 2 ^ 31
    let others := fun (t : State) (k : Nat) => ∀ j, j ≠ k → barOf t j = barOf s j
    let named := fun (i : Instr) => key = none → Traps i s 0x01 x
    (key = none ∨ (x.toNat < 2 ^ 12 ∧ (x.extractLsb' 8 4 = 3#4 ∨ x.extractLsb' 8 4 = 5#4))) ∧
    (Ready (.barinit b a) s → named (.barinit b a) ∧ ∀ k, key = some k →
      (y.toNat = 0 ∨ limit < y.toNat ∨ (barOf s k).arr ≠ 0 → Traps (.barinit b a) s 0x01 x) ∧
      (y.toNat ≠ 0 → y.toNat ≤ limit → (barOf s k).arr = 0 → ∃ t, Completes (.barinit b a) s t ∧
        barOf t k = { barOf s k with exp := y.toNat } ∧ others t k ∧ t.slots = s.slots ∧ t.mem = s.mem)) ∧
    (Ready (.bari a d) s → named (.bari a d) ∧ ∀ k, key = some k →
      ((barOf s k).exp = 0 → Traps (.bari a d) s 0x01 x) ∧
      ((barOf s k).exp ≠ 0 → Settled s → ∃ s', Completes (.bari a d) s (owingValue s' d (BitVec.ofNat 64 (barOf s k).p)) ∧ others s' k ∧
        s'.slots = s.slots ∧ barOf s' k = (if (barOf s k).arr + 1 < (barOf s k).exp then { barOf s k with arr := (barOf s k).arr + 1 }
          else { barOf s k with arr := 0, p := ((barOf s k).p + 1) % 2 ^ 32 })) ∧
      ((barOf s k).exp ≠ 0 → s.me.performed = false → Completes (.bari a d) s (s.onMe fun sl =>
        let sl' := sl.addPend [⟨0, d.toNat⟩] .answer
        let m : Msg := ⟨.homeAtomicAccess, { Arg.reset with k := s.cur, a := sl.traffic.nextId, b := 3, c := d.toNat, l := [k] }⟩
        { sl' with traffic := { sl'.traffic with out := sl'.traffic.out ++ [.send sl'.traffic.nextId m] } }))) ∧
    (Ready (.barw b a) s → named (.barw b a) ∧ ∀ k, key = some k →
      (past (barOf s k).p → NothingOnItsWay s → s.me.det = false → Completes (.barw b a) s (l1Acquire s.myCore s)) ∧
      (¬ past (barOf s k).p → ParksOn (.barw b a) s s (.barrier 0 k q))) ∧
    (Ready (.bart b a d) s → named (.bart b a d) ∧ ∀ k, key = some k → s.me.det = false →
      (past (barOf s k).p → Writes (.bart b a d) s fun sl => sl.wg d.toNat 1) ∧
      (¬ past (barOf s k).p → Writes (.bart b a d) s fun sl => sl.wg d.toNat 0)) ∧
    (let gk := gbarKey s s.cur x.toNat
     let g := gbarOf s gk
     Ready (.gbar b a) s →
      (x.toNat < 6 ∨ 8 < x.toNat → Traps (.gbar b a) s 0x01 (wordOf (.gbar b a) s)) ∧
      (6 ≤ x.toNat → x.toNat ≤ 8 → tfind g.waiters (gbarName s s.cur) = none →
        (y = 0 ∨ 2 ^ 20 < y.toNat ∨ (g.count ≠ 0 ∧ g.count ≠ y.toNat) → Traps (.gbar b a) s 0x01 y) ∧
        (y ≠ 0 → y.toNat ≤ 2 ^ 20 → g.count = 0 ∨ g.count = y.toNat → Settled s →
          (g.arr + 1 < y.toNat → ∃ t, ParksOn (.gbar b a) s t (.gbar gk g.phase) ∧ t.slots = s.slots ∧
            (gbarOf t gk).arr = g.arr + 1 ∧ (gbarOf t gk).count = y.toNat ∧ (gbarOf t gk).phase = g.phase) ∧
          (y.toNat ≤ g.arr + 1 → ∃ t, Completes (.gbar b a) s t ∧ t.slots = s.slots ∧ (gbarOf t gk).arr = 0 ∧ (gbarOf t gk).count = 0 ∧
            (gbarOf t gk).phase = g.phase + 1)))) ∧
    (∀ i (group : Nat), (i = .flushp a ∧ group = 0) ∨ (i = .flushpG a ∧ group = 1) → Ready i s →
      (x.toNat < 3 ∨ 8 < x.toNat → Traps i s 0x01 x) ∧
      (3 ≤ x.toNat → x.toNat ≤ 8 → (s.me.phase = 2 → Completes i s s) ∧
        (s.me.phase = 0 → ∃ t, ParksOn i s t .probes ∧ t.me.phase = 1 ∧
          ∃ m : Arg, (s.mcyc + 17, ⟨.flushProbeReturn, m⟩) ∈ t.inflight ∧ m.k = s.cur ∧ m.a = s.me.traffic.nextId ∧ m.b = group ∧
            m.c = x.toNat ∧ m.sent = s.mcyc))) ∧
    (Ready (.redt b a) s → x.toNat % 64 = 0 → InScratchpad s y.toNat 64 → y.toNat % 64 = 0 → Settled s → s.me.phase = 0 → s.me.sys.prg = 0 →
      let bs := memBytes (s.core s.myCore).arr (y.toNat - localBase) 64
      let w := fun (i : Nat) => BitVec.ofNat 64 (ofBytesLE ((bs.drop (8 * i)).take 8))
      let ds : TreeDesc := #v[w 0, w 1, w 2]
      let me := firstSlot s s.cur
      treeOk s s.cur bs ds = true → ds.n = 1 →
      ∀ t, findTree s s.myCtx ds.id (ds.span, spanPlace ds.span me) me = some t → t.written.contains 0 = true →
        ∃ u, Completes (.redt b a) s u ∧ u.me = (s.me.raise t.flags).onSys (fun z => { z with prg := 0 }) ∧ u.mem = s.mem ∧
          ∀ wd z, l1Find u s.myCore wd = some z → z.st ≠ .valid)

/-- For a record in the scratchpad whose HOME is a core of the partition, and nothing of the slot on its way: ready TENQ and TDEC
complete with the enqueue or decrement on its way to the record's home; TCTR parks behind its request and completes with the
answer; WENQ completes with its 64-byte payload and the record on their way. WATCH of a good block and UNWATCH complete and
owe g[d] the slice's answer. KLAUNCH of a block in the scratchpad appends it to the queue and owes g[d] the number of its
entry; where the queue is full it keeps the block and parks. A record at a misaligned address raises 0x08, one whose HOME lies
outside the partition 0x0e; a counter without CTR 0x01. Choices of the model on which it rests: logs 18, 37, 39, 40. (23_queue
R420, 23_queue R421, 23_queue R425, 23_queue R426, 21_kernel R403) -/
def Obligations.TaskMessagesAndQueues : Prop :=
  ∀ (s : State) (b a d : BitVec 5) (vb : BitVec 4), Settled s →
    let x := s.me.rg a.toNat
    let y := s.me.rg b.toNat
    let arr := (s.core s.myCore).arr
    let msg := fun (t : State) (e : Instr) (m : Arg) => (s.mcyc + 17, named s e m) ∈ t.inflight
    let sent := fun (i : Instr) (e : Instr) (m : Arg) => ∃ t, Completes i s t ∧ t.me = afterSend s.me ∧ t.mem = s.mem ∧ msg t e m
    let bad := fun (i : Instr) (r : Word) => Ready i s → s.me.phase = 0 →
      recordHazard s.me = none →
      (r.toNat % 64 ≠ 0 → Traps i s 0x08 r) ∧
      (r.toNat % 64 = 0 → InScratchpad s r.toNat 64 →
        recHome (memBytes arr (r.toNat - localBase + 48) 16) ∉ partitionCores s s.myCtx → Traps i s 0x0e r)
    let counter := fun (q : List (BitVec 8)) => recCtr q = true ∧ crefOk (recCref q) = true
    bad (.tenq a) x ∧ bad (.tctr b a) x ∧ bad (.tdec a) x ∧ bad (.spawn a) x ∧
    (∀ q, RecordAt s x q →
      (Ready (.tenq a) s → sent (.tenq a) .tenqArrival { Arg.reset with k := s.myCtx, a := recHome q, c := recPrio q, w := x }) ∧
      (Ready (.tdec a) s → (counter q → sent (.tdec a) .tdecArrival
          { Arg.reset with k := s.myCtx, a := recHome q, b := recCref q, c := s.me.bind.kernel, w := x }) ∧
        (¬ counter q → Traps (.tdec a) s 0x01 x)) ∧
      (Ready (.tctr b a) s → (¬ counter q → s.me.phase = 0 → Traps (.tctr b a) s 0x01 x) ∧
        (s.me.phase = 2 → Completes (.tctr b a) s s) ∧
        (counter q → s.me.phase = 0 → ∃ t, ParksOn (.tctr b a) s t .answer ∧ t.me.phase = 1 ∧ msg t .counterRequestArrival
          { Arg.reset with k := s.cur, a := recHome q, b := 0, c := recCref q, w := x, u := BitVec.ofNat 64 s.myCtx, l := [(y.setWidth 32).toNat] }))) ∧
    (∀ q, RecordAt s (s.me.rg d.toNat) q → Ready (.wenq vb a d) s → InScratchpad s x.toNat 64 → x.toNat % 4 = 0 →
      sent (.wenq vb a d) .wenqArrival { Arg.reset with k := s.myCtx, a := recHome q, c := recPrio q, w := s.me.rg d.toNat, u := x, l := [s.myCore, x.toNat - localBase], item := s.me.rv vb.toNat }) ∧
    (let w := fun (i : Nat) => BitVec.ofNat 64 (ofBytesLE (memBytes arr (x.toNat - localBase + 8 * i) 8))
     let n := ((w 3).setWidth 5).toNat
     Ready (.watch a d) s → x.toNat % 32 = 0 → InScratchpad s x.toNat 32 →
      ((w 2).toNat % 64 ≠ 0 ∨ 32 ≤ (w 3).toNat ∨ n = 0 ∨ 16 < n ∨ 64 < (w 0).toNat % 64 + 4 * n → Traps (.watch a d) s 0x01 x) ∧
      ((w 2).toNat % 64 = 0 → (w 3).toNat < 32 → 1 ≤ n → n ≤ 16 → (w 0).toNat % 64 + 4 * n ≤ 64 → (w 0).toNat % 4 = 0 →
        regionOf s s.myCore (w 0).toNat = .memory → checkAccess s.cur .load 4 [⟨(w 0).toNat, 4 * n⟩] s = none →
        ∀ pa, placeAt s.cur .load s (w 0).toNat = .mem pa → ∃ t, Completes (.watch a d) s t ∧
          t.me = afterSend (s.me.addPend [⟨0, d.toNat⟩] .answer) ∧ t.mem = s.mem ∧ msg t .watchRequestArrival
            { Arg.reset with k := s.cur, a := s.me.traffic.nextId + 1, c := d.toNat, l := [pa / 4, n, s.myCtx], w := w 2, u := w 1 })) ∧
    (Ready (.unwatch a d) s → ∃ t, Completes (.unwatch a d) s t ∧ t.me = afterSend (s.me.addPend [⟨0, d.toNat⟩] .answer) ∧ t.mem = s.mem ∧
      msg t .watchRequestArrival { Arg.reset with k := s.cur, a := s.me.traffic.nextId + 1, b := 1, c := d.toNat, w := x }) ∧
    (Ready (.klaunch b a d) s →
      (16 ≤ y.toNat → Traps (.klaunch b a d) s 0x01 y) ∧
      (y.toNat < 16 → x.toNat % 64 ≠ 0 → Traps (.klaunch b a d) s 0x08 x) ∧
      (y.toNat < 16 → x.toNat % 64 = 0 → s.me.phase = 0 → InScratchpad s x.toNat 64 → ∀ s',
        let bs := memBytes arr (x.toNat - localBase) 64
        let kept := s.onMe fun sl => { sl with phase := 6, keep := wordsOf bs 8 }
        (∀ n, appendLaunch s.myCtx y.toNat bs kept = (some n, s') → Completes (.klaunch b a d) s (owingValue s' d (BitVec.ofNat 64 n))) ∧
        (appendLaunch s.myCtx y.toNat bs kept = (none, s') → ParksOn (.klaunch b a d) s s' (.queueRoom y.toNat))))

/-- A SPAWN issued anew, for a record in the scratchpad whose HOME is in the partition and with no register of its own record
outstanding in deterministic mode, writes its own record; with the stores performed it sends the increment of its record's
counter to the home and parks, or, where its record has no counter, pushes trec at once. A SPAWN whose increment is
acknowledged pushes trec on the bottom of the core's deque and starts the record g[a] in this slot: the pc and g2, g4 to g7
come from its doublewords, the other registers are 0, trec is the record; with the switch marker set and a result outstanding
the slot then parks for it. Where the core now holds the entry that the push pushed out, the slot parks before it starts the
record. JOIN with trec 0, or with a record without CTR, raises 0x01. Of a record with CTR, 0x12 comes first where a
deterministic slot's record takes an outstanding register, then 0x17 with the mask where a port is Full; else it parks behind
its read of the counter; with the answer 0 it completes as an acquire; with another it writes its record, sends the request
that arms the counter, and ends like WFW, suspended. Choices of the model on which it rests: logs 18, 37, 41. (05_slot R99,
23_queue R417, 23_queue R423, 23_queue R424) -/
def Obligations.SpawnAndJoin : Prop :=
  ∀ (s : State) (a : BitVec 5), Settled s →
    let x := s.me.rg a.toNat
    let trec := s.me.sys.trec
    let started := fun (u t : State) (k : Nat) (bs : List (BitVec 8)) =>
      (t.slot k).run = (if u.mark && !(u.slot k).pend.isEmpty then .parked (.marker none) else .running) ∧ (t.slot k).sys.trec = x ∧
      (t.slot k).pc = recWord bs 0 &&& ~~~1#64 ∧ (t.slot k).rg 2 = recWord bs 1 ∧ (t.slot k).rg 4 = recWord bs 2 ∧
      (t.slot k).rg 5 = recWord bs 3 ∧ (t.slot k).rg 6 = recWord bs 4 ∧ (t.slot k).rg 7 = recWord bs 5 ∧
      (∀ n, n ≠ 2 → n ≠ 4 → n ≠ 5 → n ≠ 6 → n ≠ 7 → (t.slot k).rg n = 0) ∧ (∀ n, n < 16 → (t.slot k).rv n = vzero)
    let pushes := fun (s1 : State) => s1.cur = s.cur → s1.me.phase ≠ 7 → ∀ bs s2 s3,
      slotBytes s.cur s1.myCtx x.toNat 64 s1 = (some bs, s2) → pushDeque s.myCore s1.myCtx s1.me.sys.trec s2 = (.done, s3) →
      ((s3.core s.myCore).holding = none → ∃ t, exec (.spawn a) s = .next t ∧ started s3 t s.cur bs ∧
        (t.core s.myCore).deque = (s3.core s.myCore).deque) ∧
      ((s3.core s.myCore).holding ≠ none → ∃ t, exec (.spawn a) s = .next t ∧ (t.slot s.cur).run = .parked (.listRoom true) ∧
        (t.slot s.cur).phase = 7 ∧ (t.slot s.cur).pc = (s3.slot s.cur).pc ∧ (t.core s.myCore).deque = (s3.core s.myCore).deque)
    let counts := fun (s0 : State) => ∀ q s1, ownTail s.cur s0 = (some q, s1) → s1.cur = s.cur → s1.me.phase = 3 →
      (recCtr q = false → pushes s1) ∧
      (recCtr q = true → buffered s1 s.cur = false → ∃ t, exec (.spawn a) s = .next t ∧ (t.slot s.cur).run = .parked .answer ∧
        (t.slot s.cur).phase = 1 ∧ (s1.mcyc + 17, named s1 .counterRequestArrival 
          { Arg.reset with k := s.cur, a := recHome q, b := 1, c := recCref q, w := s1.me.sys.trec, u := BitVec.ofNat 64 s1.myCtx, l := [firstSlot s1 s.cur] }) ∈ t.inflight)
    (Ready (.spawn a) s → s.me.phase = 0 → recordHazard s.me = none → (∃ q, RecordAt s x q) → ∀ s0, writeRecord (s.me.pc + 4) s = .ok s0 →
      s0.cur = s.cur → s0.me.performed = true → counts (s0.onMe fun sl => { sl with phase := 3 })) ∧
    (Ready (.spawn a) s → s.me.phase = 3 → counts s) ∧ (Ready (.spawn a) s → s.me.phase = 2 → pushes s) ∧
    (Ready (.spawn a) s → s.me.phase = 7 → ∀ bs s2, slotBytes s.cur s.myCtx x.toNat 64 s = (some bs, s2) →
      ∃ t, exec (.spawn a) s = .next t ∧ started s2 t s.cur bs) ∧
    (∀ (t : State) (c ctx : Nat) (r : Word), (t.core c).holding = none → (t.core c).deque.length < 64 →
      ∃ u, pushDeque c ctx r t = (.done, u) ∧ (u.core c).deque = (t.core c).deque ++ [⟨r, ctx, (t.core c).cyc.toNat⟩]) ∧
    (Ready .join s →
      (trec = 0 → Traps .join s 0x01 trec) ∧
      (trec ≠ 0 → s.me.phase = 0 → InScratchpad s trec.toNat 64 → trec.toNat % 64 = 0 →
        let q := memBytes (s.core s.myCore).arr (trec.toNat - localBase + 48) 16
        (recCtr q = false → Traps .join s 0x01 trec) ∧
        (recCtr q = true → ∀ r, recordHazard s.me = some r → Traps .join s 0x12 (BitVec.ofNat 64 (r.file * 32 + r.num))) ∧
        (recCtr q = true → recordHazard s.me = none → fullMask s.me ≠ 0 → Traps .join s 0x17 (BitVec.ofNat 64 (fullMask s.me))) ∧
        (recCtr q = true → recordHazard s.me = none → fullMask s.me = 0 → ∃ t, ParksOn .join s t .answer ∧ t.me.phase = 1 ∧
          (s.mcyc + 17, named s .counterRequestArrival 
            { Arg.reset with k := s.cur, a := recHome q, b := 2, c := recCref q, w := trec, u := BitVec.ofNat 64 s.myCtx }) ∈ t.inflight)) ∧
      (trec ≠ 0 → s.me.phase = 2 → s.me.keep.getD 0 0 = 0 → Completes .join s (l1Acquire s.myCore s)) ∧
      (trec ≠ 0 → s.me.phase = 2 → s.me.keep.getD 0 0 ≠ 0 → ∀ s1 q s2, writeRecord s.me.pc s = .ok s1 → s1.cur = s.cur →
        ownTail s.cur s1 = (some q, s2) → s2.cur = s.cur →
        exec .join s = .next ((takeNext s.cur (suspendTask s.cur (sendMsg s.cur (armMsg s.cur q s2) s2))).onMe fun sl =>
          if s2.mark && sl.run == .running && sl.marks then sl.park (.marker none) else sl)))

/-- A registration makes its core the owner of a Free word, and of the other word of its doubleword where that awaits registration
too; a read fills the L1 with it, a write-back returns it and makes it Free, as a flush does with each owned word of its line.
A RED that reaches a Free word with room for a holder makes its core the holder of a partial that is the identity combined
with the operand; with four other holders and DH clear it is combined at the home. The directory record whose place the
handler has finished is consumed, with the entry that it names for a holder, and one that waited for the place is written. A
line of an unscaled window is expanded, and narrowed back, element by element; a window is enabled where feature 20 is
accepted and its formats and range are. Choices of the model on which it rests: logs 9, 10, 49, 51. (09_word R196, 09_word
R209, 09_word R210, 09_word R211, 10_access R234, 04_values R88, 04_values R90, 04_values R91) -/
def Obligations.MemoryEvents : Prop :=
  ∀ (s : State),
    let k := s.arg.k
    let wd := s.arg.a
    let free := tfind s.home wd = none
    let done := fun (t : State) (j : Nat) (o : OutOp) =>
      let out := (s.slot j).traffic.out.erase o
      (t.slot j).traffic.out = if (s.core (coreOf j)).stopped then out else (settled (s.slot j) out).2
    (∀ (v : BitVec 32) x, l1Find s (coreOf k) wd = some ⟨.owned false, x, 0xf#4⟩ → x = v.setWidth 64 → free → lineBad s (4 * wd) = false →
      windowOf s (lineOfWord wd) = none → tfind s.home (pairOf wd) = none → ∃ t, Happens .homeRegistration s t ∧
      tfind t.home wd = some (.owned (coreOf k)) ∧ l1Find t (coreOf k) wd = some ⟨.owned true, x, 0xf#4⟩ ∧ t.mem = s.mem ∧
      (unregistered s (coreOf k) (pairOf wd) = true → tfind t.home (pairOf wd) = some (.owned (coreOf k))) ∧
      (∀ e ∈ t.rdc, e.1 / 4 ≠ wd / 16) ∧ done t k (.store wd)) ∧
    (l1Find s k wd = none → covered (s.core k).l1 wd = false → (roomWay (s.core k) (l1Set wd) 8).isSome = true →
      homeDie (4 * wd) = dieOf k → windowOf s (lineOfWord wd) = none → (∀ j, j < 8 → tfind s.home (wd / 8 * 8 + j) = none) →
      ∃ t, Happens .homeRemoteRead s t ∧ t.mem = s.mem ∧ t.home = s.home ∧
        l1Find t k wd = some ⟨.valid, BitVec.ofNat 64 (ofBytesLE (memBytes s.mem (4 * wd) 4)), 0xf#4⟩) ∧
    (s.arg.b = 0 → ∀ x m, l1Find s k wd = some ⟨.owned true, x, m⟩ → tfind s.home wd = some (.owned k) → windowOf s (lineOfWord wd) = none →
      ∃ t, Happens .homeWriteBack s t ∧ tfind t.home wd = none ∧ l1Find t k wd = none ∧
        t.mem = memPut s.mem (4 * wd) (bytesLE 4 (x.toNat % 2 ^ 32))) ∧
    (∀ inv rest, s.arg.b = (if inv then 2 else 1) → (s.slot s.arg.c).traffic.out = OutOp.flush wd inv :: rest →
      ∃ t, Happens .homeWriteBack s t ∧ done t s.arg.c (.flush wd inv) ∧
        ∀ w c, w / 16 = wd → tfind s.home w = some (.owned c) → tfind t.home w = none) ∧
    (let w := s.arg.a;
     let c := coreOf k;
     let line := lineOfWord w;
     ∀ op rest, RedOp.ofCode (BitVec.ofNat 3 s.arg.b) = some op → s.arg.c ≠ 1 → (s.slot k).traffic.out = OutOp.red s.arg.u.toNat w :: rest →
       isMgmt (4 * w) = false → lineBad s (4 * w) = false → tfind s.home w = none → l1Find s c w = none →
       (lineHolders line s < 4 → (covered (s.core c).l1 w = true ∨ (roomWay (s.core c) (l1Set w) 1).isSome = true) →
         ∃ t, Happens .homeRedArrival s t ∧ tfind t.home w = some (.updateOnly op false [c]) ∧ t.mem = s.mem ∧
           done t k (.red s.arg.u.toNat w) ∧ (∀ e ∈ t.rdc, e.1 / 4 ≠ w / 16) ∧
           l1Find t c w = some ⟨.updateOnly op false, (redCombineWord op false (redIdentityWord op false) s.arg.w).1, 0xf#4⟩) ∧
       (4 ≤ lineHolders line s → (lineCores line s).contains c = false → ctxDh s (s.slot k).bind.ctx = false → windowOf s line = none →
         ∃ t, Happens .homeRedArrival s t ∧ tfind t.home w = none ∧ done t k (.red s.arg.u.toNat w) ∧
           memBytes t.mem (4 * w) 4 = bytesLE 4
             (redCombineWord op false (BitVec.ofNat 64 (ofBytesLE (memBytes s.mem (4 * w) 4))) s.arg.w).1.toNat ∧
           ∀ a, a < 4 * w ∨ 4 * w + 4 ≤ a → memByte t.mem a = memByte s.mem a)) ∧
    (let at_ := fun (posts : List DirPost) => posts.find? fun p => p.place % 256 == s.arg.a;
     let posts := (s.core k).posts;
     (at_ posts = none → Happens .directoryHandlerDone s s) ∧
     (∀ p, at_ posts = some p → ∃ t, Happens .directoryHandlerDone s t ∧ (t.core k).posts = posts.erase p ∧ t.mem = s.mem ∧ t.home = s.home ∧
        (p.kind = 0 → tget (t.core k).dirEntries p.line [] =
          tget (s.core k).dirEntries p.line [] ++ [arrNat s k (0x7e000 + 16 * s.arg.a + 8) 8 % 2 ^ 52 / 64 * 64]) ∧
        (p.kind ≠ 0 → (t.core k).dirEntries = (s.core k).dirEntries) ∧
        ∀ q, at_ (posts.erase p) = some q → arrNat t k (0x7e000 + 16 * s.arg.a) 8 =
          ((if q.kind = 0 then q.value * 2 ^ 52 else 0) + 64 * q.line + q.kind) % 2 ^ 64)) ∧
    ((tfind s.work k).isSome = true → Happens .formatWindowFill s s) ∧
    (windowOf s k = none → Happens .formatWindowFill s s ∧ Happens .formatWindowWriteback s s) ∧
    (∀ w, windowOf s k = some w →
      let f := s.mreg (w + 0x10)
      let sf := fmtOf (slice f 3 0)
      let wf := fmtOf (slice f 7 4)
      let place := winPlace s w k sf wf
      winFormats sf wf = some false →
      (tfind s.work k = none → (s.work.filter fun e => homeSlice (64 * e.1) == homeSlice (64 * k)).length < sliceLines →
        ∃ t, Happens .formatWindowFill s t ∧ t.mem = s.mem ∧ t.home = s.home ∧
        tfind t.work k = some (vregOf ((elemsOf 32 16 (ofElems (fmtBits wf)
          ((elemsOf (fmtBits sf) (8 * place.2.1 / fmtBits sf) (ofBytesLE (memBytes s.mem place.1 place.2.1))).map
            fun x => (narrow wf (value sf x) 0 winFpu).1))).map (BitVec.ofNat 32)))) ∧
      (∀ v, tfind s.work k = some v → ∃ t, Happens .formatWindowWriteback s t ∧ t.work = s.work ∧ t.home = s.home ∧
        t.mem = memPut s.mem place.1 (bytesLE place.2.1 (ofElems (fmtBits sf)
          ((elemsOf (fmtBits wf) (512 / fmtBits wf) (ofBytesLE (vregBytes v))).map
            fun x => (narrow sf (value wf x) 0 winFpu).1))))) ∧
    (s.arg.c ≠ 0 → Happens .formatWindowEnable s s) ∧
    (s.arg.c = 0 → ∃ t, Happens .formatWindowEnable s t ∧ t.slots = s.slots ∧ t.mem = s.mem ∧
      let r := winReg k s.arg.a
      let f := s.mreg (r + 0x10)
      let v := s.arg.w &&& 0xfffffffffe000#64
      (accepted s 20 = true → (winFormats (fmtOf (slice f 3 0)) (fmtOf (slice f 7 4))).isSome = true →
        rangeOnDie k v.toNat ((s.mreg (r + 8)).toNat / 2 ^ 13 % 2 ^ 39 * 2 ^ 13) = true → t.mreg r = v ||| 1#64) ∧
      (accepted s 20 = false → t.mreg r = v))

/-- A walk that finds a resident leaf fills the octet's TLB and gives its slot the translation; one that finds no page parks the
slot on its fault in the cluster's miss table. A head written beyond the tail is ignored; one that passes an answered record
lets the slots of the page run again. A fault without a record gets one at the tail. A flush drops the context's TLB entries
of its range, and ends once nothing is on its way, with no word of memory owned. Choices of the model on which it rests: logs
18, 48. (12_page R241, 12_page R244, 12_page R246, 12_page R247, 12_page R249, 28_link R474) -/
def Obligations.PageEvents : Prop :=
  ∀ (s : State),
    let k := s.arg.k
    let va := s.arg.a
    (let cl := clusterOf (octetOf (coreOf k));
     let ctx := (s.slot k).bind.ctx;
     ((s.slot k).run ≠ .parked (.walk (va / 8192)) → Happens .pageWalk s s) ∧
     ((s.slot k).run = .parked (.walk (va / 8192)) → ∀ r s1, walk ctx va s = (r, s1) →
       (∀ e bits, r = .leaf e bits → slice e 63 62 = 0 → ∃ t, Happens .pageWalk s t ∧
         (t.octet (octetOf (coreOf k))).tlb.getLast? = some (tlbOf ctx va e bits) ∧
         (t.slot k).traffic.xlat = (s1.slot k).traffic.xlat ++
           [⟨va / 8192, .ok (frameOf e bits va) (e.getLsbD 6) (e.getLsbD 5) (e.getLsbD 4) (e.getLsbD 3)⟩]) ∧
       (∀ n, r = .unmapped n → missFind s1 cl ctx (va / 8192) = none → (s1.cluster cl).misses.length < 256 →
         ∃ t, Happens .pageWalk s t ∧ (t.slot k).run = .parked (.fault (va / 8192)) ∧ (missFind t cl ctx (va / 8192)).isSome = true) ∧
       (r = .format → Happens .pageWalk s (keepXlat k (va / 8192) .format s1)))) ∧
    (let h := fqHead s k;
     let n := (slice s.arg.w 31 0 + 2 ^ 32 - h) % 2 ^ 32;
     let u := s.setMreg (fqReg k) (BitVec.ofNat 64 ((h + n) % 2 ^ 32 + fqTail s k * 2 ^ 32));
     (fqUsed s k < n ∨ hostMay s k = false → Happens .fqheadWrite s s) ∧
     (n ≤ fqUsed s k → hostMay s k = true → n = 1 →
       ∀ cl m resp j, homeNat (ctxFq u k + 32 * (h % 256) + 16) 8 u = (resp, u) → resp % 4 = 1 → cl < 32 →
         (s.cluster cl).misses = [m] → (∀ d, d < 32 → d ≠ cl → (s.cluster d).misses = []) → m.ctx = k → m.posted = some h →
         (s.slot j).bind.ctx = k → (s.slot j).run = .parked (.fault m.page) → clusterOf (octetOf (coreOf j)) = cl →
         ∃ t, Happens .fqheadWrite s t ∧ (t.slot j).run = .running ∧ (t.cluster cl).misses = [] ∧ fqHead t k = (h + 1) % 2 ^ 32)) ∧
    (∀ cl m, cl < 32 → m.ctx < 256 → (s.cluster cl).misses = [m] → (∀ d, d < 32 → d ≠ cl → (s.cluster d).misses = []) →
      (m.posted.isSome = true ∨ 256 ≤ fqUsed s m.ctx → ∃ t, Happens .faultRepost s t ∧ (t.cluster cl).misses = [m] ∧ t.mem = s.mem) ∧
      (m.posted = none → fqUsed s m.ctx < 256 → ∃ t, Happens .faultRepost s t ∧
        (t.cluster cl).misses = [{ m with posted := some (fqTail s m.ctx) }] ∧
        fqTail t m.ctx = (fqTail s m.ctx + 1) % 2 ^ 32 ∧ fqHead t m.ctx = fqHead s m.ctx)) ∧
    (flushBusy s k = true ∨ hostMay s k = false → Happens .flushPage s s ∧ Happens .flushContext s s) ∧
    (flushBusy s k = false → hostMay s k = true →
      (∃ t, Happens .flushContext s t ∧ flushBusy t k = true ∧ t.mem = s.mem ∧
        ∀ o, ∀ e ∈ (t.octet o).tlb, e.base < 2 ^ 64 → e.ctx ≠ k) ∧
      let low := slice s.arg.w 56 13 * 8192
      let page := if s.arg.w.getLsbD 56 then 2 ^ 64 - 2 ^ 57 + low else low
      ∃ t, Happens .flushPage s t ∧ flushBusy t k = true ∧ (∀ o, tlbFind t o k page = none) ∧
        t.mem = (walk k page (s.setMreg (0x8008 + 16 * k) s.arg.w)).2.mem) ∧
    (∀ f, (s.flushes.find? fun f => f.id == k) = some f →
      (flushReady f s = false → Happens .flushComplete s (s.post (evt .flushComplete f.id 0 0))) ∧
      (flushReady f s = true → ∃ t, Happens .flushComplete s t ∧ t.flushes = s.flushes.filter (fun g => g.id != f.id) ∧
        (∀ w c, tfind s.home w = some (.owned c) → tfind t.home w = none) ∧
        ∀ j p, (s.slot j).run = .parked (.migrating p) → (s.slot j).bind.ctx = f.ctx → f.lo ≤ 8192 * p → 8192 * p < f.hi →
          (t.slot j).run = .running))

/-- A copy engine moves the next word between arrays and counts it; a copy that is done leaves its queue with its tag Complete or
in error; a combined MFREE counts in the sender's mailbox. A message stands at its endpoint, and two that stand at a SYNC link
fire. A fired port gives its instruction the item, and a message for a port that waits for none does nothing; a withdrawn one
ends the wait, after pto cycles with 0x16. Items and credits reach the ends of a BUF link. A TZERO at the head of its queue
clears its tile and ends; a granted K step performs its element, and the command stands at the next. Choices of the model on
which it rests: logs 18, 52, 55. (13_transfer R253, 13_transfer R258, 13_transfer R271, 16_tile R321, 14_connector R276,
14_connector R284, 14_connector R285, 14_connector R286, 14_connector R288, 28_link R488, 16_tile R315) -/
def Obligations.TransferAndConnectorEvents : Prop :=
  ∀ (s : State),
    let k := s.arg.k
    let p := s.arg.a
    let port := fun (t : State) (q : Nat) => getPort t k q
    let live : Prop := (port s p).phase ≠ .unbound ∧ (port s p).phase ≠ .idle
    (let tr := (s.core k).transfer;
     let q := if p = 0 then tr.q0 else tr.q1;
     (q = [] → Happens .copyWordTransfer s s ∧ Happens .copyComplete s s) ∧
     (∀ x, movable k tr p = some x → (s.core k).stopped = false → x.entry = none → cpKind x.regs = 0 → tfind tr.copies x.tag = some x →
       let a := srcAddr x.regs x.done - localBase
       let b := dstAddr x.regs x.done - localBase
       localBase ≤ srcAddr x.regs x.done → localBase ≤ dstAddr x.regs x.done → b + 4 ≤ 0x7c000 →
       ∃ t, Happens .copyWordTransfer s t ∧ t.mem = s.mem ∧ memBytes (t.core k).arr b 4 = memBytes (s.core k).arr a 4 ∧
         (∀ e, e < b ∨ b + 4 ≤ e → memByte (t.core k).arr e = memByte (s.core k).arr e) ∧
         (∀ c, c ≠ k → (t.core c).arr = (s.core c).arr) ∧ tfind (t.core k).transfer.copies x.tag = some { x with done := x.done + 1 } ∧
         (x.done + 1 = x.total → (s.mcyc + 1, evt .copyComplete k p 0) ∈ t.inflight) ∧
         ∃ m ∈ t.inflight, m.2.ev = .copyWordTransfer ∧ m.2.arg.k = k ∧ m.2.arg.a = p) ∧
     ∀ tag rest x, q = tag :: rest → tfind tr.copies tag = some x → (x.done = x.total ∨ x.err.isSome = true) → x.done ≤ x.total →
       ∃ t, Happens .copyComplete s t ∧ t.slots = s.slots ∧ t.mem = s.mem ∧
         (if p = 0 then (t.core k).transfer.q0 = rest else (t.core k).transfer.q1 = rest) ∧
         tfind (t.core k).transfer.tags tag = some (match x.err with
           | some e => .error e.1 e.2
           | none => .complete)) ∧
    (∀ m, ((s.core k).transfer.multicasts.find? fun m => m.mbox == p && m.waiting.isEmpty) = some m → p < 8 →
      ∃ t, Happens .mfreeCombinedArrival s t ∧ (t.core k).transfer.multicasts = (s.core k).transfer.multicasts.erase m ∧
        vget (t.core k).transfer.mb p 0 = vget (s.core k).transfer.mb p 0 + 1) ∧
    (∃ xs, Happens .sparsityStoreResume s (s.atOnce xs) ∧ ∀ c, c / 8 = k →
      ((s.core c).transfer.q0 ≠ [] → evt .copyWordTransfer c 0 0 ∈ xs) ∧ ((s.core c).transfer.q1 ≠ [] → evt .copyWordTransfer c 1 0 ∈ xs)) ∧
    (let ck := (port s p).conn;
     let e := (port s p).ep;
     ∀ cn x, tfind s.conns ck = some cn → cn.eps[e]? = some x → e < 64 →
       (∀ r, live → endpointRegion cn e = some r → ∃ t cn' y, Happens .offerAcceptArrival s t ∧ tfind t.conns ck = some cn' ∧ cn'.eps[e]? = some y ∧
         y.standing = some ⟨s.arg.item, ((cn.regions[r]?).map (·.evals)).getD 0, k, p, s.arg.b, false⟩ ∧ y.bound = x.bound ∧
         cn'.links = cn.links) ∧
       (x.standing = none → Happens .withdrawalRequestArrival s s) ∧
       (∀ r u, endpointRegion cn e = some r → x.standing = some u → ∃ t cn' y, Happens .withdrawalRequestArrival s t ∧
         tfind t.conns ck = some cn' ∧ cn'.eps[e]? = some y ∧ y.standing = some { u with withdraw := true })) ∧
    (∀ cn rg l e0 e1 u v, tfind s.conns k = some cn → p = 0 → cn.regions = [rg] → cn.nodes = [] → cn.links = [l] → cn.eps = [e0, e1] →
      l.kind = 0 → l.ra = 0 → l.rb = 0 → l.src = 0 → l.dst = 1 → e0.standing = some u → e1.standing = some v → u.mask = 0 → v.mask = 0 →
      u.slot ≠ v.slot → ctxState s cn.ctx ≠ 7 → (s.core (8 * resolverOctet cn rg)).stopped = false →
      ∃ t cn', Happens .resolverEvaluation s t ∧ tfind t.conns k = some cn' ∧ (∀ x ∈ cn'.eps, x.standing = none) ∧
        (∀ rg' ∈ cn'.regions, rg'.evals = rg.evals + 1 ∧ vget rg'.counts 0 0 = vget rg.counts 0 0 + 1) ∧
        (32 * (s.mcyc / 32 + portFrames s u.slot u.port) + 1, ⟨.portFire, { Arg.reset with k := u.slot, a := u.port }⟩) ∈ t.inflight ∧
        (32 * (s.mcyc / 32 + portFrames s v.slot v.port) + 1,
          ⟨.portFire, { Arg.reset with k := v.slot, a := v.port, c := 1, item := u.item }⟩) ∈ t.inflight) ∧
    (¬live → Happens .portFire s s ∧ Happens .offerAcceptArrival s s) ∧
    (p < 8 → live → s.arg.b = 0 → ∃ t, Happens .portFire s t ∧ (t.slot k).phase = 2 ∧ (t.slot k).keep = itemWords s.arg.item ∧
      port t p = { port s p with phase := .idle } ∧ (∀ q, q ≠ p → port t q = port s q) ∧ (t.slot k).g = (s.slot k).g) ∧
    (p < 8 → live → s.arg.b ≠ 0 → s.arg.b.testBit p = true → ∃ t, Happens .portFire s t ∧ (t.slot k).phase = 2 ∧
      (t.slot k).keep = [BitVec.ofNat 64 p, if s.arg.c = 1 then 1#64 else 0#64] ∧
      (∀ q, q < 8 → s.arg.b.testBit q = true → (port t q).phase = .idle) ∧ (∀ q, s.arg.b.testBit q = false → port t q = port s q) ∧
      (s.arg.c = 1 → (port t p).full = true ∧ (port t p).item = (itemWords s.arg.item).headD 0)) ∧
    (slice (s.slot k).sys.pto 31 0 = 0 → Happens .portTimeout s s) ∧
    (∀ q, q < 8 → (s.slot k).run = .parked (.port (2 ^ q)) →
      (slice (s.slot k).sys.pto 31 0 ≠ 0 → (s.slot k).phase = 1 → (port s q).phase = .offering ∨ (port s q).phase = .accepting → ∃ t, Happens .portTimeout s t ∧ (t.slot k).phase = 3 ∧
        (port t q).phase = .withdrawing ∧ (32 * (s.mcyc / 32 + requestFrames s k (portFrames s k q)) + 1, evt .withdrawalRequestArrival k q 0) ∈ t.inflight) ∧
      (p = q → (port s q).phase = .withdrawing →
        let u := onSlotPort k q (fun x => { x with phase := .idle }) s
        ((s.slot k).phase = 3 → Happens .withdrawalAck s (raiseTrap k 0x16 (BitVec.ofNat 64 (2 ^ q)) (s.slot k).pc u)) ∧
        ((s.slot k).phase = 4 → Happens .withdrawalAck s (u.onSlot k fun sl => { sl with phase := 0, run := .running })))) ∧
    (∀ cn l, tfind s.conns k = some cn → cn.links[p]? = some l →
      (∃ t cn', Happens .bufItemArrival s t ∧ tfind t.conns k = some cn' ∧ t.slots = s.slots ∧ cn'.links[p]? =
        some { l with held := l.held ++ [(s.arg.item, ((cn.regions[l.rb]?).map (·.evals)).getD 0)] }) ∧
      ∃ t cn', Happens .bufCreditArrival s t ∧ tfind t.conns k = some cn' ∧ t.slots = s.slots ∧
        cn'.links[p]? = some { l with places := l.places - 1 }) ∧
    (∀ c x, freeHeads s k = [(c, x)] → x.mid = 0 → x.elem = 0 → coreOf x.slot = c → (tileOf s c).queue = [x] → joinedTile s c = false →
      (∀ d y, headCmd s d = some y → y.mid ≠ 1) →
      ∃ t, Happens .kStep s t ∧ (tileOf t c).acc = [] ∧ (tileOf t c).queue = [] ∧ (t.slot x.slot).phase = 2 ∧ t.mem = s.mem) ∧
    (∀ c x s0 s2, headCmd s c = some x → x.mid = 1 → c / 8 = k → coreOf x.slot = c → (∀ d, d ≠ c → headCmd s d = none) → x.elem < x.count →
      (s.octet k).unit.freeAt ≤ s.mcyc → grant1 k s = (some c, s0) →
      tileElem x x.elem (s0.onSlot x.slot (·.onSys fun y => { y with prg := macroPrg 1 x.elem })) = (s2, .next) →
      headCmd s2 c = some x →
      ∃ t, Happens .kStep s t ∧ (tileOf t c).acc = (tileOf s2 c).acc ∧
        (x.elem + 1 < x.count → (t.slot x.slot).sys.prg = macroPrg 1 (x.elem + 1)) ∧
        (tileOf t c).queue = (tileOf s2 c).queue.map fun y =>
          if y.slot = x.slot then { y with elem := x.elem + 1, busy := some (s2.mcyc + stepCycles s2 x) } else y)

/-- F of an octet moves forward only. A current group's store drains: the old value goes to its undo log, for whose room in the
ring it waits, its core owns the word, and the entry is gone. A running group whose tasks have ended is Ended, Current when
its ticket is F, and Retired, its slots unbound, when nothing is left of it. A deadlocked slot traps with 0x15; an aborted
kernel writes its record. A weight adds to RET of its record, which the last one frees. A probe returns when all that it
follows is delivered. The firmware's turns need featlock; a kernel's next group takes its ticket and unit, with a bind record,
and its tasks may start once that is dispatched. Choices of the model on which it rests: logs 18, 33, 35, 36, 40, 56, 62.
(17_ticket_group R338, 17_ticket_group R340, 17_ticket_group R344, 17_ticket_group R348, 17_ticket_group R350, 18_tensor R364,
18_tensor R368, 19_barrier R385, 19_barrier R388, 21_kernel R397, 23_queue R409, 23_queue R412) -/
def Obligations.TicketAndKernelEvents : Prop :=
  ∀ (s : State),
    let k := s.arg.k
    let a := s.arg.a
    let b := s.arg.b
    (b ≤ octetF s k a → Happens .frontierAdvanceDelivery s s) ∧
    (octetF s k a < b → ∃ t, Happens .frontierAdvanceDelivery s t ∧ octetF t k a = b ∧ t.slots = s.slots ∧ t.mem = s.mem ∧
      ∀ o i, (o, i) ≠ (k, a) → octetF t o i = octetF s o i) ∧
    (tfind s.groups k = none → Happens .commitDrain s s ∧ (b ≠ 1 → Happens .groupRetire s s)) ∧
    (∀ g, tfind s.groups k = some g →
      (g.entries = [] ∨ g.st ≠ .current ∨ g.stopped = true ∨ groupHeld s g = true → Happens .commitDrain s s) ∧
      ((∀ e ∈ g.entries, (s.core (coreOf e.slot)).stopped = false) → g.sent = true → Happens .commitDrain s s) ∧
      (∀ e es w m v sec, g.entries = e :: es → g.st = .current → g.stopped = false → groupHeld s g = false → g.sent = false →
        (s.core (coreOf e.slot)).stopped = false → e.act = .store w m v sec → drainUnit e es = [e] → tfind s.changed w = none → g.held = [] →
        tfind s.home w = none → tfind s.home (pairOf w) = none → windowOf s (lineOfWord w) = none → lineBad s (4 * w) = false → undoFull g 1 = false →
        (∀ x, l1Find s (coreOf e.slot) w = some x → x.st ≠ .owned true) →
        ∃ t g', Happens .commitDrain s t ∧ tfind t.groups k = some g' ∧ g'.entries = es ∧ tfind t.home w = some (.owned (coreOf e.slot)) ∧
          g'.undo = g.undo ++ [⟨w, BitVec.ofNat 32 (ofBytesLE (memBytes s.mem (4 * w) 4))⟩] ∧ tfind t.changed w = some (g.inst, g.kernel)) ∧
      (∀ e es w m v sec, g.entries = e :: es → g.st = .current → g.stopped = false → groupHeld s g = false → g.sent = false →
        (s.core (coreOf e.slot)).stopped = false → e.act = .store w m v sec → drainUnit e es = [e] → tfind s.changed w = none → g.held = [] →
        undoFull g 1 = true →
        Happens .commitDrain s (s.post (evt .commitDrain k 0 0))) ∧
      (b ≠ 1 → groupHeld s g = true → Happens .groupRetire s s) ∧
      (b ≠ 1 → groupHeld s g = false → g.st = .running → groupEnded s k g = true → ∀ x, tfind s.frontiers g.inst = some x →
        ∃ t g', Happens .groupRetire s t ∧ tfind t.groups k = some g' ∧ g'.st = (if x.f = g.ticket then .current else .ended)) ∧
      (b ≠ 1 → groupHeld s g = false → g.st = .current → g.stopped = false → groupDone s k g = true → g.held = [] → ∀ kn, tfind s.kernels g.kernel = some kn →
        kn.retired + 1 < kn.ngrp → ∃ t g' kn', Happens .groupRetire s t ∧ tfind t.groups k = some g' ∧ g'.st = .retired ∧ g'.undo = [] ∧
          tfind t.kernels g.kernel = some kn' ∧ kn'.retired = kn.retired + 1 ∧ boundSlots t k = [])) ∧
    (∀ x, tfind s.frontiers k = some x →
      (deadlocked s k x = false → Happens .ticketDeadlock s s) ∧
      (deadlocked s k x = true → ∀ j, ((s.groups.filter fun e => e.2.inst == k && e.2.st == .current).map (·.1)).flatMap (boundSlots s) = [j] →
        (∃ n, (s.slot j).run = .parked (.commitFull n)) → Happens .ticketDeadlock s (raiseTrap j 0x15 (BitVec.ofNat 64 x.f) (s.slot j).pc s))) ∧
    (∀ kn, tfind s.kernels k = some kn →
      (kn.st = .complete ∨ (kn.st = .aborted ∧ b ≠ 1) → Happens .kernelAbort s s) ∧
      (kn.st ≠ .complete → kn.st ≠ .aborted → b ≠ 1 → (∀ e ∈ s.groups, e.2.kernel ≠ k) →
        let s0 := { s with frontiers := s.frontiers.map (stopFrontier (kernelEverInsts s k)) }
        let s1 := (s0.onKernel k fun x => { x with st := .aborted }).post (evt .groupPlacement 0 0 0)
        let s2 := { s1 with changed := s1.changed.filter fun e => e.2.2 != k }
        ∀ u, (completeKernel k 3 a s2 = (true, u) → Happens .kernelAbort s (settleCtx kn.ctx u)) ∧
          (completeKernel k 3 a s2 = (false, u) → Happens .kernelAbort s (u.post ⟨.kernelAbort, { s.arg with b := 1 }⟩)))) ∧
    ((∃ t ∈ s.arg.l, tfind (s.core k).transfer.tags t = some .inFlight) → Happens .weightArrival s (s.post ⟨.weightArrival, s.arg⟩)) ∧
    (s.arg.l = [] → hndInd s.arg.w = true → ∀ c off, hndRecord s a s.arg.w = some (c, off) →
      let x := arrNat s c off 8
      let ret := x / 2 ^ 32 + 2 ^ hndE s.arg.w
      (x % 2 ^ 32 ≠ 0 → ret < x % 2 ^ 32 → ∃ t, Happens .weightArrival s t ∧ arrNat t c off 8 = ret * 2 ^ 32 + x % 2 ^ 32 ∧ t.mem = s.mem) ∧
      (x % 2 ^ 32 ≠ 0 → ret = x % 2 ^ 32 → ∃ t, Happens .weightArrival s t ∧ memBytes (t.core c).arr off 16 = List.replicate 16 0 ∧
        tfind (t.core c).indirect ((off - 0x7f000) / 64) = none ∧
        (s.mcyc + 17, weightMsg a s.arg.c c (BitVec.ofNat 64 (arrNat s c (off + 8) 8)) []) ∈ t.inflight)) ∧
    (s.arg.l = [] → hndInd s.arg.w = false → ∀ pa u, ctxXlat (clusterOf (octetOf k)) true a (hndAddr s.arg.w) s = (some pa, u) →
      Happens .weightArrival s (weightHome a pa s.arg.w s.arg.c (countRecv (homeSlice pa) 0 1 u))) ∧
    (let place := (s.arg.l.getD 0 0, s.arg.l.getD 1 0);
     let found := s.trees.find? fun t => t.is k a place && !t.finished;
     (found = none → Happens .treeNodeCombine s s) ∧
     ∀ t op, found = some t → TreeDesc.op t.desc = some op →
       (b ∈ t.written ∨ (∃ i ∈ t.members, t.leaf b i = none) → Happens .treeNodeCombine s s) ∧
       (b ∉ t.written → (∀ i ∈ t.members, t.leaf b i ≠ none) → ∀ ws c u,
         treeBlock t.desc op t.octets (if place.1 = 0 then place.2 else 16 * place.2) (t.leaf b) = (ws, c) →
         storeBlock (clusterOf (octetOf (8 * t.octets.getD 0 0))) k ((TreeDesc.dst t.desc + (if TreeDesc.lr t.desc then 4 else 64) * b) % 2 ^ 64) (ws.flatMap fun w => bytesLE 4 w.toNat) s =
           (none, u) → ∃ xs, Happens .treeNodeCombine s { u with trees := xs })) ∧
    ((s.slot k).phase = 1 → (s.slot k).run = .parked .probes → (s.slot k).keep = [BitVec.ofNat 64 a] →
      (probesBack s s.arg = true → ∃ t, Happens .flushProbeReturn s t ∧ (t.slot k) = { s.slot k with phase := 2 } ∧ t.mem = s.mem) ∧
      (probesBack s s.arg = false → Happens .flushProbeReturn s (s.soon ⟨.flushProbeReturn, s.arg⟩))) ∧
    (b ≠ 1 → ctxState s k = 0 ∨ hostMay s k = false → Happens .doorbell s s) ∧
    (b ≠ 1 → ctxState s k ≠ 0 → hostMay s k = true → ∀ u, queuePut k a 8 (slice s.arg.w 31 0) s = (true, u) →
      Happens .doorbell s (wakeFirmware (refreshQueue k a u))) ∧
    ((s.mreg 0x40).getLsbD 0 = false → Happens .tenantTurn s s) ∧
    (∀ x, b = 1 → appendLaunch k a s.arg.bytes s = (none, x) → ctxGone x k = false → ctxHeld x k = true →
      Happens .doorbell s (x.onGroup (x.slot s.arg.c).bind.group fun g => { g with sent := false })) ∧
    (let under := ∃ m ∈ s.inflight, m.2.ev = .tenantTurn ∧ m.2.arg.b < 2
     ((s.mreg 0x40).getLsbD 0 = true → b = 0 → under → Happens .tenantTurn s s) ∧
     ((s.mreg 0x40).getLsbD 0 = true → b = 0 → ¬ under →
      let u := refreshAll s
      (nextTenant u = none → Happens .tenantTurn s u) ∧
      ∀ t, nextTenant u = some t →
        let w : Int := (tenantWeight u t : Nat)
        let d := min (tget u.deficits t 0 + w * 2 ^ 16) (w * 2 ^ 20)
        let v := { u with deficits := tset u.deficits t d, tenant := t }
        Happens .tenantTurn s (if 0 < d then takeFor t v else wakeFirmware v))) ∧
    (k ≠ 0 → ∀ kn, tfind s.kernels k = some kn → kn.st = .placing → ctxOpen s kn.ctx = true → kn.placed < kn.ngrp →
      (freeUnit s kn = none → Happens .groupPlacement s s) ∧
      ∀ u, freeUnit s kn = some u → (s.cluster (clusterOf u)).binds.length < 256 → ∃ t gk g kn' bd, Happens .groupPlacement s t ∧
        tfind s.groups gk = none ∧ tfind t.groups gk = some g ∧ g.st = .placed ∧ g.kernel = k ∧ g.index = kn.placed ∧ g.octet = u ∧
        g.ticket = kn.t0 + kn.placed ∧ g.live = kn.tasks ∧ tfind t.kernels k = some kn' ∧ kn'.placed = kn.placed + 1 ∧
        bd ∈ (t.cluster (clusterOf u)).binds ∧ bd.group = gk ∧ bd.ticket = g.ticket ∧ bd.octet = u) ∧
    (((s.cluster k).binds.find? fun b => ctxOpen s b.ctx) = none → Happens .bindRecordDispatch s s) ∧
    (∀ bd g kn, ((s.cluster k).binds.find? fun b => ctxOpen s b.ctx) = some bd → tfind s.groups bd.group = some g →
      tfind s.kernels g.kernel = some kn → g.st = .placed → (∀ c ∈ g.usedCores, scratchBusy s c = false) →
      ∃ t g', Happens .bindRecordDispatch s t ∧ (t.cluster k).binds = (s.cluster k).binds.erase bd ∧
        tfind t.groups bd.group = some g' ∧ g'.slots = g.slots ∧ g'.toStart = List.range g.slots.length)

/-- A Free slot takes the oldest entry of the highest level, or a task that dispatch has waiting, which comes first in a
deterministic slot. A parked slot whose reason holds runs again. A timer at 0 sets EV, and a pending cause where TMRC says so.
Entries that have waited 65,536 cycles move up a level. A victim answers with its oldest entry of the context, one of a
deterministic kernel with none. A counter's home decrements, sets, increments or answers with COUNT, and at 0 with ARM set
enqueues its record. An enqueue appends to the run list; WENQ's payload is written first. A watch is registered under the
lowest free identifier, and removed. Choices of the model on which it rests: logs 18, 30, 31, 32, 38, 41, 44. (05_slot R94,
05_slot R99, 05_slot R107, 23_queue R416, 23_queue R417, 23_queue R418, 23_queue R419, 23_queue R421, 23_queue R423, 23_queue
R424, 23_queue R425, 23_queue R426) -/
def Obligations.TaskEvents : Prop :=
  ∀ (s : State),
    let k := s.arg.k
    let a := s.arg.a
    let w := s.arg.w
    let soonMsg := fun (t : State) (m : Msg) => (s.mcyc + 17, m) ∈ t.inflight
    let started := fun (t : State) (k : Nat) (x : Word) (bs : List (BitVec 8)) => (t.slot k).run = .running ∧ (t.slot k).sys.trec = x ∧
      (t.slot k).pc = recWord bs 0 &&& ~~~1#64 ∧ (t.slot k).rg 2 = recWord bs 1 ∧ (t.slot k).rg 4 = recWord bs 2 ∧
      (t.slot k).rg 5 = recWord bs 3 ∧ (t.slot k).rg 6 = recWord bs 4 ∧ (t.slot k).rg 7 = recWord bs 5 ∧
      (∀ n, n ≠ 2 → n ≠ 4 → n ≠ 5 → n ≠ 6 → n ≠ 7 → (t.slot k).rg n = 0) ∧ ∀ n, n < 16 → (t.slot k).rv n = vzero
    let c := coreOf k
    ((s.slot k).run ≠ .free ∨ (s.core c).stopped = true → Happens .taskStart s s) ∧
    ((s.slot k).run = .free → (s.core c).stopped = false → (s.slot k).phase ≠ 5 →
      let u := s.onSlot k fun sl => { sl with phase := 0 }
      (∀ e bs v, (s.slot k).det = false ∨ (s.slot k).bind.bound = false ∨ nextBound u k = none → nextEntry u k = some e → slotBytes k e.ctx e.record.toNat 64 u = (some bs, v) → ∃ t, Happens .taskStart s t ∧
        started t k e.record bs ∧ (t.core c).runList = (v.core c).runList.erase e) ∧
      ∀ gk i g kn, nextEntry u k = none ∨ ((s.slot k).det = true ∧ (s.slot k).bind.bound = true) → nextBound u k = some (gk, i) → tfind s.groups gk = some g → tfind s.kernels g.kernel = some kn →
        ∃ t, Happens .taskStart s t ∧ (t.slot k).run = .running ∧ (t.slot k).bind.group = gk ∧ (t.slot k).bind.bound = true ∧
          (t.slot k).pc = BitVec.ofNat 64 (kn.entries.getD (if kn.stages = 0 then 0 else g.index % kn.stages) 0) ∧
          (t.slot k).det = kn.det ∧ (t.slot k).sv = kn.sv ∧ (t.slot k).th = false ∧ (t.slot k).sys.tvec = 0 ∧ ∀ n, (t.slot k).rg n = 0) ∧
    (∀ r, (s.slot k).run = .parked r →
      (reasonHolds s k r = false → Happens .parkRelease s s) ∧
      (reasonHolds s k r = true → r ≠ .event → (∀ x, r ≠ .marker x) → Happens .parkRelease s (s.onSlot k fun sl => { sl with run := .running })) ∧
      (reasonHolds s k r = true → r = .event → Happens .parkRelease s (s.onSlot k fun sl => { sl with run := .running, phase := 1 })) ∧
      (reasonHolds s k r = true → (s.slot k).replay = none → ∀ pc, r = .marker (some pc) →
        Happens .parkRelease s (s.onSlot k fun sl => endOfBody { sl with run := .running } pc sl.pc))) ∧
    (k < 65536 → ∃ t, Happens .timerExpiry s t ∧ (t.slot k).sys.tmr = 0 ∧ (t.slot k).sys.st.getLsbD 6 = true ∧
      (t.slot k).tmrPend = ((s.slot k).tmrPend || (s.slot k).sys.tmrc.getLsbD 0) ∧ (t.slot k).pc = (s.slot k).pc) ∧
    (let x := s.core k;
     let old := fun (e : RunEntry) => decide (e.level < 3) && decide (65536 ≤ x.cyc.toNat - e.since);
     ∃ t, Happens .runListAging s t ∧ t.slots = s.slots ∧ (t.core k).runList = (x.runList.filter fun e => !old e) ++
       (x.runList.filter old).map fun e => { e with level := e.level + 1, since := x.cyc.toNat }) ∧
    (maySteal s k = false → Happens .stealAttempt s s) ∧
    (maySteal s k = true → ∃ t, Happens .stealAttempt s t ∧ (t.slot k).steal = (s.slot k).steal + 1 ∧ soonMsg t
      ⟨.stealRequestArrival, { Arg.reset with k := k, a := victim c (s.slot k).steal, c := (s.slot k).bind.ctx, sender := k + 1, sent := s.mcyc }⟩) ∧
    (coreDet s a = true → ∃ t, Happens .stealRequestArrival s t ∧ (t.core a).deque = (s.core a).deque ∧
      soonMsg t ⟨.stealAnswerArrival, { Arg.reset with k := k, c := s.arg.c }⟩) ∧
    (coreDet s a = false → ringOldest s a 0 = none → ∃ t, Happens .stealRequestArrival s t ∧ match (s.core a).deque with
      | e :: es => if e.ctx = s.arg.c then (t.core a).deque = es ∧
          soonMsg t ⟨.stealAnswerArrival, { Arg.reset with k := k, b := 1, c := s.arg.c, w := e.record }⟩
        else (t.core a).deque = e :: es ∧ soonMsg t ⟨.stealAnswerArrival, { Arg.reset with k := k, c := s.arg.c }⟩
      | [] => soonMsg t ⟨.stealAnswerArrival, { Arg.reset with k := k, c := s.arg.c }⟩) ∧
    (s.arg.b = 0 ∨ ctxGone s s.arg.c = true → Happens .stealAnswerArrival s (countRecv c 0 1 s)) ∧
    (s.arg.b ≠ 0 → ctxOpen s s.arg.c = true → (s.slot k).run = .free → (s.core c).stopped = false → ∀ bs v,
      slotBytes k s.arg.c w.toNat 64 s = (some bs, v) → ∃ t, Happens .stealAnswerArrival s t ∧ started t k w bs) ∧
    ((s.core k).holding = none → ringOldest s k 0 = none → ringOldest s k 1 = none → Happens .overflowRingRefill s s) ∧
    ((s.core k).holding = none → (s.core k).runList.length < 64 → ∀ ctx r x u, ringOldest s k 1 = some (ctx, r) → takeRing ctx r s = (some x, u) →
      ringOldest u k 0 = none → ∃ t, Happens .overflowRingRefill s t ∧
        (t.core k).runList = insertRun ⟨r.level, x, ctx, r.since⟩ (u.core k).runList) ∧
    ((s.core k).holding = none → ringOldest s k 1 = none → (s.core k).deque.length < 64 → ∀ ctx r x u, ringOldest s k 0 = some (ctx, r) →
      takeRing ctx r s = (some x, u) → ∃ t, Happens .overflowRingRefill s t ∧ (t.core k).deque = insertDeque ⟨x, ctx, r.since⟩ (u.core k).deque) ∧
    (ctxGone s k = false → s.arg.l ≠ [1] →
      (ctrCount s a s.arg.b = 0 → ∀ kn, tfind s.kernels s.arg.c = some kn → ∃ t kn', Happens .tdecArrival s t ∧
        tfind t.kernels s.arg.c = some kn' ∧ kn'.disc = kn.disc + 1 ∧ (t.core a).arr = (s.core a).arr) ∧
      (ctrCount s a s.arg.b ≠ 0 → ∃ t, Happens .tdecArrival s t ∧ ctrCount t a s.arg.b = ctrCount s a s.arg.b - 1 ∧
        (ctrArm t a s.arg.b = true ↔ ctrArm s a s.arg.b = true ∧ ctrCount s a s.arg.b ≠ 1) ∧
        (ctrCount s a s.arg.b = 1 → ctrArm s a s.arg.b = true → soonMsg t ⟨.tenqArrival, { Arg.reset with
          k := k, a := a, b := 1, w := BitVec.ofNat 64 (arrNat s a (0x7d000 + 4 * s.arg.b + 8) 8), l := [1] }⟩))) ∧
    (ctxGone s k = false → s.arg.b ≠ 1 → (s.core a).runList.length < 64 →
      ∃ t, Happens .tenqArrival s t ∧ (t.core a).runList = (s.core a).runList ++ [⟨s.arg.c, w, k, (s.core a).cyc.toNat⟩] ∧ t.mem = s.mem) ∧
    (∀ d off rest, ctxGone s k = false → s.arg.l = d :: off :: rest → off + 64 ≤ 0x7c000 → ∃ t, Happens .wenqArrival s t ∧ t.mem = s.mem ∧
      memBytes (t.core d).arr off 64 = vregBytes s.arg.item ∧ soonMsg t ⟨.tenqArrival, { Arg.reset with k := k, a := a, c := s.arg.c, w := w, l := [1] }⟩) ∧
    (let n := ctrCount s a s.arg.c;
     let asked := (s.slot k).phase = 1;
     (s.arg.b = 0 → ∀ m, s.arg.l = [m] → 0 < m → m < 2 ^ 32 → ∃ t, Happens .counterRequestArrival s t ∧ ctrCount t a s.arg.c = m ∧
       ctrArm t a s.arg.c = true ∧ (asked → (t.slot k).phase = 2 ∧ (t.slot k).keep = [0])) ∧
     (s.arg.b = 1 → (256 * s.arg.l.getD 0 0 + s.arg.u.toNat, w) ∉ s.spawns → ∃ t, Happens .counterRequestArrival s t ∧ ctrCount t a s.arg.c = (n + 1) % 2 ^ 32 ∧
       ctrArm t a s.arg.c = ctrArm s a s.arg.c ∧ (asked → (t.slot k).phase = 2)) ∧
     (s.arg.b = 2 → ∃ t, Happens .counterRequestArrival s t ∧ (t.core a).arr = (s.core a).arr ∧
       (asked → (t.slot k).phase = 2 ∧ (t.slot k).keep = [BitVec.ofNat 64 n])) ∧
     (2 < s.arg.b → n ≠ 0 → ∃ t, Happens .counterRequestArrival s t ∧ ctrCount t a s.arg.c = n ∧ ctrArm t a s.arg.c = true)) ∧
    (s.arg.b = 1 → a = 0 → ∃ t, Happens .watchRequestArrival s t ∧ t.watches = s.watches.filter (fun e => e.id != w.toNat) ∧
      ((s.slot k).phase = 1 → (t.slot k).keep = [if (∃ e ∈ s.watches, e.id = w.toNat) then 1#64 else 0#64])) ∧
    (s.arg.b ≠ 1 → a = 0 → let h := homeSlice (4 * s.arg.l.getD 0 0)
      (freeWatch s h = none → ∃ t, Happens .watchRequestArrival s t ∧ t.watches = s.watches ∧
        ((s.slot k).phase = 1 → (t.slot k).keep = [BitVec.allOnes 64])) ∧
      ∀ i, freeWatch s h = some i → ∃ t, Happens .watchRequestArrival s t ∧ ((s.slot k).phase = 1 → (t.slot k).keep = [BitVec.ofNat 64 i]) ∧
        t.watches = s.watches ++ [{ id := i, word := s.arg.l.getD 0 0, nw := s.arg.l.getD 1 0, mask := s.arg.u.extractLsb' 32 32, value := s.arg.u.extractLsb' 0 32, record := w, ctx := s.arg.l.getD 2 0, slot := k }])

/-- A write of ctxcmd changes nothing while a command runs or from a virtual function. CTX_CREATE makes the lowest free number a
created context with the tenant, the HV and the descriptor given, or ends with status 2. CTX_BIND ends with 1 but on a created
context, with 3 on no cluster or one bound to another tenant, else it makes the context Bound. CTX_SAVE ends with 1 but on a
bound or running context that is not busy, or one that is Pre-empting without a CTXSAVE, whose end it is then told; else the
context is Pre-empting and the status 0x80. The physical function saves each context of a tenant into a hypervisor pool as it
stands, and restores it. CTX_RESTORE ends with 1 but on a Saved context with a valid directory; it waits for an unmapped page,
and else starts the restore. CTX_DESTROY ends with 1 on a context at work, and else drops it with its kernels, watches, trees
and connectors. Choices of the model on which it rests: logs 18, 43, 54, 59. (24_context R430, 28_link R473) -/
def Obligations.ContextCommands : Prop :=
  ∀ (s : State),
    let w := s.arg.w
    let n := slice w 55 48
    let v := setSlice (setBit w 8 false) 63 56 0
    let u := s.setMreg 0x100 v
    let status := fun (t : State) => slice (t.mreg 0x100) 63 56
    let soonMsg := fun (t : State) (m : Msg) => (s.mcyc + 17, m) ∈ t.inflight
    let ends := fun (e : Instr) (m : Nat) => Happens e s (u.setMreg 0x100 (setSlice v 63 56 m))
    (((s.mreg 0x100).getLsbD 63 = true ∧ s.arg.b ≠ 1 ∧ s.arg.b ≠ 2) ∨ s.arg.c ≠ 0 →
      ∀ e ∈ [Instr.ctxCreate, .ctxBind, .ctxSave, .ctxRestore, .ctxDestroy], Happens e s s) ∧
    (s.arg.b = 2 → s.arg.c = 0 →
      ((∀ e ∈ s.ctxs, e.2.tenant ≠ s.arg.k) → Happens .ctxSave s s ∧ Happens .ctxRestore s s) ∧
      ∀ i c, (s.ctxs.filter fun e => e.2.tenant == s.arg.k).map (·.1) = [i] → tfind s.ctxs i = some c →
        let there := c.hyper.isSome = true ∨ ¬ (c.st ∈ [2, 3, 4, 5] ∨ c.busy = true)
        (there → Happens .ctxSave s s) ∧ (c.hyper = none → Happens .ctxRestore s s) ∧
        (¬ there → ∃ t d, Happens .ctxSave s t ∧ tfind t.ctxs i = some d ∧ d.st = 5 ∧ soonMsg t (evt .groupSave i 0 0) ∧ t.mreg 0x100 = s.mreg 0x100 ∧
          ∃ h, d.hyper = some h ∧ h.st = c.st ∧ h.save = c.save ∧ h.prq = c.prq ∧ h.pool = []) ∧
        (∀ v, c.hyper.isSome = true → c.st = 6 → c.save = some v → v.finished = true → v.restore = false →
          Happens .ctxRestore s (startRestore i false s))) ∧
    ((s.mreg 0x100).getLsbD 63 = false ∨ s.arg.b = 1 → s.arg.b ≠ 2 → s.arg.c = 0 →
      (tfind s.ctxs n = none → ∀ e ∈ [Instr.ctxBind, .ctxSave, .ctxRestore, .ctxDestroy], ends e 1) ∧
      ((∀ i < 256, tfind s.ctxs i ≠ none) → ends .ctxCreate 2) ∧
      (∀ i < 256, tfind s.ctxs i = none → (∀ j < i, tfind s.ctxs j ≠ none) → ∃ t c, Happens .ctxCreate s t ∧ tfind t.ctxs i = some c ∧
        c.st = 1 ∧ c.tenant = slice w 15 10 ∧ c.hv = w.getLsbD 9 ∧ c.clusters = 0 ∧ c.desc = slice (s.mreg 0x108) 63 7 * 128 ∧
        status t = 0 ∧ slice (t.mreg 0x100) 55 48 = i ∧ ∀ j, j ≠ i → tfind t.ctxs j = tfind s.ctxs j) ∧
      ∀ c, tfind s.ctxs n = some c →
        (let m := slice w 47 16;
         (c.st ≠ 1 → ends .ctxBind 1) ∧ (c.st = 1 → m = 0 ∨ clustersTaken s c.tenant m = true → ends .ctxBind 3) ∧
         (c.st = 1 → m ≠ 0 → clustersTaken s c.tenant m = false → ∃ t d, Happens .ctxBind s t ∧ tfind t.ctxs n = some d ∧ d.st = 2 ∧
           d.clusters = m ∧ d.tenant = c.tenant ∧ d.desc = c.desc ∧ status t = 0 ∧ ∀ j, j ≠ n → tfind t.ctxs j = tfind s.ctxs j)) ∧
        let asked := c.st = 4 ∧ c.save.elim false (·.bySlot) = false
        (¬ asked → (c.st ≠ 2 ∧ c.st ≠ 3) ∨ c.busy = true → ends .ctxSave 1) ∧
        (asked → ∃ t, Happens .ctxSave s t ∧ tfind t.ctxs n = some { c with save := c.save.map fun v => { v with auto := false } } ∧
          status t = 0x80 ∧ ∀ j, j ≠ n → tfind t.ctxs j = tfind s.ctxs j) ∧
        (c.st = 2 ∨ c.st = 3 → c.busy = false → ∃ t d, Happens .ctxSave s t ∧ tfind t.ctxs n = some d ∧ d.st = 4 ∧ d.prq = true ∧ d.pdl = c.pdl ∧
          status t = 0x80 ∧ soonMsg t (evt .preemptDeadline n 0 0) ∧ ∀ j, j ≠ n → tfind t.ctxs j = tfind s.ctxs j) ∧
        (c.st ≠ 6 ∨ c.busy = true ∨ c.hyper.isSome = true → ends .ctxRestore 1) ∧
        (c.st = 6 → c.busy = false → c.hyper = none → ∀ ok t, directoryValid n 0 (readDesc n u) = (ok, t) → Happens .ctxRestore s (match ok with
          | none => (cmdStatus v 0x80 t).post ⟨.ctxRestore, { t.arg with b := 1 }⟩
          | some false => cmdStatus v 1 t
          | some true => startRestore n false (cmdStatus v 0x80 t))) ∧
        (c.hyper.elim c.st (·.st) ∈ [1, 2, 6, 7] → ∃ t, Happens .ctxDestroy s t ∧ tfind t.ctxs n = none ∧ status t = 0 ∧
          (∀ e ∈ t.kernels, e.2.ctx ≠ n) ∧ (∀ e ∈ t.watches, e.ctx ≠ n) ∧ (∀ e ∈ t.trees, e.ctx ≠ n) ∧ (∀ e ∈ t.conns, e.2.ctx ≠ n) ∧
          soonMsg t (evt .groupPlacement 0 0 0) ∧ ∀ j, j ≠ n → tfind t.ctxs j = tfind s.ctxs j) ∧
        (c.hyper.elim c.st (·.st) ∉ [1, 2, 6, 7] → ends .ctxDestroy 1))

/-- An event for a context that is not in its state changes nothing. At the deadline, or with every slot Free, a Pre-empting
context is Saving, and its groups are due; before that the deadline is looked at again. The save first forces its slots, and
looks again until each is saved with nothing of it on its way, no request of a group's drain unanswered, and no weight or list
entry of the context on its way. Then the next group that has started and is not yet saved waits for its copies and for a
stopped Badger; its lists go to the overflow rings, its commit buffer to its ring and its sections to the pool, and it is
noted, or an unmapped page lets the save look again. With no group left the context block and the directory are written and
the context becomes Saved. A full pool makes it run again with the failure 0x1b. An event for a context that is not being
restored changes nothing. A saved kernel of the next group first takes a rectangle, or waits for one. Then the next group in
the directory's order is read from the offset that the directory gives and put back; a group that has retired meanwhile is
passed over. First of all the slots and indirection records of the context block are put back, once their places are free;
with no group left the remaining saved kernels take rectangles, and then the context runs, or, out of a hypervisor pool, is in
the state in which it was saved. After a save that has failed, the groups that are out of the partition come back. Choices of
the model on which it rests: logs 11, 18, 42, 59. (24_context R432, 24_context R433, 24_context R434, 24_context R438,
24_context R440, 24_context R442, 17_ticket_group R340, 24_context R430) -/
def Obligations.SavesAndRestoresOfContexts : Prop :=
  (∀ (s : State),
    let k := s.arg.k
    let soonMsg := fun (t : State) (m : Msg) => (s.mcyc + 17, m) ∈ t.inflight
    ((tfind s.ctxs k).bind (·.save) = none → ∀ e ∈ [Instr.preemptDeadline, .groupSave], Happens e s s) ∧
    (∀ c x, tfind s.ctxs k = some c → c.save = some x →
      (c.st ≠ 4 → Happens .preemptDeadline s s) ∧
      (c.st = 4 → (ctxSlots s k).isEmpty = true ∨ x.since + c.pdl ≤ s.mcyc → ∃ t, Happens .preemptDeadline s t ∧ ctxState t k = 5 ∧
        soonMsg t (evt .groupSave k 0 0)) ∧
      (c.st = 4 → (ctxSlots s k).isEmpty = false → s.mcyc < x.since + c.pdl →
        Happens .preemptDeadline s (s.post (evt .preemptDeadline k 0 0))) ∧
      (c.st ≠ 5 → Happens .groupSave s s) ∧
      (c.st = 5 →
        let p := (ctxSlots s k).foldl forceSlot s
        let again := fun (t : State) => t.post (evt .groupSave k 0 0)
        let still := (∀ e ∈ p.slots, e.2.bind.ctx = k → slotSaved e.2 = true ∧ delivered p e.1 = true) ∧
          (∀ e ∈ ctxGroups p k, e.2.sent = false) ∧ weightsDue p k = false ∧ entriesDue p k = false
        let next := (ctxGroups p k).find? fun e => savable e.2 && !((x.groups ++ ownSaved c).any fun y => y.1 == e.1)
        (¬ still → Happens .groupSave s (again p)) ∧
        (still →
          (∀ e, next = some e → copiesAwaited p e.2 = true ∨ badgerStopped p e.2 = true → Happens .groupSave s (again p)) ∧
          (∀ gk g, next = some (gk, g) → copiesAwaited p g = false → badgerStopped p g = false →
            (∀ p1, g.usedCores.foldl (spillCore k) (true, p) = (false, p1) → Happens .groupSave s (again p1)) ∧
            ∀ p1, g.usedCores.foldl (spillCore k) (true, p) = (true, p1) →
              let p2 := p1.onGroup gk fun y => { y with inRing := y.entries.length, written := y.written + (y.entries.length - y.inRing) }
              let a := areaOffsets (p2.core (coreOf (g.slots.headD 0))).spsz g.octets.length x.offset
              ∀ r m p3, putSections k g.octet (groupSections p2 g a.1) x.units p2 = (r, m, p3) → Happens .groupSave s (match r with
                | .done => again (p3.onCtx k fun d => { d with save := some { x with groups := x.groups ++ [(gk, a.1.headD 0)], offset := a.2, units := m } })
                | .page => again p3
                | .full => exhausted k p3)) ∧
          (next = none → ∀ bs p1, freeUnits 8 p = (bs, p1) →
            ∀ r m p2, putSections k (match tfind p.ctxs k with
                | some d => 16 * ((maskClusters d.clusters).headD 0)
                | none => 0) [[(x.offset, bs)], directoryUnits (x.groups.map (·.2))] x.units p1 = (r, m, p2) →
              Happens .groupSave s (match r with
                | .done => becomeSaved k (p2.onCtx k fun d => { d with save := some { x with units := m } })
                | .page => again p2
                | .full => exhausted k p2)))) ∧
      ∀ t d, tfind t.ctxs k = some d → ctxState (becomeSaved k t) k = 6 ∧ ctxState (exhausted k t) k = 3 ∧
        (d.save ≠ none → ((tfind (exhausted k t).ctxs k).bind (·.save)).bind (·.failed) = some 0x1b))) ∧
  (∀ (s : State),
    let k := s.arg.k
    let again := fun (t : State) => t.post (evt .groupRestore k 0 0)
    ((tfind s.ctxs k).bind (·.save) = none → Happens .groupRestore s s) ∧
    (∀ c x, tfind s.ctxs k = some c → c.save = some x →
      (s.arg.b = 1 → (c.st ≠ 3 ∨ groupOut s x = none → Happens .groupRestore s s) ∧
        ∀ gk off g kp, c.st = 3 → groupOut s x = some (gk, off, g, kp) → Happens .groupRestore s (restoreGroup k gk off g kp x s)) ∧
      (s.arg.b ≠ 1 → c.st ≠ 6 ∨ x.restore = false ∨ x.finished = true → Happens .groupRestore s s) ∧
      (s.arg.b ≠ 1 → c.st = 6 → x.restore = true → x.finished = false → c.prq = true → Happens .groupRestore s (again (restoreBlock k s)) ∧
        ((∃ e ∈ c.loose, (s.slot e.1).run ≠ .free) → restoreBlock k s = s) ∧
        ((∀ e ∈ c.loose, (s.slot e.1).run = .free) → ∀ d, tfind (restoreBlock k s).ctxs k = some d →
          d.prq = false ∧ d.loose = [] ∧ d.records = [] ∧ d.st = 6)) ∧
      (s.arg.b ≠ 1 → c.st = 6 → x.restore = true → x.finished = false → c.prq = false →
        (x.groups[x.next]? = none → savedKernel s k = none →
          Happens .groupRestore s (finishRestore k x s) ∧ (c.hyper = none → ctxState (finishRestore k x s) k = 3) ∧
          (∀ h, c.hyper = some h → ctxState (finishRestore k x s) k = h.st)) ∧
        (x.groups[x.next]? = none → ∀ kk kn st, savedKernel s k = some (kk, kn, st) →
          Happens .groupRestore s (again ((placeSaved kk kn st s).getD s))) ∧
        ∀ y, x.groups[x.next]? = some y → (tfind s.groups y.1 = none → Happens .groupRestore s (again s)) ∧
          ∀ g, tfind s.groups y.1 = some g → (g.kept = none ∨ tfind s.kernels g.kernel = none →
            Happens .groupRestore s (again (s.onCtx k fun d => { d with save := some { x with next := x.next + 1 } }))) ∧
          ∀ kp kn, g.kept = some kp → tfind s.kernels g.kernel = some kn →
            (∀ st, kn.st = .saved st → Happens .groupRestore s (again ((placeSaved g.kernel kn st s).getD s))) ∧
            ((∀ st, kn.st ≠ .saved st) →
              (∀ t, directoryWord k g.octet (x.next + 1) s = (none, t) → Happens .groupRestore s (again t)) ∧
              ∀ off t, directoryWord k g.octet (x.next + 1) s = (some off, t) → Happens .groupRestore s (restoreGroup k y.1 off g kp x t)))))

/-- A command is ignored while one is busy, refused with status 1 without feature 21 (but the exchange), and, but for the exchange
and the unlock, with 2 while Owl is not Unlocked. OWL_UNLOCK in a session unlocks a tenant whose credential is verified (the
outcome comes with the event, log 12), or counts the failure; OWL_LOCK drops every arm; OWL_STOP stops the tenant's cores, one
with a replay in progress after it, and is busy while one waits; OWL_RESUME resumes them; OWL_ARM and OWL_DISARM set and drop
the arm of a slot of the tenant; the reads and writes of a stopped slot, of memory and of the halt record move the bytes
through the data window. A thing that is not the tenant's ends them with status 1. Choices of the model on which it rests:
logs 12, 46. (27_trap R459, 27_trap R460, 27_trap R458, 27_trap R456, 28_link R477, 28_link R478) -/
def Obligations.OwlEvents : Prop :=
  ∀ (s : State),
    let o := s.owl
    let b := s.arg.b
    let cmd := fun (op : Nat) => if b = 1 then o.cmd else setSlice (s.arg.w &&& owlMask) 7 0 op
    let fails := fun (e : Instr) (op m : Nat) => Happens e s { s with owl := { o with cmd := setSlice (cmd op) 63 56 m } }
    let taken := fun (op : Nat) => { s with owl := { o with cmd := cmd op } }
    let done := fun (t : State) (op : Nat) => t.owl.cmd = setSlice (cmd op) 63 56 0
    (∀ op e, owlEvent op = some e →
      (o.cmd.getLsbD 63 = true → b ≠ 1 → Happens e s s) ∧
      (o.cmd.getLsbD 63 = false ∨ b = 1 → accepted s 21 = false → op ≠ 1 → fails e op 1) ∧
      (o.cmd.getLsbD 63 = false ∨ b = 1 → accepted s 21 = true → 2 < op → o.st ≠ 2 → fails e op 2)) ∧
    (o.cmd.getLsbD 63 = false ∨ b = 1 →
      (let bs := s.arg.bytes.take 2048;
       ∃ t, Happens .owlSpdmExchange s t ∧ done t 1 ∧ t.mem = s.mem ∧ memBytes t.owl.data 0 bs.length = bs ∧ t.owl.len = BitVec.ofNat 64 bs.length ∧
         (s.arg.a = 1 → o.st = 0 → t.owl.st = 1 ∧ t.slots = s.slots) ∧ (s.arg.a = 2 → t.owl.st = 0) ∧
         (s.arg.a ≠ 2 → ¬ (s.arg.a = 1 ∧ o.st = 0) → t.owl.st = o.st ∧ t.slots = s.slots)) ∧
      (accepted s 21 = true →
        (o.st ≠ 1 → fails .owlUnlock 2 2) ∧
        (o.st = 1 → s.arg.a = 1 → ∃ t, Happens .owlUnlock s t ∧ done t 2 ∧ t.owl.st = 2 ∧ t.owl.tenant = slice (cmd 2) 47 40 ∧
          t.owl.unlocks = o.unlocks ++ [slice (cmd 2) 47 40] ∧ t.owl.fails = o.fails ∧ t.slots = s.slots ∧ t.mem = s.mem) ∧
        (o.st = 1 → s.arg.a ≠ 1 → ∃ t, Happens .owlUnlock s t ∧ t.owl.cmd = setSlice (cmd 2) 63 56 1 ∧ t.owl.st = 1 ∧
          t.owl.fails = Nat.min (o.fails + 1) (2 ^ 32 - 1) ∧ t.slots = s.slots ∧ t.mem = s.mem))) ∧
    (o.cmd.getLsbD 63 = false ∨ b = 1 → accepted s 21 = true → o.st = 2 →
      let cs := tenantCores s o.tenant
      (∃ t, Happens .owlLock s t ∧ done t 3 ∧ t.owl.st = 0 ∧ t.mem = s.mem ∧ ∀ j, (t.slot j).armed = false) ∧
      (∃ t, Happens .owlStop s t ∧ t.owl.cmd = setSlice (cmd 4) 63 56 (if (tenantCtxs s o.tenant).any (partitionHalting t) then 0x80 else 0) ∧
        t.mem = s.mem ∧ (∀ c ∈ cs, (t.core c).stopped = true ∨ (t.core c).halting.isSome = true) ∧
        (∀ c ∈ cs, (s.core c).halting = none → stopAwaits s c = false → (t.core c).stopped = true) ∧ ∀ c, c ∉ cs → t.core c = s.core c) ∧
      (∃ t, Happens .owlResume s t ∧ done t 5 ∧ t.mem = s.mem ∧ (∀ c ∈ cs, (t.core c).stopped = false ∧ (t.core c).halting = none) ∧
        ∀ c, c ∉ cs → t.core c = s.core c) ∧
      (∀ e op on, (e, op, on) ∈ [(Instr.owlArm, 6, true), (.owlDisarm, 7, false)] →
        let j := owlSlot (taken op)
        (slotOf s o.tenant j = false → fails e op 1) ∧
        (slotOf s o.tenant j = true → ∃ t, Happens e s t ∧ done t op ∧ t.slot j = { s.slot j with armed := on } ∧
          (∀ i, i ≠ j → t.slot i = s.slot i) ∧ t.mem = s.mem)) ∧
      (let j := owlSlot (taken 8);
       (slotOf s o.tenant j = false ∨ isStopped (s.slot j) = false → fails .owlReadSlot 8 1) ∧
       (slotOf s o.tenant j = true → isStopped (s.slot j) = true → ∃ t, Happens .owlReadSlot s t ∧ done t 8 ∧ t.slots = s.slots ∧ t.mem = s.mem ∧
         memBytes t.owl.data 0 1664 = slotArea (s.slot j) (wasParked (s.slot j)) (slotNo j))) ∧
      (let j := owlSlot (taken 9);
       let bs := memBytes o.data 0 1664;
       (slotOf s o.tenant j = false ∨ isStopped (s.slot j) = false → fails .owlWriteSlot 9 1) ∧
       (slotOf s o.tenant j = true → isStopped (s.slot j) = true → ∃ t, Happens .owlWriteSlot s t ∧ done t 9 ∧ t.mem = s.mem ∧
         (t.slot j).pc = dword bs 1552 ∧ (∀ n, 0 < n → n < 32 → (t.slot j).rg n = dword bs (128 + 8 * n)) ∧
         (∀ n, n < 16 → (t.slot j).rv n = vregOfBytes ((bs.drop (384 + 64 * n)).take 64)) ∧ isStopped (t.slot j) = true ∧
         ∀ i, i ≠ j → t.slot i = s.slot i)) ∧
      (∀ e op, (e, op) ∈ [(Instr.owlReadMemory, 10), (.owlWriteMemory, 11)] →
        (o.len.toNat = 0 ∨ 2048 < o.len.toNat → fails e op 1) ∧
        (0 < o.len.toNat → o.len.toNat ≤ 2048 → localBase ≤ o.addr.toNat → owlCore (taken op) ∉ cs → fails e op 1)) ∧
      (∀ c off m, 0 < m → m ≤ 2048 → o.len.toNat = m → o.addr.toNat = localBase + off → off + m ≤ (s.core c).spsz ∨ (0x7c000 ≤ off ∧ off + m ≤ 0x80000) → c ∈ cs →
        (c = owlCore (taken 10) → ∃ t, Happens .owlReadMemory s t ∧ done t 10 ∧ t.mem = s.mem ∧ t.cores = s.cores ∧
          memBytes t.owl.data 0 m = memBytes (s.core c).arr off m) ∧
        (c = owlCore (taken 11) → ∃ t, Happens .owlWriteMemory s t ∧ done t 11 ∧ t.mem = s.mem ∧
          (off + m ≤ 0x7c000 → memBytes (t.core c).arr off m = memBytes o.data 0 m) ∧
          (∀ i < m, memByte (t.core c).arr (off + i) = (arrayByte (off + i) (memByte o.data i)).getD (memByte (s.core c).arr (off + i))) ∧
          (∀ a, a < off ∨ off + m ≤ a → memByte (t.core c).arr a = memByte (s.core c).arr a) ∧ ∀ d, d ≠ c → t.core d = s.core d)) ∧
      (∀ m, 0 < m → m ≤ 2048 → o.len.toNat = m → ∀ pa u,
        (owlPlaces false o.tenant 3 o.addr.toNat m (taken 10) = (some [(.mem pa, m)], u) → ∀ bs t, homeBytes pa m u = (bs, t) →
          ∃ t', Happens .owlReadMemory s t' ∧ t' = { t with owl := t'.owl } ∧ memBytes t'.owl.data 0 bs.length = bs) ∧
        (owlPlaces true o.tenant 3 o.addr.toNat m (taken 11) = (some [(.mem pa, m)], u) →
          ∃ t, Happens .owlWriteMemory s t ∧ t = { homePutBytes pa (memBytes u.owl.data 0 m) u with owl := t.owl })) ∧
      (let c := owlCore (taken 12);
       (c ∉ cs → fails .owlReadHaltRecord 12 1) ∧
       (c ∈ cs → ∃ t, Happens .owlReadHaltRecord s t ∧ done t 12 ∧ t.mem = s.mem ∧ t.cores = s.cores ∧
         memBytes t.owl.data 0 64 = memBytes (s.core c).arr 0x7c040 64)))

/-- A package reset leaves every field at reset but the defect map in flash (and the model's own inputs). A start-up with good
firmware offers the features and retires units that fail their test; with bad firmware it stays in recovery. A droop stretches
one cluster's clock and nothing else, heat every clock; THERMAL_SHUTDOWN leaves the package off, a reset package is not.
Without a good start-up only the recovery mailbox is there, and a virtual function reads zero outside its registers. The lock
of the features stays; an accepted feature is one that is offered. A weight of 0 changes nothing. An enabled port keeps its
configuration. A used stream entry cannot be written. A port that is off discards a payload, as one of another job does not
accept it; a payload stands in the queue and is delivered in the order of its stream's numbers; kinds other than 1 to 4 are
discarded and counted. Choices of the model on which it rests: logs 3, 4, 12, 18, 34, 51, 58. (00_scope R5, 23_queue R412,
28_link R481, 28_link R482, 28_link R483, 28_link R485, 28_link R486, 28_link R487, 28_link R470, 28_link R471, 28_link R472,
28_link R476) -/
def Obligations.PackageEvents : Prop :=
  ∀ (s : State),
    let k := s.arg.k
    let a := s.arg.a
    let b := s.arg.b
    let w := s.arg.w
    let fresh : State := { State.reset with defect := s.defect, inputs := s.inputs, sentOut := s.sentOut, free := s.free }
    let soonMsg := fun (t : State) (m : Msg) => (s.mcyc + 17, m) ∈ t.inflight
    Happens .packageReset s fresh ∧
    (a ≠ 1 → Happens .powerUpSequence s { fresh with power := { fresh.power with boot := 1 } }) ∧
    (a = 1 → ∃ t, Happens .powerUpSequence s t ∧ t.power.boot = 2 ∧ t.mreg 0 = 0x3fffff#64 ∧ t.slots = [] ∧ t.mem = [] ∧
      (∀ u ∈ s.arg.l, unitExists u = true → (retiredWord t (unitOctet u)).getLsbD (retireBit u) = true) ∧
      (s.arg.l = [] → t.defect = if b = 1 then s.defect else [])) ∧
    (∃ t, Happens .supplyDroopStretch s t ∧ t = { s with clusters := t.clusters } ∧ ∀ c, t.cluster c =
      if c = k then { s.cluster c with stretched := b != 0 } else s.cluster c) ∧
    (∃ t, Happens .thermalThrottle s t ∧ t.power.throttled = (b != 0) ∧ (∀ c, c < 32 → (t.cluster c).stretched = (b != 0)) ∧
      t.slots = s.slots ∧ t.mem = s.mem ∧ t.cores = s.cores) ∧
    (∃ t, Happens .thermalShutdown s t ∧ t.power.boot = 3 ∧ t.inputs = s.inputs ∧
      ((∀ m ∈ s.inputs, m.ev ≠ .powerUpSequence) → PoweredOff t)) ∧
    State.reset.power.boot = 0 ∧ ¬ PoweredOff State.reset ∧
    (∃ t, Happens .portLinkTrained s t ∧ (t.port k).up = (b != 0) ∧ (t.mreg (portReg k + 8)).getLsbD 63 = (b != 0) ∧
      (t.port k).queue = (s.port k).queue ∧ ∀ q, q ≠ k → t.port q = s.port q) ∧
    (s.arg.c ≠ 0 → ∀ e ∈ [Instr.featlockWrite, .tweightWrite, .portcfgWrite, .streamTableWrite], Happens e s s) ∧
    (s.arg.c ≠ 0 → b ≠ 1 → b ≠ 2 → Happens .registerWrite s s) ∧
    (b = 2 → Happens .registerWrite s (s.atOnce [registerMsg (a / 8 * 8) (registerMerge a s.arg.bytes s)])) ∧
    (∀ n off, (s.power.boot ≠ 2 → hostRead n off s = (if n = 0 ∧ s.power.boot = 1 ∧ off = 0 then s.power.mailbox else 0, s)) ∧
      (s.power.boot = 2 → 0 < n → n < 65 → (∀ i c, tenantRegister off = some i → tfind s.ctxs i = some c → c.tenant + 1 ≠ n ∨ c.hv = true) →
        hostRead n off s = (0, s))) ∧
    (s.arg.c = 0 →
      (∃ t, Happens .featlockWrite s t ∧ t.mreg 0x40 = (s.mreg 0x40 ||| w) &&& 1#64 ∧ soonMsg t (evt .tenantTurn 0 0 0) ∧
        ∀ r, r ≠ 0x40 → t.mreg r = s.mreg r) ∧
      (slice w 7 0 = 0 → Happens .tweightWrite s s) ∧
      (slice w 7 0 ≠ 0 → ∃ t, Happens .tweightWrite s t ∧ t.mreg (0x30000 + 8 * k) = BitVec.ofNat 64 (slice w 7 0) ∧
        ∀ r, r ≠ 0x30000 + 8 * k → t.mreg r = s.mreg r) ∧
      (let r := portReg k;
       ((s.mreg r).getLsbD 3 = true → ∃ t, Happens .portcfgWrite s t ∧ (t.mreg r).getLsbD 3 = w.getLsbD 3 ∧
         ∀ j, j ≠ 3 → (t.mreg r).getLsbD j = (s.mreg r).getLsbD j) ∧
       ((s.mreg r).getLsbD 3 = false → ∃ t, Happens .portcfgWrite s t ∧ (t.mreg r).getLsbD 3 = w.getLsbD 3 ∧
         slice (t.mreg r) 39 24 = slice w 39 24 ∧ slice (t.mreg r) 1 0 =
           if (slice w 1 0 = 1 ∧ accepted s 17 = true) ∨ (slice w 1 0 = 2 ∧ accepted s 18 = true) then slice w 1 0 else 0)) ∧
      (entryUsed s k = true → Happens .streamTableWrite s s) ∧
      (entryUsed s k = false → a < 2 → ∃ t, Happens .streamTableWrite s t ∧ t.mreg (0x38000 + 16 * k + 8 * a) =
        w &&& (if a = 0 then 0xffffffffffff000f#64 else 0xffffffffffffffdf#64)) ∧
      (b ≠ 1 → b ≠ 2 → s.power.boot = 1 → (a ≠ 0 → Happens .registerWrite s s) ∧
        (a = 0 → Happens .registerWrite s { s with power := { s.power with mailbox := w } })) ∧
      (b ≠ 1 → b ≠ 2 → s.power.boot ≠ 1 →
        (a < 0x20 → Happens .registerWrite s s) ∧
        (0x20 ≤ a → a < 0x40 → (s.mreg 0x40).getLsbD 0 = true → Happens .registerWrite s s) ∧
        (0x20 ≤ a → a < 0x40 → (s.mreg 0x40).getLsbD 0 = false → Happens .registerWrite s (s.setMreg a (w &&& s.mreg (a - 0x20)))) ∧
        (a = 0x100 → Happens .registerWrite s (if (s.mreg 0x100).getLsbD 63 then s else keepFields 0x100 0x00fffffffffffeff#64 w s)) ∧
        (a = 0x108 → Happens .registerWrite s (s.setMreg a w)) ∧
        (a = 0x200 → Happens .registerWrite s (if (s.mreg 0x200).getLsbD 63 then s else keepFields 0x200 0xff00000000ff#64 w s)))) ∧
    (b = 1 →
      (a = 0x008 → Happens .registerWrite s { s with owl := { s.owl with addr := w } }) ∧
      (a = 0x010 → Happens .registerWrite s { s with owl := { s.owl with len := w } }) ∧
      (0x800 ≤ a → a < 0x1000 → ∃ t, Happens .registerWrite s t ∧ ofBytesLE (memBytes t.owl.data (a - 0x800) 8) = w.toNat ∧
        ∀ e, e < a - 0x800 ∨ a - 0x800 + 8 ≤ e → memByte t.owl.data e = memByte s.owl.data e) ∧
      (a = 0 → s.owl.cmd.getLsbD 63 = true → Happens .registerWrite s s) ∧
      (a = 0 → s.owl.cmd.getLsbD 63 = false →
        (slice w 7 0 = 0 ∨ 12 < slice w 7 0 → Happens .registerWrite s
          { s with owl := { s.owl with cmd := setSlice (w &&& owlMask) 63 56 (if accepted s 21 = true then 3 else 1) } }) ∧
        ∀ e, owlEvent (slice w 7 0) = some e → ∃ t, Happens .registerWrite s t ∧ t.owl.cmd = setSlice (w &&& owlMask) 63 56 0x80 ∧
          (2 < slice w 7 0 → soonMsg t ⟨e, { Arg.reset with b := 1 }⟩))) ∧
    (let x := s.port k;
     let y := payloadOf s.arg.bytes;
     let late := 2 ^ 31 ≤ (y.seq + 2 ^ 32 - tget x.next y.flow 0) % 2 ^ 32;
     let on := portOn s k = true ∧ a = portJob s k
     (¬ on → Happens .payloadReceive s s) ∧
     (on → 4096 ≤ x.queue.length → Happens .payloadReceive s (s.post ⟨.payloadReceive, s.arg⟩)) ∧
     (on → x.queue.length < 4096 → late ∨ (∃ z ∈ x.queue, z.flow = y.flow ∧ z.seq = y.seq) → Happens .payloadReceive s s) ∧
     (on → x.queue.length < 4096 → ¬ late → (∀ z ∈ x.queue, ¬ (z.flow = y.flow ∧ z.seq = y.seq)) →
       ∃ t, Happens .payloadReceive s t ∧ (t.port k).queue = x.queue ++ [y] ∧ (t.port k).next = x.next ∧
         (y.seq = tget x.next y.flow 0 → soonMsg t (evt .streamPayloadDelivery k 0 0)))) ∧
    (let x := s.port k;
     (x.queue.find? (isNext x) = none → Happens .streamPayloadDelivery s s) ∧
     ∀ y, x.queue.find? (isNext x) = some y →
       (y.kind = 0 ∨ 3 < y.kind → ∃ t, Happens .streamPayloadDelivery s t ∧ (t.port k).queue = x.queue.erase y ∧
         tget (t.port k).next y.flow 0 = (y.seq + 1) % 2 ^ 32 ∧ (t.port k).drops = x.drops + (if y.kind = 4 then 0 else 1)) ∧
       ∀ u, (deliverPayload k y s = (true, u) → Happens .streamPayloadDelivery s (deliverDue k (u.onPort k fun z =>
             { z with queue := z.queue.erase y, next := tset z.next y.flow ((y.seq + 1) % 2 ^ 32) }))) ∧
         (deliverPayload k y s = (false, u) → Happens .streamPayloadDelivery s (deliverDue k (u.onPort k fun z =>
             { z with queue := z.queue.erase y ++ [y] }))))
end

