-- ==== Sys2Proof/Laws/Decode.lean ====
section
/-! SUPPORT. Fields of a word put together: which field an extract of it reads. -/

namespace Sys2Proof

variable {m n k : Nat}

/-- An extract inside the low field. -/
theorem cat_extract_low (x : BitVec m) (y : BitVec n) (h : m + n = k) (s l : Nat) (hs : s + l ≤ n) :
    (cat x y h).extractLsb' s l = y.extractLsb' s l := by
  subst h
  ext i hi
  have : s + i < n := by omega
  simp [cat, BitVec.getElem_extractLsb', BitVec.getLsbD_append, this]

/-- An extract inside the high field. -/
theorem cat_extract_high (x : BitVec m) (y : BitVec n) (h : m + n = k) (s l : Nat) (hs : n ≤ s) :
    (cat x y h).extractLsb' s l = x.extractLsb' (s - n) l := by
  subst h
  ext i hi
  have h1 : ¬ s + i < n := by omega
  have h2 : s + i - n = s - n + i := by omega
  simp [cat, BitVec.getElem_extractLsb', BitVec.getLsbD_append, h1, h2]

/-- A bit of the low field. -/
theorem bit_cat_low (x : BitVec m) (y : BitVec n) (h : m + n = k) (j : Nat) (hj : j < n) :
    bit (cat x y h) j = bit y j := by
  subst h
  simp [cat, bit, BitVec.getLsbD_append, hj]

/-- A bit of the high field. -/
theorem bit_cat_high (x : BitVec m) (y : BitVec n) (h : m + n = k) (j : Nat) (hj : n ≤ j) :
    bit (cat x y h) j = bit x (j - n) := by
  subst h
  have : ¬ j < n := by omega
  simp [cat, bit, BitVec.getLsbD_append, this]

/-- A field of one bit. -/
theorem bit_ofBool_zero (b : Bool) : bit (BitVec.ofBool b) 0 = b := by cases b <;> rfl

/-- Codes and names are inverse to each other. -/
theorem Cond.ofCode_code (c : Cond) : Cond.ofCode c.code = some c := by cases c <;> rfl
theorem BCond.ofCode_code (c : BCond) : BCond.ofCode c.code = some c := by cases c <;> rfl
theorem Rm.ofCode_code (c : Rm) : Rm.ofCode c.code = some c := by cases c <;> rfl
theorem Fmt.ofCode_code (c : Fmt) : Fmt.ofCode c.code = some c := by cases c <;> rfl
theorem Sz.ofCode_code (c : Sz) : Sz.ofCode c.code = some c := by cases c <;> rfl
theorem LdKind.ofCode_code (c : LdKind) : LdKind.ofCode c.code = some c := by cases c <;> rfl
theorem AmoOp.ofCode_code (c : AmoOp) : AmoOp.ofCode c.code = some c := by cases c <;> rfl
theorem RedOp.ofCode_code (c : RedOp) : RedOp.ofCode c.code = some c := by cases c <;> rfl
theorem VRedOp.ofCode_code (c : VRedOp) : VRedOp.ofCode c.code = some c := by cases c <;> rfl
theorem Lanes.ofCode_code (c : Lanes) : Lanes.ofCode c.code = some c := by cases c <;> rfl
theorem ExtW.ofCode_code (c : ExtW) : ExtW.ofCode c.code = some c := by cases c <;> rfl

/-- Bit i of two fields side by side. -/
theorem append_bit (x : BitVec m) (y : BitVec n) (i : Nat) :
    (x ++ y).getLsbD i = if i < n then y.getLsbD i else x.getLsbD (i - n) := BitVec.getLsbD_append

/-- The first four bytes of a list are the word that they hold. -/
theorem wordOfBytes_bytesOfWord (w : BitVec 32) (rest : List (BitVec 8)) : wordOfBytes (bytesOfWord w ++ rest) = w := by
  apply BitVec.eq_of_getLsbD_eq
  intro i hi
  refine (append_bit (m := 24) (n := 8) _ _ i).trans ?_
  split
  · simp_all
  · refine (append_bit (m := 16) (n := 8) _ _ _).trans ?_
    split
    · rename_i h0 h1
      simp [h1, show 8 + (i - 8) = i by omega]
    · refine (append_bit (m := 8) (n := 8) _ _ _).trans ?_
      split
      · rename_i h0 h1 h2
        simp [h2, show 16 + (i - 8 - 8) = i by omega]
      · rename_i h0 h1 h2
        simp [show i - 8 - 8 - 8 < 8 by omega, show 24 + (i - 8 - 8 - 8) = i by omega]

end Sys2Proof
end

