-- ==== Sys2Proof/Laws/Table.lean ====
section
/-! SUPPORT. Laws of sparse tables and of memory: a read after a write, and the canonical form that every memory operation keeps. -/

namespace Sys2Proof.Machine

/-! ### Reading after writing -/

variable {α : Type}

theorem tfind_cons (e : Nat × α) (t : Tbl α) (k : Nat) :
    tfind (e :: t) k = if e.1 = k then some e.2 else tfind t k := by
  by_cases h : e.1 = k <;> simp [tfind, h]

theorem tfind_terase_self (t : Tbl α) (k : Nat) : tfind (terase t k) k = none := by
  induction t with
  | nil => rfl
  | cons e t ih =>
    by_cases h : e.1 = k
    · simpa [terase, h] using ih
    · have : terase (e :: t) k = e :: terase t k := by simp [terase, h]
      rw [this, tfind_cons, if_neg h, ih]

theorem tfind_terase_ne (t : Tbl α) {k j : Nat} (h : j ≠ k) : tfind (terase t k) j = tfind t j := by
  induction t with
  | nil => rfl
  | cons e t ih =>
    by_cases hk : e.1 = k
    · have : terase (e :: t) k = terase t k := by simp [terase, hk]
      rw [this, ih, tfind_cons, if_neg (by omega)]
    · have : terase (e :: t) k = e :: terase t k := by simp [terase, hk]
      rw [this, tfind_cons, tfind_cons, ih]

theorem tfind_tinsert_self (t : Tbl α) (k : Nat) (a : α) (h : tfind t k = none) : tfind (tinsert t k a) k = some a := by
  induction t with
  | nil => simp [tinsert, tfind_cons]
  | cons e t ih =>
    rw [tfind_cons] at h
    by_cases hk : e.1 = k
    · simp [hk] at h
    · rw [if_neg hk] at h
      unfold tinsert
      split
      · simp [tfind_cons]
      · rw [tfind_cons, if_neg hk, ih h]

theorem tfind_tinsert_ne (t : Tbl α) {k j : Nat} (a : α) (h : j ≠ k) : tfind (tinsert t k a) j = tfind t j := by
  induction t with
  | nil => rw [tinsert, tfind_cons, if_neg (Ne.symm h)]
  | cons e t ih =>
    unfold tinsert
    split
    · rw [tfind_cons, if_neg (Ne.symm h)]
    · rw [tfind_cons, tfind_cons, ih]

@[simp] theorem tfind_tset_self (t : Tbl α) (k : Nat) (a : α) : tfind (tset t k a) k = some a :=
  tfind_tinsert_self _ _ _ (tfind_terase_self t k)

@[simp] theorem tfind_tset_ne (t : Tbl α) {k j : Nat} (a : α) (h : j ≠ k) : tfind (tset t k a) j = tfind t j := by
  rw [tset, tfind_tinsert_ne _ _ h, tfind_terase_ne _ h]

@[simp] theorem tget_tset_self (t : Tbl α) (k : Nat) (a d : α) : tget (tset t k a) k d = a := by simp [tget]

@[simp] theorem tget_tset_ne (t : Tbl α) {k j : Nat} (a d : α) (h : j ≠ k) : tget (tset t k a) j d = tget t j d := by
  simp [tget, h]

@[simp] theorem tget_terase_self (t : Tbl α) (k : Nat) (d : α) : tget (terase t k) k d = d := by
  simp [tget, tfind_terase_self]

@[simp] theorem tget_terase_ne (t : Tbl α) {k j : Nat} (d : α) (h : j ≠ k) : tget (terase t k) j d = tget t j d := by
  simp [tget, tfind_terase_ne t h]

/-! ### Bytes -/

@[simp] theorem memByte_memSet_self (m : Mem) (a : Nat) (b : BitVec 8) : memByte (memSet m a b) a = b := by
  unfold memByte memSet
  split
  · rename_i h; rw [tget_terase_self, h]
  · exact tget_tset_self ..

@[simp] theorem memByte_memSet_ne (m : Mem) {a c : Nat} (b : BitVec 8) (h : c ≠ a) :
    memByte (memSet m a b) c = memByte m c := by
  unfold memByte memSet
  split
  · exact tget_terase_ne _ _ h
  · exact tget_tset_ne _ _ _ h

/-- A write leaves every byte outside it alone. -/
theorem memByte_memPut_outside (m : Mem) (a c : Nat) (bs : List (BitVec 8)) (h : c < a ∨ a + bs.length ≤ c) :
    memByte (memPut m a bs) c = memByte m c := by
  induction bs generalizing m a with
  | nil => rfl
  | cons b bs ih =>
    simp only [List.length_cons] at h
    rw [memPut, ih _ _ (by omega), memByte_memSet_ne _ _ (by omega)]

/-- A write puts its bytes. -/
theorem memByte_memPut_inside (m : Mem) (a i : Nat) (bs : List (BitVec 8)) (h : i < bs.length) :
    memByte (memPut m a bs) (a + i) = bs[i] := by
  induction bs generalizing m a i with
  | nil => simp at h
  | cons b bs ih =>
    cases i with
    | zero => simp [memPut, memByte_memPut_outside]
    | succ i =>
      have := ih (memSet m a b) (a + 1) i (by simpa using h)
      rw [memPut, show a + (i + 1) = a + 1 + i by omega, this]
      rfl

/-- The bytes just written are read back. -/
theorem memBytes_memPut (m : Mem) (a : Nat) (bs : List (BitVec 8)) : memBytes (memPut m a bs) a bs.length = bs := by
  induction bs generalizing m a with
  | nil => rfl
  | cons b bs ih =>
    rw [List.length_cons, memBytes, memPut, ih, memByte_memPut_outside _ _ _ _ (by omega), memByte_memSet_self]

/-! ### The canonical form -/

/-- Strictly rising, as a relation. -/
theorem rising_cons_cons (a b : Nat) (t : List Nat) : rising (a :: b :: t) = (decide (a < b) && rising (b :: t)) := rfl

theorem rising_cons (a : Nat) (t : List Nat) : rising (a :: t) = true ↔ (∀ b ∈ t, a < b) ∧ rising t = true := by
  induction t generalizing a with
  | nil => simp [rising]
  | cons b t ih =>
    rw [rising_cons_cons, Bool.and_eq_true, decide_eq_true_iff]
    constructor
    · rintro ⟨hab, hr⟩
      refine ⟨fun c hc => ?_, hr⟩
      rcases List.mem_cons.1 hc with rfl | hc
      · exact hab
      · have := ((ih b).1 hr).1 c hc; omega
    · rintro ⟨hall, hr⟩
      exact ⟨hall b (List.mem_cons_self ..), hr⟩

/-- The keys of a table rise strictly. -/
def Keyed (t : Tbl α) : Prop := rising (t.map (·.1)) = true

theorem keyed_nil : Keyed ([] : Tbl α) := rfl

theorem keyed_cons (e : Nat × α) (t : Tbl α) : Keyed (e :: t) ↔ (∀ f ∈ t, e.1 < f.1) ∧ Keyed t := by
  unfold Keyed
  rw [List.map_cons, rising_cons]
  simp

theorem keyed_filter (t : Tbl α) (p : Nat × α → Bool) (h : Keyed t) : Keyed (t.filter p) := by
  induction t with
  | nil => exact h
  | cons e t ih =>
    rw [keyed_cons] at h
    rw [List.filter_cons]
    split
    · exact (keyed_cons _ _).2 ⟨fun f hf => h.1 f (List.mem_of_mem_filter hf), ih h.2⟩
    · exact ih h.2

theorem keyed_terase (t : Tbl α) (k : Nat) (h : Keyed t) : Keyed (terase t k) := keyed_filter t _ h

theorem mem_tinsert (t : Tbl α) (k : Nat) (a : α) (f : Nat × α) (h : f ∈ tinsert t k a) : f = (k, a) ∨ f ∈ t := by
  induction t with
  | nil => simpa [tinsert] using h
  | cons e t ih =>
    unfold tinsert at h
    split at h
    · simpa using h
    · rcases List.mem_cons.1 h with rfl | h
      · simp
      · rcases ih h with h | h <;> simp [h]

theorem keyed_tinsert (t : Tbl α) (k : Nat) (a : α) (h : Keyed t) (hk : tfind t k = none) : Keyed (tinsert t k a) := by
  induction t with
  | nil => rfl
  | cons e t ih =>
    rw [keyed_cons] at h
    rw [tfind_cons] at hk
    by_cases hek : e.1 = k
    · simp [hek] at hk
    · rw [if_neg hek] at hk
      unfold tinsert
      split
      · rename_i hlt
        refine (keyed_cons _ _).2 ⟨fun f hf => ?_, (keyed_cons _ _).2 h⟩
        rcases List.mem_cons.1 hf with rfl | hf
        · exact hlt
        · have := h.1 f hf; simp only; omega
      · rename_i hlt
        refine (keyed_cons _ _).2 ⟨fun f hf => ?_, ih h.2 hk⟩
        rcases mem_tinsert _ _ _ _ hf with rfl | hf
        · simp only; omega
        · exact h.1 f hf

theorem keyed_tset (t : Tbl α) (k : Nat) (a : α) (h : Keyed t) : Keyed (tset t k a) :=
  keyed_tinsert _ _ _ (keyed_terase t k h) (tfind_terase_self t k)

theorem Memory.wf_iff (m : Mem) : Memory.wf m = true ↔ Keyed m ∧ ∀ e ∈ m, e.2 ≠ 0#8 := by
  simp [Memory.wf, Keyed]

theorem Memory.wf_nil : Memory.wf [] = true := rfl

/-- One byte written keeps the canonical form. -/
theorem memSet_wf (m : Mem) (a : Nat) (b : BitVec 8) (h : Memory.wf m = true) : Memory.wf (memSet m a b) = true := by
  rw [Memory.wf_iff] at h ⊢
  unfold memSet
  split
  · exact ⟨keyed_terase _ _ h.1, fun e he => h.2 e (List.mem_of_mem_filter he)⟩
  · rename_i hb
    refine ⟨keyed_tset _ _ _ h.1, fun e he => ?_⟩
    rcases mem_tinsert _ _ _ _ he with rfl | he
    · exact hb
    · exact h.2 e (List.mem_of_mem_filter he)

/-- Bytes written keep the canonical form. -/
theorem memPut_wf (m : Mem) (a : Nat) (bs : List (BitVec 8)) (h : Memory.wf m = true) : Memory.wf (memPut m a bs) = true := by
  induction bs generalizing m a with
  | nil => exact h
  | cons b bs ih => exact ih _ _ (memSet_wf m a b h)

theorem keyed_map_shift (t : Tbl α) (f : Nat → Nat) (h : Keyed t) (hf : ∀ e ∈ t, ∀ g ∈ t, e.1 < g.1 → f e.1 < f g.1) :
    Keyed (t.map fun e => (f e.1, e.2)) := by
  induction t with
  | nil => exact h
  | cons e t ih =>
    rw [keyed_cons] at h
    rw [List.map_cons, keyed_cons]
    refine ⟨fun g hg => ?_, ih h.2 fun x hx y hy => hf x (by simp [hx]) y (by simp [hy])⟩
    obtain ⟨x, hx, rfl⟩ := List.mem_map.1 hg
    exact hf e (by simp) x (by simp [hx]) (h.1 x hx)

/-- A range cut out is in canonical form. -/
theorem memCut_wf (m : Mem) (a n : Nat) (h : Memory.wf m = true) : Memory.wf (memCut m a n) = true := by
  rw [Memory.wf_iff] at h ⊢
  refine ⟨keyed_map_shift _ (fun k => k - a) (keyed_filter _ _ h.1) ?_, ?_⟩
  · intro e he g _ hlt
    have := (List.mem_filter.1 he).2
    simp only [Bool.and_eq_true, decide_eq_true_eq] at this
    omega
  · intro e he
    obtain ⟨x, hx, rfl⟩ := List.mem_map.1 he
    exact h.2 x (List.mem_of_mem_filter hx)

theorem keyed_append (t u : Tbl α) (ht : Keyed t) (hu : Keyed u) (h : ∀ e ∈ t, ∀ f ∈ u, e.1 < f.1) : Keyed (t ++ u) := by
  induction t with
  | nil => exact hu
  | cons e t ih =>
    rw [keyed_cons] at ht
    rw [List.cons_append, keyed_cons]
    refine ⟨fun f hf => ?_, ih ht.2 fun x hx => h x (by simp [hx])⟩
    rcases List.mem_append.1 hf with hf | hf
    · exact ht.1 f hf
    · exact h e (by simp) f hf

/-- A range replaced keeps the canonical form. -/
theorem memBlit_wf (m src : Mem) (a n : Nat) (h : Memory.wf m = true) (hs : Memory.wf src = true) :
    Memory.wf (memBlit m a n src) = true := by
  rw [Memory.wf_iff] at h hs ⊢
  refine ⟨?_, ?_⟩
  · refine keyed_append _ _ (keyed_append _ _ (keyed_filter _ _ h.1)
      (keyed_map_shift _ (fun k => a + k) (keyed_filter _ _ hs.1) (by intros; omega)) ?_) (keyed_filter _ _ h.1) ?_
    · intro e he f hf
      obtain ⟨x, _, rfl⟩ := List.mem_map.1 hf
      have := (List.mem_filter.1 he).2
      simp only [decide_eq_true_eq] at this
      simp only; omega
    · intro e he f hf
      have hf := (List.mem_filter.1 hf).2
      simp only [decide_eq_true_eq] at hf
      rcases List.mem_append.1 he with he | he
      · have := (List.mem_filter.1 he).2
        simp only [decide_eq_true_eq] at this
        omega
      · obtain ⟨x, hx, rfl⟩ := List.mem_map.1 he
        have := (List.mem_filter.1 hx).2
        simp only [decide_eq_true_eq] at this
        simp only; omega
  · intro e he
    rcases List.mem_append.1 he with he | he
    · rcases List.mem_append.1 he with he | he
      · exact h.2 e (List.mem_of_mem_filter he)
      · obtain ⟨x, hx, rfl⟩ := List.mem_map.1 he
        exact hs.2 x (List.mem_of_mem_filter hx)
    · exact h.2 e (List.mem_of_mem_filter he)

end Sys2Proof.Machine
end

