-- ==== Sys2Proof/Laws/State.lean ====
section
/-! SUPPORT. What each update of the state leaves of each field, and what reading a part gives after writing it. -/

namespace Sys2Proof.Machine

/-! ### Every update on every other field -/

variable (s : State)

/-! #### setSlot -/

@[simp] theorem State.setSlot_cores (k : Nat) (x : Slot) : (s.setSlot k x).cores = s.cores := rfl
@[simp] theorem State.setSlot_octets (k : Nat) (x : Slot) : (s.setSlot k x).octets = s.octets := rfl
@[simp] theorem State.setSlot_clusters (k : Nat) (x : Slot) : (s.setSlot k x).clusters = s.clusters := rfl
@[simp] theorem State.setSlot_dies (k : Nat) (x : Slot) : (s.setSlot k x).dies = s.dies := rfl
@[simp] theorem State.setSlot_mem (k : Nat) (x : Slot) : (s.setSlot k x).mem = s.mem := rfl
@[simp] theorem State.setSlot_home (k : Nat) (x : Slot) : (s.setSlot k x).home = s.home := rfl
@[simp] theorem State.setSlot_rdc (k : Nat) (x : Slot) : (s.setSlot k x).rdc = s.rdc := rfl
@[simp] theorem State.setSlot_work (k : Nat) (x : Slot) : (s.setSlot k x).work = s.work := rfl
@[simp] theorem State.setSlot_pinned (k : Nat) (x : Slot) : (s.setSlot k x).pinned = s.pinned := rfl
@[simp] theorem State.setSlot_changed (k : Nat) (x : Slot) : (s.setSlot k x).changed = s.changed := rfl
@[simp] theorem State.setSlot_mcyc (k : Nat) (x : Slot) : (s.setSlot k x).mcyc = s.mcyc := rfl
@[simp] theorem State.setSlot_watches (k : Nat) (x : Slot) : (s.setSlot k x).watches = s.watches := rfl
@[simp] theorem State.setSlot_ctxs (k : Nat) (x : Slot) : (s.setSlot k x).ctxs = s.ctxs := rfl
@[simp] theorem State.setSlot_deficits (k : Nat) (x : Slot) : (s.setSlot k x).deficits = s.deficits := rfl
@[simp] theorem State.setSlot_tenant (k : Nat) (x : Slot) : (s.setSlot k x).tenant = s.tenant := rfl
@[simp] theorem State.setSlot_lastQ (k : Nat) (x : Slot) : (s.setSlot k x).lastQ = s.lastQ := rfl
@[simp] theorem State.setSlot_kernels (k : Nat) (x : Slot) : (s.setSlot k x).kernels = s.kernels := rfl
@[simp] theorem State.setSlot_groups (k : Nat) (x : Slot) : (s.setSlot k x).groups = s.groups := rfl
@[simp] theorem State.setSlot_frontiers (k : Nat) (x : Slot) : (s.setSlot k x).frontiers = s.frontiers := rfl
@[simp] theorem State.setSlot_conns (k : Nat) (x : Slot) : (s.setSlot k x).conns = s.conns := rfl
@[simp] theorem State.setSlot_bars (k : Nat) (x : Slot) : (s.setSlot k x).bars = s.bars := rfl
@[simp] theorem State.setSlot_gbars (k : Nat) (x : Slot) : (s.setSlot k x).gbars = s.gbars := rfl
@[simp] theorem State.setSlot_trees (k : Nat) (x : Slot) : (s.setSlot k x).trees = s.trees := rfl
@[simp] theorem State.setSlot_flushes (k : Nat) (x : Slot) : (s.setSlot k x).flushes = s.flushes := rfl
@[simp] theorem State.setSlot_mgmt (k : Nat) (x : Slot) : (s.setSlot k x).mgmt = s.mgmt := rfl
@[simp] theorem State.setSlot_ports (k : Nat) (x : Slot) : (s.setSlot k x).ports = s.ports := rfl
@[simp] theorem State.setSlot_owl (k : Nat) (x : Slot) : (s.setSlot k x).owl = s.owl := rfl
@[simp] theorem State.setSlot_power (k : Nat) (x : Slot) : (s.setSlot k x).power = s.power := rfl
@[simp] theorem State.setSlot_defect (k : Nat) (x : Slot) : (s.setSlot k x).defect = s.defect := rfl
@[simp] theorem State.setSlot_quarantine (k : Nat) (x : Slot) : (s.setSlot k x).quarantine = s.quarantine := rfl
@[simp] theorem State.setSlot_stops (k : Nat) (x : Slot) : (s.setSlot k x).stops = s.stops := rfl
@[simp] theorem State.setSlot_spawns (k : Nat) (x : Slot) : (s.setSlot k x).spawns = s.spawns := rfl
@[simp] theorem State.setSlot_binders (k : Nat) (x : Slot) : (s.setSlot k x).binders = s.binders := rfl
@[simp] theorem State.setSlot_sentOut (k : Nat) (x : Slot) : (s.setSlot k x).sentOut = s.sentOut := rfl
@[simp] theorem State.setSlot_cur (k : Nat) (x : Slot) : (s.setSlot k x).cur = s.cur := rfl
@[simp] theorem State.setSlot_mark (k : Nat) (x : Slot) : (s.setSlot k x).mark = s.mark := rfl
@[simp] theorem State.setSlot_arg (k : Nat) (x : Slot) : (s.setSlot k x).arg = s.arg := rfl
@[simp] theorem State.setSlot_inflight (k : Nat) (x : Slot) : (s.setSlot k x).inflight = s.inflight := rfl
@[simp] theorem State.setSlot_inputs (k : Nat) (x : Slot) : (s.setSlot k x).inputs = s.inputs := rfl
@[simp] theorem State.setSlot_free (k : Nat) (x : Slot) : (s.setSlot k x).free = s.free := rfl
@[simp] theorem State.setSlot_turn (k : Nat) (x : Slot) : (s.setSlot k x).turn = s.turn := rfl

/-! #### onSlot -/

@[simp] theorem State.onSlot_cores (k : Nat) (f : Slot → Slot) : (s.onSlot k f).cores = s.cores := rfl
@[simp] theorem State.onSlot_octets (k : Nat) (f : Slot → Slot) : (s.onSlot k f).octets = s.octets := rfl
@[simp] theorem State.onSlot_clusters (k : Nat) (f : Slot → Slot) : (s.onSlot k f).clusters = s.clusters := rfl
@[simp] theorem State.onSlot_dies (k : Nat) (f : Slot → Slot) : (s.onSlot k f).dies = s.dies := rfl
@[simp] theorem State.onSlot_mem (k : Nat) (f : Slot → Slot) : (s.onSlot k f).mem = s.mem := rfl
@[simp] theorem State.onSlot_home (k : Nat) (f : Slot → Slot) : (s.onSlot k f).home = s.home := rfl
@[simp] theorem State.onSlot_rdc (k : Nat) (f : Slot → Slot) : (s.onSlot k f).rdc = s.rdc := rfl
@[simp] theorem State.onSlot_work (k : Nat) (f : Slot → Slot) : (s.onSlot k f).work = s.work := rfl
@[simp] theorem State.onSlot_pinned (k : Nat) (f : Slot → Slot) : (s.onSlot k f).pinned = s.pinned := rfl
@[simp] theorem State.onSlot_changed (k : Nat) (f : Slot → Slot) : (s.onSlot k f).changed = s.changed := rfl
@[simp] theorem State.onSlot_mcyc (k : Nat) (f : Slot → Slot) : (s.onSlot k f).mcyc = s.mcyc := rfl
@[simp] theorem State.onSlot_watches (k : Nat) (f : Slot → Slot) : (s.onSlot k f).watches = s.watches := rfl
@[simp] theorem State.onSlot_ctxs (k : Nat) (f : Slot → Slot) : (s.onSlot k f).ctxs = s.ctxs := rfl
@[simp] theorem State.onSlot_deficits (k : Nat) (f : Slot → Slot) : (s.onSlot k f).deficits = s.deficits := rfl
@[simp] theorem State.onSlot_tenant (k : Nat) (f : Slot → Slot) : (s.onSlot k f).tenant = s.tenant := rfl
@[simp] theorem State.onSlot_lastQ (k : Nat) (f : Slot → Slot) : (s.onSlot k f).lastQ = s.lastQ := rfl
@[simp] theorem State.onSlot_kernels (k : Nat) (f : Slot → Slot) : (s.onSlot k f).kernels = s.kernels := rfl
@[simp] theorem State.onSlot_groups (k : Nat) (f : Slot → Slot) : (s.onSlot k f).groups = s.groups := rfl
@[simp] theorem State.onSlot_frontiers (k : Nat) (f : Slot → Slot) : (s.onSlot k f).frontiers = s.frontiers := rfl
@[simp] theorem State.onSlot_conns (k : Nat) (f : Slot → Slot) : (s.onSlot k f).conns = s.conns := rfl
@[simp] theorem State.onSlot_bars (k : Nat) (f : Slot → Slot) : (s.onSlot k f).bars = s.bars := rfl
@[simp] theorem State.onSlot_gbars (k : Nat) (f : Slot → Slot) : (s.onSlot k f).gbars = s.gbars := rfl
@[simp] theorem State.onSlot_trees (k : Nat) (f : Slot → Slot) : (s.onSlot k f).trees = s.trees := rfl
@[simp] theorem State.onSlot_flushes (k : Nat) (f : Slot → Slot) : (s.onSlot k f).flushes = s.flushes := rfl
@[simp] theorem State.onSlot_mgmt (k : Nat) (f : Slot → Slot) : (s.onSlot k f).mgmt = s.mgmt := rfl
@[simp] theorem State.onSlot_ports (k : Nat) (f : Slot → Slot) : (s.onSlot k f).ports = s.ports := rfl
@[simp] theorem State.onSlot_owl (k : Nat) (f : Slot → Slot) : (s.onSlot k f).owl = s.owl := rfl
@[simp] theorem State.onSlot_power (k : Nat) (f : Slot → Slot) : (s.onSlot k f).power = s.power := rfl
@[simp] theorem State.onSlot_defect (k : Nat) (f : Slot → Slot) : (s.onSlot k f).defect = s.defect := rfl
@[simp] theorem State.onSlot_quarantine (k : Nat) (f : Slot → Slot) : (s.onSlot k f).quarantine = s.quarantine := rfl
@[simp] theorem State.onSlot_stops (k : Nat) (f : Slot → Slot) : (s.onSlot k f).stops = s.stops := rfl
@[simp] theorem State.onSlot_spawns (k : Nat) (f : Slot → Slot) : (s.onSlot k f).spawns = s.spawns := rfl
@[simp] theorem State.onSlot_binders (k : Nat) (f : Slot → Slot) : (s.onSlot k f).binders = s.binders := rfl
@[simp] theorem State.onSlot_sentOut (k : Nat) (f : Slot → Slot) : (s.onSlot k f).sentOut = s.sentOut := rfl
@[simp] theorem State.onSlot_cur (k : Nat) (f : Slot → Slot) : (s.onSlot k f).cur = s.cur := rfl
@[simp] theorem State.onSlot_mark (k : Nat) (f : Slot → Slot) : (s.onSlot k f).mark = s.mark := rfl
@[simp] theorem State.onSlot_arg (k : Nat) (f : Slot → Slot) : (s.onSlot k f).arg = s.arg := rfl
@[simp] theorem State.onSlot_inflight (k : Nat) (f : Slot → Slot) : (s.onSlot k f).inflight = s.inflight := rfl
@[simp] theorem State.onSlot_inputs (k : Nat) (f : Slot → Slot) : (s.onSlot k f).inputs = s.inputs := rfl
@[simp] theorem State.onSlot_free (k : Nat) (f : Slot → Slot) : (s.onSlot k f).free = s.free := rfl
@[simp] theorem State.onSlot_turn (k : Nat) (f : Slot → Slot) : (s.onSlot k f).turn = s.turn := rfl

/-! #### setCore -/

@[simp] theorem State.setCore_slots (c : Nat) (x : Core) : (s.setCore c x).slots = s.slots := rfl
@[simp] theorem State.setCore_octets (c : Nat) (x : Core) : (s.setCore c x).octets = s.octets := rfl
@[simp] theorem State.setCore_clusters (c : Nat) (x : Core) : (s.setCore c x).clusters = s.clusters := rfl
@[simp] theorem State.setCore_dies (c : Nat) (x : Core) : (s.setCore c x).dies = s.dies := rfl
@[simp] theorem State.setCore_mem (c : Nat) (x : Core) : (s.setCore c x).mem = s.mem := rfl
@[simp] theorem State.setCore_home (c : Nat) (x : Core) : (s.setCore c x).home = s.home := rfl
@[simp] theorem State.setCore_rdc (c : Nat) (x : Core) : (s.setCore c x).rdc = s.rdc := rfl
@[simp] theorem State.setCore_work (c : Nat) (x : Core) : (s.setCore c x).work = s.work := rfl
@[simp] theorem State.setCore_pinned (c : Nat) (x : Core) : (s.setCore c x).pinned = s.pinned := rfl
@[simp] theorem State.setCore_changed (c : Nat) (x : Core) : (s.setCore c x).changed = s.changed := rfl
@[simp] theorem State.setCore_mcyc (c : Nat) (x : Core) : (s.setCore c x).mcyc = s.mcyc := rfl
@[simp] theorem State.setCore_watches (c : Nat) (x : Core) : (s.setCore c x).watches = s.watches := rfl
@[simp] theorem State.setCore_ctxs (c : Nat) (x : Core) : (s.setCore c x).ctxs = s.ctxs := rfl
@[simp] theorem State.setCore_deficits (c : Nat) (x : Core) : (s.setCore c x).deficits = s.deficits := rfl
@[simp] theorem State.setCore_tenant (c : Nat) (x : Core) : (s.setCore c x).tenant = s.tenant := rfl
@[simp] theorem State.setCore_lastQ (c : Nat) (x : Core) : (s.setCore c x).lastQ = s.lastQ := rfl
@[simp] theorem State.setCore_kernels (c : Nat) (x : Core) : (s.setCore c x).kernels = s.kernels := rfl
@[simp] theorem State.setCore_groups (c : Nat) (x : Core) : (s.setCore c x).groups = s.groups := rfl
@[simp] theorem State.setCore_frontiers (c : Nat) (x : Core) : (s.setCore c x).frontiers = s.frontiers := rfl
@[simp] theorem State.setCore_conns (c : Nat) (x : Core) : (s.setCore c x).conns = s.conns := rfl
@[simp] theorem State.setCore_bars (c : Nat) (x : Core) : (s.setCore c x).bars = s.bars := rfl
@[simp] theorem State.setCore_gbars (c : Nat) (x : Core) : (s.setCore c x).gbars = s.gbars := rfl
@[simp] theorem State.setCore_trees (c : Nat) (x : Core) : (s.setCore c x).trees = s.trees := rfl
@[simp] theorem State.setCore_flushes (c : Nat) (x : Core) : (s.setCore c x).flushes = s.flushes := rfl
@[simp] theorem State.setCore_mgmt (c : Nat) (x : Core) : (s.setCore c x).mgmt = s.mgmt := rfl
@[simp] theorem State.setCore_ports (c : Nat) (x : Core) : (s.setCore c x).ports = s.ports := rfl
@[simp] theorem State.setCore_owl (c : Nat) (x : Core) : (s.setCore c x).owl = s.owl := rfl
@[simp] theorem State.setCore_power (c : Nat) (x : Core) : (s.setCore c x).power = s.power := rfl
@[simp] theorem State.setCore_defect (c : Nat) (x : Core) : (s.setCore c x).defect = s.defect := rfl
@[simp] theorem State.setCore_quarantine (c : Nat) (x : Core) : (s.setCore c x).quarantine = s.quarantine := rfl
@[simp] theorem State.setCore_stops (c : Nat) (x : Core) : (s.setCore c x).stops = s.stops := rfl
@[simp] theorem State.setCore_spawns (c : Nat) (x : Core) : (s.setCore c x).spawns = s.spawns := rfl
@[simp] theorem State.setCore_binders (c : Nat) (x : Core) : (s.setCore c x).binders = s.binders := rfl
@[simp] theorem State.setCore_sentOut (c : Nat) (x : Core) : (s.setCore c x).sentOut = s.sentOut := rfl
@[simp] theorem State.setCore_cur (c : Nat) (x : Core) : (s.setCore c x).cur = s.cur := rfl
@[simp] theorem State.setCore_mark (c : Nat) (x : Core) : (s.setCore c x).mark = s.mark := rfl
@[simp] theorem State.setCore_arg (c : Nat) (x : Core) : (s.setCore c x).arg = s.arg := rfl
@[simp] theorem State.setCore_inflight (c : Nat) (x : Core) : (s.setCore c x).inflight = s.inflight := rfl
@[simp] theorem State.setCore_inputs (c : Nat) (x : Core) : (s.setCore c x).inputs = s.inputs := rfl
@[simp] theorem State.setCore_free (c : Nat) (x : Core) : (s.setCore c x).free = s.free := rfl
@[simp] theorem State.setCore_turn (c : Nat) (x : Core) : (s.setCore c x).turn = s.turn := rfl

/-! #### onCore -/

@[simp] theorem State.onCore_slots (c : Nat) (f : Core → Core) : (s.onCore c f).slots = s.slots := rfl
@[simp] theorem State.onCore_octets (c : Nat) (f : Core → Core) : (s.onCore c f).octets = s.octets := rfl
@[simp] theorem State.onCore_clusters (c : Nat) (f : Core → Core) : (s.onCore c f).clusters = s.clusters := rfl
@[simp] theorem State.onCore_dies (c : Nat) (f : Core → Core) : (s.onCore c f).dies = s.dies := rfl
@[simp] theorem State.onCore_mem (c : Nat) (f : Core → Core) : (s.onCore c f).mem = s.mem := rfl
@[simp] theorem State.onCore_home (c : Nat) (f : Core → Core) : (s.onCore c f).home = s.home := rfl
@[simp] theorem State.onCore_rdc (c : Nat) (f : Core → Core) : (s.onCore c f).rdc = s.rdc := rfl
@[simp] theorem State.onCore_work (c : Nat) (f : Core → Core) : (s.onCore c f).work = s.work := rfl
@[simp] theorem State.onCore_pinned (c : Nat) (f : Core → Core) : (s.onCore c f).pinned = s.pinned := rfl
@[simp] theorem State.onCore_changed (c : Nat) (f : Core → Core) : (s.onCore c f).changed = s.changed := rfl
@[simp] theorem State.onCore_mcyc (c : Nat) (f : Core → Core) : (s.onCore c f).mcyc = s.mcyc := rfl
@[simp] theorem State.onCore_watches (c : Nat) (f : Core → Core) : (s.onCore c f).watches = s.watches := rfl
@[simp] theorem State.onCore_ctxs (c : Nat) (f : Core → Core) : (s.onCore c f).ctxs = s.ctxs := rfl
@[simp] theorem State.onCore_deficits (c : Nat) (f : Core → Core) : (s.onCore c f).deficits = s.deficits := rfl
@[simp] theorem State.onCore_tenant (c : Nat) (f : Core → Core) : (s.onCore c f).tenant = s.tenant := rfl
@[simp] theorem State.onCore_lastQ (c : Nat) (f : Core → Core) : (s.onCore c f).lastQ = s.lastQ := rfl
@[simp] theorem State.onCore_kernels (c : Nat) (f : Core → Core) : (s.onCore c f).kernels = s.kernels := rfl
@[simp] theorem State.onCore_groups (c : Nat) (f : Core → Core) : (s.onCore c f).groups = s.groups := rfl
@[simp] theorem State.onCore_frontiers (c : Nat) (f : Core → Core) : (s.onCore c f).frontiers = s.frontiers := rfl
@[simp] theorem State.onCore_conns (c : Nat) (f : Core → Core) : (s.onCore c f).conns = s.conns := rfl
@[simp] theorem State.onCore_bars (c : Nat) (f : Core → Core) : (s.onCore c f).bars = s.bars := rfl
@[simp] theorem State.onCore_gbars (c : Nat) (f : Core → Core) : (s.onCore c f).gbars = s.gbars := rfl
@[simp] theorem State.onCore_trees (c : Nat) (f : Core → Core) : (s.onCore c f).trees = s.trees := rfl
@[simp] theorem State.onCore_flushes (c : Nat) (f : Core → Core) : (s.onCore c f).flushes = s.flushes := rfl
@[simp] theorem State.onCore_mgmt (c : Nat) (f : Core → Core) : (s.onCore c f).mgmt = s.mgmt := rfl
@[simp] theorem State.onCore_ports (c : Nat) (f : Core → Core) : (s.onCore c f).ports = s.ports := rfl
@[simp] theorem State.onCore_owl (c : Nat) (f : Core → Core) : (s.onCore c f).owl = s.owl := rfl
@[simp] theorem State.onCore_power (c : Nat) (f : Core → Core) : (s.onCore c f).power = s.power := rfl
@[simp] theorem State.onCore_defect (c : Nat) (f : Core → Core) : (s.onCore c f).defect = s.defect := rfl
@[simp] theorem State.onCore_quarantine (c : Nat) (f : Core → Core) : (s.onCore c f).quarantine = s.quarantine := rfl
@[simp] theorem State.onCore_stops (c : Nat) (f : Core → Core) : (s.onCore c f).stops = s.stops := rfl
@[simp] theorem State.onCore_spawns (c : Nat) (f : Core → Core) : (s.onCore c f).spawns = s.spawns := rfl
@[simp] theorem State.onCore_binders (c : Nat) (f : Core → Core) : (s.onCore c f).binders = s.binders := rfl
@[simp] theorem State.onCore_sentOut (c : Nat) (f : Core → Core) : (s.onCore c f).sentOut = s.sentOut := rfl
@[simp] theorem State.onCore_cur (c : Nat) (f : Core → Core) : (s.onCore c f).cur = s.cur := rfl
@[simp] theorem State.onCore_mark (c : Nat) (f : Core → Core) : (s.onCore c f).mark = s.mark := rfl
@[simp] theorem State.onCore_arg (c : Nat) (f : Core → Core) : (s.onCore c f).arg = s.arg := rfl
@[simp] theorem State.onCore_inflight (c : Nat) (f : Core → Core) : (s.onCore c f).inflight = s.inflight := rfl
@[simp] theorem State.onCore_inputs (c : Nat) (f : Core → Core) : (s.onCore c f).inputs = s.inputs := rfl
@[simp] theorem State.onCore_free (c : Nat) (f : Core → Core) : (s.onCore c f).free = s.free := rfl
@[simp] theorem State.onCore_turn (c : Nat) (f : Core → Core) : (s.onCore c f).turn = s.turn := rfl

/-! #### onOctet -/

@[simp] theorem State.onOctet_slots (o : Nat) (f : Octet → Octet) : (s.onOctet o f).slots = s.slots := rfl
@[simp] theorem State.onOctet_cores (o : Nat) (f : Octet → Octet) : (s.onOctet o f).cores = s.cores := rfl
@[simp] theorem State.onOctet_clusters (o : Nat) (f : Octet → Octet) : (s.onOctet o f).clusters = s.clusters := rfl
@[simp] theorem State.onOctet_dies (o : Nat) (f : Octet → Octet) : (s.onOctet o f).dies = s.dies := rfl
@[simp] theorem State.onOctet_mem (o : Nat) (f : Octet → Octet) : (s.onOctet o f).mem = s.mem := rfl
@[simp] theorem State.onOctet_home (o : Nat) (f : Octet → Octet) : (s.onOctet o f).home = s.home := rfl
@[simp] theorem State.onOctet_rdc (o : Nat) (f : Octet → Octet) : (s.onOctet o f).rdc = s.rdc := rfl
@[simp] theorem State.onOctet_work (o : Nat) (f : Octet → Octet) : (s.onOctet o f).work = s.work := rfl
@[simp] theorem State.onOctet_pinned (o : Nat) (f : Octet → Octet) : (s.onOctet o f).pinned = s.pinned := rfl
@[simp] theorem State.onOctet_changed (o : Nat) (f : Octet → Octet) : (s.onOctet o f).changed = s.changed := rfl
@[simp] theorem State.onOctet_mcyc (o : Nat) (f : Octet → Octet) : (s.onOctet o f).mcyc = s.mcyc := rfl
@[simp] theorem State.onOctet_watches (o : Nat) (f : Octet → Octet) : (s.onOctet o f).watches = s.watches := rfl
@[simp] theorem State.onOctet_ctxs (o : Nat) (f : Octet → Octet) : (s.onOctet o f).ctxs = s.ctxs := rfl
@[simp] theorem State.onOctet_deficits (o : Nat) (f : Octet → Octet) : (s.onOctet o f).deficits = s.deficits := rfl
@[simp] theorem State.onOctet_tenant (o : Nat) (f : Octet → Octet) : (s.onOctet o f).tenant = s.tenant := rfl
@[simp] theorem State.onOctet_lastQ (o : Nat) (f : Octet → Octet) : (s.onOctet o f).lastQ = s.lastQ := rfl
@[simp] theorem State.onOctet_kernels (o : Nat) (f : Octet → Octet) : (s.onOctet o f).kernels = s.kernels := rfl
@[simp] theorem State.onOctet_groups (o : Nat) (f : Octet → Octet) : (s.onOctet o f).groups = s.groups := rfl
@[simp] theorem State.onOctet_frontiers (o : Nat) (f : Octet → Octet) : (s.onOctet o f).frontiers = s.frontiers := rfl
@[simp] theorem State.onOctet_conns (o : Nat) (f : Octet → Octet) : (s.onOctet o f).conns = s.conns := rfl
@[simp] theorem State.onOctet_bars (o : Nat) (f : Octet → Octet) : (s.onOctet o f).bars = s.bars := rfl
@[simp] theorem State.onOctet_gbars (o : Nat) (f : Octet → Octet) : (s.onOctet o f).gbars = s.gbars := rfl
@[simp] theorem State.onOctet_trees (o : Nat) (f : Octet → Octet) : (s.onOctet o f).trees = s.trees := rfl
@[simp] theorem State.onOctet_flushes (o : Nat) (f : Octet → Octet) : (s.onOctet o f).flushes = s.flushes := rfl
@[simp] theorem State.onOctet_mgmt (o : Nat) (f : Octet → Octet) : (s.onOctet o f).mgmt = s.mgmt := rfl
@[simp] theorem State.onOctet_ports (o : Nat) (f : Octet → Octet) : (s.onOctet o f).ports = s.ports := rfl
@[simp] theorem State.onOctet_owl (o : Nat) (f : Octet → Octet) : (s.onOctet o f).owl = s.owl := rfl
@[simp] theorem State.onOctet_power (o : Nat) (f : Octet → Octet) : (s.onOctet o f).power = s.power := rfl
@[simp] theorem State.onOctet_defect (o : Nat) (f : Octet → Octet) : (s.onOctet o f).defect = s.defect := rfl
@[simp] theorem State.onOctet_quarantine (o : Nat) (f : Octet → Octet) : (s.onOctet o f).quarantine = s.quarantine := rfl
@[simp] theorem State.onOctet_stops (o : Nat) (f : Octet → Octet) : (s.onOctet o f).stops = s.stops := rfl
@[simp] theorem State.onOctet_spawns (o : Nat) (f : Octet → Octet) : (s.onOctet o f).spawns = s.spawns := rfl
@[simp] theorem State.onOctet_binders (o : Nat) (f : Octet → Octet) : (s.onOctet o f).binders = s.binders := rfl
@[simp] theorem State.onOctet_sentOut (o : Nat) (f : Octet → Octet) : (s.onOctet o f).sentOut = s.sentOut := rfl
@[simp] theorem State.onOctet_cur (o : Nat) (f : Octet → Octet) : (s.onOctet o f).cur = s.cur := rfl
@[simp] theorem State.onOctet_mark (o : Nat) (f : Octet → Octet) : (s.onOctet o f).mark = s.mark := rfl
@[simp] theorem State.onOctet_arg (o : Nat) (f : Octet → Octet) : (s.onOctet o f).arg = s.arg := rfl
@[simp] theorem State.onOctet_inflight (o : Nat) (f : Octet → Octet) : (s.onOctet o f).inflight = s.inflight := rfl
@[simp] theorem State.onOctet_inputs (o : Nat) (f : Octet → Octet) : (s.onOctet o f).inputs = s.inputs := rfl
@[simp] theorem State.onOctet_free (o : Nat) (f : Octet → Octet) : (s.onOctet o f).free = s.free := rfl
@[simp] theorem State.onOctet_turn (o : Nat) (f : Octet → Octet) : (s.onOctet o f).turn = s.turn := rfl

/-! #### onCluster -/

@[simp] theorem State.onCluster_slots (c : Nat) (f : Cluster → Cluster) : (s.onCluster c f).slots = s.slots := rfl
@[simp] theorem State.onCluster_cores (c : Nat) (f : Cluster → Cluster) : (s.onCluster c f).cores = s.cores := rfl
@[simp] theorem State.onCluster_octets (c : Nat) (f : Cluster → Cluster) : (s.onCluster c f).octets = s.octets := rfl
@[simp] theorem State.onCluster_dies (c : Nat) (f : Cluster → Cluster) : (s.onCluster c f).dies = s.dies := rfl
@[simp] theorem State.onCluster_mem (c : Nat) (f : Cluster → Cluster) : (s.onCluster c f).mem = s.mem := rfl
@[simp] theorem State.onCluster_home (c : Nat) (f : Cluster → Cluster) : (s.onCluster c f).home = s.home := rfl
@[simp] theorem State.onCluster_rdc (c : Nat) (f : Cluster → Cluster) : (s.onCluster c f).rdc = s.rdc := rfl
@[simp] theorem State.onCluster_work (c : Nat) (f : Cluster → Cluster) : (s.onCluster c f).work = s.work := rfl
@[simp] theorem State.onCluster_pinned (c : Nat) (f : Cluster → Cluster) : (s.onCluster c f).pinned = s.pinned := rfl
@[simp] theorem State.onCluster_changed (c : Nat) (f : Cluster → Cluster) : (s.onCluster c f).changed = s.changed := rfl
@[simp] theorem State.onCluster_mcyc (c : Nat) (f : Cluster → Cluster) : (s.onCluster c f).mcyc = s.mcyc := rfl
@[simp] theorem State.onCluster_watches (c : Nat) (f : Cluster → Cluster) : (s.onCluster c f).watches = s.watches := rfl
@[simp] theorem State.onCluster_ctxs (c : Nat) (f : Cluster → Cluster) : (s.onCluster c f).ctxs = s.ctxs := rfl
@[simp] theorem State.onCluster_deficits (c : Nat) (f : Cluster → Cluster) : (s.onCluster c f).deficits = s.deficits := rfl
@[simp] theorem State.onCluster_tenant (c : Nat) (f : Cluster → Cluster) : (s.onCluster c f).tenant = s.tenant := rfl
@[simp] theorem State.onCluster_lastQ (c : Nat) (f : Cluster → Cluster) : (s.onCluster c f).lastQ = s.lastQ := rfl
@[simp] theorem State.onCluster_kernels (c : Nat) (f : Cluster → Cluster) : (s.onCluster c f).kernels = s.kernels := rfl
@[simp] theorem State.onCluster_groups (c : Nat) (f : Cluster → Cluster) : (s.onCluster c f).groups = s.groups := rfl
@[simp] theorem State.onCluster_frontiers (c : Nat) (f : Cluster → Cluster) : (s.onCluster c f).frontiers = s.frontiers := rfl
@[simp] theorem State.onCluster_conns (c : Nat) (f : Cluster → Cluster) : (s.onCluster c f).conns = s.conns := rfl
@[simp] theorem State.onCluster_bars (c : Nat) (f : Cluster → Cluster) : (s.onCluster c f).bars = s.bars := rfl
@[simp] theorem State.onCluster_gbars (c : Nat) (f : Cluster → Cluster) : (s.onCluster c f).gbars = s.gbars := rfl
@[simp] theorem State.onCluster_trees (c : Nat) (f : Cluster → Cluster) : (s.onCluster c f).trees = s.trees := rfl
@[simp] theorem State.onCluster_flushes (c : Nat) (f : Cluster → Cluster) : (s.onCluster c f).flushes = s.flushes := rfl
@[simp] theorem State.onCluster_mgmt (c : Nat) (f : Cluster → Cluster) : (s.onCluster c f).mgmt = s.mgmt := rfl
@[simp] theorem State.onCluster_ports (c : Nat) (f : Cluster → Cluster) : (s.onCluster c f).ports = s.ports := rfl
@[simp] theorem State.onCluster_owl (c : Nat) (f : Cluster → Cluster) : (s.onCluster c f).owl = s.owl := rfl
@[simp] theorem State.onCluster_power (c : Nat) (f : Cluster → Cluster) : (s.onCluster c f).power = s.power := rfl
@[simp] theorem State.onCluster_defect (c : Nat) (f : Cluster → Cluster) : (s.onCluster c f).defect = s.defect := rfl
@[simp] theorem State.onCluster_quarantine (c : Nat) (f : Cluster → Cluster) : (s.onCluster c f).quarantine = s.quarantine := rfl
@[simp] theorem State.onCluster_stops (c : Nat) (f : Cluster → Cluster) : (s.onCluster c f).stops = s.stops := rfl
@[simp] theorem State.onCluster_spawns (c : Nat) (f : Cluster → Cluster) : (s.onCluster c f).spawns = s.spawns := rfl
@[simp] theorem State.onCluster_binders (c : Nat) (f : Cluster → Cluster) : (s.onCluster c f).binders = s.binders := rfl
@[simp] theorem State.onCluster_sentOut (c : Nat) (f : Cluster → Cluster) : (s.onCluster c f).sentOut = s.sentOut := rfl
@[simp] theorem State.onCluster_cur (c : Nat) (f : Cluster → Cluster) : (s.onCluster c f).cur = s.cur := rfl
@[simp] theorem State.onCluster_mark (c : Nat) (f : Cluster → Cluster) : (s.onCluster c f).mark = s.mark := rfl
@[simp] theorem State.onCluster_arg (c : Nat) (f : Cluster → Cluster) : (s.onCluster c f).arg = s.arg := rfl
@[simp] theorem State.onCluster_inflight (c : Nat) (f : Cluster → Cluster) : (s.onCluster c f).inflight = s.inflight := rfl
@[simp] theorem State.onCluster_inputs (c : Nat) (f : Cluster → Cluster) : (s.onCluster c f).inputs = s.inputs := rfl
@[simp] theorem State.onCluster_free (c : Nat) (f : Cluster → Cluster) : (s.onCluster c f).free = s.free := rfl
@[simp] theorem State.onCluster_turn (c : Nat) (f : Cluster → Cluster) : (s.onCluster c f).turn = s.turn := rfl

/-! #### onDie -/

@[simp] theorem State.onDie_slots (d : Nat) (f : Die → Die) : (s.onDie d f).slots = s.slots := rfl
@[simp] theorem State.onDie_cores (d : Nat) (f : Die → Die) : (s.onDie d f).cores = s.cores := rfl
@[simp] theorem State.onDie_octets (d : Nat) (f : Die → Die) : (s.onDie d f).octets = s.octets := rfl
@[simp] theorem State.onDie_clusters (d : Nat) (f : Die → Die) : (s.onDie d f).clusters = s.clusters := rfl
@[simp] theorem State.onDie_mem (d : Nat) (f : Die → Die) : (s.onDie d f).mem = s.mem := rfl
@[simp] theorem State.onDie_home (d : Nat) (f : Die → Die) : (s.onDie d f).home = s.home := rfl
@[simp] theorem State.onDie_rdc (d : Nat) (f : Die → Die) : (s.onDie d f).rdc = s.rdc := rfl
@[simp] theorem State.onDie_work (d : Nat) (f : Die → Die) : (s.onDie d f).work = s.work := rfl
@[simp] theorem State.onDie_pinned (d : Nat) (f : Die → Die) : (s.onDie d f).pinned = s.pinned := rfl
@[simp] theorem State.onDie_changed (d : Nat) (f : Die → Die) : (s.onDie d f).changed = s.changed := rfl
@[simp] theorem State.onDie_mcyc (d : Nat) (f : Die → Die) : (s.onDie d f).mcyc = s.mcyc := rfl
@[simp] theorem State.onDie_watches (d : Nat) (f : Die → Die) : (s.onDie d f).watches = s.watches := rfl
@[simp] theorem State.onDie_ctxs (d : Nat) (f : Die → Die) : (s.onDie d f).ctxs = s.ctxs := rfl
@[simp] theorem State.onDie_deficits (d : Nat) (f : Die → Die) : (s.onDie d f).deficits = s.deficits := rfl
@[simp] theorem State.onDie_tenant (d : Nat) (f : Die → Die) : (s.onDie d f).tenant = s.tenant := rfl
@[simp] theorem State.onDie_lastQ (d : Nat) (f : Die → Die) : (s.onDie d f).lastQ = s.lastQ := rfl
@[simp] theorem State.onDie_kernels (d : Nat) (f : Die → Die) : (s.onDie d f).kernels = s.kernels := rfl
@[simp] theorem State.onDie_groups (d : Nat) (f : Die → Die) : (s.onDie d f).groups = s.groups := rfl
@[simp] theorem State.onDie_frontiers (d : Nat) (f : Die → Die) : (s.onDie d f).frontiers = s.frontiers := rfl
@[simp] theorem State.onDie_conns (d : Nat) (f : Die → Die) : (s.onDie d f).conns = s.conns := rfl
@[simp] theorem State.onDie_bars (d : Nat) (f : Die → Die) : (s.onDie d f).bars = s.bars := rfl
@[simp] theorem State.onDie_gbars (d : Nat) (f : Die → Die) : (s.onDie d f).gbars = s.gbars := rfl
@[simp] theorem State.onDie_trees (d : Nat) (f : Die → Die) : (s.onDie d f).trees = s.trees := rfl
@[simp] theorem State.onDie_flushes (d : Nat) (f : Die → Die) : (s.onDie d f).flushes = s.flushes := rfl
@[simp] theorem State.onDie_mgmt (d : Nat) (f : Die → Die) : (s.onDie d f).mgmt = s.mgmt := rfl
@[simp] theorem State.onDie_ports (d : Nat) (f : Die → Die) : (s.onDie d f).ports = s.ports := rfl
@[simp] theorem State.onDie_owl (d : Nat) (f : Die → Die) : (s.onDie d f).owl = s.owl := rfl
@[simp] theorem State.onDie_power (d : Nat) (f : Die → Die) : (s.onDie d f).power = s.power := rfl
@[simp] theorem State.onDie_defect (d : Nat) (f : Die → Die) : (s.onDie d f).defect = s.defect := rfl
@[simp] theorem State.onDie_quarantine (d : Nat) (f : Die → Die) : (s.onDie d f).quarantine = s.quarantine := rfl
@[simp] theorem State.onDie_stops (d : Nat) (f : Die → Die) : (s.onDie d f).stops = s.stops := rfl
@[simp] theorem State.onDie_spawns (d : Nat) (f : Die → Die) : (s.onDie d f).spawns = s.spawns := rfl
@[simp] theorem State.onDie_binders (d : Nat) (f : Die → Die) : (s.onDie d f).binders = s.binders := rfl
@[simp] theorem State.onDie_sentOut (d : Nat) (f : Die → Die) : (s.onDie d f).sentOut = s.sentOut := rfl
@[simp] theorem State.onDie_cur (d : Nat) (f : Die → Die) : (s.onDie d f).cur = s.cur := rfl
@[simp] theorem State.onDie_mark (d : Nat) (f : Die → Die) : (s.onDie d f).mark = s.mark := rfl
@[simp] theorem State.onDie_arg (d : Nat) (f : Die → Die) : (s.onDie d f).arg = s.arg := rfl
@[simp] theorem State.onDie_inflight (d : Nat) (f : Die → Die) : (s.onDie d f).inflight = s.inflight := rfl
@[simp] theorem State.onDie_inputs (d : Nat) (f : Die → Die) : (s.onDie d f).inputs = s.inputs := rfl
@[simp] theorem State.onDie_free (d : Nat) (f : Die → Die) : (s.onDie d f).free = s.free := rfl
@[simp] theorem State.onDie_turn (d : Nat) (f : Die → Die) : (s.onDie d f).turn = s.turn := rfl

/-! #### onPort -/

@[simp] theorem State.onPort_slots (p : Nat) (f : PortLink → PortLink) : (s.onPort p f).slots = s.slots := rfl
@[simp] theorem State.onPort_cores (p : Nat) (f : PortLink → PortLink) : (s.onPort p f).cores = s.cores := rfl
@[simp] theorem State.onPort_octets (p : Nat) (f : PortLink → PortLink) : (s.onPort p f).octets = s.octets := rfl
@[simp] theorem State.onPort_clusters (p : Nat) (f : PortLink → PortLink) : (s.onPort p f).clusters = s.clusters := rfl
@[simp] theorem State.onPort_dies (p : Nat) (f : PortLink → PortLink) : (s.onPort p f).dies = s.dies := rfl
@[simp] theorem State.onPort_mem (p : Nat) (f : PortLink → PortLink) : (s.onPort p f).mem = s.mem := rfl
@[simp] theorem State.onPort_home (p : Nat) (f : PortLink → PortLink) : (s.onPort p f).home = s.home := rfl
@[simp] theorem State.onPort_rdc (p : Nat) (f : PortLink → PortLink) : (s.onPort p f).rdc = s.rdc := rfl
@[simp] theorem State.onPort_work (p : Nat) (f : PortLink → PortLink) : (s.onPort p f).work = s.work := rfl
@[simp] theorem State.onPort_pinned (p : Nat) (f : PortLink → PortLink) : (s.onPort p f).pinned = s.pinned := rfl
@[simp] theorem State.onPort_changed (p : Nat) (f : PortLink → PortLink) : (s.onPort p f).changed = s.changed := rfl
@[simp] theorem State.onPort_mcyc (p : Nat) (f : PortLink → PortLink) : (s.onPort p f).mcyc = s.mcyc := rfl
@[simp] theorem State.onPort_watches (p : Nat) (f : PortLink → PortLink) : (s.onPort p f).watches = s.watches := rfl
@[simp] theorem State.onPort_ctxs (p : Nat) (f : PortLink → PortLink) : (s.onPort p f).ctxs = s.ctxs := rfl
@[simp] theorem State.onPort_deficits (p : Nat) (f : PortLink → PortLink) : (s.onPort p f).deficits = s.deficits := rfl
@[simp] theorem State.onPort_tenant (p : Nat) (f : PortLink → PortLink) : (s.onPort p f).tenant = s.tenant := rfl
@[simp] theorem State.onPort_lastQ (p : Nat) (f : PortLink → PortLink) : (s.onPort p f).lastQ = s.lastQ := rfl
@[simp] theorem State.onPort_kernels (p : Nat) (f : PortLink → PortLink) : (s.onPort p f).kernels = s.kernels := rfl
@[simp] theorem State.onPort_groups (p : Nat) (f : PortLink → PortLink) : (s.onPort p f).groups = s.groups := rfl
@[simp] theorem State.onPort_frontiers (p : Nat) (f : PortLink → PortLink) : (s.onPort p f).frontiers = s.frontiers := rfl
@[simp] theorem State.onPort_conns (p : Nat) (f : PortLink → PortLink) : (s.onPort p f).conns = s.conns := rfl
@[simp] theorem State.onPort_bars (p : Nat) (f : PortLink → PortLink) : (s.onPort p f).bars = s.bars := rfl
@[simp] theorem State.onPort_gbars (p : Nat) (f : PortLink → PortLink) : (s.onPort p f).gbars = s.gbars := rfl
@[simp] theorem State.onPort_trees (p : Nat) (f : PortLink → PortLink) : (s.onPort p f).trees = s.trees := rfl
@[simp] theorem State.onPort_flushes (p : Nat) (f : PortLink → PortLink) : (s.onPort p f).flushes = s.flushes := rfl
@[simp] theorem State.onPort_mgmt (p : Nat) (f : PortLink → PortLink) : (s.onPort p f).mgmt = s.mgmt := rfl
@[simp] theorem State.onPort_owl (p : Nat) (f : PortLink → PortLink) : (s.onPort p f).owl = s.owl := rfl
@[simp] theorem State.onPort_power (p : Nat) (f : PortLink → PortLink) : (s.onPort p f).power = s.power := rfl
@[simp] theorem State.onPort_defect (p : Nat) (f : PortLink → PortLink) : (s.onPort p f).defect = s.defect := rfl
@[simp] theorem State.onPort_quarantine (p : Nat) (f : PortLink → PortLink) : (s.onPort p f).quarantine = s.quarantine := rfl
@[simp] theorem State.onPort_stops (p : Nat) (f : PortLink → PortLink) : (s.onPort p f).stops = s.stops := rfl
@[simp] theorem State.onPort_spawns (p : Nat) (f : PortLink → PortLink) : (s.onPort p f).spawns = s.spawns := rfl
@[simp] theorem State.onPort_binders (p : Nat) (f : PortLink → PortLink) : (s.onPort p f).binders = s.binders := rfl
@[simp] theorem State.onPort_sentOut (p : Nat) (f : PortLink → PortLink) : (s.onPort p f).sentOut = s.sentOut := rfl
@[simp] theorem State.onPort_cur (p : Nat) (f : PortLink → PortLink) : (s.onPort p f).cur = s.cur := rfl
@[simp] theorem State.onPort_mark (p : Nat) (f : PortLink → PortLink) : (s.onPort p f).mark = s.mark := rfl
@[simp] theorem State.onPort_arg (p : Nat) (f : PortLink → PortLink) : (s.onPort p f).arg = s.arg := rfl
@[simp] theorem State.onPort_inflight (p : Nat) (f : PortLink → PortLink) : (s.onPort p f).inflight = s.inflight := rfl
@[simp] theorem State.onPort_inputs (p : Nat) (f : PortLink → PortLink) : (s.onPort p f).inputs = s.inputs := rfl
@[simp] theorem State.onPort_free (p : Nat) (f : PortLink → PortLink) : (s.onPort p f).free = s.free := rfl
@[simp] theorem State.onPort_turn (p : Nat) (f : PortLink → PortLink) : (s.onPort p f).turn = s.turn := rfl

/-! #### setMreg -/

@[simp] theorem State.setMreg_slots (off : Nat) (w : Word) : (s.setMreg off w).slots = s.slots := rfl
@[simp] theorem State.setMreg_cores (off : Nat) (w : Word) : (s.setMreg off w).cores = s.cores := rfl
@[simp] theorem State.setMreg_octets (off : Nat) (w : Word) : (s.setMreg off w).octets = s.octets := rfl
@[simp] theorem State.setMreg_clusters (off : Nat) (w : Word) : (s.setMreg off w).clusters = s.clusters := rfl
@[simp] theorem State.setMreg_dies (off : Nat) (w : Word) : (s.setMreg off w).dies = s.dies := rfl
@[simp] theorem State.setMreg_mem (off : Nat) (w : Word) : (s.setMreg off w).mem = s.mem := rfl
@[simp] theorem State.setMreg_home (off : Nat) (w : Word) : (s.setMreg off w).home = s.home := rfl
@[simp] theorem State.setMreg_rdc (off : Nat) (w : Word) : (s.setMreg off w).rdc = s.rdc := rfl
@[simp] theorem State.setMreg_work (off : Nat) (w : Word) : (s.setMreg off w).work = s.work := rfl
@[simp] theorem State.setMreg_pinned (off : Nat) (w : Word) : (s.setMreg off w).pinned = s.pinned := rfl
@[simp] theorem State.setMreg_changed (off : Nat) (w : Word) : (s.setMreg off w).changed = s.changed := rfl
@[simp] theorem State.setMreg_mcyc (off : Nat) (w : Word) : (s.setMreg off w).mcyc = s.mcyc := rfl
@[simp] theorem State.setMreg_watches (off : Nat) (w : Word) : (s.setMreg off w).watches = s.watches := rfl
@[simp] theorem State.setMreg_ctxs (off : Nat) (w : Word) : (s.setMreg off w).ctxs = s.ctxs := rfl
@[simp] theorem State.setMreg_deficits (off : Nat) (w : Word) : (s.setMreg off w).deficits = s.deficits := rfl
@[simp] theorem State.setMreg_tenant (off : Nat) (w : Word) : (s.setMreg off w).tenant = s.tenant := rfl
@[simp] theorem State.setMreg_lastQ (off : Nat) (w : Word) : (s.setMreg off w).lastQ = s.lastQ := rfl
@[simp] theorem State.setMreg_kernels (off : Nat) (w : Word) : (s.setMreg off w).kernels = s.kernels := rfl
@[simp] theorem State.setMreg_groups (off : Nat) (w : Word) : (s.setMreg off w).groups = s.groups := rfl
@[simp] theorem State.setMreg_frontiers (off : Nat) (w : Word) : (s.setMreg off w).frontiers = s.frontiers := rfl
@[simp] theorem State.setMreg_conns (off : Nat) (w : Word) : (s.setMreg off w).conns = s.conns := rfl
@[simp] theorem State.setMreg_bars (off : Nat) (w : Word) : (s.setMreg off w).bars = s.bars := rfl
@[simp] theorem State.setMreg_gbars (off : Nat) (w : Word) : (s.setMreg off w).gbars = s.gbars := rfl
@[simp] theorem State.setMreg_trees (off : Nat) (w : Word) : (s.setMreg off w).trees = s.trees := rfl
@[simp] theorem State.setMreg_flushes (off : Nat) (w : Word) : (s.setMreg off w).flushes = s.flushes := rfl
@[simp] theorem State.setMreg_ports (off : Nat) (w : Word) : (s.setMreg off w).ports = s.ports := rfl
@[simp] theorem State.setMreg_owl (off : Nat) (w : Word) : (s.setMreg off w).owl = s.owl := rfl
@[simp] theorem State.setMreg_power (off : Nat) (w : Word) : (s.setMreg off w).power = s.power := rfl
@[simp] theorem State.setMreg_defect (off : Nat) (w : Word) : (s.setMreg off w).defect = s.defect := rfl
@[simp] theorem State.setMreg_quarantine (off : Nat) (w : Word) : (s.setMreg off w).quarantine = s.quarantine := rfl
@[simp] theorem State.setMreg_stops (off : Nat) (w : Word) : (s.setMreg off w).stops = s.stops := rfl
@[simp] theorem State.setMreg_spawns (off : Nat) (w : Word) : (s.setMreg off w).spawns = s.spawns := rfl
@[simp] theorem State.setMreg_binders (off : Nat) (w : Word) : (s.setMreg off w).binders = s.binders := rfl
@[simp] theorem State.setMreg_sentOut (off : Nat) (w : Word) : (s.setMreg off w).sentOut = s.sentOut := rfl
@[simp] theorem State.setMreg_cur (off : Nat) (w : Word) : (s.setMreg off w).cur = s.cur := rfl
@[simp] theorem State.setMreg_mark (off : Nat) (w : Word) : (s.setMreg off w).mark = s.mark := rfl
@[simp] theorem State.setMreg_arg (off : Nat) (w : Word) : (s.setMreg off w).arg = s.arg := rfl
@[simp] theorem State.setMreg_inflight (off : Nat) (w : Word) : (s.setMreg off w).inflight = s.inflight := rfl
@[simp] theorem State.setMreg_inputs (off : Nat) (w : Word) : (s.setMreg off w).inputs = s.inputs := rfl
@[simp] theorem State.setMreg_free (off : Nat) (w : Word) : (s.setMreg off w).free = s.free := rfl
@[simp] theorem State.setMreg_turn (off : Nat) (w : Word) : (s.setMreg off w).turn = s.turn := rfl

/-! #### setMe -/

@[simp] theorem State.setMe_cores (x : Slot) : (s.setMe x).cores = s.cores := rfl
@[simp] theorem State.setMe_octets (x : Slot) : (s.setMe x).octets = s.octets := rfl
@[simp] theorem State.setMe_clusters (x : Slot) : (s.setMe x).clusters = s.clusters := rfl
@[simp] theorem State.setMe_dies (x : Slot) : (s.setMe x).dies = s.dies := rfl
@[simp] theorem State.setMe_mem (x : Slot) : (s.setMe x).mem = s.mem := rfl
@[simp] theorem State.setMe_home (x : Slot) : (s.setMe x).home = s.home := rfl
@[simp] theorem State.setMe_rdc (x : Slot) : (s.setMe x).rdc = s.rdc := rfl
@[simp] theorem State.setMe_work (x : Slot) : (s.setMe x).work = s.work := rfl
@[simp] theorem State.setMe_pinned (x : Slot) : (s.setMe x).pinned = s.pinned := rfl
@[simp] theorem State.setMe_changed (x : Slot) : (s.setMe x).changed = s.changed := rfl
@[simp] theorem State.setMe_mcyc (x : Slot) : (s.setMe x).mcyc = s.mcyc := rfl
@[simp] theorem State.setMe_watches (x : Slot) : (s.setMe x).watches = s.watches := rfl
@[simp] theorem State.setMe_ctxs (x : Slot) : (s.setMe x).ctxs = s.ctxs := rfl
@[simp] theorem State.setMe_deficits (x : Slot) : (s.setMe x).deficits = s.deficits := rfl
@[simp] theorem State.setMe_tenant (x : Slot) : (s.setMe x).tenant = s.tenant := rfl
@[simp] theorem State.setMe_lastQ (x : Slot) : (s.setMe x).lastQ = s.lastQ := rfl
@[simp] theorem State.setMe_kernels (x : Slot) : (s.setMe x).kernels = s.kernels := rfl
@[simp] theorem State.setMe_groups (x : Slot) : (s.setMe x).groups = s.groups := rfl
@[simp] theorem State.setMe_frontiers (x : Slot) : (s.setMe x).frontiers = s.frontiers := rfl
@[simp] theorem State.setMe_conns (x : Slot) : (s.setMe x).conns = s.conns := rfl
@[simp] theorem State.setMe_bars (x : Slot) : (s.setMe x).bars = s.bars := rfl
@[simp] theorem State.setMe_gbars (x : Slot) : (s.setMe x).gbars = s.gbars := rfl
@[simp] theorem State.setMe_trees (x : Slot) : (s.setMe x).trees = s.trees := rfl
@[simp] theorem State.setMe_flushes (x : Slot) : (s.setMe x).flushes = s.flushes := rfl
@[simp] theorem State.setMe_mgmt (x : Slot) : (s.setMe x).mgmt = s.mgmt := rfl
@[simp] theorem State.setMe_ports (x : Slot) : (s.setMe x).ports = s.ports := rfl
@[simp] theorem State.setMe_owl (x : Slot) : (s.setMe x).owl = s.owl := rfl
@[simp] theorem State.setMe_power (x : Slot) : (s.setMe x).power = s.power := rfl
@[simp] theorem State.setMe_defect (x : Slot) : (s.setMe x).defect = s.defect := rfl
@[simp] theorem State.setMe_quarantine (x : Slot) : (s.setMe x).quarantine = s.quarantine := rfl
@[simp] theorem State.setMe_stops (x : Slot) : (s.setMe x).stops = s.stops := rfl
@[simp] theorem State.setMe_spawns (x : Slot) : (s.setMe x).spawns = s.spawns := rfl
@[simp] theorem State.setMe_binders (x : Slot) : (s.setMe x).binders = s.binders := rfl
@[simp] theorem State.setMe_sentOut (x : Slot) : (s.setMe x).sentOut = s.sentOut := rfl
@[simp] theorem State.setMe_cur (x : Slot) : (s.setMe x).cur = s.cur := rfl
@[simp] theorem State.setMe_mark (x : Slot) : (s.setMe x).mark = s.mark := rfl
@[simp] theorem State.setMe_arg (x : Slot) : (s.setMe x).arg = s.arg := rfl
@[simp] theorem State.setMe_inflight (x : Slot) : (s.setMe x).inflight = s.inflight := rfl
@[simp] theorem State.setMe_inputs (x : Slot) : (s.setMe x).inputs = s.inputs := rfl
@[simp] theorem State.setMe_free (x : Slot) : (s.setMe x).free = s.free := rfl
@[simp] theorem State.setMe_turn (x : Slot) : (s.setMe x).turn = s.turn := rfl

/-! #### onMe -/

@[simp] theorem State.onMe_cores (f : Slot → Slot) : (s.onMe f).cores = s.cores := rfl
@[simp] theorem State.onMe_octets (f : Slot → Slot) : (s.onMe f).octets = s.octets := rfl
@[simp] theorem State.onMe_clusters (f : Slot → Slot) : (s.onMe f).clusters = s.clusters := rfl
@[simp] theorem State.onMe_dies (f : Slot → Slot) : (s.onMe f).dies = s.dies := rfl
@[simp] theorem State.onMe_mem (f : Slot → Slot) : (s.onMe f).mem = s.mem := rfl
@[simp] theorem State.onMe_home (f : Slot → Slot) : (s.onMe f).home = s.home := rfl
@[simp] theorem State.onMe_rdc (f : Slot → Slot) : (s.onMe f).rdc = s.rdc := rfl
@[simp] theorem State.onMe_work (f : Slot → Slot) : (s.onMe f).work = s.work := rfl
@[simp] theorem State.onMe_pinned (f : Slot → Slot) : (s.onMe f).pinned = s.pinned := rfl
@[simp] theorem State.onMe_changed (f : Slot → Slot) : (s.onMe f).changed = s.changed := rfl
@[simp] theorem State.onMe_mcyc (f : Slot → Slot) : (s.onMe f).mcyc = s.mcyc := rfl
@[simp] theorem State.onMe_watches (f : Slot → Slot) : (s.onMe f).watches = s.watches := rfl
@[simp] theorem State.onMe_ctxs (f : Slot → Slot) : (s.onMe f).ctxs = s.ctxs := rfl
@[simp] theorem State.onMe_deficits (f : Slot → Slot) : (s.onMe f).deficits = s.deficits := rfl
@[simp] theorem State.onMe_tenant (f : Slot → Slot) : (s.onMe f).tenant = s.tenant := rfl
@[simp] theorem State.onMe_lastQ (f : Slot → Slot) : (s.onMe f).lastQ = s.lastQ := rfl
@[simp] theorem State.onMe_kernels (f : Slot → Slot) : (s.onMe f).kernels = s.kernels := rfl
@[simp] theorem State.onMe_groups (f : Slot → Slot) : (s.onMe f).groups = s.groups := rfl
@[simp] theorem State.onMe_frontiers (f : Slot → Slot) : (s.onMe f).frontiers = s.frontiers := rfl
@[simp] theorem State.onMe_conns (f : Slot → Slot) : (s.onMe f).conns = s.conns := rfl
@[simp] theorem State.onMe_bars (f : Slot → Slot) : (s.onMe f).bars = s.bars := rfl
@[simp] theorem State.onMe_gbars (f : Slot → Slot) : (s.onMe f).gbars = s.gbars := rfl
@[simp] theorem State.onMe_trees (f : Slot → Slot) : (s.onMe f).trees = s.trees := rfl
@[simp] theorem State.onMe_flushes (f : Slot → Slot) : (s.onMe f).flushes = s.flushes := rfl
@[simp] theorem State.onMe_mgmt (f : Slot → Slot) : (s.onMe f).mgmt = s.mgmt := rfl
@[simp] theorem State.onMe_ports (f : Slot → Slot) : (s.onMe f).ports = s.ports := rfl
@[simp] theorem State.onMe_owl (f : Slot → Slot) : (s.onMe f).owl = s.owl := rfl
@[simp] theorem State.onMe_power (f : Slot → Slot) : (s.onMe f).power = s.power := rfl
@[simp] theorem State.onMe_defect (f : Slot → Slot) : (s.onMe f).defect = s.defect := rfl
@[simp] theorem State.onMe_quarantine (f : Slot → Slot) : (s.onMe f).quarantine = s.quarantine := rfl
@[simp] theorem State.onMe_stops (f : Slot → Slot) : (s.onMe f).stops = s.stops := rfl
@[simp] theorem State.onMe_spawns (f : Slot → Slot) : (s.onMe f).spawns = s.spawns := rfl
@[simp] theorem State.onMe_binders (f : Slot → Slot) : (s.onMe f).binders = s.binders := rfl
@[simp] theorem State.onMe_sentOut (f : Slot → Slot) : (s.onMe f).sentOut = s.sentOut := rfl
@[simp] theorem State.onMe_cur (f : Slot → Slot) : (s.onMe f).cur = s.cur := rfl
@[simp] theorem State.onMe_mark (f : Slot → Slot) : (s.onMe f).mark = s.mark := rfl
@[simp] theorem State.onMe_arg (f : Slot → Slot) : (s.onMe f).arg = s.arg := rfl
@[simp] theorem State.onMe_inflight (f : Slot → Slot) : (s.onMe f).inflight = s.inflight := rfl
@[simp] theorem State.onMe_inputs (f : Slot → Slot) : (s.onMe f).inputs = s.inputs := rfl
@[simp] theorem State.onMe_free (f : Slot → Slot) : (s.onMe f).free = s.free := rfl
@[simp] theorem State.onMe_turn (f : Slot → Slot) : (s.onMe f).turn = s.turn := rfl

/-! #### postAt -/

@[simp] theorem State.postAt_slots (due : Nat) (m : Msg) : (s.postAt due m).slots = s.slots := rfl
@[simp] theorem State.postAt_cores (due : Nat) (m : Msg) : (s.postAt due m).cores = s.cores := rfl
@[simp] theorem State.postAt_octets (due : Nat) (m : Msg) : (s.postAt due m).octets = s.octets := rfl
@[simp] theorem State.postAt_clusters (due : Nat) (m : Msg) : (s.postAt due m).clusters = s.clusters := rfl
@[simp] theorem State.postAt_dies (due : Nat) (m : Msg) : (s.postAt due m).dies = s.dies := rfl
@[simp] theorem State.postAt_mem (due : Nat) (m : Msg) : (s.postAt due m).mem = s.mem := rfl
@[simp] theorem State.postAt_home (due : Nat) (m : Msg) : (s.postAt due m).home = s.home := rfl
@[simp] theorem State.postAt_rdc (due : Nat) (m : Msg) : (s.postAt due m).rdc = s.rdc := rfl
@[simp] theorem State.postAt_work (due : Nat) (m : Msg) : (s.postAt due m).work = s.work := rfl
@[simp] theorem State.postAt_pinned (due : Nat) (m : Msg) : (s.postAt due m).pinned = s.pinned := rfl
@[simp] theorem State.postAt_changed (due : Nat) (m : Msg) : (s.postAt due m).changed = s.changed := rfl
@[simp] theorem State.postAt_mcyc (due : Nat) (m : Msg) : (s.postAt due m).mcyc = s.mcyc := rfl
@[simp] theorem State.postAt_watches (due : Nat) (m : Msg) : (s.postAt due m).watches = s.watches := rfl
@[simp] theorem State.postAt_ctxs (due : Nat) (m : Msg) : (s.postAt due m).ctxs = s.ctxs := rfl
@[simp] theorem State.postAt_deficits (due : Nat) (m : Msg) : (s.postAt due m).deficits = s.deficits := rfl
@[simp] theorem State.postAt_tenant (due : Nat) (m : Msg) : (s.postAt due m).tenant = s.tenant := rfl
@[simp] theorem State.postAt_lastQ (due : Nat) (m : Msg) : (s.postAt due m).lastQ = s.lastQ := rfl
@[simp] theorem State.postAt_kernels (due : Nat) (m : Msg) : (s.postAt due m).kernels = s.kernels := rfl
@[simp] theorem State.postAt_groups (due : Nat) (m : Msg) : (s.postAt due m).groups = s.groups := rfl
@[simp] theorem State.postAt_frontiers (due : Nat) (m : Msg) : (s.postAt due m).frontiers = s.frontiers := rfl
@[simp] theorem State.postAt_conns (due : Nat) (m : Msg) : (s.postAt due m).conns = s.conns := rfl
@[simp] theorem State.postAt_bars (due : Nat) (m : Msg) : (s.postAt due m).bars = s.bars := rfl
@[simp] theorem State.postAt_gbars (due : Nat) (m : Msg) : (s.postAt due m).gbars = s.gbars := rfl
@[simp] theorem State.postAt_trees (due : Nat) (m : Msg) : (s.postAt due m).trees = s.trees := rfl
@[simp] theorem State.postAt_flushes (due : Nat) (m : Msg) : (s.postAt due m).flushes = s.flushes := rfl
@[simp] theorem State.postAt_mgmt (due : Nat) (m : Msg) : (s.postAt due m).mgmt = s.mgmt := rfl
@[simp] theorem State.postAt_ports (due : Nat) (m : Msg) : (s.postAt due m).ports = s.ports := rfl
@[simp] theorem State.postAt_owl (due : Nat) (m : Msg) : (s.postAt due m).owl = s.owl := rfl
@[simp] theorem State.postAt_power (due : Nat) (m : Msg) : (s.postAt due m).power = s.power := rfl
@[simp] theorem State.postAt_defect (due : Nat) (m : Msg) : (s.postAt due m).defect = s.defect := rfl
@[simp] theorem State.postAt_quarantine (due : Nat) (m : Msg) : (s.postAt due m).quarantine = s.quarantine := rfl
@[simp] theorem State.postAt_stops (due : Nat) (m : Msg) : (s.postAt due m).stops = s.stops := rfl
@[simp] theorem State.postAt_spawns (due : Nat) (m : Msg) : (s.postAt due m).spawns = s.spawns := rfl
@[simp] theorem State.postAt_binders (due : Nat) (m : Msg) : (s.postAt due m).binders = s.binders := rfl
@[simp] theorem State.postAt_sentOut (due : Nat) (m : Msg) : (s.postAt due m).sentOut = s.sentOut := rfl
@[simp] theorem State.postAt_cur (due : Nat) (m : Msg) : (s.postAt due m).cur = s.cur := rfl
@[simp] theorem State.postAt_mark (due : Nat) (m : Msg) : (s.postAt due m).mark = s.mark := rfl
@[simp] theorem State.postAt_arg (due : Nat) (m : Msg) : (s.postAt due m).arg = s.arg := rfl
@[simp] theorem State.postAt_inputs (due : Nat) (m : Msg) : (s.postAt due m).inputs = s.inputs := rfl
@[simp] theorem State.postAt_free (due : Nat) (m : Msg) : (s.postAt due m).free = s.free := rfl
@[simp] theorem State.postAt_turn (due : Nat) (m : Msg) : (s.postAt due m).turn = s.turn := rfl

/-! #### post -/

@[simp] theorem State.post_slots (m : Msg) : (s.post m).slots = s.slots := rfl
@[simp] theorem State.post_cores (m : Msg) : (s.post m).cores = s.cores := rfl
@[simp] theorem State.post_octets (m : Msg) : (s.post m).octets = s.octets := rfl
@[simp] theorem State.post_clusters (m : Msg) : (s.post m).clusters = s.clusters := rfl
@[simp] theorem State.post_dies (m : Msg) : (s.post m).dies = s.dies := rfl
@[simp] theorem State.post_mem (m : Msg) : (s.post m).mem = s.mem := rfl
@[simp] theorem State.post_home (m : Msg) : (s.post m).home = s.home := rfl
@[simp] theorem State.post_rdc (m : Msg) : (s.post m).rdc = s.rdc := rfl
@[simp] theorem State.post_work (m : Msg) : (s.post m).work = s.work := rfl
@[simp] theorem State.post_pinned (m : Msg) : (s.post m).pinned = s.pinned := rfl
@[simp] theorem State.post_changed (m : Msg) : (s.post m).changed = s.changed := rfl
@[simp] theorem State.post_mcyc (m : Msg) : (s.post m).mcyc = s.mcyc := rfl
@[simp] theorem State.post_watches (m : Msg) : (s.post m).watches = s.watches := rfl
@[simp] theorem State.post_ctxs (m : Msg) : (s.post m).ctxs = s.ctxs := rfl
@[simp] theorem State.post_deficits (m : Msg) : (s.post m).deficits = s.deficits := rfl
@[simp] theorem State.post_tenant (m : Msg) : (s.post m).tenant = s.tenant := rfl
@[simp] theorem State.post_lastQ (m : Msg) : (s.post m).lastQ = s.lastQ := rfl
@[simp] theorem State.post_kernels (m : Msg) : (s.post m).kernels = s.kernels := rfl
@[simp] theorem State.post_groups (m : Msg) : (s.post m).groups = s.groups := rfl
@[simp] theorem State.post_frontiers (m : Msg) : (s.post m).frontiers = s.frontiers := rfl
@[simp] theorem State.post_conns (m : Msg) : (s.post m).conns = s.conns := rfl
@[simp] theorem State.post_bars (m : Msg) : (s.post m).bars = s.bars := rfl
@[simp] theorem State.post_gbars (m : Msg) : (s.post m).gbars = s.gbars := rfl
@[simp] theorem State.post_trees (m : Msg) : (s.post m).trees = s.trees := rfl
@[simp] theorem State.post_flushes (m : Msg) : (s.post m).flushes = s.flushes := rfl
@[simp] theorem State.post_mgmt (m : Msg) : (s.post m).mgmt = s.mgmt := rfl
@[simp] theorem State.post_ports (m : Msg) : (s.post m).ports = s.ports := rfl
@[simp] theorem State.post_owl (m : Msg) : (s.post m).owl = s.owl := rfl
@[simp] theorem State.post_power (m : Msg) : (s.post m).power = s.power := rfl
@[simp] theorem State.post_defect (m : Msg) : (s.post m).defect = s.defect := rfl
@[simp] theorem State.post_quarantine (m : Msg) : (s.post m).quarantine = s.quarantine := rfl
@[simp] theorem State.post_stops (m : Msg) : (s.post m).stops = s.stops := rfl
@[simp] theorem State.post_spawns (m : Msg) : (s.post m).spawns = s.spawns := rfl
@[simp] theorem State.post_binders (m : Msg) : (s.post m).binders = s.binders := rfl
@[simp] theorem State.post_sentOut (m : Msg) : (s.post m).sentOut = s.sentOut := rfl
@[simp] theorem State.post_cur (m : Msg) : (s.post m).cur = s.cur := rfl
@[simp] theorem State.post_mark (m : Msg) : (s.post m).mark = s.mark := rfl
@[simp] theorem State.post_arg (m : Msg) : (s.post m).arg = s.arg := rfl
@[simp] theorem State.post_inputs (m : Msg) : (s.post m).inputs = s.inputs := rfl
@[simp] theorem State.post_free (m : Msg) : (s.post m).free = s.free := rfl
@[simp] theorem State.post_turn (m : Msg) : (s.post m).turn = s.turn := rfl

/-! #### soon -/

@[simp] theorem State.soon_slots (m : Msg) : (s.soon m).slots = s.slots := rfl
@[simp] theorem State.soon_cores (m : Msg) : (s.soon m).cores = s.cores := rfl
@[simp] theorem State.soon_octets (m : Msg) : (s.soon m).octets = s.octets := rfl
@[simp] theorem State.soon_clusters (m : Msg) : (s.soon m).clusters = s.clusters := rfl
@[simp] theorem State.soon_dies (m : Msg) : (s.soon m).dies = s.dies := rfl
@[simp] theorem State.soon_mem (m : Msg) : (s.soon m).mem = s.mem := rfl
@[simp] theorem State.soon_home (m : Msg) : (s.soon m).home = s.home := rfl
@[simp] theorem State.soon_rdc (m : Msg) : (s.soon m).rdc = s.rdc := rfl
@[simp] theorem State.soon_work (m : Msg) : (s.soon m).work = s.work := rfl
@[simp] theorem State.soon_pinned (m : Msg) : (s.soon m).pinned = s.pinned := rfl
@[simp] theorem State.soon_changed (m : Msg) : (s.soon m).changed = s.changed := rfl
@[simp] theorem State.soon_mcyc (m : Msg) : (s.soon m).mcyc = s.mcyc := rfl
@[simp] theorem State.soon_watches (m : Msg) : (s.soon m).watches = s.watches := rfl
@[simp] theorem State.soon_ctxs (m : Msg) : (s.soon m).ctxs = s.ctxs := rfl
@[simp] theorem State.soon_deficits (m : Msg) : (s.soon m).deficits = s.deficits := rfl
@[simp] theorem State.soon_tenant (m : Msg) : (s.soon m).tenant = s.tenant := rfl
@[simp] theorem State.soon_lastQ (m : Msg) : (s.soon m).lastQ = s.lastQ := rfl
@[simp] theorem State.soon_kernels (m : Msg) : (s.soon m).kernels = s.kernels := rfl
@[simp] theorem State.soon_groups (m : Msg) : (s.soon m).groups = s.groups := rfl
@[simp] theorem State.soon_frontiers (m : Msg) : (s.soon m).frontiers = s.frontiers := rfl
@[simp] theorem State.soon_conns (m : Msg) : (s.soon m).conns = s.conns := rfl
@[simp] theorem State.soon_bars (m : Msg) : (s.soon m).bars = s.bars := rfl
@[simp] theorem State.soon_gbars (m : Msg) : (s.soon m).gbars = s.gbars := rfl
@[simp] theorem State.soon_trees (m : Msg) : (s.soon m).trees = s.trees := rfl
@[simp] theorem State.soon_flushes (m : Msg) : (s.soon m).flushes = s.flushes := rfl
@[simp] theorem State.soon_mgmt (m : Msg) : (s.soon m).mgmt = s.mgmt := rfl
@[simp] theorem State.soon_ports (m : Msg) : (s.soon m).ports = s.ports := rfl
@[simp] theorem State.soon_owl (m : Msg) : (s.soon m).owl = s.owl := rfl
@[simp] theorem State.soon_power (m : Msg) : (s.soon m).power = s.power := rfl
@[simp] theorem State.soon_defect (m : Msg) : (s.soon m).defect = s.defect := rfl
@[simp] theorem State.soon_quarantine (m : Msg) : (s.soon m).quarantine = s.quarantine := rfl
@[simp] theorem State.soon_stops (m : Msg) : (s.soon m).stops = s.stops := rfl
@[simp] theorem State.soon_spawns (m : Msg) : (s.soon m).spawns = s.spawns := rfl
@[simp] theorem State.soon_binders (m : Msg) : (s.soon m).binders = s.binders := rfl
@[simp] theorem State.soon_sentOut (m : Msg) : (s.soon m).sentOut = s.sentOut := rfl
@[simp] theorem State.soon_cur (m : Msg) : (s.soon m).cur = s.cur := rfl
@[simp] theorem State.soon_mark (m : Msg) : (s.soon m).mark = s.mark := rfl
@[simp] theorem State.soon_arg (m : Msg) : (s.soon m).arg = s.arg := rfl
@[simp] theorem State.soon_inputs (m : Msg) : (s.soon m).inputs = s.inputs := rfl
@[simp] theorem State.soon_free (m : Msg) : (s.soon m).free = s.free := rfl
@[simp] theorem State.soon_turn (m : Msg) : (s.soon m).turn = s.turn := rfl

/-! #### onGroup -/

@[simp] theorem State.onGroup_slots (k : Nat) (f : Group → Group) : (s.onGroup k f).slots = s.slots := by unfold State.onGroup; split <;> rfl
@[simp] theorem State.onGroup_cores (k : Nat) (f : Group → Group) : (s.onGroup k f).cores = s.cores := by unfold State.onGroup; split <;> rfl
@[simp] theorem State.onGroup_octets (k : Nat) (f : Group → Group) : (s.onGroup k f).octets = s.octets := by unfold State.onGroup; split <;> rfl
@[simp] theorem State.onGroup_clusters (k : Nat) (f : Group → Group) : (s.onGroup k f).clusters = s.clusters := by unfold State.onGroup; split <;> rfl
@[simp] theorem State.onGroup_dies (k : Nat) (f : Group → Group) : (s.onGroup k f).dies = s.dies := by unfold State.onGroup; split <;> rfl
@[simp] theorem State.onGroup_mem (k : Nat) (f : Group → Group) : (s.onGroup k f).mem = s.mem := by unfold State.onGroup; split <;> rfl
@[simp] theorem State.onGroup_home (k : Nat) (f : Group → Group) : (s.onGroup k f).home = s.home := by unfold State.onGroup; split <;> rfl
@[simp] theorem State.onGroup_rdc (k : Nat) (f : Group → Group) : (s.onGroup k f).rdc = s.rdc := by unfold State.onGroup; split <;> rfl
@[simp] theorem State.onGroup_work (k : Nat) (f : Group → Group) : (s.onGroup k f).work = s.work := by unfold State.onGroup; split <;> rfl
@[simp] theorem State.onGroup_pinned (k : Nat) (f : Group → Group) : (s.onGroup k f).pinned = s.pinned := by unfold State.onGroup; split <;> rfl
@[simp] theorem State.onGroup_changed (k : Nat) (f : Group → Group) : (s.onGroup k f).changed = s.changed := by unfold State.onGroup; split <;> rfl
@[simp] theorem State.onGroup_mcyc (k : Nat) (f : Group → Group) : (s.onGroup k f).mcyc = s.mcyc := by unfold State.onGroup; split <;> rfl
@[simp] theorem State.onGroup_watches (k : Nat) (f : Group → Group) : (s.onGroup k f).watches = s.watches := by unfold State.onGroup; split <;> rfl
@[simp] theorem State.onGroup_ctxs (k : Nat) (f : Group → Group) : (s.onGroup k f).ctxs = s.ctxs := by unfold State.onGroup; split <;> rfl
@[simp] theorem State.onGroup_deficits (k : Nat) (f : Group → Group) : (s.onGroup k f).deficits = s.deficits := by unfold State.onGroup; split <;> rfl
@[simp] theorem State.onGroup_tenant (k : Nat) (f : Group → Group) : (s.onGroup k f).tenant = s.tenant := by unfold State.onGroup; split <;> rfl
@[simp] theorem State.onGroup_lastQ (k : Nat) (f : Group → Group) : (s.onGroup k f).lastQ = s.lastQ := by unfold State.onGroup; split <;> rfl
@[simp] theorem State.onGroup_kernels (k : Nat) (f : Group → Group) : (s.onGroup k f).kernels = s.kernels := by unfold State.onGroup; split <;> rfl
@[simp] theorem State.onGroup_frontiers (k : Nat) (f : Group → Group) : (s.onGroup k f).frontiers = s.frontiers := by unfold State.onGroup; split <;> rfl
@[simp] theorem State.onGroup_conns (k : Nat) (f : Group → Group) : (s.onGroup k f).conns = s.conns := by unfold State.onGroup; split <;> rfl
@[simp] theorem State.onGroup_bars (k : Nat) (f : Group → Group) : (s.onGroup k f).bars = s.bars := by unfold State.onGroup; split <;> rfl
@[simp] theorem State.onGroup_gbars (k : Nat) (f : Group → Group) : (s.onGroup k f).gbars = s.gbars := by unfold State.onGroup; split <;> rfl
@[simp] theorem State.onGroup_trees (k : Nat) (f : Group → Group) : (s.onGroup k f).trees = s.trees := by unfold State.onGroup; split <;> rfl
@[simp] theorem State.onGroup_flushes (k : Nat) (f : Group → Group) : (s.onGroup k f).flushes = s.flushes := by unfold State.onGroup; split <;> rfl
@[simp] theorem State.onGroup_mgmt (k : Nat) (f : Group → Group) : (s.onGroup k f).mgmt = s.mgmt := by unfold State.onGroup; split <;> rfl
@[simp] theorem State.onGroup_ports (k : Nat) (f : Group → Group) : (s.onGroup k f).ports = s.ports := by unfold State.onGroup; split <;> rfl
@[simp] theorem State.onGroup_owl (k : Nat) (f : Group → Group) : (s.onGroup k f).owl = s.owl := by unfold State.onGroup; split <;> rfl
@[simp] theorem State.onGroup_power (k : Nat) (f : Group → Group) : (s.onGroup k f).power = s.power := by unfold State.onGroup; split <;> rfl
@[simp] theorem State.onGroup_defect (k : Nat) (f : Group → Group) : (s.onGroup k f).defect = s.defect := by unfold State.onGroup; split <;> rfl
@[simp] theorem State.onGroup_quarantine (k : Nat) (f : Group → Group) : (s.onGroup k f).quarantine = s.quarantine := by unfold State.onGroup; split <;> rfl
@[simp] theorem State.onGroup_stops (k : Nat) (f : Group → Group) : (s.onGroup k f).stops = s.stops := by unfold State.onGroup; split <;> rfl
@[simp] theorem State.onGroup_spawns (k : Nat) (f : Group → Group) : (s.onGroup k f).spawns = s.spawns := by unfold State.onGroup; split <;> rfl
@[simp] theorem State.onGroup_binders (k : Nat) (f : Group → Group) : (s.onGroup k f).binders = s.binders := by unfold State.onGroup; split <;> rfl
@[simp] theorem State.onGroup_sentOut (k : Nat) (f : Group → Group) : (s.onGroup k f).sentOut = s.sentOut := by unfold State.onGroup; split <;> rfl
@[simp] theorem State.onGroup_cur (k : Nat) (f : Group → Group) : (s.onGroup k f).cur = s.cur := by unfold State.onGroup; split <;> rfl
@[simp] theorem State.onGroup_mark (k : Nat) (f : Group → Group) : (s.onGroup k f).mark = s.mark := by unfold State.onGroup; split <;> rfl
@[simp] theorem State.onGroup_arg (k : Nat) (f : Group → Group) : (s.onGroup k f).arg = s.arg := by unfold State.onGroup; split <;> rfl
@[simp] theorem State.onGroup_inflight (k : Nat) (f : Group → Group) : (s.onGroup k f).inflight = s.inflight := by unfold State.onGroup; split <;> rfl
@[simp] theorem State.onGroup_inputs (k : Nat) (f : Group → Group) : (s.onGroup k f).inputs = s.inputs := by unfold State.onGroup; split <;> rfl
@[simp] theorem State.onGroup_free (k : Nat) (f : Group → Group) : (s.onGroup k f).free = s.free := by unfold State.onGroup; split <;> rfl
@[simp] theorem State.onGroup_turn (k : Nat) (f : Group → Group) : (s.onGroup k f).turn = s.turn := by unfold State.onGroup; split <;> rfl

/-! #### onKernel -/

@[simp] theorem State.onKernel_slots (k : Nat) (f : Kernel → Kernel) : (s.onKernel k f).slots = s.slots := by unfold State.onKernel; split <;> rfl
@[simp] theorem State.onKernel_cores (k : Nat) (f : Kernel → Kernel) : (s.onKernel k f).cores = s.cores := by unfold State.onKernel; split <;> rfl
@[simp] theorem State.onKernel_octets (k : Nat) (f : Kernel → Kernel) : (s.onKernel k f).octets = s.octets := by unfold State.onKernel; split <;> rfl
@[simp] theorem State.onKernel_clusters (k : Nat) (f : Kernel → Kernel) : (s.onKernel k f).clusters = s.clusters := by unfold State.onKernel; split <;> rfl
@[simp] theorem State.onKernel_dies (k : Nat) (f : Kernel → Kernel) : (s.onKernel k f).dies = s.dies := by unfold State.onKernel; split <;> rfl
@[simp] theorem State.onKernel_mem (k : Nat) (f : Kernel → Kernel) : (s.onKernel k f).mem = s.mem := by unfold State.onKernel; split <;> rfl
@[simp] theorem State.onKernel_home (k : Nat) (f : Kernel → Kernel) : (s.onKernel k f).home = s.home := by unfold State.onKernel; split <;> rfl
@[simp] theorem State.onKernel_rdc (k : Nat) (f : Kernel → Kernel) : (s.onKernel k f).rdc = s.rdc := by unfold State.onKernel; split <;> rfl
@[simp] theorem State.onKernel_work (k : Nat) (f : Kernel → Kernel) : (s.onKernel k f).work = s.work := by unfold State.onKernel; split <;> rfl
@[simp] theorem State.onKernel_pinned (k : Nat) (f : Kernel → Kernel) : (s.onKernel k f).pinned = s.pinned := by unfold State.onKernel; split <;> rfl
@[simp] theorem State.onKernel_changed (k : Nat) (f : Kernel → Kernel) : (s.onKernel k f).changed = s.changed := by unfold State.onKernel; split <;> rfl
@[simp] theorem State.onKernel_mcyc (k : Nat) (f : Kernel → Kernel) : (s.onKernel k f).mcyc = s.mcyc := by unfold State.onKernel; split <;> rfl
@[simp] theorem State.onKernel_watches (k : Nat) (f : Kernel → Kernel) : (s.onKernel k f).watches = s.watches := by unfold State.onKernel; split <;> rfl
@[simp] theorem State.onKernel_ctxs (k : Nat) (f : Kernel → Kernel) : (s.onKernel k f).ctxs = s.ctxs := by unfold State.onKernel; split <;> rfl
@[simp] theorem State.onKernel_deficits (k : Nat) (f : Kernel → Kernel) : (s.onKernel k f).deficits = s.deficits := by unfold State.onKernel; split <;> rfl
@[simp] theorem State.onKernel_tenant (k : Nat) (f : Kernel → Kernel) : (s.onKernel k f).tenant = s.tenant := by unfold State.onKernel; split <;> rfl
@[simp] theorem State.onKernel_lastQ (k : Nat) (f : Kernel → Kernel) : (s.onKernel k f).lastQ = s.lastQ := by unfold State.onKernel; split <;> rfl
@[simp] theorem State.onKernel_groups (k : Nat) (f : Kernel → Kernel) : (s.onKernel k f).groups = s.groups := by unfold State.onKernel; split <;> rfl
@[simp] theorem State.onKernel_frontiers (k : Nat) (f : Kernel → Kernel) : (s.onKernel k f).frontiers = s.frontiers := by unfold State.onKernel; split <;> rfl
@[simp] theorem State.onKernel_conns (k : Nat) (f : Kernel → Kernel) : (s.onKernel k f).conns = s.conns := by unfold State.onKernel; split <;> rfl
@[simp] theorem State.onKernel_bars (k : Nat) (f : Kernel → Kernel) : (s.onKernel k f).bars = s.bars := by unfold State.onKernel; split <;> rfl
@[simp] theorem State.onKernel_gbars (k : Nat) (f : Kernel → Kernel) : (s.onKernel k f).gbars = s.gbars := by unfold State.onKernel; split <;> rfl
@[simp] theorem State.onKernel_trees (k : Nat) (f : Kernel → Kernel) : (s.onKernel k f).trees = s.trees := by unfold State.onKernel; split <;> rfl
@[simp] theorem State.onKernel_flushes (k : Nat) (f : Kernel → Kernel) : (s.onKernel k f).flushes = s.flushes := by unfold State.onKernel; split <;> rfl
@[simp] theorem State.onKernel_mgmt (k : Nat) (f : Kernel → Kernel) : (s.onKernel k f).mgmt = s.mgmt := by unfold State.onKernel; split <;> rfl
@[simp] theorem State.onKernel_ports (k : Nat) (f : Kernel → Kernel) : (s.onKernel k f).ports = s.ports := by unfold State.onKernel; split <;> rfl
@[simp] theorem State.onKernel_owl (k : Nat) (f : Kernel → Kernel) : (s.onKernel k f).owl = s.owl := by unfold State.onKernel; split <;> rfl
@[simp] theorem State.onKernel_power (k : Nat) (f : Kernel → Kernel) : (s.onKernel k f).power = s.power := by unfold State.onKernel; split <;> rfl
@[simp] theorem State.onKernel_defect (k : Nat) (f : Kernel → Kernel) : (s.onKernel k f).defect = s.defect := by unfold State.onKernel; split <;> rfl
@[simp] theorem State.onKernel_quarantine (k : Nat) (f : Kernel → Kernel) : (s.onKernel k f).quarantine = s.quarantine := by unfold State.onKernel; split <;> rfl
@[simp] theorem State.onKernel_stops (k : Nat) (f : Kernel → Kernel) : (s.onKernel k f).stops = s.stops := by unfold State.onKernel; split <;> rfl
@[simp] theorem State.onKernel_spawns (k : Nat) (f : Kernel → Kernel) : (s.onKernel k f).spawns = s.spawns := by unfold State.onKernel; split <;> rfl
@[simp] theorem State.onKernel_binders (k : Nat) (f : Kernel → Kernel) : (s.onKernel k f).binders = s.binders := by unfold State.onKernel; split <;> rfl
@[simp] theorem State.onKernel_sentOut (k : Nat) (f : Kernel → Kernel) : (s.onKernel k f).sentOut = s.sentOut := by unfold State.onKernel; split <;> rfl
@[simp] theorem State.onKernel_cur (k : Nat) (f : Kernel → Kernel) : (s.onKernel k f).cur = s.cur := by unfold State.onKernel; split <;> rfl
@[simp] theorem State.onKernel_mark (k : Nat) (f : Kernel → Kernel) : (s.onKernel k f).mark = s.mark := by unfold State.onKernel; split <;> rfl
@[simp] theorem State.onKernel_arg (k : Nat) (f : Kernel → Kernel) : (s.onKernel k f).arg = s.arg := by unfold State.onKernel; split <;> rfl
@[simp] theorem State.onKernel_inflight (k : Nat) (f : Kernel → Kernel) : (s.onKernel k f).inflight = s.inflight := by unfold State.onKernel; split <;> rfl
@[simp] theorem State.onKernel_inputs (k : Nat) (f : Kernel → Kernel) : (s.onKernel k f).inputs = s.inputs := by unfold State.onKernel; split <;> rfl
@[simp] theorem State.onKernel_free (k : Nat) (f : Kernel → Kernel) : (s.onKernel k f).free = s.free := by unfold State.onKernel; split <;> rfl
@[simp] theorem State.onKernel_turn (k : Nat) (f : Kernel → Kernel) : (s.onKernel k f).turn = s.turn := by unfold State.onKernel; split <;> rfl

/-! #### onCtx -/

@[simp] theorem State.onCtx_slots (k : Nat) (f : Ctx → Ctx) : (s.onCtx k f).slots = s.slots := by unfold State.onCtx; split <;> rfl
@[simp] theorem State.onCtx_cores (k : Nat) (f : Ctx → Ctx) : (s.onCtx k f).cores = s.cores := by unfold State.onCtx; split <;> rfl
@[simp] theorem State.onCtx_octets (k : Nat) (f : Ctx → Ctx) : (s.onCtx k f).octets = s.octets := by unfold State.onCtx; split <;> rfl
@[simp] theorem State.onCtx_clusters (k : Nat) (f : Ctx → Ctx) : (s.onCtx k f).clusters = s.clusters := by unfold State.onCtx; split <;> rfl
@[simp] theorem State.onCtx_dies (k : Nat) (f : Ctx → Ctx) : (s.onCtx k f).dies = s.dies := by unfold State.onCtx; split <;> rfl
@[simp] theorem State.onCtx_mem (k : Nat) (f : Ctx → Ctx) : (s.onCtx k f).mem = s.mem := by unfold State.onCtx; split <;> rfl
@[simp] theorem State.onCtx_home (k : Nat) (f : Ctx → Ctx) : (s.onCtx k f).home = s.home := by unfold State.onCtx; split <;> rfl
@[simp] theorem State.onCtx_rdc (k : Nat) (f : Ctx → Ctx) : (s.onCtx k f).rdc = s.rdc := by unfold State.onCtx; split <;> rfl
@[simp] theorem State.onCtx_work (k : Nat) (f : Ctx → Ctx) : (s.onCtx k f).work = s.work := by unfold State.onCtx; split <;> rfl
@[simp] theorem State.onCtx_pinned (k : Nat) (f : Ctx → Ctx) : (s.onCtx k f).pinned = s.pinned := by unfold State.onCtx; split <;> rfl
@[simp] theorem State.onCtx_changed (k : Nat) (f : Ctx → Ctx) : (s.onCtx k f).changed = s.changed := by unfold State.onCtx; split <;> rfl
@[simp] theorem State.onCtx_mcyc (k : Nat) (f : Ctx → Ctx) : (s.onCtx k f).mcyc = s.mcyc := by unfold State.onCtx; split <;> rfl
@[simp] theorem State.onCtx_watches (k : Nat) (f : Ctx → Ctx) : (s.onCtx k f).watches = s.watches := by unfold State.onCtx; split <;> rfl
@[simp] theorem State.onCtx_deficits (k : Nat) (f : Ctx → Ctx) : (s.onCtx k f).deficits = s.deficits := by unfold State.onCtx; split <;> rfl
@[simp] theorem State.onCtx_tenant (k : Nat) (f : Ctx → Ctx) : (s.onCtx k f).tenant = s.tenant := by unfold State.onCtx; split <;> rfl
@[simp] theorem State.onCtx_lastQ (k : Nat) (f : Ctx → Ctx) : (s.onCtx k f).lastQ = s.lastQ := by unfold State.onCtx; split <;> rfl
@[simp] theorem State.onCtx_kernels (k : Nat) (f : Ctx → Ctx) : (s.onCtx k f).kernels = s.kernels := by unfold State.onCtx; split <;> rfl
@[simp] theorem State.onCtx_groups (k : Nat) (f : Ctx → Ctx) : (s.onCtx k f).groups = s.groups := by unfold State.onCtx; split <;> rfl
@[simp] theorem State.onCtx_frontiers (k : Nat) (f : Ctx → Ctx) : (s.onCtx k f).frontiers = s.frontiers := by unfold State.onCtx; split <;> rfl
@[simp] theorem State.onCtx_conns (k : Nat) (f : Ctx → Ctx) : (s.onCtx k f).conns = s.conns := by unfold State.onCtx; split <;> rfl
@[simp] theorem State.onCtx_bars (k : Nat) (f : Ctx → Ctx) : (s.onCtx k f).bars = s.bars := by unfold State.onCtx; split <;> rfl
@[simp] theorem State.onCtx_gbars (k : Nat) (f : Ctx → Ctx) : (s.onCtx k f).gbars = s.gbars := by unfold State.onCtx; split <;> rfl
@[simp] theorem State.onCtx_trees (k : Nat) (f : Ctx → Ctx) : (s.onCtx k f).trees = s.trees := by unfold State.onCtx; split <;> rfl
@[simp] theorem State.onCtx_flushes (k : Nat) (f : Ctx → Ctx) : (s.onCtx k f).flushes = s.flushes := by unfold State.onCtx; split <;> rfl
@[simp] theorem State.onCtx_mgmt (k : Nat) (f : Ctx → Ctx) : (s.onCtx k f).mgmt = s.mgmt := by unfold State.onCtx; split <;> rfl
@[simp] theorem State.onCtx_ports (k : Nat) (f : Ctx → Ctx) : (s.onCtx k f).ports = s.ports := by unfold State.onCtx; split <;> rfl
@[simp] theorem State.onCtx_owl (k : Nat) (f : Ctx → Ctx) : (s.onCtx k f).owl = s.owl := by unfold State.onCtx; split <;> rfl
@[simp] theorem State.onCtx_power (k : Nat) (f : Ctx → Ctx) : (s.onCtx k f).power = s.power := by unfold State.onCtx; split <;> rfl
@[simp] theorem State.onCtx_defect (k : Nat) (f : Ctx → Ctx) : (s.onCtx k f).defect = s.defect := by unfold State.onCtx; split <;> rfl
@[simp] theorem State.onCtx_quarantine (k : Nat) (f : Ctx → Ctx) : (s.onCtx k f).quarantine = s.quarantine := by unfold State.onCtx; split <;> rfl
@[simp] theorem State.onCtx_stops (k : Nat) (f : Ctx → Ctx) : (s.onCtx k f).stops = s.stops := by unfold State.onCtx; split <;> rfl
@[simp] theorem State.onCtx_spawns (k : Nat) (f : Ctx → Ctx) : (s.onCtx k f).spawns = s.spawns := by unfold State.onCtx; split <;> rfl
@[simp] theorem State.onCtx_binders (k : Nat) (f : Ctx → Ctx) : (s.onCtx k f).binders = s.binders := by unfold State.onCtx; split <;> rfl
@[simp] theorem State.onCtx_sentOut (k : Nat) (f : Ctx → Ctx) : (s.onCtx k f).sentOut = s.sentOut := by unfold State.onCtx; split <;> rfl
@[simp] theorem State.onCtx_cur (k : Nat) (f : Ctx → Ctx) : (s.onCtx k f).cur = s.cur := by unfold State.onCtx; split <;> rfl
@[simp] theorem State.onCtx_mark (k : Nat) (f : Ctx → Ctx) : (s.onCtx k f).mark = s.mark := by unfold State.onCtx; split <;> rfl
@[simp] theorem State.onCtx_arg (k : Nat) (f : Ctx → Ctx) : (s.onCtx k f).arg = s.arg := by unfold State.onCtx; split <;> rfl
@[simp] theorem State.onCtx_inflight (k : Nat) (f : Ctx → Ctx) : (s.onCtx k f).inflight = s.inflight := by unfold State.onCtx; split <;> rfl
@[simp] theorem State.onCtx_inputs (k : Nat) (f : Ctx → Ctx) : (s.onCtx k f).inputs = s.inputs := by unfold State.onCtx; split <;> rfl
@[simp] theorem State.onCtx_free (k : Nat) (f : Ctx → Ctx) : (s.onCtx k f).free = s.free := by unfold State.onCtx; split <;> rfl
@[simp] theorem State.onCtx_turn (k : Nat) (f : Ctx → Ctx) : (s.onCtx k f).turn = s.turn := by unfold State.onCtx; split <;> rfl

/-! #### onConn -/

@[simp] theorem State.onConn_slots (k : Nat) (f : Connector → Connector) : (s.onConn k f).slots = s.slots := by unfold State.onConn; split <;> rfl
@[simp] theorem State.onConn_cores (k : Nat) (f : Connector → Connector) : (s.onConn k f).cores = s.cores := by unfold State.onConn; split <;> rfl
@[simp] theorem State.onConn_octets (k : Nat) (f : Connector → Connector) : (s.onConn k f).octets = s.octets := by unfold State.onConn; split <;> rfl
@[simp] theorem State.onConn_clusters (k : Nat) (f : Connector → Connector) : (s.onConn k f).clusters = s.clusters := by unfold State.onConn; split <;> rfl
@[simp] theorem State.onConn_dies (k : Nat) (f : Connector → Connector) : (s.onConn k f).dies = s.dies := by unfold State.onConn; split <;> rfl
@[simp] theorem State.onConn_mem (k : Nat) (f : Connector → Connector) : (s.onConn k f).mem = s.mem := by unfold State.onConn; split <;> rfl
@[simp] theorem State.onConn_home (k : Nat) (f : Connector → Connector) : (s.onConn k f).home = s.home := by unfold State.onConn; split <;> rfl
@[simp] theorem State.onConn_rdc (k : Nat) (f : Connector → Connector) : (s.onConn k f).rdc = s.rdc := by unfold State.onConn; split <;> rfl
@[simp] theorem State.onConn_work (k : Nat) (f : Connector → Connector) : (s.onConn k f).work = s.work := by unfold State.onConn; split <;> rfl
@[simp] theorem State.onConn_pinned (k : Nat) (f : Connector → Connector) : (s.onConn k f).pinned = s.pinned := by unfold State.onConn; split <;> rfl
@[simp] theorem State.onConn_changed (k : Nat) (f : Connector → Connector) : (s.onConn k f).changed = s.changed := by unfold State.onConn; split <;> rfl
@[simp] theorem State.onConn_mcyc (k : Nat) (f : Connector → Connector) : (s.onConn k f).mcyc = s.mcyc := by unfold State.onConn; split <;> rfl
@[simp] theorem State.onConn_watches (k : Nat) (f : Connector → Connector) : (s.onConn k f).watches = s.watches := by unfold State.onConn; split <;> rfl
@[simp] theorem State.onConn_ctxs (k : Nat) (f : Connector → Connector) : (s.onConn k f).ctxs = s.ctxs := by unfold State.onConn; split <;> rfl
@[simp] theorem State.onConn_deficits (k : Nat) (f : Connector → Connector) : (s.onConn k f).deficits = s.deficits := by unfold State.onConn; split <;> rfl
@[simp] theorem State.onConn_tenant (k : Nat) (f : Connector → Connector) : (s.onConn k f).tenant = s.tenant := by unfold State.onConn; split <;> rfl
@[simp] theorem State.onConn_lastQ (k : Nat) (f : Connector → Connector) : (s.onConn k f).lastQ = s.lastQ := by unfold State.onConn; split <;> rfl
@[simp] theorem State.onConn_kernels (k : Nat) (f : Connector → Connector) : (s.onConn k f).kernels = s.kernels := by unfold State.onConn; split <;> rfl
@[simp] theorem State.onConn_groups (k : Nat) (f : Connector → Connector) : (s.onConn k f).groups = s.groups := by unfold State.onConn; split <;> rfl
@[simp] theorem State.onConn_frontiers (k : Nat) (f : Connector → Connector) : (s.onConn k f).frontiers = s.frontiers := by unfold State.onConn; split <;> rfl
@[simp] theorem State.onConn_bars (k : Nat) (f : Connector → Connector) : (s.onConn k f).bars = s.bars := by unfold State.onConn; split <;> rfl
@[simp] theorem State.onConn_gbars (k : Nat) (f : Connector → Connector) : (s.onConn k f).gbars = s.gbars := by unfold State.onConn; split <;> rfl
@[simp] theorem State.onConn_trees (k : Nat) (f : Connector → Connector) : (s.onConn k f).trees = s.trees := by unfold State.onConn; split <;> rfl
@[simp] theorem State.onConn_flushes (k : Nat) (f : Connector → Connector) : (s.onConn k f).flushes = s.flushes := by unfold State.onConn; split <;> rfl
@[simp] theorem State.onConn_mgmt (k : Nat) (f : Connector → Connector) : (s.onConn k f).mgmt = s.mgmt := by unfold State.onConn; split <;> rfl
@[simp] theorem State.onConn_ports (k : Nat) (f : Connector → Connector) : (s.onConn k f).ports = s.ports := by unfold State.onConn; split <;> rfl
@[simp] theorem State.onConn_owl (k : Nat) (f : Connector → Connector) : (s.onConn k f).owl = s.owl := by unfold State.onConn; split <;> rfl
@[simp] theorem State.onConn_power (k : Nat) (f : Connector → Connector) : (s.onConn k f).power = s.power := by unfold State.onConn; split <;> rfl
@[simp] theorem State.onConn_defect (k : Nat) (f : Connector → Connector) : (s.onConn k f).defect = s.defect := by unfold State.onConn; split <;> rfl
@[simp] theorem State.onConn_quarantine (k : Nat) (f : Connector → Connector) : (s.onConn k f).quarantine = s.quarantine := by unfold State.onConn; split <;> rfl
@[simp] theorem State.onConn_stops (k : Nat) (f : Connector → Connector) : (s.onConn k f).stops = s.stops := by unfold State.onConn; split <;> rfl
@[simp] theorem State.onConn_spawns (k : Nat) (f : Connector → Connector) : (s.onConn k f).spawns = s.spawns := by unfold State.onConn; split <;> rfl
@[simp] theorem State.onConn_binders (k : Nat) (f : Connector → Connector) : (s.onConn k f).binders = s.binders := by unfold State.onConn; split <;> rfl
@[simp] theorem State.onConn_sentOut (k : Nat) (f : Connector → Connector) : (s.onConn k f).sentOut = s.sentOut := by unfold State.onConn; split <;> rfl
@[simp] theorem State.onConn_cur (k : Nat) (f : Connector → Connector) : (s.onConn k f).cur = s.cur := by unfold State.onConn; split <;> rfl
@[simp] theorem State.onConn_mark (k : Nat) (f : Connector → Connector) : (s.onConn k f).mark = s.mark := by unfold State.onConn; split <;> rfl
@[simp] theorem State.onConn_arg (k : Nat) (f : Connector → Connector) : (s.onConn k f).arg = s.arg := by unfold State.onConn; split <;> rfl
@[simp] theorem State.onConn_inflight (k : Nat) (f : Connector → Connector) : (s.onConn k f).inflight = s.inflight := by unfold State.onConn; split <;> rfl
@[simp] theorem State.onConn_inputs (k : Nat) (f : Connector → Connector) : (s.onConn k f).inputs = s.inputs := by unfold State.onConn; split <;> rfl
@[simp] theorem State.onConn_free (k : Nat) (f : Connector → Connector) : (s.onConn k f).free = s.free := by unfold State.onConn; split <;> rfl
@[simp] theorem State.onConn_turn (k : Nat) (f : Connector → Connector) : (s.onConn k f).turn = s.turn := by unfold State.onConn; split <;> rfl

/-! ### Reading what was written -/

@[simp] theorem State.slot_setSlot_self (k : Nat) (x : Slot) : (s.setSlot k x).slot k = x := tget_tset_self ..
@[simp] theorem State.slot_setSlot_ne {k j : Nat} (x : Slot) (h : j ≠ k) : (s.setSlot k x).slot j = s.slot j := tget_tset_ne _ _ _ h
@[simp] theorem State.slot_onSlot_self (k : Nat) (f : Slot → Slot) : (s.onSlot k f).slot k = f (s.slot k) := tget_tset_self ..
@[simp] theorem State.slot_onSlot_ne {k j : Nat} (f : Slot → Slot) (h : j ≠ k) : (s.onSlot k f).slot j = s.slot j :=
  tget_tset_ne _ _ _ h
@[simp] theorem State.me_setMe (x : Slot) : (s.setMe x).me = x := tget_tset_self ..
@[simp] theorem State.me_onMe (f : Slot → Slot) : (s.onMe f).me = f s.me := tget_tset_self ..
@[simp] theorem State.core_setCore_self (c : Nat) (x : Core) : (s.setCore c x).core c = x := tget_tset_self ..
@[simp] theorem State.core_setCore_ne {c d : Nat} (x : Core) (h : d ≠ c) : (s.setCore c x).core d = s.core d := tget_tset_ne _ _ _ h
@[simp] theorem State.core_onCore_self (c : Nat) (f : Core → Core) : (s.onCore c f).core c = f (s.core c) := tget_tset_self ..
@[simp] theorem State.core_onCore_ne {c d : Nat} (f : Core → Core) (h : d ≠ c) : (s.onCore c f).core d = s.core d :=
  tget_tset_ne _ _ _ h
@[simp] theorem State.octet_onOctet_self (c : Nat) (f : Octet → Octet) : (s.onOctet c f).octet c = f (s.octet c) := tget_tset_self ..
@[simp] theorem State.octet_onOctet_ne {c d : Nat} (f : Octet → Octet) (h : d ≠ c) : (s.onOctet c f).octet d = s.octet d :=
  tget_tset_ne _ _ _ h
@[simp] theorem State.mreg_setMreg_self (o : Nat) (w : Word) : (s.setMreg o w).mreg o = w := tget_tset_self ..
@[simp] theorem State.mreg_setMreg_ne {o p : Nat} (w : Word) (h : p ≠ o) : (s.setMreg o w).mreg p = s.mreg p := tget_tset_ne _ _ _ h

/-! ### Parts that an update does not touch -/

@[simp] theorem State.setSlot_core (k : Nat) (x : Slot) (j : Nat) : (s.setSlot k x).core j = s.core j := rfl
@[simp] theorem State.setSlot_octet (k : Nat) (x : Slot) (j : Nat) : (s.setSlot k x).octet j = s.octet j := rfl
@[simp] theorem State.setSlot_mreg (k : Nat) (x : Slot) (j : Nat) : (s.setSlot k x).mreg j = s.mreg j := rfl
@[simp] theorem State.setSlot_myCore (k : Nat) (x : Slot) : (s.setSlot k x).myCore = s.myCore := rfl
@[simp] theorem State.setSlot_myOctet (k : Nat) (x : Slot) : (s.setSlot k x).myOctet = s.myOctet := rfl
@[simp] theorem State.onSlot_core (k : Nat) (f : Slot → Slot) (j : Nat) : (s.onSlot k f).core j = s.core j := rfl
@[simp] theorem State.onSlot_octet (k : Nat) (f : Slot → Slot) (j : Nat) : (s.onSlot k f).octet j = s.octet j := rfl
@[simp] theorem State.onSlot_mreg (k : Nat) (f : Slot → Slot) (j : Nat) : (s.onSlot k f).mreg j = s.mreg j := rfl
@[simp] theorem State.onSlot_myCore (k : Nat) (f : Slot → Slot) : (s.onSlot k f).myCore = s.myCore := rfl
@[simp] theorem State.onSlot_myOctet (k : Nat) (f : Slot → Slot) : (s.onSlot k f).myOctet = s.myOctet := rfl
@[simp] theorem State.setCore_slot (c : Nat) (x : Core) (j : Nat) : (s.setCore c x).slot j = s.slot j := rfl
@[simp] theorem State.setCore_octet (c : Nat) (x : Core) (j : Nat) : (s.setCore c x).octet j = s.octet j := rfl
@[simp] theorem State.setCore_mreg (c : Nat) (x : Core) (j : Nat) : (s.setCore c x).mreg j = s.mreg j := rfl
@[simp] theorem State.setCore_me (c : Nat) (x : Core) : (s.setCore c x).me = s.me := rfl
@[simp] theorem State.setCore_myCore (c : Nat) (x : Core) : (s.setCore c x).myCore = s.myCore := rfl
@[simp] theorem State.setCore_myOctet (c : Nat) (x : Core) : (s.setCore c x).myOctet = s.myOctet := rfl
@[simp] theorem State.setCore_myCtx (c : Nat) (x : Core) : (s.setCore c x).myCtx = s.myCtx := rfl
@[simp] theorem State.onCore_slot (c : Nat) (f : Core → Core) (j : Nat) : (s.onCore c f).slot j = s.slot j := rfl
@[simp] theorem State.onCore_octet (c : Nat) (f : Core → Core) (j : Nat) : (s.onCore c f).octet j = s.octet j := rfl
@[simp] theorem State.onCore_mreg (c : Nat) (f : Core → Core) (j : Nat) : (s.onCore c f).mreg j = s.mreg j := rfl
@[simp] theorem State.onCore_me (c : Nat) (f : Core → Core) : (s.onCore c f).me = s.me := rfl
@[simp] theorem State.onCore_myCore (c : Nat) (f : Core → Core) : (s.onCore c f).myCore = s.myCore := rfl
@[simp] theorem State.onCore_myOctet (c : Nat) (f : Core → Core) : (s.onCore c f).myOctet = s.myOctet := rfl
@[simp] theorem State.onCore_myCtx (c : Nat) (f : Core → Core) : (s.onCore c f).myCtx = s.myCtx := rfl
@[simp] theorem State.onOctet_slot (o : Nat) (f : Octet → Octet) (j : Nat) : (s.onOctet o f).slot j = s.slot j := rfl
@[simp] theorem State.onOctet_core (o : Nat) (f : Octet → Octet) (j : Nat) : (s.onOctet o f).core j = s.core j := rfl
@[simp] theorem State.onOctet_mreg (o : Nat) (f : Octet → Octet) (j : Nat) : (s.onOctet o f).mreg j = s.mreg j := rfl
@[simp] theorem State.onOctet_me (o : Nat) (f : Octet → Octet) : (s.onOctet o f).me = s.me := rfl
@[simp] theorem State.onOctet_myCore (o : Nat) (f : Octet → Octet) : (s.onOctet o f).myCore = s.myCore := rfl
@[simp] theorem State.onOctet_myOctet (o : Nat) (f : Octet → Octet) : (s.onOctet o f).myOctet = s.myOctet := rfl
@[simp] theorem State.onOctet_myCtx (o : Nat) (f : Octet → Octet) : (s.onOctet o f).myCtx = s.myCtx := rfl
@[simp] theorem State.onCluster_slot (c : Nat) (f : Cluster → Cluster) (j : Nat) : (s.onCluster c f).slot j = s.slot j := rfl
@[simp] theorem State.onCluster_core (c : Nat) (f : Cluster → Cluster) (j : Nat) : (s.onCluster c f).core j = s.core j := rfl
@[simp] theorem State.onCluster_octet (c : Nat) (f : Cluster → Cluster) (j : Nat) : (s.onCluster c f).octet j = s.octet j := rfl
@[simp] theorem State.onCluster_mreg (c : Nat) (f : Cluster → Cluster) (j : Nat) : (s.onCluster c f).mreg j = s.mreg j := rfl
@[simp] theorem State.onCluster_me (c : Nat) (f : Cluster → Cluster) : (s.onCluster c f).me = s.me := rfl
@[simp] theorem State.onCluster_myCore (c : Nat) (f : Cluster → Cluster) : (s.onCluster c f).myCore = s.myCore := rfl
@[simp] theorem State.onCluster_myOctet (c : Nat) (f : Cluster → Cluster) : (s.onCluster c f).myOctet = s.myOctet := rfl
@[simp] theorem State.onCluster_myCtx (c : Nat) (f : Cluster → Cluster) : (s.onCluster c f).myCtx = s.myCtx := rfl
@[simp] theorem State.onDie_slot (d : Nat) (f : Die → Die) (j : Nat) : (s.onDie d f).slot j = s.slot j := rfl
@[simp] theorem State.onDie_core (d : Nat) (f : Die → Die) (j : Nat) : (s.onDie d f).core j = s.core j := rfl
@[simp] theorem State.onDie_octet (d : Nat) (f : Die → Die) (j : Nat) : (s.onDie d f).octet j = s.octet j := rfl
@[simp] theorem State.onDie_mreg (d : Nat) (f : Die → Die) (j : Nat) : (s.onDie d f).mreg j = s.mreg j := rfl
@[simp] theorem State.onDie_me (d : Nat) (f : Die → Die) : (s.onDie d f).me = s.me := rfl
@[simp] theorem State.onDie_myCore (d : Nat) (f : Die → Die) : (s.onDie d f).myCore = s.myCore := rfl
@[simp] theorem State.onDie_myOctet (d : Nat) (f : Die → Die) : (s.onDie d f).myOctet = s.myOctet := rfl
@[simp] theorem State.onDie_myCtx (d : Nat) (f : Die → Die) : (s.onDie d f).myCtx = s.myCtx := rfl
@[simp] theorem State.onPort_slot (p : Nat) (f : PortLink → PortLink) (j : Nat) : (s.onPort p f).slot j = s.slot j := rfl
@[simp] theorem State.onPort_core (p : Nat) (f : PortLink → PortLink) (j : Nat) : (s.onPort p f).core j = s.core j := rfl
@[simp] theorem State.onPort_octet (p : Nat) (f : PortLink → PortLink) (j : Nat) : (s.onPort p f).octet j = s.octet j := rfl
@[simp] theorem State.onPort_mreg (p : Nat) (f : PortLink → PortLink) (j : Nat) : (s.onPort p f).mreg j = s.mreg j := rfl
@[simp] theorem State.onPort_me (p : Nat) (f : PortLink → PortLink) : (s.onPort p f).me = s.me := rfl
@[simp] theorem State.onPort_myCore (p : Nat) (f : PortLink → PortLink) : (s.onPort p f).myCore = s.myCore := rfl
@[simp] theorem State.onPort_myOctet (p : Nat) (f : PortLink → PortLink) : (s.onPort p f).myOctet = s.myOctet := rfl
@[simp] theorem State.onPort_myCtx (p : Nat) (f : PortLink → PortLink) : (s.onPort p f).myCtx = s.myCtx := rfl
@[simp] theorem State.setMreg_slot (off : Nat) (w : Word) (j : Nat) : (s.setMreg off w).slot j = s.slot j := rfl
@[simp] theorem State.setMreg_core (off : Nat) (w : Word) (j : Nat) : (s.setMreg off w).core j = s.core j := rfl
@[simp] theorem State.setMreg_octet (off : Nat) (w : Word) (j : Nat) : (s.setMreg off w).octet j = s.octet j := rfl
@[simp] theorem State.setMreg_me (off : Nat) (w : Word) : (s.setMreg off w).me = s.me := rfl
@[simp] theorem State.setMreg_myCore (off : Nat) (w : Word) : (s.setMreg off w).myCore = s.myCore := rfl
@[simp] theorem State.setMreg_myOctet (off : Nat) (w : Word) : (s.setMreg off w).myOctet = s.myOctet := rfl
@[simp] theorem State.setMreg_myCtx (off : Nat) (w : Word) : (s.setMreg off w).myCtx = s.myCtx := rfl
@[simp] theorem State.setMe_core (x : Slot) (j : Nat) : (s.setMe x).core j = s.core j := rfl
@[simp] theorem State.setMe_octet (x : Slot) (j : Nat) : (s.setMe x).octet j = s.octet j := rfl
@[simp] theorem State.setMe_mreg (x : Slot) (j : Nat) : (s.setMe x).mreg j = s.mreg j := rfl
@[simp] theorem State.setMe_myCore (x : Slot) : (s.setMe x).myCore = s.myCore := rfl
@[simp] theorem State.setMe_myOctet (x : Slot) : (s.setMe x).myOctet = s.myOctet := rfl
@[simp] theorem State.onMe_core (f : Slot → Slot) (j : Nat) : (s.onMe f).core j = s.core j := rfl
@[simp] theorem State.onMe_octet (f : Slot → Slot) (j : Nat) : (s.onMe f).octet j = s.octet j := rfl
@[simp] theorem State.onMe_mreg (f : Slot → Slot) (j : Nat) : (s.onMe f).mreg j = s.mreg j := rfl
@[simp] theorem State.onMe_myCore (f : Slot → Slot) : (s.onMe f).myCore = s.myCore := rfl
@[simp] theorem State.onMe_myOctet (f : Slot → Slot) : (s.onMe f).myOctet = s.myOctet := rfl
@[simp] theorem State.postAt_slot (due : Nat) (m : Msg) (j : Nat) : (s.postAt due m).slot j = s.slot j := rfl
@[simp] theorem State.postAt_core (due : Nat) (m : Msg) (j : Nat) : (s.postAt due m).core j = s.core j := rfl
@[simp] theorem State.postAt_octet (due : Nat) (m : Msg) (j : Nat) : (s.postAt due m).octet j = s.octet j := rfl
@[simp] theorem State.postAt_mreg (due : Nat) (m : Msg) (j : Nat) : (s.postAt due m).mreg j = s.mreg j := rfl
@[simp] theorem State.postAt_me (due : Nat) (m : Msg) : (s.postAt due m).me = s.me := rfl
@[simp] theorem State.postAt_myCore (due : Nat) (m : Msg) : (s.postAt due m).myCore = s.myCore := rfl
@[simp] theorem State.postAt_myOctet (due : Nat) (m : Msg) : (s.postAt due m).myOctet = s.myOctet := rfl
@[simp] theorem State.postAt_myCtx (due : Nat) (m : Msg) : (s.postAt due m).myCtx = s.myCtx := rfl
@[simp] theorem State.post_slot (m : Msg) (j : Nat) : (s.post m).slot j = s.slot j := rfl
@[simp] theorem State.post_core (m : Msg) (j : Nat) : (s.post m).core j = s.core j := rfl
@[simp] theorem State.post_octet (m : Msg) (j : Nat) : (s.post m).octet j = s.octet j := rfl
@[simp] theorem State.post_mreg (m : Msg) (j : Nat) : (s.post m).mreg j = s.mreg j := rfl
@[simp] theorem State.post_me (m : Msg) : (s.post m).me = s.me := rfl
@[simp] theorem State.post_myCore (m : Msg) : (s.post m).myCore = s.myCore := rfl
@[simp] theorem State.post_myOctet (m : Msg) : (s.post m).myOctet = s.myOctet := rfl
@[simp] theorem State.post_myCtx (m : Msg) : (s.post m).myCtx = s.myCtx := rfl
@[simp] theorem State.soon_slot (m : Msg) (j : Nat) : (s.soon m).slot j = s.slot j := rfl
@[simp] theorem State.soon_core (m : Msg) (j : Nat) : (s.soon m).core j = s.core j := rfl
@[simp] theorem State.soon_octet (m : Msg) (j : Nat) : (s.soon m).octet j = s.octet j := rfl
@[simp] theorem State.soon_mreg (m : Msg) (j : Nat) : (s.soon m).mreg j = s.mreg j := rfl
@[simp] theorem State.soon_me (m : Msg) : (s.soon m).me = s.me := rfl
@[simp] theorem State.soon_myCore (m : Msg) : (s.soon m).myCore = s.myCore := rfl
@[simp] theorem State.soon_myOctet (m : Msg) : (s.soon m).myOctet = s.myOctet := rfl
@[simp] theorem State.soon_myCtx (m : Msg) : (s.soon m).myCtx = s.myCtx := rfl
@[simp] theorem State.onGroup_slot (k : Nat) (f : Group → Group) (j : Nat) : (s.onGroup k f).slot j = s.slot j := by unfold State.onGroup; split <;> rfl
@[simp] theorem State.onGroup_core (k : Nat) (f : Group → Group) (j : Nat) : (s.onGroup k f).core j = s.core j := by unfold State.onGroup; split <;> rfl
@[simp] theorem State.onGroup_octet (k : Nat) (f : Group → Group) (j : Nat) : (s.onGroup k f).octet j = s.octet j := by unfold State.onGroup; split <;> rfl
@[simp] theorem State.onGroup_mreg (k : Nat) (f : Group → Group) (j : Nat) : (s.onGroup k f).mreg j = s.mreg j := by unfold State.onGroup; split <;> rfl
@[simp] theorem State.onGroup_me (k : Nat) (f : Group → Group) : (s.onGroup k f).me = s.me := by unfold State.onGroup; split <;> rfl
@[simp] theorem State.onGroup_myCore (k : Nat) (f : Group → Group) : (s.onGroup k f).myCore = s.myCore := by unfold State.onGroup; split <;> rfl
@[simp] theorem State.onGroup_myOctet (k : Nat) (f : Group → Group) : (s.onGroup k f).myOctet = s.myOctet := by unfold State.onGroup; split <;> rfl
@[simp] theorem State.onGroup_myCtx (k : Nat) (f : Group → Group) : (s.onGroup k f).myCtx = s.myCtx := by unfold State.onGroup; split <;> rfl
@[simp] theorem State.onKernel_slot (k : Nat) (f : Kernel → Kernel) (j : Nat) : (s.onKernel k f).slot j = s.slot j := by unfold State.onKernel; split <;> rfl
@[simp] theorem State.onKernel_core (k : Nat) (f : Kernel → Kernel) (j : Nat) : (s.onKernel k f).core j = s.core j := by unfold State.onKernel; split <;> rfl
@[simp] theorem State.onKernel_octet (k : Nat) (f : Kernel → Kernel) (j : Nat) : (s.onKernel k f).octet j = s.octet j := by unfold State.onKernel; split <;> rfl
@[simp] theorem State.onKernel_mreg (k : Nat) (f : Kernel → Kernel) (j : Nat) : (s.onKernel k f).mreg j = s.mreg j := by unfold State.onKernel; split <;> rfl
@[simp] theorem State.onKernel_me (k : Nat) (f : Kernel → Kernel) : (s.onKernel k f).me = s.me := by unfold State.onKernel; split <;> rfl
@[simp] theorem State.onKernel_myCore (k : Nat) (f : Kernel → Kernel) : (s.onKernel k f).myCore = s.myCore := by unfold State.onKernel; split <;> rfl
@[simp] theorem State.onKernel_myOctet (k : Nat) (f : Kernel → Kernel) : (s.onKernel k f).myOctet = s.myOctet := by unfold State.onKernel; split <;> rfl
@[simp] theorem State.onKernel_myCtx (k : Nat) (f : Kernel → Kernel) : (s.onKernel k f).myCtx = s.myCtx := by unfold State.onKernel; split <;> rfl
@[simp] theorem State.onCtx_slot (k : Nat) (f : Ctx → Ctx) (j : Nat) : (s.onCtx k f).slot j = s.slot j := by unfold State.onCtx; split <;> rfl
@[simp] theorem State.onCtx_core (k : Nat) (f : Ctx → Ctx) (j : Nat) : (s.onCtx k f).core j = s.core j := by unfold State.onCtx; split <;> rfl
@[simp] theorem State.onCtx_octet (k : Nat) (f : Ctx → Ctx) (j : Nat) : (s.onCtx k f).octet j = s.octet j := by unfold State.onCtx; split <;> rfl
@[simp] theorem State.onCtx_mreg (k : Nat) (f : Ctx → Ctx) (j : Nat) : (s.onCtx k f).mreg j = s.mreg j := by unfold State.onCtx; split <;> rfl
@[simp] theorem State.onCtx_me (k : Nat) (f : Ctx → Ctx) : (s.onCtx k f).me = s.me := by unfold State.onCtx; split <;> rfl
@[simp] theorem State.onCtx_myCore (k : Nat) (f : Ctx → Ctx) : (s.onCtx k f).myCore = s.myCore := by unfold State.onCtx; split <;> rfl
@[simp] theorem State.onCtx_myOctet (k : Nat) (f : Ctx → Ctx) : (s.onCtx k f).myOctet = s.myOctet := by unfold State.onCtx; split <;> rfl
@[simp] theorem State.onCtx_myCtx (k : Nat) (f : Ctx → Ctx) : (s.onCtx k f).myCtx = s.myCtx := by unfold State.onCtx; split <;> rfl
@[simp] theorem State.onConn_slot (k : Nat) (f : Connector → Connector) (j : Nat) : (s.onConn k f).slot j = s.slot j := by unfold State.onConn; split <;> rfl
@[simp] theorem State.onConn_core (k : Nat) (f : Connector → Connector) (j : Nat) : (s.onConn k f).core j = s.core j := by unfold State.onConn; split <;> rfl
@[simp] theorem State.onConn_octet (k : Nat) (f : Connector → Connector) (j : Nat) : (s.onConn k f).octet j = s.octet j := by unfold State.onConn; split <;> rfl
@[simp] theorem State.onConn_mreg (k : Nat) (f : Connector → Connector) (j : Nat) : (s.onConn k f).mreg j = s.mreg j := by unfold State.onConn; split <;> rfl
@[simp] theorem State.onConn_me (k : Nat) (f : Connector → Connector) : (s.onConn k f).me = s.me := by unfold State.onConn; split <;> rfl
@[simp] theorem State.onConn_myCore (k : Nat) (f : Connector → Connector) : (s.onConn k f).myCore = s.myCore := by unfold State.onConn; split <;> rfl
@[simp] theorem State.onConn_myOctet (k : Nat) (f : Connector → Connector) : (s.onConn k f).myOctet = s.myOctet := by unfold State.onConn; split <;> rfl
@[simp] theorem State.onConn_myCtx (k : Nat) (f : Connector → Connector) : (s.onConn k f).myCtx = s.myCtx := by unfold State.onConn; split <;> rfl

end Sys2Proof.Machine
end

