-- ==== Sys2Proof/Laws/Ops.lean ====
section
/-! SUPPORT. What the shared operations around every instruction do, said once: issue, its endings, and the checks. -/

namespace Sys2Proof.Machine

/-- Memory and every local array stand in their canonical form right after reset. -/
theorem reset_memWf : State.reset.memWf := ⟨rfl, fun _ h => nomatch h⟩

/-- No check turns a ready instruction away. -/
theorem Ready.gate {i : Instr} {s : State} (h : Ready i s) : gateCause i s = none := by
  have h1 : (featureGroups i).all (accepted s) = true := List.all_eq_true.2 h.features
  unfold gateCause
  rw [h1]
  by_cases hp : privileged i = true
  · rw [hp, h.rights hp]
    by_cases hr : roundingOf i = some .dyn
    · by_cases hm : slice s.me.sys.mode 2 0 = 5
      · simp [h.rounding hr hm]
      · simp [hm]
    · simp [hr]
  · rw [Bool.not_eq_true] at hp
    rw [hp]
    by_cases hr : roundingOf i = some .dyn
    · by_cases hm : slice s.me.sys.mode 2 0 = 5
      · simp [h.rounding hr hm]
      · simp [hm]
    · simp [hr]

/-- No hazard and no replay holds a ready instruction. -/
theorem Ready.hazard {i : Instr} {s : State} (h : Ready i s) : hazardEnding i s.me = none := by
  have hp : replayPoint s.me = none := by simp [replayPoint, h.replay]
  have hz : hazardOf i s.me = none := by
    unfold hazardOf
    rw [List.find?_eq_none]
    intro r hr
    have := h.results r hr
    simpa using this
  simp [hazardEnding, hp, hz]

/-- A ready instruction issues its own effect. -/
theorem issue_ready {i : Instr} {s : State} (h : Ready i s) (body : Body) :
    issue i body s = conclude s.me.pc i.len (body s) := by
  simp [issue, h.gate, h.hazard]

theorem conclude_next (a : Word) (n : Nat) (t : State) :
    conclude a n (t, .next) = .next (completeAt a (a + BitVec.ofNat 64 n) t) := rfl
theorem conclude_after (a : Word) (n : Nat) (t : State) (x : Word) :
    conclude a n (t, .after x) = .next (completeAt a x t) := rfl
theorem conclude_jump (a : Word) (n : Nat) (t : State) (x : Word) :
    conclude a n (t, .jump x) = .next (t.onMe fun sl =>
      let sl := branchOut sl.settle x
      if t.mark && sl.marks then sl.park (.marker none) else sl) := rfl
theorem conclude_goto (a : Word) (n : Nat) (t : State) (x : Word) :
    conclude a n (t, .goto x) = .next (t.onMe fun sl =>
      let sl := { sl.settle with pc := x }
      if t.mark && sl.marks then sl.park (.marker none) else sl) := rfl
theorem conclude_trap (a : Word) (n : Nat) (t : State) (c : Nat) (v : Word) :
    conclude a n (t, .trap c v) = .next (raiseTrap t.cur c v a t) := rfl
theorem conclude_wait (a : Word) (n : Nat) (t : State) (r : Reason) :
    conclude a n (t, .wait r) = .next (t.onMe (·.park r)) := rfl
theorem conclude_gone (a : Word) (n : Nat) (t : State) : conclude a n (t, .gone) = .next t := rfl
theorem conclude_left (a : Word) (n : Nat) (t : State) :
    conclude a n (t, .left) = .next (t.onMe fun sl => if t.mark && sl.run == .running && sl.marks then sl.park (.marker none) else sl) := rfl
theorem conclude_bad (a : Word) (n : Nat) (t : State) (pa : Nat) : conclude a n (t, .bad pa) = .next (dataError t.cur pa t) := rfl
theorem conclude_stop (a : Word) (n : Nat) (t : State) (f : Fault) : conclude a n (t, .stop f) = .fault f := rfl

/-- How an instruction ends: a next state, or the one fault; never a refusal. -/
theorem conclude_cases (a : Word) (n : Nat) (r : State × Ending) :
    (∃ t, conclude a n r = .next t) ∨ ∃ f, r.2 = .stop f ∧ conclude a n r = .fault f := by
  obtain ⟨s, e⟩ := r
  cases e <;> first | exact .inl ⟨_, rfl⟩ | exact .inr ⟨_, rfl, rfl⟩

theorem issue_not_refused (i : Instr) (body : Body) (s : State) (r : Refusal) : issue i body s ≠ .refused r := by
  intro h
  unfold issue at h
  rcases conclude_cases s.me.pc i.len (match gateCause i s with
    | some c => (s, .trap c (wordOf i s))
    | none =>
      match hazardEnding i s.me with
      | some e => (s, e)
      | none => body s) with ⟨t, ht⟩ | ⟨f, _, hf⟩
  · exact nomatch ht.symm.trans h
  · exact nomatch hf.symm.trans h

theorem event_next (f : State → State) (s : State) : event f s = .next (f s) := rfl

/-- An effect on the slot's own registers. -/
theorem onRegs_eq (f : Slot → Slot) (s : State) : onRegs f s = (s.onMe f, .next) := rfl
theorem setG_eq (d : BitVec 5) (f : Slot → Word) (s : State) :
    setG d f s = (s.onMe fun sl => sl.wg d.toNat (f sl), .next) := rfl

/-- An instruction whose effect is on the slot's own registers completes with it when it is ready. -/
theorem issue_onRegs {i : Instr} {s : State} (h : Ready i s) (f : Slot → Slot) :
    issue i (onRegs f) s = .next (completeAt s.me.pc (s.me.pc + BitVec.ofNat 64 i.len) (s.onMe f)) :=
  issue_ready h _

theorem issue_setG {i : Instr} {s : State} (h : Ready i s) (d : BitVec 5) (f : Slot → Word) :
    issue i (setG d f) s =
      .next (completeAt s.me.pc (s.me.pc + BitVec.ofNat 64 i.len) (s.onMe fun sl => sl.wg d.toNat (f sl))) :=
  issue_ready h _

end Sys2Proof.Machine
end

