-- ==== Sys2Proof/Laws/PerInstr.lean ====
section
/-! SUPPORT. The family Encoding, stated of each constructor by itself: the first parcel of an instruction's word says its length in
bit 0 and the switch marker in bit 1 (R43 to R45). -/

namespace Sys2Proof.Laws.Encoding

/-- What the first parcel says: bit 0 is 1 for a 32-bit word and 0 for a 16-bit one, whose high half is empty; bit 1 is the switch
marker. An event has no word. -/
def Statement (i : Instr) : Prop :=
  ∀ sb : Bool,
    (i.len = 4 ∧ bit (encodeWord sb i) 0 = true ∧ bit (encodeWord sb i) 1 = sb) ∨
    (i.len = 2 ∧ bit (encodeWord sb i) 0 = false ∧ bit (encodeWord sb i) 1 = sb ∧ (encodeWord sb i).extractLsb' 16 16 = 0#16) ∨
    (i.len = 0 ∧ encodeWord sb i = 0#32)

/-- Every constructor by its own encoding. -/
theorem any_instr (i : Instr) : Statement i := by
  intro sb
  cases i <;> first
    | exact .inr (.inr ⟨rfl, rfl⟩)
    | (refine .inl ⟨rfl, ?_, ?_⟩ <;> simp (disch := decide) only [encodeWord, bit_cat_low, bit_cat_high, bit_ofBool_zero,
        Nat.reduceSub] <;> rfl)
    | (refine .inr (.inl ⟨rfl, ?_, ?_, ?_⟩) <;> simp (disch := decide) only [encodeWord, bit_cat_low, bit_cat_high,
        bit_ofBool_zero, cat_extract_high, Nat.reduceSub] <;> rfl)

theorem add (w : Bool) (b a d : BitVec 5) : Statement (.add w b a d) := any_instr _
theorem sub (w : Bool) (b a d : BitVec 5) : Statement (.sub w b a d) := any_instr _
theorem mul (w : Bool) (b a d : BitVec 5) : Statement (.mul w b a d) := any_instr _
theorem mulh (b a d : BitVec 5) : Statement (.mulh b a d) := any_instr _
theorem mulhu (b a d : BitVec 5) : Statement (.mulhu b a d) := any_instr _
theorem div (w : Bool) (b a d : BitVec 5) : Statement (.div w b a d) := any_instr _
theorem divu (w : Bool) (b a d : BitVec 5) : Statement (.divu w b a d) := any_instr _
theorem rem (w : Bool) (b a d : BitVec 5) : Statement (.rem w b a d) := any_instr _
theorem remu (w : Bool) (b a d : BitVec 5) : Statement (.remu w b a d) := any_instr _
theorem min (w : Bool) (b a d : BitVec 5) : Statement (.min w b a d) := any_instr _
theorem max (w : Bool) (b a d : BitVec 5) : Statement (.max w b a d) := any_instr _
theorem minu (w : Bool) (b a d : BitVec 5) : Statement (.minu w b a d) := any_instr _
theorem maxu (w : Bool) (b a d : BitVec 5) : Statement (.maxu w b a d) := any_instr _
theorem lea (c : BitVec 2) (b a d : BitVec 5) : Statement (.lea c b a d) := any_instr _
theorem and (b a d : BitVec 5) : Statement (.and b a d) := any_instr _
theorem or (b a d : BitVec 5) : Statement (.or b a d) := any_instr _
theorem xor (b a d : BitVec 5) : Statement (.xor b a d) := any_instr _
theorem andn (b a d : BitVec 5) : Statement (.andn b a d) := any_instr _
theorem orn (b a d : BitVec 5) : Statement (.orn b a d) := any_instr _
theorem sll (w : Bool) (b a d : BitVec 5) : Statement (.sll w b a d) := any_instr _
theorem srl (w : Bool) (b a d : BitVec 5) : Statement (.srl w b a d) := any_instr _
theorem sra (w : Bool) (b a d : BitVec 5) : Statement (.sra w b a d) := any_instr _
theorem rot (w : Bool) (b a d : BitVec 5) : Statement (.rot w b a d) := any_instr _
theorem clz (w : Bool) (a d : BitVec 5) : Statement (.clz w a d) := any_instr _
theorem ctz (w : Bool) (a d : BitVec 5) : Statement (.ctz w a d) := any_instr _
theorem popc (w : Bool) (a d : BitVec 5) : Statement (.popc w a d) := any_instr _
theorem bswap (a d : BitVec 5) : Statement (.bswap a d) := any_instr _
theorem sext (n : ExtW) (a d : BitVec 5) : Statement (.sext n a d) := any_instr _
theorem zext (n : ExtW) (a d : BitVec 5) : Statement (.zext n a d) := any_instr _
theorem addi (i : BitVec 14) (a d : BitVec 5) : Statement (.addi i a d) := any_instr _
theorem andi (i : BitVec 14) (a d : BitVec 5) : Statement (.andi i a d) := any_instr _
theorem ori (i : BitVec 14) (a d : BitVec 5) : Statement (.ori i a d) := any_instr _
theorem xori (i : BitVec 14) (a d : BitVec 5) : Statement (.xori i a d) := any_instr _
theorem slli (w : Bool) (n : BitVec 6) (a d : BitVec 5) : Statement (.slli w n a d) := any_instr _
theorem srli (w : Bool) (n : BitVec 6) (a d : BitVec 5) : Statement (.srli w n a d) := any_instr _
theorem srai (w : Bool) (n : BitVec 6) (a d : BitVec 5) : Statement (.srai w n a d) := any_instr _
theorem roti (w : Bool) (n : BitVec 6) (a d : BitVec 5) : Statement (.roti w n a d) := any_instr _
theorem lui (i : BitVec 19) (d : BitVec 5) : Statement (.lui i d) := any_instr _
theorem auipc (i : BitVec 19) (d : BitVec 5) : Statement (.auipc i d) := any_instr _
theorem bfx (l n : BitVec 6) (a d : BitVec 5) : Statement (.bfx l n a d) := any_instr _
theorem bfxu (l n : BitVec 6) (a d : BitVec 5) : Statement (.bfxu l n a d) := any_instr _
theorem bfi (l n : BitVec 6) (a d : BitVec 5) : Statement (.bfi l n a d) := any_instr _
theorem pcmp (w k : Bool) (c : Cond) (b a d : BitVec 5) : Statement (.pcmp w k c b a d) := any_instr _
theorem pcmpi (c : Cond) (i : BitVec 10) (a : BitVec 5) (d : BitVec 3) : Statement (.pcmpi c i a d) := any_instr _
theorem pand (b a d : BitVec 3) : Statement (.pand b a d) := any_instr _
theorem por (b a d : BitVec 3) : Statement (.por b a d) := any_instr _
theorem pxor (b a d : BitVec 3) : Statement (.pxor b a d) := any_instr _
theorem pnot (a d : BitVec 3) : Statement (.pnot a d) := any_instr _
theorem sel (k : BitVec 3) (b a d : BitVec 5) : Statement (.sel k b a d) := any_instr _
theorem mix (b a d : BitVec 5) : Statement (.mix b a d) := any_instr _
theorem bcc (o : BitVec 11) (b a : BitVec 5) (c : BCond) : Statement (.bcc o b a c) := any_instr _
theorem bp (o : BitVec 11) (n : Bool) (j : BitVec 4) (k : BitVec 3) : Statement (.bp o n j k) := any_instr _
theorem j (o : BitVec 23) : Statement (.j o) := any_instr _
theorem jl (o : BitVec 23) : Statement (.jl o) := any_instr _
theorem jlr (i : BitVec 14) (a d : BitVec 5) : Statement (.jlr i a d) := any_instr _
theorem jr (i : BitVec 14) (a : BitVec 5) : Statement (.jr i a) := any_instr _
theorem loop (i : BitVec 14) (a : BitVec 5) (k : Bool) : Statement (.loop i a k) := any_instr _
theorem loopi (i : BitVec 14) (m : BitVec 5) (n : BitVec 4) (k : Bool) : Statement (.loopi i m n k) := any_instr _
theorem rep (n : BitVec 4) (r : BitVec 6) (k : BitVec 3) (p : BitVec 5) : Statement (.rep n r k p) := any_instr _
theorem replayEnd : Statement .replayEnd := any_instr _
theorem cvt (f e : Fmt) (r : Rm) (x : BitVec 3) (a d : BitVec 5) : Statement (.cvt f e r x a d) := any_instr _
theorem faddS (r : Rm) (b a d : BitVec 5) : Statement (.faddS r b a d) := any_instr _
theorem fsubS (r : Rm) (b a d : BitVec 5) : Statement (.fsubS r b a d) := any_instr _
theorem fmulS (r : Rm) (b a d : BitVec 5) : Statement (.fmulS r b a d) := any_instr _
theorem fdivS (r : Rm) (b a d : BitVec 5) : Statement (.fdivS r b a d) := any_instr _
theorem fsqrtS (r : Rm) (a d : BitVec 5) : Statement (.fsqrtS r a d) := any_instr _
theorem fminS (b a d : BitVec 5) : Statement (.fminS b a d) := any_instr _
theorem fmaxS (b a d : BitVec 5) : Statement (.fmaxS b a d) := any_instr _
theorem fsgnS (b a d : BitVec 5) : Statement (.fsgnS b a d) := any_instr _
theorem fsgnnS (b a d : BitVec 5) : Statement (.fsgnnS b a d) := any_instr _
theorem fsgnxS (b a d : BitVec 5) : Statement (.fsgnxS b a d) := any_instr _
theorem fclassS (a d : BitVec 5) : Statement (.fclassS a d) := any_instr _
theorem faddD (r : Rm) (b a d : BitVec 5) : Statement (.faddD r b a d) := any_instr _
theorem fsubD (r : Rm) (b a d : BitVec 5) : Statement (.fsubD r b a d) := any_instr _
theorem fmulD (r : Rm) (b a d : BitVec 5) : Statement (.fmulD r b a d) := any_instr _
theorem fdivD (r : Rm) (b a d : BitVec 5) : Statement (.fdivD r b a d) := any_instr _
theorem fsqrtD (r : Rm) (a d : BitVec 5) : Statement (.fsqrtD r a d) := any_instr _
theorem fminD (b a d : BitVec 5) : Statement (.fminD b a d) := any_instr _
theorem fmaxD (b a d : BitVec 5) : Statement (.fmaxD b a d) := any_instr _
theorem fsgnD (b a d : BitVec 5) : Statement (.fsgnD b a d) := any_instr _
theorem fsgnnD (b a d : BitVec 5) : Statement (.fsgnnD b a d) := any_instr _
theorem fsgnxD (b a d : BitVec 5) : Statement (.fsgnxD b a d) := any_instr _
theorem fclassD (a d : BitVec 5) : Statement (.fclassD a d) := any_instr _
theorem ffma (t : Bool) (r : Rm) (b a d : BitVec 5) : Statement (.ffma t r b a d) := any_instr _
theorem ffms (t : Bool) (r : Rm) (b a d : BitVec 5) : Statement (.ffms t r b a d) := any_instr _
theorem fcmp (t k : Bool) (c : Cond) (b a d : BitVec 5) : Statement (.fcmp t k c b a d) := any_instr _
theorem mfs (n : BitVec 12) (d : BitVec 5) : Statement (.mfs n d) := any_instr _
theorem mts (n : BitVec 12) (a : BitVec 5) : Statement (.mts n a) := any_instr _
theorem cplaunch (d : BitVec 5) : Statement (.cplaunch d) := any_instr _
theorem trap (b a : BitVec 5) : Statement (.trap b a) := any_instr _
theorem eret : Statement .eret := any_instr _
theorem yield : Statement .yield := any_instr _
theorem suspend : Statement .suspend := any_instr _
theorem wfw : Statement .wfw := any_instr _
theorem bkpt : Statement .bkpt := any_instr _
theorem nop : Statement .nop := any_instr _
theorem waite : Statement .waite := any_instr _
theorem ctxsave (b a : BitVec 5) : Statement (.ctxsave b a) := any_instr _
theorem ctxload (a : BitVec 5) : Statement (.ctxload a) := any_instr _
theorem atr (k a d : BitVec 5) : Statement (.atr k a d) := any_instr _
theorem tlbfl (m a : BitVec 5) : Statement (.tlbfl m a) := any_instr _
theorem haltp (a : BitVec 5) : Statement (.haltp a) := any_instr _
theorem selftest (a d : BitVec 5) : Statement (.selftest a d) := any_instr _
theorem vadd (t : Bool) (r : Rm) (p : BitVec 3) (b a d : BitVec 4) : Statement (.vadd t r p b a d) := any_instr _
theorem vsub (t : Bool) (r : Rm) (p : BitVec 3) (b a d : BitVec 4) : Statement (.vsub t r p b a d) := any_instr _
theorem vmul (t : Bool) (r : Rm) (p : BitVec 3) (b a d : BitVec 4) : Statement (.vmul t r p b a d) := any_instr _
theorem vfma (t : Bool) (r : Rm) (p : BitVec 3) (b a d : BitVec 4) : Statement (.vfma t r p b a d) := any_instr _
theorem vfms (t : Bool) (r : Rm) (p : BitVec 3) (b a d : BitVec 4) : Statement (.vfms t r p b a d) := any_instr _
theorem vmin (t : Bool) (p : BitVec 3) (b a d : BitVec 4) : Statement (.vmin t p b a d) := any_instr _
theorem vmax (t : Bool) (p : BitVec 3) (b a d : BitVec 4) : Statement (.vmax t p b a d) := any_instr _
theorem vabs (t : Bool) (p : BitVec 3) (a d : BitVec 4) : Statement (.vabs t p a d) := any_instr _
theorem vneg (t : Bool) (p : BitVec 3) (a d : BitVec 4) : Statement (.vneg t p a d) := any_instr _
theorem vrcp (r : Rm) (p : BitVec 3) (a d : BitVec 4) : Statement (.vrcp r p a d) := any_instr _
theorem vrsq (r : Rm) (p : BitVec 3) (a d : BitVec 4) : Statement (.vrsq r p a d) := any_instr _
theorem vexp2 (r : Rm) (p : BitVec 3) (a d : BitVec 4) : Statement (.vexp2 r p a d) := any_instr _
theorem viadd (l : Lanes) (p : BitVec 3) (b a d : BitVec 4) : Statement (.viadd l p b a d) := any_instr _
theorem visub (l : Lanes) (p : BitVec 3) (b a d : BitVec 4) : Statement (.visub l p b a d) := any_instr _
theorem vimul (l : Lanes) (p : BitVec 3) (b a d : BitVec 4) : Statement (.vimul l p b a d) := any_instr _
theorem vimad (l : Lanes) (p : BitVec 3) (b a d : BitVec 4) : Statement (.vimad l p b a d) := any_instr _
theorem vimin (l : Lanes) (p : BitVec 3) (b a d : BitVec 4) : Statement (.vimin l p b a d) := any_instr _
theorem vimax (l : Lanes) (p : BitVec 3) (b a d : BitVec 4) : Statement (.vimax l p b a d) := any_instr _
theorem vand (l : Lanes) (p : BitVec 3) (b a d : BitVec 4) : Statement (.vand l p b a d) := any_instr _
theorem vor (l : Lanes) (p : BitVec 3) (b a d : BitVec 4) : Statement (.vor l p b a d) := any_instr _
theorem vxor (l : Lanes) (p : BitVec 3) (b a d : BitVec 4) : Statement (.vxor l p b a d) := any_instr _
theorem vsll (l : Lanes) (p : BitVec 3) (b a d : BitVec 4) : Statement (.vsll l p b a d) := any_instr _
theorem vsrl (l : Lanes) (p : BitVec 3) (b a d : BitVec 4) : Statement (.vsrl l p b a d) := any_instr _
theorem vsra (l : Lanes) (p : BitVec 3) (b a d : BitVec 4) : Statement (.vsra l p b a d) := any_instr _
theorem viabs (l : Lanes) (p : BitVec 3) (a d : BitVec 4) : Statement (.viabs l p a d) := any_instr _
theorem vcmp (t : Bool) (c : Cond) (p : BitVec 3) (b a : BitVec 4) (d : BitVec 3) : Statement (.vcmp t c p b a d) := any_instr _
theorem vsel (p : BitVec 3) (b a d : BitVec 4) : Statement (.vsel p b a d) := any_instr _
theorem vperm (p : BitVec 3) (b a d : BitVec 4) : Statement (.vperm p b a d) := any_instr _
theorem vrev (p : BitVec 3) (a d : BitVec 4) : Statement (.vrev p a d) := any_instr _
theorem vslide (m : BitVec 6) (p : BitVec 3) (b a d : BitVec 4) : Statement (.vslide m p b a d) := any_instr _
theorem vzip (p : BitVec 3) (b a d : BitVec 4) : Statement (.vzip p b a d) := any_instr _
theorem vunzip (p : BitVec 3) (a d : BitVec 4) : Statement (.vunzip p a d) := any_instr _
theorem vbcast (p : BitVec 2) (g : BitVec 5) (d : BitVec 4) : Statement (.vbcast p g d) := any_instr _
theorem vext (l : BitVec 4) (g : BitVec 5) (a : BitVec 4) : Statement (.vext l g a) := any_instr _
theorem vins (l : BitVec 4) (g : BitVec 5) (d : BitVec 4) : Statement (.vins l g d) := any_instr _
theorem viota (p : BitVec 2) (g : BitVec 5) (d : BitVec 4) : Statement (.viota p g d) := any_instr _
theorem vmix (p : BitVec 2) (g : BitVec 5) (a d : BitVec 4) : Statement (.vmix p g a d) := any_instr _
theorem vred (o : VRedOp) (r : Rm) (p : BitVec 3) (a d : BitVec 4) : Statement (.vred o r p a d) := any_instr _
theorem vscan (o : VRedOp) (r : Rm) (p : BitVec 3) (a d : BitVec 4) : Statement (.vscan o r p a d) := any_instr _
theorem vdot (f : Fmt) (r : Rm) (p : BitVec 3) (b a d : BitVec 4) : Statement (.vdot f r p b a d) := any_instr _
theorem vcvt (f : Fmt) (r : Rm) (p : BitVec 3) (e : Fmt) (a d : BitVec 4) : Statement (.vcvt f r p e a d) := any_instr _
theorem vpack (f : Fmt) (r : Rm) (p : BitVec 3) (b a d : BitVec 4) : Statement (.vpack f r p b a d) := any_instr _
theorem vunpk (f : Fmt) (p : BitVec 3) (h : Bool) (a d : BitVec 4) : Statement (.vunpk f p h a d) := any_instr _
theorem vbscale (f : Fmt) (r : Rm) (p : BitVec 3) (b a d : BitVec 4) : Statement (.vbscale f r p b a d) := any_instr _
theorem ld (o : BitVec 11) (k : LdKind) (a d : BitVec 5) : Statement (.ld o k a d) := any_instr _
theorem ldWindow (w : BitVec 3) (z : Sz) (o : BitVec 6) (a d : BitVec 5) : Statement (.ldWindow w z o a d) := any_instr _
theorem st (o : BitVec 11) (k : Sz) (a d : BitVec 5) : Statement (.st o k a d) := any_instr _
theorem vld (o : BitVec 11) (a : BitVec 5) (d : BitVec 4) : Statement (.vld o a d) := any_instr _
theorem vst (o : BitVec 11) (a : BitVec 5) (d : BitVec 4) : Statement (.vst o a d) := any_instr _
theorem vlds (x : BitVec 3) (o : BitVec 8) (a : BitVec 5) (d : BitVec 4) : Statement (.vlds x o a d) := any_instr _
theorem vsts (x : BitVec 3) (o : BitVec 8) (a : BitVec 5) (d : BitVec 4) : Statement (.vsts x o a d) := any_instr _
theorem ldp (o : BitVec 11) (a d : BitVec 5) : Statement (.ldp o a d) := any_instr _
theorem vldp (o : BitVec 11) (a : BitVec 5) (d : BitVec 4) : Statement (.vldp o a d) := any_instr _
theorem vldWindow (w : BitVec 3) (o : BitVec 8) (a : BitVec 5) (d : BitVec 4) : Statement (.vldWindow w o a d) := any_instr _
theorem amo (w : Bool) (o : AmoOp) (b a d : BitVec 5) : Statement (.amo w o b a d) := any_instr _
theorem cas (w : Bool) (b a d : BitVec 5) : Statement (.cas w b a d) := any_instr _
theorem lda (w : Bool) (a d : BitVec 5) : Statement (.lda w a d) := any_instr _
theorem stl (w : Bool) (b a : BitVec 5) : Statement (.stl w b a) := any_instr _
theorem acq : Statement .acq := any_instr _
theorem rel : Statement .rel := any_instr _
theorem fence : Statement .fence := any_instr _
theorem red (o : RedOp) (z : Bool) (b a : BitVec 5) : Statement (.red o z b a) := any_instr _
theorem vgather (c : BitVec 2) (b : BitVec 4) (a : BitVec 5) (d : BitVec 4) : Statement (.vgather c b a d) := any_instr _
theorem vscatter (c : BitVec 2) (b : BitVec 4) (a : BitVec 5) (d : BitVec 4) : Statement (.vscatter c b a d) := any_instr _
theorem ldx (c : BitVec 2) (z : Sz) (u : Bool) (b a d : BitVec 5) : Statement (.ldx c z u b a d) := any_instr _
theorem stx (c : BitVec 2) (z : Sz) (b a d : BitVec 5) : Statement (.stx c z b a d) := any_instr _
theorem wenq (b : BitVec 4) (a d : BitVec 5) : Statement (.wenq b a d) := any_instr _
theorem watch (a d : BitVec 5) : Statement (.watch a d) := any_instr _
theorem unwatch (a d : BitVec 5) : Statement (.unwatch a d) := any_instr _
theorem pref (a : BitVec 5) : Statement (.pref a) := any_instr _
theorem cflush (a : BitVec 5) : Statement (.cflush a) := any_instr _
theorem cinv (a : BitVec 5) : Statement (.cinv a) := any_instr _
theorem copyp (a d : BitVec 5) : Statement (.copyp a d) := any_instr _
theorem twaitany (a d : BitVec 5) : Statement (.twaitany a d) := any_instr _
theorem twaitall (a : BitVec 5) : Statement (.twaitall a) := any_instr _
theorem tfind (a d : BitVec 5) : Statement (.tfind a d) := any_instr _
theorem ttest (a d : BitVec 5) : Statement (.ttest a d) := any_instr _
theorem tclr (a : BitVec 5) : Statement (.tclr a) := any_instr _
theorem chopen (b a : BitVec 5) (k : BitVec 2) : Statement (.chopen b a k) := any_instr _
theorem chclose (k : BitVec 2) : Statement (.chclose k) := any_instr _
theorem mfree (a : BitVec 5) : Statement (.mfree a) := any_instr _
theorem mbwait (a : BitVec 5) (k : BitVec 3) : Statement (.mbwait a k) := any_instr _
theorem put (k : BitVec 3) (a : BitVec 5) : Statement (.put k a) := any_instr _
theorem get (k : BitVec 3) (d : BitVec 5) : Statement (.get k d) := any_instr _
theorem putv (k : BitVec 2) (a : BitVec 4) : Statement (.putv k a) := any_instr _
theorem getv (k : BitVec 2) (d : BitVec 4) : Statement (.getv k d) := any_instr _
theorem psel (b a d : BitVec 5) : Statement (.psel b a d) := any_instr _
theorem putb (k x : BitVec 3) (a : BitVec 5) : Statement (.putb k x a) := any_instr _
theorem getb (k x : BitVec 3) (a : BitVec 5) : Statement (.getb k x a) := any_instr _
theorem cload (b a d : BitVec 5) : Statement (.cload b a d) := any_instr _
theorem cunload (a : BitVec 5) : Statement (.cunload a) := any_instr _
theorem pbind (b a : BitVec 5) (k : BitVec 3) : Statement (.pbind b a k) := any_instr _
theorem punbind (k : BitVec 3) : Statement (.punbind k) := any_instr _
theorem cstat (b a d : BitVec 5) : Statement (.cstat b a d) := any_instr _
theorem tmma (x : BitVec 3) (a : BitVec 5) : Statement (.tmma x a) := any_instr _
theorem tmmaSp (q : BitVec 2) (x : BitVec 3) (a : BitVec 5) : Statement (.tmmaSp q x a) := any_instr _
theorem tzero : Statement .tzero := any_instr _
theorem tld (x : BitVec 3) (a : BitVec 5) : Statement (.tld x a) := any_instr _
theorem tst (x : BitVec 3) (a : BitVec 5) : Statement (.tst x a) := any_instr _
theorem tldb (x : BitVec 3) (a : BitVec 5) : Statement (.tldb x a) := any_instr _
theorem tjoin (a : BitVec 5) : Statement (.tjoin a) := any_instr _
theorem twt (a : BitVec 5) : Statement (.twt a) := any_instr _
theorem tstat (a d : BitVec 5) : Statement (.tstat a d) := any_instr _
theorem tkget (a d : BitVec 5) : Statement (.tkget a d) := any_instr _
theorem tkwait (a : BitVec 5) : Statement (.tkwait a) := any_instr _
theorem publish : Statement .publish := any_instr _
theorem hnew (a d : BitVec 5) : Statement (.hnew a d) := any_instr _
theorem hcopy (a d : BitVec 5) : Statement (.hcopy a d) := any_instr _
theorem hdrop (a : BitVec 5) : Statement (.hdrop a) := any_instr _
theorem hwt (a d : BitVec 5) : Statement (.hwt a d) := any_instr _
theorem hbind (b a : BitVec 5) : Statement (.hbind b a) := any_instr _
theorem barinit (b a : BitVec 5) : Statement (.barinit b a) := any_instr _
theorem bari (a d : BitVec 5) : Statement (.bari a d) := any_instr _
theorem barw (b a : BitVec 5) : Statement (.barw b a) := any_instr _
theorem bart (b a d : BitVec 5) : Statement (.bart b a d) := any_instr _
theorem gbar (b a : BitVec 5) : Statement (.gbar b a) := any_instr _
theorem flushp (a : BitVec 5) : Statement (.flushp a) := any_instr _
theorem flushpG (a : BitVec 5) : Statement (.flushpG a) := any_instr _
theorem redt (b a : BitVec 5) : Statement (.redt b a) := any_instr _
theorem spawn (a : BitVec 5) : Statement (.spawn a) := any_instr _
theorem join : Statement .join := any_instr _
theorem tenq (a : BitVec 5) : Statement (.tenq a) := any_instr _
theorem tpick : Statement .tpick := any_instr _
theorem tctr (b a : BitVec 5) : Statement (.tctr b a) := any_instr _
theorem tdec (a : BitVec 5) : Statement (.tdec a) := any_instr _
theorem klaunch (b a d : BitVec 5) : Statement (.klaunch b a d) := any_instr _
theorem emulation (e : BitVec 24) : Statement (.emulation e) := any_instr _
theorem cMv (b d : BitVec 5) : Statement (.cMv b d) := any_instr _
theorem cAdd (b d : BitVec 5) : Statement (.cAdd b d) := any_instr _
theorem cSub (b d : BitVec 5) : Statement (.cSub b d) := any_instr _
theorem cAddi (i d : BitVec 5) : Statement (.cAddi i d) := any_instr _
theorem cLi (i d : BitVec 5) : Statement (.cLi i d) := any_instr _
theorem cAnd (b d : BitVec 5) : Statement (.cAnd b d) := any_instr _
theorem cOr (b d : BitVec 5) : Statement (.cOr b d) := any_instr _
theorem cSlli (i d : BitVec 5) : Statement (.cSlli i d) := any_instr _
theorem cLdw (b d : BitVec 5) : Statement (.cLdw b d) := any_instr _
theorem cStw (b d : BitVec 5) : Statement (.cStw b d) := any_instr _
theorem cB (o : BitVec 10) : Statement (.cB o) := any_instr _
theorem cBnz (i d : BitVec 5) : Statement (.cBnz i d) := any_instr _
theorem cPut (k : BitVec 3) (d : BitVec 5) : Statement (.cPut k d) := any_instr _
theorem cGet (k : BitVec 3) (d : BitVec 5) : Statement (.cGet k d) := any_instr _
theorem cNop : Statement .cNop := any_instr _
theorem cYield : Statement .cYield := any_instr _
theorem cSuspend : Statement .cSuspend := any_instr _
theorem cWfw : Statement .cWfw := any_instr _
theorem cEret : Statement .cEret := any_instr _
theorem cBkpt : Statement .cBkpt := any_instr _
theorem cWaite : Statement .cWaite := any_instr _
theorem packageReset : Statement .packageReset := any_instr _
theorem powerUpSequence : Statement .powerUpSequence := any_instr _
theorem supplyDroopStretch : Statement .supplyDroopStretch := any_instr _
theorem thermalThrottle : Statement .thermalThrottle := any_instr _
theorem thermalShutdown : Statement .thermalShutdown := any_instr _
theorem portLinkTrained : Statement .portLinkTrained := any_instr _
theorem bindRecordDispatch : Statement .bindRecordDispatch := any_instr _
theorem taskStart : Statement .taskStart := any_instr _
theorem parkRelease : Statement .parkRelease := any_instr _
theorem loadDataReturn : Statement .loadDataReturn := any_instr _
theorem divideResult : Statement .divideResult := any_instr _
theorem fdivFsqrtResult : Statement .fdivFsqrtResult := any_instr _
theorem timerExpiry : Statement .timerExpiry := any_instr _
theorem trapEntry : Statement .trapEntry := any_instr _
theorem homeRegistration : Statement .homeRegistration := any_instr _
theorem homeRemoteRead : Statement .homeRemoteRead := any_instr _
theorem homeWriteBack : Statement .homeWriteBack := any_instr _
theorem homeRedArrival : Statement .homeRedArrival := any_instr _
theorem directoryHandlerDone : Statement .directoryHandlerDone := any_instr _
theorem formatWindowFill : Statement .formatWindowFill := any_instr _
theorem formatWindowWriteback : Statement .formatWindowWriteback := any_instr _
theorem formatWindowEnable : Statement .formatWindowEnable := any_instr _
theorem pageWalk : Statement .pageWalk := any_instr _
theorem fqheadWrite : Statement .fqheadWrite := any_instr _
theorem faultRepost : Statement .faultRepost := any_instr _
theorem flushPage : Statement .flushPage := any_instr _
theorem flushContext : Statement .flushContext := any_instr _
theorem flushComplete : Statement .flushComplete := any_instr _
theorem copyWordTransfer : Statement .copyWordTransfer := any_instr _
theorem copyComplete : Statement .copyComplete := any_instr _
theorem mfreeCombinedArrival : Statement .mfreeCombinedArrival := any_instr _
theorem sparsityStoreResume : Statement .sparsityStoreResume := any_instr _
theorem offerAcceptArrival : Statement .offerAcceptArrival := any_instr _
theorem resolverEvaluation : Statement .resolverEvaluation := any_instr _
theorem withdrawalRequestArrival : Statement .withdrawalRequestArrival := any_instr _
theorem portFire : Statement .portFire := any_instr _
theorem withdrawalAck : Statement .withdrawalAck := any_instr _
theorem portTimeout : Statement .portTimeout := any_instr _
theorem bufItemArrival : Statement .bufItemArrival := any_instr _
theorem bufCreditArrival : Statement .bufCreditArrival := any_instr _
theorem payloadReceive : Statement .payloadReceive := any_instr _
theorem streamPayloadDelivery : Statement .streamPayloadDelivery := any_instr _
theorem frontierAdvanceDelivery : Statement .frontierAdvanceDelivery := any_instr _
theorem kStep : Statement .kStep := any_instr _
theorem commitDrain : Statement .commitDrain := any_instr _
theorem groupRetire : Statement .groupRetire := any_instr _
theorem ticketDeadlock : Statement .ticketDeadlock := any_instr _
theorem kernelAbort : Statement .kernelAbort := any_instr _
theorem weightArrival : Statement .weightArrival := any_instr _
theorem treeNodeCombine : Statement .treeNodeCombine := any_instr _
theorem flushProbeReturn : Statement .flushProbeReturn := any_instr _
theorem doorbell : Statement .doorbell := any_instr _
theorem tenantTurn : Statement .tenantTurn := any_instr _
theorem groupPlacement : Statement .groupPlacement := any_instr _
theorem runListAging : Statement .runListAging := any_instr _
theorem stealAttempt : Statement .stealAttempt := any_instr _
theorem stealRequestArrival : Statement .stealRequestArrival := any_instr _
theorem overflowRingRefill : Statement .overflowRingRefill := any_instr _
theorem tdecArrival : Statement .tdecArrival := any_instr _
theorem tenqArrival : Statement .tenqArrival := any_instr _
theorem wenqArrival : Statement .wenqArrival := any_instr _
theorem preemptDeadline : Statement .preemptDeadline := any_instr _
theorem groupSave : Statement .groupSave := any_instr _
theorem groupRestore : Statement .groupRestore := any_instr _
theorem ctxCreate : Statement .ctxCreate := any_instr _
theorem ctxBind : Statement .ctxBind := any_instr _
theorem ctxSave : Statement .ctxSave := any_instr _
theorem ctxRestore : Statement .ctxRestore := any_instr _
theorem ctxDestroy : Statement .ctxDestroy := any_instr _
theorem haltStop : Statement .haltStop := any_instr _
theorem haltResume : Statement .haltResume := any_instr _
theorem featlockWrite : Statement .featlockWrite := any_instr _
theorem tweightWrite : Statement .tweightWrite := any_instr _
theorem portcfgWrite : Statement .portcfgWrite := any_instr _
theorem streamTableWrite : Statement .streamTableWrite := any_instr _
theorem registerWrite : Statement .registerWrite := any_instr _
theorem owlSpdmExchange : Statement .owlSpdmExchange := any_instr _
theorem owlUnlock : Statement .owlUnlock := any_instr _
theorem owlLock : Statement .owlLock := any_instr _
theorem owlStop : Statement .owlStop := any_instr _
theorem owlResume : Statement .owlResume := any_instr _
theorem owlArm : Statement .owlArm := any_instr _
theorem owlDisarm : Statement .owlDisarm := any_instr _
theorem owlReadSlot : Statement .owlReadSlot := any_instr _
theorem owlWriteSlot : Statement .owlWriteSlot := any_instr _
theorem owlReadMemory : Statement .owlReadMemory := any_instr _
theorem owlWriteMemory : Statement .owlWriteMemory := any_instr _
theorem owlReadHaltRecord : Statement .owlReadHaltRecord := any_instr _
theorem errorDetected : Statement .errorDetected := any_instr _
theorem unitSelftestComplete : Statement .unitSelftestComplete := any_instr _
theorem homeAtomicAccess : Statement .homeAtomicAccess := any_instr _
theorem counterRequestArrival : Statement .counterRequestArrival := any_instr _
theorem watchRequestArrival : Statement .watchRequestArrival := any_instr _
theorem stealAnswerArrival : Statement .stealAnswerArrival := any_instr _

end Sys2Proof.Laws.Encoding
end

