-- ==== Sys2Proof/Tests/Slice0.lean ====
section
/-! SUPPORT. Tests: ill-formed terms, words written out from the encoding tables of the spec, single steps with results worked out
by hand from the rules, and for every statement with hypotheses a state and operands that meet them. -/

open Sys2Proof Sys2Proof.Machine

namespace Sys2Proof.Tests

/-! ### Ill-formed terms, one for each check of `Instr.wf` -/

theorem test_wf_refuses : ([.slli true 32 0 0, .srli true 32 0 0, .srai true 63 0 0, .roti true 32 0 0, .bfx 60 4 0 0, .bfxu 63 1 0 0,
    .bfi 1 63 0 0, .pcmp false false .un 0 0 0, .pcmp false false .eq 0 0 8, .pcmpi .un 0 0 0, .jlr 0 1 0, .cvt .f32 .f32 .rne 0 0 0,
    .cvt .i4 .f64 .rne 0 0 0, .cvt .f32 .f64 .rne 1 0 0, .fcmp false true .ltu 0 0 0, .fcmp false false .eq 0 0 8, .mfs 0x009 0,
    .mfs 0x036 0, .mts 0x0b8 0, .atr 3 0 0, .tlbfl 3 0, .vcmp true .un 0 0 0 0, .vcmp false .geu 0 0 0 0, .vslide 16 0 0 0 0,
    .vslide 48 0 0 0 0, .vred .iadd .rtz 0 0 0, .vscan .imax .rtz 0 0 0, .vdot .f64 .rne 0 0 0 0, .vdot .i8 .rtz 0 0 0 0,
    .vcvt .f32 .rne 0 .f32 0 0, .vcvt .f64 .rne 0 .f32 0 0, .vpack .f32 .rne 0 0 0 0, .vpack .i4 .rne 1 0 0 0, .vunpk .i64 0 false 0 0,
    .vbscale .f32 .rne 0 0 0 0, .ldp 0 0 1, .vldp 0 0 3, .ldx 0 .d true 0 0 0, .hcopy 1 0, .hcopy 1 1] : List Instr).all (fun i => !i.wf) = true := by
  decide

theorem test_wf_accepts : ([.slli true 31 0 0, .slli false 63 0 0, .bfx 60 3 0 0, .pcmp true false .geu 0 0 7, .pcmp false true .eq 0 0 31,
    .jlr 0 1 1, .cvt .f32 .f64 .rne 0 0 0, .cvt .o4 .f32 .rne 7 0 0, .fcmp false false .un 0 0 7, .mfs 0x0b7 0, .mts 0x036 0, .atr 2 0 0,
    .tlbfl 2 0, .vslide 15 0 0 0 0, .vslide 49 0 0 0 0, .vred .fadd .rtz 0 0 0, .vdot .f16 .rtz 0 0 0 0, .vcvt .f32 .rne 0 .i32 0 0,
    .vpack .i8 .rne 1 0 0 0, .ldp 0 0 30, .vldp 0 0 14, .ldx 0 .d false 0 0 0, .hcopy 1 2, .packageReset] : List Instr).all (·.wf) = true := by
  decide

/-! ### Words written out bit by bit from the encoding tables (R46 to R60 and the entries of the instructions) -/

/-- Whether each of these words decodes to its instruction, with the switch marker as given. -/
def reads (xs : List (BitVec 32 × Bool × Instr)) : Bool :=
  xs.all fun x => match decodeWord x.1 with
    | .ok f => f.i == x.2.2 && f.sb == x.2.1
    | .error _ => false

theorem test_decode_integer : reads [(0x8018e705#32, false, .add true 6 7 7), (0x82ad4905#32, false, .div true 11 10 9),
    (0x09a50905#32, false, .lea 3 9 8 9), (0x403ca629#32, false, .bfxu 0 15 5 6), (0x622d4935#32, false, .sel 3 11 10 9)] = true := by decide

theorem test_decode_compressed : reads [(0x00f8#32, false, .cWfw), (0xe950#32, false, .cLi 0x1d 5)] = true := by decide

theorem test_decode_control : reads [(0x00c62a41#32, false, .bcc 6 6 5 .lt), (0xff80ab45#32, false, .bp 0x7fc true 5 3),
    (0x0000c949#32, false, .jl 100), (0x0000204d#32, false, .jr 0 1), (0x0000a151#32, false, .loop 0 5 true),
    (0x00086055#32, false, .loopi 2 3 0 false), (0x00036159#32, false, .rep 0 3 3 1)] = true := by decide

theorem test_decode_float : reads [(0x002d4969#32, false, .ffma false .rne 11 10 9), (0x8818a26d#32, false, .fcmp true false .lt 6 5 2),
    (0x6b09095d#32, false, .cvt .o4 .f32 .rne 2 8 9)] = true := by decide

theorem test_decode_vector : reads [(0x1f321481#32, false, .vfma false .dyn 3 2 1 4), (0x40043285#32, false, .viadd .i16 0 4 3 2),
    (0x28001389#32, false, .vcmp false .ge 0 0 1 3), (0x6182218d#32, false, .vslide 3 0 2 2 1), (0x000b0291#32, false, .vbcast 0 11 2),
    (0x70021499#32, false, .vdot .e4m3 .rne 0 2 1 4)] = true := by decide

theorem test_decode_memory : reads [(0x381c08b3#32, true, .ldWindow 1 .d 0 0 8), (0x841489bd#32, false, .amo true .add 5 4 9),
    (0x001480c1#32, false, .red .iadd false 5 4), (0xa81489c5#32, false, .ldx 2 .w false 5 4 9), (0x201c83c5#32, false, .vgather 2 7 4 3),
    (0x018080c9#32, false, .pref 4), (0x000c89c9#32, false, .wenq 3 4 9), (0x008089c9#32, false, .watch 4 9)] = true := by decide

theorem test_decode_system : reads [(0x02000571#32, false, .mfs 0x080 5), (0x00142079#32, false, .trap 5 1), (0x0104897d#32, false, .atr 1 4 9),
    (0x0014807d#32, false, .ctxsave 5 4), (0x0080807d#32, false, .ctxload 4), (0x0200807d#32, false, .haltp 4),
    (0x0280897d#32, false, .selftest 4 9)] = true := by decide

theorem test_decode_transfer : reads [(0x000089d1#32, false, .copyp 4 9), (0x0080a9d1#32, false, .twaitany 5 9), (0x001482d5#32, false, .chopen 5 4 2),
    (0x0100c0d5#32, false, .mfree 6), (0x0180e3d5#32, false, .mbwait 7 3), (0x240009e1#32, false, .get 1 9),
    (0x001489e9#32, false, .cload 5 4 9)] = true := by decide

theorem test_decode_tile_ticket : reads [(0x000080ed#32, false, .tmma 0 4), (0x0000a9f5#32, false, .tkget 5 9), (0x040089f5#32, false, .hnew 4 9),
    (0x0818a0f5#32, false, .barinit 6 5), (0x0880a9f5#32, false, .bari 5 9), (0x0924a0f5#32, false, .barw 9 5), (0x0a18a0f5#32, false, .gbar 6 5),
    (0x0a80a0f5#32, false, .flushp 5), (0x8a80a0f5#32, false, .flushpG 5), (0x0b1480f5#32, false, .redt 5 4)] = true := by decide

theorem test_decode_task : reads [(0x000080f9#32, false, .spawn 4), (0x008000f9#32, false, .join), (0x021c80f9#32, false, .tctr 7 4),
    (0x031489f9#32, false, .klaunch 5 4 9)] = true := by decide

/-- The witness of DecodeInvertsEncode. -/
theorem witness_DecodeInvertsEncode : Encodable true (.add true 6 7 7) ∧ Encodable false (.cMv 1 0) ∧ Encodable false (.ldWindow 1 .d 0 0 8) := by
  unfold Encodable; decide

/-! ### States to test on -/

/-- A running slot of context 1, in supervisor mode. -/
def slot0 : Slot :=
  { Slot.reset with run := .running, pc := 0x2000, bind := ⟨1, 2, 3, 0, true, some 3⟩, sys := { Sys.reset with st := 0x400 } }

/-- A context of tenant 5 that runs on cluster 0. -/
def ctx1 : Ctx := { Ctx.new 0x40000 5 true with st := 3, clusters := 1 }

/-- A package that runs: every feature accepted, 64 KiB of scratchpad in core 0, slot 0 of it running. -/
def s0 : State :=
  { State.reset with power := ⟨2, false, 0⟩, mgmt := [(0, 0x3fffff), (0x20, 0x3fffff)], slots := [(0, slot0)],
                     cores := [(0, { Core.reset with spsz := 65536 })], ctxs := [(1, ctx1)] }

/-- General register n of the issuing slot holds v. -/
def withG (n : Nat) (v : Word) (s : State) : State := s.onMe (·.wg n v)

/-- Bits of `st` set in the issuing slot: TH 0x200, DET 0x800. -/
def withSt (w : Word) (s : State) : State := s.onMe (·.onSys fun y => { y with st := y.st ||| w })

/-- The issuing slot without SV. -/
def user (s : State) : State := s.onMe (·.onSys fun y => { y with st := y.st &&& ~~~0x400#64 })

/-- The issuing slot owes register r, by result 7. -/
def owing (r : RegId) (s : State) : State := s.onMe fun sl => { sl with pend := [⟨7, [r], .answer⟩] }

/-- Bytes from offset off on in core 0's array. -/
def withArr (off : Nat) (bs : List (BitVec 8)) (s : State) : State := s.onCore 0 fun x => { x with arr := memPut x.arr off bs }

/-- The address of offset off of the local array. -/
def loc (off : Nat) : Word := BitVec.ofNat 64 (localBase + off)

/-- `Ready` as a check. -/
def readyB (i : Instr) (s : State) : Bool :=
  (featureGroups i).all (accepted s) && (!privileged i || s.me.sv) &&
    (roundingOf i != some .dyn || slice s.me.sys.mode 2 0 != 5 || accepted s 15) &&
    (regsRead i).all (fun r => !s.me.owed.contains r) && s.me.replay.isNone

theorem ready_of {i : Instr} {s : State} (h : readyB i s = true) : Ready i s := by
  simp only [readyB, Bool.and_eq_true, List.all_eq_true, Bool.or_eq_true, Bool.not_eq_true', bne_iff_ne, Option.isNone_iff_eq_none] at h
  obtain ⟨⟨⟨⟨a, b⟩, c⟩, d⟩, e⟩ := h
  refine ⟨a, fun hp => ?_, fun hr hm => ?_, fun r hr => ?_, e⟩
  · rcases b with b | b
    · simp [hp] at b
    · exact b
  · rcases c with (c | c) | c
    · exact absurd hr c
    · exact absurd hm c
    · exact c
  · simpa using d r hr

/-- `InScratchpad` as a check. -/
def scratchB (s : State) (a n : Nat) : Bool :=
  localBase ≤ a && a - localBase + n ≤ (s.core s.myCore).spsz && a - localBase + n ≤ 0x7c000 && a + n ≤ 2 ^ 64 && 0 < n && !s.me.det &&
    (s.core s.myCore).transfer.chans.toList.all fun c => !c.opened

theorem inScratchpad_of {s : State} {a n : Nat} (h : scratchB s a n = true) : InScratchpad s a n := by
  simp only [scratchB, Bool.and_eq_true, decide_eq_true_eq, List.all_eq_true, Bool.not_eq_true'] at h
  obtain ⟨⟨⟨⟨⟨⟨a, b⟩, g⟩, c⟩, d⟩, e⟩, f⟩ := h
  exact ⟨a, b, g, c, d, e, f⟩

/-- `Settled` as a check. -/
def settledB (s : State) : Bool := s.me.pend.all (fun p => !isAccess p) && s.me.traffic.out.isEmpty && !buffered s s.cur

theorem settled_of {s : State} (h : settledB s = true) : Settled s := by
  simp only [settledB, Bool.and_eq_true, List.all_eq_true, Bool.not_eq_true', List.isEmpty_iff] at h
  exact ⟨h.1.1, h.1.2, h.2⟩

/-- `Passes` as a check. -/
def passesB (s : State) (kind : AccKind) (al : Nat) (us : List Span) : Bool :=
  (checkAccess s.cur kind al us s).isNone && (meetTargets s.cur us (kind != .load) s).isNone && (accessWait s.me).isNone

theorem passes_of {s : State} {kind : AccKind} {al : Nat} {us : List Span} (h : passesB s kind al us = true) : Passes s kind al us := by
  simp only [passesB, Bool.and_eq_true, Option.isNone_iff_eq_none] at h
  exact ⟨h.1.1, h.1.2, h.2⟩

/-! ### Every encoded instruction is ready in the test state, and has its own effect there -/

theorem witness_ready_integer : ([.add true 3 2 1, .sub false 3 2 1, .mul true 3 2 1, .mulh 3 2 1, .mulhu 3 2 1, .min false 3 2 1, .max true 3 2 1,
    .minu true 3 2 1, .maxu false 3 2 1, .lea 3 3 2 1, .div true 3 2 1, .divu false 3 2 1, .rem true 3 2 1, .remu false 3 2 1, .and 3 2 1, .or 3 2 1,
    .xor 3 2 1, .andn 3 2 1, .orn 3 2 1, .sll true 3 2 1, .srl false 3 2 1, .sra true 3 2 1, .rot false 3 2 1, .addi 5 2 1, .andi 5 2 1, .ori 5 2 1,
    .xori 5 2 1, .slli true 31 2 1, .srli false 63 2 1, .srai true 0 2 1, .roti false 33 2 1, .clz true 2 1, .ctz false 2 1, .popc true 2 1,
    .bswap 2 1, .sext .n8 2 1, .zext .n32 2 1, .bfx 0 63 2 1, .bfxu 63 0 2 1, .bfi 31 32 2 1, .lui 0x7ffff 1, .auipc 0x40000 1, .pcmp true false .geu 3 2 7,
    .pcmp false true .eq 3 2 31, .pcmpi .lt 0x3ff 2 0, .pand 7 1 0, .por 1 2 3, .pxor 1 2 3, .pnot 1 2, .sel 3 3 2 1, .mix 3 2 1] : List Instr).all (readyB · s0) = true := by
  decide

theorem witness_ready_control : ([.bcc 6 6 5 .lt, .bp 0x7fc true 5 3, .j 3, .jl 3, .jlr 0x1fff 2 1, .jr 0 1, .loop 0 5 true, .loopi 2 3 0 false,
    .rep 0 3 3 1, .cMv 2 1, .cAdd 2 1, .cSub 2 1, .cAddi 31 1, .cLi 16 1, .cAnd 2 1, .cOr 2 1, .cSlli 31 1, .cLdw 2 1, .cStw 2 1, .cB 0x200, .cBnz 31 1,
    .cPut 1 1, .cGet 1 1, .cNop, .cYield, .cSuspend, .cWfw, .cEret, .cBkpt, .cWaite, .nop, .trap 5 1, .eret, .yield, .suspend, .wfw, .bkpt, .waite,
    .mfs 0x080 5, .mts 0x002 5, .tpick] : List Instr).all (readyB · s0) = true := by decide

theorem witness_ready_float : ([.faddS .sr 3 2 1, .fsubS .dyn 3 2 1, .fmulS .rtz 3 2 1, .fdivS .rup 3 2 1, .fsqrtS .rdn 2 1, .fminS 3 2 1, .fmaxS 3 2 1,
    .fsgnS 3 2 1, .fsgnnS 3 2 1, .fsgnxS 3 2 1, .fclassS 2 1, .faddD .sr 3 2 1, .fsubD .rna 3 2 1, .fmulD .rne 3 2 1, .fdivD .dyn 3 2 1, .fsqrtD .sr 2 1,
    .fminD 3 2 1, .fmaxD 3 2 1, .fsgnD 3 2 1, .fsgnnD 3 2 1, .fsgnxD 3 2 1, .fclassD 2 1, .ffma true .sr 3 2 1, .ffms false .dyn 3 2 1,
    .fcmp true true .un 3 2 31, .fcmp false false .lt 3 2 7, .cvt .o4 .f32 .sr 7 2 1, .cvt .i64 .i32 .rne 0 2 1] : List Instr).all (readyB · s0) = true := by decide

theorem witness_ready_vector : ([.vadd true .sr 1 3 2 1, .vsub false .dyn 1 3 2 1, .vmul true .rne 1 3 2 1, .vfma false .sr 1 3 2 1, .vfms true .rtz 1 3 2 1,
    .vmin false 1 3 2 1, .vmax true 1 3 2 1, .vabs true 1 2 1, .vneg false 1 2 1, .vrcp .rne 1 2 1, .vrsq .sr 1 2 1, .vexp2 .dyn 1 2 1, .viadd .i8 1 3 2 1,
    .visub .i16 1 3 2 1, .vimul .i32 1 3 2 1, .vimad .i8 1 3 2 1, .vimin .i16 1 3 2 1, .vimax .i32 1 3 2 1, .vand .i8 1 3 2 1, .vor .i16 1 3 2 1,
    .vxor .i32 1 3 2 1, .vsll .i8 1 3 2 1, .vsrl .i16 1 3 2 1, .vsra .i32 1 3 2 1, .viabs .i8 1 2 1, .vcmp true .geu 1 3 2 7, .vcmp false .un 1 3 2 0,
    .vsel 1 3 2 1, .vperm 1 3 2 1, .vrev 1 2 1, .vslide 15 1 3 2 1, .vslide 49 1 3 2 1, .vzip 1 3 2 1, .vunzip 1 2 1, .vbcast 1 2 1, .vext 15 2 1,
    .vins 15 2 1, .viota 3 2 1, .vmix 1 3 2 1, .vred .fadd .sr 1 2 1, .vscan .iadd .rne 1 2 1, .vdot .e4m3 .rne 1 3 2 1, .vdot .i4 .rne 0 3 2 1,
    .vcvt .f32 .rne 0 .i32 2 1, .vpack .o4 .rne 0 3 2 1, .vpack .f16 .sr 1 3 2 1, .vunpk .o4 1 true 2 1, .vbscale .e8m0 .rne 1 3 2 1] :
    List Instr).all (readyB · s0) = true := by decide

theorem witness_ready_memory : ([.ld 0x400 .d 2 1, .ldWindow 7 .d 63 2 1, .st 0x3ff .b 2 1, .vld 1 2 1, .vst 1 2 1, .vlds 7 0xff 2 1, .vsts 7 1 2 1,
    .ldp 0 2 30, .vldp 0 2 14, .vldWindow 7 255 2 1, .amo true .maxu 3 2 1, .cas false 3 2 1, .lda true 2 1, .stl false 3 2, .acq, .rel, .fence,
    .red .fadd true 3 2, .vgather 3 3 2 1, .vscatter 3 3 2 1, .ldx 3 .d false 3 2 1, .stx 3 .b 3 2 1, .wenq 3 2 1, .watch 2 1, .unwatch 2 1, .pref 2,
    .cflush 2, .cinv 2] : List Instr).all (readyB · s0) = true := by decide

theorem witness_ready_system : ([.cplaunch 1, .copyp 2 1, .twaitany 2 1, .twaitall 2, .tfind 2 1, .ttest 2 1, .tclr 2, .chopen 3 2 3, .chclose 3, .mfree 2,
    .mbwait 2 7, .put 7 2, .get 7 1, .putv 3 2, .getv 3 1, .psel 3 2 1, .putb 7 7 2, .getb 7 7 2, .cload 3 2 1, .cunload 2, .pbind 3 2 7, .punbind 7,
    .cstat 3 2 1, .tmma 7 2, .tmmaSp 3 7 2, .tzero, .tld 7 2, .tst 7 2, .tldb 7 2, .tjoin 2, .twt 2, .tstat 2 1, .tkget 2 1, .tkwait 2, .publish,
    .hnew 2 1, .hcopy 2 1, .hdrop 2, .hwt 2 1, .hbind 3 2, .barinit 3 2, .bari 2 1, .barw 3 2, .bart 3 2 1, .gbar 3 2, .flushp 2, .flushpG 2, .redt 3 2,
    .spawn 2, .join, .tenq 2, .tctr 3 2, .tdec 2, .klaunch 3 2 1, .ctxsave 3 2, .ctxload 2, .atr 2 2 1, .tlbfl 2 2, .haltp 2, .selftest 2 1,
    .emulation 0x008000] : List Instr).all (readyB · s0) = true := by decide

/-! ### Witnesses: the machine, traps, gates, integers, control -/

/-- The checks of the first part of StepRunsDecodedInstruction at slot 0, where the fetched word decodes to i. -/
def stepsTo (s : State) (i : Instr) : Bool :=
  let u := atIssue (coreOf s.cur) 0 s
  s.inputs.isEmpty && s.power.boot != 3 && !s.turn && (coreDue s (coreOf s.cur)).isNone && !(s.core (coreOf s.cur)).stopped && (s.core (coreOf s.cur)).halting.isNone &&
    (coreSlots (coreOf s.cur)).all (fun j => !interruptible s j && !entryDue s j && !releaseDue s j) &&
    chosen s (coreOf s.cur) == some 0 && !(u.slot 0).timerDue &&
    match fetchWord 0 (u.slot 0).pc u with
    | .ok (_, w, _) => (match decodeWord (BitVec.ofNat 32 w) with
      | .ok f => f.i == i
      | .error _ => false)
    | .error _ => false

theorem witness_StepRunsDecodedInstruction : stepsTo (State.reset.withFetchWord 32 0x8018e705) (.add true 6 7 7) = true := by decide

theorem witness_PowerOffLasts : PoweredOff { State.reset with power := ⟨3, false, 0⟩, inputs := [evt .doorbell 1 2 3] } := by
  unfold PoweredOff; decide

/-- A slot with a handler. -/
def handled (s : State) : State := s.onMe (·.onSys fun y => { y with tvec := 0x4000, epc := 0x2468 })

theorem witness_TrapEntrySavesAndVectors_handler : let s := handled s0
    (s.slot 0).replay = none ∧ (s.slot 0).quiet = true ∧ (s.slot 0).th = false ∧ (s.slot 0).sys.tvec ≠ 0#64 := by decide

theorem witness_TrapEntrySavesAndVectors_none : (s0.slot 0).quiet = true ∧ (s0.slot 0).sys.tvec = 0#64 ∧
    ((withSt 0x200 (handled s0)).slot 0).th = true ∧ tfind s0.ctxs (s0.slot 0).bind.ctx = some ctx1 ∧ ctx1.st ≠ 0 ∧ ctx1.st ≠ 7 := by decide

theorem witness_TrapEntrySavesAndVectors_wait : ((owing ⟨0, 3⟩ s0).slot 0).quiet = false ∧ ((owing ⟨0, 3⟩ s0).slot 0).replay = none := by decide

theorem witness_TrapEntrySavesAndVectors_event : let s := (handled s0).onSlot 0 fun sl => { sl with run := .parked (.trapEntry 0x10 1 0x2000) }
    (s.slot s.arg.k).run = .parked (.trapEntry 0x10 1 0x2000) ∧ (s.slot s.arg.k).quiet = true ∧ (s.slot s.arg.k).replay = none ∧
      (s.slot s.arg.k).th = false ∧ (s.slot s.arg.k).sys.tvec ≠ 0#64 ∧ ((owing ⟨0, 3⟩ s).slot s.arg.k).quiet = false := by decide

theorem witness_TrapEntrySavesAndVectors_fault : let s := s0.onSlot 0 fun sl => { sl with run := .parked (.faultEntry 0x1e 1 0x2000) }
    (s.slot s.arg.k).run = .parked (.faultEntry 0x1e 1 0x2000) ∧ (s.slot s.arg.k).quiet = true ∧
      tfind s.ctxs (s.slot s.arg.k).bind.ctx = some ctx1 ∧ ctx1.st ≠ 0 ∧ ctx1.st ≠ 7 ∧ ((owing ⟨0, 3⟩ s).slot s.arg.k).quiet = false := by decide

theorem witness_TrapInstructionsAndReturns : Ready (.trap 31 31) s0 ∧ Ready .bkpt s0 ∧ s0.me.armed = false ∧
    (let s := s0.onMe fun sl => { sl with armed := true }; Ready .cBkpt s ∧ s.me.armed = true) ∧
    (Ready .eret (withSt 0x200 s0) ∧ (withSt 0x200 s0).me.th = true) ∧ Ready .cEret s0 ∧ s0.me.th = false :=
  ⟨ready_of (by decide), ready_of (by decide), by decide, ⟨ready_of (by decide), by decide⟩, ⟨ready_of (by decide), by decide⟩,
    ready_of (by decide), by decide⟩

theorem witness_FeatureAndPrivilegeGates : (Instr.vdot .e4m3 .rne 0 2 1 4).len ≠ 0 ∧
    (∃ n ∈ featureGroups (.vdot .e4m3 .rne 0 2 1 4), accepted State.reset n = false) ∧
    (Instr.haltp 4).len ≠ 0 ∧ (∀ n ∈ featureGroups (.haltp 4), accepted (user s0) n = true) ∧ privileged (.haltp 4) = true ∧
    (user s0).me.sv = false := by decide

theorem witness_HazardTrapsInDeterministicMode : let s := withSt 0x800 (owing ⟨0, 7⟩ s0)
    (Instr.add true 6 7 7).len ≠ 0 ∧ gateCause (.add true 6 7 7) s = none ∧ s.me.det = true ∧ s.me.replay = none ∧
      (regsRead (.add true 6 7 7)).find? (fun x => s.me.owed.contains x) = some ⟨0, 7⟩ := by decide

/-- Boundary registers of every file; the statement has no other hypothesis. -/
theorem witness_RegisterResultFrame : (match RegVal.g 31 5 with | .g n _ => n < 32 | .v n _ => n < 16 | .p n _ => n < 8) ∧
    (match RegVal.v 15 vzero with | .g n _ => n < 32 | .v n _ => n < 16 | .p n _ => n < 8) ∧
    (match RegVal.p 7 1 with | .g n _ => n < 32 | .v n _ => n < 16 | .p n _ => n < 8) := by decide

theorem witness_ArithmeticResults : Ready (.add true 3 2 1) s0 ∧ Ready (.minu true 31 31 0) s0 := ⟨ready_of (by decide), ready_of (by decide)⟩

theorem witness_DividesAndOwedResults : let s := withG 3 0xffffffff00000000 s0
    Ready (.div true 3 2 1) s ∧ unsignedOf true (s.me.rg 3) = 0#64 ∧ unsignedOf false (s.me.rg 3) ≠ 0#64 :=
  ⟨ready_of (by decide), by decide, by decide⟩

theorem witness_DividesAndOwedResults_lands : let s := s0.onMe fun sl => { sl with pend := [⟨0, [⟨0, 9⟩], .timed [.g 9 5] 0x10 24 false⟩] }
    (s.slot s.arg.k).replay = none ∧ (s.slot s.arg.k).pend = [⟨s.arg.a, [⟨0, 9⟩], .timed [.g 9 5] 0x10 24 false⟩] ∧
      reached (s.core (coreOf s.arg.k)).cyc 24 = false ∧
      reached ((s.onCore 0 fun x => { x with cyc := 24 }).core (coreOf s.arg.k)).cyc 24 = true := by decide

theorem witness_LogicAndShiftResults : Ready (.sra true 3 2 1) s0 ∧ (31#6).toNat < bitsOf true ∧ (63#6).toNat < bitsOf false :=
  ⟨ready_of (by decide), by decide, by decide⟩

theorem witness_CountsBytesAndFields : Ready (.clz true 2 1) s0 ∧ (0#6).toNat + (63#6).toNat < 64 ∧ (63#6).toNat + (0#6).toNat < 64 :=
  ⟨ready_of (by decide), by decide, by decide⟩

theorem witness_CompareAndPredicateResults : Cond.geu ≠ .un ∧ Ready (.pcmp true false .geu 3 2 7) s0 ∧ Ready (.sel 7 3 2 1) s0 :=
  ⟨by decide, ready_of (by decide), ready_of (by decide)⟩

theorem witness_CompressedFormsEqualTheirEquivalents : Ready (.cSlli 31 1) s0 ∧ Ready (.slli false 31 1 1) s0 ∧ Ready (.cMv 2 0) s0 :=
  ⟨ready_of (by decide), ready_of (by decide), ready_of (by decide)⟩

theorem witness_LeaAndAuipcFormAddresses : Ready (.lea 3 31 31 0) s0 ∧ Ready (.auipc 0x40000 31) s0 := ⟨ready_of (by decide), ready_of (by decide)⟩

theorem witness_NopHasNoEffect : let s : State := { owing ⟨0, 3⟩ s0 with mark := true }
    Ready .nop s ∧ Ready .cNop s ∧ s.mark = true ∧ s.me.quiet = false ∧ s.me.run = .running :=
  ⟨ready_of (by decide), ready_of (by decide), by decide, by decide, by decide⟩

theorem witness_BranchesJumpsAndLoopExits : let s := withG 2 (-1) (withG 3 1 s0)
    Ready (.bcc 0x400 3 2 .lt) s ∧ (s.me.rg 2).slt (s.me.rg 3) = true ∧ (s.me.rg 2).ult (s.me.rg 3) = false ∧ Ready (.bp 3 true 15 0) s ∧
      Ready (.jlr 0x2001 2 1) s ∧ (s.me.rg 2 + (0x2001#14).signExtend 64).getLsbD 0 = false ∧
      (s.me.rg 3 + (0x0000#14).signExtend 64).getLsbD 0 = true :=
  ⟨ready_of (by decide), by decide, by decide, ready_of (by decide), ready_of (by decide), by decide, by decide⟩

theorem witness_BranchesJumpsAndLoopExits_exits : let sl := slot0.onSys fun y => { y with loop0 := ⟨0x2004, 0x2010, 3⟩, loop1 := ⟨0x2004, 0x2010, 0x8000000000000003⟩ }
    (sl.loop false).lc.setWidth 32 ≠ 0#32 ∧ (sl.loop false).lc.getLsbD 63 = sl.th ∧ (0x2002#64).ult (sl.loop false).ls = true ∧
      (0x2010#64).ult (sl.loop false).ls = false ∧ (sl.loop false).le.ult 0x2010#64 = false ∧ (sl.loop true).lc.getLsbD 63 ≠ sl.th := by decide

/-- Loop 1 with `n1` and loop 0 with `n0` passes to go, both ending at the pc. -/
def loops (n1 n0 : Word) : State := s0.onMe (·.onSys fun y => { y with loop0 := ⟨0x1000, 0x2000, n0⟩, loop1 := ⟨0x1800, 0x2000, n1⟩ })

theorem witness_LoopsAreSetAndEnd_end : (loops 2 2).mark = false ∧ (loops 2 2).me.sys.loop1.lc.setWidth 32 ≠ 0#32 ∧
    (loops 2 2).me.sys.loop1.lc.getLsbD 63 = (loops 2 2).me.th ∧ (loops 2 2).me.pc = (loops 2 2).me.sys.loop1.le ∧
    (loops 2 2).me.sys.loop1.lc.setWidth 32 ≠ 1#32 ∧ (loops 1 1).me.sys.loop1.lc.setWidth 32 = 1#32 ∧
    (loops 1 1).me.sys.loop0.lc.setWidth 32 = 1#32 ∧ (loops 1 2).me.sys.loop0.lc.setWidth 32 ≠ 1#32 ∧ (loops 0 0).me.sys.loop0.lc.setWidth 32 = 0#32 := by decide

/-- A page of context 1 at 0x2000 with these bytes, in the octet's TLB. -/
def withPage (bs : List (BitVec 8)) (s : State) : State :=
  ({ s with mem := memPut s.mem 0x2000 bs }).onOctet 0 fun x => { x with tlb := [⟨1, 0x2000, 13, 0x2000, true, true, true, true⟩] }

theorem witness_LoopsAreSetAndEnd : Ready (.loopi 2 31 15 true) s0 ∧ ((15#4 ++ 31#5).setWidth 32 : BitVec 32) ≠ 0#32 ∧
    (let s := withPage [0, 0, 0, 0, 0x01, 0x00] s0
     Ready (.loop 0 5 false) s ∧ (s.me.rg 5).setWidth 32 = 0#32 ∧
       (match fetchParcel s.cur (s.me.pc + 4) s with | .ok (x, _) => x == 1 | .error _ => false) = true) ∧
    (match fetchParcel s0.cur (s0.me.pc + 0x100000) (s0.onMe fun sl => { sl with pc := 0xff00000000000000 }) with
      | .ok _ => true
      | .error _ => false) = false :=
  ⟨ready_of (by decide), by decide, ⟨ready_of (by decide), by decide, by decide⟩, by decide⟩

theorem witness_RepCapturesItsWindow : let s := withPage [0, 0, 0, 0, 0x85, 0x32, 0x04, 0x40] s0
    Ready (.rep 0 3 3 1) s ∧ bufferTaken s s.cur = false ∧ (match captureWindow (s.me.pc + 4) 1 s with | .ok (is, t) => is.map (·.1) == [.viadd .i16 0 4 3 2] && t.cur == s.cur | .error _ => false) = true ∧
      (s0.slot s0.arg.k).replay = none :=
  ⟨ready_of (by decide), by decide, by decide, by decide⟩

/-! ### Witnesses: floating point, vectors, accesses -/

/-- What executing an instruction leaves, where it answers a next state. -/
def after (i : Instr) (s : State) : State :=
  match exec i s with
  | .next t => t
  | _ => s

theorem witness_RepCapturesItsWindow_end :
    let t := after (.rep 0 3 3 1) (withPage [0, 0, 0, 0, 0x85, 0x32, 0x04, 0x40] s0)
    (match (t.slot t.arg.k).replay with
      | some r => !r.ended && r.fault.isNone && (match replayRun t.arg.k (r.window.length * r.reps + 1) r { t with cur := t.arg.k, mark := false } with
        | (q, _, .on) => q.ended && q.trap.isNone
        | _ => false)
      | none => false) = true := by decide

theorem witness_LoopsAreSetAndEnd_fetch : let s := s0.onMe fun sl => { sl with pc := 0x00fffffffffffffc }
    (match fetchParcel s.cur (s.me.pc + 4) s with
      | .error (_, .trap _ _) => true
      | _ => false) = true ∧ Ready (.loop 0 5 false) s := ⟨by decide, ready_of (by decide)⟩

/-- A magnitude of 5/2 units and one of 2. -/
theorem witness_RoundingOfUnitsIsCorrect : (⟨5, 2, 0, false⟩ : Mag).sticky = false ∧ 0 < (⟨5, 2, 0, false⟩ : Mag).den ∧
    ¬ ((⟨5, 2, 0, false⟩ : Mag).inUnits 0).2 ∣ ((⟨5, 2, 0, false⟩ : Mag).inUnits 0).1 ∧
    ((⟨4, 2, 0, false⟩ : Mag).inUnits 0).2 ∣ ((⟨4, 2, 0, false⟩ : Mag).inUnits 0).1 := by decide

theorem witness_ScalarFloatArithmetic : Ready (.faddS .sr 3 2 1) s0 ∧ Ready (.ffms true .dyn 3 2 1) s0 ∧ Ready (.fcmp true false .un 3 2 7) s0 :=
  ⟨ready_of (by decide), ready_of (by decide), ready_of (by decide)⟩

theorem witness_FloatSignsAndClasses : Ready (.fsgnxD 3 2 1) s0 ∧ Ready (.fclassS 2 0) s0 := ⟨ready_of (by decide), ready_of (by decide)⟩

theorem witness_FloatDivideAndRoot : Ready (.fdivD .sr 3 2 1) s0 ∧ (⟨0, false, 0, 0, 0, none⟩ : Fpu).rm ≠ 5 ∧ (floatVal fp32 0x7f800001).isNan = true ∧
    floatVal fp64 0xfff0000000000000 = .inf true ∧ floatVal fp32 0x7f800000 = .inf false ∧
    (match floatVal fp32 0x80000000 with | .num p m => p && m.isZero | _ => false) = true ∧
    (match floatVal fp32 0x80000001 with | .num p m => p && !m.isZero | _ => false) = true ∧
    (match floatVal fp64 0 with | .num p m => !p && m.isZero | _ => false) = true ∧
    (match floatVal fp32 0x3f800000 with | .num p m => !p && !m.isZero | _ => false) = true :=
  ⟨ready_of (by decide), by decide, by decide, by decide, by decide, by decide, by decide, by decide, by decide⟩

theorem witness_VectorFloatLanes : let s := s0.onMe (·.wp 1 0x8001)
    Ready (.vfma true .sr 1 3 2 1) s ∧ (s.me.rp 1).getLsbD 15 = true ∧ (s.me.rp 1).getLsbD 14 = false := ⟨ready_of (by decide), by decide, by decide⟩

theorem witness_VectorIntegerLanes : let s := s0.onMe (·.wp 1 0x8001)
    Ready (.vsra .i8 1 3 2 1) s ∧ (s.me.rp 1).getLsbD 0 = true ∧ (s.me.rp 1).getLsbD 1 = false ∧ 3 < 32 / 8 := ⟨ready_of (by decide), by decide, by decide, by decide⟩

theorem witness_VectorMovesAndCompares : Ready (.vslide 49 1 3 2 1) s0 ∧ -15 ≤ (49#6).toInt ∧ (15#6).toInt ≤ 15 ∧ Ready (.vcmp true .geu 1 3 2 7) s0 ∧
    Cond.geu ≠ .un ∧ Ready (.vext 15 2 1) s0 ∧ Ready (.vcmp false .un 1 3 2 0) s0 :=
  ⟨ready_of (by decide), by decide, by decide, ready_of (by decide), by decide, ready_of (by decide), ready_of (by decide)⟩

theorem witness_ReductionsScansAndDots : Ready (.vred .fadd .sr 1 2 1) s0 ∧ Ready (.vdot .i4 .rne 0 3 2 1) s0 ∧ dotFmt .i4 = true :=
  ⟨ready_of (by decide), ready_of (by decide), by decide⟩

/-- 2^40 as an FP32 code narrows out of the range of I8 under the policy TRAP. -/
theorem witness_ConversionsAndPacks : Ready (.cvt .i64 .i32 .rne 0 2 1) s0 ∧ Fmt.i64 ≠ .o4 ∧ Ready (.cvt .o4 .f32 .rne 7 2 1) s0 ∧
    (cvtVal .o4 .f32 (s0.me.rx 7) (s0.me.rg 2) (fpuOf .rne s0.me)).2.trapAt = none ∧
    (let s := withG 2 0x53800000 (s0.onMe (·.onSys fun y => { y with mode := 8 }))
     (cvtVal .i8 .f32 0 (s.me.rg 2) (fpuOf .rne s.me)).2.trapAt ≠ none) ∧ (⟨4, false, 0, 0, 0, none⟩ : Fpu).rm ≠ 5 :=
  ⟨ready_of (by decide), by decide, ready_of (by decide), by decide, by decide, by decide⟩

/-- Context 1's page at 0x6000, which its TLB entry lets only a supervisor read. -/
def withData (u r w : Bool) (s : State) : State := s.onOctet 0 fun x => { x with tlb := [⟨1, 0x6000, 13, 0x6000, u, false, w, r⟩] }

theorem witness_AccessesAreChecked : Ready (.ld 0 .d 2 1) s0 ∧ s0.me.phase = 0 ∧ storeWait s0.me = none ∧
    (0x6001 % 8 ≠ 0) ∧ (regionOf s0 s0.myCore 0x0100000000000000 = .nonCanonical ∧ 0x0100000000000000 % 8 = 0) ∧
    (regionOf s0 s0.myCore (localBase + 65536) = .hole ∧ (localBase + 65536) % 8 = 0) ∧
    (regionOf (user s0) (user s0).myCore (localBase + 0x7c000) = .system ∧ regionOf (user s0) (user s0).myCore (localBase + 0x7c007) = .system ∧
      (user s0).me.sv = false) ∧
    (let s := withData true false true s0
     regionOf s s.myCore 0x6000 = .memory ∧ tlbFind s s.myOctet s.myCtx 0x6000 = some ⟨1, 0x6000, 13, 0x6000, true, false, true, false⟩) ∧
    InScratchpad s0 (localBase + 65528) 8 ∧ accessWait s0.me = none ∧ (localBase + 65528) % 8 = 0 :=
  ⟨ready_of (by decide), by decide, by decide, by decide, by decide, by decide, by decide, by decide, inScratchpad_of (by decide), by decide, by decide⟩

/-- A window of 12 bytes at offset 0x40 of the scratchpad, number 7. -/
def windowed (s : State) : State := s.onMe (·.onSys fun y => { y with wb := vset y.wb 7 (loc 0x40), wl := vset y.wl 7 12 })

theorem witness_LoadsAndTheirData_scalar : let s := withG 2 (loc 0xffe8) s0
    (Ready (.ld 2 .d 2 1) s ∧ Passes s .load 8 [⟨(s.me.rg 2 + 16).toNat, 8⟩]) ∧
    (Ready (.ldp 0 2 30) s ∧ Passes s .load 8 [⟨(s.me.rg 2).toNat, 8⟩, ⟨(s.me.rg 2 + 8).toNat, 8⟩]) ∧
    (Ready (.vld 0x7ff 2 1) s ∧ Passes s .load 4 [⟨(s.me.rg 2 - 64).toNat, 64⟩]) ∧
    (Ready (.vlds 0 0 2 1) s ∧ Passes s .load 4 ((List.range 16).map fun _ => ⟨(s.me.rg 2).toNat, 4⟩)) :=
  ⟨⟨ready_of (by decide), passes_of (by decide)⟩, ⟨ready_of (by decide), passes_of (by decide)⟩, ⟨ready_of (by decide), passes_of (by decide)⟩,
    ⟨ready_of (by decide), passes_of (by decide)⟩⟩

theorem witness_LoadsAndTheirData_window : let s := windowed s0
    Ready (.ldWindow 7 .d 1 0 1) s ∧ ((vget s.me.sys.wl 6 0).extractLsb' 0 17).toNat = 0 ∧ ((vget s.me.sys.wl 7 0).extractLsb' 0 17).toNat ≠ 0 ∧
      (8#64).toNat % 8 = 0 ∧ Passes s .load 1 [⟨(loc 0x48).toNat, 4⟩] ∧ Passes s .load 1 [⟨(loc 0x40).toNat, 8⟩] ∧ (0x41#64).toNat % 8 ≠ 0 :=
  ⟨ready_of (by decide), by decide, by decide, by decide, passes_of (by decide), passes_of (by decide), by decide⟩

theorem witness_LoadsAndTheirData_gather : let s := withG 2 (loc 0x100) s0
    Ready (.vgather 2 3 2 1) s ∧ s.me.sys.prg.extractLsb' 56 8 = 0#8 ∧ s.me.timerDue = false ∧ ctxState s s.myCtx ≠ 5 ∧ accessWait s.me = none ∧
      ∀ j, j < 16 → InScratchpad s (s.me.rg 2 + (lane (s.me.rv 3) j).setWidth 64 * (1#64 <<< 2)).toNat 4 ∧
        (s.me.rg 2 + (lane (s.me.rv 3) j).setWidth 64 * (1#64 <<< 2)).toNat % 4 = 0 :=
  ⟨ready_of (by decide), by decide, by decide, by decide, by decide, fun j hj => by
    have h : ∀ j, j < 16 → scratchB (withG 2 (loc 0x100) s0) ((withG 2 (loc 0x100) s0).me.rg 2 + (lane ((withG 2 (loc 0x100) s0).me.rv 3) j).setWidth 64 * (1#64 <<< 2)).toNat 4 = true ∧
      ((withG 2 (loc 0x100) s0).me.rg 2 + (lane ((withG 2 (loc 0x100) s0).me.rv 3) j).setWidth 64 * (1#64 <<< 2)).toNat % 4 = 0 := by decide
    exact ⟨inScratchpad_of (h j hj).1, (h j hj).2⟩⟩

/-- A load of a whole doubleword into g31, and one lane of v15 with one byte within its window. -/
theorem witness_LoadsAndTheirData_lands : let a : List LoadItem := [⟨⟨0, 31⟩, 0, .arr 0 8, 8, 8, false, 0, false⟩]
    let b : List LoadItem := [⟨⟨1, 15⟩, 15, .arr 0 16, 4, 1, false, 0, false⟩]
    let s := s0.onMe fun sl => { sl with pend := [⟨7, itemRegs a, .load a⟩, ⟨8, itemRegs b, .load b⟩] }
    s.arg.c = 0 ∧ (s.slot 0).findPend 7 = some ⟨7, itemRegs a, .load a⟩ ∧ loadBlocked (s.slot 0) 7 a = false ∧ (a.map fun it => (it.reg, it.lane)).Nodup ∧
      (s.slot 0).findPend 8 = some ⟨8, itemRegs b, .load b⟩ ∧ loadBlocked (s.slot 0) 8 b = false ∧ (b.map fun it => (it.reg, it.lane)).Nodup := by decide

theorem witness_StoresWriteTheirBytesAlone : let s := withG 2 (loc 0xfff8) s0
    storeWait s.me = none ∧ NothingOnItsWay s ∧ Ready (.st 0 .d 2 1) s ∧ InScratchpad s (s.me.rg 2).toNat 8 ∧ (s.me.rg 2).toNat % 8 = 0 ∧
      s.me.sys.prg.extractLsb' 56 8 = 0#8 ∧ s.me.timerDue = false ∧ ctxState s s.myCtx ≠ 5 ∧
      (∀ j, j < 16 → InScratchpad s (s.me.rg 2 + BitVec.ofNat 64 j * s.me.rx 0).toNat 4 ∧ (s.me.rg 2 + BitVec.ofNat 64 j * s.me.rx 0).toNat % 4 = 0) :=
  ⟨by decide, by unfold NothingOnItsWay; decide, ready_of (by decide), inScratchpad_of (by decide), by decide, by decide, by decide, by decide, fun j hj => by
    have h : ∀ j, j < 16 → scratchB (withG 2 (loc 0xfff8) s0) ((withG 2 (loc 0xfff8) s0).me.rg 2 + BitVec.ofNat 64 j * (withG 2 (loc 0xfff8) s0).me.rx 0).toNat 4 = true ∧
      ((withG 2 (loc 0xfff8) s0).me.rg 2 + BitVec.ofNat 64 j * (withG 2 (loc 0xfff8) s0).me.rx 0).toNat % 4 = 0 := by decide
    exact ⟨inScratchpad_of (h j hj).1, (h j hj).2⟩⟩

theorem witness_StoresWriteTheirBytesAlone_memory : let s := withG 2 0x6000 (withData true true true s0)
    Ready (.st 0 .w 2 1) s ∧ Passes s .store 4 [⟨(s.me.rg 2).toNat, 4⟩] ∧ placeAt s.cur .store s (s.me.rg 2).toNat = .mem 0x6000 ∧
      isMgmt 0x6000 = false ∧ buffered s s.cur = false ∧ redMeets s.me [(.mem 0x6000, 4)] = false :=
  ⟨ready_of (by decide), passes_of (by decide), by decide, by decide, by decide, by decide⟩

theorem witness_AtomicsAndRed : let s := withG 2 (loc 0xfff8) s0
    NothingOnItsWay s ∧ s.me.phase = 0 ∧ buffered s s.cur = false ∧ Ready (.amo false .maxu 3 2 1) s ∧ Passes s .rmw 8 [⟨(s.me.rg 2).toNat, 8⟩] ∧
      placeAt s.cur .rmw s (s.me.rg 2).toNat = .arr 0 0xfff8 ∧ Ready (.stl true 3 2) s ∧ Passes s .store 4 [⟨(s.me.rg 2).toNat, 4⟩] ∧
      Ready (.red .maxu true 3 2) s ∧ storeWait s.me = none ∧ InScratchpad s (s.me.rg 2).toNat 8 :=
  ⟨by unfold NothingOnItsWay; decide, by decide, by decide, ready_of (by decide), passes_of (by decide), by decide, ready_of (by decide), passes_of (by decide),
    ready_of (by decide), by decide, inScratchpad_of (by decide)⟩

theorem witness_AtomicsAndRed_arrival : let a : Atomic := ⟨.cas 5, .arr 0 8, true, 9⟩
    let s := s0.onMe fun sl => { sl with pend := [⟨0, [⟨0, 31⟩], .atomic a⟩] }
    (s.slot 0).findPend 0 = some ⟨0, [⟨0, 31⟩], .atomic a⟩ ∧ atomicBlocked (s.slot 0) 0 a = false := by decide

theorem witness_FencesAndCacheControl : let l := s0.onMe fun sl => { sl with pend := [⟨0, [⟨0, 31⟩], .atomic ⟨.lda, .arr 0 8, true, 9⟩⟩] }
    let t := s0.onMe fun sl => { sl with traffic := { sl.traffic with out := [.store 5] } }
    let m := withG 2 0x6000 (withData true true true s0)
    Ready .acq l ∧ ¬ NothingOnItsWay l ∧ NothingOnItsWay s0 ∧ Ready .fence t ∧ t.me.traffic.out ≠ [] ∧ buffered t t.cur = false ∧ Ready .fence l ∧
      regionOf s0 s0.myCore localBase ≠ .memory ∧ regionOf m m.myCore 0x6000 = .memory ∧
      tlbFind m m.myOctet m.myCtx 0x6000 = some ⟨1, 0x6000, 13, 0x6000, true, false, true, true⟩ ∧ hasMem (0x6000 + 0x6000 % 2 ^ 13) = true ∧
      (quietLine 0x6000 m).1 = some 0x180 ∧ buffered (quietLine 0x6000 m).2 m.cur = false ∧ NothingOnItsWay (quietLine 0x6000 m).2 ∧
      (quietLine 0x6000 m).2.cur = m.cur :=
  ⟨ready_of (by decide), by unfold NothingOnItsWay; decide, by unfold NothingOnItsWay; decide, ready_of (by decide), by decide, by decide, ready_of (by decide),
    by decide, by decide, by decide, by decide, by decide, by decide, by unfold NothingOnItsWay; decide, by decide⟩

/-! ### Witnesses: special registers, task ends, privileged instructions, transfers, connectors -/

theorem witness_SpecialRegistersReadAndWrite : Ready (.mfs 0x0b7 31) s0 ∧ Ready (.mts 0x02c 2) s0 ∧ tfind s0.ctxs s0.myCtx = some ctx1 ∧
    (user s0).me.sv = false ∧ Ready (.mts 0x084 2) (user s0) ∧ s0.me.sv = true ∧ Ready (.mts 0x041 2) s0 :=
  ⟨ready_of (by decide), ready_of (by decide), by decide, by decide, ready_of (by decide), by decide, ready_of (by decide)⟩

/-- A group of one slot with a task under way, its kernel and its frontier instance. -/
def group3 : Group :=
  { kernel := 2, index := 0, ticket := 4, inst := 6, st := .running, octet := 0, quad := false, cores := 1, slots := [0], toStart := [], live := 1,
    entries := [], next := 0, held := [], undo := [], stopped := false, ring := 0, ringSize := 0x2000, inRing := 0, written := 0, cycles := 0, susp := [],
    home := 0, passed := [], kept := none, sent := false, since := 0 }

def kernel2 : Kernel :=
  { ctx := 1, queue := 1, seq := 0, st := .running, image := 0, var := 0, base := 0, entries := [0x2000], stages := 1, det := false, np := false,
    sv := true, scr := 8, prio := 0, ox := 0, oy := 0, firstX := 0, firstY := 0, w := 1, h := 1, tasks := 1, ngrp := 2, placed := 1, retired := 0, t0 := 4, scope := 0, fid := 0,
    fq := 0, compl := 0, wtab := 0, wb := Vector.replicate 8 0, wl := Vector.replicate 8 0, charge := 0, disc := 0, sig := 0 }

def grouped (s : State) : State :=
  { s with groups := [(3, group3)], kernels := [(2, kernel2)], frontiers := [(6, ⟨0, 0, 0, 0, 4, 4, none⟩)] }

/-- The last 16 bytes of a record. -/
def tailBytes (home prio : Nat) (ctr : Bool) (cref : Nat) : List (BitVec 8) :=
  bytesLE 8 home ++ bytesLE 8 (prio + (if ctr then 256 else 0) + 65536 * cref)

/-- The slot's record stands at offset 0x400 of its scratchpad, with these last bytes. -/
def recorded (tail : List (BitVec 8)) (s : State) : State :=
  withArr 0x430 tail (s.onMe (·.onSys fun y => { y with trec := loc 0x400 }))

/-- The last bytes of a record read once it is written, with `keep` as given. -/
def tailWith (k : Nat) (s1 : State) (keep : List Word) (p : List (BitVec 8) → State → Bool) : Bool :=
  match ownTail k (s1.onMe fun sl => { sl with phase := 3, keep := keep }) with
  | (some q, s2) => s2.cur == k && p q s2
  | (none, _) => false

/-- Whether a slot ends as the statement on YIELD and SUSPEND asks, with a HOME for which p holds. -/
def endsWith (s : State) (len : Nat) (keep : List Word) (p : List (BitVec 8) → State → Bool) : Bool :=
  (recordHazard s.me).isNone && fullMask s.me == 0 && s.me.phase == 0 &&
    match writeRecord (s.me.pc + BitVec.ofNat 64 len) s with
    | .ok s1 => s1.cur == s.cur && tailWith s.cur s1 keep p
    | .error _ => false

/-- `NothingListed` as a check. -/
def nothingB (s : State) (k : Nat) : Bool :=
  ((s.core (coreOf k)).runList.all fun e => !ctxOpen s e.ctx) &&
    (!((s.slot k).det && (s.slot k).bind.bound) || s.groups.all fun g => g.2.toStart.isEmpty)

theorem nothingListed_of {s : State} {k : Nat} (h : nothingB s k = true) : NothingListed s k := by
  simp only [nothingB, Bool.and_eq_true, List.all_eq_true, Bool.or_eq_true, Bool.not_eq_true', List.isEmpty_iff, Bool.and_eq_false_iff] at h
  refine ⟨h.1, fun hd hb g hg => ?_⟩
  rcases h.2 with (x | x) | x
  · simp [hd] at x
  · simp [hb] at x
  · exact x g hg

/-- An entry on the run list of core 0, and one on its deque, whose record stands in the scratchpad. -/
def listed (s : State) : State :=
  withArr 0x440 (bytesLE 8 0x3001) (s.onCore 0 fun x => { x with runList := [⟨3, loc 0x440, 1, 0⟩], deque := [⟨loc 0x440, 1, 0⟩] })

theorem witness_WaitsEndsYieldsAndSuspends : Ready .waite (withSt 0x40 s0) ∧ (withSt 0x40 s0).me.sys.st.getLsbD 6 = true ∧ s0.me.sys.st.getLsbD 6 = false ∧
    Ready .wfw (grouped s0) ∧ NothingListed (grouped s0) 0 ∧ (grouped s0).me.bind.owner = some 3 ∧ tfind (grouped s0).groups 3 = some group3 ∧
    (Ready .wfw (listed s0) ∧ (listed s0).me.det = false ∧ nextEntry (endTask 0 (listed s0)) 0 = some ⟨3, loc 0x440, 1, 0⟩ ∧
      (startRecord 0 1 (loc 0x440) (endTask 0 (listed s0))).1 = true ∧ ctxOpen (listed s0) (listed s0).myCtx = true) ∧
    (Ready .tpick s0 ∧ (s0.core 0).stopped = false ∧ NothingListed s0 0 ∧ (s0.core 0).deque = [] ∧ ∀ g ∈ s0.groups, g.2.toStart = []) ∧
    (Ready .tpick (listed s0) ∧ ((listed s0).core 0).deque.getLast? = some ⟨loc 0x440, 1, 0⟩ ∧ ctxOpen (listed s0) 1 = true ∧
      (startRecord 0 1 (loc 0x440) ((endTask 0 (listed s0)).onMe fun sl => { sl with phase := 0 })).1 = true) :=
  ⟨ready_of (by decide), by decide, by decide, ready_of (by decide), nothingListed_of (by decide), by decide, by decide,
    ⟨ready_of (by decide), by decide, by decide, by decide⟩, ⟨ready_of (by decide), by decide, nothingListed_of (by decide), by decide, by decide⟩,
    ⟨ready_of (by decide), by decide, by decide, by decide⟩⟩

/-- A context at work that takes no new work: its save has been asked for. -/
def asked (s : State) : State := { s with ctxs := [(1, { ctx1 with prq := true })] }

theorem witness_WaitsEndsYieldsAndSuspends_yields : Ready .cSuspend (recorded (tailBytes 0 1 true 0x3fc) s0) ∧ Ready .yield (withSt 0x800 s0) ∧
    (withSt 0x800 s0).me.det = true ∧ prqWord s0 s0.myCtx = 0 ∧ prqWord (asked s0) 1 ≠ 0 ∧
    endsWith (recorded (tailBytes 0 1 true 0x3fc) (withArr 0x7dff0 [1] s0)) 2 [1] (fun q t => recCtr q && ctrCount t (recHome q) (recCref q) == 1 && nothingB t 0) = true ∧
    endsWith (recorded (tailBytes 0 1 true 0x3fc) s0) 2 [1] (fun q t => recCtr q && ctrCount t (recHome q) (recCref q) == 0 &&
      tailWith 0 t [] fun q' t' => recHome q' == 0 && nothingB t' 0) = true ∧
    endsWith (recorded (tailBytes 5 3 false 0) s0) 4 [1] (fun q t => recHome q == 5 && !recCtr q && nothingB t 0) = true ∧
    endsWith (recorded (tailBytes 5 3 false 0) s0) 4 [] (fun q t => recHome q == 5 && nothingB t 0) = true ∧
    endsWith (recorded (tailBytes 0 1 false 0) (asked s0)) 4 [] (fun q t => recHome q == 0 && (t.core 0).holding.isNone &&
      decide ((t.core 0).runList.length < 64) && nothingB t 0 && !ctxOpen t 1) = true ∧
    endsWith (recorded (tailBytes 0 1 false 0) (listed s0)) 4 [] (fun q t => recHome q == 0 && (t.core 0).holding.isNone &&
      decide ((t.core 0).runList.length < 64) && !t.me.det && ctxOpen t t.myCtx &&
      (let list := (t.core 0).runList ++ [⟨recPrio q, loc 0x400, 1, (t.core 0).cyc.toNat⟩]
       let after := suspendTask 0 (t.onCore 0 fun x => { x with runList := list })
       nextEntry after 0 == some ⟨3, loc 0x440, 1, 0⟩ && (startRecord 0 1 (loc 0x440) after).1)) = true :=
  ⟨ready_of (by decide), ready_of (by decide), by decide, by decide, by decide, by decide, by decide, by decide, by decide, by decide, by decide +kernel⟩

theorem witness_WaitsEndsYieldsAndSuspends_record : let s := recorded (tailBytes 0 0 false 0) s0
    s.me.sys.trec ≠ 0 ∧ s.me.fresh = false ∧ storeWait s.me = none ∧ NothingOnItsWay s ∧ InScratchpad s s.me.sys.trec.toNat 48 ∧ s.me.sys.trec.toNat % 64 = 0 :=
  ⟨by decide, by decide, by decide, by unfold NothingOnItsWay; decide, inScratchpad_of (by decide), by decide⟩

/-- Tables of five levels for context 1, whose last one maps page 3 to the frame 0x14000, resident, for every access. -/
def tabled (s : State) : State :=
  let put := fun (m : Mem) (e : Nat × Nat) => memPut m e.1 (bytesLE 8 e.2)
  ({ s with mem := [(0x8000, 0xa001), (0xa000, 0xc001), (0xc000, 0xe001), (0xe000, 0x12001), (0x12018, 0x1407d)].foldl put s.mem }).onCtx 1 fun c =>
    { c with words := [0x8000#64] }

/-- The leaf that a walk of context 1 ends in. -/
def walksTo (va : Nat) (s : State) : Option (Word × Nat) :=
  match walk 1 va s with
  | (.leaf e bits, _) => some (e, bits)
  | _ => none

theorem witness_AtrAndTlbfl_atr : Ready (.atr 2 2 1) s0 ∧ regionOf s0 s0.myCore 0x0100000000000000 = .nonCanonical ∧
    regionOf s0 s0.myCore localBase ≠ .memory ∧ regionOf s0 s0.myCore 0x6000 = .memory ∧
    (match walk s0.myCtx 0x6000 s0 with | (.unmapped _, _) => true | _ => false) = true ∧ walksTo 0x7fff (tabled s0) = some (0x1407d, 13) ∧
    (tabled s0).myCtx = 1 ∧ Ready (.atr 1 2 1) (tabled s0) :=
  ⟨ready_of (by decide), by decide, by decide, by decide, by decide, by decide, by decide, ready_of (by decide)⟩

/-- The slot deterministic, in the group of three, whose accesses go through its commit buffer. -/
def detS (s : State) : State := withSt 0x800 (grouped s)

/-- Whether an entry could enter. -/
def enters (acts : List (Nat × EntryAct)) (s : State) : Bool :=
  match enter s.cur acts s with
  | .ok _ => true
  | .error _ => false

/-- The slot with an earlier store that is not performed. -/
def storing (s : State) : State := s.onMe fun sl => { sl with traffic := { sl.traffic with out := [.store 5] } }

theorem witness_AtrAndTlbfl_tlbfl : Ready (.tlbfl 2 2) s0 ∧ ctxHv s0 1 = true ∧ ctxHv { s0 with ctxs := [] } 1 = false ∧
    Ready (.tlbfl 0 2) s0 ∧ s0.me.phase = 0 ∧ buffered s0 0 = false ∧ s0.me.performed = true ∧
    (Ready (.tlbfl 0 2) (storing s0) ∧ (storing s0).me.performed = false) ∧
    (Ready (.tlbfl 0 2) (detS s0) ∧ buffered (detS s0) 0 = true ∧ enters [(0, .rel)] (detS s0) = true) ∧
    (s0.onMe fun sl => { sl with phase := 1, keep := [9] }).me.phase = 1 ∧ s0.flushes = [] :=
  ⟨ready_of (by decide), by decide, by decide, ready_of (by decide), by decide, by decide, by decide, ⟨ready_of (by decide), by decide⟩,
    ⟨ready_of (by decide), by decide, by decide⟩, by decide, by decide⟩

/-- Context 7 of the same tenant: Bound, or saved by a CTXSAVE that has ended. -/
def twoCtxs (st : Nat) (save : Option SaveSt) (s : State) : State :=
  { s with ctxs := [(1, ctx1), (7, { Ctx.new 0x48000 5 true with st := st, clusters := 2, save := save })] }

theorem witness_ContextInstructions : let v : SaveSt := ⟨false, true, false, 0, [], 0, 0, 3, true, none⟩
    let s := withG 2 7 (twoCtxs 6 (some v) (s0.onMe (·.onSys fun y => { y with prg := 0x0900000000000001 })))
    let l := withG 2 7 (twoCtxs 3 (some { v with restore := true }) (s0.onMe (·.onSys fun y => { y with prg := 0x0a00000000000001 })))
    let t := withG 2 7 (twoCtxs 2 none s0)
    (Ready (.ctxsave 3 2) s ∧ s.me.sys.prg.extractLsb' 56 8 = BitVec.ofNat 8 9 ∧ (tfind s.ctxs 7).bind (·.save) = some v ∧ NothingOnItsWay s) ∧
    (Ready (.ctxload 2) l ∧ l.me.sys.prg.extractLsb' 56 8 = BitVec.ofNat 8 10 ∧ (tfind l.ctxs 7).bind (·.save) = some { v with restore := true } ∧
      NothingOnItsWay l) ∧
    Ready (.ctxsave 3 2) t ∧ t.me.sys.prg = 0 ∧ (tfind t.ctxs 7).map (fun c => (c.st, c.busy, c.tenant)) = some (2, false, 5) ∧
      (tfind t.ctxs t.myCtx).map (·.tenant) = some 5 ∧
      (tfind ({ t with ctxs := [(1, ctx1), (7, { Ctx.new 0x48000 6 true with st := 2 })] } : State).ctxs 7).map (·.tenant) = some 6 :=
  ⟨⟨ready_of (by decide), by decide, by decide, by unfold NothingOnItsWay; decide⟩, ⟨ready_of (by decide), by decide, by decide, by unfold NothingOnItsWay; decide⟩,
    ready_of (by decide), by decide, by decide, by decide, by decide⟩

theorem witness_StopsOfSpans_haltp : Ready (.haltp 2) (withG 2 8 s0) ∧ Ready (.haltp 2) (withG 2 3 s0) ∧
    (∀ c ∈ spanCores (withG 2 3 s0) 1 3 0, stopAwaits (withG 2 3 s0) c = false ∧ ((withG 2 3 s0).core c).halting = none) ∧ Ready (.haltp 2) (withG 2 4 s0) :=
  ⟨ready_of (by decide), ready_of (by decide), by decide +kernel, ready_of (by decide)⟩

theorem witness_ErrorsSelftestsAndEmulation_test : Ready (.selftest 2 1) s0 ∧ unitExists 0x80000 = true ∧
    (0x80000 ∉ s0.quarantine) ∧ 0x80000 ∈ ({ s0 with quarantine := [0x80000] } : State).quarantine ∧ Ready (.emulation 0x008000) s0 ∧
    (0x008000#24).extractLsb' 15 8 = 1#8 ∧ (0x018000#24).extractLsb' 15 8 = 3#8 ∧ Ready (.emulation 0x008000) (owing ⟨0, 3⟩ s0) ∧
    (owing ⟨0, 3⟩ s0).me.pend ≠ [] ∧ s0.me.pend = [] :=
  ⟨ready_of (by decide), by decide, by decide, by decide, ready_of (by decide), by decide, by decide, ready_of (by decide), by decide, by decide⟩

/-- The registers of a copy of 8 bytes within the scratchpad, at offsets 0x100 and 0x200. -/
def cp8 : CopyRegs := ⟨loc 0x100, loc 0x200, 8, 0, 0, 0⟩

def withCp (r : CopyRegs) (s : State) : State := s.onMe (·.onSys fun y => { y with cp := r })

/-- Every tag of core 0 in flight but from `n` on. -/
def tagsTaken (n : Nat) (s : State) : State :=
  s.onCore 0 fun x => { x with transfer := { x.transfer with tags := (List.range n).map fun j => (j, .inFlight) } }

theorem witness_CopiesAreLaunched : let s := withCp cp8 (tagsTaken 63 s0)
    buffered s s.cur = false ∧ Ready (.cplaunch 1) s ∧ s.me.performed = true ∧ tagSt s 0 63 = .free ∧ tfind (s.core 0).transfer.tags 63 = none ∧
      (∀ j, j < 63 → tfind (s.core 0).transfer.tags j ≠ none) ∧ cpKind cp8 ≠ 3 ∧ cpFormat cp8 = none ∧ (cpEnds s.cur cp8 s).isNone ∧
      (cpUnits s.cur cp8 (fun j => BitVec.ofNat 64 (0x30 + j)) s).isNone :=
  ⟨by decide, ready_of (by decide), by decide, by decide, by decide, by decide, by decide, by decide, by decide, by decide⟩

/-- Eight multicasts of mailbox 7 that are not counted. -/
def casts8 (s : State) : State := s.onCore 0 fun x => { x with transfer := { x.transfer with multicasts := List.replicate 8 ⟨7, [9]⟩ } }

theorem witness_CopiesAreLaunched_waits : (storing s0).me.performed = false ∧ (∀ j, j < 64 → tfind ((tagsTaken 64 s0).core 0).transfer.tags j ≠ none) ∧
    cpFormat { cp8 with ext := 6 } = some 2 ∧ (let r : CopyRegs := { cp8 with flg := 0xe00000003 }
      cpKind r = 3 ∧ 8 ≤ pendingCasts ((casts8 s0).core 0).transfer (cpMb r) ∧ pendingCasts (s0.core 0).transfer (cpMb r) < 8) := by decide

theorem witness_CopiesAreLaunched_block : let w := fun (x : Word) => bytesLE 8 x.toNat
    let s := withG 2 (loc 0x40) (withArr 0x40 (w cp8.src ++ w cp8.dst ++ w cp8.ext ++ w 0 ++ w 0 ++ w 0 ++ w 0 ++ w 0) s0)
    Ready (.copyp 2 1) s ∧ NothingOnItsWay s ∧ s.me.sys.prg = 0 ∧ (s.core 0).transfer.params = [] ∧ InScratchpad s (s.me.rg 2).toNat 64 ∧
      ofBytesLE (memBytes (s.core 0).arr 0x40 8) = cp8.src.toNat ∧ ofBytesLE (memBytes (s.core 0).arr 0x70 8) = 0 :=
  ⟨ready_of (by decide), by unfold NothingOnItsWay; decide, by decide, by decide, inScratchpad_of (by decide), by decide, by decide⟩

/-- Tag 0 in flight, 62 in error and 63 Complete. -/
def tagged : State := s0.onCore 0 fun x => { x with transfer := { x.transfer with tags := [(0, .inFlight), (62, .error 0x0e 5), (63, .complete)] } }

theorem witness_TagsAreWaitedForAndFound : Ready (.twaitany 2 1) tagged ∧ tagged.me.det = false ∧ tagSt tagged 0 1 = .free ∧ tagSt tagged 0 0 = .inFlight ∧
    tagSt tagged 0 62 = .error 0x0e 5 ∧ tagSt tagged 0 63 = .complete ∧ Ready (.twaitall 2) tagged ∧ Ready (.tfind 2 1) tagged ∧ Ready (.ttest 2 1) tagged ∧
    Ready (.tclr 2) tagged :=
  ⟨ready_of (by decide), by decide, by decide, by decide, by decide, by decide, ready_of (by decide), ready_of (by decide), ready_of (by decide), ready_of (by decide)⟩

/-- Channel 3 as given. -/
def channel (x : Channel) (s : State) : State := s.onCore 0 fun y => { y with transfer := { y.transfer with chans := vset y.transfer.chans 3 x } }

theorem witness_ChannelsAndMailboxes : Ready (.chopen 3 2 3) s0 ∧ (localBase ≤ (loc 0xffc0).toNat ∧ (loc 0xffc0).toNat + 64 ≤ localBase + (s0.core 0).spsz) ∧
    (loc 0xffc0).toNat < localBase + (s0.core 0).spsz ∧ localBase + (s0.core 0).spsz < (loc 0xffc0).toNat + 128 ∧
    (vget ((channel ⟨true, 0, 64, none, 0⟩ s0).core 0).transfer.chans 3 Channel.reset).opened = true ∧ Ready (.chclose 3) s0 ∧
    (vget ((channel ⟨true, 0, 64, some 63, 0⟩ s0).core 0).transfer.chans 3 Channel.reset).tag = some 63 ∧ Ready (.mfree 2) s0 ∧
    tget (s0.core 0).transfer.delivered 7 0 = 0 ∧
    tget ((s0.onCore 0 fun y => { y with transfer := { y.transfer with delivered := [(7, 1)] } }).core 0).transfer.delivered 7 0 ≠ 0 ∧
    Ready (.mbwait 2 7) s0 ∧ (0#32 - 0#32).toNat < 2 ^ 31 ∧ ¬ (0#32 - 1#32).toNat < 2 ^ 31 :=
  ⟨ready_of (by decide), by decide, by decide, by decide, by decide, ready_of (by decide), by decide, ready_of (by decide), by decide, by decide,
    ready_of (by decide), by decide, by decide⟩

/-- A connector of one region and a SYNC link from endpoint 0 to 1, free to be bound. -/
def conn0 : Connector :=
  { ctx := 1, num := 0, ox := 0, oy := 0, kernel := 2, det := false, eps := [⟨true, true, none, none, 0⟩, ⟨true, false, none, none, 0⟩],
    regions := [⟨0, 0, 0, Vector.replicate 4 0⟩], nodes := [], links := [⟨0, 1, 0, 1, 0, 0, false, 0, 0, 0, 0, 0, [], 0⟩], widths := [] }

def connected (s : State) : State := { s with conns := [(1024, conn0)] }

/-- Ports 0 and 1 bound to endpoints 0 and 1. -/
def ported (s : State) : State :=
  ({ s with conns := [(1024, { conn0 with eps := [⟨true, true, some (0, 0), none, 0⟩, ⟨true, false, some (0, 1), none, 0⟩] })] }).onMe fun sl =>
    { sl with ports := vset (vset sl.ports 0 ⟨0, false, .idle, 1024, 0, false⟩) 1 ⟨0, false, .idle, 1024, 1, false⟩ }

theorem witness_PortInstructions : let s := ported s0
    let t := s.onMe fun sl => { sl with ports := vset sl.ports 1 ⟨5, true, .idle, 1024, 1, false⟩ }
    Ready (.put 0 2) s ∧ s.me.phase = 0 ∧ portCheck s.cur 0 true false s = none ∧ s.me.performed = true ∧ Ready (.cGet 1 1) s ∧
      portCheck s.cur 1 false false s = none ∧ (vget s.me.ports 7 Port.reset).phase = .unbound ∧ (vget t.me.ports 1 Port.reset).full = true ∧
      Ready (.psel 3 2 1) t ∧ pselCheck t.cur 2 t = none ∧ (s.onMe fun sl => { sl with phase := 2 }).me.phase = 2 :=
  ⟨ready_of (by decide), by decide, by decide, by decide, ready_of (by decide), by decide, by decide, by decide, ready_of (by decide), by decide, by decide⟩

theorem witness_PortInstructions_vector : let s := (ported s0).onMe fun sl =>
      { sl with ports := vset (vset sl.ports 0 ⟨0, false, .idle, 1024, 0, true⟩) 1 ⟨0, false, .idle, 1024, 0, true⟩ }
    Ready (.putv 0 2) s ∧ portCheck s.cur 0 true true s = none ∧ Ready (.getv 3 1) s ∧ (vget s.me.ports 6 Port.reset).phase = .unbound :=
  ⟨ready_of (by decide), by decide, ready_of (by decide), by decide⟩

theorem witness_PortInstructions_bulk : let s := withG 2 (loc 0x40) (s0.onMe fun sl =>
      { sl with phase := 2, keep := [9], x := vset sl.x 7 0x0000000800000001, sys := { sl.sys with prg := 0x0800000000000000 } })
    Ready (.getb 1 7 2) s ∧ s.me.phase = 2 ∧ ((s.me.rx 7).setWidth 32).toNat = 1 ∧ s.me.sys.prg = BitVec.ofNat 64 (8 * 2 ^ 56 + (1 - 1)) ∧
      storeWait s.me = none ∧ NothingOnItsWay s ∧ InScratchpad s (s.me.rg 2).toNat 8 ∧ ((s0.me.rx 7).setWidth 32).toNat = 0 ∧ Ready (.putb 7 7 2) s0 :=
  ⟨ready_of (by decide), by decide, by decide, by decide, by decide, by unfold NothingOnItsWay; decide, inScratchpad_of (by decide), by decide, ready_of (by decide)⟩

/-- The image of `conn0`. -/
def image0 : List (BitVec 8) :=
  bytesLE 8 0x6e63433901000101 ++ bytesLE 8 (2 ^ 48 + 2 * 2 ^ 16 + 1) ++ bytesLE 16 0 ++ bytesLE 8 0 ++ bytesLE 8 (2 ^ 32) ++ bytesLE 24 0

/-- Whether CLOAD of the image at offset 0x40 meets every condition of its last clause. -/
def loads (s : State) : Bool :=
  match imageBytes (s.me.rg 2).toNat 32 s with
  | .ok (hd, s1) => headerGood hd && match imageBytes (s.me.rg 2).toNat (32 + 8 * (imgCounts hd).1 + 8 * (imgCounts hd).2.1 + 32 * (imgCounts hd).2.2) s1 with
    | .ok (bs, s2) => imageFits s2 0 0 bs && !s2.me.det && (freeConn s2 s2.myCtx).isSome && (match readImage bs with
      | .ok r => (lackingOctet s2 (newConn s2 0 0 0 bs r)).isNone && (missingStream s2 s2.myCtx r.2.2).isNone
      | .error _ => false)
    | .error _ => false
  | .error _ => false

theorem witness_ConnectorsAreLoadedAndBound_load : let s := withG 2 (loc 0x40) (withArr 0x40 image0 (grouped s0))
    Ready (.cload 3 2 1) s ∧ (s.me.rg 3).toNat < 2 ^ 16 ∧ (s.me.rg 2).toNat % 64 = 0 ∧ loads s = true ∧ headerGood (List.replicate 32 0) = false :=
  ⟨ready_of (by decide), by decide, by decide, by decide +kernel, by decide⟩

theorem witness_ConnectorsAreLoadedAndBound : let s := connected s0
    Ready (.cunload 2) s ∧ (∀ e ∈ conn0.eps, e.bound = none) ∧ tfind s.conns (1024 * s.myCtx + 0) = some conn0 ∧ Ready (.pbind 3 2 7) s ∧
      (vget s.me.ports 7 Port.reset).phase = .unbound ∧ conn0.eps[1]? = some ⟨true, false, none, none, 0⟩ ∧
      classWidth conn0 (classOf conn0.nodes conn0.links 1) ≠ some true ∧ Ready (.punbind 1) (ported s0) ∧
      (vget (ported s0).me.ports 1 Port.reset).phase ≠ .unbound ∧ (vget (ported s0).me.ports 1 Port.reset).full = false ∧ Ready (.cstat 3 2 1) s ∧
      conn0.regions[0]? = some ⟨0, 0, 0, Vector.replicate 4 0⟩ :=
  ⟨ready_of (by decide), by decide, by decide, ready_of (by decide), by decide, by decide, by decide, ready_of (by decide), by decide, by decide,
    ready_of (by decide), by decide⟩

/-! ### Witnesses: tiles, tickets, tensors, barriers, tasks -/

/-- The TMMA command of a step of TF32 over 16 rows and columns, as x[2] and x[3] give it. -/
def tmma16 (s : State) : State :=
  s.onMe fun sl => { sl with x := vset sl.x 2 0x7700000100000101 }

theorem witness_TileCommands : let s := tmma16 s0
    let cmd : TileCmd := ⟨0, 1, s.me.rg 5, s.me.rx 2, s.me.rx 3, s.me.rx 4, false, 0, 0, none⟩
    Ready (.tmma 2 5) s ∧ s.me.phase = 0 ∧ s.me.sys.prg = 0 ∧ tileCheck 2 (wordOf (.tmma 2 5) s) cmd s = none ∧ tileWait cmd s.me = none ∧
      (tileOf s 0).queue.length < 4 ∧ 4 ≤ (tileOf (s.onCore 0 fun x => { x with tile := { x.tile with queue := [cmd, cmd, cmd, cmd] } }) 0).queue.length ∧
      (s.me.rx 3).extractLsb' 5 3 = 0 ∧ ((s.onMe fun sl => { sl with x := vset sl.x 2 0x20 }).me.rx 2).extractLsb' 5 3 ≠ 0 ∧
      (s.onMe fun sl => { sl with phase := 2 }).me.phase = 2 :=
  ⟨ready_of (by decide), by decide, by decide, by decide, by decide, by decide, by decide, by decide, by decide, by decide⟩

theorem witness_TileCommands_join : let s := grouped s0
    let q := { s with groups := [(3, { group3 with quad := true })] }
    Ready (.tjoin 2) s ∧ leadsQuad s s.cur = false ∧ leadsQuad q q.cur = true ∧ (∀ e ∈ quadCores 0, (tileOf q e).queue = []) ∧
      (withG 2 1 q).me.rg 2 = 1 ∧ Ready (.twt 2) (withG 2 15 s) ∧ Ready (.tstat 2 1) (withG 2 4 s) ∧
      (∃ e ∈ quadCores 0, (tileOf (q.onCore 8 fun x => { x with tile := { x.tile with queue := [⟨128, 0, 0, 0, 0, 0, false, 0, 0, none⟩] } }) e).queue ≠ []) :=
  ⟨ready_of (by decide), by decide, by decide, by decide, by decide, ready_of (by decide), ready_of (by decide), 8, by decide, by decide⟩

theorem witness_TicketsAndTensors : let s := grouped s0
    Ready (.tkget 2 1) s ∧ groupOf s s.cur = some group3 ∧ tfind s.kernels group3.kernel = some kernel2 ∧ Ready (.tkwait 2) (withG 2 3 s) ∧
      group3.ticket < 2 ^ 32 ∧ tget (s.octet s.myOctet).f group3.inst 0 ≤ 3 ∧
      3 < tget ((s.onOctet 0 fun x => { x with f := [(6, 4)] }).octet 0).f 6 0 ∧ NothingOnItsWay s ∧ s.me.det = false ∧ s.me.performed = true ∧
      (withSt 0x800 s).me.det = true ∧ (storing s).me.performed = false :=
  ⟨ready_of (by decide), by decide, by decide, ready_of (by decide), by decide, by decide, by decide, by unfold NothingOnItsWay; decide, by decide, by decide, by decide, by decide⟩

/-- Handles: null, direct with exponents 0 and 1 and 31. -/
theorem witness_TicketsAndTensors_handles : let s := withG 2 0x6000 (withData true true true s0)
    Ready (.hnew 2 1) s ∧ Settled s ∧ s.me.phase = 0 ∧ regionOf s s.myCore 0x6000 = .memory ∧ (0x6000#64).extractLsb' 6 51 ≠ 0 ∧
      checkAccess s.cur .store 64 [⟨0x6000, 64⟩] s = none ∧ placeAt s.cur .store s 0x6000 = .mem 0x6000 ∧ (hnewHome 0x6000 s).isSome = true ∧
      buffered s s.cur = false ∧ Ready (.hcopy 2 1) s ∧ freeIndirect s s.myCore = some 0 ∧ (0x0800000000000180#64).extractLsb' 59 5 = 1#5 ∧
      (0x180#64).extractLsb' 0 59 ≠ 0#59 ∧ Ready (.hbind 3 2) s ∧ (0#64).toNat % 64 = 0 ∧ (0#64).extractLsb' 6 51 = 0 ∧ regionOf s s.myCore 0 = .memory ∧
      Ready (.hnew 2 1) (withG 2 0 s) :=
  ⟨ready_of (by decide), settled_of (by decide), by decide, by decide, by decide, by decide, by decide, by decide, by decide, ready_of (by decide), by decide, by decide,
    by decide, ready_of (by decide), by decide, by decide, by decide, ready_of (by decide)⟩

theorem witness_TicketsAndTensors_drops : let m := fun (s : State) => weightMsg s.myCtx s.me.bind.kernel s.myCore 0x180 (openCopies s.cur s)
    Ready (.hdrop 2) (withG 2 0x180 s0) ∧ (0x180#64).getLsbD 58 = false ∧ buffered s0 0 = false ∧ s0.me.performed = true ∧
    (Ready (.hdrop 2) (withG 2 0x180 (storing s0)) ∧ (storing s0).me.performed = false ∧ buffered (storing s0) 0 = false) ∧
    (Ready (.hdrop 2) (withG 2 0x180 (detS s0)) ∧ buffered (withG 2 0x180 (detS s0)) 0 = true ∧
      enters [(0, .msg (m (withG 2 0x180 (detS s0))) false 0)] (withG 2 0x180 (detS s0)) = true) ∧
    (let i : Word := 0xf400000000000000
     Ready (.hdrop 2) (withG 2 i s0) ∧ i.getLsbD 58 = true ∧ hndRecord s0 1 (i + 0x3ffc0) = none ∧
      (hndRecord (withArr 0x7f000 (bytesLE 8 0x80000000 ++ bytesLE 8 0x180) s0) 1 i).isSome = true) :=
  ⟨ready_of (by decide), by decide, by decide, by decide, ⟨ready_of (by decide), by decide, by decide⟩, ⟨ready_of (by decide), by decide, by decide⟩,
    ready_of (by decide), by decide, by decide, by decide⟩

/-- A record at g[3] with a counter or without one, and a handle in g[2] of a tensor. -/
theorem witness_TicketsAndTensors_bind : let s := withG 2 0x180 (withG 3 (loc 0x400) (withData true true true (withArr 0x430 (tailBytes 0 1 true 0) s0)))
    Ready (.hbind 3 2) s ∧ s.me.phase = 0 ∧ Settled s ∧ InScratchpad s (s.me.rg 3).toNat 64 ∧ (s.me.rg 3).toNat % 64 = 0 ∧
      (s.me.rg 2).getLsbD 58 = false ∧ recCtr (memBytes (s.core 0).arr 0x430 16) = true ∧ recCtr (memBytes (s0.core 0).arr 0x430 16) = false ∧
      checkAccess s.cur .store 64 [⟨hndAddr 0x180, 64⟩] s = none ∧ placeAt s.cur .store s (hndAddr 0x180) = .mem 0x6000 ∧
      chainEnd s 1 (64 * (partitionCores s 1).length + 1) 0xf40000000003ffc0 = none ∧
      chainEnd (withArr 0x7f000 (bytesLE 8 0x80000000 ++ bytesLE 8 0x180) s) 1 (64 * (partitionCores s 1).length + 1) 0xf400000000000000 = some 0x180 :=
  ⟨ready_of (by decide), by decide, settled_of (by decide), inScratchpad_of (by decide), by decide, by decide, by decide, by decide, by decide, by decide,
    by decide +kernel, by decide +kernel⟩

/-- A hardware barrier of the octet with two expected, and one arrived. -/
def barred (n : Nat) (b : Barrier) (s : State) : State := { s with bars := [(((1 * 16 + 3) * 512) * 64 + n, b)] }

theorem witness_BarriersTreesAndProbes : let x : Word := 0x30f
    let s := withG 2 x (withG 3 2 s0)
    barKey s s.cur x = some (((1 * 16 + 3) * 512) * 64 + 15) ∧ barKey s s.cur 0x310 = none ∧ Ready (.barinit 3 2) s ∧ (barOf s 1).arr = 0 ∧
      Ready (.bari 2 1) s ∧ (barOf (barred 15 ⟨2, 1, 0⟩ s) (((1 * 16 + 3) * 512) * 64 + 15)).exp ≠ 0 ∧ Settled s ∧ Ready (.barw 3 2) s ∧
      Ready (.bart 3 2 1) s ∧ NothingOnItsWay s ∧ s.me.det = false ∧ Ready (.bari 2 1) (storing s) ∧ (storing s).me.performed = false ∧ buffered (storing s) 0 = false :=
  ⟨by decide, by decide, ready_of (by decide), by decide, ready_of (by decide), by decide, settled_of (by decide), ready_of (by decide), ready_of (by decide),
    by unfold NothingOnItsWay; decide, by decide, ready_of (by decide), by decide, by decide⟩

theorem witness_BarriersTreesAndProbes_gbar : let s := withG 2 8 (withG 3 2 s0)
    Ready (.gbar 3 2) s ∧ tfind (gbarOf s (gbarKey s s.cur 8)).waiters (gbarName s s.cur) = none ∧ (gbarOf s (gbarKey s s.cur 8)).count = 0 ∧
      Settled s ∧ (gbarOf s (gbarKey s s.cur 8)).arr + 1 < 2 ∧ Ready (.flushp 2) s ∧ Ready (.flushpG 2) (withG 2 3 s) ∧ s.me.phase = 0 :=
  ⟨ready_of (by decide), by decide, by decide, settled_of (by decide), by decide, ready_of (by decide), ready_of (by decide), by decide⟩

/-- A tree of the slot alone, of one word at 0x6000 with IADD, whose block is written. -/
def descTree : TreeDesc := #v[0x0007021000000001, 0, 0x6000]

def treed (s : State) : State :=
  { withArr 0x400 (descTree.toList.flatMap fun w => bytesLE 8 w.toNat) s with
    trees := [⟨1, 2, (0, 0), descTree, [0], [], [0], 0x20, []⟩] }

theorem witness_BarriersTreesAndProbes_tree : let s := withG 3 (loc 0x400) (treed s0)
    Ready (.redt 3 2) s ∧ (s.me.rg 2).toNat % 64 = 0 ∧ InScratchpad s (s.me.rg 3).toNat 64 ∧ (s.me.rg 3).toNat % 64 = 0 ∧ Settled s ∧ s.me.sys.prg = 0 ∧
      treeOk s s.cur (memBytes (s.core s.myCore).arr 0x400 64) descTree = true ∧ descTree.n = 1 ∧
      (findTree s s.myCtx descTree.id (descTree.span, spanPlace descTree.span 0) 0).map (fun t => t.written.contains 0) = some true :=
  ⟨ready_of (by decide), by decide, inScratchpad_of (by decide), by decide, settled_of (by decide), by decide, by decide, by decide, by decide⟩

/-- A record at g[2] in the scratchpad, with these last bytes. -/
def atG2 (tail : List (BitVec 8)) (s : State) : State := withG 2 (loc 0x400) (withArr 0x430 tail s)

theorem witness_TaskMessagesAndQueues : let q := tailBytes 7 1 true 0
    let s := atG2 q s0
    Settled s ∧ RecordAt s (s.me.rg 2) q ∧ Ready (.tenq 2) s ∧ Ready (.tdec 2) s ∧ Ready (.tctr 3 2) s ∧ recCtr q = true ∧ crefOk (recCref q) = true ∧
      s.me.phase = 0 ∧ recordHazard s.me = none ∧ crefOk (recCref (tailBytes 0 1 true 0x3fd)) = false ∧
      recHome (tailBytes 8 0 false 0) ∈ partitionCores s s.myCtx ∧ recHome (tailBytes 64 0 false 0) ∉ partitionCores s s.myCtx :=
  ⟨settled_of (by decide), ⟨by decide, inScratchpad_of (by decide), by decide, by decide⟩, ready_of (by decide), ready_of (by decide), ready_of (by decide),
    by decide, by decide, by decide, by decide, by decide, by decide, by decide⟩

theorem witness_TaskMessagesAndQueues_wenq : let q := tailBytes 7 1 false 0
    let s := withG 4 (loc 0xffc0) (atG2 q s0)
    Settled s ∧ RecordAt s (s.me.rg 2) q ∧ Ready (.wenq 3 4 2) s ∧ InScratchpad s (s.me.rg 4).toNat 64 ∧ (s.me.rg 4).toNat % 4 = 0 :=
  ⟨settled_of (by decide), ⟨by decide, inScratchpad_of (by decide), by decide, by decide⟩, ready_of (by decide), inScratchpad_of (by decide), by decide⟩

/-- A watch block at g[2] on the last word of the line at 0x6000, with n words. -/
def watchAt (n : Nat) : State :=
  withG 2 (loc 0x400) (withArr 0x400 (bytesLE 8 0x603c ++ bytesLE 8 0xffffffff00000001 ++ bytesLE 8 0x40 ++ bytesLE 8 n) (withData true true true s0))

theorem witness_TaskMessagesAndQueues_watch : let s := watchAt 1
    Ready (.watch 2 1) s ∧ Settled s ∧ (s.me.rg 2).toNat % 32 = 0 ∧ InScratchpad s (s.me.rg 2).toNat 32 ∧
      ofBytesLE (memBytes (s.core 0).arr 0x400 8) = 0x603c ∧ 0x603c % 64 + 4 * 1 ≤ 64 ∧ 0x603c % 4 = 0 ∧ 64 < 0x603c % 64 + 4 * 2 ∧ regionOf s s.myCore 0x603c = .memory ∧
      checkAccess s.cur .load 4 [⟨0x603c, 4⟩] s = none ∧ placeAt s.cur .load s 0x603c = .mem 0x603c ∧ Ready (.unwatch 2 1) s :=
  ⟨ready_of (by decide), settled_of (by decide), by decide, inScratchpad_of (by decide), by decide, by decide, by decide, by decide, by decide, by decide, by decide,
    ready_of (by decide)⟩

/-- Queue 15 of context 1 with a ring of n entries at 0x6400, on the page that `tabled` maps. -/
def queued (n : Nat) (s : State) : State :=
  let s := (tabled s).onCtx 1 fun c => { c with words := [0x8000, 0, 0, 0, 0x6000] }
  { s with mem := memPut s.mem 0x141e0 (bytesLE 8 (0x6400 + n)) }

theorem witness_TaskMessagesAndQueues_klaunch : let s := withG 2 (loc 0x400) (withG 3 15 s0)
    let bs := memBytes (s.core 0).arr 0x400 64
    let kept := fun (t : State) => t.onMe fun sl => { sl with phase := 6, keep := wordsOf bs 8 }
    Ready (.klaunch 3 2 1) s ∧ Settled s ∧ (s.me.rg 3).toNat < 16 ∧ (s.me.rg 2).toNat % 64 = 0 ∧ s.me.phase = 0 ∧ InScratchpad s (s.me.rg 2).toNat 64 ∧
      (appendLaunch 1 15 bs (kept s)).1 = none ∧ (appendLaunch 1 15 bs (kept (queued 1 s))).1 = some 0 ∧
      (withG 3 16 s).me.rg 3 = 16 ∧ Ready (.klaunch 3 2 1) (withG 3 16 s) :=
  ⟨ready_of (by decide), settled_of (by decide), by decide, by decide, by decide, inScratchpad_of (by decide), by decide +kernel, by decide +kernel, by decide, ready_of (by decide)⟩

/-- The record named by `trec`, and the child's record at g[2] whose pc is 0x3001 and g2 is 5. -/
def family : State :=
  withG 2 (loc 0x440) (withArr 0x440 (bytesLE 8 0x3001 ++ bytesLE 8 5) (recorded (tailBytes 0 1 false 0) s0))

/-- Whether a SPAWN of the record at 0x440 pushes its parent there and goes on at once. -/
def spawns (s : State) : Bool :=
  s.cur == 0 && match slotBytes 0 s.myCtx (loc 0x440).toNat 64 s with
    | (some _, t) => (match pushDeque 0 s.myCtx s.me.sys.trec t with
      | (.done, t) => (t.core 0).holding.isNone
      | _ => false)
    | (none, _) => false

theorem witness_SpawnAndJoin : let s := family.onMe fun sl => { sl with phase := 2 }
    Ready (.spawn 2) s ∧ Settled s ∧ s.me.phase = 2 ∧ spawns s = true ∧ (s.core 0).holding = none ∧ (s.core 0).deque.length < 64 :=
  ⟨ready_of (by decide), settled_of (by decide), by decide, by decide, by decide, by decide⟩

/-- A SPAWN issued anew whose own record has these last bytes, and one that has written it. -/
theorem witness_SpawnAndJoin_fresh : let s := fun (ctr : Bool) => recorded (tailBytes 0 1 ctr 0) (withArr 0x470 (tailBytes 7 1 false 0) family)
    let ends := fun (t : State) (p : List (BitVec 8) → State → Bool) => match ownTail 0 t with
      | (some q, u) => u.cur == 0 && u.me.phase == 3 && p q u
      | (none, _) => false
    let wrote := fun (s : State) (p : List (BitVec 8) → State → Bool) => match writeRecord (s.me.pc + 4) s with
      | .ok t => t.cur == 0 && t.me.performed && ends (t.onMe fun sl => { sl with phase := 3 }) p
      | .error _ => false
    Ready (.spawn 2) (s true) ∧ Settled (s true) ∧ (s true).me.phase = 0 ∧ recordHazard (s true).me = none ∧
      RecordAt (s true) ((s true).me.rg 2) (tailBytes 7 1 false 0) ∧
      wrote (s true) (fun q u => recCtr q && !buffered u 0) = true ∧ wrote (s false) (fun q u => !recCtr q && u.me.phase != 7 && spawns u) = true ∧
      ends ((s true).onMe fun sl => { sl with phase := 3 }) (fun q _ => recCtr q) = true ∧
      Ready (.spawn 2) ((s true).onMe fun sl => { sl with phase := 3 }) :=
  ⟨ready_of (by decide), settled_of (by decide), by decide, by decide, ⟨by decide, inScratchpad_of (by decide), by decide, by decide⟩, by decide +kernel, by decide +kernel,
    by decide, ready_of (by decide)⟩

/-- A full deque, whose context's overflow ring stands on a page that is not mapped. -/
theorem witness_SpawnAndJoin_parks :
    let s := ({ family with ctxs := [(1, { ctx1 with words := [0x8000, 0, 0, 0x6002] })] } : State).onCore 0 fun x =>
      { x with deque := List.replicate 64 ⟨loc 0x440, 1, 0⟩ }
    (match pushDeque 0 1 (loc 0x400) s with
      | (.done, t) => (t.core 0).holding.isSome
      | _ => false) = true ∧
    (let t := family.onMe fun sl => { sl with phase := 7 }
     Ready (.spawn 2) t ∧ Settled t ∧ t.me.phase = 7 ∧
      (slotBytes 0 t.myCtx (loc 0x440).toNat 64 t).1.isSome = true) :=
  ⟨by decide +kernel, ready_of (by decide), settled_of (by decide), by decide, by decide⟩

theorem witness_SpawnAndJoin_join : let s := recorded (tailBytes 0 1 true 0x3fc) s0
    Ready .join s ∧ recordHazard s.me = none ∧ recordHazard (withSt 0x800 (owing ⟨0, 7⟩ s)).me = some ⟨0, 7⟩ ∧ fullMask s.me = 0 ∧ s.me.sys.trec ≠ 0 ∧ InScratchpad s s.me.sys.trec.toNat 64 ∧ s.me.sys.trec.toNat % 64 = 0 ∧
      recCtr (memBytes (s.core 0).arr 0x430 16) = true ∧ s.me.phase = 0 ∧ s0.me.sys.trec = 0 ∧
      (match writeRecord s.me.pc s with
        | .ok t => t.cur == 0 && (match ownTail 0 t with
          | (some _, u) => u.cur == 0
          | (none, _) => false)
        | .error _ => false) = true ∧
      recCtr (memBytes ((recorded (tailBytes 0 1 false 0) s0).core 0).arr 0x430 16) = false ∧
      (let t := s.onMe fun sl => { sl with phase := 2, keep := [0], ports := vset sl.ports 7 ⟨0, true, .unbound, 0, 0, false⟩ }
       fullMask t.me = 0x80 ∧ t.me.phase = 2 ∧ t.me.keep.getD 0 0 = 0) :=
  ⟨ready_of (by decide), by decide, by decide, by decide, by decide, inScratchpad_of (by decide), by decide, by decide, by decide, by decide, by decide, by decide, by decide, by decide⟩

/-! ### Witnesses: events of memory, pages, transfers and connectors -/

/-- The data of the event. -/
def withEv (a : Arg) (s : State) : State := { s with arg := a }

/-- Core 0's L1 holds these words, in one block of word 0x1800. -/
def cached (ws : Tbl L1Word) (s : State) : State := s.onCore 0 fun x => { x with l1 := ⟨ws, [⟨0x1800, 8, 0⟩]⟩ }

theorem witness_MemoryEvents : let s := withEv { Arg.reset with a := 0x1807 } s0
    let o := cached [(0x1807, ⟨.owned false, 7, 0xf⟩)] s
    let r := { cached [(0x1807, ⟨.owned true, 7, 0xf⟩)] s with home := [(0x1807, .owned 0)] }
    l1Find o 0 0x1807 = some ⟨.owned false, (7#32).setWidth 64, 0xf⟩ ∧ tfind o.home 0x1807 = none ∧
      l1Find s 0 0x1807 = none ∧ covered (s.core 0).l1 0x1807 = false ∧ (roomWay (s.core 0) (l1Set 0x1807) 8).isSome = true ∧
      homeDie (4 * 0x1807) = dieOf 0 ∧ lineBad s (4 * 0x1807) = false ∧ windowOf s (lineOfWord 0x1807) = none ∧ tfind o.home (pairOf 0x1807) = none ∧ unregistered (cached [(0x1806, ⟨.owned false, 7, 0xf⟩), (0x1807, ⟨.owned false, 7, 0xf⟩)] s) 0 (pairOf 0x1807) = true ∧
      (∀ j, j < 8 → tfind s.home (0x1807 / 8 * 8 + j) = none) ∧
      l1Find r 0 0x1807 = some ⟨.owned true, 7, 0xf⟩ ∧ tfind r.home 0x1807 = some (.owned 0) ∧ windowOf r (lineOfWord 0x1807) = none ∧
      ((r.onMe fun sl => { sl with traffic := { sl.traffic with out := [.flush 0x180 true] } }).slot 0).traffic.out = OutOp.flush 0x180 true :: [] := by decide

theorem witness_MemoryEvents_red : let s := (withEv { Arg.reset with a := 0x1807, b := 2, w := 5 } s0).onMe fun sl =>
      { sl with traffic := { sl.traffic with out := [.red 0 0x1807] } }
    let full := { s with home := [(0x1801, .updateOnly .iadd false [1, 2, 3, 4])] }
    RedOp.ofCode (BitVec.ofNat 3 2) ≠ none ∧ isMgmt (4 * 0x1807) = false ∧ lineBad s (4 * 0x1807) = false ∧ s.arg.c ≠ 1 ∧ s.arg.u.toNat = 0 ∧ (s.slot 0).traffic.out = OutOp.red 0 0x1807 :: [] ∧ tfind s.home 0x1807 = none ∧ l1Find s 0 0x1807 = none ∧
      lineHolders (lineOfWord 0x1807) s < 4 ∧ covered (s.core 0).l1 0x1807 = false ∧ (roomWay (s.core 0) (l1Set 0x1807) 1).isSome = true ∧
      4 ≤ lineHolders (lineOfWord 0x1807) full ∧ (lineCores (lineOfWord 0x1807) full).contains 0 = false ∧ tfind full.home 0x1807 = none ∧ ctxDh full (full.slot 0).bind.ctx = false ∧
      windowOf full (lineOfWord 0x1807) = none := by decide

/-- A window of die 0 over 8 KiB at 0x6000, from E4M3 to F16, with its storage at 0xa000. -/
def windowedMem (s : State) : State :=
  { s with mgmt := [(0, 0x3fffff), (0x20, 0x3fffff), (0x20000, 0x6001), (0x20008, 0x8000), (0x20010, 0x97), (0x20018, 0xa000)] }

theorem witness_MemoryEvents_windows : let s := windowedMem s0
    let k := 0x7fc0 / 64
    windowOf s k = some 0x20000 ∧ winFormats (fmtOf (slice (s.mreg 0x20010) 3 0)) (fmtOf (slice (s.mreg 0x20010) 7 4)) = some false ∧ tfind s.work k = none ∧
      (s.work.filter fun e => homeSlice (64 * e.1) == homeSlice (64 * k)).length < sliceLines ∧ (tfind ({ s with work := [(k, vzero)] } : State).work k).isSome = true ∧ windowOf s (0x8000 / 64) = none ∧ accepted s 20 = true ∧
      rangeOnDie 0 0x6000 0x8000 = true ∧ accepted { s with mgmt := [] } 20 = false := by decide

/-- Records at places 256 and 257, the first of a holder. -/
theorem witness_MemoryEvents_handler : let p : DirPost := ⟨256, 0, 3, 0x180⟩
    let s := fun (a : Nat) => withEv { Arg.reset with a := a } (s0.onCore 0 fun x => { x with posts := [p, ⟨257, 1, 0, 0x180⟩] })
    ((s 0).core 0).posts.find? (fun p => p.place % 256 == 0) = some p ∧ p.kind = 0 ∧ ((s 1).core 0).posts.find? (fun p => p.place % 256 == 1) = some ⟨257, 1, 0, 0x180⟩ ∧
      ((s 2).core 0).posts.find? (fun p => p.place % 256 == 2) = none ∧
      ([⟨0, 0, 3, 0x180⟩, p] : List DirPost).erase ⟨0, 0, 3, 0x180⟩ = [p] := by decide

/-- What a walk answers, of these. -/
def walked (s : State) (ctx va : Nat) : Nat :=
  match walk ctx va s with
  | (.leaf _ _, _) => 1
  | (.unmapped _, _) => 2
  | (.format, _) => 3

theorem witness_AtrAndTlbfl_walks : let leaf := fun (e : Nat) => { tabled s0 with mem := memPut (tabled s0).mem 0x12018 (bytesLE 8 e) }
    walksTo 0x7fff (leaf 0x800000000001407d) = some (0x800000000001407d, 13) ∧ (0x800000000001407d#64).extractLsb' 62 2 = 2 ∧
      walksTo 0x7fff (leaf 0x400000000001407d) = some (0x400000000001407d, 13) ∧ (0x400000000001407d#64).extractLsb' 62 2 = 1 ∧
      walksTo 0x7fff (leaf 0x14065) = some (0x14065, 13) ∧ (0x14065#64).getLsbD 3 = false ∧ (0x14065#64).getLsbD 4 = false ∧
      walked { tabled s0 with mem := (memPut [] 0x8000 (bytesLE 8 0xa003)) } 1 0x7fff = 3 := by decide

/-- Slot 0 waits for the walk of page 3. -/
def walking (s : State) : State := s.onSlot 0 fun sl => { sl with run := .parked (.walk 3) }

theorem witness_PageEvents : let s := withEv { Arg.reset with a := 0x7fff } (walking s0)
    (s.slot 0).run = .parked (.walk (0x7fff / 8192)) ∧ walked (tabled s) 1 0x7fff = 1 ∧ slice 0x1407d#64 63 62 = 0 ∧ walked s 1 0x7fff = 2 ∧
      missFind (walk 1 0x7fff s).2 0 1 3 = none ∧ ((walk 1 0x7fff s).2.cluster 0).misses.length < 256 ∧
      walked { tabled s with mem := [(0x8000, 0xa003)].foldl (fun m e => memPut m e.1 (bytesLE 8 e.2)) [] } 1 0x7fff = 3 ∧ (s0.slot 0).run ≠ .parked (.walk 3) := by
  decide

/-- One fault of context 1 on page 3, with this record. -/
def missed (p : Option Nat) (s : State) : State :=
  (s.onCluster 0 fun x => { x with misses := [⟨1, 3, 0x7fff, 0, 0, 1, p, [], 0⟩] }).onSlot 0 fun sl => { sl with run := .parked (.fault 3) }

theorem witness_PageEvents_queue : let s := withEv { Arg.reset with k := 1, w := 0x100000000 } ((missed (some 0xffffffff) s0).setMreg (fqReg 1) 0xffffffff)
    let t := (missed none s0).setMreg (fqReg 1) 0xffffffff
    fqUsed s 1 = 1 ∧ hostMay s 1 = true ∧ (slice s.arg.w 31 0 + 2 ^ 32 - fqHead s 1) % 2 ^ 32 = 1 ∧ (s.cluster 0).misses = [⟨1, 3, 0x7fff, 0, 0, 1, some 0xffffffff, [], 0⟩] ∧
      (∀ d, d < 32 → d ≠ 0 → (s.cluster d).misses = []) ∧ (s.slot 0).bind.ctx = 1 ∧ (s.slot 0).run = .parked (.fault 3) ∧ clusterOf (octetOf (coreOf 0)) = 0 ∧
      fqUsed t 1 < 256 ∧ fqUsed (t.setMreg (fqReg 1) (256 * 2 ^ 32)) 1 = 256 ∧ hostMay { s with arg := { s.arg with c := 7 } } 1 = false := by decide

/-- The answer of the record that is passed stands in memory. -/
theorem witness_PageEvents_answer : let s := withEv { Arg.reset with k := 1, w := 0x100000000 } ((missed (some 0xffffffff) s0).setMreg (fqReg 1) 0xffffffff)
    let u := { s with mem := memPut s.mem (ctxFq s 1 + 32 * 255 + 16) [1#8] }
    homeNat (ctxFq u 1 + 32 * (0xffffffff % 256) + 16) 8 u = (1, u) := by decide

theorem witness_PageEvents_flush : let s := { s0 with flushes := [⟨4, 1, 0x6000, 0x8000, true⟩] }
    flushBusy s 1 = true ∧ flushBusy s0 1 = false ∧ hostMay s0 1 = true ∧ (s.flushes.find? fun f => f.id == 4) = some ⟨4, 1, 0x6000, 0x8000, true⟩ ∧
      flushReady ⟨4, 1, 0x6000, 0x8000, true⟩ s = true ∧
      flushReady ⟨4, 1, 0x6000, 0x8000, true⟩ (s.onMe fun sl => { sl with traffic := { sl.traffic with out := [.store 5] } }) = false := by decide

/-- A copy of two words of the scratchpad under tag 63, of which n are done. -/
def copy8 (n : Nat) (e : Option (Nat × Word)) : Copy :=
  { tag := 63, regs := cp8, slot := 0, ctx := 1, group := 3, sv := true, done := n, total := 2, receivers := [], parked := none, err := e, entry := none,
    started := false, seq := 0, row := [], closed := false }

/-- A copy under way in queue 0. -/
def copying (x : Copy) (s : State) : State :=
  s.onCore 0 fun y => { y with transfer := { y.transfer with tags := [(63, .inFlight)], q0 := [63], copies := [(63, x)] } }

theorem witness_TransferAndConnectorEvents_copies : let x := copy8 1 none
    let s := copying x s0
    tfind (s.core 0).transfer.copies 63 = some x ∧ movable 0 (s.core 0).transfer 0 = some x ∧ (s.core 0).stopped = false ∧ x.entry = none ∧ cpKind x.regs = 0 ∧ localBase ≤ srcAddr x.regs 1 ∧
      localBase ≤ dstAddr x.regs 1 ∧ dstAddr x.regs 1 - localBase + 4 ≤ 0x7c000 ∧ (s0.core 0).transfer.q0 = [] ∧ (copy8 2 none).done = (copy8 2 none).total ∧ (copy8 1 (some (0x0e, 5))).err.isSome = true ∧ (copy8 1 none).done ≤ (copy8 1 none).total := by decide

theorem witness_TransferAndConnectorEvents_multicast : let s := s0.onCore 0 fun x => { x with transfer := { x.transfer with multicasts := [⟨7, [9]⟩, ⟨7, []⟩] } }
    ((s.core 0).transfer.multicasts.find? fun m => m.mbox == 7 && m.waiting.isEmpty) = some ⟨7, []⟩ := by decide

/-- A message of a slot and port, that stands at an endpoint. -/
def stands (slot port mask : Nat) : Standing := ⟨vset vzero 0 5, 0, slot, port, mask, false⟩

/-- `conn0` with messages of slot 0 and slot 1 at its endpoints. -/
def meeting : Connector :=
  { conn0 with eps := [⟨true, true, some (0, 0), some (stands 0 0 0), 0⟩, ⟨true, false, some (1, 0), some (stands 1 0 0), 0⟩] }

/-- Port p of the slot accepts at endpoint e. -/
def accepts (p e : Nat) (s : State) : State :=
  s.onMe fun sl => { sl with ports := vset sl.ports p ⟨0, false, .accepting, 1024, e, false⟩ }

theorem witness_TransferAndConnectorEvents_ports : let s := withEv { Arg.reset with a := 1 } (accepts 1 1 (ported s0))
    (getPort s 0 1).phase ≠ .unbound ∧ (getPort s 0 1).phase ≠ .idle ∧ (getPort s0 0 1).phase = .unbound ∧ (getPort s 0 1).conn = 1024 ∧ (getPort s 0 1).ep = 1 ∧ (tfind s.conns 1024).isSome = true ∧ (conn0.eps[1]?).isSome = true ∧
      endpointRegion conn0 1 = some 0 ∧ (conn0.eps[1]?).bind (·.standing) = none ∧
      (meeting.eps[1]?).bind (·.standing) = some (stands 1 0 0) ∧
      meeting.links = [⟨0, 1, 0, 1, 0, 0, false, 0, 0, 0, 0, 0, [], 0⟩] ∧ (stands 0 0 0).slot ≠ (stands 1 0 0).slot ∧
      ctxState s meeting.ctx ≠ 7 ∧ (s.core (8 * resolverOctet meeting ⟨0, 0, 0, Vector.replicate 4 0⟩)).stopped = false := by decide

theorem witness_TransferAndConnectorEvents_fires : let s := withEv { Arg.reset with a := 7, b := 0x81, c := 1 } (accepts 7 0 s0)
    let t := s0.onMe fun sl => { sl with run := .parked (.port (2 ^ 7)), phase := 1, sys := { sl.sys with pto := 0xffffffff } }
    (getPort s 0 7).phase ≠ .unbound ∧ (getPort s 0 7).phase ≠ .idle ∧ s.arg.a < 8 ∧ s.arg.b ≠ 0 ∧ s.arg.b.testBit s.arg.a = true ∧ slice (s0.slot 0).sys.pto 31 0 = 0 ∧ (t.slot 0).run = .parked (.port (2 ^ 7)) ∧
      slice (t.slot 0).sys.pto 31 0 ≠ 0 ∧ (t.slot 0).phase = 1 ∧
      (getPort (t.onMe fun sl => { sl with phase := 3, ports := vset sl.ports 7 ⟨0, false, .withdrawing, 0, 0, false⟩ }) 0 7).phase = .withdrawing ∧
      (conn0.links[0]?).isSome = true := by decide

/-- Slot 0 parked behind this command at the head of its core's queue. -/
def commanded (cmd : TileCmd) (s : State) : State :=
  (s.onCore 0 fun x => { x with tile := { x.tile with queue := [cmd] } }).onMe fun sl => { sl with run := .parked .tile, phase := 1 }

theorem witness_TransferAndConnectorEvents_tile : let z : TileCmd := ⟨0, 0, 0, 0, 0, 0, false, 0, 0, none⟩
    let m : TileCmd := ⟨0, 1, loc 0, 0x7700000100000101, 0, 0, false, 0, 0, none⟩
    freeHeads (commanded z s0) 0 = [(0, z)] ∧ joinedTile (commanded z s0) 0 = false ∧ (tileOf (commanded z s0) 0).queue = [z] ∧
      headCmd (commanded m s0) 0 = some m ∧ m.elem < m.count ∧ ((commanded m s0).octet 0).unit.freeAt ≤ (commanded m s0).mcyc ∧
      (grant1 0 (commanded m s0)).1 = some 0 := by decide

theorem witness_TransferAndConnectorEvents_step : let m : TileCmd := ⟨0, 1, loc 0, 0x9900000100000101, 0, 0, false, 0, 0, none⟩
    (match (tileElem m 0 (((grant1 0 (commanded m s0)).2).onSlot 0 (·.onSys fun y => { y with prg := macroPrg 1 0 }))).2 with
      | .next => true
      | _ => false) = true := by decide +kernel

/-! ### Witnesses: events of tickets, kernels, tasks, contexts, Owl and the package -/

theorem witness_TicketAndKernelEvents_frontier : let s := s0.onOctet 0 fun x => { x with f := [(6, 4)] }
    octetF s 0 6 = 4 ∧ 4 ≤ octetF s 0 6 ∧ octetF s 0 6 < 5 := by decide

/-- The group of three with its state and entries as given, its slot's task ended. -/
def grouped3 (st : GroupSt) (es : List Entry) (live : Nat) (s : State) : State :=
  { grouped s with groups := [(3, { group3 with st := st, entries := es, live := live })] }

def entry0 : Entry := ⟨0, 0, 3, .store 0x1807 0xf 9 false, false⟩

theorem witness_TicketAndKernelEvents_drain : let s := grouped3 .current [entry0] 1 s0
    let g : Group := { group3 with st := .current, entries := [entry0], live := 1 }
    tfind s.groups 3 = some g ∧ groupHeld s g = false ∧ (s.core (coreOf 0)).stopped = false ∧ tfind s.changed 0x1807 = none ∧ g.held = [] ∧
      tfind s.home 0x1807 = none ∧ tfind s.home (pairOf 0x1807) = none ∧ g.sent = false ∧ drainUnit entry0 [] = [entry0] ∧ l1Find s 0 0x1807 = none ∧
      windowOf s (lineOfWord 0x1807) = none ∧ tfind s0.groups 3 = none ∧
      lineBad s (4 * 0x1807) = false ∧ groupHeld s { g with st := .saved .current } = true ∧ undoFull g 1 = false ∧ undoFull { g with ringSize := 0 } 1 = true ∧
      g.stopped = false := by decide

theorem witness_TicketAndKernelEvents_retire : let s := (grouped3 .running [] 0 s0).onMe fun sl => { sl with run := .free }
    let t := (grouped3 .current [] 0 s0).onMe fun sl => { sl with run := .free }
    let g : Group := { group3 with live := 0 }
    tfind s.groups 3 = some g ∧ groupEnded s 3 g = true ∧ tfind s.frontiers g.inst = some ⟨0, 0, 0, 0, 4, 4, none⟩ ∧
      tfind t.groups 3 = some { g with st := .current } ∧ groupDone t 3 { g with st := .current } = true ∧ tfind t.kernels 2 = some kernel2 ∧
      kernel2.retired + 1 < kernel2.ngrp := by decide

/-- Two groups, the first current: its one busy slot waits for room for its undo log, the other's for its commit buffer. -/
def stuck : State :=
  let full := fun (k gk : Nat) (s : State) => s.onSlot k fun sl => { sl with run := .parked (.commitFull 1), bind := ⟨1, 2, gk, 0, true, some gk⟩ }
  { full 128 4 (full 0 3 s0) with kernels := [(2, kernel2)], frontiers := [(6, ⟨0, 0, 0, 0, 4, 4, none⟩)],
                                  groups := [(3, { group3 with st := .current, entries := [entry0], ringSize := 0 }), (4, { group3 with index := 1, ticket := 5, octet := 1, home := 1, slots := [128] })] }

theorem witness_TicketAndKernelEvents_deadlock : tfind stuck.frontiers 6 = some ⟨0, 0, 0, 0, 4, 4, none⟩ ∧ deadlocked stuck 6 ⟨0, 0, 0, 0, 4, 4, none⟩ = true ∧
    ((stuck.groups.filter fun e => e.2.inst == 6 && e.2.st == .current).map (·.1)).flatMap (boundSlots stuck) = [0] ∧
    (stuck.slot 0).run = .parked (.commitFull 1) ∧ deadlocked (grouped s0) 6 ⟨0, 0, 0, 0, 4, 4, none⟩ = false := by decide

theorem witness_TicketAndKernelEvents_abort : let s : State := { s0 with kernels := [(2, kernel2)] }
    tfind s.kernels 2 = some kernel2 ∧ kernel2.st ≠ .complete ∧ kernel2.st ≠ .aborted ∧ (∀ e ∈ s.groups, e.2.kernel ≠ 2) ∧ s.arg.b ≠ 1 := by decide

theorem witness_TicketAndKernelEvents_weights : let s := withArr 0x7f000 (bytesLE 8 0x80000000 ++ bytesLE 8 0x180) s0
    let h : Word := 0xf400000000000000
    hndInd h = true ∧ hndRecord s 1 h = some (0, 0x7f000) ∧ arrNat s 0 0x7f000 8 % 2 ^ 32 = 2 ^ hndE 0xfc00000000000000 ∧
      arrNat s 0 0x7f000 8 / 2 ^ 32 + 2 ^ hndE h < arrNat s 0 0x7f000 8 % 2 ^ 32 ∧
      (let u := withArr 0x7f000 (bytesLE 8 0x4000000080000000) s0
       arrNat u 0 0x7f000 8 / 2 ^ 32 + 2 ^ hndE h = arrNat u 0 0x7f000 8 % 2 ^ 32) ∧ hndInd 0x180 = false ∧ (ctxXlat 0 true 1 (hndAddr 0x180) (tabled s)).1 = some 0x14000 ∧
      tfind ((tagsTaken 1 s0).core 0).transfer.tags 0 = some .inFlight := by decide

theorem witness_TicketAndKernelEvents_tree : let t : Tree := ⟨1, 2, (0, 0), descTree, [0], [⟨0, 0, vzero⟩], [], 0, []⟩
    let s := { s0 with trees := [t] }
    (s.trees.find? fun t => t.is 1 7 (0, 0) && !t.finished) = some t ∧ (TreeDesc.op t.desc).isSome = true ∧ 0 ∉ t.written ∧
      (∀ i ∈ t.members, t.leaf 0 i ≠ none) ∧ (∃ i ∈ t.members, t.leaf 1 i = none) ∧
      (storeBlock 0 1 0x6000 (List.replicate 4 0) (tabled s)).1 = none := by
  refine ⟨by decide, by decide, by decide, by decide, ⟨0, by decide, by decide⟩, by decide⟩

theorem witness_TicketAndKernelEvents_probe : let s := s0.onMe fun sl => { sl with phase := 1, run := .parked .probes, keep := [4] }
    (s.slot 0).phase = 1 ∧ (s.slot 0).run = .parked .probes ∧ (s.slot 0).keep = [BitVec.ofNat 64 4] ∧ ctxState s0 1 ≠ 0 ∧ hostMay s0 1 = true ∧
      probesBack (withEv { Arg.reset with a := 4, c := 3, sent := 2 } s) { Arg.reset with a := 4, c := 3, sent := 2 } = true ∧
      probesBack { s with inflight := [(20, ⟨.tenqArrival, { Arg.reset with a := 1, sender := 1, sent := 2 }⟩)] } { Arg.reset with a := 4, c := 3, sent := 2 } = false ∧
      probesBack { s with inflight := [(20, ⟨.tenqArrival, { Arg.reset with a := 1, sender := 1, sent := 3 }⟩)] } { Arg.reset with a := 4, c := 3, sent := 2 } = true ∧
      probesBack { s with inflight := [(20, ⟨.tenqArrival, { Arg.reset with a := 8, sender := 1, sent := 2 }⟩)] } { Arg.reset with a := 4, c := 3, sent := 2 } = true ∧
      ctxState s0 0 = 0 ∧ (queuePut 1 15 8 1 (queued 1 s0)).1 = true ∧ (s0.mreg 0x40).getLsbD 0 = false ∧ ((s0.setMreg 0x40 1).mreg 0x40).getLsbD 0 = true ∧
      nextTenant (refreshAll (s0.setMreg 0x40 1)) = none := by decide +kernel

/-- Queue 15 with its bit EN and one record. -/
theorem witness_TicketAndKernelEvents_turn : let s := (queued 1 s0).setMreg 0x40 1
    nextTenant (refreshAll { s with mem := memPut (memPut s.mem 0x141e8 (bytesLE 8 1)) 0x141f0 (bytesLE 8 1) }) = some 5 := by decide +kernel

/-- A launch of a commit buffer whose queue has no room in a context that is being saved, and a turn that is under way. -/
theorem witness_TicketAndKernelEvents_doorbell : let s := withEv { Arg.reset with k := 1, a := 15, b := 1 } (s0.onCtx 1 fun c => { c with st := 5 })
    (appendLaunch 1 15 s.arg.bytes s).1 = none ∧ ctxGone (appendLaunch 1 15 s.arg.bytes s).2 1 = false ∧ ctxHeld (appendLaunch 1 15 s.arg.bytes s).2 1 = true ∧
      (∃ m ∈ ({ s0 with inflight := [(1, evt .tenantTurn 5 0 1)] } : State).inflight, m.2.ev = .tenantTurn ∧ m.2.arg.b < 2) ∧ s0.inflight = [] := by
  refine ⟨by decide +kernel, by decide +kernel, by decide +kernel, ⟨_, List.mem_singleton.mpr rfl, by decide⟩, by decide⟩

/-- A kernel that is still placing, of a context that runs. -/
theorem witness_TicketAndKernelEvents_placing : let kn : Kernel := { kernel2 with st := .placing, placed := 0 }
    let s := { s0 with kernels := [(2, kn)], frontiers := [(6, ⟨0, 0, 0, 0, 4, 4, none⟩)] }
    let b : Bind := ⟨0x2000, 4, 1, 0, 0, false, 1, 0, 1, 0, 0, 3⟩
    let t := (grouped3 .placed [] 1 s0).onCluster 0 fun x => { x with binds := [b] }
    tfind s.kernels 2 = some kn ∧ ctxOpen s kn.ctx = true ∧ freeUnit s kn = some 0 ∧ (s.cluster 0).binds.length < 256 ∧
      ((t.cluster 0).binds.find? fun b => ctxOpen t b.ctx) = some b ∧ ((s.cluster 0).binds.find? fun b => ctxOpen s b.ctx) = none ∧
      tfind t.groups 3 = some { group3 with st := .placed } ∧ tfind t.kernels 2 = some kernel2 ∧ (∀ c ∈ group3.usedCores, scratchBusy t c = false) ∧
      freeUnit { s with quarantine := [0x80000] } kn = none := by decide

/-- A Free slot, and an entry on its core's run list, whose record stands in the scratchpad. -/
def waiting (s : State) : State :=
  withArr 0x440 (bytesLE 8 0x3001) ((s.onCore 0 fun x => { x with runList := [⟨3, loc 0x440, 1, 0⟩] }).onMe fun sl => { sl with run := .free })

theorem witness_TaskEvents_start : let s := waiting s0
    let t := ({ grouped s0 with groups := [(3, { group3 with st := .placed, toStart := [0] })] }).onMe fun sl => { sl with run := .free }
    (s.slot 0).run = .free ∧ (s.core 0).stopped = false ∧ (s.slot 0).phase ≠ 5 ∧ nextEntry s 0 = some ⟨3, loc 0x440, 1, 0⟩ ∧
      (slotBytes 0 1 (loc 0x440).toNat 64 s).1.isSome = true ∧ nextEntry t 0 = none ∧ nextBound t 0 = some (3, 0) ∧ (s0.slot 0).run ≠ .free := by decide

theorem witness_TaskEvents_release : let s := s0.onMe fun sl => { sl with run := .parked .event }
    let t := s0.onMe fun sl => { sl with run := .parked (.marker (some 0x2000)) }
    (s.slot 0).run = .parked .event ∧ reasonHolds s 0 .event = false ∧
      reasonHolds (withSt 0x40 s) 0 .event = true ∧ reasonHolds t 0 (.marker (some 0x2000)) = true ∧ (t.slot 0).replay = none ∧
      reasonHolds s 0 .results = true ∧ Reason.results ≠ .event := by decide

theorem witness_TaskEvents_steals : let s := (grouped s0).onMe fun sl => { sl with run := .free }
    let t := s0.onCore 127 fun x => { x with deque := [⟨loc 0x440, 1, 0⟩, ⟨loc 0x480, 2, 0⟩] }
    maySteal s 0 = true ∧ maySteal s0 0 = false ∧ coreDet t 127 = false ∧ coreDet (detS s0) 0 = true ∧ ((waiting s0).slot 0).run = .free ∧
      (slotBytes 0 1 (loc 0x440).toNat 64 (waiting s0)).1.isSome = true ∧ ringOldest t 127 0 = none ∧ (t.core 127).deque ≠ [] ∧ ctxGone s0 2 = true ∧ ctxOpen (waiting s0) 1 = true := by
  decide

/-- Context 1 whose overflow ring at 0x6000 holds one entry of core 0's run list. -/
theorem witness_TaskEvents_ring : let s := { (tabled s0) with ctxs := [(1, { ctx1 with words := [0x8000, 0, 0, 0x6001], ring := [⟨1, 0, 1, 3, 9⟩, ⟨0, 0, 1, 3, 5⟩], ringNext := 1 })] }
    let d := { (tabled s0) with ctxs := [(1, { ctx1 with words := [0x8000, 0, 0, 0x6001], ring := [⟨0, 0, 0, 0, 5⟩] })] }
    ringOldest s 0 1 = some (1, ⟨0, 0, 1, 3, 5⟩) ∧ (takeRing 1 ⟨0, 0, 1, 3, 5⟩ s).1 = some 0 ∧ ringOldest (takeRing 1 ⟨0, 0, 1, 3, 5⟩ s).2 0 0 = none ∧
      ringOldest d 0 0 = some (1, ⟨0, 0, 0, 0, 5⟩) ∧ (takeRing 1 ⟨0, 0, 0, 0, 5⟩ d).1 = some 0 ∧ ringOldest d 0 1 = none ∧ (d.core 0).deque.length < 64 ∧
      (s.core 0).holding = none ∧ (s.core 0).runList.length < 64 ∧ ringOldest s0 0 1 = none := by decide

theorem witness_TaskEvents_counters : let s := withArr 0x7d000 (bytesLE 8 0x8000000000000001) s0
    ctxGone s 1 = false ∧ 0x7bfc0 + 64 ≤ 0x7c000 ∧ ctrCount s 0 0 = 1 ∧ ctrArm s 0 0 = true ∧ ctrCount s0 0 0 = 0 ∧ tfind (grouped s0).kernels 2 = some kernel2 ∧
      (s.core 0).runList.length < 64 ∧ ((1, loc 0x400) : Nat × Word) ∉ s.spawns ∧
      (s.onMe fun sl => { sl with phase := 1 }).me.phase = 1 := by decide

theorem witness_TaskEvents_watches : let h := homeSlice (4 * 0x1807)
    let w : WatchEntry := ⟨16 * h, 0x1807, 1, 0, 0, 0, 1, 0⟩
    freeWatch s0 h = some (16 * h) ∧ freeWatch { s0 with watches := [w] } h = some (16 * h + 1) ∧
      freeWatch { s0 with watches := (List.range 16).map fun i => { w with id := 16 * h + i } } h = none := by decide

/-- The command register with a command of operation and context in it. -/
theorem witness_ContextCommands : let s := withEv { Arg.reset with w := 0x0001000000021400 } s0
    (s.mreg 0x100).getLsbD 63 = false ∧ s.arg.c = 0 ∧ tfind s.ctxs 1 = some ctx1 ∧ tfind s.ctxs 0 = none ∧
      clustersTaken s 5 2 = false ∧ clustersTaken s 6 1 = true ∧ slice s.arg.w 47 16 = 2 ∧ ctx1.busy = false ∧
      ((s.setMreg 0x100 0x8000000000000000).mreg 0x100).getLsbD 63 = true ∧ s.arg.b ≠ 2 ∧ ctx1.hyper = none ∧
      (let c : Ctx := { ctx1 with st := 4, save := some ⟨false, false, true, 0, [], 0, 0, 0, false, none⟩ }
       c.st = 4 ∧ c.save.elim false (·.bySlot) = false ∧ c.hyper.elim c.st (·.st) ∉ [1, 2, 6, 7]) := by decide

/-- Context 1 in a hypervisor pool, saved there as it ran. -/
def inPool (s : State) : State :=
  { s with ctxs := [(1, { ctx1 with st := 6, save := some ⟨false, false, false, 0, [], 0, 0, 0, true, none⟩, hyper := some ⟨3, none, false, [], [], []⟩ })] }

theorem witness_ContextCommands_pool : let s := withEv { Arg.reset with k := 5, b := 2 } s0
    s.arg.b = 2 ∧ s.arg.c = 0 ∧ (s.ctxs.filter fun e => e.2.tenant == 5).map (·.1) = [1] ∧ tfind s.ctxs 1 = some ctx1 ∧
      ¬ (ctx1.hyper.isSome = true ∨ ¬ (ctx1.st ∈ [2, 3, 4, 5] ∨ ctx1.busy = true)) ∧ (∀ e ∈ s.ctxs, e.2.tenant ≠ 6) ∧
      ((inPool s).ctxs.filter fun e => e.2.tenant == 5).map (·.1) = [1] ∧
      (tfind (inPool s).ctxs 1).map (fun c => (c.st, c.hyper.isSome, c.save.map fun v => (v.finished, v.restore))) = some (6, true, some (true, false)) := by decide

/-- Context 1 Saved, with its tables and its pool at 0x6000 named in its descriptor. -/
def savedCtx (s : State) : State :=
  let t := tabled { s with ctxs := [(1, { ctx1 with st := 6 })] }
  { t with mem := memPut (memPut t.mem 0x40000 (bytesLE 8 0x8000)) 0x40038 (bytesLE 8 0x6000) }

/-- A pool that is not mapped, one without a directory, and one with it. -/
theorem witness_ContextCommands_restore : let s := savedCtx s0
    (directoryValid 1 0 (readDesc 1 { s with mem := memPut s.mem 0x40038 (bytesLE 8 0x8000) })).1 = none ∧ (directoryValid 1 0 (readDesc 1 s)).1 = some false ∧
      (directoryValid 1 0 (readDesc 1 { s with mem := memPut s.mem 0x14007 [0x80] })).1 = some true := by decide +kernel

/-- Context 1 being saved, or restored, from cycle 0 on. -/
def saving (restore : Bool) (st : Nat) (s : State) : State :=
  { s with ctxs := [(1, { ctx1 with st := st, pdl := 1, save := some ⟨restore, false, false, 0, [], 0, 0, 0, false, none⟩ })] }

theorem witness_SavesAndRestoresOfContexts : let s := saving false 4 s0
    let x : SaveSt := ⟨false, false, false, 0, [], 0, 0, 0, false, none⟩
    (tfind s.ctxs 1).bind (·.save) = some x ∧ (ctxSlots s 1).isEmpty = false ∧ s.mcyc < x.since + 1 ∧ x.since + 1 ≤ ({ s with mcyc := 1 } : State).mcyc ∧
      (tfind s0.ctxs 1).bind (·.save) = none := by decide

/-- What the first part of a save makes of a state. -/
def forced (s : State) : State := (ctxSlots s 1).foldl forceSlot s

theorem witness_SavesAndRestoresOfContexts_saving : let p := forced (saving false 5 (grouped s0))
    let l := forced (saving false 5 (listed (grouped s0)))
    (∀ e ∈ p.slots, e.2.bind.ctx = 1 → slotSaved e.2 = true ∧ delivered p e.1 = true) ∧ (∀ e ∈ ctxGroups p 1, e.2.sent = false) ∧ weightsDue p 1 = false ∧ entriesDue p 1 = false ∧
      ((ctxGroups p 1).find? fun e => savable e.2 && !false) = some (3, group3) ∧
      copiesAwaited p group3 = false ∧ badgerStopped p group3 = false ∧ (group3.usedCores.foldl (spillCore 1) (true, p)).1 = true ∧
      (group3.usedCores.foldl (spillCore 1) (true, l)).1 = false ∧
      (∃ e ∈ (forced (saving false 5 (grouped (storing s0)))).slots, e.2.bind.ctx = 1 ∧ slotSaved e.2 = false) := by
  refine ⟨by decide, by decide, by decide, by decide, by decide, by decide, by decide, by decide, by decide +kernel, ?_⟩
  decide

theorem witness_SavesAndRestoresOfContexts_restore : let s := saving true 6 s0
    let t := { s with groups := [(3, { group3 with kept := some ⟨[], [], []⟩ })], kernels := [(2, kernel2)] }
    savedKernel s 1 = none ∧ tfind t.groups 3 = some { group3 with kept := some ⟨[], [], []⟩ } ∧ tfind t.kernels 2 = some kernel2 ∧ kernel2.st = .running ∧
      savedKernel { t with kernels := [(2, { kernel2 with st := .saved .running })] } 1 = some (2, { kernel2 with st := .saved .running }, .running) ∧
      (tfind s.ctxs 1).map (·.prq) = some false ∧
      (let r := s.onCtx 1 fun c => { c with prq := true, loose := [(0, slot0)] }
       (tfind r.ctxs 1).map (·.prq) = some true ∧ (∃ e ∈ [(0, slot0)], (r.slot e.1).run ≠ .free) ∧
         (∀ e ∈ [(0, slot0)], ((r.onMe fun sl => { sl with run := .free }).slot e.1).run = .free) ∧ (tfind (restoreBlock 1 r).ctxs 1).isSome = true) ∧
      (let g : Group := { group3 with st := .saved .running, kept := some ⟨[], [], []⟩ }
       let v : SaveSt := ⟨false, false, false, 0, [(3, 0)], 0, 0, 0, false, some 0x1b⟩
       (groupOut { t with groups := [(3, g)] } v).map (·.1) = some 3 ∧ (groupOut t v).isNone = true) ∧
      (inPool s0).ctxs.map (fun e => e.2.hyper.isSome) = [true] ∧
      (directoryWord 1 0 1 t).1 = none ∧ (directoryWord 1 0 1 (readDesc 1 (savedCtx s0))).1 = some 0 := by decide +kernel

theorem witness_StopsOfSpans_host : ctxState s0 1 ∉ [0, 1, 6, 7] ∧ partitionStopped s0 1 = false ∧ ctxState s0 2 ∈ [0, 1, 6, 7] ∧
    s0.arg.c = 0 ∧ (s0.mreg 0x200).getLsbD 63 = false ∧
    (∀ d ∈ partitionCores s0 1, (s0.core d).stopped = false ∧ (s0.core d).halting = none) ∧ stopAwaits s0 0 = false ∧
    partitionStopped { s0 with cores := (partitionCores s0 1).map fun c => (c, { Core.reset with stopped := true }) } 1 = true ∧
    (∃ d ∈ partitionCores s0 1, ((s0.onCore 415 fun x => { x with stopped := true }).core d).stopped = true) :=
  ⟨by decide, by decide, by decide, by decide, by decide, by decide +kernel, by decide, by decide +kernel, 415, by decide, by decide⟩

theorem witness_ErrorsSelftestsAndEmulation : unitCtxs s0 0x80000 = [] ∧ unitCtxs (grouped s0) 0x80000 ≠ [] ∧ 0x80000 ∉ s0.quarantine ∧
    (0x6000 / 64) ∉ s0.pinned ∧ (s0.pinned.filter fun l => homeSlice (64 * l) == homeSlice 0x6000).length < 16 ∧
    (0x6000 / 64) ∉ List.replicate 16 1409 ∧ 16 ≤ ((List.replicate 16 1409).filter fun l => homeSlice (64 * l) == homeSlice 0x6000).length ∧
    (s0.onMe fun sl => { sl with run := .parked .answer, phase := 1 }).me.phase = 1 ∧ unitKind 7 = 0 ∧ unitCtxs s0 7 = [] := by decide

/-- Owl unlocked for tenant 5, with this command in its register. -/
def owled (cmd : Word) (len : Word) (addr : Word) (s : State) : State :=
  withEv { Arg.reset with b := 1 } { s with owl := { Owl.reset with st := 2, tenant := 5, cmd := cmd, len := len, addr := addr } }

theorem witness_OwlEvents : let s := owled 0x8000000000000006 2048 (loc 0) (s0.onMe fun sl => { sl with run := .stopped .running })
    accepted s 21 = true ∧ s.owl.st = 2 ∧ tenantCores s 5 ≠ [] ∧ slotOf s 5 0 = true ∧ slotOf s 5 (16 * 64) = false ∧ isStopped (s.slot 0) = true ∧
      isStopped (s0.slot 0) = false ∧ owlCore s ∈ tenantCores s 5 ∧ owlSlot s = 0 ∧ s.owl.cmd.getLsbD 63 = true ∧ accepted { s with mgmt := [] } 21 = false ∧
      owlEvent 12 ≠ none ∧ (64 : Nat) ∉ tenantCores s 5 ∧ stopAwaits s 0 = false ∧ (s.core 0).halting = none := by decide

theorem witness_OwlEvents_memory : let s := owled 10 64 (loc 0xffc0) s0
    s.owl.addr.toNat = localBase + 0xffc0 ∧ 0xffc0 + 64 ≤ (s.core 0).spsz ∧ 0 ∈ tenantCores s 5 ∧ owlCore s = 0 ∧
      (owled 10 64 (loc 0x7ffc0) s0).owl.addr.toNat = localBase + 0x7ffc0 ∧ 0x7c000 ≤ 0x7ffc0 ∧ 0x7ffc0 + 64 ≤ 0x80000 ∧
      (owlPlaces false 5 3 0x6000 64 (owled 0x000100000000000a 64 0x6000 (tabled s0))).1 = some [(.mem 0x14000, 64)] ∧
      (owlPlaces true 5 3 0x6000 64 (owled 0x000100000000000b 64 0x6000 (tabled s0))).1 = some [(.mem 0x14000, 64)] := by decide +kernel

theorem witness_PackageEvents : let s := { s0 with power := ⟨3, false, 0⟩ }
    PoweredOff s ∧ unitExists 0x80000 = true ∧ portOn s 0 = false ∧ slice (0x2#64) 1 0 = 2 ∧ accepted s 18 = true ∧ (s0.mreg (portReg 3)).getLsbD 3 = false ∧
      entryUsed s0 0 = false ∧ owlEvent 1 ≠ none ∧ s0.owl.cmd.getLsbD 63 = false ∧ (s0.mreg 0x40).getLsbD 0 = false ∧
      s0.power.boot ≠ 1 ∧ s0.power.boot = 2 ∧ (∀ i c, tenantRegister 0x100 = some i → tfind s0.ctxs i = some c → c.tenant + 1 ≠ 1 ∨ c.hv = true) ∧
      ({ s0 with power := ⟨1, false, 0⟩ } : State).power.boot = 1 :=
  ⟨⟨rfl, by decide⟩, by decide, by decide, by decide, by decide, by decide, by decide, by decide, by decide, by decide, by decide, by decide,
    fun i c h => absurd h (by simp [tenantRegister]), by decide⟩

/-- Port 0 enabled for Ethernet, its queue with payload y. -/
def netted (y : List Payload) (s : State) : State :=
  (s.setMreg (portReg 0) 9).onPort 0 fun x => { x with up := true, queue := y }

theorem witness_PackageEvents_payloads : let y : Payload := ⟨1, 0, 0, 4, []⟩
    let s := withEv { Arg.reset with bytes := bytesLE 8 1 ++ bytesLE 8 4 } (netted [] s0)
    portOn s 0 = true ∧ (s.port 0).queue.length < 4096 ∧ payloadOf s.arg.bytes = y ∧ ¬ 2 ^ 31 ≤ (y.seq + 2 ^ 32 - tget (s.port 0).next y.flow 0) % 2 ^ 32 ∧
      ((netted [y] s0).port 0).queue.find? (isNext ((netted [y] s0).port 0)) = some y ∧ ((netted [{ y with seq := 1 }] s0).port 0).queue.find?
        (isNext ((netted [{ y with seq := 1 }] s0).port 0)) = none ∧ (3 < y.kind) ∧ y.kind = 4 ∧ s.arg.a = portJob s 0 ∧ ¬ 1 = portJob s 0 ∧ 4 < ({ y with kind := 5 } : Payload).kind ∧
      2 ^ 31 ≤ ((⟨1, 0, 0xffffffff, 4, []⟩ : Payload).seq + 2 ^ 32 - tget (s.port 0).next 1 0) % 2 ^ 32 := by decide

/-! ### One step each: the manual's examples, and values worked out by hand from its rules -/

/-- Core 6 of the octet at (21, 11) (01_device, under R9). -/
theorem test_place_of_core : 8 * octetAt 21 11 + 6 = 3502 ∧ clusterOf (octetAt 21 11) = 25 ∧ dieOfOctet (octetAt 21 11) = 3 := by decide

/-- ADD.W wraps at 32 bits and sign-extends (R121). -/
theorem test_add_w_wraps : (after (.add true 3 2 1) (withG 2 0x7fffffff (withG 3 1 s0))).me.rg 1 = 0xffffffff80000000 := by decide
theorem test_sub_reads_before_it_writes : (after (.sub false 2 2 2) (withG 2 5 s0)).me.rg 2 = 0 := by decide
theorem test_g0_discards : (after (.addi 1 0 0) s0).me.rg 0 = 0 ∧ (after (.addi 1 0 0) s0).me.pc = 0x2004 := by decide
theorem test_addi_sign : (after (.addi 0x2000 0 1) s0).me.rg 1 = 0xffffffffffffe000 := by decide
theorem test_mulh_signed : (after (.mulh 3 2 1) (withG 2 0xffffffffffffffff (withG 3 1 s0))).me.rg 1 = 0xffffffffffffffff ∧
    (after (.mulhu 3 2 1) (withG 2 0xffffffffffffffff (withG 3 1 s0))).me.rg 1 = 0 := by decide

/-- `div.w` of the manual's example (06_integer, after R127). -/
theorem test_div_w_wraps : ((after (.div true 11 10 9) (withG 10 0x180000000 (withG 11 0xffffffffffffffff s0))).me.pend.map (·.kind)) =
    [.timed [.g 9 0xffffffff80000000] 0 24 false] := by decide
theorem test_div_by_zero_traps : (after (.div false 3 2 0) (withG 3 0 (handled s0))).me.sys.cause.toNat % 256 = 0x10 ∧
    (after (.div false 3 2 0) (withG 3 0 (handled s0))).me.pc = 0x4000 := by decide
theorem test_remu_table : ((after (.remu false 3 2 1) (withG 2 7 (withG 3 0xfffffffffffffffe s0))).me.pend.map (·.kind)) =
    [.timed [.g 1 7] 0 40 false] := by decide

theorem test_sra_w : (after (.srai true 31 2 1) (withG 2 0x80000000 s0)).me.rg 1 = 0xffffffffffffffff := by decide
theorem test_sll_counts_low_bits : (after (.sll false 3 2 1) (withG 2 1 (withG 3 65 s0))).me.rg 1 = 2 := by decide
theorem test_roti_goes_right : (after (.roti false 1 2 1) (withG 2 1 s0)).me.rg 1 = 0x8000000000000000 ∧ (after (.roti true 1 2 1) (withG 2 1 s0)).me.rg 1 = 0xffffffff80000000 := by decide
theorem test_bfx_sign : (after (.bfx 4 3 2 1) (withG 2 0xf0 s0)).me.rg 1 = 0xffffffffffffffff ∧ (after (.bfxu 4 3 2 1) (withG 2 0xf0 s0)).me.rg 1 = 15 := by decide
theorem test_bswap : (after (.bswap 2 1) (withG 2 0x0102030405060708 s0)).me.rg 1 = 0x0807060504030201 := by decide
theorem test_clz_of_zero : (after (.clz true 2 1) (withG 2 0 s0)).me.rg 1 = 32 ∧ (after (.ctz false 2 1) (withG 2 0 s0)).me.rg 1 = 64 := by decide

/-- MIX(1, 0) (R139). -/
theorem test_mix : (after (.mix 0 8 9) (withG 8 1 s0)).me.rg 9 = 0x514e28b7 := by decide

/-- `lea g9, [g8+g9*8]` (06_integer). -/
theorem test_lea_scales : (after (.lea 3 9 8 9) (withG 8 0x100 (withG 9 3 s0))).me.rg 9 = 0x118 := by decide

/-! Control -/

/-- `blt g5, g6, L` with L six parcels ahead (R143). -/
theorem test_blt_taken : (after (.bcc 6 6 5 .lt) (withG 5 0xffffffffffffffff (withG 6 0 s0))).me.pc = 0x200c ∧
    (after (.bcc 6 6 5 .lt) (withG 5 0 (withG 6 0 s0))).me.pc = 0x2004 := by decide
/-- `bp.ne p3, 5, L` with L four parcels back (R144). -/
theorem test_bp_back : (after (.bp 0x7fc true 5 3) (s0.onMe (·.wp 3 0x20))).me.pc = 0x1ff8 ∧
    (after (.bp 0x7fc true 5 3) (s0.onMe (·.wp 3 0xffdf))).me.pc = 0x2004 := by decide
theorem test_jlr_reads_before_it_writes : (after (.jlr 0 1 1) (withG 1 0x3000 s0)).me.pc = 0x3000 ∧ (after (.jlr 0 1 1) (withG 1 0x3000 s0)).me.rg 1 = 0x2004 := by
  decide

/-- TRAP 37 (R112). -/
theorem test_trap_entry : let t := after (.trap 5 1) (handled s0)
    t.me.sys.cause.toNat % 256 = 5 ∧ t.me.sys.tval = 37 ∧ t.me.sys.epc = 0x2000 ∧ t.me.pc = 0x4000 ∧ t.me.th = true := by decide
theorem test_eret_returns : (after .eret (withSt 0x200 (handled s0))).me.pc = 0x2468 := by decide

/-- The hazard of the manual's example (R120): the ADD traps with 0x12 and names g9. -/
theorem test_hazard_traps : let t := after (.add false 9 9 10) (withSt 0x800 (owing ⟨0, 9⟩ (handled s0)))
    t.me.run = .parked (.trapEntry 0x12 9 0x2000) := by decide

/-! Floating point -/

/-- The worked rounding (07_control_fp): RUP, and SR with rnc = 1. -/
theorem test_fadd_rup : (after (.faddS .rup 11 10 9) (withG 10 0x3f800000 (withG 11 0x33800000 s0))).me.rg 9 = 0x3f800001 := by decide
theorem test_fadd_sr : let t := after (.faddS .sr 11 10 9) (withG 10 0x3f800000 (withG 11 0x33800000 (s0.onMe (·.onSys fun y => { y with rnc := 1 }))))
    t.me.rg 9 = 0x3f800000 ∧ t.me.sys.rnc = 2 := by decide
/-- 300 and an offset of 2^-7 give the scale 0x81 (R81). -/
theorem test_cvt_e8m0 : (after (.cvt .e8m0 .f32 .rup 3 8 9) (withG 8 0x43960000 (s0.onMe fun sl => { sl with x := vset sl.x 3 0xf9 }))).me.rg 9 = 0x81 := by decide
theorem test_fmin_of_zeros : (after (.fminS 3 2 1) (withG 2 0 (withG 3 0x80000000 s0))).me.rg 1 = 0x80000000 := by decide
theorem test_fcmp_nan : ((after (.fcmp false false .lt 3 2 1) (withG 2 0x7fc00000 (withG 3 0 s0))).me.rp 1).getLsbD 0 = false := by decide

/-! Vectors -/

/-- 2^24 and fifteen ones (08_vector, under R185). -/
def ones : VReg := vset (Vector.replicate 16 0x3f800000#32) 0 0x4b800000

theorem test_vred_fadd : (vget ((after (.vred .fadd .rne 0 1 5) (s0.onMe fun sl => (sl.wv 1 ones).wp 0 0xffff)).me.rv 5) 0 0) = 0x4b800007 := by decide +kernel
theorem test_vscan_fadd : (vget ((after (.vscan .fadd .rne 0 1 6) (s0.onMe fun sl => (sl.wv 1 ones).wp 0 0xffff)).me.rv 6) 15 0) = 0x4b800000 := by decide +kernel
theorem test_vdot : (vget ((after (.vdot .e4m3 .rne 0 2 1 4) (s0.onMe fun sl => (((sl.wv 1 (vset vzero 0 0xb8484038)).wv 2 (vset vzero 0 0x38383838)).wv 4
    (vset vzero 0 0x3f000000)).wp 0 1)).me.rv 4) 0 0) = 0x40d00000 := by decide +kernel
/-- Lane 13 receives lane 0 (08_vector). -/
theorem test_vslide_rotates : (vget ((after (.vslide 3 0 2 2 1) (s0.onMe fun sl => (sl.wv 2 (vset vzero 0 7)).wp 0 0xffff)).me.rv 1) 13 0) = 7 := by decide
/-- A shift amount of 0x0b in an i8 element shifts by 3 (08_vector). -/
theorem test_vsra_i8 : (vget ((after (.vsra .i8 0 3 2 1) (s0.onMe fun sl => ((sl.wv 2 (vset vzero 0 0x80)).wv 3 (vset vzero 0 0x0b)).wp 0 1)).me.rv 1) 0 0) = 0xf0 := by
  decide
theorem test_vmix : let s := s0.onMe fun sl => (sl.wv 5 (vset vzero 1 1)).wp 0 0xffff
    vget ((after (.vmix 0 9 5 5) s).me.rv 5) 1 0 = 0x514e28b7 ∧ vget ((after (.vmix 0 9 5 5) s).me.rv 5) 0 0 = 0 := by decide

/-! Memory -/

theorem test_store_byte_order : memBytes ((after (.st 0x40 .w 2 3) (withG 2 (loc 0) (withG 3 0x04030201 s0))).core 0).arr 0x100 4 = [1, 2, 3, 4] := by decide +kernel
theorem test_load_sign : let t := after (.ld 0 .b 2 1) (withG 2 (loc 0x400) (withArr 0x400 [0x80] s0))
    (after .loadDataReturn (withEv { Arg.reset with a := s0.me.traffic.nextId } t)).me.rg 1 = 0xffffffffffffff80 := by decide
theorem test_misaligned_load_traps : let t := after (.ld 0 .w 2 1) (withG 2 (loc 0x402) (handled s0))
    t.me.sys.cause.toNat % 256 = 0x08 ∧ t.me.sys.tval = loc 0x402 := by decide
theorem test_amo_add : memBytes ((after (.amo true .add 3 2 1) (withG 2 (loc 0x400) (withG 3 1 (withArr 0x400 [0xff] s0)))).core 0).arr 0x400 2 = [0xff, 0] := by decide

/-- The walk example (12_page): 0x1802_0286_2a40 by a group's first entry. -/
def walkTables : State :=
  let put := fun (m : Mem) (e : Nat × Nat) => memPut m e.1 (bytesLE 8 e.2)
  ({ s0 with mem := [(0x8000, 0xa001), (0xa018, 0xc001), (0xc008, 0xe001), (0xe028, 0x12001), (0x12188, 0x040000010004005d), (0x12100, 0x040000010004005d)].foldl put [] }).onCtx 1
    fun c => { c with words := [0x8000#64] }

theorem test_atr_of_the_walk_example : (after (.atr 1 4 9) (withG 4 0x180202862a40 walkTables)).me.pend.map (·.kind) =
    [.value [.g 9 0x0100000100062a40] 0] := by decide

/-! System, transfer, tickets, barriers and tasks -/

theorem test_mts_mode_keeps_reserved_bits : (after (.mts 0x003 2) (withG 2 0xfffffffffffffffd s0)).me.sys.mode = 5 ∧
    (after (.mts 0x003 2) (withG 2 0xffffffffffffffff s0)).me.sys.mode = 0 := by decide
theorem test_mfs_pc : (after (.mfs 0x000 5) s0).me.rg 5 = 0x2000 := by decide
theorem test_privilege : (after (.tlbfl 0 2) (user (handled s0))).me.sys.cause.toNat % 256 = 0x02 := by decide
theorem test_tfind : (after (.tfind 2 1) (withG 2 0x8000000000000001 tagged)).me.rg 1 = 63 := by decide +kernel
theorem test_tfind_error : let t := after (.tfind 2 1) (withG 2 0xc000000000000000 (handled tagged))
    t.me.sys.cause.toNat % 256 = 0x0e ∧ t.me.sys.tval = 5 ∧ tfind (t.core 0).transfer.tags 62 = none := by decide +kernel
theorem test_hwt_reads_the_exponent : (after (.hwt 2 1) (withG 2 0xf800000000000180 s0)).me.rg 1 = 31 := by decide
theorem test_hcopy_splits : let t := after (.hcopy 2 1) (withG 2 0xf800000000000180 s0)
    t.me.rg 1 = 0xf000000000000180 ∧ t.me.rg 2 = 0xf000000000000180 := by decide
theorem test_barrier_last_arrival : let key := ((1 * 16 + 3) * 512) * 64 + 15
    barOf (after (.bari 2 1) (withG 2 0x30f (barred 15 ⟨2, 1, 4⟩ s0))) key = ⟨2, 0, 5⟩ := by decide
theorem test_tkget_past_the_last : (after (.tkget 2 1) (withG 2 2 (grouped s0))).me.rg 1 = 6 := by decide
theorem test_twt_out_of_range : (after (.twt 2) (withG 2 16 (handled s0))).me.sys.cause.toNat % 256 = 0x18 := by decide
theorem test_tenq_message : ((after (.tenq 2) (atG2 (tailBytes 7 1 false 0) s0)).inflight.map fun m => (m.2.ev, m.2.arg.a, m.2.arg.c)) = [(.tenqArrival, 7, 1)] := by
  decide
theorem test_power_up : (after .powerUpSequence (withEv { Arg.reset with a := 1 } State.reset)).power.boot = 2 := by decide
end Sys2Proof.Tests
end

section
/-! SUPPORT. Fields and single bits of words, numbers as bytes, ranges of memory replaced, and folds over states: facts about the shared
operations that hold of every state. -/

namespace Sys2Proof.Machine

/-! ### Bits and fields of a word -/

/-- A field, bit by bit. -/
theorem testBit_slice {n : Nat} (x : BitVec n) (hi lo i : Nat) :
    (slice x hi lo).testBit i = (decide (i < hi + 1 - lo) && x.getLsbD (lo + i)) := by
  simp [slice, Nat.testBit_mod_two_pow, Nat.testBit_shiftRight, BitVec.getLsbD]

theorem slice_lt {n : Nat} (x : BitVec n) (hi lo : Nat) : slice x hi lo < 2 ^ (hi + 1 - lo) :=
  Nat.mod_lt _ (Nat.two_pow_pos _)

/-- Words that agree on the bits of a field have the same field. -/
theorem slice_congr {n m : Nat} {x : BitVec n} {y : BitVec m} {hi lo : Nat}
    (h : ∀ i, lo ≤ i → i ≤ hi → x.getLsbD i = y.getLsbD i) : slice x hi lo = slice y hi lo := by
  refine Nat.eq_of_testBit_eq fun i => ?_
  rw [testBit_slice, testBit_slice]
  by_cases hi' : i < hi + 1 - lo
  · rw [h (lo + i) (by omega) (by omega)]
  · simp [hi']

/-- One bit set: the others stay. -/
theorem getLsbD_setBit {n : Nat} (x : BitVec n) (j : Nat) (b : Bool) (i : Nat) :
    (setBit x j b).getLsbD i = if i = j then decide (i < n) && b else x.getLsbD i := by
  have hx : ¬ i < n → x.getLsbD i = false := fun h => BitVec.getLsbD_of_ge x i (by omega)
  have hp : (BitVec.ofNat n (2 ^ j)).getLsbD i = (decide (i < n) && decide (i = j)) := by
    rw [BitVec.getLsbD_ofNat, Nat.testBit_two_pow]
    simp only [eq_comm]
  have hb : (setBit x j b).getLsbD i =
      if b then x.getLsbD i || (decide (i < n) && decide (i = j)) else x.getLsbD i && !decide (i = j) := by
    cases b
    · by_cases hn : i < n
      · simp only [setBit, Bool.false_eq_true, if_false, BitVec.getLsbD_and, BitVec.getLsbD_not, hp, hn, decide_true, Bool.true_and]
      · simp only [setBit, Bool.false_eq_true, if_false, BitVec.getLsbD_and, hx hn, Bool.false_and]
    · simp only [setBit, if_true, BitVec.getLsbD_or, hp]
  rw [hb]
  by_cases hj : i = j
  · subst hj
    by_cases hn : i < n <;> cases b <;> simp [hn, hx]
  · cases b <;> simp [hj]

/-- The mask of a field, bit by bit. -/
theorem testBit_fieldMask (k lo i : Nat) : ((2 ^ k - 1) * 2 ^ lo).testBit i = decide (lo ≤ i ∧ i < lo + k) := by
  rw [Nat.testBit_mul_two_pow, Nat.testBit_two_pow_sub_one, ← Bool.decide_and, decide_eq_decide]
  omega

/-- A field replaced: its bits are those of the new value, the others stay. -/
theorem getLsbD_setSlice {n : Nat} (x : BitVec n) (hi lo v i : Nat) :
    (setSlice x hi lo v).getLsbD i = if lo ≤ i ∧ i ≤ hi then decide (i < n) && v.testBit (i - lo) else x.getLsbD i := by
  have hm := testBit_fieldMask (hi + 1 - lo) lo i
  have hv : ((v % 2 ^ (hi + 1 - lo)) * 2 ^ lo).testBit i = (decide (lo ≤ i ∧ i ≤ hi) && v.testBit (i - lo)) := by
    rw [Nat.testBit_mul_two_pow, Nat.testBit_mod_two_pow]
    by_cases h : lo ≤ i
    · simp [h, show (i - lo < hi + 1 - lo) = (i ≤ hi) by simp; omega]
    · simp [h]
  have hk : (lo ≤ i ∧ i < lo + (hi + 1 - lo)) = (lo ≤ i ∧ i ≤ hi) := by
    rw [eq_iff_iff]
    omega
  simp only [hk] at hm
  have hx : n ≤ i → x.getLsbD i = false := BitVec.getLsbD_of_ge x i
  simp only [setSlice, BitVec.getLsbD_or, BitVec.getLsbD_and, BitVec.getLsbD_not, BitVec.getLsbD_ofNat, hm, hv]
  by_cases h : lo ≤ i ∧ i ≤ hi
  · simp [h]
  · rw [if_neg h]
    by_cases hn : i < n
    · simp [h, hn]
    · simp [hn, hx (by omega)]

/-- The field just replaced. -/
theorem slice_setSlice_same {n : Nat} (x : BitVec n) {hi lo : Nat} (v : Nat) (h : hi < n) :
    slice (setSlice x hi lo v) hi lo = v % 2 ^ (hi + 1 - lo) := by
  refine Nat.eq_of_testBit_eq fun i => ?_
  rw [testBit_slice, Nat.testBit_mod_two_pow, getLsbD_setSlice]
  by_cases hi' : i < hi + 1 - lo
  · simp [show lo + i ≤ hi by omega, show lo + i < n by omega]
  · simp [hi']

/-- A field apart from the one replaced. -/
theorem slice_setSlice_apart {n : Nat} (x : BitVec n) {hi lo hi' lo' : Nat} (v : Nat) (h : hi < lo' ∨ hi' < lo) :
    slice (setSlice x hi lo v) hi' lo' = slice x hi' lo' :=
  slice_congr fun i _ _ => by rw [getLsbD_setSlice, if_neg (by omega)]

/-! ### Numbers as bytes -/

theorem length_bytesLE (n v : Nat) : (bytesLE n v).length = n := by
  induction n generalizing v with
  | zero => rfl
  | succ n ih => simp [bytesLE, ih]

/-- The bytes of a number hold it again, up to their size. -/
theorem ofBytesLE_bytesLE (n v : Nat) : ofBytesLE (bytesLE n v) = v % 256 ^ n := by
  induction n generalizing v with
  | zero => simp [bytesLE, ofBytesLE, Nat.mod_one]
  | succ n ih =>
    rw [bytesLE, ofBytesLE, ih, Nat.pow_succ', Nat.mod_mul, BitVec.toNat_ofNat, Nat.mod_mod]

/-! ### A range of memory replaced -/

/-- Reading through two tables, the first before the second. -/
theorem tfind_append {α : Type} (t u : Tbl α) (k : Nat) : tfind (t ++ u) k = (tfind t k).or (tfind u k) := by
  induction t with
  | nil => simp [tfind]
  | cons e t ih =>
    rw [List.cons_append, tfind_cons, tfind_cons]
    split
    · rfl
    · exact ih

/-- Keys that a filter keeps are found as before, the others not at all. -/
theorem tfind_filter_key {α : Type} (t : Tbl α) (p : Nat → Bool) (k : Nat) :
    tfind (t.filter fun e => p e.1) k = if p k then tfind t k else none := by
  induction t with
  | nil => simp [tfind]
  | cons e t ih =>
    rw [List.filter_cons]
    by_cases he : e.1 = k
    · subst he
      by_cases hp : p e.1
      · simp [hp, tfind_cons]
      · simp [hp, ih]
    · by_cases hp : p e.1
      · simp [hp, tfind_cons, he, ih]
      · simp [hp, tfind_cons, he, ih]

/-- Keys moved up by a. -/
theorem tfind_map_add {α : Type} (t : Tbl α) (a k : Nat) :
    tfind (t.map fun e => (a + e.1, e.2)) k = if a ≤ k then tfind t (k - a) else none := by
  induction t with
  | nil => simp [tfind]
  | cons e t ih =>
    rw [List.map_cons, tfind_cons, ih, tfind_cons]
    by_cases h : a ≤ k
    · simp only [h, if_true]
      simp only [show (a + e.1 = k) = (e.1 = k - a) by simp; omega]
    · simp [h]
      omega

/-- Each byte of memory after a range is replaced. -/
theorem memByte_memBlit (m src : Mem) (a n k : Nat) :
    memByte (memBlit m a n src) k = if a ≤ k ∧ k < a + n then memByte src (k - a) else memByte m k := by
  have hl := tfind_filter_key m (fun i => decide (i < a)) k
  have hs := tfind_filter_key src (fun i => decide (i < n)) (k - a)
  have hr := tfind_filter_key m (fun i => decide (a + n ≤ i)) k
  unfold memByte tget memBlit
  rw [tfind_append, tfind_append, tfind_map_add, hl, hs, hr]
  rcases Nat.lt_or_ge k a with h | h
  · simp [h, show ¬ a ≤ k by omega, show ¬ a + n ≤ k by omega]
  · by_cases h' : k < a + n
    · simp [h, h', show ¬ k < a by omega, show k - a < n by omega, show ¬ a + n ≤ k by omega]
    · simp [h', show ¬ k < a by omega, show ¬ k - a < n by omega, show a + n ≤ k by omega]

/-- Bytes that agree one by one. -/
theorem memBytes_congr {m m' : Mem} {a a' n : Nat} (h : ∀ i < n, memByte m (a + i) = memByte m' (a' + i)) :
    memBytes m a n = memBytes m' a' n := by
  induction n generalizing a a' with
  | zero => rfl
  | succ n ih =>
    rw [memBytes, memBytes, ih fun i hi => ?_]
    · rw [show memByte m a = memByte m' a' from h 0 (by omega)]
    · rw [Nat.add_assoc, Nat.add_assoc]
      rw [Nat.add_comm 1 i]
      exact h (i + 1) (by omega)

/-- The range just replaced. -/
theorem memBytes_memBlit_same (m src : Mem) (a n : Nat) : memBytes (memBlit m a n src) a n = memBytes src 0 n :=
  memBytes_congr fun i hi => by rw [memByte_memBlit, if_pos (by omega)]; simp

/-- The bytes outside a range that is replaced. -/
theorem memByte_memBlit_outside (m src : Mem) (a n k : Nat) (h : k < a ∨ a + n ≤ k) :
    memByte (memBlit m a n src) k = memByte m k := by
  rw [memByte_memBlit, if_neg (by omega)]

/-! ### Folds -/

/-- What every step of a fold keeps, the fold keeps. -/
theorem foldl_keeps {σ α β : Type} (p : σ → β) (f : σ → α → σ) (h : ∀ s a, p (f s a) = p s) (l : List α) (s : σ) :
    p (l.foldl f s) = p s := by
  induction l generalizing s with
  | nil => rfl
  | cons a l ih => rw [List.foldl_cons, ih, h]

/-! ### Clusters, ports and messages -/

variable (s : State)

theorem State.cluster_onCluster (k c : Nat) (f : Cluster → Cluster) :
    (s.onCluster k f).cluster c = if c = k then f (s.cluster c) else s.cluster c := by
  split
  · next h => subst h; exact tget_tset_self ..
  · next h => exact tget_tset_ne _ _ _ h

@[simp] theorem State.port_onPort_self (p : Nat) (f : PortLink → PortLink) : (s.onPort p f).port p = f (s.port p) := tget_tset_self ..
@[simp] theorem State.port_onPort_ne {p q : Nat} (f : PortLink → PortLink) (h : q ≠ p) : (s.onPort p f).port q = s.port q :=
  tget_tset_ne _ _ _ h
@[simp] theorem State.setMreg_port (off : Nat) (w : Word) (p : Nat) : (s.setMreg off w).port p = s.port p := rfl
@[simp] theorem State.post_port (m : Msg) (p : Nat) : (s.post m).port p = s.port p := rfl

/-- A message just sent is on its way. -/
theorem State.mem_post_inflight (m : Msg) : (s.mcyc + 17, m) ∈ (s.post m).inflight := by
  simp [State.post, State.postAt]

end Sys2Proof.Machine
end

section
/-! SUPPORT. What the operations of the package leave alone and what they change: retired units, clocks, error logs, stops, ports
(R453 to R465, R481 to R487). -/

namespace Sys2Proof.Machine

variable (s : State)

/-! ### Retired units (R465) -/

/-- A unit's bit in the retirement words after one unit has been retired. -/
theorem retiredWord_retireUnit (u o j : Nat) (h : (retiredWord s o).getLsbD j = true ∨ (o = unitOctet u ∧ j = retireBit u ∧ j < 32)) :
    (retiredWord (retireUnit u s) o).getLsbD j = true := by
  by_cases ho : o = unitOctet u
  · subst ho
    have hw : retiredWord (retireUnit u s) (unitOctet u) = setBit (retiredWord s (unitOctet u)) (retireBit u) true := tget_tset_self ..
    rw [hw, getLsbD_setBit]
    split
    · next hj =>
      subst hj
      rcases h with h | ⟨_, _, h⟩
      · simpa using BitVec.lt_of_getLsbD h
      · simpa using h
    · next hj => exact h.resolve_right fun ⟨_, hj', _⟩ => hj hj'
  · have hw : retiredWord (retireUnit u s) o = retiredWord s o := tget_tset_ne _ _ _ ho
    rw [hw]
    exact h.resolve_right fun ⟨ho', _⟩ => ho ho'

theorem retireBit_lt (u : Nat) : retireBit u < 32 := by
  unfold retireBit
  split <;> omega

/-- Retiring units one after another: every unit of the list is retired in the end. -/
theorem retiredWord_retireUnits (us : List Nat) (o j : Nat)
    (h : (retiredWord s o).getLsbD j = true ∨ ∃ u ∈ us, o = unitOctet u ∧ j = retireBit u) :
    (retiredWord (us.foldl (fun s u => retireUnit u s) s) o).getLsbD j = true := by
  induction us generalizing s with
  | nil => simpa using h
  | cons v us ih =>
    refine ih _ ?_
    rcases h with h | ⟨u, hu, ho, hj⟩
    · exact .inl (retiredWord_retireUnit s v o j (.inl h))
    · rcases List.mem_cons.1 hu with rfl | hu
      · exact .inl (retiredWord_retireUnit s u o j (.inr ⟨ho, hj, hj ▸ retireBit_lt u⟩))
      · exact .inr ⟨u, hu, ho, hj⟩

/-- Retiring units changes the defect map alone. -/
theorem retireUnits_frame (us : List Nat) :
    us.foldl (fun s u => retireUnit u s) s = { s with defect := (us.foldl (fun s u => retireUnit u s) s).defect } := by
  induction us generalizing s with
  | nil => rfl
  | cons u us ih => exact ih _

/-! ### Clocks and error logs (R463, R486, R487) -/

/-- Stretching every clock changes clusters alone. -/
theorem stretchClocks_frame (on : Bool) (cs : List Nat) :
    cs.foldl (fun s c => s.onCluster c fun x => { x with stretched := on }) s =
      { s with clusters := (cs.foldl (fun s c => s.onCluster c fun x => { x with stretched := on }) s).clusters } := by
  induction cs generalizing s with
  | nil => rfl
  | cons c cs ih => exact ih _

/-- The clocks of the listed clusters are stretched or not as told, the others as before. -/
theorem stretched_stretchClocks (on : Bool) (cs : List Nat) (c : Nat) :
    ((cs.foldl (fun s c => s.onCluster c fun x => { x with stretched := on }) s).cluster c).stretched =
      if c ∈ cs then on else (s.cluster c).stretched := by
  induction cs generalizing s with
  | nil => rfl
  | cons d cs ih =>
    rw [List.foldl_cons, ih, State.cluster_onCluster]
    by_cases hc : c = d <;> by_cases hm : c ∈ cs <;> simp [hc, hm]

theorem stretchAll_frame (on : Bool) : stretchAll on s = { s with clusters := (stretchAll on s).clusters } :=
  stretchClocks_frame s on _

theorem stretched_stretchAll (on : Bool) {c : Nat} (h : c < 32) : ((stretchAll on s).cluster c).stretched = on := by
  rw [stretchAll, stretched_stretchClocks, if_pos (by simpa [upTo] using h)]

/-- An open entry of the log takes a free value and changes die 0 alone. -/
theorem logOpen_frame : logOpen s = { s with free := s.free + 1, dies := (logOpen s).dies } := rfl

/-! ### Stops (R453) -/

/-- A stop takes no event from outside. -/
@[simp] theorem stopCore_inputs (reason src seq c : Nat) : (stopCore reason src seq c s).inputs = s.inputs := by
  unfold stopCore
  dsimp only
  split
  · rfl
  · split
    · rfl
    · exact foldl_keeps State.inputs (fun s k => s.onSlot k stopSlot) (fun _ _ => rfl) _ _

@[simp] theorem stopSpan_inputs (ctx : Nat) (cores : List Nat) (reason src : Nat) :
    (stopSpan ctx cores reason src s).inputs = s.inputs := by
  unfold stopSpan
  split
  · rfl
  · exact foldl_keeps State.inputs _ (fun s c => stopCore_inputs s reason src _ c) _ _

@[simp] theorem stopPartition_inputs (ctx reason src : Nat) : (stopPartition ctx reason src s).inputs = s.inputs :=
  stopSpan_inputs ..

/-! ### Ports (R481 to R485) -/

@[simp] theorem showPort_port (p q : Nat) : (showPort p s).port q = s.port q := rfl

/-- UP of `portstat` shows whether the link is trained. -/
theorem mreg_showPort_up (p : Nat) : ((showPort p s).mreg (portReg p + 8)).getLsbD 63 = (s.port p).up := by
  have hd : Nat.min (s.port p).drops (2 ^ 32 - 1) < 2 ^ 63 := lt_of_le_of_lt (Nat.min_le_right _ _) (by norm_num)
  rw [showPort, State.mreg_setMreg_self, BitVec.getLsbD_ofNat]
  generalize Nat.min (s.port p).drops (2 ^ 32 - 1) = d at hd ⊢
  cases (s.port p).up
  · rw [if_neg (by decide), Nat.zero_add, Nat.testBit_lt_two_pow hd, Bool.and_false]
  · rw [if_pos rfl, Nat.testBit_two_pow_add_eq, Nat.testBit_lt_two_pow hd]
    rfl

@[simp] theorem logOpen_port (p : Nat) : (logOpen s).port p = s.port p := rfl

/-- A payload discarded counts at its port. -/
theorem discardPayload_port_self (p : Nat) : (discardPayload p s).port p = { s.port p with drops := (s.port p).drops + 1 } := by
  rw [discardPayload, logOpen_port, dropPayload, showPort_port, State.port_onPort_self]

@[simp] theorem deliverDue_port (p q : Nat) : (deliverDue p s).port q = s.port q := by
  unfold deliverDue
  split <;> rfl

/-- A delivery is on its way where the queue holds the next payload of a stream. -/
theorem mem_inflight_deliverDue {p : Nat} {y : Payload} (hy : y ∈ (s.port p).queue) (hn : isNext (s.port p) y = true) :
    (s.mcyc + 17, evt .streamPayloadDelivery p 0 0) ∈ (deliverDue p s).inflight := by
  rw [deliverDue, if_pos (List.any_eq_true.2 ⟨y, hy, hn⟩)]
  exact State.mem_post_inflight s _

/-- A payload of a kind other than 1 to 4 is discarded; one of copy data is taken without effect (log 34). -/
theorem deliverPayload_other (p : Nat) {y : Payload} (h : y.kind = 0 ∨ 3 < y.kind) :
    deliverPayload p y s = (true, if y.kind = 4 then s else discardPayload p s) := by
  unfold deliverPayload
  split
  · omega
  · omega
  · omega
  · next h4 => rw [if_pos h4]
  · next h4 => rw [if_neg h4]

end Sys2Proof.Machine
end

section
/-! The events of the package: reset, start-up, power and heat (R5, R476, R486, R487), the registers of the management block (R412, R470 to
R472, R483, R485), and what a port receives (R481, R482, R485). One lemma per clause of the statement `Obligations.PackageEvents`. -/

namespace Sys2Proof.Machine

variable (s : State)

/-! ### Reset, start-up, power and heat -/

theorem happens_packageReset : Happens .packageReset s (resetPackage s) := rfl

/-- With bad firmware the start-up ends in recovery. -/
theorem happens_powerUpSequence_recovery (h : s.arg.a ≠ 1) :
    Happens .powerUpSequence s { resetPackage s with power := { (resetPackage s).power with boot := 1 } } := by
  simp [Happens, exec, execPowerUpSequence, event, h]

/-- The defect map after a start-up, before the self-tests: what flash holds if its signature is good, and otherwise nothing. -/
def mapRead : State := if s.arg.b = 1 then resetPackage s else { resetPackage s with defect := [] }

/-- The state once the units that fail their self-test are retired. -/
def tested : State := (s.arg.l.filter unitExists).foldl (fun s u => retireUnit u s) (mapRead s)

/-- With good firmware the start-up offers the features and retires the units that fail. -/
theorem happens_powerUpSequence (h : s.arg.a = 1) :
    Happens .powerUpSequence s { (tested s).setMreg 0 featOffered with power := { (tested s).power with boot := 2 } } := by
  simp [Happens, exec, execPowerUpSequence, event, h, tested, mapRead]

theorem tested_frame : tested s = { resetPackage s with defect := (tested s).defect } := by
  have hm : mapRead s = { resetPackage s with defect := (mapRead s).defect } := by unfold mapRead; split <;> rfl
  rw [tested, retireUnits_frame, hm]

theorem startUp_fields (h : s.arg.a = 1) : ∃ t, Happens .powerUpSequence s t ∧ t.power.boot = 2 ∧ t.mreg 0 = 0x3fffff#64 ∧
    t.slots = [] ∧ t.mem = [] ∧
    (∀ u ∈ s.arg.l, unitExists u = true → (retiredWord t (unitOctet u)).getLsbD (retireBit u) = true) ∧
    (s.arg.l = [] → t.defect = if s.arg.b = 1 then s.defect else []) := by
  refine ⟨_, happens_powerUpSequence s h, rfl, tget_tset_self .., ?_, ?_, ?_, ?_⟩
  · show (tested s).slots = []
    rw [tested_frame]; rfl
  · show (tested s).mem = []
    rw [tested_frame]; rfl
  · intro u hu he
    exact retiredWord_retireUnits _ _ _ _ (.inr ⟨u, List.mem_filter.2 ⟨hu, he⟩, rfl, rfl⟩)
  · intro hl
    show (tested s).defect = _
    rw [tested, hl]
    show (mapRead s).defect = _
    unfold mapRead
    split <;> rfl

theorem droop_fields : ∃ t, Happens .supplyDroopStretch s t ∧ t = { s with clusters := t.clusters } ∧ ∀ c, t.cluster c =
    if c = s.arg.k then { s.cluster c with stretched := s.arg.b != 0 } else s.cluster c :=
  ⟨_, rfl, rfl, fun _ => State.cluster_onCluster ..⟩

/-- Heat or its end: every clock is stretched or not, and the log of die 0 takes an entry. -/
theorem happens_thermalThrottle : Happens .thermalThrottle s
    (if s.arg.b != 0 then logOpen (stretchAll (s.arg.b != 0) { s with power := { s.power with throttled := s.arg.b != 0 } })
      else stretchAll (s.arg.b != 0) { s with power := { s.power with throttled := s.arg.b != 0 } }) := rfl

theorem heat_fields : ∃ t, Happens .thermalThrottle s t ∧ t.power.throttled = (s.arg.b != 0) ∧
    (∀ c, c < 32 → (t.cluster c).stretched = (s.arg.b != 0)) ∧ t.slots = s.slots ∧ t.mem = s.mem ∧ t.cores = s.cores := by
  refine ⟨_, happens_thermalThrottle s, ?_⟩
  have hf := stretchAll_frame { s with power := { s.power with throttled := s.arg.b != 0 } } (s.arg.b != 0)
  have hc := fun c (h : c < 32) => stretched_stretchAll { s with power := { s.power with throttled := s.arg.b != 0 } } (s.arg.b != 0) h
  generalize stretchAll (s.arg.b != 0) _ = u at hf hc ⊢
  have hu : u.power.throttled = (s.arg.b != 0) ∧ u.slots = s.slots ∧ u.mem = s.mem ∧ u.cores = s.cores := by
    rw [hf]
    exact ⟨rfl, rfl, rfl, rfl⟩
  obtain ⟨hp, hs, hm, hk⟩ := hu
  split
  · rw [logOpen_frame]; exact ⟨hp, hc, hs, hm, hk⟩
  · exact ⟨hp, hc, hs, hm, hk⟩

/-- The state once every partition is stopped for a reason to which R456 gives no code. -/
def partitionsStopped : State :=
  s.ctxs.foldl (fun t e => stopPartition e.1 ((Config.freeWord s.free).toNat % 256) 0xffff t) { s with free := s.free + 1 }

theorem partitionsStopped_inputs : (partitionsStopped s).inputs = s.inputs :=
  foldl_keeps State.inputs _ (fun t (e : Nat × Ctx) => stopPartition_inputs t e.1 _ _) _ _

theorem happens_thermalShutdown : Happens .thermalShutdown s
    { partitionsStopped s with power := { (partitionsStopped s).power with boot := 3 } } := rfl

/-- Shutdown leaves the package off, with what comes from outside as before. -/
theorem shutdown_fields : ∃ t, Happens .thermalShutdown s t ∧ t.power.boot = 3 ∧ t.inputs = s.inputs ∧
    ((∀ m ∈ s.inputs, m.ev ≠ .powerUpSequence) → PoweredOff t) := by
  have hi := partitionsStopped_inputs s
  exact ⟨_, happens_thermalShutdown s, rfl, hi, fun h => ⟨rfl, fun m hm => h m (hi ▸ hm)⟩⟩

theorem not_poweredOff_reset : ¬ PoweredOff State.reset := fun h => absurd h.1 (by decide)

theorem portLinkTrained_fields : ∃ t, Happens .portLinkTrained s t ∧ (t.port s.arg.k).up = (s.arg.b != 0) ∧
    (t.mreg (portReg s.arg.k + 8)).getLsbD 63 = (s.arg.b != 0) ∧ (t.port s.arg.k).queue = (s.port s.arg.k).queue ∧
    ∀ q, q ≠ s.arg.k → t.port q = s.port q := by
  refine ⟨_, rfl, ?_, ?_, ?_, fun q hq => ?_⟩
  · rw [showPort_port, State.port_onPort_self]
  · rw [mreg_showPort_up, State.port_onPort_self]
  · rw [showPort_port, State.port_onPort_self]
  · rw [showPort_port, State.port_onPort_ne _ _ hq]

/-! ### Registers of the management block -/

theorem pfOnly_other {f : State → State} (h : s.arg.c ≠ 0) : pfOnly f s = s := if_neg h
theorem pfOnly_physical {f : State → State} (h : s.arg.c = 0) : pfOnly f s = f s := if_pos h

/-- A virtual function's write of a register of the physical function has no effect. -/
theorem pfRegisters_keep (h : s.arg.c ≠ 0) :
    ∀ e ∈ [Instr.featlockWrite, .tweightWrite, .portcfgWrite, .streamTableWrite], Happens e s s := by
  have hk : ∀ f : State → State, event (pfOnly f) s = .next s := fun f => congrArg _ (pfOnly_other s h)
  simp only [List.forall_mem_cons, List.not_mem_nil, false_imp_iff, implies_true, and_true]
  exact ⟨hk _, hk _, hk _, hk _⟩

/-- A write of a register that has no event of its own, by what wrote it. -/
theorem happens_registerWrite : Happens .registerWrite s
    (if s.arg.b = 2 then registerPut s.arg.a s.arg.bytes s
      else if s.arg.b = 1 then owlRegister s.arg.a s.arg.w s else pfOnly (fun s => registerWrite s.arg.a s.arg.w s) s) := rfl

theorem happens_registerWrite_bytes (h : s.arg.b = 2) : Happens .registerWrite s (registerPut s.arg.a s.arg.bytes s) := by
  simpa only [if_pos h] using happens_registerWrite s

theorem happens_registerWrite_owl {t : State} (h : s.arg.b = 1) (ht : owlRegister s.arg.a s.arg.w s = t) : Happens .registerWrite s t := by
  simpa only [h, ht, if_true, OfNat.one_ne_ofNat, if_false] using happens_registerWrite s

theorem happens_registerWrite_other (h1 : s.arg.b ≠ 1) (h2 : s.arg.b ≠ 2) (hc : s.arg.c ≠ 0) : Happens .registerWrite s s := by
  simpa only [h1, h2, if_false, pfOnly_other s hc] using happens_registerWrite s

theorem happens_registerWrite_block {t : State} (h1 : s.arg.b ≠ 1) (h2 : s.arg.b ≠ 2) (hc : s.arg.c = 0)
    (ht : registerWrite s.arg.a s.arg.w s = t) : Happens .registerWrite s t := by
  simpa only [h1, h2, if_false, pfOnly_physical s hc, ht] using happens_registerWrite s

/-- What the host reads while the machine has not started, and what a virtual function reads outside its own registers. -/
theorem hostRead_zero (n off : Nat) :
    (s.power.boot ≠ 2 → hostRead n off s = (if n = 0 ∧ s.power.boot = 1 ∧ off = 0 then s.power.mailbox else 0, s)) ∧
    (s.power.boot = 2 → 0 < n → n < 65 → (∀ i c, tenantRegister off = some i → tfind s.ctxs i = some c → c.tenant + 1 ≠ n ∨ c.hv = true) →
      hostRead n off s = (0, s)) := by
  constructor
  · intro hb
    simp [hostRead, hb, and_assoc]
  · intro hb h0 h65 hctx
    unfold hostRead
    rw [if_neg (by simp [hb]), if_neg (by omega), if_neg (by omega)]
    split
    · next i hi =>
      refine if_neg ?_
      cases hf : tfind s.ctxs i with
      | none => simp
      | some c => rcases hctx i c hi hf with h | h <;> simp [h]
    · rfl

theorem happens_featlockWrite (hc : s.arg.c = 0) :
    Happens .featlockWrite s (wakeFirmware (s.setMreg 0x40 ((s.mreg 0x40 ||| s.arg.w) &&& 1))) :=
  congrArg Host.Outcome.next (pfOnly_physical s hc)

theorem featlockWrite_fields (hc : s.arg.c = 0) : ∃ t, Happens .featlockWrite s t ∧ t.mreg 0x40 = (s.mreg 0x40 ||| s.arg.w) &&& 1#64 ∧
    (s.mcyc + 17, evt .tenantTurn 0 0 0) ∈ t.inflight ∧ ∀ r, r ≠ 0x40 → t.mreg r = s.mreg r :=
  ⟨_, happens_featlockWrite s hc, State.mreg_setMreg_self .., State.mem_post_inflight _ _, fun _ hr => State.mreg_setMreg_ne _ _ hr⟩

theorem happens_tweightWrite (hc : s.arg.c = 0) : Happens .tweightWrite s
    (if slice s.arg.w 7 0 = 0 then s else s.setMreg (0x30000 + 8 * s.arg.k) (BitVec.ofNat 64 (slice s.arg.w 7 0))) :=
  congrArg Host.Outcome.next (pfOnly_physical s hc)

theorem tweightWrite_zero (hc : s.arg.c = 0) (h : slice s.arg.w 7 0 = 0) : Happens .tweightWrite s s := by
  simpa only [if_pos h] using happens_tweightWrite s hc

theorem tweightWrite_fields (hc : s.arg.c = 0) (h : slice s.arg.w 7 0 ≠ 0) : ∃ t, Happens .tweightWrite s t ∧
    t.mreg (0x30000 + 8 * s.arg.k) = BitVec.ofNat 64 (slice s.arg.w 7 0) ∧ ∀ r, r ≠ 0x30000 + 8 * s.arg.k → t.mreg r = s.mreg r := by
  have ht := happens_tweightWrite s hc
  rw [if_neg h] at ht
  exact ⟨_, ht, State.mreg_setMreg_self .., fun _ hr => State.mreg_setMreg_ne _ _ hr⟩

theorem happens_portcfgWrite (hc : s.arg.c = 0) : Happens .portcfgWrite s
    (if (s.mreg (portReg s.arg.k)).getLsbD 3 then
      s.setMreg (portReg s.arg.k) (setBit (s.mreg (portReg s.arg.k)) 3 (s.arg.w.getLsbD 3))
    else s.setMreg (portReg s.arg.k) (setSlice (s.arg.w &&& 0xffffff0008#64) 1 0 (transportOf s (slice s.arg.w 1 0)))) :=
  congrArg Host.Outcome.next (pfOnly_physical s hc)

/-- With EN = 1 a write of `portcfg` changes EN alone. -/
theorem portcfgWrite_enabled (hc : s.arg.c = 0) (h : (s.mreg (portReg s.arg.k)).getLsbD 3 = true) : ∃ t, Happens .portcfgWrite s t ∧
    (t.mreg (portReg s.arg.k)).getLsbD 3 = s.arg.w.getLsbD 3 ∧
    ∀ j, j ≠ 3 → (t.mreg (portReg s.arg.k)).getLsbD j = (s.mreg (portReg s.arg.k)).getLsbD j := by
  have ht := happens_portcfgWrite s hc
  rw [if_pos h] at ht
  refine ⟨_, ht, ?_, fun j hj => ?_⟩
  · rw [State.mreg_setMreg_self, getLsbD_setBit]; rfl
  · rw [State.mreg_setMreg_self, getLsbD_setBit, if_neg hj]

/-- The bits that a write of `portcfg` keeps of its value: EN and JOB. -/
theorem getLsbD_portcfgMask (w : Word) (i : Nat) (h : i = 3 ∨ (24 ≤ i ∧ i ≤ 39)) : (w &&& 0xffffff0008#64).getLsbD i = w.getLsbD i := by
  have hm : (0xffffff0008#64).getLsbD i = true := by
    rcases h with rfl | ⟨h, h'⟩
    · rfl
    · interval_cases i <;> rfl
  rw [BitVec.getLsbD_and, hm, Bool.and_true]

theorem transportOf_eq (n : Nat) : transportOf s n = if (n = 1 ∧ accepted s 17 = true) ∨ (n = 2 ∧ accepted s 18 = true) then n else 0 := by
  simp [transportOf]

theorem portcfgWrite_disabled (hc : s.arg.c = 0) (h : (s.mreg (portReg s.arg.k)).getLsbD 3 = false) : ∃ t, Happens .portcfgWrite s t ∧
    (t.mreg (portReg s.arg.k)).getLsbD 3 = s.arg.w.getLsbD 3 ∧ slice (t.mreg (portReg s.arg.k)) 39 24 = slice s.arg.w 39 24 ∧
    slice (t.mreg (portReg s.arg.k)) 1 0 =
      if (slice s.arg.w 1 0 = 1 ∧ accepted s 17 = true) ∨ (slice s.arg.w 1 0 = 2 ∧ accepted s 18 = true) then slice s.arg.w 1 0 else 0 := by
  have ht := happens_portcfgWrite s hc
  rw [if_neg (ne_true_of_eq_false h)] at ht
  refine ⟨_, ht, ?_, ?_, ?_⟩
  · rw [State.mreg_setMreg_self, getLsbD_setSlice, if_neg (by omega), getLsbD_portcfgMask _ _ (.inl rfl)]
  · rw [State.mreg_setMreg_self, slice_setSlice_apart _ _ (.inl (by omega))]
    exact slice_congr fun i h h' => getLsbD_portcfgMask _ _ (.inr ⟨h, h'⟩)
  · have hl : slice s.arg.w 1 0 < 4 := slice_lt ..
    rw [State.mreg_setMreg_self, slice_setSlice_same _ _ (by omega), transportOf_eq]
    refine Nat.mod_eq_of_lt ?_
    split <;> omega

theorem happens_streamTableWrite (hc : s.arg.c = 0) : Happens .streamTableWrite s
    (if entryUsed s s.arg.k then s
    else s.setMreg (0x38000 + 16 * s.arg.k + 8 * s.arg.a)
      (s.arg.w &&& (if s.arg.a = 0 then 0xffffffffffff000f#64 else 0xffffffffffffffdf#64))) :=
  congrArg Host.Outcome.next (pfOnly_physical s hc)

theorem streamTableWrite_used (hc : s.arg.c = 0) (h : entryUsed s s.arg.k = true) : Happens .streamTableWrite s s := by
  simpa only [if_pos h] using happens_streamTableWrite s hc

theorem streamTableWrite_fields (hc : s.arg.c = 0) (h : entryUsed s s.arg.k = false) : ∃ t, Happens .streamTableWrite s t ∧
    t.mreg (0x38000 + 16 * s.arg.k + 8 * s.arg.a) =
      s.arg.w &&& (if s.arg.a = 0 then 0xffffffffffff000f#64 else 0xffffffffffffffdf#64) := by
  have ht := happens_streamTableWrite s hc
  rw [if_neg (ne_true_of_eq_false h)] at ht
  exact ⟨_, ht, State.mreg_setMreg_self ..⟩

/-- Where the start-up has failed, a write reaches the recovery mailbox or nothing. -/
theorem registerWrite_recovery (off : Nat) (v : Word) (h : s.power.boot = 1) :
    (off ≠ 0 → registerWrite off v s = s) ∧
    (off = 0 → registerWrite off v s = { s with power := { s.power with mailbox := v } }) :=
  ⟨fun ho => (if_pos h).trans (if_neg ho), fun ho => (if_pos h).trans (if_pos ho)⟩

/-- Writes of the offered features, of the accepted ones under the lock and without it, and of the command registers. -/
theorem registerWrite_started (off : Nat) (v : Word) (h : s.power.boot ≠ 1) :
    (off < 0x20 → registerWrite off v s = s) ∧
    (0x20 ≤ off → off < 0x40 → (s.mreg 0x40).getLsbD 0 = true → registerWrite off v s = s) ∧
    (0x20 ≤ off → off < 0x40 → (s.mreg 0x40).getLsbD 0 = false → registerWrite off v s = s.setMreg off (v &&& s.mreg (off - 0x20))) ∧
    (off = 0x100 → registerWrite off v s = if (s.mreg 0x100).getLsbD 63 then s else keepFields 0x100 0x00fffffffffffeff#64 v s) ∧
    (off = 0x108 → registerWrite off v s = s.setMreg off v) ∧
    (off = 0x200 → registerWrite off v s = if (s.mreg 0x200).getLsbD 63 then s else keepFields 0x200 0xff00000000ff#64 v s) := by
  have hr : registerWrite off v s = _ := if_neg h
  rw [hr]
  refine ⟨fun ho => ?_, fun h1 h2 hl => ?_, fun h1 h2 hl => ?_, fun ho => ?_, fun ho => ?_, fun ho => ?_⟩
  · simp [show ¬ 0x20 ≤ off by omega, show off ≠ 0x100 by omega, show off ≠ 0x108 by omega, show off ≠ 0x200 by omega,
      show ¬ 0x10000 ≤ off by omega, show ¬ 0x20000 ≤ off by omega, show ¬ 0x31000 ≤ off by omega]
  · rw [if_pos (by simp [h1, h2]), if_pos hl]
  · rw [if_pos (by simp [h1, h2]), if_neg (ne_true_of_eq_false hl)]
  all_goals subst ho; rfl

/-- The writes of registers that have no event of their own, by the physical function. -/
theorem blockRegisters_clauses (h1 : s.arg.b ≠ 1) (h2 : s.arg.b ≠ 2) (hc : s.arg.c = 0) (hb : s.power.boot ≠ 1) :
    (s.arg.a < 0x20 → Happens .registerWrite s s) ∧
    (0x20 ≤ s.arg.a → s.arg.a < 0x40 → (s.mreg 0x40).getLsbD 0 = true → Happens .registerWrite s s) ∧
    (0x20 ≤ s.arg.a → s.arg.a < 0x40 → (s.mreg 0x40).getLsbD 0 = false →
      Happens .registerWrite s (s.setMreg s.arg.a (s.arg.w &&& s.mreg (s.arg.a - 0x20)))) ∧
    (s.arg.a = 0x100 → Happens .registerWrite s (if (s.mreg 0x100).getLsbD 63 then s else keepFields 0x100 0x00fffffffffffeff#64 s.arg.w s)) ∧
    (s.arg.a = 0x108 → Happens .registerWrite s (s.setMreg s.arg.a s.arg.w)) ∧
    (s.arg.a = 0x200 → Happens .registerWrite s (if (s.mreg 0x200).getLsbD 63 then s else keepFields 0x200 0xff00000000ff#64 s.arg.w s)) := by
  obtain ⟨hfeat, hlocked, hacc, hcmd, hlist, hhalt⟩ := registerWrite_started s s.arg.a s.arg.w hb
  have hw := fun {t : State} (ht : registerWrite s.arg.a s.arg.w s = t) => happens_registerWrite_block s h1 h2 hc ht
  exact ⟨fun ha => hw (hfeat ha), fun h h' hl => hw (hlocked h h' hl), fun h h' hl => hw (hacc h h' hl), fun ha => hw (hcmd ha),
    fun ha => hw (hlist ha), fun ha => hw (hhalt ha)⟩

/-! ### Owl's registers (R478) -/

theorem owlRegister_addr {off : Nat} (v : Word) (h : off = 0x008) : owlRegister off v s = { s with owl := { s.owl with addr := v } } :=
  if_pos h

theorem owlRegister_len {off : Nat} (v : Word) (h : off = 0x010) : owlRegister off v s = { s with owl := { s.owl with len := v } } := by
  subst h; rfl

/-- A doubleword of the data window is written, and every other byte of it stays. -/
theorem owlRegister_data (off : Nat) (v : Word) (h1 : 0x800 ≤ off) (h2 : off < 0x1000) :
    ofBytesLE (memBytes (owlRegister off v s).owl.data (off - 0x800) 8) = v.toNat ∧
    ∀ e, e < off - 0x800 ∨ off - 0x800 + 8 ≤ e → memByte (owlRegister off v s).owl.data e = memByte s.owl.data e := by
  have hd : (owlRegister off v s).owl.data = memBlit s.owl.data (off - 0x800) 8 (memPut [] 0 (bytesLE 8 v.toNat)) := by
    unfold owlRegister
    rw [if_neg (by omega), if_neg (by omega), if_pos (by simp [h1, h2])]
    rfl
  have hb := memBytes_memPut [] 0 (bytesLE 8 v.toNat)
  rw [length_bytesLE] at hb
  rw [hd, memBytes_memBlit_same, hb, ofBytesLE_bytesLE]
  exact ⟨Nat.mod_eq_of_lt v.isLt, fun e he => memByte_memBlit_outside _ _ _ _ _ he⟩

/-- A write of `owlcmd`: nothing while a command runs; otherwise the command that its code names starts, or ends at once with an error. -/
theorem owlRegister_cmd {off : Nat} (v : Word) (h0 : off = 0) : owlRegister off v s =
    if s.owl.cmd.getLsbD 63 then s
    else match owlEvent (slice v 7 0) with
      | none => onOwl (fun o => { o with cmd := setSlice (v &&& owlMask) 63 56 (if accepted s 21 then 3 else 1) }) s
      | some e =>
        if slice v 7 0 ≤ 2 then onOwl (fun o => { o with cmd := setSlice (v &&& owlMask) 63 56 0x80 }) s
        else (onOwl (fun o => { o with cmd := setSlice (v &&& owlMask) 63 56 0x80 }) s).post ⟨e, { Arg.reset with b := 1 }⟩ := by
  subst h0
  cases h : s.owl.cmd.getLsbD 63
  · cases ho : owlEvent (slice v 7 0) <;> simp only [owlRegister, h, ho] <;> rfl
  · simp only [owlRegister, h]; rfl

theorem owlRegister_busy {off : Nat} (v : Word) (h0 : off = 0) (h : s.owl.cmd.getLsbD 63 = true) : owlRegister off v s = s :=
  (owlRegister_cmd s v h0).trans (if_pos h)

theorem owlEvent_none {op : Nat} (h : op = 0 ∨ 12 < op) : owlEvent op = none := by
  unfold owlEvent
  split
  case h_13 => rfl
  all_goals omega

theorem owlRegister_unknown {off : Nat} (v : Word) (h0 : off = 0) (h : s.owl.cmd.getLsbD 63 = false) (ho : owlEvent (slice v 7 0) = none) :
    owlRegister off v s =
      { s with owl := { s.owl with cmd := setSlice (v &&& owlMask) 63 56 (if accepted s 21 = true then 3 else 1) } } := by
  rw [owlRegister_cmd s v h0, if_neg (ne_true_of_eq_false h), ho]
  rfl

/-- A command that the write starts: `owlcmd` shows it as busy, and its event is on its way if its outcome is Owl's own. -/
theorem owlRegister_command {off : Nat} (v : Word) (h0 : off = 0) (h : s.owl.cmd.getLsbD 63 = false) {e : Instr}
    (ho : owlEvent (slice v 7 0) = some e) :
    (owlRegister off v s).owl.cmd = setSlice (v &&& owlMask) 63 56 0x80 ∧
    (2 < slice v 7 0 → (s.mcyc + 17, ⟨e, { Arg.reset with b := 1 }⟩) ∈ (owlRegister off v s).inflight) := by
  rw [owlRegister_cmd s v h0, if_neg (ne_true_of_eq_false h), ho]
  dsimp only
  split
  · next hl => exact ⟨rfl, fun hl' => absurd hl (by omega)⟩
  · exact ⟨rfl, fun _ => State.mem_post_inflight (onOwl _ s) _⟩

/-! ### What a port receives -/

/-- A payload reaches a port: it is discarded, waits, or stands in the queue. -/
theorem happens_payloadReceive {k : Nat} {y : Payload} (hk : s.arg.k = k) (hy : payloadOf s.arg.bytes = y) : Happens .payloadReceive s
    (if ¬ (portOn s k = true ∧ s.arg.a = portJob s k) then s
    else if 4096 ≤ (s.port k).queue.length then s.post ⟨.payloadReceive, s.arg⟩
    else if 2 ^ 31 ≤ (y.seq + 2 ^ 32 - tget (s.port k).next y.flow 0) % 2 ^ 32 ∨
      ∃ z ∈ (s.port k).queue, z.flow = y.flow ∧ z.seq = y.seq then s
    else deliverDue k (s.onPort k fun x => { x with queue := x.queue ++ [y] })) := by
  subst hk hy
  simp only [Happens, exec, execPayloadReceive, event, Host.Outcome.next.injEq]
  congr 1
  · simp [imp_iff_not_or]
  · congr 1
    congr 1
    simp

/-- A payload that is neither late nor a copy stands at the end of the queue, and its delivery is due if it is the next of its stream. -/
theorem payloadReceive_queued {k : Nat} {y : Payload} (hk : s.arg.k = k) (hy : payloadOf s.arg.bytes = y)
    (hon : portOn s k = true ∧ s.arg.a = portJob s k) (hl : (s.port k).queue.length < 4096)
    (hs : ¬ 2 ^ 31 ≤ (y.seq + 2 ^ 32 - tget (s.port k).next y.flow 0) % 2 ^ 32)
    (hc : ∀ z ∈ (s.port k).queue, ¬ (z.flow = y.flow ∧ z.seq = y.seq)) :
    ∃ t, Happens .payloadReceive s t ∧ (t.port k).queue = (s.port k).queue ++ [y] ∧ (t.port k).next = (s.port k).next ∧
      (y.seq = tget (s.port k).next y.flow 0 → (s.mcyc + 17, evt .streamPayloadDelivery k 0 0) ∈ t.inflight) := by
  have ht := happens_payloadReceive s hk hy
  rw [if_neg (not_not_intro hon), if_neg (by omega), if_neg (not_or_intro hs fun ⟨z, hz, he⟩ => hc z hz he)] at ht
  refine ⟨_, ht, ?_, ?_, fun hn => mem_inflight_deliverDue _ (y := y) ?_ ?_⟩
  · rw [deliverDue_port, State.port_onPort_self]
  · rw [deliverDue_port, State.port_onPort_self]
  · rw [State.port_onPort_self]; exact List.mem_append_right _ (List.mem_singleton_self y)
  · rw [State.port_onPort_self]; exact beq_iff_eq.2 hn

theorem payloadReceive_clauses {k : Nat} {y : Payload} (hk : s.arg.k = k) (hy : payloadOf s.arg.bytes = y) :
    let x := s.port k
    let late := 2 ^ 31 ≤ (y.seq + 2 ^ 32 - tget x.next y.flow 0) % 2 ^ 32
    let on := portOn s k = true ∧ s.arg.a = portJob s k
    (¬ on → Happens .payloadReceive s s) ∧
    (on → 4096 ≤ x.queue.length → Happens .payloadReceive s (s.post ⟨.payloadReceive, s.arg⟩)) ∧
    (on → x.queue.length < 4096 → late ∨ (∃ z ∈ x.queue, z.flow = y.flow ∧ z.seq = y.seq) → Happens .payloadReceive s s) := by
  have ht := happens_payloadReceive s hk hy
  refine ⟨fun hon => ?_, fun hon hl => ?_, fun hon hl hs => ?_⟩
  · rwa [if_pos hon] at ht
  · rwa [if_neg (not_not_intro hon), if_pos hl] at ht
  · rwa [if_neg (not_not_intro hon), if_neg (by omega), if_pos hs] at ht

/-! ### What a port delivers -/

theorem streamPayloadDelivery_none {k : Nat} (hk : s.arg.k = k) (h : (s.port k).queue.find? (isNext (s.port k)) = none) :
    Happens .streamPayloadDelivery s s := by
  subst hk
  simp only [Happens, exec, execStreamPayloadDelivery, event, h]

/-- A payload that is delivered leaves the queue, and its stream moves on. -/
theorem streamPayloadDelivery_done {k : Nat} (hk : s.arg.k = k) {y : Payload} (h : (s.port k).queue.find? (isNext (s.port k)) = some y)
    {u : State} (hu : deliverPayload k y s = (true, u)) :
    Happens .streamPayloadDelivery s (deliverDue k (u.onPort k fun z =>
      { z with queue := z.queue.erase y, next := tset z.next y.flow ((y.seq + 1) % 2 ^ 32) })) := by
  subst hk
  simp only [Happens, exec, execStreamPayloadDelivery, event, h, hu, if_true]

/-- A payload that cannot be delivered lets the others go first. -/
theorem streamPayloadDelivery_stays {k : Nat} (hk : s.arg.k = k) {y : Payload} (h : (s.port k).queue.find? (isNext (s.port k)) = some y)
    {u : State} (hu : deliverPayload k y s = (false, u)) :
    Happens .streamPayloadDelivery s (deliverDue k (u.onPort k fun z => { z with queue := z.queue.erase y ++ [y] })) := by
  subst hk
  simp only [Happens, exec, execStreamPayloadDelivery, event, h, hu, Bool.false_eq_true, if_false]

/-- A payload of no kind with an effect is taken from the queue, counted as discarded unless it is copy data. -/
theorem streamPayloadDelivery_other {k : Nat} (hk : s.arg.k = k) {y : Payload} (h : (s.port k).queue.find? (isNext (s.port k)) = some y)
    (ho : y.kind = 0 ∨ 3 < y.kind) :
    ∃ t, Happens .streamPayloadDelivery s t ∧ (t.port k).queue = (s.port k).queue.erase y ∧
      tget (t.port k).next y.flow 0 = (y.seq + 1) % 2 ^ 32 ∧ (t.port k).drops = (s.port k).drops + (if y.kind = 4 then 0 else 1) := by
  have hp : ((if y.kind = 4 then s else discardPayload k s).port k) =
      { s.port k with drops := (s.port k).drops + (if y.kind = 4 then 0 else 1) } := by
    split
    · rfl
    · exact discardPayload_port_self s k
  refine ⟨_, streamPayloadDelivery_done s hk h (deliverPayload_other s k ho), ?_, ?_, ?_⟩
  · rw [deliverDue_port, State.port_onPort_self, hp]
  · rw [deliverDue_port, State.port_onPort_self, tget_tset_self]
  · rw [deliverDue_port, State.port_onPort_self, hp]

end Sys2Proof.Machine
end

section
/-! The statement on the events of the package, put together from the lemmas on each of its clauses. -/

namespace Sys2Proof.Machine

/-- Settles O60: each event by its own equation, the folds of a start-up, of a stop and of a clock by what each of their steps keeps. -/
theorem packageEvents : Obligations.PackageEvents := by
  unfold Obligations.PackageEvents
  intro s
  refine ⟨happens_packageReset s, happens_powerUpSequence_recovery s, startUp_fields s, droop_fields s, heat_fields s, shutdown_fields s,
    rfl, not_poweredOff_reset, portLinkTrained_fields s, pfRegisters_keep s,
    fun hc h1 h2 => happens_registerWrite_other s h1 h2 hc, happens_registerWrite_bytes s, hostRead_zero s, fun hc => ?registers,
    fun hb => ?owl, ?receive, ?deliver⟩
  case registers =>
    refine ⟨featlockWrite_fields s hc, tweightWrite_zero s hc, tweightWrite_fields s hc,
      ⟨portcfgWrite_enabled s hc, portcfgWrite_disabled s hc⟩, streamTableWrite_used s hc, fun hu _ => streamTableWrite_fields s hc hu,
      fun h1 h2 hb => ?_, fun h1 h2 hb => blockRegisters_clauses s h1 h2 hc hb⟩
    obtain ⟨hother, hmailbox⟩ := registerWrite_recovery s s.arg.a s.arg.w hb
    exact ⟨fun ha => happens_registerWrite_block s h1 h2 hc (hother ha), fun ha => happens_registerWrite_block s h1 h2 hc (hmailbox ha)⟩
  case owl =>
    have hw := fun {t : State} (ht : owlRegister s.arg.a s.arg.w s = t) => happens_registerWrite_owl s hb ht
    exact ⟨fun ha => hw (owlRegister_addr s _ ha), fun ha => hw (owlRegister_len s _ ha),
      fun hlo hhi => ⟨_, hw rfl, owlRegister_data s _ _ hlo hhi⟩, fun ha hbusy => hw (owlRegister_busy s _ ha hbusy),
      fun ha hidle => ⟨fun hop => hw (owlRegister_unknown s _ ha hidle (owlEvent_none hop)),
        fun e he => ⟨_, hw rfl, owlRegister_command s _ ha hidle he⟩⟩⟩
  case receive =>
    obtain ⟨hoff, hfull, hstale⟩ := payloadReceive_clauses s rfl rfl
    exact ⟨hoff, hfull, hstale, payloadReceive_queued s rfl rfl⟩
  case deliver =>
    exact ⟨streamPayloadDelivery_none s rfl, fun y hy => ⟨streamPayloadDelivery_other s rfl hy,
      fun u => ⟨streamPayloadDelivery_done s rfl hy, streamPayloadDelivery_stays s rfl hy⟩⟩⟩

end Sys2Proof.Machine
end

section
/-! SUPPORT. The decoder reads back what the encoder writes (R43 to R55): reads of fields put side by side, then the words by their
majors (R48, R55), in the order of the table of operations, whose row of a constructor is its `ctorIdx`. -/

namespace Sys2Proof

/-! ### Reading a field of a word -/

section Fields
variable {m n k : Nat}

/-- A read of two fields side by side: of the low one, of the high one, or across both. -/
@[simp] theorem extractLsb'_cat (x : BitVec m) (y : BitVec n) (h : m + n = k) (s l : Nat) :
    (cat x y h).extractLsb' s l =
      if s + l ≤ n then y.extractLsb' s l else if n ≤ s then x.extractLsb' (s - n) l else (x ++ y).extractLsb' s l := by
  split
  · next hl => exact cat_extract_low x y h s l hl
  · split
    · next hs => exact cat_extract_high x y h s l hs
    · subst h; rfl

@[simp] theorem bit_cat (x : BitVec m) (y : BitVec n) (h : m + n = k) (j : Nat) :
    bit (cat x y h) j = if j < n then bit y j else bit x (j - n) := by
  split
  · next hj => exact bit_cat_low x y h j hj
  · next hj => exact bit_cat_high x y h j (Nat.le_of_not_lt hj)

/-- Three fields side by side. -/
theorem cat_assoc {a b c : Nat} (x : BitVec a) (y : BitVec b) (z : BitVec c) (hm : b + c = m) (hk : a + m = k) (hn : a + b = n)
    (hk' : n + c = k) : cat x (cat y z hm) hk = cat (cat x y hn) z hk' := by
  subst hm hn hk
  simp [cat, BitVec.append_assoc]

@[simp] theorem bit_ofBool (b : Bool) : bit (BitVec.ofBool b) 0 = b := bit_ofBool_zero b

@[simp] theorem zero_zero (r : Except Reject Instr) : zero 0#n r = r := if_pos rfl

@[simp] theorem code_some {α : Type} (a : α) (f : α → Except Reject Instr) : code (some a) f = f a := rfl

/-- No kind of LD has the code 7, which marks a load through a window. -/
theorem LdKind.code_ne_seven (k : LdKind) : k.code ≠ 7#3 := by cases k <;> decide

end Fields

/-! ### The 32-bit words -/

/-- A chapter of the table of operations: its rows from `lo` on and below `hi`. By evaluation it excludes every other row, and a proof
about the chapter reads the fields of its own rows alone. -/
def Instr.rowIn (lo hi : Nat) (i : Instr) : Bool := lo.ble i.ctorIdx && i.ctorIdx.blt hi

section Words32
variable (sb : Bool)

/-- The scale of LEA stands in the low two bits of its func (R128). -/
theorem encodeWord_lea (c : BitVec 2) (b a d : BitVec 5) : encodeWord sb (.lea c b a d) =
    cat (16#9 + c.setWidth 9) (cat b (cat a (cat d (cat 1#6 (cat (BitVec.ofBool sb) 1#1))))) := by
  have hc : 16#9 + c.setWidth 9 = cat 4#7 c := by revert c; decide
  rw [hc]
  exact cat_assoc ..

theorem decode32_encodeWord_lea (c : BitVec 2) (b a d : BitVec 5) :
    decode32 (encodeWord sb (.lea c b a d)) = .ok (.lea c b a d) := by
  have hc : c = 0#2 ∨ c = 1#2 ∨ c = 2#2 ∨ c = 3#2 := by revert c; decide
  rcases hc with rfl | rfl | rfl | rfl <;> simp [encodeWord_lea, decode32, decMajor01]

/-- Integer instructions, branches and loops, with the majors 0x01 to 0x16. -/
theorem decode32_encodeWord_base {i : Instr} (hw : i.wf = true) (h : i.rowIn 0 59 = true) :
    decode32 (encodeWord sb i) = .ok i := by
  cases i with
  | lea c b a d => exact decode32_encodeWord_lea sb c b a d
  | jlr o a d =>
    have hd : d ≠ 0#5 := by
      rintro rfl
      exact absurd hw Bool.false_ne_true
    simp [encodeWord, decode32, decMajor13, hd]
  | _ => first
    | exact absurd h Bool.false_ne_true
    | simp only [encodeWord, decode32, decMajor01, decMajor02, decMajor03, decMajor04, decMajor05, decMajor06, decMajor07,
        decMajor08, decMajor09, decMajor0a, decMajor0b, decMajor0c, decMajor0d, decMajor0e, decMajor10, decMajor11, decMajor12,
        decMajor13, decMajor14, decMajor15, decMajor16, Cond.ofCode_code, ExtW.ofCode_code, BCond.ofCode_code, extractLsb'_cat,
        bit_cat, bit_ofBool, zero_zero, code_some, Nat.reduceAdd, Nat.reduceSub, Nat.reduceLeDiff, Nat.reduceLT, ↓reduceIte,
        BitVec.extractLsb'_eq_self, BitVec.reduceToNat, BitVec.reduceExtractLsb']

/-- Scalar floating point and the system instructions, with the majors 0x17 to 0x1f. -/
theorem decode32_encodeWord_scalarFp_system {i : Instr} (hw : i.wf = true) (h : i.rowIn 60 103 = true) :
    decode32 (encodeWord sb i) = .ok i := by
  cases i with
  | mfs n d =>
    have hn : n ≠ 0x036#12 := by
      rintro rfl
      exact absurd hw Bool.false_ne_true
    simp [encodeWord, decode32, decMajor1c, hn]
  | _ => first
    | exact absurd h Bool.false_ne_true
    | simp only [encodeWord, decode32, decMajor17, decMajor18, decMajor19, decMajor1a, decMajor1b, decMajor1c, decMajor1d,
        decMajor1e, decMajor1f, Fmt.ofCode_code, Rm.ofCode_code, Cond.ofCode_code, extractLsb'_cat, bit_cat, bit_ofBool,
        zero_zero, code_some, Nat.reduceAdd, Nat.reduceSub, Nat.reduceLeDiff, Nat.reduceLT, ↓reduceIte,
        BitVec.extractLsb'_eq_self, BitVec.reduceToNat, BitVec.reduceExtractLsb']

/-- The vector instructions, with the majors 0x20 to 0x27. -/
theorem decode32_encodeWord_vector {i : Instr} (h : i.rowIn 103 147 = true) : decode32 (encodeWord sb i) = .ok i := by
  cases i with
  | _ => first
    | exact absurd h Bool.false_ne_true
    | simp only [encodeWord, decode32, decMajor20, decMajor21, decMajor22, decMajor23, decMajor24, decMajor25, decMajor26,
        decMajor27, Rm.ofCode_code, Lanes.ofCode_code, Cond.ofCode_code, VRedOp.ofCode_code, Fmt.ofCode_code, extractLsb'_cat,
        bit_cat, bit_ofBool, zero_zero, code_some, Nat.reduceAdd, Nat.reduceSub, Nat.reduceLeDiff, Nat.reduceLT, ↓reduceIte,
        BitVec.extractLsb'_eq_self, BitVec.reduceToNat, BitVec.reduceExtractLsb']

/-- Memory accesses, with the majors 0x2c to 0x32. -/
theorem decode32_encodeWord_access {i : Instr} (h : i.rowIn 147 175 = true) : decode32 (encodeWord sb i) = .ok i := by
  cases i with
  | ld o k a d => simp [encodeWord, decode32, decMajor2c, k.code_ne_seven, LdKind.ofCode_code]
  | amo w o b a d => cases o <;> simp [encodeWord, decode32, decMajor2f, AmoOp.code, AmoOp.ofCode]
  | _ => first
    | exact absurd h Bool.false_ne_true
    | simp only [encodeWord, decode32, decMajor2c, decMajor2d, decMajor2e, decMajor2f, decMajor30, decMajor31, decMajor32,
        Sz.ofCode_code, RedOp.ofCode_code, extractLsb'_cat, bit_cat, bit_ofBool, zero_zero, code_some, Nat.reduceAdd,
        Nat.reduceSub, Nat.reduceLeDiff, Nat.reduceLT, ↓reduceIte, BitVec.extractLsb'_eq_self, BitVec.reduceToNat,
        BitVec.reduceExtractLsb']

/-- Transfers, connectors and the tile, with the majors 0x34 to 0x3b. -/
theorem decode32_encodeWord_transfer_tile {i : Instr} (h : i.rowIn 175 206 = true) : decode32 (encodeWord sb i) = .ok i := by
  cases i with
  | tmma x a => simp [encodeWord, decode32, decMajor3b, show bit 0#11 6 = false from rfl]
  | tmmaSp q x a => simp [encodeWord, decode32, decMajor3b, show bit 1#5 0 = true from rfl]
  | _ => first
    | exact absurd h Bool.false_ne_true
    | simp only [encodeWord, decode32, decMajor34, decMajor35, decMajor38, decMajor39, decMajor3a, decMajor3b, extractLsb'_cat,
        zero_zero, Nat.reduceAdd, Nat.reduceSub, Nat.reduceLeDiff, ↓reduceIte, BitVec.extractLsb'_eq_self, BitVec.reduceToNat,
        BitVec.reduceExtractLsb']

/-- Tickets, barriers, tasks and the emulation space, with the majors 0x3d to 0x3f. -/
theorem decode32_encodeWord_task {i : Instr} (h : i.rowIn 206 230 = true) : decode32 (encodeWord sb i) = .ok i := by
  cases i with
  | flushp a => simp [encodeWord, decode32, decMajor3d, show bit 672#14 13 = false from rfl]
  | flushpG a => simp [encodeWord, decode32, decMajor3d, show bit 8864#14 13 = true from rfl]
  | _ => first
    | exact absurd h Bool.false_ne_true
    | simp only [encodeWord, decode32, decMajor3d, decMajor3e, decMajor3f, extractLsb'_cat, zero_zero, Nat.reduceAdd,
        Nat.reduceSub, Nat.reduceLeDiff, ↓reduceIte, BitVec.extractLsb'_eq_self, BitVec.reduceToNat, BitVec.reduceExtractLsb']

/-- Every 32-bit word decodes to its instruction by its major. -/
theorem decode32_encodeWord {i : Instr} (hw : i.wf = true) (h : i.len = 4) : decode32 (encodeWord sb i) = .ok i := by
  cases i with
  | _ => first
    | exact absurd h (by decide : (0 : Nat) ≠ 4)
    | exact absurd h (by decide : (2 : Nat) ≠ 4)
    | exact decode32_encodeWord_base sb hw rfl
    | exact decode32_encodeWord_scalarFp_system sb hw rfl
    | exact decode32_encodeWord_vector sb rfl
    | exact decode32_encodeWord_access sb rfl
    | exact decode32_encodeWord_transfer_tile sb rfl
    | exact decode32_encodeWord_task sb rfl

end Words32

/-! ### The 16-bit words -/

/-- A field of the low half of a word. -/
theorem extractLsb'_lowHalf (w : BitVec 32) (s l : Nat) (h : s + l ≤ 16) :
    (w.extractLsb' 0 16).extractLsb' s l = w.extractLsb' s l := by
  ext i hi
  simp [show s + i < 16 by omega]

/-- Every 16-bit word decodes to its instruction by its op4 (R51, R52). -/
theorem decode16_encodeWord (sb : Bool) {i : Instr} (h : i.len = 2) : decode16 ((encodeWord sb i).extractLsb' 0 16) = .ok i := by
  simp (disch := decide) only [decode16, extractLsb'_lowHalf]
  cases i with
  | _ => first
    | exact absurd h (by decide : (0 : Nat) ≠ 2)
    | exact absurd h (by decide : (4 : Nat) ≠ 2)
    | simp [encodeWord]

/-! ### Words and bytes -/

/-- The word of an encodable instruction decodes to it, its switch marker and its length. -/
theorem decodeWord_encodeWord {sb : Bool} {i : Instr} (h : Encodable sb i) :
    decodeWord (encodeWord sb i) = .ok ⟨i, sb, i.len⟩ := by
  obtain ⟨hw, hl, h0, h1⟩ := h
  have hp : ¬((encodeWord sb i).extractLsb' 0 16 = 0x0000#16 ∨ (encodeWord sb i).extractLsb' 0 16 = 0xffff#16) :=
    not_or.2 ⟨h0, h1⟩
  rw [decodeWord, if_neg hp]
  rcases Laws.Encoding.any_instr i sb with ⟨h4, hb, hs⟩ | ⟨h2, hb, hs, -⟩ | ⟨hn, -⟩
  · simp [hb, hs, h4, hw, decode32_encodeWord sb hw h4, checked]
  · simp [hb, hs, h2, hw, decode16_encodeWord sb h2, checked]
  · exact absurd hn hl

/-- A word whose first parcel stands for 16 bits decodes by that parcel alone (R44). -/
theorem decodeWord_congr {w v : BitVec 32} (h : w.extractLsb' 0 16 = v.extractLsb' 0 16) (h0 : bit v 0 = false) :
    decodeWord w = decodeWord v := by
  have hbit : ∀ j < 16, bit w j = bit v j := fun j hj => by
    have := congrArg (fun x => x.getLsbD j) h
    simpa [hj, bit] using this
  simp only [decodeWord, h, hbit 0 (by decide), hbit 1 (by decide), h0, Bool.false_eq_true, ↓reduceIte]

/-- The low half of a word is its first parcel (R44). -/
theorem append_lowHalf (x y : BitVec 16) : (x ++ y).extractLsb' 0 16 = y :=
  (cat_extract_low x y rfl 0 16 (le_refl 16)).trans (BitVec.extractLsb'_eq_self ..)

/-- The first parcel of a list of bytes is its first two. -/
theorem wordOfBytes_lowHalf (b0 b1 : BitVec 8) (rest : List (BitVec 8)) :
    (wordOfBytes (b0 :: b1 :: rest)).extractLsb' 0 16 = b1 ++ b0 := by
  have h : ∀ x : BitVec 16, (x ++ b1 ++ b0).extractLsb' 0 16 = b1 ++ b0 := fun x => by
    rw [BitVec.append_assoc]
    exact append_lowHalf x (b1 ++ b0)
  match rest with
  | [] => exact h _
  | [_] => exact h _
  | _ :: _ :: _ => exact h _

/-- The first parcel of a word as its two bytes. -/
theorem append_bytes_lowHalf (w : BitVec 32) : w.extractLsb' 8 8 ++ w.extractLsb' 0 8 = w.extractLsb' 0 16 :=
  BitVec.extractLsb'_append_extractLsb'_eq_extractLsb' (by decide)

theorem decodeBytes_encode {sb : Bool} {i : Instr} (h : Encodable sb i) (rest : List (BitVec 8)) :
    decodeBytes (encode sb i ++ rest) = .ok ⟨i, sb, i.len⟩ := by
  rw [← decodeWord_encodeWord h, decodeBytes, encode]
  obtain ⟨-, hl, -⟩ := h
  rcases Laws.Encoding.any_instr i sb with ⟨h4, -, -⟩ | ⟨h2, hb, -, -⟩ | ⟨h0, -⟩
  · rw [h4]
    exact congrArg decodeWord (wordOfBytes_bytesOfWord _ rest)
  · rw [h2]
    exact decodeWord_congr ((wordOfBytes_lowHalf _ _ rest).trans (append_bytes_lowHalf _)) hb
  · exact absurd h0 hl

theorem length_encode (sb : Bool) (i : Instr) : (encode sb i).length = i.len := by
  have hle : i.len ≤ 4 := by
    rcases Laws.Encoding.any_instr i sb with ⟨h, -⟩ | ⟨h, -⟩ | ⟨h, -⟩ <;> omega
  simpa [encode, bytesOfWord] using hle

/-- Bit 0 of the first byte tells the length (R44). -/
theorem headD_encode {sb : Bool} {i : Instr} (hl : i.len ≠ 0) : ((encode sb i).headD 0#8).getLsbD 0 = decide (i.len = 4) := by
  have hbyte : (encodeWord sb i)[0] = bit (encodeWord sb i) 0 := rfl
  rcases Laws.Encoding.any_instr i sb with ⟨h4, hb, -⟩ | ⟨h2, hb, -⟩ | ⟨h0, -⟩
  · simp [encode, bytesOfWord, h4, hbyte, hb]
  · simp [encode, bytesOfWord, h2, hbyte, hb]
  · exact absurd h0 hl

/-- Settles O3: the round trip of the word by its majors, and what the first parcel says of the length. -/
theorem decodeInvertsEncode : Obligations.DecodeInvertsEncode := by
  unfold Obligations.DecodeInvertsEncode
  intro sb i rest h
  have ⟨_, hl, _⟩ := h
  exact ⟨decodeBytes_encode h rest, length_encode sb i, headD_encode hl⟩

theorem decodeWord_illegalParcel {w : BitVec 32} (h : w.extractLsb' 0 16 = 0x0000#16 ∨ w.extractLsb' 0 16 = 0xffff#16) :
    decodeWord w = .error .illegalParcel := if_pos h

/-- Settles O2: the written-out words by evaluation, the two illegal parcels by what stands in the low half of any word. -/
theorem wordsOfTheManualDecode : Obligations.WordsOfTheManualDecode := by
  unfold Obligations.WordsOfTheManualDecode
  refine ⟨by decide, by decide, by decide, by decide, by decide, by decide, by decide, by decide, by decide,
    fun x => ?zeros, fun x => ?ones⟩
  case zeros => exact decodeWord_illegalParcel (.inl (append_lowHalf x _))
  case ones => exact decodeWord_illegalParcel (.inr (append_lowHalf x _))

end Sys2Proof
end

section
/-! The gates before an instruction (R59 to R62) and the 16-bit arithmetic forms (R52, R140): every encoded instruction issues, and the
effect of a ready one on a general register. -/

namespace Sys2Proof.Machine

/-- Every encoded instruction issues (R59). -/
theorem exec_eq_issue {i : Instr} (h : i.len ≠ 0) : ∃ body, ∀ s, exec i s = issue i body s := by
  cases i with
  | _ => first
    | exact absurd rfl h
    | exact ⟨_, fun _ => rfl⟩

/-- A cause that a gate finds is raised with the word, and nothing else happens. -/
theorem traps_of_gateCause {i : Instr} {s : State} {c : Nat} (h : i.len ≠ 0) (hc : gateCause i s = some c) :
    Traps i s c ((encodeWord s.mark i).setWidth 64) := by
  obtain ⟨body, hb⟩ := exec_eq_issue h
  rw [Traps, hb, issue, hc]
  rfl

/-- A feature that the driver has not accepted is the first gate (R60, R62). -/
theorem gateCause_of_unaccepted {i : Instr} {s : State} (h : ∃ n ∈ featureGroups i, accepted s n = false) :
    gateCause i s = some 0x03 := by
  have hall : (featureGroups i).all (accepted s) = false := by simpa using h
  simp [gateCause, hall]

/-- The right to a privileged instruction is the second gate (R59). -/
theorem gateCause_of_privileged {i : Instr} {s : State} (h : ∀ n ∈ featureGroups i, accepted s n = true)
    (hp : privileged i = true) (hsv : s.me.sv = false) : gateCause i s = some 0x02 := by
  have hall : (featureGroups i).all (accepted s) = true := List.all_eq_true.2 h
  simp [gateCause, hall, hp, hsv]

/-- Settles O8, from the order of the gates. -/
theorem featureAndPrivilegeGates : Obligations.FeatureAndPrivilegeGates := by
  unfold Obligations.FeatureAndPrivilegeGates
  intro i s hl
  exact ⟨fun h => traps_of_gateCause hl (gateCause_of_unaccepted h),
    fun h hp hsv => traps_of_gateCause hl (gateCause_of_privileged h hp hsv)⟩

/-! ### The 16-bit arithmetic forms -/

/-- A ready instruction whose effect is on one general register writes the value that it computes from the slot. -/
theorem writes_wg_of_setG {i : Instr} {s : State} {d : BitVec 5} {f : Slot → Word} {v : Word}
    (he : exec i s = issue i (setG d f) s) (hv : f s.me = v) (h : Ready i s) : Writes i s fun sl => sl.wg d.toNat v := by
  subst hv
  exact he.trans (issue_setG h d f)

/-- The sum of two signed 64-bit sources is that of the words (R122, R125). -/
theorem resInt_add (x y : Word) : resInt false (srcInt false x + srcInt false y) = x + y := by
  simp [resInt, srcInt, ofInt, BitVec.ofInt_add]

/-- The difference of two signed 64-bit sources is that of the words (R122, R125). -/
theorem resInt_sub (x y : Word) : resInt false (srcInt false x - srcInt false y) = x - y :=
  BitVec.eq_of_toInt_eq (by simp [resInt, srcInt, ofInt, BitVec.toInt_sub])

@[simp] theorem Slot.rg_zero (sl : Slot) : sl.rg 0 = 0#64 := rfl

/-- A 5-bit immediate widened with its sign by way of 14 bits (R52). -/
theorem sext64_signExtend (imm : BitVec 5) : sext64 (imm.signExtend 14) = imm.signExtend 64 := by revert imm; decide

/-- Settles O16: each side writes one register, and the two values are equal. -/
theorem compressedFormsEqualTheirEquivalents : Obligations.CompressedFormsEqualTheirEquivalents := by
  unfold Obligations.CompressedFormsEqualTheirEquivalents
  intro s b d imm x y pair
  refine ⟨?mv, ?add, ?sub, ?addi, ?li, ?and, ?or, ?slli⟩
  case mv => exact ⟨rfl, rfl, writes_wg_of_setG rfl rfl, writes_wg_of_setG rfl ((resInt_add 0#64 x).trans (BitVec.zero_add x))⟩
  case add => exact ⟨rfl, rfl, writes_wg_of_setG rfl rfl, writes_wg_of_setG rfl (resInt_add ..)⟩
  case sub => exact ⟨rfl, rfl, writes_wg_of_setG rfl rfl, writes_wg_of_setG rfl (resInt_sub ..)⟩
  case addi => exact ⟨rfl, rfl, writes_wg_of_setG rfl rfl, writes_wg_of_setG rfl (congrArg (y + ·) (sext64_signExtend imm))⟩
  case li =>
    have hv : s.me.rg 0 + sext64 (imm.signExtend 14) = imm.signExtend 64 := by
      rw [Slot.rg_zero, BitVec.zero_add, sext64_signExtend]
    exact ⟨rfl, rfl, writes_wg_of_setG rfl rfl, writes_wg_of_setG rfl hv⟩
  case and => exact ⟨rfl, rfl, writes_wg_of_setG rfl rfl, writes_wg_of_setG rfl rfl⟩
  case or => exact ⟨rfl, rfl, writes_wg_of_setG rfl rfl, writes_wg_of_setG rfl rfl⟩
  case slli =>
    have hn : (imm.setWidth 6).toNat = imm.toNat := BitVec.toNat_setWidth_of_le (by decide)
    exact ⟨rfl, rfl, writes_wg_of_setG rfl rfl, writes_wg_of_setG rfl (congrArg (y <<< ·) hn)⟩

end Sys2Proof.Machine
end

section
/-! A step runs the decoded instruction (R44, R96): the way of a core's turn to its issue, and the first step after reset with a word
placed (log 17). -/

namespace Sys2Proof.Machine

/-- A turn of a core that has nothing else to do goes to the slot chosen to issue (R95, R96). -/
theorem coreAction_of_chosen {s : State} {c k : Nat} (hdue : coreDue s c = none) (hstop : (s.core c).stopped = false)
    (hhalt : (s.core c).halting = none)
    (hidle : ∀ j ∈ coreSlots c, interruptible s j = false ∧ entryDue s j = false ∧ releaseDue s j = false)
    (hk : chosen s c = some k) : coreAction c s = issueAction k (atIssue c k s) := by
  have hnone : ∀ p : Nat → Bool, (∀ j ∈ coreSlots c, p j = false) → (coreSlots c).find? p = none := fun p hp =>
    List.find?_eq_none.2 fun j hj => by simp [hp j hj]
  unfold coreAction
  rw [hdue, hstop, hhalt, hnone (interruptible s) fun j hj => have ⟨h, _, _⟩ := hidle j hj; h,
    hnone (entryDue s) fun j hj => have ⟨_, h, _⟩ := hidle j hj; h,
    hnone (releaseDue s) fun j hj => have ⟨_, _, h⟩ := hidle j hj; h, hk]
  rfl

/-- A slot with no timer cause to take performs what its word decodes to (R44). -/
theorem issueAction_of_fetched {s s' : State} {k n w : Nat} {f : Fetched} (ht : (s.slot k).timerDue = false)
    (hf : fetchWord k (s.slot k).pc s = .ok (n, w, s')) (hd : decodeWord (BitVec.ofNat 32 w) = .ok f) :
    issueAction k s = .perform f.i { s' with mark := f.sb } := by
  simp only [issueAction, ht, hf, hd, Bool.false_and, Bool.false_eq_true, if_false]

/-- A step of a slot that fetches is its decoded instruction: with power and nothing from outside, the step is the action of the
core whose turn it is (log 5). -/
theorem step_of_fetched {s s' : State} {c k n w : Nat} {f : Fetched} (hc : coreOf s.cur = c) (hin : s.inputs = [])
    (hp : s.power.boot ≠ 3) (ht : s.turn = false) (hdue : coreDue s c = none) (hstop : (s.core c).stopped = false)
    (hhalt : (s.core c).halting = none)
    (hidle : ∀ j ∈ coreSlots c, interruptible s j = false ∧ entryDue s j = false ∧ releaseDue s j = false)
    (hk : chosen s c = some k) (htimer : ((atIssue c k s).slot k).timerDue = false)
    (hf : fetchWord k ((atIssue c k s).slot k).pc (atIssue c k s) = .ok (n, w, s'))
    (hd : decodeWord (BitVec.ofNat 32 w) = .ok f) : step s = exec f.i { s' with mark := f.sb } := by
  have ha : nextAction s = .perform f.i { s' with mark := f.sb } := by
    simp only [nextAction, hin, hp, ht, hc, Bool.false_eq_true, if_false]
    exact (coreAction_of_chosen hdue hstop hhalt hidle hk).trans (issueAction_of_fetched htimer hf hd)
  rw [step, ha]

/-! ### Fetching a parcel (R43, R46) -/

/-- A parcel of an ordinary page, in memory that is good. -/
theorem fetchParcel_of_pa {k pa : Nat} {a : Word} {s : State} (hr : regionOf s (coreOf k) a.toNat = .memory)
    (ht : translate k .fetch a.toNat s = .pa pa) (hm : isMgmt pa = false) (hh : hasMem pa = true) (hb : lineBad s pa = false) :
    fetchParcel k a s = .ok (homeNat pa 2 s) := by
  simp [fetchParcel, hr, ht, hm, hh, hb]

/-- The low half of a word, read as two bytes at its home (R213). -/
theorem homeNat_low {w : Nat} {s : State} {v : BitVec 32} (h : homeRead w s = (v, s)) :
    homeNat (4 * w) 2 s = (v.toNat % 256 ^ 2, s) := by
  have hw : 4 * w / 4 = w := by omega
  have hn : (4 * w + 2 + 3) / 4 - w = 1 := by omega
  have h0 : 4 * w % 4 = 0 := by omega
  simp only [homeNat, homeBytes, bytesBy, hw, hn, h0, wordsBy, h]
  rw [← ofBytesLE_bytesLE]
  rfl

/-- The high half of a word, read as two bytes at its home. -/
theorem homeNat_high {w : Nat} {s : State} {v : BitVec 32} (h : homeRead w s = (v, s)) :
    homeNat (4 * w + 2) 2 s = (v.toNat / 256 / 256 % 256 ^ 2, s) := by
  have hw : (4 * w + 2) / 4 = w := by omega
  have hn : (4 * w + 2 + 2 + 3) / 4 - w = 1 := by omega
  have h2 : (4 * w + 2) % 4 = 2 := by omega
  simp only [homeNat, homeBytes, bytesBy, hw, hn, h2, wordsBy, h]
  rw [← ofBytesLE_bytesLE]
  rfl

/-- A word that no core owns, outside every format window, is read from memory. -/
theorem homeRead_of_unlisted {w : Nat} {s : State} (hh : tfind s.home w = none) (hw : windowOf s (lineOfWord w) = none) :
    homeRead w s = (BitVec.ofNat 32 (ofBytesLE (memBytes s.mem (4 * w) 4)), s) := by
  simp [homeRead, hh, homeGet, hw]

/-- A word whose parcels are fetched decodes as it stands: a first parcel of 16 bits alone, or both (R44). -/
theorem fetchWord_of_parcels {k : Nat} {a : Word} {s : State} {w : BitVec 32}
    (hlo : fetchParcel k a s = .ok (w.toNat % 256 ^ 2, s))
    (hhi : fetchParcel k (a + 2) s = .ok (w.toNat / 256 / 256 % 256 ^ 2, s)) :
    ∃ n v, fetchWord k a s = .ok (n, v, s) ∧ decodeWord (BitVec.ofNat 32 v) = decodeWord w := by
  have hlt : w.toNat < 256 ^ 4 := w.isLt
  simp only [fetchWord, hlo, hhi]
  by_cases h : w.toNat % 256 ^ 2 % 2 = 0
  · refine ⟨_, _, if_pos h, decodeWord_congr (BitVec.eq_of_toNat_eq ?_) ?_⟩
    · simp only [BitVec.extractLsb'_toNat, BitVec.toNat_ofNat, Nat.shiftRight_zero]
      omega
    · rw [bit, BitVec.getLsbD, Nat.testBit_zero, decide_eq_false_iff_not]
      omega
  · refine ⟨_, _, if_neg h, congrArg decodeWord (BitVec.eq_of_toNat_eq ?_)⟩
    rw [BitVec.toNat_ofNat]
    omega

/-! ### The first step after reset with a word placed -/

section Placed

/-- The state after reset with slot 0 of core 0 at 0x2000, and memory m (log 17). -/
def placed (m : Mem) : State := { placeWord 32 0 State.reset with mem := m }

/-- That state as slot 0 issues. -/
def placedIssue (m : Mem) : State := atIssue 0 0 (placed m)

/-- Memory with a word at 0x2000 alone. -/
def wordMem (w : BitVec 32) : Mem := memPut [] 0x2000 (wordBytes 32 w.toNat)

theorem withFetchWord_eq_placed (w : BitVec 32) : State.reset.withFetchWord 32 w.toNat = placed (wordMem w) := rfl

variable (m : Mem)

/-! What the schedule and the TLB say of this state does not look at memory. -/

theorem coreOf_placed : coreOf (placed m).cur = 0 := (rfl : _ = coreOf (placed []).cur).trans (by decide)

theorem chosen_placed : chosen (placed m) 0 = some 0 := (rfl : _ = chosen (placed []) 0).trans (by decide)

theorem idle_placed (j : Nat) (hj : j ∈ coreSlots 0) :
    interruptible (placed m) j = false ∧ entryDue (placed m) j = false ∧ releaseDue (placed m) j = false := by
  have hall : ((coreSlots 0).all fun j => !interruptible (placed m) j && !entryDue (placed m) j && !releaseDue (placed m) j) =
      true := rfl
  simpa [and_assoc] using List.all_eq_true.1 hall j hj

theorem translate_placedIssue_low : translate 0 .fetch 0x2000 (placedIssue m) = .pa (4 * 0x800) :=
  (rfl : _ = translate 0 .fetch 0x2000 (placedIssue [])).trans (by decide)

theorem translate_placedIssue_high : translate 0 .fetch 0x2002 (placedIssue m) = .pa (4 * 0x800 + 2) :=
  (rfl : _ = translate 0 .fetch 0x2002 (placedIssue [])).trans (by decide)

theorem windowOf_placedIssue : windowOf (placedIssue m) (lineOfWord 0x800) = none :=
  (rfl : _ = windowOf (placedIssue []) (lineOfWord 0x800)).trans (by decide)

/-- The step of that state performs what the fetched word decodes to. -/
theorem step_placed {n v : Nat} {f : Fetched} (hf : fetchWord 0 0x2000#64 (placedIssue m) = .ok (n, v, placedIssue m))
    (hd : decodeWord (BitVec.ofNat 32 v) = .ok f) : step (placed m) = exec f.i { placedIssue m with mark := f.sb } :=
  step_of_fetched (coreOf_placed m) rfl (by decide : 2 ≠ 3) rfl rfl rfl rfl (idle_placed m) (chosen_placed m) rfl hf hd

/-- The issuing slot of that state is slot 0, Running at 0x2000. -/
theorem me_placedIssue (b : Bool) : ({ placedIssue m with mark := b } : State).me.pc = 0x2000#64 ∧
    ({ placedIssue m with mark := b } : State).me.run = .running := ⟨rfl, rfl⟩

end Placed

/-- The word placed at 0x2000, as its home reads it. -/
theorem homeRead_placedIssue (w : BitVec 32) : homeRead 0x800 (placedIssue (wordMem w)) = (w, placedIssue (wordMem w)) := by
  have hv : BitVec.ofNat 32 (ofBytesLE (wordBytes 32 w.toNat)) = w := by
    rw [wordBytes, ofBytesLE_bytesLE, Nat.mod_eq_of_lt w.isLt, Nat.mod_eq_of_lt (b := 256 ^ 4) w.isLt,
      BitVec.ofNat_toNat, BitVec.setWidth_eq]
  have hm : memBytes (placedIssue (wordMem w)).mem (4 * 0x800) 4 = wordBytes 32 w.toNat :=
    memBytes_memPut [] 0x2000 (wordBytes 32 w.toNat)
  rw [homeRead_of_unlisted rfl (windowOf_placedIssue _), hm, hv]

theorem fetchParcel_placedIssue_low (w : BitVec 32) : fetchParcel 0 0x2000#64 (placedIssue (wordMem w)) =
    .ok (w.toNat % 256 ^ 2, placedIssue (wordMem w)) :=
  (fetchParcel_of_pa rfl (translate_placedIssue_low _) rfl rfl rfl).trans (congrArg _ (homeNat_low (homeRead_placedIssue w)))

theorem fetchParcel_placedIssue_high (w : BitVec 32) : fetchParcel 0 (0x2000#64 + 2) (placedIssue (wordMem w)) =
    .ok (w.toNat / 256 / 256 % 256 ^ 2, placedIssue (wordMem w)) :=
  (fetchParcel_of_pa rfl (translate_placedIssue_high _) rfl rfl rfl).trans (congrArg _ (homeNat_high (homeRead_placedIssue w)))

/-- Settles O1: the way of a core's turn to its issue, and that way from reset with a word placed. -/
theorem stepRunsDecodedInstruction : Obligations.StepRunsDecodedInstruction := by
  unfold Obligations.StepRunsDecodedInstruction
  refine ⟨fun s s' k n w f hin hp ht hdue hstop hhalt hidle hk htimer hf hd =>
    step_of_fetched rfl hin hp ht hdue hstop hhalt hidle hk htimer hf hd, fun w f hd => ?_⟩
  obtain ⟨n, v, hf, hv⟩ := fetchWord_of_parcels (fetchParcel_placedIssue_low w) (fetchParcel_placedIssue_high w)
  obtain ⟨hpc, hrun⟩ := me_placedIssue (wordMem w) f.sb
  rw [withFetchWord_eq_placed]
  exact ⟨_, step_placed _ hf (hv.trans hd), rfl, rfl, hpc, hrun⟩

end Sys2Proof.Machine
end

section
/-! Rounding to a whole number of units (R72, R73): the decision to round up, mode by mode, and where the rounded number lies. -/

namespace Sys2Proof.Machine

/-- A denominator stays above zero in any unit. -/
theorem Mag.inUnits_den_pos {m : Mag} (u : Int) (h : 0 < m.den) : 0 < (m.inUnits u).2 := by
  unfold Mag.inUnits
  split
  · exact h
  · exact Nat.mul_pos h (Nat.two_pow_pos _)

/-! ### The decision, mode by mode -/

section Decision
variable {rm rem b r : Nat} {neg evenLo : Bool}

@[simp] theorem roundsUp_exact (rm b r : Nat) (neg evenLo : Bool) : roundsUp rm neg evenLo 0 b false r = false := rfl

@[simp] theorem roundsUp_towardZero : roundsUp 1 neg evenLo rem b false r = false := ite_self _

variable (h : rem ≠ 0)
include h

/-- The test for an exact magnitude fails where a remainder is left. -/
theorem not_exact_of_ne : ¬ (decide (rem = 0) && !false) = true := by simpa using h

theorem roundsUp_nearestEven :
    roundsUp 0 neg evenLo rem b false r = (decide (b < 2 * rem) || (decide (2 * rem = b) && !evenLo)) :=
  if_neg (not_exact_of_ne h)

theorem roundsUp_up : roundsUp 2 neg evenLo rem b false r = !neg := if_neg (not_exact_of_ne h)

theorem roundsUp_down : roundsUp 3 neg evenLo rem b false r = neg := if_neg (not_exact_of_ne h)

theorem roundsUp_nearestAway : roundsUp 4 neg evenLo rem b false r = decide (b ≤ 2 * rem) := if_neg (not_exact_of_ne h)

/-- The mode stays a variable here, since the kernel would count 2^32 down to compare the arm of the literal 5. -/
theorem roundsUp_stochastic (hrm : rm = 5) :
    roundsUp rm neg evenLo rem b false r = decide (2 ^ 32 ≤ rem * 2 ^ 32 / b + r) := by
  unfold roundsUp
  rw [if_neg (not_exact_of_ne h)]
  split <;> trivial

end Decision

/-! ### A quotient rounded to a whole number -/

/-- Whether a / b is rounded up from its floor. -/
def quotientUp (rm : Nat) (neg : Bool) (a b r : Nat) : Bool := roundsUp rm neg (a / b % 2 = 0) (a % b) b false r

/-- a / b rounded to its floor or to one more. -/
def roundQuotient (rm : Nat) (neg : Bool) (a b r : Nat) : Nat := a / b + if quotientUp rm neg a b r then 1 else 0

/-- An exact magnitude rounded in units is its quotient rounded, inexact exactly if the units do not divide it. -/
theorem roundUnits_eq (rm : Nat) (neg : Bool) {m : Mag} (u : Int) (r : Nat) (hs : m.sticky = false) :
    roundUnits rm neg m u r = (roundQuotient rm neg (m.inUnits u).1 (m.inUnits u).2 r,
      decide (¬ (m.inUnits u).2 ∣ (m.inUnits u).1)) := by
  refine Prod.ext ?rounded ?inexact
  case rounded =>
    rw [roundQuotient, quotientUp, ← hs, add_ite]
    rfl
  case inexact => simp [roundUnits, hs, Nat.dvd_iff_mod_eq_zero]

section Quotient
variable {rm a b r : Nat} {neg : Bool}

theorem quotientUp_of_dvd (h : b ∣ a) : quotientUp rm neg a b r = false := by
  rw [quotientUp, Nat.mod_eq_zero_of_dvd h, roundsUp_exact]

/-- A mode that rounds no inexact quotient up rounds none up. -/
theorem quotientUp_toward (h : ∀ {rem b evenLo}, rem ≠ 0 → roundsUp rm neg evenLo rem b false r = false) :
    quotientUp rm neg a b r = false := by
  by_cases hd : b ∣ a
  · exact quotientUp_of_dvd hd
  · exact h (mt Nat.dvd_of_mod_eq_zero hd)

/-- The rounded quotient in terms of the remainder, which is dropped or filled up to the divisor. -/
theorem roundQuotient_mul_add_mod :
    roundQuotient rm neg a b r * b + a % b = a + if quotientUp rm neg a b r then b else 0 := by
  have hdiv := Nat.div_add_mod' a b
  rw [roundQuotient, Nat.add_mul, ite_mul, Nat.one_mul, Nat.zero_mul]
  omega

/-- A whole number is kept. -/
theorem roundQuotient_mul_of_dvd (h : b ∣ a) : roundQuotient rm neg a b r * b = a := by
  have hq := roundQuotient_mul_add_mod (rm := rm) (neg := neg) (a := a) (b := b) (r := r)
  rwa [quotientUp_of_dvd h, Nat.mod_eq_zero_of_dvd h] at hq

theorem roundQuotient_eq_or : roundQuotient rm neg a b r = a / b ∨ roundQuotient rm neg a b r = a / b + 1 := by
  unfold roundQuotient
  split
  · exact .inr rfl
  · exact .inl rfl

/-- Rounding down gives the greatest whole number at or below the quotient. -/
theorem roundQuotient_floor (hb : 0 < b) (h : quotientUp rm neg a b r = false) :
    roundQuotient rm neg a b r * b ≤ a ∧ a < (roundQuotient rm neg a b r + 1) * b := by
  have hq := roundQuotient_mul_add_mod (rm := rm) (neg := neg) (a := a) (b := b) (r := r)
  have hlt := Nat.mod_lt a hb
  rw [h, if_neg Bool.false_ne_true] at hq
  rw [Nat.succ_mul]
  omega

/-- Rounding every inexact quotient up gives the least whole number at or above it. -/
theorem roundQuotient_ceil (hb : 0 < b) (h : a % b ≠ 0 → quotientUp rm neg a b r = true) :
    a ≤ roundQuotient rm neg a b r * b ∧ roundQuotient rm neg a b r * b < a + b := by
  by_cases hd : b ∣ a
  · rw [roundQuotient_mul_of_dvd hd]
    omega
  · have hne : a % b ≠ 0 := mt Nat.dvd_of_mod_eq_zero hd
    have hq := roundQuotient_mul_add_mod (rm := rm) (neg := neg) (a := a) (b := b) (r := r)
    have hlt := Nat.mod_lt a hb
    rw [h hne, if_pos rfl] at hq
    omega

/-- To nearest even: no other whole number is nearer, and at equal distances the number is even (R72). -/
theorem roundQuotient_nearestEven (hb : 0 < b) :
    2 * a ≤ 2 * (roundQuotient 0 neg a b r * b) + b ∧ 2 * (roundQuotient 0 neg a b r * b) ≤ 2 * a + b ∧
      (2 * a = 2 * (roundQuotient 0 neg a b r * b) + b ∨ 2 * (roundQuotient 0 neg a b r * b) = 2 * a + b →
        roundQuotient 0 neg a b r % 2 = 0) := by
  by_cases hd : b ∣ a
  · rw [roundQuotient_mul_of_dvd hd]
    omega
  · have hne : a % b ≠ 0 := mt Nat.dvd_of_mod_eq_zero hd
    have hlt := Nat.mod_lt a hb
    have hq := roundQuotient_mul_add_mod (rm := 0) (neg := neg) (a := a) (b := b) (r := r)
    have hdef : roundQuotient 0 neg a b r = a / b + if quotientUp 0 neg a b r then 1 else 0 := rfl
    cases h : quotientUp 0 neg a b r with
    | false =>
      rw [h, if_neg Bool.false_ne_true] at hq hdef
      simp [quotientUp, roundsUp_nearestEven hne] at h
      omega
    | true =>
      rw [h, if_pos rfl] at hq hdef
      simp [quotientUp, roundsUp_nearestEven hne] at h
      omega

/-- To nearest away: no other whole number is nearer, and at equal distances the number is the upper one (R72). -/
theorem roundQuotient_nearestAway (hb : 0 < b) :
    2 * a < 2 * (roundQuotient 4 neg a b r * b) + b ∧ 2 * (roundQuotient 4 neg a b r * b) ≤ 2 * a + b := by
  by_cases hd : b ∣ a
  · rw [roundQuotient_mul_of_dvd hd]
    omega
  · have hne : a % b ≠ 0 := mt Nat.dvd_of_mod_eq_zero hd
    have hlt := Nat.mod_lt a hb
    have hq := roundQuotient_mul_add_mod (rm := 4) (neg := neg) (a := a) (b := b) (r := r)
    cases h : quotientUp 4 neg a b r with
    | false =>
      rw [h, if_neg Bool.false_ne_true] at hq
      simp [quotientUp, roundsUp_nearestAway hne] at h
      omega
    | true =>
      rw [h, if_pos rfl] at hq
      simp [quotientUp, roundsUp_nearestAway hne] at h
      omega

/-- Stochastic rounding takes the upper neighbour exactly if the fraction in units of 2^-32 and the draw reach 2^32 (R73). -/
theorem roundQuotient_stochastic (hd : ¬ b ∣ a) :
    roundQuotient 5 neg a b r = a / b + 1 ↔ 2 ^ 32 ≤ a % b * 2 ^ 32 / b + r := by
  have hne : a % b ≠ 0 := mt Nat.dvd_of_mod_eq_zero hd
  rw [roundQuotient, Nat.add_left_cancel_iff, ite_eq_left_iff, quotientUp, roundsUp_stochastic hne rfl, decide_eq_true_iff]
  exact ⟨fun h => of_not_not fun hn => absurd (h hn) (by decide), fun h hn => absurd h hn⟩

end Quotient

/-- Settles O22, from the decision to round up and the place of the rounded quotient. -/
theorem roundingOfUnitsIsCorrect : Obligations.RoundingOfUnitsIsCorrect := by
  unfold Obligations.RoundingOfUnitsIsCorrect
  intro rm neg m u r hs hden
  have hb := Mag.inUnits_den_pos u hden
  rw [roundUnits_eq rm neg u r hs]
  refine ⟨hb, rfl, roundQuotient_mul_of_dvd, roundQuotient_eq_or, ?zero, ?up, ?down, ?even, ?away, ?stochastic⟩
  case zero =>
    rintro rfl
    exact roundQuotient_floor hb roundsUp_towardZero
  case up =>
    rintro rfl
    cases neg with
    | true => exact roundQuotient_floor hb (quotientUp_toward roundsUp_up)
    | false => exact roundQuotient_ceil hb roundsUp_up
  case down =>
    rintro rfl
    cases neg with
    | true => exact roundQuotient_ceil hb roundsUp_down
    | false => exact roundQuotient_floor hb (quotientUp_toward roundsUp_down)
  case even =>
    rintro rfl
    exact roundQuotient_nearestEven hb
  case away =>
    rintro rfl
    exact roundQuotient_nearestAway hb
  case stochastic =>
    rintro rfl hd
    exact roundQuotient_stochastic hd

end Sys2Proof.Machine
end

section
/-! What an instruction that rounds does, at once or with a result that comes later (R45, R76, R78), and the conversions (R79 to R86). -/

namespace Sys2Proof.Machine

/-! ### An entry written twice -/

section Tables
variable {α : Type}

theorem terase_tinsert_self (t : Tbl α) (k : Nat) (a : α) : terase (tinsert t k a) k = terase t k := by
  induction t with
  | nil => simp [tinsert, terase]
  | cons e t ih =>
    unfold tinsert
    split
    · simp [terase]
    · simp only [terase, List.filter_cons] at ih ⊢
      rw [ih]

theorem terase_terase_self (t : Tbl α) (k : Nat) : terase (terase t k) k = terase t k := by
  simp [terase, List.filter_filter]

@[simp] theorem tset_tset_self (t : Tbl α) (k : Nat) (a b : α) : tset (tset t k a) k b = tset t k b := by
  rw [tset, tset, terase_tinsert_self, terase_terase_self, ← tset]

end Tables

/-- The issuing slot changed, then replaced: only the replacement counts. -/
theorem State.setMe_onMe (s : State) (f : Slot → Slot) (x : Slot) : (s.onMe f).setMe x = s.onMe fun _ => x :=
  congrArg (fun t : Tbl Slot => { s with slots := t }) (tset_tset_self ..)

/-! ### Effects that round -/

section Rounding
variable {i : Instr} {s : State} {r : Rm} {f : Slot → Fpu → List RegVal × Fpu} {xs : List RegVal} {c : Fpu}

/-- A ready instruction whose effect rounds writes its registers and flags, or takes the narrowing trap (R73, R76, R78). -/
theorem roundsTo_of_fpBody (he : exec i s = issue i (fpBody r f) s) (hf : f s.me (fpuOf r s.me) = (xs, c)) (h : Ready i s) :
    RoundsTo i s xs c := by
  rw [issue_ready h, fpBody, hf] at he
  unfold RoundsTo
  cases ht : c.trapAt with
  | none =>
    simp only [ht] at he
    exact he
  | some e =>
    simp only [ht] at he
    exact he

/-- The narrowing trap of an instruction whose result would come later (R76). -/
theorem roundsTo_of_fpLater {n : Option Nat} (he : exec i s = issue i (fpLater r n f) s)
    (hf : f s.me (fpuOf r s.me) = (xs, c)) (h : Ready i s) (ht : c.trapAt ≠ none) : RoundsTo i s xs c := by
  obtain ⟨e, ht⟩ := Option.ne_none_iff_exists'.1 ht
  rw [issue_ready h, fpLater, hf] at he
  unfold RoundsTo
  simp only [ht] at he ⊢
  exact he

/-- The state in which an instruction has set its flags and owes a result of known value, which is on its way (R45). -/
def owingRounded (s : State) (xs : List RegVal) (c : Fpu) : State :=
  (s.onMe fun sl => (sl.onSys fun y => { y with st := y.st ||| c.flags.setWidth 64, rnc := c.rnc }).addPend
    (xs.map RegVal.id) (.value xs 0#6)).post (evt .loadDataReturn s.cur s.me.traffic.nextId 0)

/-- A result of known value sent after the flags are set. -/
theorem later_absorb (s : State) (xs : List RegVal) (c : Fpu) :
    later .loadDataReturn xs 0 (s.onMe fun sl => sl.absorb c) = (owingRounded s xs c, .next) := by
  rw [later, State.me_onMe, State.setMe_onMe]
  rfl

/-- Without a narrowing trap the instruction completes, its flags set, and owes its result (R45). -/
theorem completes_of_fpLater (he : exec i s = issue i (fpLater r none f) s) (hf : f s.me (fpuOf r s.me) = (xs, c))
    (h : Ready i s) (ht : c.trapAt = none) : Completes i s (owingRounded s xs c) := by
  rw [issue_ready h, fpLater, hf] at he
  simp only [ht, later_absorb] at he
  exact he

end Rounding

/-! ### Effects that round one value -/

/-- An effect that computes one value with its flags and puts it into one register. -/
def valueIn {α : Type} (mk : α → RegVal) (v : Slot → Fpu → α × Fpu) : Slot → Fpu → List RegVal × Fpu := fun sl c =>
  let (y, c) := v sl c
  ([mk y], c)

section Value
variable {α : Type} {i : Instr} {s : State} {r : Rm} {mk : α → RegVal} {v : Slot → Fpu → α × Fpu}

/-- A ready instruction that rounds one value writes it with its flags, or takes the narrowing trap. -/
theorem roundsTo_of_value (he : exec i s = issue i (fpBody r (valueIn mk v)) s) (h : Ready i s) :
    RoundsTo i s [mk (v s.me (fpuOf r s.me)).1] (v s.me (fpuOf r s.me)).2 :=
  roundsTo_of_fpBody he rfl h

/-- A conversion that comes later to O4 alone: what it does when ready, by its format (R45). -/
theorem of_packBody {f : Fmt} (he : exec i s = issue i (packBody f r (valueIn mk v)) s) :
    (f ≠ .o4 → Ready i s → RoundsTo i s [mk (v s.me (fpuOf r s.me)).1] (v s.me (fpuOf r s.me)).2) ∧
    (f = .o4 → Ready i s →
      ((v s.me (fpuOf r s.me)).2.trapAt ≠ none → RoundsTo i s [mk (v s.me (fpuOf r s.me)).1] (v s.me (fpuOf r s.me)).2) ∧
      ((v s.me (fpuOf r s.me)).2.trapAt = none →
        Completes i s (owingRounded s [mk (v s.me (fpuOf r s.me)).1] (v s.me (fpuOf r s.me)).2))) := by
  unfold packBody at he
  refine ⟨fun hf h => ?now, fun hf h => ?later⟩
  case now =>
    rw [if_neg hf] at he
    exact roundsTo_of_value he h
  case later =>
    rw [if_pos hf] at he
    exact ⟨roundsTo_of_fpLater he rfl h, completes_of_fpLater he rfl h⟩

end Value

/-! ### Conversions between integers -/

/-- The exact value of an integer. -/
def intVal (k : Int) : Val := .num (decide (k < 0)) (dyadic k.natAbs 0)

/-- A whole number of units stays itself under every mode. -/
theorem roundUnits_dyadic_zero (rm : Nat) (neg : Bool) (n r : Nat) : roundUnits rm neg (dyadic n 0) 0 r = (n, false) := by
  have hu : (dyadic n 0).inUnits 0 = (n, 1) := by simp [Mag.inUnits, dyadic]
  have hq : roundQuotient rm neg n 1 r * 1 = n := roundQuotient_mul_of_dvd (one_dvd n)
  rw [roundUnits_eq rm neg 0 r rfl, hu, ← Nat.mul_one (roundQuotient ..), hq]
  simp

/-- An integer in the range of an integer format narrows to its own code, with no flag (R74). -/
theorem narrowInt_intVal (w : Nat) {lo hi k : Int} (r i : Nat) (c : Fpu) (hlo : lo ≤ k) (hhi : k ≤ hi) :
    narrowInt w lo hi (intVal k) r i c = ((BitVec.ofInt w k).toNat, c) := by
  have hk : (if decide (k < 0) then -(k.natAbs : Int) else k.natAbs) = k := by
    simp only [decide_eq_true_eq]
    split <;> omega
  have hin : (decide (k < lo) || decide (hi < k)) = false := by simp [hlo, hhi]
  simp only [narrowInt, intVal, roundUnits_dyadic_zero, hk, hin]
  rfl

theorem Fpu.draw_of_ne {c : Fpu} (h : c.rm ≠ 5) : c.draw = (0, c) := if_neg h

/-- A narrower signed field, widened twice, is widened at once. -/
theorem signExtend_signExtend {n w v : Nat} (x : BitVec n) (h : n ≤ w) :
    (x.signExtend w).signExtend v = x.signExtend v := by
  rw [BitVec.signExtend, BitVec.toInt_signExtend_of_le h, ← BitVec.signExtend]

/-- An integer in the range of an integer format narrows to its code there, outside stochastic rounding without a draw (R73, R74). -/
theorem narrow_intVal {f : Fmt} {lo hi k : Int} {c : Fpu} (hr : intRange f = some (lo, hi)) (h : c.rm ≠ 5) (i : Nat)
    (hlo : lo ≤ k) (hhi : k ≤ hi) : narrow f (intVal k) i c = ((BitVec.ofInt (fmtBits f) k).toNat, c) := by
  rw [narrow, Fpu.draw_of_ne h]
  cases f <;> cases hr <;> exact narrowInt_intVal _ 0 i c hlo hhi

/-- The low n bits of a word as a field (R37). -/
theorem ofNat_slice (g : Word) {n : Nat} (hn : 0 < n) : BitVec.ofNat n (slice g (n - 1) 0) = g.setWidth n :=
  BitVec.eq_of_toNat_eq (by simp [slice, Nat.sub_add_cancel hn])

/-- The signed formats of a general register's integers. -/
def signedInt : Fmt → Bool
  | .i8 | .i16 | .i32 | .i64 => true
  | _ => false

theorem intRange_signedInt {f : Fmt} (hf : signedInt f = true) :
    intRange f = some (-2 ^ (fmtBits f - 1), 2 ^ (fmtBits f - 1) - 1) := by
  cases f <;> cases hf <;> rfl

/-- A signed field narrows to a signed format of no lesser width as its sign extension. -/
theorem narrow_signedInt {f : Fmt} {n : Nat} {c : Fpu} (hf : signedInt f = true) (hn : n ≤ fmtBits f) (h : c.rm ≠ 5)
    (x : BitVec n) : narrow f (intVal x.toInt) 0 c = ((x.signExtend (fmtBits f)).toNat, c) := by
  have hx := BitVec.toInt_signExtend_of_le (x := x) hn
  exact narrow_intVal (intRange_signedInt hf) h 0 (hx ▸ BitVec.le_toInt _) (hx ▸ Int.le_sub_one_of_lt BitVec.toInt_lt)

/-- The code of a sign-extended field, extended to a register, is the field's sign extension. -/
theorem sext64_ofNat_signExtend {n w : Nat} (x : BitVec n) (hn : n ≤ w) :
    sext64 (BitVec.ofNat w (x.signExtend w).toNat) = x.signExtend 64 := by
  rw [BitVec.ofNat_toNat, BitVec.setWidth_eq, sext64, signExtend_signExtend x hn]

/-- CVT between signed integer formats narrows the number and extends its code by the sign (R81). -/
theorem cvtVal_eq_narrow {d e : Fmt} (hd : signedInt d = true) (he : signedInt e = true) (x g : Word) (c : Fpu) :
    cvtVal d e x g c =
      (sext64 (BitVec.ofNat (fmtBits d) (narrow d (intVal (BitVec.ofNat (fmtBits e) (slice g (fmtBits e - 1) 0)).toInt) 0 c).1),
        (narrow d (intVal (BitVec.ofNat (fmtBits e) (slice g (fmtBits e - 1) 0)).toInt) 0 c).2) := by
  cases d <;> cases hd <;> cases e <;> cases he <;> rfl

/-- CVT from a signed integer format to one of no lesser width keeps the number (R81). -/
theorem cvtVal_signedInt {d e : Fmt} (hd : signedInt d = true) (he : signedInt e = true) (hle : fmtBits e ≤ fmtBits d)
    (x g : Word) {c : Fpu} (h : c.rm ≠ 5) : cvtVal d e x g c = ((g.setWidth (fmtBits e)).signExtend 64, c) := by
  have hpos : 0 < fmtBits e := by cases e <;> decide
  rw [cvtVal_eq_narrow hd he, ofNat_slice g hpos, narrow_signedInt hd hle h, sext64_ofNat_signExtend _ hle]

/-- CVT's effect, at once or later by its destination format (R45, R81). -/
theorem exec_cvt (f e : Fmt) (r : Rm) (x : BitVec 3) (a d : BitVec 5) (s : State) :
    exec (.cvt f e r x a d) s = issue (.cvt f e r x a d) (packBody f r (valueIn (.g d.toNat) fun sl c =>
      cvtVal f e (sl.rx x.toNat) (sl.rg a.toNat) c)) s :=
  congrArg (fun k : Body => issue (.cvt f e r x a d) k s) (ite_apply ..)

/-- Settles O30: the five instructions by the lemma of their kind of effect, and the integer conversions. -/
theorem conversionsAndPacks : Obligations.ConversionsAndPacks := by
  unfold Obligations.ConversionsAndPacks
  refine ⟨fun s f e r h x p g gd b a d => ?_,
    fun x g c h => ⟨cvtVal_signedInt rfl rfl (by decide) x g h, cvtVal_signedInt rfl rfl (by decide) x g h⟩⟩
  obtain ⟨cvtNow, cvtLate⟩ := of_packBody (exec_cvt f e r x g gd s)
  obtain ⟨packNow, packLate⟩ := of_packBody (i := .vpack f r p b a d) (s := s) (mk := .v d.toNat)
    (v := fun sl c => vpackVal f (sl.rp p.toNat) (sl.rv d.toNat) (sl.rv a.toNat) (sl.rv b.toNat) c) rfl
  exact ⟨cvtNow, cvtLate, packNow, packLate,
    roundsTo_of_value (mk := .v d.toNat) (v := fun sl c => vcvtVal f e (sl.rp p.toNat) (sl.rv d.toNat) (sl.rv a.toNat) c) rfl,
    roundsTo_of_value (mk := .v d.toNat) (v := fun sl c => vunpkVal f h (sl.rp p.toNat) (sl.rv d.toNat) (sl.rv a.toNat) c) rfl,
    roundsTo_of_value (mk := .v d.toNat)
      (v := fun sl c => vbscaleVal f (sl.rp p.toNat) (sl.rv d.toNat) (sl.rv a.toNat) (sl.rv b.toNat) c) rfl⟩

end Sys2Proof.Machine
end

section
/-! Effects of instructions on their own slot: how a ready instruction ends, the registers that every completion leaves alone (R50, R119,
R150), and the instructions that trap, return and do nothing (R112 to R114, R120). -/

namespace Sys2Proof.Machine

/-! ### How a ready instruction ends -/

section Ends
variable {i : Instr} {s t : State} {body : Body}

theorem completes_of_next (he : exec i s = issue i body s) (hb : body s = (t, .next)) (h : Ready i s) : Completes i s t := by
  rw [Completes, he, issue_ready h, hb, conclude_next]

theorem traps_of_trap {c : Nat} {v : Word} (he : exec i s = issue i body s) (hb : body s = (s, .trap c v)) (h : Ready i s) :
    Traps i s c v := by
  rw [Traps, he, issue_ready h, hb, conclude_trap]

theorem parksOn_of_wait {r : Reason} (he : exec i s = issue i body s) (hb : body s = (t, .wait r)) (h : Ready i s) :
    ParksOn i s t r := by
  rw [ParksOn, he, issue_ready h, hb, conclude_wait]

theorem exec_of_gone (he : exec i s = issue i body s) (hb : body s = (t, .gone)) (h : Ready i s) : exec i s = .next t := by
  rw [he, issue_ready h, hb, conclude_gone]

end Ends

/-! ### One slot of the state -/

theorem State.onMe_congr {s : State} {f g : Slot → Slot} (h : f s.me = g s.me) : s.onMe f = s.onMe g :=
  congrArg s.setMe h

@[simp] theorem State.onMe_onMe (s : State) (f g : Slot → Slot) : (s.onMe f).onMe g = s.onMe fun sl => g (f sl) := by
  have h : (s.onMe f).onMe g = (s.onMe f).setMe (g (s.onMe f).me) := rfl
  rw [h, State.setMe_onMe, State.me_onMe]
  exact State.onMe_congr rfl

/-- An effect on the issuing slot leaves the rest of the machine as it is. -/
theorem onlyMySlot_onMe (s : State) (f : Slot → Slot) : OnlyMySlot s (s.onMe f) :=
  ⟨rfl, fun _ hk => State.slot_onSlot_ne s f hk, fun _ => rfl, fun _ _ => rfl⟩

theorem OnlyMySlot.trans {s t u : State} (h : OnlyMySlot s t) (h' : OnlyMySlot t u) : OnlyMySlot s u := by
  obtain ⟨he, hs, hm, ha⟩ := h
  obtain ⟨he', hs', hm', ha'⟩ := h'
  have hcur : t.cur = s.cur := by rw [he]
  exact ⟨by rw [he', he], fun k hk => (hs' k (hcur ▸ hk)).trans (hs k hk), fun a => (hm' a).trans (hm a),
    fun c a => (ha' c a).trans (ha c a)⟩

/-! ### Registers that are left alone -/

section Kept
variable {d : RegId → Prop} {x y z : Slot}

/-- Slots with the same register files have the same registers. -/
theorem RegsKept.of_files (hg : y.g = x.g) (hv : y.v = x.v) (hp : y.p = x.p) (hx : y.x = x.x) (hports : y.ports = x.ports) :
    RegsKept d x y where
  general _ _ _ := by rw [Slot.rg, Slot.rg, hg]
  vector _ _ _ := by rw [Slot.rv, Slot.rv, hv]
  predicate _ _ _ := by rw [Slot.rp, Slot.rp, hp]
  extension _ _ := by rw [Slot.rx, Slot.rx, hx]
  ports := hports

theorem RegsKept.trans (h : RegsKept d x y) (h' : RegsKept d y z) : RegsKept d x z where
  general n hn hd := (h'.general n hn hd).trans (h.general n hn hd)
  vector n hn hd := (h'.vector n hn hd).trans (h.vector n hn hd)
  predicate n hn hd := (h'.predicate n hn hd).trans (h.predicate n hn hd)
  extension n hd := (h'.extension n hd).trans (h.extension n hd)
  ports := h'.ports.trans h.ports

theorem SpecialKept.of_sys (h : y.sys = x.sys) : SpecialKept x y := by
  refine ⟨by rw [h], fun k => ?_⟩
  simp [Slot.loop, h]

theorem SpecialKept.trans (h : SpecialKept x y) (h' : SpecialKept y z) : SpecialKept x z := by
  obtain ⟨hs, hl⟩ := h
  obtain ⟨hs', hl'⟩ := h'
  refine ⟨by rw [hs', hs], fun k => ?_⟩
  obtain ⟨hls, hle, hlc⟩ := hl k
  obtain ⟨hls', hle', hlc'⟩ := hl' k
  exact ⟨hls'.trans hls, hle'.trans hle, fun j hj => (hlc' j hj).trans (hlc j hj)⟩

end Kept

/-- What the end of an instruction leaves of a slot: its register files, and its special registers but the loop counts (R150). -/
structure EndKept (x y : Slot) : Prop where
  general : y.g = x.g
  vector : y.v = x.v
  predicate : y.p = x.p
  extension : y.x = x.x
  ports : y.ports = x.ports
  special : SpecialKept x y

namespace EndKept
variable {x y z : Slot}

theorem trans (h : EndKept x y) (h' : EndKept y z) : EndKept x z :=
  ⟨h'.general.trans h.general, h'.vector.trans h.vector, h'.predicate.trans h.predicate, h'.extension.trans h.extension,
    h'.ports.trans h.ports, h.special.trans h'.special⟩

theorem regs (h : EndKept x y) (d : RegId → Prop) : RegsKept d x y := 
  .of_files h.general h.vector h.predicate h.extension h.ports

theorem refl (x : Slot) : EndKept x x := ⟨rfl, rfl, rfl, rfl, rfl, .of_sys rfl⟩

theorem withPc (x : Slot) (a : Word) : EndKept x { x with pc := a } := ⟨rfl, rfl, rfl, rfl, rfl, .of_sys rfl⟩

theorem settle (x : Slot) : EndKept x x.settle := ⟨rfl, rfl, rfl, rfl, rfl, .of_sys rfl⟩

end EndKept

/-- Parking changes why a slot does not run, and nothing else. -/
theorem Slot.park_eq (sl : Slot) (r : Reason) : sl.park r = { sl with run := (sl.park r).run } := by
  unfold Slot.park
  split <;> rfl

theorem EndKept.park (x : Slot) (r : Reason) : EndKept x (x.park r) := by
  rw [Slot.park_eq]
  exact ⟨rfl, rfl, rfl, rfl, rfl, .of_sys rfl⟩

theorem Slot.loop_setLoop_self (sl : Slot) (k : Bool) (l : Loop) : (sl.setLoop k l).loop k = l := by cases k <;> rfl

theorem Slot.loop_setLoop_ne (sl : Slot) {j k : Bool} (l : Loop) (h : j ≠ k) : (sl.setLoop k l).loop j = sl.loop j := by
  cases j <;> cases k <;> simp_all [Slot.setLoop, Slot.loop, Slot.onSys]

/-- A loop count replaced: the other loop, and the rest of this one, stay (R147). -/
theorem EndKept.withCount (x : Slot) (k : Bool) (n : Nat) : EndKept x (x.setLoop k ((x.loop k).withCount n)) := by
  refine ⟨rfl, rfl, rfl, rfl, rfl, ?_, fun j => ?_⟩
  · cases k <;> rfl
  · by_cases hj : j = k
    · subst hj
      rw [Slot.loop_setLoop_self]
      exact ⟨rfl, rfl, fun b hb => by rw [Loop.withCount, getLsbD_setSlice, if_neg (by omega)]⟩
    · rw [Slot.loop_setLoop_ne _ _ hj]
      exact ⟨rfl, rfl, fun _ _ => rfl⟩

theorem EndKept.endOfBody1 (x : Slot) (a : Word) (k : Bool) : EndKept x (endOfBody1 x a k).1 := by
  unfold Machine.endOfBody1
  dsimp only
  split
  · split <;> exact .withCount x k _
  · exact .refl x

theorem EndKept.endOfBody (x : Slot) (a next : Word) : EndKept x (endOfBody x a next) := by
  have h1 := EndKept.endOfBody1 x a true
  unfold Machine.endOfBody
  split
  · next y t he => exact (he ▸ h1).trans (.withPc ..)
  · next y he =>
    have h0 := (he ▸ h1).trans (EndKept.endOfBody1 y a false)
    split
    · next z t he' => exact (he' ▸ h0).trans (.withPc ..)
    · next z he' => exact (he' ▸ h0).trans (.withPc ..)

/-- A completion is an effect on the issuing slot, which keeps its register files and special registers (R150, R45). -/
theorem completeAt_kept (a next : Word) (s : State) :
    EndKept s.me (completeAt a next s).me ∧ OnlyMySlot s (completeAt a next s) := by
  refine ⟨?_, onlyMySlot_onMe s _⟩
  rw [completeAt, State.me_onMe]
  dsimp only
  split
  · exact ((EndKept.settle s.me).trans (.park ..)).trans (.withPc ..)
  · exact (EndKept.settle s.me).trans (.endOfBody ..)

/-! ### A register written -/

section Files
variable {α : Type} {n : Nat}

theorem vget_vset_self (v : Vector α n) {i : Nat} (x d : α) (h : i < n) : vget (vset v i x) i d = x := by
  simp [vget, vset, h]

theorem vget_vset_ne (v : Vector α n) {i j : Nat} (x d : α) (h : j ≠ i) : vget (vset v i x) j d = vget v j d := by
  simp [vget, vset, Vector.getElem?_setIfInBounds_ne (Ne.symm h)]

end Files

/-- A write of one register leaves every other register, and every special one (R119). -/
theorem Slot.wr_kept (sl : Slot) (r : RegVal) : RegsKept (fun x => x = r.id) sl (sl.wr r) ∧ SpecialKept sl (sl.wr r) := by
  have hne : ∀ {f n m : Nat}, ¬ (⟨f, n⟩ : RegId) = ⟨f, m⟩ → n ≠ m := fun h e => h (e ▸ rfl)
  cases r with
  | g m x =>
    by_cases hm : m = 0
    · subst hm
      exact ⟨.of_files rfl rfl rfl rfl rfl, .of_sys rfl⟩
    · have h : sl.wr (.g m x) = { sl.claimReg ⟨0, m⟩ with g := vset sl.g m x } := if_neg hm
      rw [h]
      exact ⟨⟨fun n _ hd => by simp only [Slot.rg, vget_vset_ne _ _ _ (hne hd)], fun _ _ _ => rfl, fun _ _ _ => rfl,
        fun _ _ => rfl, rfl⟩, .of_sys rfl⟩
  | v m x =>
    exact ⟨⟨fun _ _ _ => rfl, fun n _ hd => vget_vset_ne _ _ _ (hne hd), fun _ _ _ => rfl, fun _ _ => rfl, rfl⟩, .of_sys rfl⟩
  | p m x =>
    by_cases hm : m = 0
    · subst hm
      exact ⟨.of_files rfl rfl rfl rfl rfl, .of_sys rfl⟩
    · have h : sl.wr (.p m x) = { sl.claimReg ⟨2, m⟩ with p := vset sl.p m x } := if_neg hm
      rw [h]
      exact ⟨⟨fun _ _ _ => rfl, fun _ _ _ => rfl, fun n _ hd => by simp only [Slot.rp, vget_vset_ne _ _ _ (hne hd)],
        fun _ _ => rfl, rfl⟩, .of_sys rfl⟩

theorem Slot.rg_wr {sl : Slot} {n : Nat} (x : Word) (h : n < 32) : (sl.wr (.g n x)).rg n = if n = 0 then 0#64 else x := by
  by_cases hn : n = 0
  · simp [hn]
  · have hw : sl.wr (.g n x) = { sl.claimReg ⟨0, n⟩ with g := vset sl.g n x } := if_neg hn
    simp only [hw, Slot.rg, if_neg hn, vget_vset_self _ _ _ h]

theorem Slot.rp_wr {sl : Slot} {n : Nat} (x : BitVec 16) (h : n < 8) : (sl.wr (.p n x)).rp n = if n = 0 then 0xffff#16 else x := by
  by_cases hn : n = 0
  · simp [hn, Slot.rp]
  · have hw : sl.wr (.p n x) = { sl.claimReg ⟨2, n⟩ with p := vset sl.p n x } := if_neg hn
    simp only [hw, Slot.rp, if_neg hn, vget_vset_self _ _ _ h]

/-- Settles O10: the register write, then what a completion leaves alone. -/
theorem registerResultFrame : Obligations.RegisterResultFrame := by
  unfold Obligations.RegisterResultFrame
  intro s a next r hr
  obtain ⟨hkept, hspecial⟩ := Slot.wr_kept s.me r
  obtain ⟨hend, honly⟩ := completeAt_kept a next (s.onMe fun sl => sl.wr r)
  rw [State.me_onMe] at hend
  refine ⟨_, rfl, hkept.trans (hend.regs _), hspecial.trans hend.special, (onlyMySlot_onMe _ _).trans honly, ?_⟩
  cases r with
  | g n x => exact (congrArg (fun v => if n = 0 then 0#64 else vget v n 0#64) hend.general).trans (Slot.rg_wr x hr)
  | v n x => exact (congrArg (fun v => vget v n vzero) hend.vector).trans (vget_vset_self _ _ _ hr)
  | p n x => exact (congrArg (fun v => if n = 0 then 0xffff#16 else vget v n 0#16) hend.predicate).trans (Slot.rp_wr x hr)

/-! ### Hazards of a deterministic slot -/

/-- Settles O9, from the order of the checks before an effect. -/
theorem hazardTrapsInDeterministicMode : Obligations.HazardTrapsInDeterministicMode := by
  unfold Obligations.HazardTrapsInDeterministicMode
  intro i s r hl hgate hdet hreplay hfind
  obtain ⟨body, hbody⟩ := exec_eq_issue hl
  have hpoint : replayPoint s.me = none := by rw [replayPoint, hreplay]
  have hlate : hazardOf i s.me = some r := hfind
  have hend : hazardEnding i s.me = some (.trap 0x12 (BitVec.ofNat 64 (r.file * 32 + r.num))) := by
    simp [hazardEnding, hpoint, hlate, hdet]
  rw [Traps, hbody, issue, hgate, hend]
  rfl

/-! ### NOP -/

/-- A marked instruction with a result outstanding parks its slot behind it (R45). -/
theorem completeAt_marked {s : State} (a next : Word) (hm : s.mark = true) (hq : s.me.quiet = false) :
    completeAt a next s = s.onMe fun sl => { sl.settle with pc := next, run := (sl.settle.park (.marker (some a))).run } := by
  refine State.onMe_congr ?_
  have hmarks : s.me.settle.marks = true := by
    have h : s.me.settle.quiet = false := hq
    simp [Slot.marks, h]
  simp only [hm, hmarks, Bool.and_self, if_true]
  rw [Slot.park_eq]

/-- Settles O18. -/
theorem nopHasNoEffect : Obligations.NopHasNoEffect := by
  unfold Obligations.NopHasNoEffect
  intro s i hi h
  have hc : Completes i s s := by
    rcases hi with rfl | rfl <;> exact completes_of_next (body := fun s => (s, .next)) rfl rfl h
  refine ⟨hc, fun hm hq => ⟨_, hc.trans (congrArg _ (completeAt_marked _ _ hm hq)), rfl, fun hrun => ⟨?_, fun _ => rfl⟩⟩⟩
  have hsettle : s.me.settle.run = .running := hrun
  rw [State.me_onMe]
  simp only [Slot.park, hsettle]

end Sys2Proof.Machine
end

section
/-! The instructions that trap and return (R112, R113). -/

namespace Sys2Proof.Machine

/-! ### TRAP, BKPT and ERET -/

/-- ERET with TH set: the pc goes to `epc` and TH is clear; nothing else of the machine changes (R113, R152). -/
theorem eretBody_returns {i : Instr} {s : State} (he : exec i s = issue i (eretBody i) s) (h : Ready i s) (hth : s.me.th = true) :
    ∃ t, exec i s = .next t ∧ t.me.pc = s.me.sys.epc ∧ t.me.th = false ∧
      t.me.sys = { s.me.sys with st := t.me.sys.st } ∧ (∀ j, j ≠ 9 → t.me.sys.st.getLsbD j = s.me.sys.st.getLsbD j) ∧
      RegsKept (fun _ => False) s.me t.me ∧ OnlyMySlot s t := by
  have hb : eretBody i s = (s.onMe fun sl => sl.setSt stTH false, .goto s.me.sys.epc) := by rw [eretBody, if_pos hth]; rfl
  rw [issue_ready h, hb, conclude_goto, State.onMe_onMe] at he
  have hpark : ∀ (sl : Slot) (b : Bool), ∃ r, (if b then sl.park (.marker none) else sl) = { sl with run := r } := fun sl b => by
    cases b
    · exact ⟨sl.run, rfl⟩
    · exact ⟨_, Slot.park_eq ..⟩
  refine ⟨_, he, ?_⟩
  rw [State.me_onMe]
  obtain ⟨r, hr⟩ := hpark { (s.me.setSt stTH false).settle with pc := s.me.sys.epc }
    (s.mark && { (s.me.setSt stTH false).settle with pc := s.me.sys.epc }.marks)
  have hst : ∀ j, (setBit s.me.sys.st stTH false).getLsbD j = if j = 9 then false else s.me.sys.st.getLsbD j := fun j => by
    rw [getLsbD_setBit, Bool.and_false]
    rfl
  exact hr ▸ ⟨rfl, hst 9, rfl, fun j hj => (hst j).trans (if_neg hj), .of_files rfl rfl rfl rfl rfl, onlyMySlot_onMe s _⟩

theorem eretBody_traps {i : Instr} {s : State} (he : exec i s = issue i (eretBody i) s) (h : Ready i s) (hth : s.me.th = false) :
    Traps i s 0x01 (wordOf i s) := by
  refine traps_of_trap he ?_ h
  simp [eretBody, hth]

theorem bkptBody_clauses {i : Instr} {s : State} (he : exec i s = issue i bkptBody s) (h : Ready i s) :
    (s.me.armed = false → Traps i s 0x06 0#64) ∧
      (s.me.armed = true → exec i s = .next (stopPartition s.myCtx 5 s.myCore s)) :=
  ⟨fun ha => traps_of_trap he (by rw [bkptBody, ha]; rfl) h, fun ha => exec_of_gone he (by rw [bkptBody, if_pos ha]) h⟩

/-- Settles O7. -/
theorem trapInstructionsAndReturns : Obligations.TrapInstructionsAndReturns := by
  unfold Obligations.TrapInstructionsAndReturns
  refine ⟨fun s b a h => traps_of_trap (body := fun s => (s, .trap 0x05 (zext64 (a ++ b)))) rfl rfl h, fun s i hi h => ?_,
    fun s i hi h => ?_⟩
  · rcases hi with rfl | rfl <;> exact bkptBody_clauses rfl h
  · rcases hi with rfl | rfl <;> exact ⟨eretBody_returns rfl h, eretBody_traps rfl h⟩

end Sys2Proof.Machine
end

section
/-! The special registers as MFS and MTS see them (R102 to R110). -/

namespace Sys2Proof.Machine

/-! ### Bits and fields as masks -/

/-- One bit set, as masks. -/
theorem setBit_eq_masks {n : Nat} (x : BitVec n) (j : Nat) (b : Bool) :
    setBit x j b = (x &&& ~~~(BitVec.ofNat n (2 ^ j))) ||| if b then BitVec.ofNat n (2 ^ j) else 0#n := by
  cases b with
  | false => simp [setBit]
  | true =>
    refine BitVec.eq_of_getLsbD_eq fun i hi => ?_
    simp only [setBit, if_true, BitVec.getLsbD_or, BitVec.getLsbD_and, BitVec.getLsbD_not, hi, decide_true, Bool.true_and]
    cases (BitVec.ofNat n (2 ^ j)).getLsbD i <;> simp

/-- The bits 2:0 of a word. -/
theorem slice_low3 (v : Word) : slice v 2 0 = (v &&& 7#64).toNat := by
  rw [BitVec.toNat_and]
  exact (Nat.and_two_pow_sub_one_eq_mod v.toNat 3).symm

/-- `mode` after a write: the rounding mode alone is replaced, by one below 6 (R78). -/
theorem modeWritten_eq (mode v : Word) :
    modeWritten mode v = if 6 ≤ (v &&& 7#64).toNat then mode else (mode &&& ~~~7#64) ||| (v &&& 7#64) := by
  rw [modeWritten, slice_low3]
  have hm : (v &&& 7#64).toNat % 2 ^ 3 = (v &&& 7#64).toNat :=
    Nat.mod_eq_of_lt (by rw [← slice_low3]; exact slice_lt v 2 0)
  have hs : setSlice mode 2 0 (v &&& 7#64).toNat = (mode &&& ~~~7#64) ||| (v &&& 7#64) := by
    simp only [setSlice]
    rw [hm, Nat.pow_zero, Nat.mul_one, Nat.mul_one, BitVec.ofNat_toNat, BitVec.setWidth_eq]
    rfl
  rw [hs]

/-- `st` after a write: ones clear bits 7:0, and TH takes its bit (R78, R104). -/
theorem stWritten_eq (st v : Word) :
    stWritten st v = (st &&& ~~~(v &&& 0xff#64) &&& ~~~0x200#64) ||| (v &&& 0x200#64) := by
  have hv : v &&& 0x200#64 = if v.getLsbD 9 then 0x200#64 else 0#64 := BitVec.and_twoPow v 9
  rw [stWritten, setBit_eq_masks, hv]
  rfl

/-- Bits set one after another. -/
theorem getLsbD_foldl_setBit (f : Nat → Bool) (l : List Nat) (w : Word) {j : Nat} (hj : j < 64) :
    (l.foldl (fun w t => setBit w t (f t)) w).getLsbD j = if j ∈ l then f j else w.getLsbD j := by
  induction l generalizing w with
  | nil => simp
  | cons t l ih =>
    rw [List.foldl_cons, ih, getLsbD_setBit]
    by_cases hl : j ∈ l
    · simp [hl]
    · by_cases ht : j = t
      · subst ht
        simp [hl, hj]
      · simp [hl, ht]

/-! ### What special registers read -/

section Reads
variable {s : State} {k : Nat}

theorem getLsbD_tagsWord (s : State) (c : Nat) {t : Nat} (ht : t < 64) : (tagsWord s c).getLsbD t = tagBit s c t := by
  rw [tagsWord, getLsbD_foldl_setBit _ _ _ ht, if_pos (by simpa [upTo] using ht)]

theorem prqWord_eq {ctx : Nat} {c : Ctx} (h : tfind s.ctxs ctx = some c) : prqWord s ctx = if c.prq then 1 else 0 := by
  simp [prqWord, h, bool64]

theorem pdlWord_eq {ctx : Nat} {c : Ctx} (h : tfind s.ctxs ctx = some c) : pdlWord s ctx = BitVec.ofNat 64 (c.pdl % 2 ^ 32) := by
  simp [pdlWord, h]

theorem tktWord_eq {g : Group} {kn : Kernel} (hg : groupOf s k = some g) (hk : tfind s.kernels g.kernel = some kn) :
    tktWord s k = BitVec.ofNat 64 (kn.scope * 2 ^ 36 + g.ticket) := by
  simp [tktWord, hg, hk]

theorem tkfWord_eq {g : Group} (hg : groupOf s k = some g) : tkfWord s k =
    (BitVec.ofNat 64 (octetF s (octetOf (coreOf k)) g.inst % 2 ^ 32) &&& 0x7fffffffffffffff) |||
      if octetF s (octetOf (coreOf k)) g.inst = g.ticket then 0x8000000000000000 else 0 := by
  have hmask : ~~~(BitVec.ofNat 64 (2 ^ 63)) = 0x7fffffffffffffff#64 := by decide
  simp only [tkfWord, hg]
  rw [setBit_eq_masks, hmask]
  simp

theorem tktWord_none (hg : groupOf s k = none) : tktWord s k = 0 := by simp [tktWord, hg]

theorem tkfWord_none (hg : groupOf s k = none) : tkfWord s k = 0 := by simp [tkfWord, hg]

end Reads

/-! ### MFS and MTS -/

/-- MFS writes what the special register reads (R110). -/
theorem writes_of_mfs {s : State} {n : BitVec 12} {d : BitVec 5} {v : Word} (hv : sregRead s s.cur n.toNat = v)
    (h : Ready (.mfs n d) s) : Writes (.mfs n d) s fun sl => sl.wg d.toNat v := by
  subst hv
  exact completes_of_next (body := fun s => (s.onMe fun sl => sl.wg d.toNat (sregRead s s.cur n.toNat), .next)) rfl rfl h

/-- MTS of a register that the slot holds, or that keeps its value (R102). -/
theorem writes_of_mts {s : State} {n : BitVec 12} {a : BitVec 5} {f : Slot → Slot} (hn : n ≠ 0x041)
    (hs : n = 0x084 → s.me.sv = true) (hm : n.toNat < 0x025 ∨ 0x02d ≤ n.toNat) (hf : sregWrite n.toNat (s.me.rg a.toNat) s.me = f s.me)
    (h : Ready (.mts n a) s) : Writes (.mts n a) s f := by
  refine completes_of_next (body := fun s => mtsBody n.toNat (s.me.rg a.toNat) (wordOf (.mts n a) s) s) rfl ?_ h
  have h41 : n.toNat ≠ 0x041 := fun e => hn (BitVec.eq_of_toNat_eq e)
  have h84 : n.toNat = 0x084 → s.me.sv = true := fun e => hs (BitVec.eq_of_toNat_eq e)
  have hbox : ¬ (0x025 ≤ n.toNat ∧ n.toNat < 0x02d) := by omega
  have hsv : ((n.toNat = 0x041 || n.toNat = 0x084) && !s.me.sv) = false := by
    by_cases e : n.toNat = 0x084 <;> simp [h41, e, h84]
  simp only [mtsBody]
  rw [hsv]
  simp only [Bool.false_eq_true, if_false, h41, Bool.and_eq_true, decide_eq_true_eq, if_neg hbox]
  exact congrArg (·, Ending.next) (State.onMe_congr hf)

/-- MTS of a register that a user slot may write too. -/
theorem writes_of_mts_user {s : State} {n : BitVec 12} {a : BitVec 5} {f : Slot → Slot}
    (hn : n ≠ 0x041 ∧ n ≠ 0x084 ∧ (n.toNat < 0x025 ∨ 0x02d ≤ n.toNat))
    (hf : sregWrite n.toNat (s.me.rg a.toNat) s.me = f s.me) (h : Ready (.mts n a) s) : Writes (.mts n a) s f := by
  obtain ⟨h41, h84, hm⟩ := hn
  exact writes_of_mts h41 (fun e => absurd e h84) hm hf h

/-- MTS of a mailbox register (R270). -/
theorem mts_mailbox {s : State} {n : BitVec 12} {a : BitVec 5} {j : Nat} (hj : j < 8) (hn : n.toNat = 0x025 + j)
    (h : Ready (.mts n a) s) : ∃ t, Completes (.mts n a) s t ∧ t.slots = s.slots ∧
      ∀ i, i < 8 → vget (t.core s.myCore).transfer.mb i 0 =
        if i = j then (s.me.rg a.toNat).setWidth 32 else vget (s.core s.myCore).transfer.mb i 0 := by
  have hb : mtsBody n.toNat (s.me.rg a.toNat) (wordOf (.mts n a) s) s =
      (onTransfer s.myCore (fun t => { t with mb := vset t.mb j ((s.me.rg a.toNat).extractLsb' 0 32) }) s, .next) := by
    have h41 : n.toNat ≠ 0x041 := by omega
    have h84 : n.toNat ≠ 0x084 := by omega
    have hbox : 0x025 ≤ n.toNat ∧ n.toNat < 0x02d := by omega
    have hi : n.toNat - 0x025 = j := by omega
    simp [mtsBody, h41, h84, hbox, hi]
  refine ⟨_, completes_of_next (body := fun s => mtsBody n.toNat (s.me.rg a.toNat) (wordOf (.mts n a) s) s) rfl hb h, rfl,
    fun i hi => ?_⟩
  rw [onTransfer, State.core_onCore_self]
  by_cases hij : i = j
  · rw [if_pos hij, hij, vget_vset_self _ _ _ hj]
    rfl
  · rw [if_neg hij, vget_vset_ne _ _ _ hij]

/-- MTS of `pdl` or `trec` by a user slot (R102). -/
theorem mts_traps {s : State} {n : BitVec 12} {a : BitVec 5} (hsv : s.me.sv = false) (hn : n = 0x041 ∨ n = 0x084)
    (h : Ready (.mts n a) s) : Traps (.mts n a) s 0x02 (wordOf (.mts n a) s) := by
  refine traps_of_trap (body := fun s => mtsBody n.toNat (s.me.rg a.toNat) (wordOf (.mts n a) s) s) rfl ?_ h
  rcases hn with rfl | rfl <;> simp [mtsBody, hsv]

theorem mts_pdl {s : State} {a : BitVec 5} (hsv : s.me.sv = true) (h : Ready (.mts 0x041 a) s) :
    Completes (.mts 0x041 a) s (s.onCtx s.myCtx fun c => { c with pdl := ((s.me.rg a.toNat).setWidth 32).toNat }) := by
  refine completes_of_next (body := fun s => mtsBody 0x041 (s.me.rg a.toNat) (wordOf (.mts 0x041 a) s) s) rfl ?_ h
  have hw : slice (s.me.rg a.toNat) 31 0 = ((s.me.rg a.toNat).setWidth 32).toNat := by simp [slice]
  simp [mtsBody, hsv, hw]

/-- MTS of an extension register. -/
theorem mts_extension {s : State} {n : BitVec 12} {a : BitVec 5} {j : Nat} (hj : j < 8) (hn : n.toNat = 0x0b0 + j)
    (h : Ready (.mts n a) s) : ∃ sl, Writes (.mts n a) s (fun _ => sl) ∧ sl = { s.me with x := sl.x } ∧
      ∀ i, i < 8 → sl.rx i = if i = j then s.me.rg a.toNat else s.me.rx i := by
  have hw : sregWrite n.toNat (s.me.rg a.toNat) s.me = { s.me with x := vset s.me.x j (s.me.rg a.toNat) } := by
    rw [hn]
    interval_cases j <;> rfl
  refine ⟨_, writes_of_mts_user ⟨?_, ?_, by omega⟩ hw h, rfl, fun i hi => ?_⟩
  · rintro rfl
    exact absurd hn (by simp; omega)
  · rintro rfl
    exact absurd hn (by simp; omega)
  · simp only [Slot.rx, Nat.mod_eq_of_lt hi]
    by_cases hij : i = j
    · rw [if_pos hij, hij, vget_vset_self _ _ _ hj]
    · rw [if_neg hij, vget_vset_ne _ _ _ hij]

/-- Settles O36: each register by the equation of its row. -/
theorem specialRegistersReadAndWrite : Obligations.SpecialRegistersReadAndWrite := by
  unfold Obligations.SpecialRegistersReadAndWrite
  refine ⟨fun s d => ?reads, fun s a => ?writes⟩
  case reads =>
    intro y x reads
    iterate 30 refine ⟨writes_of_mfs rfl, ?_⟩
    refine ⟨fun c hc => ⟨writes_of_mfs (prqWord_eq hc), writes_of_mfs (pdlWord_eq hc)⟩, ⟨writes_of_mfs rfl, writes_of_mfs rfl⟩,
      fun g kn hg hk => ⟨writes_of_mfs (tktWord_eq hg hk), writes_of_mfs (tkfWord_eq hg)⟩,
      fun hg => ⟨writes_of_mfs (tktWord_none hg), writes_of_mfs (tkfWord_none hg)⟩, fun j hj => ?watermarks, fun j hj => ?files,
      ⟨_, writes_of_mfs rfl, fun t ht => getLsbD_tagsWord s s.myCore ht⟩⟩
    case watermarks => interval_cases j <;> exact writes_of_mfs rfl
    case files =>
      interval_cases j <;> exact ⟨writes_of_mfs rfl, writes_of_mfs rfl, writes_of_mfs rfl, writes_of_mfs rfl⟩
  case writes =>
    intro v even writes keeps
    have held : ∀ {n : BitVec 12} {f : Slot → Slot}, (n ≠ 0x041 ∧ n ≠ 0x084 ∧ (n.toNat < 0x025 ∨ 0x02d ≤ n.toNat)) →
        sregWrite n.toNat (s.me.rg a.toNat) s.me = f s.me → Ready (.mts n a) s → Writes (.mts n a) s f := writes_of_mts_user
    have hst : sregWrite 0x002 v s.me = s.me.onSys fun y => { y with st := (y.st &&& ~~~(v &&& 0xff) &&& ~~~0x200) ||| (v &&& 0x200) } :=
      congrArg (fun w => s.me.onSys fun y => { y with st := w }) (stWritten_eq s.me.sys.st v)
    have hmode : sregWrite 0x003 v s.me =
        s.me.onSys fun y => { y with mode := if 6 ≤ (v &&& 7).toNat then y.mode else (y.mode &&& ~~~7) ||| (v &&& 7) } :=
      congrArg (fun w => s.me.onSys fun y => { y with mode := w }) (modeWritten_eq s.me.sys.mode v)
    refine ⟨held (by decide) rfl, held (by decide) hst, held (by decide) hmode, ?_⟩
    iterate 36 refine ⟨held (by decide) rfl, ?_⟩
    refine ⟨fun j hj => ?files,
      fun hsv n hn => mts_traps hsv hn,
      fun hsv => ⟨writes_of_mts (by decide) (fun _ => hsv) (by decide) rfl, mts_pdl hsv⟩⟩
    case files =>
      have hext : (0x0b0 + BitVec.ofNat 12 j : BitVec 12).toNat = 0x0b0 + j := by simp; omega
      have hbox : (0x025 + BitVec.ofNat 12 j : BitVec 12).toNat = 0x025 + j := by simp; omega
      refine ⟨?_, ?_, mts_extension hj hext, mts_mailbox hj hbox⟩
      · interval_cases j <;> exact held (by decide) rfl
      · interval_cases j <;> exact held (by decide) rfl

end Sys2Proof.Machine
end

section
/-! What an access to memory leaves alone (R196 to R201, R213): of a slot all but its `st`, its results and its accesses on their way, of a
core all but its L1, its array, its ring and its counts; contexts, kernels and most of the package stay as they are. -/

namespace Sys2Proof.Machine

/-- A slot without what accesses change: `st`, whose event flag a watch sets (R426), results and accesses on their way. -/
def Slot.still (sl : Slot) : Slot :=
  { sl with sys := { sl.sys with st := 0 }, pend := [], traffic := Traffic.reset, entered := 0 }

/-- A core without what accesses change: its L1, its array, the directory ring, the copy unit and the counts of R455. -/
def Core.still (x : Core) : Core :=
  { x with sent := Vector.replicate 3 0, recv := Vector.replicate 3 0, arr := [], l1 := ⟨[], []⟩, posts := [], dirNext := 0,
           dirEntries := [], transfer := Transfer.reset }

/-- The package without what accesses change, and its slots and cores. -/
def State.still (s : State) : State × (Nat → Slot) × (Nat → Core) :=
  ({ s with slots := [], cores := [], octets := [], dies := [], mem := [], home := [], rdc := [], work := [], watches := [],
            groups := [], mgmt := [], inflight := [] }, fun k => (s.slot k).still, fun c => (s.core c).still)

/-! ### Reading it off -/

section Read
variable {s t : State} (h : t.still = s.still)
include h

theorem State.still_state : t.still.1 = s.still.1 := congrArg Prod.fst h

theorem State.still_cur : t.cur = s.cur := (congrArg State.cur (State.still_state h) :)

theorem State.still_ctxs : t.ctxs = s.ctxs := (congrArg State.ctxs (State.still_state h) :)

theorem State.still_slot (k : Nat) : (t.slot k).still = (s.slot k).still := congrFun (congrArg (fun x => x.2.1) h) k

theorem State.still_core (c : Nat) : (t.core c).still = (s.core c).still := congrFun (congrArg (fun x => x.2.2) h) c

theorem State.still_phase (k : Nat) : (t.slot k).phase = (s.slot k).phase := (congrArg Slot.phase (State.still_slot h k) :)

theorem State.still_runList (c : Nat) : (t.core c).runList = (s.core c).runList := (congrArg Core.runList (State.still_core h c) :)

theorem State.still_deque (c : Nat) : (t.core c).deque = (s.core c).deque := (congrArg Core.deque (State.still_core h c) :)

end Read

/-! ### Updates of the state -/

section Updates
variable (s : State)

theorem State.onSlot_still (k : Nat) {f : Slot → Slot} (h : ∀ sl, (f sl).still = sl.still) : (s.onSlot k f).still = s.still := by
  refine Prod.ext rfl (Prod.ext (funext fun j => ?_) rfl)
  by_cases hj : j = k
  · subst hj
    exact (congrArg Slot.still (State.slot_onSlot_self s j f)).trans (h _)
  · exact congrArg Slot.still (State.slot_onSlot_ne s f hj)

theorem State.onCore_still (c : Nat) {f : Core → Core} (h : ∀ x, (f x).still = x.still) : (s.onCore c f).still = s.still := by
  refine Prod.ext rfl (Prod.ext rfl (funext fun d => ?_))
  by_cases hd : d = c
  · subst hd
    exact (congrArg Core.still (State.core_onCore_self s d f)).trans (h _)
  · exact congrArg Core.still (State.core_onCore_ne s f hd)

@[simp] theorem State.onGroup_still (k : Nat) (f : Group → Group) : (s.onGroup k f).still = s.still := by
  unfold State.onGroup
  split <;> rfl

@[simp] theorem State.onOctet_still (o : Nat) (f : Octet → Octet) : (s.onOctet o f).still = s.still := rfl
@[simp] theorem State.onDie_still (d : Nat) (f : Die → Die) : (s.onDie d f).still = s.still := rfl
@[simp] theorem State.setMreg_still (o : Nat) (w : Word) : (s.setMreg o w).still = s.still := rfl
@[simp] theorem State.postAt_still (n : Nat) (m : Msg) : (s.postAt n m).still = s.still := rfl
@[simp] theorem State.post_still (m : Msg) : (s.post m).still = s.still := rfl
@[simp] theorem State.soon_still (m : Msg) : (s.soon m).still = s.still := rfl
@[simp] theorem State.mem_still (m : Mem) : State.still { s with mem := m } = s.still := rfl
@[simp] theorem State.home_still (x : Tbl HomeSt) : State.still { s with home := x } = s.still := rfl
@[simp] theorem State.rdc_still (x : Tbl VReg) : State.still { s with rdc := x } = s.still := rfl
@[simp] theorem State.work_still (x : Tbl VReg) : State.still { s with work := x } = s.still := rfl
@[simp] theorem State.watches_still (x : List WatchEntry) : State.still { s with watches := x } = s.still := rfl
@[simp] theorem State.groups_still (x : Tbl Group) : State.still { s with groups := x } = s.still := rfl

/-- What each step of a fold leaves alone, the fold does. -/
theorem foldl_still {α : Type} {f : State → α → State} (h : ∀ s a, (f s a).still = s.still) (l : List α) :
    (l.foldl f s).still = s.still := foldl_keeps State.still f h l s

/-- The same for a fold that carries more than the state. -/
theorem foldl_snd_still {α β : Type} {f : β × State → α → β × State} (h : ∀ x a, (f x a).2.still = x.2.still) (l : List α)
    (x : β × State) : (l.foldl f x).2.still = x.2.still := foldl_keeps (fun x => x.2.still) f h l x

end Updates

/-! ### Format windows (R90) -/

section Windows
variable (s : State)

@[simp] theorem logMerged_still (d kind addr unit n win : Nat) (m : LogEntry → Bool) :
    (logMerged d kind addr unit n win m s).still = s.still := rfl

@[simp] theorem winCount_still (w line n : Nat) : (winCount w line n s).still = s.still := by
  unfold winCount
  split <;> simp

@[simp] theorem expandLine_still (line : Nat) : (expandLine line s).still = s.still := by
  unfold expandLine
  split <;> simp

@[simp] theorem writeBackLine_still (line : Nat) : (writeBackLine line s).still = s.still := by
  unfold writeBackLine
  split
  · dsimp only
    split <;> simp
  · rfl

@[simp] theorem fillLine_still (line : Nat) : (fillLine line s).still = s.still := by
  unfold fillLine
  dsimp only
  split
  · split <;> simp
  · simp

end Windows

/-! ### Words at their homes (R196) -/

section Homes
variable (s : State)

theorem fillUnlessHeld_still (line : Nat) :
    (if (tfind s.work line).isSome then s else fillLine line s).still = s.still := by
  split <;> simp

@[simp] theorem homeGet_still (w : Nat) : (homeGet w s).2.still = s.still := by
  unfold homeGet
  split
  · rfl
  · exact fillUnlessHeld_still s _

@[simp] theorem homePut_still (w : Nat) (v : BitVec 32) : (homePut w v s).still = s.still := by
  unfold homePut
  split
  · rfl
  · exact fillUnlessHeld_still s _

@[simp] theorem dropRdc_still (line : Nat) : (dropRdc line s).still = s.still := rfl
@[simp] theorem clearHome_still (w : Nat) : (clearHome w s).still = s.still := rfl

@[simp] theorem homeGetWide_still (wide : Bool) (w : Nat) : (homeGetWide wide w s).2.still = s.still := by
  unfold homeGetWide
  cases wide <;> simp

@[simp] theorem homePutWide_still (wide : Bool) (w : Nat) (v : Word) : (homePutWide wide w v s).still = s.still := by
  unfold homePutWide
  cases wide <;> simp

@[simp] theorem setEvent_still (k : Nat) : (setEvent k s).still = s.still := by
  unfold setEvent
  split
  · exact State.onSlot_still s k fun _ => rfl
  · simp

@[simp] theorem watchFire_still (e : WatchEntry) : (watchFire e s).still = s.still := by simp [watchFire]

@[simp] theorem fireOn_still (w : Nat) (v : BitVec 32) : (fireOn w v s).still = s.still := by
  refine foldl_still s (fun s e => ?_) _
  split <;> simp

@[simp] theorem fireWatches_still (w : Nat) : (fireWatches w s).still = s.still := by simp [fireWatches]

@[simp] theorem dirWrite_still (h : Nat) (p : DirPost) : (dirWrite h p s).still = s.still := by
  rw [dirWrite, setEvent_still]
  exact State.onCore_still s h fun _ => rfl

@[simp] theorem dirPost_still (kind value line : Nat) : (dirPost kind value line s).still = s.still := by
  have hp : ∀ h p, (s.setCore h { s.core h with posts := p, dirNext := (s.core h).dirNext + 1 }).still = s.still := fun h p =>
    State.onCore_still s h (f := fun x => { x with posts := p, dirNext := x.dirNext + 1 }) fun _ => rfl
  unfold dirPost
  dsimp only
  split
  · exact hp ..
  · rw [dirWrite_still]
    exact hp ..

/-- Words read one after another. -/
theorem wordsBy_still {f : Nat → State → BitVec 32 × State} (hf : ∀ w s, (f w s).2.still = s.still) (w n : Nat) (s : State) :
    (wordsBy f w n s).2.still = s.still := by
  induction n generalizing w s with
  | zero => rfl
  | succ n ih => exact (ih (w + 1) _).trans (hf w s)

theorem bytesBy_still {f : Nat → State → BitVec 32 × State} (hf : ∀ w s, (f w s).2.still = s.still) (pa n : Nat) (s : State) :
    (bytesBy f pa n s).2.still = s.still := wordsBy_still hf ..

@[simp] theorem homePeek_still (w : Nat) : (homePeek w s).2.still = s.still := by
  unfold homePeek
  split
  · split <;> simp
  · simp

theorem readChain_still (n e : Nat) (s : State) : (readChain n e s).2.still = s.still := by
  induction n generalizing e s with
  | zero => rfl
  | succ n ih =>
    unfold readChain
    split
    · rfl
    · exact (ih _ _).trans (bytesBy_still (fun w s => homePeek_still s w) ..)

@[simp] theorem readChains_still (es : List Nat) : (readChains es s).2.still = s.still := by
  refine foldl_snd_still (fun x e => ?_) es _
  split
  · rfl
  · exact readChain_still ..

end Homes

/-! ### L1s, gathers and recalls (R192, R196, R212) -/

section L1s
variable (s : State)

@[simp] theorem onL1_still (c : Nat) (f : L1 → L1) : (onL1 c f s).still = s.still := State.onCore_still s c fun _ => rfl
@[simp] theorem l1Put_still (c w : Nat) (x : L1Word) : (l1Put c w x s).still = s.still := onL1_still ..
@[simp] theorem l1Drop_still (c w : Nat) : (l1Drop c w s).still = s.still := onL1_still ..
@[simp] theorem l1Acquire_still (c : Nat) : (l1Acquire c s).still = s.still := State.onCore_still s c fun _ => rfl

@[simp] theorem gatherWord_still (more : List Nat) (w : Nat) : (gatherWord more w s).still = s.still := by
  unfold gatherWord
  split
  · next op wide holders _ =>
    cases wide <;> simp [foldl_still]
  · rfl

@[simp] theorem gather_still (w : Nat) : (gather w s).still = s.still := by
  unfold gather
  dsimp only
  split
  · split
    · simp
    · rw [foldl_still _ fun s e => dirPost_still s _ _ _, State.onCore_still, foldl_still _ fun s w => gatherWord_still s _ w,
        readChains_still]
      exact fun _ => rfl
  · rfl

@[simp] theorem recallWord_still (w : Nat) : (recallWord w s).still = s.still := by
  unfold recallWord
  split
  · rfl
  · dsimp only
    split <;> simp
  · simp

@[simp] theorem homeRead_still (w : Nat) : (homeRead w s).2.still = s.still := by
  unfold homeRead
  split
  · split <;> simp
  · simp
  · simp

@[simp] theorem homeStore_still (w : Nat) (mask : BitVec 4) (v : BitVec 32) : (homeStore w mask v s).still = s.still := by
  simp [homeStore]

@[simp] theorem homeBytes_still (pa n : Nat) : (homeBytes pa n s).2.still = s.still :=
  bytesBy_still (fun w s => homeRead_still s w) ..

@[simp] theorem homeNat_still (pa n : Nat) : (homeNat pa n s).2.still = s.still := homeBytes_still ..

@[simp] theorem homePutBytes_still (pa : Nat) (bs : List (BitVec 8)) : (homePutBytes pa bs s).still = s.still :=
  foldl_still s (fun s _ => homeStore_still s ..) _

@[simp] theorem homePutNat_still (pa n v : Nat) : (homePutNat pa n v s).still = s.still := homePutBytes_still ..

end L1s

end Sys2Proof.Machine
end

section
/-! Entry of a trap, and the fault of a context (R109, R431). -/

namespace Sys2Proof.Machine

/-! ### The fault of a context -/

section Ctxs
variable (s : State)

theorem descPut_ctxs (ctx off n v : Nat) : (descPut ctx off n v s).ctxs = s.ctxs := by
  unfold descPut
  split
  · exact State.still_ctxs (homePutNat_still ..)
  · rfl

theorem tfind_onCtx {ctx : Nat} {c : Ctx} (f : Ctx → Ctx) (h : tfind s.ctxs ctx = some c) :
    tfind (s.onCtx ctx f).ctxs ctx = some (f c) := by
  simp [State.onCtx, h]

theorem stopCore_ctxs (reason src seq c : Nat) : (stopCore reason src seq c s).ctxs = s.ctxs := by
  unfold stopCore
  dsimp only
  split
  · rfl
  · split
    · rfl
    · exact foldl_keeps State.ctxs (fun s k => s.onSlot k stopSlot) (fun _ _ => rfl) _ _

theorem stopPartition_ctxs (ctx reason src : Nat) : (stopPartition ctx reason src s).ctxs = s.ctxs := by
  unfold stopPartition stopSpan
  split
  · rfl
  · exact foldl_keeps State.ctxs _ (fun s c => stopCore_ctxs s reason src _ c) _ _

theorem endCommand_ctxs (ctx op status : Nat) : (endCommand ctx op status s).ctxs = s.ctxs := by
  unfold endCommand
  dsimp only
  split <;> rfl

/-- A state code written is the context's state from then on (R430). -/
theorem ctxState_setCtxState {ctx code : Nat} {c : Ctx} (h : tfind s.ctxs ctx = some c) :
    ctxState (setCtxState ctx code s) ctx = code := by
  rw [ctxState, setCtxState, descPut_ctxs, tfind_onCtx s _ h]

theorem ctxState_congr {s t : State} (h : t.ctxs = s.ctxs) (ctx : Nat) : ctxState t ctx = ctxState s ctx := by
  rw [ctxState, ctxState, h]

/-- A context that is neither Free nor Faulted becomes Faulted (R431). -/
theorem ctxState_contextFault {ctx : Nat} {x : Ctx} (h : tfind s.ctxs ctx = some x) (h0 : x.st ≠ 0) (h7 : x.st ≠ 7)
    (cause core : Nat) (info epc : Word) : ctxState (contextFault ctx cause core info epc s) ctx = 7 := by
  simp only [contextFault, h, Bool.or_eq_true, decide_eq_true_eq, h0, h7, or_self, if_false]
  refine (ctxState_congr (foldl_keeps State.ctxs (fun s k => s.post (evt .kernelAbort k cause 0)) (fun _ _ => rfl) _ _) ctx).trans ?_
  rw [ctxState_congr (stopPartition_ctxs ..), ctxState_congr (endCommand_ctxs ..), ctxState_congr (endCommand_ctxs ..)]
  refine ctxState_setCtxState _ (c := { x with hyper := none }) (tfind_onCtx _ _ ?_)
  rw [descPut_ctxs, descPut_ctxs, descPut_ctxs, h]

end Ctxs

/-! ### Trap entry -/

section Entry
variable {s : State} {k c : Nat} {v e : Word}

/-- A slot as it stands at its handler (R109). -/
def trapped (c : Nat) (v e : Word) (sl : Slot) : Slot :=
  { sl.onSys (fun y => { y with cause := BitVec.ofNat 64 c, epc := e, tval := v, st := setBit y.st stTH true }) with
    pc := sl.sys.tvec, run := .running, phase := 0, keep := [], entered := 0, replay := none,
    traffic := { sl.traffic with xlat := [] } }

/-- Entry at a handler with no trap deferred by a replay (R109). -/
theorem enterTrap_handled (hr : (s.slot k).replay = none) (hth : (s.slot k).th = false) (htv : (s.slot k).sys.tvec ≠ 0#64) :
    enterTrap k c v e s = s.onSlot k (trapped c v e) := by
  have hh : ¬ ((s.slot k).th || decide ((s.slot k).sys.tvec = 0#64)) = true := by simp [hth, htv]
  simp only [enterTrap, hr, Slot.trapPrg, Option.bind_none, Option.getD_none, reduceCtorEq, if_false]
  exact if_neg hh

/-- Entry without a handler faults the context (R109, R431). -/
theorem ctxState_enterTrap (hr : (s.slot k).replay = none) (hf : (s.slot k).th = true ∨ (s.slot k).sys.tvec = 0#64) {x : Ctx}
    (h : tfind s.ctxs (s.slot k).bind.ctx = some x) (h0 : x.st ≠ 0) (h7 : x.st ≠ 7) :
    ctxState (enterTrap k c v e s) (s.slot k).bind.ctx = 7 := by
  have hh : ((s.slot k).th || decide ((s.slot k).sys.tvec = 0#64)) = true := by simpa using hf
  simp only [enterTrap, hr, Slot.trapPrg, Option.bind_none, Option.getD_none, reduceCtorEq, if_false, h]
  exact (congrArg (fun t => ctxState t _) (if_pos hh)).trans (ctxState_contextFault (s.setSlot k _) h h0 h7 ..)

/-- Entry of a trap with which the context faults (R461, R462). -/
theorem ctxState_enterFault {x : Ctx} (h : tfind s.ctxs (s.slot k).bind.ctx = some x) (h0 : x.st ≠ 0) (h7 : x.st ≠ 7) :
    ctxState (enterFault k c v e s) (s.slot k).bind.ctx = 7 := by
  refine ctxState_contextFault _ (x := x) ?_ h0 h7 ..
  split <;> exact h

theorem raiseTrap_quiet (hq : (s.slot k).quiet = true) : raiseTrap k c v e s = enterTrap k c v e s := if_pos hq

theorem raiseTrap_waits (hq : (s.slot k).quiet = false) :
    raiseTrap k c v e s = s.onSlot k fun sl => { sl with run := .parked (.trapEntry c v e) } := by
  rw [raiseTrap, hq]
  rfl

/-- A slot at its handler: what was saved, and what stays (R109). -/
theorem trapped_fields (hr : (s.slot k).replay = none) (hth : (s.slot k).th = false) (htv : (s.slot k).sys.tvec ≠ 0#64) :
    ∃ t, enterTrap k c v e s = t ∧ (t.slot k).pc = (s.slot k).sys.tvec ∧ (t.slot k).run = .running ∧
      (t.slot k).sys = { (s.slot k).sys with
        cause := BitVec.ofNat 64 c, epc := e, tval := v, st := (s.slot k).sys.st ||| 0x200#64 } ∧
      RegsKept (fun _ => False) (s.slot k) (t.slot k) ∧ t = { s with slots := t.slots } ∧ ∀ j, j ≠ k → t.slot j = s.slot j := by
  refine ⟨_, enterTrap_handled hr hth htv, ?_⟩
  rw [State.slot_onSlot_self]
  exact ⟨rfl, rfl, rfl, .of_files rfl rfl rfl rfl rfl, rfl, fun j hj => State.slot_onSlot_ne s _ hj⟩

end Entry

/-! ### The event TRAP_ENTRY -/

theorem exec_trapEntry {s : State} {c : Nat} {v e : Word} (h : (s.slot s.arg.k).run = .parked (.trapEntry c v e)) :
    exec .trapEntry s = .next (if (s.slot s.arg.k).quiet then enterTrap s.arg.k c v e s else s) := by
  have hx : exec .trapEntry s = execTrapEntry s := rfl
  simp [hx, execTrapEntry, event, h]

theorem exec_trapEntry_fault {s : State} {c : Nat} {v e : Word} (h : (s.slot s.arg.k).run = .parked (.faultEntry c v e)) :
    exec .trapEntry s = .next (if (s.slot s.arg.k).quiet then enterFault s.arg.k c v e s else s) := by
  have hx : exec .trapEntry s = execTrapEntry s := rfl
  simp [hx, execTrapEntry, event, h]

/-- Settles O6: entry at a handler, entry without one, and the wait for outstanding results, raised or by the event. -/
theorem trapEntrySavesAndVectors : Obligations.TrapEntrySavesAndVectors := by
  unfold Obligations.TrapEntrySavesAndVectors
  refine ⟨fun s k c v e hr => ⟨fun hq => ?raised, raiseTrap_waits⟩, fun s c v e x hrun => ?fault, fun s c v e hrun => ?entry⟩
  case raised =>
    rw [raiseTrap_quiet hq]
    exact ⟨trapped_fields hr, fun hf x hx h0 h7 => ctxState_enterTrap hr hf hx h0 h7⟩
  case fault =>
    have he := exec_trapEntry_fault hrun
    exact ⟨fun hq => by rw [he, hq]; rfl, fun hq hx h0 h7 => ⟨_, by rw [he, if_pos hq], ctxState_enterFault hx h0 h7⟩⟩
  case entry =>
    have he := exec_trapEntry hrun
    refine ⟨fun hq => by rw [he, hq]; rfl, fun hq hr hth htv => ?_⟩
    obtain ⟨t, ht, hpc, hrun', hsys, _, hframe, hslots⟩ := trapped_fields (c := c) (v := v) (e := e) hr hth htv
    have hbit : (t.slot s.arg.k).th = true := by
      rw [Slot.th, hsys, BitVec.getLsbD_or]
      exact Bool.or_true _
    exact ⟨t, by rw [he, if_pos hq, ht], hpc, hrun', by rw [hsys], by rw [hsys], by rw [hsys], hbit, hframe, hslots⟩

end Sys2Proof.Machine
end

section
/-! SUPPORT. How tasks start, end and are listed (R98 to R100, R416 to R418), what counters hold (R419), and what messages and answers
change (R359, R455): one lemma for each operation, which the statements on tasks use. -/

namespace Sys2Proof.Machine

/-! ### Cores -/

section Cores
variable (s : State)

/-- A property of a core that an update of some core keeps. -/
theorem State.core_onCore_keeps {β : Type} (p : Core → β) {f : Core → Core} (h : ∀ x, p (f x) = p x) (c d : Nat) :
    p ((s.onCore c f).core d) = p (s.core d) := by
  by_cases hd : d = c
  · subst hd
    rw [State.core_onCore_self, h]
  · rw [State.core_onCore_ne _ _ hd]

@[simp] theorem countRecv_arr (c vc n d : Nat) : ((countRecv c vc n s).core d).arr = (s.core d).arr := by
  rw [countRecv, s.core_onCore_keeps Core.arr]
  exact fun _ => rfl
@[simp] theorem countRecv_deque (c vc n d : Nat) : ((countRecv c vc n s).core d).deque = (s.core d).deque := by
  rw [countRecv, s.core_onCore_keeps Core.deque]
  exact fun _ => rfl
@[simp] theorem countRecv_runList (c vc n d : Nat) : ((countRecv c vc n s).core d).runList = (s.core d).runList := by
  rw [countRecv, s.core_onCore_keeps Core.runList]
  exact fun _ => rfl
@[simp] theorem countSent_arr (c vc n d : Nat) : ((countSent c vc n s).core d).arr = (s.core d).arr := by
  rw [countSent, s.core_onCore_keeps Core.arr]
  exact fun _ => rfl
@[simp] theorem countSent_deque (c vc n d : Nat) : ((countSent c vc n s).core d).deque = (s.core d).deque := by
  rw [countSent, s.core_onCore_keeps Core.deque]
  exact fun _ => rfl
@[simp] theorem countSent_runList (c vc n d : Nat) : ((countSent c vc n s).core d).runList = (s.core d).runList := by
  rw [countSent, s.core_onCore_keeps Core.runList]
  exact fun _ => rfl

@[simp] theorem roomMade_slots (c : Nat) : (roomMade c s).slots = s.slots := by unfold roomMade; split <;> rfl
@[simp] theorem roomMade_cur (c : Nat) : (roomMade c s).cur = s.cur := by unfold roomMade; split <;> rfl
@[simp] theorem roomMade_mark (c : Nat) : (roomMade c s).mark = s.mark := by unfold roomMade; split <;> rfl
@[simp] theorem roomMade_core (c d : Nat) : (roomMade c s).core d = s.core d := by unfold roomMade; split <;> rfl
@[simp] theorem roomMade_slot (c k : Nat) : (roomMade c s).slot k = s.slot k := by rw [State.slot, roomMade_slots]; rfl

theorem State.onGroup_eq (k : Nat) (f : Group → Group) : s.onGroup k f = { s with groups := (s.onGroup k f).groups } := by
  unfold State.onGroup
  split <;> rfl

theorem State.tfind_onGroup {k : Nat} {g : Group} (f : Group → Group) (h : tfind s.groups k = some g) :
    tfind (s.onGroup k f).groups k = some (f g) := by
  simp [State.onGroup, h]

end Cores

/-! ### Messages and answers -/

section Messages
variable (s : State)

/-- A message leaves under its sender's name (R359). -/
theorem mem_sendMsg_inflight (k : Nat) (m : Msg) :
    (s.mcyc + 17, ⟨m.ev, { m.arg with sender := k + 1, seq := if (s.slot k).det then (s.slot k).traffic.seq + 1 else 0, sent := s.mcyc }⟩) ∈
      (sendMsg k m s).inflight := by
  have hc : ∀ (e : Instr) (t : State), ((if counted e then countSent (coreOf k) 0 1 t else t)).inflight = t.inflight := fun e t => by
    split <;> rfl
  unfold sendMsg nameMsg
  cases hd : (s.slot k).det <;>
    simp only [hd, if_true, Bool.false_eq_true, if_false] <;> rw [hc] <;> exact State.mem_post_inflight ..

/-- What the sending of a message leaves of slots: a deterministic sender has used one more sequence number (R359). -/
theorem sendMsg_slots (k : Nat) (m : Msg) : (sendMsg k m s).slots = (if (s.slot k).det then s.onSlot k afterSend else s).slots := by
  have hc : ∀ (e : Instr) (t : State), ((if counted e then countSent (coreOf k) 0 1 t else t)).slots = t.slots := fun e t => by
    split <;> rfl
  unfold sendMsg nameMsg
  cases hd : (s.slot k).det
  · simp only [hd, Bool.false_eq_true, if_false]
    exact hc ..
  · simp only [hd, if_true]
    refine (hc ..).trans (congrArg (fun x => (s.setSlot k x).slots) ?_)
    simp [afterSend, hd]

/-- An answer: only groups, what is on its way and the waiting slot change (R374, R404). -/
theorem answerSlot_eq (k : Nat) (v : Word) : ∃ gs fl, answerSlot k v s = entryDone k v { s with groups := gs, inflight := fl } := by
  have hpop : ∀ (t : State), (∃ gs, t = { s with groups := gs }) → ∀ b : Bool, ∀ m, ∃ gs fl,
      (if b then t else t.soon m) = { s with groups := gs, inflight := fl } := by
    rintro _ ⟨gs, rfl⟩ b m
    cases b <;> exact ⟨_, _, rfl⟩
  unfold answerSlot
  dsimp only
  split
  · split
    · split
      · obtain ⟨gs, fl, h⟩ := hpop _ ⟨_, s.onGroup_eq _ _⟩ _ _
        exact ⟨gs, fl, congrArg _ h⟩
      · exact ⟨_, _, rfl⟩
    · exact ⟨_, _, rfl⟩
  · exact ⟨_, _, rfl⟩

end Messages

/-! ### Numbers in a local array, and counters (R419) -/

section Counters
variable (s : State)

theorem arrNat_arrPutNat_self (c off n v : Nat) : arrNat (arrPutNat c off n v s) c off n = v % 256 ^ n := by
  have h := memBytes_memPut (s.core c).arr off (bytesLE n v)
  rw [length_bytesLE] at h
  simp only [arrNat, arrBytes, arrPutNat, arrPut, State.core_onCore_self]
  rw [h, ofBytesLE_bytesLE]

theorem arrNat_arrPutNat_apart (c off n v off' m : Nat) (h : off' + m ≤ off ∨ off + n ≤ off') :
    arrNat (arrPutNat c off n v s) c off' m = arrNat s c off' m := by
  simp only [arrNat, arrBytes, arrPutNat, arrPut, State.core_onCore_self]
  refine congrArg ofBytesLE (memBytes_congr fun i hi => memByte_memPut_outside _ _ _ _ ?_)
  rw [length_bytesLE]
  omega

theorem ctrCount_lt (h c : Nat) : ctrCount s h c < 2 ^ 32 := Nat.mod_lt _ (by norm_num)

/-- What ARM and COUNT read after they are written. -/
theorem ctr_ctrPut (h c : Nat) (arm : Bool) {n : Nat} (hn : n < 2 ^ 32) :
    ctrCount (ctrPut h c arm n s) h c = n ∧ ctrArm (ctrPut h c arm n s) h c = arm := by
  have hv : arrNat (ctrPut h c arm n s) h (ctrOff c) 8 = (if arm then 2 ^ 63 else 0) + n := by
    rw [ctrPut, arrNat_arrPutNat_self]
    cases arm <;> simp <;> omega
  rw [ctrCount, ctrArm, hv]
  cases arm <;> simp <;> omega

/-- RECORD written leaves ARM and COUNT. -/
theorem ctr_ctrRecord (h c : Nat) (r : Word) : ctrCount (ctrRecord h c r s) h c = ctrCount s h c ∧
    ctrArm (ctrRecord h c r s) h c = ctrArm s h c := by
  have hv : arrNat (ctrRecord h c r s) h (ctrOff c) 8 = arrNat s h (ctrOff c) 8 :=
    arrNat_arrPutNat_apart s h _ 8 _ _ 8 (.inl (Nat.le_refl _))
  rw [ctrCount, ctrArm, hv]
  exact ⟨rfl, rfl⟩

/-- A counter reads the array of its home alone. -/
theorem ctr_congr {s t : State} {h : Nat} (ha : (t.core h).arr = (s.core h).arr) (c : Nat) :
    ctrCount t h c = ctrCount s h c ∧ ctrArm t h c = ctrArm s h c ∧
      arrNat t h (ctrOff c + 8) 8 = arrNat s h (ctrOff c + 8) 8 := by
  simp [ctrCount, ctrArm, arrNat, arrBytes, ha]

theorem ctrSettle_of_count {ctx h c : Nat} (hc : ctrCount s h c ≠ 0) : ctrSettle ctx h c s = s := by
  simp [ctrSettle, hc]

/-- A count lowered to n: at 0 with ARM set the record is enqueued, and ARM is clear (R419). -/
theorem ctrSettle_ctrPut (ctx h c : Nat) (arm : Bool) {n : Nat} (hn : n < 2 ^ 32) :
    let t := ctrSettle ctx h c (ctrPut h c arm n s)
    ctrCount t h c = n ∧ (ctrArm t h c = true ↔ arm = true ∧ n ≠ 0) ∧ (n = 0 → arm = true → (s.mcyc + 17, ⟨.tenqArrival,
      { Arg.reset with k := ctx, a := h, b := 1, w := BitVec.ofNat 64 (arrNat s h (ctrOff c + 8) 8), l := [1] }⟩) ∈ t.inflight) := by
  obtain ⟨hcount, harm⟩ := ctr_ctrPut s h c arm hn
  by_cases h0 : n = 0
  · subst h0
    cases arm with
    | false =>
      have ht : ctrSettle ctx h c (ctrPut h c false 0 s) = ctrPut h c false 0 s := by simp [ctrSettle, harm]
      simp [ht, hcount, harm]
    | true =>
      obtain ⟨hcount', harm'⟩ := ctr_ctrPut (ctrPut h c true 0 s) h c false hn
      have hrec : arrNat (ctrPut h c true 0 s) h (ctrOff c + 8) 8 = arrNat s h (ctrOff c + 8) 8 :=
        arrNat_arrPutNat_apart s h _ 8 _ _ 8 (.inr (Nat.le_refl _))
      have ht : ctrSettle ctx h c (ctrPut h c true 0 s) = enqueueLater h ctx (BitVec.ofNat 64 (arrNat s h (ctrOff c + 8) 8))
          (ctrPut h c false 0 (ctrPut h c true 0 s)) := by simp [ctrSettle, harm, hcount, hrec]
      rw [ht]
      exact ⟨hcount', iff_of_false (fun e => Bool.noConfusion (harm'.symm.trans e)) (by simp), fun _ _ => State.mem_post_inflight ..⟩
  · have ht : ctrSettle ctx h c (ctrPut h c arm n s) = ctrPut h c arm n s := ctrSettle_of_count _ (by rw [hcount]; exact h0)
    simp [ht, hcount, harm, h0]

end Counters

/-! ### The start of a task (R99) -/

/-- What a slot that starts a record holds (R98, R99). -/
def TaskRegs (sl : Slot) (x : Word) (bs : List (BitVec 8)) : Prop :=
  sl.sys.trec = x ∧ sl.pc = recWord bs 0 &&& ~~~1#64 ∧ sl.rg 2 = recWord bs 1 ∧ sl.rg 4 = recWord bs 2 ∧
    sl.rg 5 = recWord bs 3 ∧ sl.rg 6 = recWord bs 4 ∧ sl.rg 7 = recWord bs 5 ∧
    (∀ n, n ≠ 2 → n ≠ 4 → n ≠ 5 → n ≠ 6 → n ≠ 7 → sl.rg n = 0) ∧ ∀ n, n < 16 → sl.rv n = vzero

/-- Element n of a file that holds one value everywhere. -/
theorem vget_replicate {α : Type} (n i : Nat) (d : α) : vget (Vector.replicate n d) i d = d := by
  unfold vget
  by_cases h : i < n <;> simp [h]

section Start
variable (s : State)

theorem disarm_slots (ctx : Nat) (bs : List (BitVec 8)) : (disarm ctx bs s).slots = s.slots := by
  unfold disarm
  dsimp only
  split <;> rfl

theorem disarm_still (ctx : Nat) (bs : List (BitVec 8)) : (disarm ctx bs s).still = s.still := by
  unfold disarm
  dsimp only
  split
  · exact State.onCore_still s _ fun _ => rfl
  · rfl

/-- A slot as it starts a record with an owner and its `coord`, in the cycle `now` (R99). -/
def taskSlot (x : Word) (bs : List (BitVec 8)) (now : Nat) (owner : Option Nat) (coord : Word) (sl : Slot) : Slot :=
  { sl.startRegs now with
    g := vset (vset (vset (vset (vset (Vector.replicate 32 0) 2 (recWord bs 1)) 4 (recWord bs 2)) 5 (recWord bs 3)) 6
      (recWord bs 4)) 7 (recWord bs 5),
    pc := setBit (recWord bs 0) 0 false, bind := { sl.bind with owner := owner },
    sys := { (sl.startRegs now).sys with trec := x, coord := coord } }

theorem taskRegs_taskSlot (x : Word) (bs : List (BitVec 8)) (now : Nat) (owner : Option Nat) (coord : Word) (sl : Slot) :
    TaskRegs (taskSlot x bs now owner coord sl) x bs := by
  refine ⟨rfl, rfl, rfl, rfl, rfl, rfl, rfl, fun n h2 h4 h5 h6 h7 => ?_, fun n _ => vget_replicate ..⟩
  by_cases h0 : n = 0
  · rw [h0, Slot.rg_zero]
    rfl
  · simp only [Slot.rg, if_neg h0, taskSlot, vget_vset_ne _ _ _ h2, vget_vset_ne _ _ _ h4, vget_vset_ne _ _ _ h5,
      vget_vset_ne _ _ _ h6, vget_vset_ne _ _ _ h7]
    exact vget_replicate ..

/-- The start of a task changes its slot, the susp list of its group and its core (R99). -/
theorem startWith_eq (k ctx : Nat) (x : Word) (bs : List (BitVec 8)) : ∃ (t : State) (now : Nat) (owner : Option Nat) (coord : Word),
    startWith k ctx x bs s = l1Acquire (coreOf k) (disarm ctx bs (t.onSlot k (taskSlot x bs now owner coord))) ∧
      (t.slot k).pend = (s.slot k).pend ∧ t = { s with slots := t.slots, groups := t.groups } := by
  have hbind : ∀ b : Bool, let t := if b then s else s.onSlot k (·.unbind ctx);
      (t.slot k).pend = (s.slot k).pend ∧ t = { s with slots := t.slots } := fun b => by
    cases b
    · exact ⟨(congrArg Slot.pend (s.slot_onSlot_self k (·.unbind ctx)) :), rfl⟩
    · exact ⟨rfl, rfl⟩
  obtain ⟨hp, ht⟩ := hbind ((s.slot k).bind.bound && (s.slot k).bind.ctx = ctx)
  unfold startWith
  dsimp only
  generalize (if (s.slot k).bind.bound && (s.slot k).bind.ctx = ctx then s else s.onSlot k (·.unbind ctx)) = u at hp ht ⊢
  cases suspGroup u ctx x with
  | none => exact ⟨u, _, _, _, rfl, hp, by rw [ht]⟩
  | some g =>
    refine ⟨u.onGroup g fun y => { y with susp := y.susp.erase x }, _, some g, _, rfl, ?_, ?_⟩
    · rw [State.onGroup_slot, hp]
    · rw [State.onGroup_eq, ht]

end Start

end Sys2Proof.Machine
end

section
namespace Sys2Proof.Machine

section Start
variable (s : State)

/-- A slot that has started a record runs with the record's registers, and owes what it owed (R99). -/
theorem startWith_fields (k ctx : Nat) (x : Word) (bs : List (BitVec 8)) : let t := startWith k ctx x bs s
    (t.slot k).run = .running ∧ TaskRegs (t.slot k) x bs ∧ (t.slot k).replay = none ∧
      (t.slot k).pend.isEmpty = (s.slot k).pend.isEmpty ∧ t.cur = s.cur ∧ t.mark = s.mark ∧
      ∀ c, (t.core c).still = (s.core c).still := by
  intro t
  obtain ⟨u, now, owner, coord, ht, hp, hu⟩ := startWith_eq s k ctx x bs
  have hslot : t.slot k = taskSlot x bs now owner coord (u.slot k) := by
    have h : t.slots = (u.onSlot k (taskSlot x bs now owner coord)).slots := by rw [show t = _ from ht]; exact disarm_slots ..
    rw [State.slot, h]
    exact State.slot_onSlot_self ..
  have hstill : t.still = (u.onSlot k (taskSlot x bs now owner coord)).still := by
    rw [show t = _ from ht, l1Acquire_still, disarm_still]
  refine ⟨by rw [hslot]; rfl, hslot ▸ taskRegs_taskSlot .., by rw [hslot]; rfl, ?_, ?_, ?_, fun c => ?_⟩
  · rw [hslot, ← hp]
    exact List.isEmpty_map
  · exact (State.still_cur hstill).trans (congrArg State.cur hu :)
  · exact (congrArg State.mark (State.still_state hstill) :).trans (congrArg State.mark hu :)
  · exact (State.still_core hstill c).trans (congrArg (fun v => (State.core v c).still) hu :)

theorem startRecord_of_bytes {k ctx : Nat} {x : Word} {bs : List (BitVec 8)} {v : State}
    (h : slotBytes k ctx x.toNat 64 s = (some bs, v)) : startRecord k ctx x s = (true, startWith k ctx x bs v) := by
  simp [startRecord, h]

/-- A record that starts has been read (R99). -/
theorem startRecord_true {k ctx : Nat} {x : Word} {u : State} (h : startRecord k ctx x s = (true, u)) :
    ∃ bs v, slotBytes k ctx x.toNat 64 s = (some bs, v) ∧ u = startWith k ctx x bs v := by
  unfold startRecord at h
  generalize slotBytes k ctx x.toNat 64 s = r at h ⊢
  obtain ⟨_ | bs, v⟩ := r
  · exact absurd (congrArg Prod.fst h) (by simp)
  · exact ⟨bs, v, rfl, (congrArg Prod.snd h).symm⟩

end Start

/-! ### The work that a slot takes (R416) -/

section Takes
variable {s u : State} {k : Nat} {e : RunEntry}

/-- A slot that takes an entry of its core's run list (R416). -/
theorem takeListed_entry (hb : (if (s.slot k).det && (s.slot k).bind.bound then nextBound s k else none) = none)
    (he : nextEntry s k = some e) (hr : startRecord k e.ctx e.record s = (true, u)) :
    takeListed k s = roomMade (coreOf k) (u.onCore (coreOf k) fun x => { x with runList := x.runList.erase e }) := by
  simp only [takeListed, hb, he, hr]

theorem takeListed_bound {g i : Nat} (hd : (s.slot k).det = true) (hbound : (s.slot k).bind.bound = true)
    (hb : nextBound s k = some (g, i)) : takeListed k s = startBound g i k s := by
  simp only [takeListed, hd, hbound, hb, Bool.and_self, if_true]

theorem takeListed_none (hb : (if (s.slot k).det && (s.slot k).bind.bound then nextBound s k else none) = none)
    (he : nextEntry s k = none) : takeListed k s = s := by
  simp only [takeListed, hb, he]

/-- No task of dispatch comes before the run list (R358). -/
theorem noBound_of (h : (s.slot k).det = false ∨ (s.slot k).bind.bound = false ∨ nextBound s k = none) :
    (if (s.slot k).det && (s.slot k).bind.bound then nextBound s k else none) = none := by
  rcases h with h | h | h
  · simp [h]
  · simp [h]
  · rw [h]
    exact ite_self _

theorem takeWork_idle (h : (s.slot k).run ≠ .free ∨ (s.core (coreOf k)).stopped = true) : takeWork k s = s := by
  refine if_pos ?_
  simpa using h

/-- A Free slot whose task did not end by TPICK looks at the run list first (R416). -/
theorem takeWork_free (hrun : (s.slot k).run = .free) (hstop : (s.core (coreOf k)).stopped = false)
    (hphase : (s.slot k).phase ≠ 5) : takeWork k s =
      let t := takeListed k (s.onSlot k fun sl => { sl with phase := 0 })
      if (t.slot k).run != .free || (nextEntry t k).isSome then t else (nextBound t k).elim t fun x => startBound x.1 x.2 k t := by
  simp only [takeWork, hrun, hstop, picking, hphase, decide_false, bne_self_eq_false, Bool.or_self, Bool.false_eq_true, if_false]
  cases nextBound (takeListed k (s.onSlot k fun sl => { sl with phase := 0 })) k <;> rfl

end Takes

/-! ### Task i of a group (R414) -/

section Bound
variable {s : State} {gk i k : Nat} {g : Group} {kn : Kernel}

/-- A slot bound to a group as its task i (R100, R394). -/
def groupSlot (gk i : Nat) (g : Group) (kn : Kernel) (sl : Slot) : Slot :=
  let sl := setWindows kn (sl.bindRegs (mix64 (BitVec.ofNat 64 i) (BitVec.ofNat 64 g.ticket)))
  { sl with bind := ⟨kn.ctx, g.kernel, gk, i, true, none⟩, tmrPend := false, traffic := { sl.traffic with seq := 0 },
            sys := { sl.sys with st := setBit (setBit sl.sys.st stSV kn.sv) stDET kn.det,
                                 mode := setBit sl.sys.mode 3 (kn.np && !manyDies kn) } }

/-- That slot as its task starts in the cycle `now` (R99, R414). -/
def boundSlot (gk i : Nat) (g : Group) (kn : Kernel) (now : Nat) (coord : Word) (sl : Slot) : Slot :=
  let sl := (groupSlot gk i g kn sl).startRegs now
  { sl with pc := BitVec.ofNat 64 (kn.entries.getD (if kn.stages = 0 then 0 else g.index % kn.stages) 0),
            bind := { sl.bind with owner := some gk }, sys := { sl.sys with trec := 0, coord := coord } }

theorem startBound_slot (hg : tfind s.groups gk = some g) (hk : tfind s.kernels g.kernel = some kn) :
    ∃ now coord, (startBound gk i k s).slot k = boundSlot gk i g kn now coord (s.slot k) := by
  refine ⟨(bindSlot gk g kn i k s).mcyc, coordWord i g.index (if kn.stages = 0 then 0 else g.index % kn.stages)
    (octetX g.octet - kn.ox, octetY g.octet - kn.oy), ?_⟩
  simp only [startBound, hg, hk]
  refine (State.onGroup_slot ..).trans ((State.slot_onSlot_self ..).trans ?_)
  rw [bindSlot, State.slot_onSlot_self]
  rfl

/-- A slot that starts a task of its group (R100, R414). -/
theorem startBound_fields (hg : tfind s.groups gk = some g) (hk : tfind s.kernels g.kernel = some kn) :
    let t := startBound gk i k s
    (t.slot k).run = .running ∧ (t.slot k).bind.group = gk ∧ (t.slot k).bind.bound = true ∧
      (t.slot k).pc = BitVec.ofNat 64 (kn.entries.getD (if kn.stages = 0 then 0 else g.index % kn.stages) 0) ∧
      (t.slot k).det = kn.det ∧ (t.slot k).sv = kn.sv ∧ (t.slot k).th = false ∧ (t.slot k).sys.tvec = 0 ∧ ∀ n, (t.slot k).rg n = 0 := by
  obtain ⟨now, coord, h⟩ := startBound_slot (i := i) (k := k) hg hk
  have hst : (boundSlot gk i g kn now coord (s.slot k)).sys.st =
      setSlice (setBit (setBit (s.slot k).sys.st stSV kn.sv) stDET kn.det) 9 0 0 := rfl
  have hbit : ∀ j, ¬ (0 ≤ j ∧ j ≤ 9) → (boundSlot gk i g kn now coord (s.slot k)).sys.st.getLsbD j =
      (setBit (setBit (s.slot k).sys.st stSV kn.sv) stDET kn.det).getLsbD j := fun j hj =>
    (congrArg (BitVec.getLsbD · j) hst).trans ((getLsbD_setSlice ..).trans (if_neg hj))
  intro t
  rw [show t.slot k = _ from h]
  refine ⟨rfl, rfl, rfl, rfl, ?_, ?_, ?_, rfl, fun n => ?_⟩
  · exact (hbit stDET (by decide)).trans ((getLsbD_setBit ..).trans (if_pos rfl))
  · exact (hbit stSV (by decide)).trans (((getLsbD_setBit ..).trans (if_neg (by decide))).trans ((getLsbD_setBit ..).trans (if_pos rfl)))
  · exact (congrArg (BitVec.getLsbD · 9) hst).trans (getLsbD_setSlice ..)
  · unfold Slot.rg
    split
    · rfl
    · exact vget_replicate ..

end Bound

end Sys2Proof.Machine
end

section
/-! Part of O56. Starts, releases, timers, aging and steals (R94, R99, R107, R416, R417): what each event leaves. -/

namespace Sys2Proof.Machine

variable (s : State)

/-- What an event does is its function. -/
theorem happens_event {e : Instr} {f : State → State} {s t : State} (he : exec e s = event f s) (h : f s = t) : Happens e s t :=
  he.trans (congrArg Host.Outcome.next h)

/-! ### TASK_START -/

section Starts

/-- A slot that takes an entry of its core's run list runs its record (R99, R416). -/
theorem takeListed_fields {s v : State} {k : Nat} {e : RunEntry} {bs : List (BitVec 8)}
    (hb : (if (s.slot k).det && (s.slot k).bind.bound then nextBound s k else none) = none)
    (he : nextEntry s k = some e) (hbs : slotBytes k e.ctx e.record.toNat 64 s = (some bs, v)) :
    let t := takeListed k s
    (t.slot k).run = .running ∧ TaskRegs (t.slot k) e.record bs ∧
      (t.core (coreOf k)).runList = (v.core (coreOf k)).runList.erase e := by
  obtain ⟨hr, htask, _, _, _, _, hcore⟩ := startWith_fields v k e.ctx e.record bs
  have hlist : ((startWith k e.ctx e.record bs v).core (coreOf k)).runList = (v.core (coreOf k)).runList := (congrArg Core.runList (hcore _) :)
  rw [takeListed_entry hb he (startRecord_of_bytes _ hbs)]
  generalize startWith k e.ctx e.record bs v = u at hr htask hlist
  refine ⟨?_, ?_, ?_⟩
  · rw [roomMade_slot]
    exact hr
  · rw [roomMade_slot]
    exact htask
  · rw [roomMade_core, State.core_onCore_self, hlist]

variable {s} {k : Nat} (hrun : (s.slot k).run = .free) (hstop : (s.core (coreOf k)).stopped = false) (hphase : (s.slot k).phase ≠ 5)
include hrun hstop hphase

/-- A Free slot takes the run-list entry that is its turn (R416). -/
theorem takeWork_entry {e : RunEntry} {bs : List (BitVec 8)} {v : State}
    (hfirst : (s.slot k).det = false ∨ (s.slot k).bind.bound = false ∨ nextBound (s.onSlot k fun sl => { sl with phase := 0 }) k = none)
    (he : nextEntry (s.onSlot k fun sl => { sl with phase := 0 }) k = some e)
    (hbs : slotBytes k e.ctx e.record.toNat 64 (s.onSlot k fun sl => { sl with phase := 0 }) = (some bs, v)) :
    let t := takeWork k s
    (t.slot k).run = .running ∧ TaskRegs (t.slot k) e.record bs ∧
      (t.core (coreOf k)).runList = (v.core (coreOf k)).runList.erase e := by
  have hb := noBound_of (s := s.onSlot k fun sl => { sl with phase := 0 }) (k := k) (by rw [State.slot_onSlot_self]; exact hfirst)
  obtain ⟨hr, htask, hlist⟩ := takeListed_fields hb he hbs
  have hwork : takeWork k s = takeListed k (s.onSlot k fun sl => { sl with phase := 0 }) := by
    rw [takeWork_free hrun hstop hphase]
    refine if_pos ?_
    rw [hr]
    rfl
  rw [hwork]
  exact ⟨hr, htask, hlist⟩

/-- A Free slot starts the task that dispatch has waiting for it, first in a deterministic slot, else after the run list (R358, R416). -/
theorem takeWork_bound {gk i : Nat} {g : Group} {kn : Kernel}
    (hfirst : nextEntry (s.onSlot k fun sl => { sl with phase := 0 }) k = none ∨ ((s.slot k).det = true ∧ (s.slot k).bind.bound = true))
    (hb : nextBound (s.onSlot k fun sl => { sl with phase := 0 }) k = some (gk, i))
    (hg : tfind s.groups gk = some g) (hk : tfind s.kernels g.kernel = some kn) :
    takeWork k s = startBound gk i k (s.onSlot k fun sl => { sl with phase := 0 }) := by
  have hstart := (startBound_fields (s := s.onSlot k fun sl => { sl with phase := 0 }) (i := i) (k := k) hg hk).1
  rw [takeWork_free hrun hstop hphase]
  by_cases hd : (s.slot k).det = true ∧ (s.slot k).bind.bound = true
  · have ht := takeListed_bound (s := s.onSlot k fun sl => { sl with phase := 0 }) (k := k)
      (by rw [State.slot_onSlot_self]; exact hd.1) (by rw [State.slot_onSlot_self]; exact hd.2) hb
    rw [ht]
    simp only [hstart]
    rfl
  · have hn := hfirst.resolve_right hd
    have ht := takeListed_none (noBound_of (s := s.onSlot k fun sl => { sl with phase := 0 }) (k := k) (by
      rw [State.slot_onSlot_self]
      refine (Decidable.not_and_iff_or_not.mp hd).imp Bool.eq_false_iff.mpr fun h => .inl (Bool.eq_false_iff.mpr h))) hn
    rw [ht]
    simp only [State.slot_onSlot_self, hrun, hn, hb]
    rfl

end Starts

/-! ### PARK_RELEASE -/

theorem endOfBody1_replay (x : Slot) (a : Word) (k : Bool) : (endOfBody1 x a k).1.replay = x.replay := by
  unfold endOfBody1
  dsimp only
  split
  · cases k <;> split <;> rfl
  · rfl

theorem endOfBody_replay (x : Slot) (a next : Word) : (endOfBody x a next).replay = x.replay := by
  have h1 := endOfBody1_replay x a true
  unfold endOfBody
  split
  · next y t he => exact (congrArg (·.1.replay) he).symm.trans h1
  · next y he =>
    have h0 := (endOfBody1_replay y a false).trans ((congrArg (·.1.replay) he).symm.trans h1)
    split
    · next z t hz => exact (congrArg (·.1.replay) hz).symm.trans h0
    · next z hz => exact (congrArg (·.1.replay) hz).symm.trans h0

section Releases
variable {s} {k : Nat}

/-- A slot that passes its marker with no replay ends the body that waited (R45, R150). -/
theorem passMarker_body (pc : Word) (hr : (s.slot k).replay = none) :
    passMarker k (some pc) s = s.onSlot k fun sl => endOfBody { sl with run := .running } pc sl.pc := by
  have hkeep := (endOfBody_replay { s.slot k with run := .running } pc (s.slot k).pc).trans hr
  simp only [passMarker, State.slot_onSlot_self, hkeep]
  rfl

variable {r : Reason} (hrun : (s.slot k).run = .parked r)
include hrun

theorem release_waits (h : reasonHolds s k r = false) : release k s = s := by
  rw [release, hrun]
  exact if_pos (by rw [h]; rfl)

/-- What a parked slot whose reason holds does (R94, R115). -/
theorem release_holds (h : reasonHolds s k r = true) : release k s = match (generalizing := false) r with
    | .marker body => passMarker k body s
    | .event => s.onSlot k fun sl => { sl with run := .running, phase := 1 }
    | _ => s.onSlot k fun sl => { sl with run := .running } := by
  rw [release, hrun]
  exact (if_neg (by rw [h]; decide)).trans (by cases r <;> rfl)

theorem release_runs (h : reasonHolds s k r = true) (hev : r ≠ .event) (hm : ∀ x, r ≠ .marker x) :
    release k s = s.onSlot k fun sl => { sl with run := .running } := by
  rw [release_holds hrun h]
  cases r with
  | event => exact absurd rfl hev
  | marker x => exact absurd rfl (hm x)
  | _ => rfl

end Releases

/-! ### TIMER_EXPIRY -/

/-- A timer at 0 sets EV, and the pending timer cause where TMRC says so (R107). -/
theorem expire_fields {k : Nat} (hk : k < 65536) : let t := expire k s
    (t.slot k).sys.tmr = 0 ∧ (t.slot k).sys.st.getLsbD 6 = true ∧
      (t.slot k).tmrPend = ((s.slot k).tmrPend || (s.slot k).sys.tmrc.getLsbD 0) ∧ (t.slot k).pc = (s.slot k).pc := by
  intro t
  have ht : t.slot k = Slot.setSt { s.slot k with
      tmrPend := (s.slot k).tmrPend || (s.slot k).sys.tmrc.getLsbD 0, sys := { (s.slot k).sys with tmr := 0 } } stEV true := by
    rw [show t = _ from if_pos hk, State.slot_onSlot_self, State.slot_onSlot_self]
  rw [ht]
  exact ⟨rfl, (getLsbD_setBit ..).trans (if_pos rfl), rfl, rfl⟩

/-! ### Steals (R417) -/

section Steals
variable {s} {k : Nat}

theorem det_of_maySteal (h : maySteal s k = true) : (s.slot k).det = false := by
  simp only [maySteal, Bool.and_eq_true, Bool.not_eq_true'] at h
  exact h.1.1.1.1.1.2

/-- The request for the next victim of slot k. -/
def stealAsk (s : State) (k : Nat) : Msg :=
  ⟨.stealRequestArrival, { Arg.reset with k := k, a := victim (coreOf k) (s.slot k).steal, c := (s.slot k).bind.ctx }⟩

/-- A slot that may steal asks its next victim. -/
theorem stealAttempt_fields (h : maySteal s k = true) : let t := sendMsg k (stealAsk s k) (s.onSlot k fun sl => { sl with steal := sl.steal + 1 })
    (t.slot k).steal = (s.slot k).steal + 1 ∧ (s.mcyc + 17, ⟨.stealRequestArrival, { Arg.reset with
      k := k, a := victim (coreOf k) (s.slot k).steal, c := (s.slot k).bind.ctx, sender := k + 1, sent := s.mcyc }⟩) ∈ t.inflight := by
  have hu : (s.onSlot k fun sl => { sl with steal := sl.steal + 1 }).slot k = { s.slot k with steal := (s.slot k).steal + 1 } :=
    State.slot_onSlot_self ..
  have hd : ((s.onSlot k fun sl => { sl with steal := sl.steal + 1 }).slot k).det = false := by rw [hu]; exact det_of_maySteal h
  have hmsg := mem_sendMsg_inflight (s.onSlot k fun sl => { sl with steal := sl.steal + 1 }) k (stealAsk s k)
  rw [if_neg (by rw [hd]; decide)] at hmsg
  refine ⟨?_, hmsg⟩
  rw [State.slot, sendMsg_slots, hd]
  exact congrArg Slot.steal hu

theorem exec_stealAttempt (s : State) : exec .stealAttempt s = .next (if !maySteal s s.arg.k then s else
    let u := s.onSlot s.arg.k fun sl => { sl with steal := sl.steal + 1 }
    sendMsg s.arg.k ⟨.stealRequestArrival, { Arg.reset with
      k := s.arg.k, a := victim (coreOf s.arg.k) (s.slot s.arg.k).steal, c := (u.slot s.arg.k).bind.ctx }⟩ u) := rfl

theorem happens_stealAttempt_idle (h : maySteal s s.arg.k = false) : Happens .stealAttempt s s := by
  rw [Happens, exec_stealAttempt, h]
  rfl

theorem happens_stealAttempt (h : maySteal s s.arg.k = true) : Happens .stealAttempt s
    (sendMsg s.arg.k (stealAsk s s.arg.k) (s.onSlot s.arg.k fun sl => { sl with steal := sl.steal + 1 })) := by
  rw [Happens, exec_stealAttempt, h]
  dsimp only
  rw [State.slot_onSlot_self]
  rfl

/-- The victim's answer: with a record or with none. -/
def stealReply (r : Option Word) (s : State) : State :=
  countSent s.arg.a 0 1 (s.post ⟨.stealAnswerArrival,
    { Arg.reset with k := s.arg.k, b := if r.isSome then 1 else 0, c := s.arg.c, w := r.getD 0 }⟩)

theorem mem_stealReply_inflight (r : Option Word) (s : State) : (s.mcyc + 17, ⟨.stealAnswerArrival,
    { Arg.reset with k := s.arg.k, b := if r.isSome then 1 else 0, c := s.arg.c, w := r.getD 0 }⟩) ∈ (stealReply r s).inflight :=
  State.mem_post_inflight ..

theorem stealReply_deque (r : Option Word) (s : State) (c : Nat) : ((stealReply r s).core c).deque = (s.core c).deque :=
  countSent_deque ..

theorem stealRequest_det (h : coreDet s s.arg.a = true) : stealRequest s = stealReply none (countRecv s.arg.a 0 1 s) := if_pos h

/-- A victim without an entry of that kind in a ring looks at the top of its deque. -/
theorem stealRequest_deque (h : coreDet s s.arg.a = false) (hr : ringOldest s s.arg.a 0 = none) :
    stealRequest s = match (s.core s.arg.a).deque with
      | e :: es => if e.ctx ≠ s.arg.c then stealReply none (countRecv s.arg.a 0 1 s)
        else stealReply (some e.record) ((countRecv s.arg.a 0 1 s).onCore s.arg.a fun x => { x with deque := es })
      | [] => stealReply none (countRecv s.arg.a 0 1 s) := by
  have hd : coreDet (countRecv s.arg.a 0 1 s) s.arg.a = false := h
  have hn : ringOldest (countRecv s.arg.a 0 1 s) s.arg.a 0 = none := hr
  have hq := countRecv_deque s s.arg.a 0 1 s.arg.a
  unfold stealRequest
  simp only [hd, hn, hq, Bool.false_eq_true, if_false]
  cases (s.core s.arg.a).deque with
  | nil => rfl
  | cons e es => simp only [bne_iff_ne]; rfl

/-- A slot that finds its answer with a record, and that still takes work, starts it. -/
theorem stealAnswer_starts (hb : s.arg.b ≠ 0) (ho : ctxOpen s s.arg.c = true) (hrun : (s.slot s.arg.k).run = .free)
    (hstop : (s.core (coreOf s.arg.k)).stopped = false) {bs : List (BitVec 8)} {v : State}
    (hbs : slotBytes s.arg.k s.arg.c s.arg.w.toNat 64 s = (some bs, v)) :
    stealAnswer s = countRecv (coreOf s.arg.k) 0 1 (startWith s.arg.k s.arg.c s.arg.w bs v) := by
  have hgone : ctxGone s s.arg.c = false := by
    rw [ctxOpen] at ho
    rw [ctxGone, ctxState]
    cases hx : tfind s.ctxs s.arg.c with
    | none => simp [hx] at ho
    | some c =>
      simp only [hx, Bool.and_eq_true, Bool.or_eq_true, decide_eq_true_eq] at ho ⊢
      rcases ho.1 with h | h <;> rw [h] <;> rfl
  simp only [stealAnswer, hb, hgone, ho, hrun, hstop, startRecord_of_bytes s hbs, decide_false, Bool.or_self, Bool.false_eq_true, if_false,
    beq_self_eq_true, Bool.not_false, Bool.and_self, if_true]

theorem stealAnswer_drops (h : s.arg.b = 0 ∨ ctxGone s s.arg.c = true) : stealAnswer s = countRecv (coreOf s.arg.k) 0 1 s := by
  refine if_pos ?_
  simpa using h

end Steals

end Sys2Proof.Machine
end

section
/-! Part of O56. The overflow rings (R418), counters (R419), enqueues (R421, R425) and watches (R426) at their homes. -/

namespace Sys2Proof.Machine

variable (s : State)

/-! ### Answers -/

/-- An answer reaches the slot that waits for it, and no array and no watch (R374). -/
theorem answerSlot_fields (k : Nat) (v : Word) : let t := answerSlot k v s
    (∀ c, t.core c = s.core c) ∧ t.watches = s.watches ∧
      ((s.slot k).phase = 1 → (t.slot k).phase = 2 ∧ (t.slot k).keep = [v]) := by
  obtain ⟨gs, fl, h⟩ := answerSlot_eq s k v
  intro t
  rw [show t = _ from h]
  refine ⟨fun _ => rfl, rfl, fun hp => ?_⟩
  rw [entryDone, State.slot_onSlot_self, if_pos (show (State.slot { s with groups := gs, inflight := fl } k).phase = 1 from hp)]
  exact ⟨rfl, rfl⟩

/-- A watch request's answer to an instruction that waits. -/
theorem answerEither_fields (k d : Nat) (v : Word) : let t := answerEither k 0 d v s
    t.watches = s.watches ∧ ((s.slot k).phase = 1 → (t.slot k).keep = [v]) := by
  obtain ⟨_, hw, hk⟩ := answerSlot_fields s k v
  exact ⟨hw, fun h => (hk h).2⟩

/-! ### OVERFLOW_RING_REFILL -/

section Rings
variable {s} {c : Nat} (hold : (s.core c).holding = none)
include hold

theorem refill_idle (h0 : ringOldest s c 0 = none) (h1 : ringOldest s c 1 = none) : refill c s = s := by
  simp only [refill, hold, h0, h1, ite_self]

/-- An entry of a run list comes back, in the order of age (R418). -/
theorem refill_run (hlen : (s.core c).runList.length < 64) {ctx : Nat} {r : RingEntry} {x : Word} {u : State}
    (h1 : ringOldest s c 1 = some (ctx, r)) (ht : takeRing ctx r s = (some x, u)) (h0 : ringOldest u c 0 = none) :
    ((refill c s).core c).runList = insertRun ⟨r.level, x, ctx, r.since⟩ (u.core c).runList := by
  have h0' : ringOldest ((u.onCore c fun y => { y with runList := insertRun ⟨r.level, x, ctx, r.since⟩ y.runList }).post
      (evt .overflowRingRefill c 0 0)) c 0 = none := h0
  simp only [refill, hold, if_pos hlen, h1, ht, h0', ite_self]
  rw [State.post_core, State.core_onCore_self]

/-- An entry of a deque comes back, in the order of age (R418). -/
theorem refill_deque (h1 : ringOldest s c 1 = none) (hlen : (s.core c).deque.length < 64) {ctx : Nat} {r : RingEntry} {x : Word}
    {u : State} (h0 : ringOldest s c 0 = some (ctx, r)) (ht : takeRing ctx r s = (some x, u)) :
    ((refill c s).core c).deque = insertDeque ⟨x, ctx, r.since⟩ (u.core c).deque := by
  simp only [refill, hold, h1, ite_self, if_pos hlen, h0, ht]
  rw [State.post_core, State.core_onCore_self]

end Rings

/-! ### TDEC_ARRIVAL -/

section Tdec
variable {s} (hctx : ctxGone s s.arg.k = false) (hl : s.arg.l ≠ [1])
include hctx hl

/-- The message taken at the home (R455). -/
def tdecTaken (s : State) : State := if s.arg.l.isEmpty then countRecv s.arg.a 0 1 s else s

theorem tdecArrive_eq : tdecArrive s =
    let u := tdecTaken s
    if ctrCount s s.arg.a s.arg.b = 0 then u.onKernel s.arg.c fun k => { k with disc := k.disc + 1 }
    else ctrSettle s.arg.k s.arg.a s.arg.b (ctrPut s.arg.a s.arg.b (ctrArm s s.arg.a s.arg.b) (ctrCount s s.arg.a s.arg.b - 1) u) := by
  have harr : ((tdecTaken s).core s.arg.a).arr = (s.core s.arg.a).arr := by
    unfold tdecTaken
    split
    · exact countRecv_arr ..
    · rfl
  have hgone : ctxGone (tdecTaken s) s.arg.k = false := by
    unfold tdecTaken
    split <;> exact hctx
  obtain ⟨hcount, harm, _⟩ := ctr_congr harr s.arg.b
  have hl' : (s.arg.l != [1]) = true := bne_iff_ne.mpr hl
  show (if ctxGone (tdecTaken s) s.arg.k then tdecTaken s else _) = _
  rw [hgone]
  simp only [Bool.false_eq_true, if_false, hl', if_true]
  show (if ctrCount (tdecTaken s) s.arg.a s.arg.b = 0 then _ else ctrSettle _ _ _ (ctrPut _ _ (ctrArm (tdecTaken s) _ _) (ctrCount (tdecTaken s) _ _ - 1) _)) = _
  rw [hcount, harm]
  rfl

end Tdec

theorem tdecTaken_frame : (∀ c, ((tdecTaken s).core c).arr = (s.core c).arr) ∧ (tdecTaken s).kernels = s.kernels ∧
    (tdecTaken s).mcyc = s.mcyc := by
  unfold tdecTaken
  split
  · exact ⟨countRecv_arr s _ _ _, rfl, rfl⟩
  · exact ⟨fun _ => rfl, rfl, rfl⟩

/-- A decrement of a count of 0 is discarded, and its kernel counts that (R421). -/
theorem tdecArrive_zero (hctx : ctxGone s s.arg.k = false) (hl : s.arg.l ≠ [1]) (h0 : ctrCount s s.arg.a s.arg.b = 0) {kn : Kernel}
    (hk : tfind s.kernels s.arg.c = some kn) :
    tfind (tdecArrive s).kernels s.arg.c = some { kn with disc := kn.disc + 1 } ∧ ((tdecArrive s).core s.arg.a).arr = (s.core s.arg.a).arr := by
  obtain ⟨harr, hker, _⟩ := tdecTaken_frame s
  have hk' : tfind (tdecTaken s).kernels s.arg.c = some kn := hker ▸ hk
  rw [tdecArrive_eq hctx hl]
  dsimp only
  rw [if_pos h0, State.onKernel_core]
  refine ⟨?_, harr _⟩
  simp only [State.onKernel, hk', tfind_tset_self]

/-- A count above 0 is lowered, and at 0 with ARM set its record is enqueued (R419). -/
theorem tdecArrive_counts (hctx : ctxGone s s.arg.k = false) (hl : s.arg.l ≠ [1]) (h0 : ctrCount s s.arg.a s.arg.b ≠ 0) :
    let t := tdecArrive s
    let n := ctrCount s s.arg.a s.arg.b
    ctrCount t s.arg.a s.arg.b = n - 1 ∧ (ctrArm t s.arg.a s.arg.b = true ↔ ctrArm s s.arg.a s.arg.b = true ∧ n - 1 ≠ 0) ∧
      (n - 1 = 0 → ctrArm s s.arg.a s.arg.b = true → (s.mcyc + 17, ⟨.tenqArrival, { Arg.reset with
        k := s.arg.k, a := s.arg.a, b := 1, w := BitVec.ofNat 64 (arrNat s s.arg.a (ctrOff s.arg.b + 8) 8), l := [1] }⟩) ∈ t.inflight) := by
  obtain ⟨harr, _, hcyc⟩ := tdecTaken_frame s
  have hlt := ctrCount_lt s s.arg.a s.arg.b
  have h := ctrSettle_ctrPut (tdecTaken s) s.arg.k s.arg.a s.arg.b (ctrArm s s.arg.a s.arg.b) (n := ctrCount s s.arg.a s.arg.b - 1) (by omega)
  rw [hcyc, (ctr_congr (harr s.arg.a) s.arg.b).2.2] at h
  intro t n
  rw [show t = _ from tdecArrive_eq hctx hl]
  dsimp only
  rw [if_neg h0]
  exact h

/-! ### TENQ_ARRIVAL and WENQ_ARRIVAL -/

/-- A record with its HOME and priority known is appended to the run list (R418, R421). -/
theorem tenqArrive_appends (hctx : ctxGone s s.arg.k = false) (hb : s.arg.b ≠ 1) (hlen : (s.core s.arg.a).runList.length < 64) :
    ((tenqArrive s).core s.arg.a).runList = (s.core s.arg.a).runList ++ [⟨s.arg.c, s.arg.w, s.arg.k, (s.core s.arg.a).cyc.toNat⟩] ∧
      (tenqArrive s).mem = s.mem := by
  simp only [tenqArrive, hctx, hb, enqueue, if_pos hlen, Bool.false_eq_true, if_false]
  split
  · refine ⟨(countRecv_runList ..).trans (congrArg Core.runList (State.core_onCore_self ..)), rfl⟩
  · exact ⟨congrArg Core.runList (State.core_onCore_self ..), rfl⟩

theorem length_vregBytes (v : VReg) : (vregBytes v).length = 64 := by
  simp [vregBytes, List.length_flatMap, length_bytesLE]

/-- WENQ's payload is written, and its record goes on to the run list (R425). -/
theorem wenqArrive_fields {d off : Nat} {rest : List Nat} (hctx : ctxGone s s.arg.k = false) (hl : s.arg.l = d :: off :: rest)
    (hoff : off + 64 ≤ 0x7c000) : let t := wenqArrive s
    t.mem = s.mem ∧ memBytes (t.core d).arr off 64 = vregBytes s.arg.item ∧
      (s.mcyc + 17, ⟨.tenqArrival, { Arg.reset with k := s.arg.k, a := s.arg.a, c := s.arg.c, w := s.arg.w, l := [1] }⟩) ∈ t.inflight := by
  have hfit : off + (vregBytes s.arg.item).length ≤ 0x7c000 := (length_vregBytes s.arg.item).symm ▸ hoff
  have ht : wenqArrive s = (countRecv s.arg.a 0 1 (arrPut d off (vregBytes s.arg.item) s)).post
      ⟨.tenqArrival, { Arg.reset with k := s.arg.k, a := s.arg.a, c := s.arg.c, w := s.arg.w, l := [1] }⟩ := by
    simp only [wenqArrive, hctx, hl, storeArray, if_pos hfit, Bool.false_eq_true, if_false]
  intro t
  rw [show t = _ from ht]
  refine ⟨rfl, ?_, State.mem_post_inflight ..⟩
  have harr : (State.core (countRecv s.arg.a 0 1 (arrPut d off (vregBytes s.arg.item) s)) d).arr =
      memPut (s.core d).arr off (vregBytes s.arg.item) :=
    (countRecv_arr ..).trans (congrArg Core.arr (State.core_onCore_self ..))
  refine (congrArg (fun m => memBytes m off 64) harr).trans ?_
  exact (congrArg (memBytes _ off) (length_vregBytes s.arg.item).symm).trans (memBytes_memPut ..)

/-! ### COUNTER_REQUEST_ARRIVAL -/

section Requests
variable {s}

/-- An answer after a change of a counter: the counter keeps what it then holds, and the slot that waits has its value. -/
theorem answerSlot_counter {u : State} (hu : u.slots = s.slots) (k h c : Nat) (v : Word) : let t := answerSlot k v u
    ctrCount t h c = ctrCount u h c ∧ ctrArm t h c = ctrArm u h c ∧
      ((s.slot k).phase = 1 → (t.slot k).phase = 2 ∧ (t.slot k).keep = [v]) := by
  obtain ⟨hcore, _, hslot⟩ := answerSlot_fields u k v
  obtain ⟨hcount, harm, _⟩ := ctr_congr (congrArg Core.arr (hcore h)) c
  refine ⟨hcount, harm, fun hp => hslot ?_⟩
  rw [State.slot, hu]
  exact hp

/-- TCTR sets COUNT and ARM (R421). -/
theorem counterRequest_set {m : Nat} (hb : s.arg.b = 0) (hl : s.arg.l = [m]) (h0 : 0 < m) (hm : m < 2 ^ 32) :
    let t := counterRequest s
    ctrCount t s.arg.a s.arg.c = m ∧ ctrArm t s.arg.a s.arg.c = true ∧
      ((s.slot s.arg.k).phase = 1 → (t.slot s.arg.k).phase = 2 ∧ (t.slot s.arg.k).keep = [0]) := by
  obtain ⟨hcount, harm⟩ := ctr_ctrPut (countRecv s.arg.a 0 1 s) s.arg.a s.arg.c true hm
  obtain ⟨hrc, hra⟩ := ctr_ctrRecord (ctrPut s.arg.a s.arg.c true m (countRecv s.arg.a 0 1 s)) s.arg.a s.arg.c s.arg.w
  have hset := ctrSettle_of_count (ctrRecord s.arg.a s.arg.c s.arg.w (ctrPut s.arg.a s.arg.c true m (countRecv s.arg.a 0 1 s)))
    (ctx := s.arg.u.toNat) (h := s.arg.a) (c := s.arg.c) (by rw [hrc, hcount]; omega)
  have ht : counterRequest s =
      answerSlot s.arg.k 0 (ctrRecord s.arg.a s.arg.c s.arg.w (ctrPut s.arg.a s.arg.c true m (countRecv s.arg.a 0 1 s))) := by
    simp only [counterRequest, hb, hl, List.getD_cons_zero, hset]
  have hslots : (ctrRecord s.arg.a s.arg.c s.arg.w (ctrPut s.arg.a s.arg.c true m (countRecv s.arg.a 0 1 s))).slots = s.slots := rfl
  obtain ⟨hac, haa, hslot⟩ := answerSlot_counter hslots s.arg.k s.arg.a s.arg.c 0
  intro t
  rw [show t = _ from ht]
  exact ⟨hac.trans (hrc.trans hcount), haa.trans (hra.trans harm), hslot⟩

/-- SPAWN's increment, taken once under its name (R423). -/
theorem counterRequest_increments (hb : s.arg.b = 1) (hn : (256 * s.arg.l.getD 0 0 + s.arg.u.toNat, s.arg.w) ∉ s.spawns) :
    let t := counterRequest s
    ctrCount t s.arg.a s.arg.c = (ctrCount s s.arg.a s.arg.c + 1) % 2 ^ 32 ∧ ctrArm t s.arg.a s.arg.c = ctrArm s s.arg.a s.arg.c ∧
      ((s.slot s.arg.k).phase = 1 → (t.slot s.arg.k).phase = 2) := by
  obtain ⟨hc0, ha0, _⟩ := ctr_congr (countRecv_arr s s.arg.a 0 1 s.arg.a) s.arg.c
  have hn' : ((countRecv s.arg.a 0 1 s).spawns.contains (256 * s.arg.l.getD 0 0 + s.arg.u.toNat, s.arg.w)) = false := by
    rw [← Bool.not_eq_true, List.contains_iff_mem]
    exact hn
  obtain ⟨u, hu, hslots⟩ : ∃ u : State, u = { countRecv s.arg.a 0 1 s with
    spawns := s.spawns ++ [(256 * s.arg.l.getD 0 0 + s.arg.u.toNat, s.arg.w)] } ∧ u.slots = s.slots := ⟨_, rfl, rfl⟩
  have ht : counterRequest s = answerSlot s.arg.k 0 (ctrPut s.arg.a s.arg.c (ctrArm s s.arg.a s.arg.c)
      ((ctrCount s s.arg.a s.arg.c + 1) % 2 ^ 32) u) := by
    simp only [counterRequest, hb, hn', hc0, ha0, hu, Bool.false_eq_true, if_false]
    rfl
  obtain ⟨hcount, harm⟩ := ctr_ctrPut u s.arg.a s.arg.c (ctrArm s s.arg.a s.arg.c)
    (n := (ctrCount s s.arg.a s.arg.c + 1) % 2 ^ 32) (Nat.mod_lt _ (by norm_num))
  obtain ⟨hac, haa, hslot⟩ := answerSlot_counter (u := ctrPut s.arg.a s.arg.c (ctrArm s s.arg.a s.arg.c)
    ((ctrCount s s.arg.a s.arg.c + 1) % 2 ^ 32) u) hslots s.arg.k s.arg.a s.arg.c 0
  intro t
  rw [show t = _ from ht]
  exact ⟨hac.trans hcount, haa.trans harm, fun hp => (hslot hp).1⟩

/-- JOIN's read (R424). -/
theorem counterRequest_reads (hb : s.arg.b = 2) : let t := counterRequest s
    (t.core s.arg.a).arr = (s.core s.arg.a).arr ∧ ((s.slot s.arg.k).phase = 1 →
      (t.slot s.arg.k).phase = 2 ∧ (t.slot s.arg.k).keep = [BitVec.ofNat 64 (ctrCount s s.arg.a s.arg.c)]) := by
  have harr := countRecv_arr s s.arg.a 0 1 s.arg.a
  have ht : counterRequest s = answerSlot s.arg.k (BitVec.ofNat 64 (ctrCount s s.arg.a s.arg.c)) (countRecv s.arg.a 0 1 s) := by
    simp only [counterRequest, hb, (ctr_congr harr s.arg.c).1]
  obtain ⟨hcore, _, hslot⟩ := answerSlot_fields (countRecv s.arg.a 0 1 s) s.arg.k (BitVec.ofNat 64 (ctrCount s s.arg.a s.arg.c))
  intro t
  rw [show t = _ from ht]
  exact ⟨(congrArg Core.arr (hcore _)).trans harr, hslot⟩

/-- A counter that is not yet 0 is armed (R424). -/
theorem counterRequest_arms (hb : 2 < s.arg.b) (hn : ctrCount s s.arg.a s.arg.c ≠ 0) : let t := counterRequest s
    ctrCount t s.arg.a s.arg.c = ctrCount s s.arg.a s.arg.c ∧ ctrArm t s.arg.a s.arg.c = true := by
  obtain ⟨hc0, _⟩ := ctr_congr (countRecv_arr s s.arg.a 0 1 s.arg.a) s.arg.c
  obtain ⟨hcount, harm⟩ := ctr_ctrPut (countRecv s.arg.a 0 1 s) s.arg.a s.arg.c true (ctrCount_lt s s.arg.a s.arg.c)
  obtain ⟨hrc, hra⟩ := ctr_ctrRecord (ctrPut s.arg.a s.arg.c true (ctrCount s s.arg.a s.arg.c) (countRecv s.arg.a 0 1 s))
    s.arg.a s.arg.c s.arg.w
  have ht : counterRequest s = ctrRecord s.arg.a s.arg.c s.arg.w
      (ctrPut s.arg.a s.arg.c true (ctrCount s s.arg.a s.arg.c) (countRecv s.arg.a 0 1 s)) := by
    obtain ⟨b, hb'⟩ : ∃ b, s.arg.b = b + 3 := ⟨s.arg.b - 3, by omega⟩
    simp only [counterRequest, hb', hc0, if_neg hn]
  intro t
  rw [show t = _ from ht]
  exact ⟨hrc.trans hcount, hra.trans harm⟩

end Requests

/-! ### WATCH_REQUEST_ARRIVAL -/

section Watches
variable {s} (ha : s.arg.a = 0)
include ha

/-- UNWATCH removes its watch, and tells whether there was one (R426). -/
theorem watchRequest_removes (hb : s.arg.b = 1) : let t := watchRequest s
    t.watches = s.watches.filter (fun e => e.id != s.arg.w.toNat) ∧ ((s.slot s.arg.k).phase = 1 →
      (t.slot s.arg.k).keep = [if (∃ e ∈ s.watches, e.id = s.arg.w.toNat) then 1#64 else 0#64]) := by
  have hhit : bool64 (s.watches.any fun e => e.id == s.arg.w.toNat) =
      if (∃ e ∈ s.watches, e.id = s.arg.w.toNat) then 1#64 else 0#64 := by
    rw [bool64]
    exact if_congr (by simp) rfl rfl
  obtain ⟨hw, hk⟩ := answerEither_fields { countRecv (s.arg.w.toNat / 16 % 4096) 0 1 s with
    watches := s.watches.filter fun e => e.id != s.arg.w.toNat } s.arg.k s.arg.c (bool64 (s.watches.any fun e => e.id == s.arg.w.toNat))
  have ht : watchRequest s = answerEither s.arg.k 0 s.arg.c (bool64 (s.watches.any fun e => e.id == s.arg.w.toNat))
      { countRecv (s.arg.w.toNat / 16 % 4096) 0 1 s with watches := s.watches.filter fun e => e.id != s.arg.w.toNat } := by
    simp only [watchRequest, hb, ha, if_true]
    rfl
  intro t
  rw [show t = _ from ht]
  exact ⟨hw, fun hp => hhit ▸ hk hp⟩

/-- A slice with no free identifier answers so (R426). -/
theorem watchRequest_full (hb : s.arg.b ≠ 1) (hf : freeWatch s (homeSlice (4 * s.arg.l.getD 0 0)) = none) : let t := watchRequest s
    t.watches = s.watches ∧ ((s.slot s.arg.k).phase = 1 → (t.slot s.arg.k).keep = [BitVec.allOnes 64]) := by
  have hf' : freeWatch (countRecv (homeSlice (4 * s.arg.l.getD 0 0)) 0 1 s) (homeSlice (4 * s.arg.l.getD 0 0)) = none := hf
  have ht : watchRequest s = answerEither s.arg.k 0 s.arg.c (BitVec.allOnes 64) (countRecv (homeSlice (4 * s.arg.l.getD 0 0)) 0 1 s) := by
    simp only [watchRequest, if_neg hb, hf', ha]
  intro t
  rw [show t = _ from ht]
  exact answerEither_fields ..

/-- The watch that a request asks for (R426). -/
def watchAsked (s : State) (i : Nat) : WatchEntry :=
  { id := i, word := s.arg.l.getD 0 0, nw := s.arg.l.getD 1 0, mask := s.arg.u.extractLsb' 32 32, value := s.arg.u.extractLsb' 0 32,
    record := s.arg.w, ctx := s.arg.l.getD 2 0, slot := s.arg.k }

/-- WATCH is registered under the lowest free identifier (R426). -/
theorem watchRequest_registers (hb : s.arg.b ≠ 1) {i : Nat} (hf : freeWatch s (homeSlice (4 * s.arg.l.getD 0 0)) = some i) :
    let t := watchRequest s
    ((s.slot s.arg.k).phase = 1 → (t.slot s.arg.k).keep = [BitVec.ofNat 64 i]) ∧ t.watches = s.watches ++ [watchAsked s i] := by
  have hf' : freeWatch (countRecv (homeSlice (4 * s.arg.l.getD 0 0)) 0 1 s) (homeSlice (4 * s.arg.l.getD 0 0)) = some i := hf
  obtain ⟨hw, hk⟩ := answerEither_fields { countRecv (homeSlice (4 * s.arg.l.getD 0 0)) 0 1 s with
    watches := s.watches ++ [watchAsked s i] } s.arg.k s.arg.c (BitVec.ofNat 64 i)
  have ht : watchRequest s = answerEither s.arg.k 0 s.arg.c (BitVec.ofNat 64 i)
      { countRecv (homeSlice (4 * s.arg.l.getD 0 0)) 0 1 s with watches := s.watches ++ [watchAsked s i] } := by
    simp only [watchRequest, if_neg hb, hf', ha]
    rfl
  intro t
  rw [show t = _ from ht]
  exact ⟨hk, hw⟩

end Watches

/-! ### The statement -/

/-- Settles O56, one clause for each event. -/
theorem taskEvents : Obligations.TaskEvents := by
  unfold Obligations.TaskEvents
  intro s k a w soonMsg started c
  refine ⟨fun h => ?idle, fun hrun hstop hphase => ⟨fun e bs v hfirst he hbs => ?entry, fun gk i g kn hfirst hb hg hk => ?bound⟩,
    fun r hrun => ⟨?waits, ?runs, ?event, ?marker⟩, fun hk => ⟨_, rfl, expire_fields s hk⟩, ⟨_, rfl, rfl, ?aged⟩, ?noSteal, fun h => ?steal,
    fun h => ?victimDet, fun h hr => ?victim, fun h => ?dropped, fun hb ho hrun hstop bs v hbs => ?stolen, fun hold h0 h1 => ?refillNone,
    fun hold hlen ctx r x u h1 ht h0 => ⟨_, rfl, refill_run hold hlen h1 ht h0⟩,
    fun hold h1 hlen ctx r x u h0 ht => ⟨_, rfl, refill_deque hold h1 hlen h0 ht⟩,
    fun hctx hl => ⟨fun h0 kn hk => ?discard, fun h0 => ?decrement⟩, fun hctx hb hlen => ⟨_, rfl, tenqArrive_appends s hctx hb hlen⟩,
    fun d off rest hctx hl hoff => ⟨_, rfl, wenqArrive_fields s hctx hl hoff⟩,
    ⟨fun hb m hl h0 hm => ⟨_, rfl, counterRequest_set hb hl h0 hm⟩, fun hb hn => ⟨_, rfl, counterRequest_increments hb hn⟩,
      fun hb => ⟨_, rfl, counterRequest_reads hb⟩, fun hb hn => ⟨_, rfl, counterRequest_arms hb hn⟩⟩,
    fun hb ha => ⟨_, rfl, watchRequest_removes ha hb⟩,
    fun hb ha => ⟨fun hf => ⟨_, rfl, watchRequest_full ha hb hf⟩, fun i hf => ⟨_, rfl, watchRequest_registers ha hb hf⟩⟩⟩
  case idle => exact happens_event (f := takeWork k) rfl (takeWork_idle h)
  case entry =>
    obtain ⟨hr, htask, hlist⟩ := takeWork_entry hrun hstop hphase hfirst he hbs
    exact ⟨_, rfl, ⟨hr, htask⟩, hlist⟩
  case bound =>
    exact ⟨_, happens_event (f := takeWork k) rfl (takeWork_bound hrun hstop hphase hfirst hb hg hk), startBound_fields hg hk⟩
  case waits => exact fun h => happens_event (f := release k) rfl (release_waits hrun h)
  case runs => exact fun h hev hm => happens_event (f := release k) rfl (release_runs hrun h hev hm)
  case event => exact fun h hev => happens_event (f := release k) rfl ((release_holds hrun h).trans (by subst hev; rfl))
  case marker =>
    exact fun h hr pc hm => happens_event (f := release k) rfl ((release_holds hrun h).trans (by subst hm; exact passMarker_body pc hr))
  case aged => exact congrArg Core.runList (State.core_onCore_self ..)
  case noSteal => exact happens_stealAttempt_idle
  case steal =>
    obtain ⟨hst, hmsg⟩ := stealAttempt_fields h
    exact ⟨_, happens_stealAttempt h, hst, hmsg⟩
  case victimDet =>
    refine ⟨_, happens_event rfl (stealRequest_det h), ?_, mem_stealReply_inflight ..⟩
    exact (stealReply_deque ..).trans (countRecv_deque ..)
  case victim =>
    refine ⟨_, happens_event (f := stealRequest) rfl (stealRequest_deque h hr), ?_⟩
    cases hq : (s.core a).deque with
    | nil => exact mem_stealReply_inflight ..
    | cons e es =>
      dsimp only
      by_cases hc : e.ctx = s.arg.c
      · rw [if_pos hc, if_neg (not_not_intro hc)]
        exact ⟨(stealReply_deque ..).trans (congrArg Core.deque (State.core_onCore_self ..)), mem_stealReply_inflight ..⟩
      · rw [if_neg hc, if_pos hc]
        exact ⟨(stealReply_deque ..).trans ((countRecv_deque ..).trans hq), mem_stealReply_inflight ..⟩
  case dropped => exact happens_event (f := stealAnswer) rfl (stealAnswer_drops h)
  case stolen =>
    obtain ⟨hr, htask, _⟩ := startWith_fields v k s.arg.c w bs
    exact ⟨_, happens_event rfl (stealAnswer_starts hb ho hrun hstop hbs), hr, htask⟩
  case refillNone => exact happens_event (f := refill k) rfl (refill_idle hold h0 h1)
  case discard =>
    obtain ⟨hk', harr⟩ := tdecArrive_zero s hctx hl h0 hk
    exact ⟨_, _, rfl, hk', rfl, harr⟩
  case decrement =>
    obtain ⟨hcount, harm, hmsg⟩ := tdecArrive_counts s hctx hl h0
    have hone : ∀ n : Nat, n ≠ 0 → (n - 1 = 0 ↔ n = 1) := fun n hn => by omega
    exact ⟨_, rfl, hcount, harm.trans (and_congr_right fun _ => not_congr (hone _ h0)), fun h1 => hmsg ((hone _ h0).mpr h1)⟩

end Sys2Proof.Machine
end

section
/-! O51 refuted. Where a full deque gives its top entry to an overflow ring whose page does not lie in memory, the core holds the entry and
the context faults (R418, R431): the partition stops, the pushing slot with it, and it is Stopped, not parked, behind its push. -/

namespace Sys2Proof.Machine

/-- A core whose deque is full with entries of context 1. -/
def fullDeque : Core := { Core.reset with spsz := 65536, deque := List.replicate 64 ⟨0xfffffffffff00400, 1, 0⟩ }

/-- A context that runs, whose descriptor names an overflow ring of two entries in the window of the local array. -/
def ringOutside : Ctx := { Ctx.new 0x40000 5 true with st := 3, clusters := 1, words := [0, 0, 0, 0xfffffffffff00001] }

/-- A slot at a SPAWN of the record in g4, whose increment is acknowledged. -/
def atSpawn : Slot :=
  { Slot.reset with run := .running, pc := 0x2000, phase := 2, keep := [0], g := vset (Vector.replicate 32 0) 4 0xfffffffffff00440,
                    bind := ⟨1, 0, 0, 0, false, none⟩, sys := { Sys.reset with st := 0x400, trec := 0xfffffffffff00400 } }

/-- The package in which that slot runs alone. -/
def spawnAtFullDeque : State :=
  { State.reset with power := ⟨2, false, 0⟩, mgmt := [(0, 0x3fffff), (0x20, 0x3fffff)], slots := [(0, atSpawn)],
                     cores := [(0, fullDeque)], ctxs := [(1, ringOutside)] }

theorem ready_spawnAtFullDeque : Ready (.spawn 4) spawnAtFullDeque := ⟨by decide, by decide, by decide, by decide, rfl⟩

theorem settled_spawnAtFullDeque : Settled spawnAtFullDeque := ⟨fun _ h => absurd h List.not_mem_nil, rfl, rfl⟩

/-- The record that the slot spawns stands in the scratchpad. -/
theorem slotBytes_spawnAtFullDeque : slotBytes 0 1 0xfffffffffff00440 64 spawnAtFullDeque =
    (some (arrBytes spawnAtFullDeque 0 0x440 64), spawnAtFullDeque) := by
  have h : windowBytes spawnAtFullDeque (coreOf 0) 0xfffffffffff00440 64 = some (arrBytes spawnAtFullDeque 0 0x440 64) := rfl
  simp only [slotBytes, h]

/-- The push is done, and the core holds what it pushed out. -/
theorem pushDeque_spawnAtFullDeque : (pushDeque 0 1 0xfffffffffff00400 spawnAtFullDeque).1 = .done ∧
    ((pushDeque 0 1 0xfffffffffff00400 spawnAtFullDeque).2.core 0).holding ≠ none := by decide +kernel

/-- The slot is Stopped as its SPAWN parks. -/
theorem run_spawnAtFullDeque : (match exec (.spawn 4) spawnAtFullDeque with
    | .next t => (t.slot 0).run
    | _ => .free) = .stopped (.parked (.listRoom true)) := by decide +kernel

/-- Refutes O51: the clause of the entry that the core holds, at `spawnAtFullDeque`. -/
theorem not_spawnAndJoin : ¬ Obligations.SpawnAndJoin := by
  unfold Obligations.SpawnAndJoin
  intro h
  obtain ⟨_, _, hpush, _⟩ := h spawnAtFullDeque 4 settled_spawnAtFullDeque
  obtain ⟨hdone, hholds⟩ := pushDeque_spawnAtFullDeque
  obtain ⟨_, hheld⟩ := hpush ready_spawnAtFullDeque rfl rfl (by decide) _ _ _ slotBytes_spawnAtFullDeque (Prod.ext hdone rfl)
  obtain ⟨t, ht, hrun, _⟩ := hheld hholds
  have hstop := run_spawnAtFullDeque
  rw [ht] at hstop
  exact absurd (hstop.symm.trans hrun) (by decide)

end Sys2Proof.Machine
end

section
/-! What loads, stores and walks leave alone (R191 to R201, R213, R218, R236, R239): the rest of what `State.still` stands for. -/

namespace Sys2Proof.Machine

/-! ### Evictions, fills and reads of a core (R191, R192, R196 to R199) -/

section L1s
variable (s : State)

theorem ite_still {p : Prop} [Decidable p] {a b t : State} (ha : a.still = t.still) (hb : b.still = t.still) :
    (if p then a else b).still = t.still := by
  split
  · exact ha
  · exact hb

/-- A step that is taken only where b says so. -/
theorem step_ite_still {f : State → State} (hf : ∀ t, (f t).still = t.still) (b : Bool) (t : State) :
    (if b then f t else t).still = t.still := ite_still (hf t) rfl

@[simp] theorem registerOne_still (c w : Nat) : (registerOne c w s).still = s.still := by
  unfold registerOne
  split
  · split
    · simp
    · dsimp only
      split <;> simp
    · rfl
  · rfl

@[simp] theorem registerWord_still (c w : Nat) : (registerWord c w s).still = s.still := by
  unfold registerWord
  dsimp only
  split <;> simp

@[simp] theorem registerOwn_still (c w : Nat) : (registerOwn c w s).still = s.still := by
  unfold registerOwn
  split
  · split <;> simp
  · rfl

@[simp] theorem sendPartial_still (c w : Nat) : (sendPartial c w s).still = s.still := by
  unfold sendPartial
  split
  · next op wide holders _ =>
    have hclear : ∀ t : State, (let u := clearHome w t; if wide then clearHome (w + 1) u else u).still = t.still := fun t =>
      (step_ite_still (fun u => clearHome_still u _) _ _).trans (clearHome_still t w)
    have hput : ∀ v, (let t := homePutWide wide w v (l1Drop c w (homeGetWide wide w s).2);
        if wide then l1Drop c (w + 1) t else t).still = s.still := fun v =>
      (step_ite_still (fun u => l1Drop_still u _ _) _ _).trans (by simp)
    refine (step_ite_still (fun u => fireWatches_still u _) wide _).trans ((fireWatches_still _ w).trans ?_)
    exact ite_still ((hclear _).trans (hput _)) (hput _)
  · simp

@[simp] theorem writeBack_still (c w : Nat) : (writeBack c w s).still = s.still := by
  unfold writeBack
  split
  · split
    · next r _ =>
      have hreg : (if r then s else registerWord c w s).still = s.still := ite_still rfl (registerWord_still ..)
      have hput : ∀ v t, (homePut w v (l1Drop c w t)).still = t.still := fun v t => by simp
      exact ite_still ((clearHome_still ..).trans ((hput _ _).trans hreg)) ((hput _ _).trans hreg)
    · simp
    · simp
    · simp
  · rfl

@[simp] theorem evictBlock_still (c : Nat) (b : Block) : (evictBlock c b s).still = s.still := by
  rw [evictBlock, onL1_still]
  exact foldl_still _ (fun s w => writeBack_still s c w) _

@[simp] theorem placeBlock_still (fuel c w n : Nat) (s : State) : (placeBlock fuel c w n s).still = s.still := by
  induction fuel generalizing s with
  | zero => rfl
  | succ fuel ih =>
    unfold placeBlock
    split
    · simp
    · split
      · exact (ih _).trans (evictBlock_still ..)
      · rfl

@[simp] theorem allocBlock_still (c w len : Nat) : (allocBlock c w len s).still = s.still := by
  unfold allocBlock
  dsimp only
  split
  · rfl
  · split <;> simp

@[simp] theorem allocSector_still (c w : Nat) : (allocSector c w s).still = s.still := by
  unfold allocSector
  dsimp only
  split <;> simp

@[simp] theorem rdcPut_still (die line : Nat) (v : VReg) : (rdcPut die line v s).still = s.still := by
  unfold rdcPut
  dsimp only
  split
  · rfl
  · split
    · split <;> rfl
    · rfl

@[simp] theorem fillRead_still (c w : Nat) : (fillRead c w s).2.still = s.still := by
  unfold fillRead
  dsimp only
  split
  · simp
  · split
    · rfl
    · have h := foldl_snd_still (f := fun (acc : List (BitVec 32) × State) j =>
        let (x, s) := homeRead (16 * lineOfWord w + j) acc.2
        (acc.1 ++ [x], s)) (fun x j => homeRead_still x.2 _) (upTo 16) ([], s)
      generalize List.foldl _ (([] : List (BitVec 32)), s) (upTo 16) = r at h ⊢
      split
      · rw [rdcPut_still]
        exact h
      · exact h

theorem fillPut_still (c w : Nat) : (l1Put c w ⟨.valid, zext64 (fillRead c w s).1, 0xf#4⟩ (fillRead c w s).2).still = s.still := by
  simp

@[simp] theorem fillWord_still (c w : Nat) : (fillWord c w s).still = s.still := by
  unfold fillWord
  dsimp only
  split
  · split
    · exact (fillPut_still ..).trans (fillPut_still ..)
    · exact fillPut_still ..
  · exact fillPut_still ..

/-- The fill of a read that misses. -/
def fillFor (c w len : Nat) (s : State) : BitVec 32 × State :=
  let s := allocBlock c w len s
  match (s.core c).l1.blocks.find? fun b => b.has w with
  | none => fillRead c w s
  | some b =>
    let s := (upTo b.len).foldl (fun s j => if (l1Find s c (b.word + j)).isSome then s else fillWord c (b.word + j) s) s
    match l1Find s c w with
    | some x => (x.val.extractLsb' 0 32, s)
    | none => fillRead c w s

theorem fillFor_still (c w len : Nat) : (fillFor c w len s).2.still = s.still := by
  have hfold : ∀ (b : Block) (t : State), ((upTo b.len).foldl (fun s j =>
      if (l1Find s c (b.word + j)).isSome then s else fillWord c (b.word + j) s) t).still = t.still := fun b t =>
    foldl_still t (fun s j => by split <;> simp) _
  unfold fillFor
  dsimp only
  split
  · simp
  · split
    · exact (hfold _ _).trans (allocBlock_still ..)
    · exact (fillRead_still ..).trans ((hfold _ _).trans (allocBlock_still ..))

@[simp] theorem coreRead_still (c w len : Nat) : (coreRead c w len s).2.still = s.still := by
  unfold coreRead
  dsimp only
  split
  · split
    · rfl
    · rfl
    · split <;> simp
    · exact (fillFor_still (gather w s) c w len).trans (gather_still ..)
    · exact (fillFor_still (gather w s) c w len).trans (gather_still ..)
  · exact fillFor_still ..

@[simp] theorem l1Store_still (c w : Nat) (mask : BitVec 4) (v : BitVec 32) : (l1Store c w mask v s).still = s.still := by
  have hput : ∀ t : State, (match l1Find t c w with
      | some x =>
        let new := mergeBytes mask v (x.val.extractLsb' 0 32)
        match x.st with
        | .owned true => fireOn w new (dropRdc (lineOfWord w) (l1Put c w ⟨.owned true, zext64 new, 0xf#4⟩ t))
        | .owned false => l1Put c w ⟨.owned false, zext64 new, x.mask ||| mask⟩ t
        | _ => l1Put c w ⟨.owned false, zext64 new, mask⟩ t
      | none => l1Put c w ⟨.owned false, zext64 (mergeBytes mask v 0#32), mask⟩ (allocBlock c w 1 t)).still = t.still := fun t => by
    split
    · dsimp only
      split <;> simp
    · simp
  refine (hput _).trans ?_
  split
  · split <;> simp
  · rfl

@[simp] theorem splitPair_still (c w : Nat) : (splitPair c w s).still = s.still := by
  unfold splitPair
  dsimp only
  split
  · rfl
  · split
    · simp
    · split <;> simp

end L1s

/-! ### Arrays and registers -/

section Arrays
variable (s : State)

@[simp] theorem storeArray_still (c off : Nat) (bs : List (BitVec 8)) : (storeArray c off bs s).still = s.still := by
  unfold storeArray
  split
  · exact State.onCore_still s c fun _ => rfl
  · refine (foldl_still _ (fun s n => State.post_still s _) _).trans ?_
    exact State.onCore_still s c fun _ => rfl

@[simp] theorem registerRead_still (off : Nat) : (registerRead off s).2.still = s.still := by
  unfold registerRead
  split
  · rfl
  · split
    · rfl
    · split
      · rfl
      · split <;> rfl

@[simp] theorem registerBytes_still (off n : Nat) : (registerBytes off n s).2.still = s.still := registerRead_still ..

@[simp] theorem registerStore_still (off : Nat) (bs : List (BitVec 8)) : (registerStore off bs s).still = s.still := by
  refine foldl_still _ (fun s p => ?_) _
  unfold registerSend
  split <;> rfl

end Arrays

/-! ### Loads (R199, R208, R218, R236, R405) -/

section Loads
variable (s : State)

theorem bufferedRead_still (g : Group) (limit c len w : Nat) : (bufferedRead g limit c len w s).2.still = s.still := by
  unfold bufferedRead
  split
  · exact (coreRead_still ..).trans (coreRead_still ..)
  · simp

theorem wholeSectors_still (c pa n : Nat) : (wholeSectors c pa n s).still = s.still :=
  foldl_still _ (fun s w => allocSector_still s c w) _

@[simp] theorem readPlace_still (k seq : Nat) (p : Place) (n : Nat) : (readPlace k seq p n s).2.still = s.still := by
  unfold readPlace
  dsimp only
  split
  · rfl
  · next pa =>
    have hs : (if n < 32 || isMgmt pa then s else wholeSectors (coreOf k) pa n s).still = s.still := by
      split
      · rfl
      · exact wholeSectors_still ..
    generalize (if n < 32 || isMgmt pa then s else wholeSectors (coreOf k) pa n s) = u at hs ⊢
    have hv : (if n = 8 && pa % 8 = 0 && !isMgmt pa then
        (coreRead (coreOf k) (pa / 4 + 1) (s.core (coreOf k)).predict u).2 else u).still = s.still := by
      split
      · exact (coreRead_still ..).trans hs
      · exact hs
    generalize (if n = 8 && pa % 8 = 0 && !isMgmt pa then
      (coreRead (coreOf k) (pa / 4 + 1) (s.core (coreOf k)).predict u).2 else u) = v at hv ⊢
    split
    · exact (registerBytes_still ..).trans hv
    · split
      · split
        · exact (bytesBy_still (fun w s => bufferedRead_still s ..) ..).trans hv
        · exact (bytesBy_still (fun w s => coreRead_still s ..) ..).trans hv
      · exact (bytesBy_still (fun w s => coreRead_still s ..) ..).trans hv

@[simp] theorem readItem_still (k : Nat) (it : LoadItem) : (readItem k it s).2.still = s.still := by
  unfold readItem
  dsimp only
  rw [readPlace_still]
  split
  · split <;> simp
  · rfl

theorem captureReg_still (k : Nat) (items : List LoadItem) (acc : List RegVal × State) (r : RegId) :
    (captureReg k items acc r).2.still = acc.2.still :=
  foldl_snd_still (f := fun (a : Slot × State) it =>
    let (v, s) := readItem k it a.2
    (a.1.putLane r it.lane v, s)) (fun x it => readItem_still x.2 k it) _ (acc.2.slot k, acc.2)

theorem captureLoad_still (k : Nat) (p : Pending) : (captureLoad k s p).still = s.still := by
  unfold captureLoad
  split
  · next items _ =>
    dsimp only
    rw [State.onSlot_still]
    · exact foldl_snd_still (f := captureReg k items) (fun x r => captureReg_still k items x r) _ ([], s)
    · exact fun _ => rfl
  · rfl

@[simp] theorem countSent_still (c vc n : Nat) : (countSent c vc n s).still = s.still := State.onCore_still s c fun _ => rfl

@[simp] theorem sendMsg_still (k : Nat) (m : Msg) : (sendMsg k m s).still = s.still := by
  have hname : (nameMsg k m s).2.still = s.still := by
    unfold nameMsg
    dsimp only
    split
    · exact State.onSlot_still s k fun _ => rfl
    · rfl
  unfold sendMsg
  dsimp only
  split
  · rw [countSent_still]
    exact hname
  · exact hname

theorem settleOut_still (k : Nat) : (settleOut k s).still = s.still := by
  unfold settleOut
  dsimp only
  split
  · rfl
  · rw [foldl_still _ (fun s m => sendMsg_still s k m)]
    exact State.onSlot_still s k fun _ => rfl

theorem orderAfter_still {k : Nat} {ps : List (Place × Nat)} {t : State} (h : orderAfter k ps s = .ok t) : t.still = s.still := by
  unfold orderAfter at h
  dsimp only at h
  split at h
  · exact (congrArg State.still (Except.ok.inj h)).symm
  · split at h
    · exact nomatch h
    · rw [← Except.ok.inj h, settleOut_still]
      exact foldl_still _ (fun s p => captureLoad_still s k p) _

end Loads

/-! ### Stores (R198, R208, R236, R266) -/

section Stores
variable (s : State)

theorem addEntry_still (gk k page : Nat) (act : EntryAct) : (addEntry gk k page act s).still = s.still := by
  unfold addEntry
  split
  · rfl
  · dsimp only
    split <;> rfl

theorem enterFrom_still (gk k : Nat) (as : List (Nat × EntryAct)) (n need : Nat) (s : State) :
    (enterFrom gk k n need as s).2.1.still = s.still := by
  induction as generalizing n need s with
  | nil => rfl
  | cons a as ih =>
    unfold enterFrom
    split
    · rfl
    · exact (ih _ _ _).trans (addEntry_still ..)

theorem enter_still {k : Nat} {acts : List (Nat × EntryAct)} {t : State} (h : enter k acts s = .ok t) : t.still = s.still := by
  unfold enter at h
  dsimp only at h
  have hf := enterFrom_still (s.slot k).bind.group k (acts.drop (s.slot k).entered) (s.slot k).entered (if wholePair acts then 2 else 1) s
  generalize enterFrom (s.slot k).bind.group k (s.slot k).entered (if wholePair acts then 2 else 1) (acts.drop (s.slot k).entered) s = r
    at h hf
  obtain ⟨n, u, _ | e⟩ := r
  · rw [← Except.ok.inj h]
    split
    · exact hf
    · rw [State.onSlot_still]
      · exact hf
      · exact fun _ => rfl
  · exact nomatch h

theorem storeWord_still (k w : Nat) (mask : BitVec 4) (v : BitVec 32) (sector : Bool) : (storeWord k w mask v sector s).still = s.still := by
  unfold storeWord
  dsimp only
  rw [State.post_still, addOut, State.onSlot_still, l1Store_still]
  · split <;> simp
  · exact fun _ => rfl

theorem putNow_still (k : Nat) (ps : List Put) (p : Put) : (putNow k ps s p).still = s.still := by
  unfold putNow
  split
  · simp
  · split
    · simp
    · dsimp only
      rw [foldl_still _ (fun s c => storeWord_still s k ..)]
      split <;> simp

theorem dropParams_still (k : Nat) (ps : List (Place × Nat)) : (dropParams k ps s).still = s.still :=
  State.onCore_still s _ fun _ => rfl

theorem putAll_still {k : Nat} {ps : List Put} {t : State} (h : putAll k ps s = .ok t) : t.still = s.still := by
  have hnow : ∀ (qs : List Put) (u : State), (qs.foldl (putNow k ps) u).still = u.still := fun qs u =>
    foldl_still u (fun s p => putNow_still s k ps p) qs
  unfold putAll at h
  dsimp only at h
  split at h
  · rw [← Except.ok.inj h, hnow, dropParams_still]
  · split at h
    · exact nomatch h
    · next u hu =>
      rw [← Except.ok.inj h, hnow, enter_still _ hu, dropParams_still]

/-- A store that is done (R217, R218). -/
theorem storeFor_still {k : Nat} {free : Bool} {al : Nat} {ps : List Put} {t : State} (h : storeFor k free al ps s = .ok t) :
    t.still = s.still := by
  unfold storeFor at h
  dsimp only at h
  split at h
  · exact nomatch h
  · split at h
    · exact nomatch h
    · split at h
      · exact nomatch h
      · split at h
        · exact nomatch h
        · split at h
          · exact nomatch h
          · next u hu => exact (putAll_still _ h).trans (orderAfter_still _ hu)

end Stores

/-! ### Walks and reads of context memory (R213, R239, R243) -/

section Walks
variable (s : State)

theorem walkLeaf_still (table idx small group gbits : Nat) (e : Word) : (walkLeaf table idx small group gbits e s).2.still = s.still := by
  unfold walkLeaf
  split <;> simp

theorem walkFrom_still (va : Nat) (shs : List Nat) (table : Nat) (s : State) : (walkFrom va table shs s).2.still = s.still := by
  induction shs generalizing table s with
  | nil => rfl
  | cons sh shs ih =>
    unfold walkFrom
    generalize va / 2 ^ sh % (if sh = 53 then 16 else 1024) = idx
    have hn := homeNat_still s (table + 8 * idx) 8
    dsimp only
    generalize homeNat (table + 8 * idx) 8 s = r at hn ⊢
    have hwhole : ∀ {x y : Walked × State} {p : Prop} [Decidable p], x.2.still = s.still → y.2.still = s.still →
      (if p then x else y).2.still = s.still := fun hx hy => by
        split
        · exact hx
        · exact hy
    have hleaf : ∀ small group gbits, (walkLeaf table idx small group gbits (BitVec.ofNat 64 r.1) r.2).2.still = s.still := fun _ _ _ =>
      (walkLeaf_still ..).trans hn
    exact hwhole hn (hwhole hn (hwhole (hwhole (hleaf ..) (hwhole (hleaf ..) hn)) (hwhole hn ((ih _ _).trans hn))))

theorem walk_still (ctx va : Nat) : (walk ctx va s).2.still = s.still := walkFrom_still ..

theorem engineLook_still (o : Option Nat) (sv : Bool) (kind : AccKind) (ctx va : Nat) : (engineLook o sv kind ctx va s).2.still = s.still := by
  have hw := walk_still s ctx va
  unfold engineLook
  split
  · rfl
  · dsimp only
    split
    · exact hw
    · exact hw
    · split
      · cases o with
        | none => exact hw
        | some o => exact (State.onOctet_still ..).trans hw
      · exact hw
      · exact hw

theorem ownLook_still (cl : Nat) (o : Option Nat) (kind : AccKind) (ctx va : Nat) : (ownLook cl o kind ctx va s).2.still = s.still := by
  unfold ownLook
  split
  · rfl
  · split
    · exact engineLook_still ..
    · split
      · rfl
      · split
        · rfl
        · exact engineLook_still ..

/-- A translation for the C9 that finds memory. -/
theorem ctxXlat_still {cl ctx va pa : Nat} {store : Bool} {t : State} (h : ctxXlat cl store ctx va s = (some pa, t)) :
    t.still = s.still := by
  have hl := ownLook_still s cl none (ownKind store) ctx va
  unfold ctxXlat ctxXlatAt at h
  generalize ownLook cl none (ownKind store) ctx va s = r at h hl
  obtain ⟨x, u⟩ := r
  have hu : u = t → t.still = s.still := fun e => e ▸ hl
  split at h
  · next n v he =>
    obtain ⟨rfl, rfl⟩ := Prod.mk.inj he
    split at h
    · exact nomatch congrArg Prod.fst h
    · exact hu (congrArg Prod.snd h)
  · exact nomatch congrArg Prod.fst h

/-- A record's bytes, where a slot could load them (R420). -/
theorem slotBytes_still {k ctx a n : Nat} {bs : List (BitVec 8)} {t : State} (h : slotBytes k ctx a n s = (some bs, t)) :
    t.still = s.still := by
  unfold slotBytes at h
  split at h
  · exact congrArg State.still (congrArg Prod.snd h).symm
  · unfold pageBytes at h
    dsimp only at h
    generalize hx : ctxXlat (clusterOf (octetOf (coreOf k))) false ctx a s = r at h
    obtain ⟨_ | pa, u⟩ := r
    · exact nomatch congrArg Prod.fst h
    · have hu := ctxXlat_still s hx
      dsimp only at h
      split at h
      · rw [show t = _ from (congrArg Prod.snd h).symm]
        exact (bytesBy_still (fun w s => bufferedRead_still s ..) ..).trans hu
      · rw [show t = _ from (congrArg Prod.snd h).symm]
        exact (homeBytes_still ..).trans ((foldl_still _ (fun s j => registerOwn_still s ..) _).trans hu)

end Walks

end Sys2Proof.Machine
end

section
/-! Ends and suspensions of tasks (R100, R101, R116 to R118, R416): what a slot that is Free again holds, what the rest of the machine
keeps, and which task the slot takes next. -/

namespace Sys2Proof.Machine

/-! ### Tables -/

theorem mem_tset {α : Type} {t : Tbl α} {k : Nat} {a : α} {e : Nat × α} (h : e ∈ tset t k a) : e = (k, a) ∨ e ∈ t := by
  have hins : ∀ u : Tbl α, e ∈ tinsert u k a → e = (k, a) ∨ e ∈ u := fun u => by
    induction u with
    | nil => exact fun h => .inl (List.mem_singleton.mp h)
    | cons x u ih =>
      unfold tinsert
      split
      · exact fun h => List.mem_cons.mp h
      · intro h
        rcases List.mem_cons.mp h with rfl | h
        · exact .inr List.mem_cons_self
        · exact (ih h).imp_right fun h => List.mem_cons_of_mem _ h
  exact (hins _ h).imp_right fun h => List.mem_of_mem_filter h

theorem mem_of_tfind {α : Type} {t : Tbl α} {k : Nat} {a : α} (h : tfind t k = some a) : (k, a) ∈ t := by
  induction t with
  | nil => exact nomatch h
  | cons e t ih =>
    rw [tfind_cons] at h
    split at h
    · next hk =>
      obtain rfl := hk
      obtain rfl := Option.some.inj h
      exact List.mem_cons_self
    · exact List.mem_cons_of_mem _ (ih h)

/-! ### A slot whose task ends or stops -/

section Frees
variable {s t : State} {k : Nat} {f : Group → Group}

theorem State.mem_post_inflight_of_mem {x : Nat × Msg} (m : Msg) (h : x ∈ s.inflight) : x ∈ (s.post m).inflight :=
  List.mem_append_left _ h

/-- The groups after a change of the group whose task the slot runs. -/
def ownerGroups (s : State) (k : Nat) (f : Group → Group) : Tbl Group :=
  match (s.slot k).bind.owner with
  | some g => (s.onGroup g f).groups
  | none => s.groups

/-- The slot is Free, the group of its task has changed by f, and no message is lost (R100, R118). -/
structure Freed (s : State) (k : Nat) (f : Group → Group) (t : State) : Prop where
  eq : t = { s with slots := t.slots, groups := t.groups, inflight := t.inflight }
  slots : t.slots = (s.onSlot k Slot.free).slots
  groups : t.groups = ownerGroups s k f
  inflight : ∀ m ∈ s.inflight, m ∈ t.inflight

theorem freeSlot_eq (s : State) (k : Nat) : ∃ fl, freeSlot k s = { s.onSlot k Slot.free with inflight := fl } ∧ ∀ m ∈ s.inflight, m ∈ fl := by
  unfold freeSlot
  dsimp only
  split
  · exact ⟨_, rfl, fun _ h => List.mem_append_left _ h⟩
  · exact ⟨_, rfl, fun _ h => h⟩

/-- The owner's change applied to a state in which the slot is Free. -/
theorem onGroup_freed (s : State) (k g : Nat) (f : Group → Group) (fl : List (Nat × Msg)) :
    State.onGroup { s.onSlot k Slot.free with inflight := fl } g f =
      { s.onSlot k Slot.free with inflight := fl, groups := (s.onGroup g f).groups } := by
  unfold State.onGroup
  rw [show ({ s.onSlot k Slot.free with inflight := fl } : State).groups = s.groups from rfl]
  split <;> rfl

theorem freed_endTask (s : State) (k : Nat) : Freed s k (fun x => { x with live := x.live - 1 }) (endTask k s) := by
  obtain ⟨fl, hf, hm⟩ := freeSlot_eq s k
  have hg : ∀ o, (s.slot k).bind.owner = o → ownerGroups s k (fun x => { x with live := x.live - 1 }) =
      match o with
      | some g => (s.onGroup g fun x => { x with live := x.live - 1 }).groups
      | none => s.groups := fun o ho => by rw [ownerGroups, ho]
  unfold endTask
  dsimp only
  split
  · next g ho =>
    rw [hf, onGroup_freed]
    exact ⟨rfl, rfl, (hg _ ho).symm, fun m h => List.mem_append_left _ (hm m h)⟩
  · next ho =>
    rw [hf]
    exact ⟨rfl, rfl, (hg _ ho).symm, hm⟩

theorem freed_suspendTask (s : State) (k : Nat) :
    Freed s k (fun x => { x with susp := x.susp ++ [(s.slot k).sys.trec] }) (suspendTask k s) := by
  obtain ⟨fl, hf, hm⟩ := freeSlot_eq s k
  have hg : ∀ o, (s.slot k).bind.owner = o → ownerGroups s k (fun x => { x with susp := x.susp ++ [(s.slot k).sys.trec] }) =
      match o with
      | some g => (s.onGroup g fun x => { x with susp := x.susp ++ [(s.slot k).sys.trec] }).groups
      | none => s.groups := fun o ho => by rw [ownerGroups, ho]
  unfold suspendTask
  dsimp only
  split
  · next g ho =>
    rw [hf, onGroup_freed]
    exact ⟨rfl, rfl, (hg _ ho).symm, hm⟩
  · next ho =>
    rw [hf]
    exact ⟨rfl, rfl, (hg _ ho).symm, hm⟩

/-! #### What it leaves -/

variable (hf : Freed s k f t)
include hf

theorem Freed.slot_self : t.slot k = (s.slot k).free := by
  rw [State.slot, hf.slots]
  exact State.slot_onSlot_self s k Slot.free

theorem Freed.slot_ne {j : Nat} (h : j ≠ k) : t.slot j = s.slot j := by
  rw [State.slot, hf.slots]
  exact State.slot_onSlot_ne s Slot.free h

theorem Freed.cur : t.cur = s.cur := by rw [hf.eq]
theorem Freed.mem : t.mem = s.mem := by rw [hf.eq]
theorem Freed.ctxs : t.ctxs = s.ctxs := by rw [hf.eq]
theorem Freed.core (c : Nat) : t.core c = s.core c := by rw [hf.eq]; rfl
theorem Freed.ctxOpen (n : Nat) : ctxOpen t n = ctxOpen s n := by rw [Machine.ctxOpen, Machine.ctxOpen, hf.ctxs]

/-- The group of the task, after its change. -/
theorem Freed.group {g : Nat} {G : Group} (ho : (s.slot k).bind.owner = some g) (hG : tfind s.groups g = some G) :
    tfind t.groups g = some (f G) := by
  rw [hf.groups, ownerGroups, ho]
  exact State.tfind_onGroup s f hG

/-- No group has other tasks waiting than before. -/
theorem Freed.toStart (hts : ∀ x, (f x).toStart = x.toStart) {e : Nat × Group} (he : e ∈ t.groups) :
    ∃ e' ∈ s.groups, e.2.toStart = e'.2.toStart := by
  rw [hf.groups, ownerGroups] at he
  split at he
  · next g _ =>
    unfold State.onGroup at he
    split at he
    · next G hG =>
      rcases mem_tset he with rfl | h
      · exact ⟨_, mem_of_tfind hG, hts G⟩
      · exact ⟨e, h, rfl⟩
    · exact ⟨e, he, rfl⟩
  · exact ⟨e, he, rfl⟩

/-- The registers of the slot stand as they were (R118). -/
theorem Freed.regsKept : RegsKept (fun _ => False) (s.slot k) (t.slot k) := by
  rw [hf.slot_self]
  exact .of_files rfl rfl rfl rfl rfl

theorem Freed.nothingListed (hts : ∀ x, (f x).toStart = x.toStart) (h : NothingListed s k) : NothingListed t k where
  entries e he := by
    rw [hf.core] at he
    exact (hf.ctxOpen _).trans (h.entries e he)
  tasks hd hb g hg := by
    rw [hf.slot_self] at hd hb
    obtain ⟨g', hg', he⟩ := hf.toStart hts hg
    exact he.trans (h.tasks hd hb g' hg')

end Frees

/-! ### The task that the slot takes next -/

section Next
variable {s : State} {k : Nat}

theorem nextBound_none (h : ∀ g ∈ s.groups, g.2.toStart = []) : nextBound s k = none := by
  unfold nextBound
  refine List.findSome?_eq_none_iff.mpr fun e he => ?_
  rw [h e he]
  rfl

theorem nextEntry_none (h : ∀ e ∈ (s.core (coreOf k)).runList, ctxOpen s e.ctx = false) : nextEntry s k = none := by
  unfold nextEntry
  dsimp only
  split
  · refine List.findSome?_eq_none_iff.mpr fun l _ => List.find?_eq_none.mpr fun e he => ?_
    rw [h e he]
    simp
  · rfl

theorem takeListed_idle (h : NothingListed s k) : takeListed k s = s := by
  refine takeListed_none (noBound_of ?_) (nextEntry_none h.entries)
  by_cases hd : (s.slot k).det = true ∧ (s.slot k).bind.bound = true
  · exact .inr (.inr (nextBound_none (h.tasks hd.1 hd.2)))
  · exact (Decidable.not_and_iff_or_not.mp hd).imp Bool.eq_false_iff.mpr fun h => .inl (Bool.eq_false_iff.mpr h)

theorem takeNext_idle (h : NothingListed s k) : takeNext k s = s := by
  rw [takeNext, takeListed_idle h]
  exact ite_self _

theorem takeNext_closed (h : ctxOpen s (s.slot k).bind.ctx = false) : takeNext k s = s := by
  rw [takeNext, h]
  rfl

end Next

/-! ### The end of an instruction that its slot has left -/

/-- A slot that has left its task: one that runs another parks for the switch marker (R45). -/
def leave (t : State) : State := t.onMe fun sl => if t.mark && sl.run == .running && sl.marks then sl.park (.marker none) else sl

theorem exec_of_left {i : Instr} {s t : State} {body : Body} (he : exec i s = issue i body s) (hb : body s = (t, .left))
    (h : Ready i s) : exec i s = .next (leave t) := by
  rw [he, issue_ready h, hb, conclude_left]
  rfl

section Leaves
variable {t : State}

/-- A slot that is Free stays so. -/
theorem leave_free (h : t.me.run = .free) (k : Nat) : (leave t).slot k = t.slot k := by
  by_cases hk : k = t.cur
  · subst hk
    refine (State.me_onMe t _).trans (if_neg ?_)
    rw [h]
    simp
  · exact State.slot_onSlot_ne t _ hk

/-- A slot that runs another task. -/
theorem leave_running (h : t.me.run = .running) :
    (leave t).me.run = (if t.mark && t.me.marks then .parked (.marker none) else .running) ∧ (leave t).me.sys = t.me.sys := by
  have hme : (leave t).me = if t.mark && t.me.marks then t.me.park (.marker none) else t.me := by
    refine (State.me_onMe t _).trans ?_
    rw [h, beq_self_eq_true, Bool.and_true]
  rw [hme]
  split
  · rw [Slot.park, h]
    exact ⟨rfl, rfl⟩
  · exact ⟨h, rfl⟩

end Leaves

/-- A slot that has started the record of an entry, which has left its list (R416). -/
theorem leave_taken {w u : State} {k ctx : Nat} {x : Word} (f : Core → Core) (hk : w.cur = k) (hr : startRecord k ctx x w = (true, u)) :
    let t := leave (roomMade (coreOf k) (u.onCore (coreOf k) f))
    t.me.run = (if u.mark && (u.slot k).marks then .parked (.marker none) else .running) ∧ t.me.sys.trec = x ∧
      t.core (coreOf k) = f (u.core (coreOf k)) ∧ (u.core (coreOf k)).runList = (w.core (coreOf k)).runList ∧
      (u.core (coreOf k)).deque = (w.core (coreOf k)).deque := by
  obtain ⟨bs, v, hbs, hu⟩ := startRecord_true w hr
  obtain ⟨hrun, htask, _, _, hcur, _, hcore⟩ := startWith_fields v k ctx x bs
  rw [← hu] at hrun htask hcur hcore
  have hv := slotBytes_still w hbs
  have hme : (roomMade (coreOf k) (u.onCore (coreOf k) f)).me = u.slot k := by
    rw [State.me, roomMade_slot, roomMade_cur]
    exact congrArg u.slot (hcur.trans ((State.still_cur hv).trans hk))
  obtain ⟨hr1, hs1⟩ := leave_running (hme ▸ hrun)
  refine ⟨?_, ?_, ?_, (congrArg Core.runList (hcore _) :).trans (State.still_runList hv _),
    (congrArg Core.deque (hcore _) :).trans (State.still_deque hv _)⟩
  · rw [hr1, hme, roomMade_mark]
    rfl
  · rw [hs1, hme]
    exact htask.1
  · refine (?_ : _ = (roomMade (coreOf k) (u.onCore (coreOf k) f)).core (coreOf k)).trans ?_
    · rfl
    · rw [roomMade_core, State.core_onCore_self]

/-- A slot whose task has ended takes an entry of its core's run list (R118, R416). -/
theorem leave_takeNext {w u : State} {k : Nat} {e : RunEntry} (hk : w.cur = k) (ho : ctxOpen w (w.slot k).bind.ctx = true)
    (hd : (w.slot k).det = false) (he : nextEntry w k = some e) (hr : startRecord k e.ctx e.record w = (true, u)) :
    let t := leave (takeNext k w)
    t.me.run = (if u.mark && (u.slot k).marks then .parked (.marker none) else .running) ∧ t.me.sys.trec = e.record ∧
      (t.core (coreOf k)).runList = (w.core (coreOf k)).runList.erase e := by
  obtain ⟨hrun, htrec, hcore, hlist, _⟩ := leave_taken (fun x => { x with runList := x.runList.erase e }) hk hr
  have ht : takeNext k w = roomMade (coreOf k) (u.onCore (coreOf k) fun x => { x with runList := x.runList.erase e }) :=
    (if_pos ho).trans (takeListed_entry (noBound_of (.inl hd)) he hr)
  rw [ht]
  exact ⟨hrun, htrec, by rw [hcore, ← hlist]⟩

/-! ### TPICK (R423) -/

section Picks
variable {t : State} (hrun : t.me.run = .free) (hstop : (t.core (coreOf t.cur)).stopped = false)
include hrun hstop

/-- A slot that looks at the deque takes its last entry. -/
theorem takeWork_picks {e : DequeEntry} {u : State} (hlast : (t.core (coreOf t.cur)).deque.getLast? = some e)
    (ho : ctxOpen t e.ctx = true) (hs : ctxOpen t t.me.bind.ctx = true)
    (hr : startRecord t.cur e.ctx e.record (t.onMe fun sl => { sl with phase := 0 }) = (true, u)) :
    takeWork t.cur (t.onMe fun sl => { sl with phase := 5 }) =
      roomMade (coreOf t.cur) (u.onCore (coreOf t.cur) fun x => { x with deque := x.deque.dropLast }) := by
  have h5 : (t.onMe fun sl => { sl with phase := 5 }).slot t.cur = { t.me with phase := 5 } := State.me_onMe t _
  have h0 : (t.onMe fun sl => { sl with phase := 5 }).onSlot t.cur (fun sl => { sl with phase := 0 }) =
    t.onMe fun sl => { sl with phase := 0 } := State.onMe_onMe t _ _
  have hopen : (!ctxOpen (t.onMe fun sl => { sl with phase := 0 }) e.ctx || !slotOpen (t.onMe fun sl => { sl with phase := 0 }) t.cur) = false := by
    have hslot : (t.onMe fun sl => { sl with phase := 0 }).slot t.cur = { t.me with phase := 0 } := State.me_onMe t _
    rw [slotOpen, hslot]
    rw [show ctxOpen (t.onMe fun sl => { sl with phase := 0 }) e.ctx = true from ho,
      show ctxOpen (t.onMe fun sl => { sl with phase := 0 }) t.me.bind.ctx = true from hs, Bool.or_true]
    rfl
  simp only [takeWork, h5, h0, picking, hrun, State.onMe_core, hstop, hlast, hopen, hr, bne_self_eq_false, Bool.or_self,
    Bool.false_eq_true, if_false, decide_true, if_true]

/-- With an empty deque and nothing listed the slot stays Free. -/
theorem takeWork_picks_nothing (hdeque : (t.core (coreOf t.cur)).deque = [])
    (hn : NothingListed (t.onMe fun sl => { sl with phase := 0 }) t.cur) (hg : ∀ g ∈ t.groups, g.2.toStart = []) :
    takeWork t.cur (t.onMe fun sl => { sl with phase := 5 }) = t.onMe fun sl => { sl with phase := 0 } := by
  have h5 : (t.onMe fun sl => { sl with phase := 5 }).slot t.cur = { t.me with phase := 5 } := State.me_onMe t _
  have h0 : (t.onMe fun sl => { sl with phase := 5 }).onSlot t.cur (fun sl => { sl with phase := 0 }) =
    t.onMe fun sl => { sl with phase := 0 } := State.onMe_onMe t _ _
  have hb : nextBound (t.onMe fun sl => { sl with phase := 0 }) t.cur = none := nextBound_none hg
  simp only [takeWork, h5, h0, picking, hrun, State.onMe_core, hstop, hdeque, takeListed_idle hn, hb, bne_self_eq_false, Bool.or_self,
    Bool.false_eq_true, if_false, decide_true, List.getLast?_nil, ite_self]

end Picks

end Sys2Proof.Machine
end

section
/-! O37, the ends of tasks: WAITE (R115), WFW (R118) and TPICK (R423). -/

namespace Sys2Proof.Machine

section Waits
variable {i : Instr} {s : State} (he : exec i s = issue i waiteBody s) (h : Ready i s)
include he h

theorem waiteBody_clauses :
    (s.me.sys.st.getLsbD 6 = true → Writes i s fun sl => sl.onSys fun y => { y with st := y.st &&& ~~~0x40#64 }) ∧
      (s.me.sys.st.getLsbD 6 = false → ParksOn i s s .event) := by
  refine ⟨fun hev => completes_of_next he ?_ h, fun hev => parksOn_of_wait he ?_ h⟩
  · rw [waiteBody, show s.me.sys.st.getLsbD stEV = true from hev]
    rfl
  · rw [waiteBody, show s.me.sys.st.getLsbD stEV = false from hev]
    rfl

end Waits

section Ends
variable {i : Instr} {s : State}

/-- What the statement says of a slot whose task has ended: it is Free, its registers and the rest of the machine stand as they were, and
its group has one task less. -/
theorem leave_freed {t : State} (hf : Freed s s.cur (fun x => { x with live := x.live - 1 }) t) : let v := leave t
    v.me.run = .free ∧ v.me.pc = s.me.pc ∧ RegsKept (fun _ => False) s.me v.me ∧ v.me.sys = s.me.sys ∧
      (∀ k, k ≠ s.cur → v.slot k = s.slot k) ∧ v.mem = s.mem ∧
      ∀ g G, s.me.bind.owner = some g → tfind s.groups g = some G →
        ∃ G', tfind v.groups g = some G' ∧ G' = { G with live := G.live - 1 } := by
  have hme : t.me = s.me.free := by rw [State.me, hf.cur, hf.slot_self]; rfl
  have hslot := leave_free (t := t) (by rw [hme]; rfl)
  have hv : (leave t).me = s.me.free := (hslot t.cur).trans hme
  refine ⟨by rw [hv]; rfl, by rw [hv]; rfl, by rw [hv]; exact .of_files rfl rfl rfl rfl rfl, by rw [hv]; rfl, fun k hk => ?_, hf.mem,
    fun g G ho hG => ⟨_, hf.group ho hG, rfl⟩⟩
  exact (hslot k).trans (hf.slot_ne hk)

/-- The end of a task (R118): the slot is Free, or runs the next one. -/
theorem wfwBody_clauses (he : exec i s = issue i wfwBody s) (h : Ready i s) :
    (NothingListed s s.cur → exec i s = .next (leave (endTask s.cur s))) ∧
      (s.me.det = false → ∀ e u, nextEntry (endTask s.cur s) s.cur = some e →
        startRecord s.cur e.ctx e.record (endTask s.cur s) = (true, u) → ctxOpen s s.myCtx = true → ∃ t, exec i s = .next t ∧
          t.me.run = (if u.mark && (u.slot s.cur).marks then .parked (.marker none) else .running) ∧ t.me.sys.trec = e.record ∧
          (t.core s.myCore).runList = (s.core s.myCore).runList.erase e) := by
  have hf := freed_endTask s s.cur
  have hbody : wfwBody s = (takeNext s.cur (endTask s.cur s), .left) := by
    rw [wfwBody, replayPoint, h.replay]
  refine ⟨fun hn => ?_, fun hd e u hne hr ho => ⟨_, exec_of_left he hbody h, ?_⟩⟩
  · rw [exec_of_left he hbody h, takeNext_idle (hf.nothingListed (fun _ => rfl) hn)]
  · have hslot : (endTask s.cur s).slot s.cur = s.me.free := hf.slot_self
    obtain ⟨hrun, htrec, hlist⟩ := leave_takeNext hf.cur (by rw [hf.ctxOpen, hslot]; exact ho) (by rw [hslot]; exact hd) hne hr
    exact ⟨hrun, htrec, hlist.trans (by rw [hf.core]; rfl)⟩

end Ends

/-! ### TPICK -/

section Pick
variable {s : State}

/-- Phase 0 of a slot that is Free is nothing new. -/
theorem Freed.phase_zero {f : Group → Group} {t : State} (hf : Freed s s.cur f t) : Freed s s.cur f (t.onMe fun sl => { sl with phase := 0 }) where
  eq := (congrArg (fun x : State => { x with slots := (t.onMe fun sl => { sl with phase := 0 }).slots }) hf.eq :)
  slots := by
    have hme : t.me = s.me.free := by rw [State.me, hf.cur, hf.slot_self]; rfl
    calc (t.onMe fun sl => { sl with phase := 0 }).slots = tset t.slots t.cur { t.me with phase := 0 } := rfl
      _ = tset (tset s.slots s.cur s.me.free) s.cur s.me.free := by rw [hf.slots, hf.cur, hme]; rfl
      _ = (s.onSlot s.cur Slot.free).slots := tset_tset_self ..
  groups := hf.groups
  inflight := hf.inflight

variable (h : Ready .tpick s) (hstop : (s.core s.myCore).stopped = false)
include h hstop

/-- TPICK with nothing to take (R423). -/
theorem tpick_frees (hn : NothingListed s s.cur) (hdeque : (s.core s.myCore).deque = []) (hg : ∀ g ∈ s.groups, g.2.toStart = []) :
    ∃ t, Freed s s.cur (fun x => { x with live := x.live - 1 }) t ∧ exec .tpick s = .next (leave t) := by
  have hf := freed_endTask s s.cur
  have he : exec .tpick s = issue .tpick tpickBody s := rfl
  by_cases ho : ctxOpen s s.myCtx = true
  · refine ⟨_, hf.phase_zero, exec_of_left he ?_ h⟩
    have hts : ∀ g ∈ (endTask s.cur s).groups, g.2.toStart = [] := fun g hg' => by
      obtain ⟨g', hmem, hstart⟩ := hf.toStart (fun _ => rfl) hg'
      exact hstart.trans (hg g' hmem)
    have hme : (endTask s.cur s).me.run = .free := by rw [State.me, hf.cur, hf.slot_self]; rfl
    have hwork := takeWork_picks_nothing hme (by rw [hf.core, hf.cur]; exact hstop) (by rw [hf.core, hf.cur]; exact hdeque)
      (by rw [hf.cur]; exact hf.phase_zero.nothingListed (fun _ => rfl) hn) hts
    rw [hf.cur] at hwork
    rw [tpickBody, replayPoint, h.replay]
    dsimp only
    rw [if_pos ho, hwork]
  · refine ⟨_, hf, exec_of_left he ?_ h⟩
    rw [tpickBody, replayPoint, h.replay]
    dsimp only
    rw [if_neg ho]

/-- TPICK with an entry in the deque (R423). -/
theorem tpick_takes (ho : ctxOpen s s.myCtx = true) {e : DequeEntry} {u : State} (hlast : (s.core s.myCore).deque.getLast? = some e)
    (hoe : ctxOpen s e.ctx = true)
    (hr : startRecord s.cur e.ctx e.record ((endTask s.cur s).onMe fun sl => { sl with phase := 0 }) = (true, u)) :
    ∃ t, exec .tpick s = .next t ∧
      t.me.run = (if u.mark && (u.slot s.cur).marks then .parked (.marker none) else .running) ∧ t.me.sys.trec = e.record ∧
      (t.core s.myCore).deque = (s.core s.myCore).deque.dropLast := by
  have hf := freed_endTask s s.cur
  have he : exec .tpick s = issue .tpick tpickBody s := rfl
  have hme : (endTask s.cur s).me = s.me.free := by rw [State.me, hf.cur, hf.slot_self]; rfl
  have hwork := takeWork_picks (t := endTask s.cur s) (e := e) (u := u) (by rw [hme]; rfl) (by rw [hf.core, hf.cur]; exact hstop)
    (by rw [hf.core, hf.cur]; exact hlast) (by rw [hf.ctxOpen]; exact hoe) (by rw [hf.ctxOpen, hme]; exact ho) (by rw [hf.cur]; exact hr)
  rw [hf.cur] at hwork
  obtain ⟨hrun, htrec, hcore, _, hdeque⟩ := leave_taken (fun x => { x with deque := x.deque.dropLast }) hf.phase_zero.cur hr
  refine ⟨_, exec_of_left he ?_ h, hrun, htrec, (congrArg Core.deque hcore).trans (congrArg List.dropLast (hdeque.trans ?_))⟩
  · rw [tpickBody, replayPoint, h.replay]
    dsimp only
    rw [if_pos ho, hwork]
  · rw [State.onMe_core, hf.core]
    rfl

end Pick

end Sys2Proof.Machine
end

section
/-! O37, suspensions of tasks: what comes before YIELD and SUSPEND write their record (R101, R116, R117), and what follows it (R416, R423). -/

namespace Sys2Proof.Machine

/-! ### The record written (R101, R429) -/

section Records
variable {s t : State}

theorem descGet_still (s : State) (ctx off : Nat) : (descGet ctx off s).2.still = s.still := by
  unfold descGet
  split
  · simp
  · rfl

theorem descPut_still (s : State) (ctx off n v : Nat) : (descPut ctx off n v s).still = s.still := by
  unfold descPut
  split
  · simp
  · rfl

theorem poolRecord_still {k : Nat} {a : Word} (h : poolRecord k s = (some a, t)) : t.still = s.still := by
  unfold poolRecord at h
  dsimp only at h
  split at h
  · exact nomatch congrArg Prod.fst h
  · rw [show t = _ from (congrArg Prod.snd h).symm, descPut_still, descGet_still]

/-- A slot whose record is written is in the phase in which it was. -/
theorem writeRecord_phase {pc : Word} (h : writeRecord pc s = .ok t) : (t.slot s.cur).phase = (s.slot s.cur).phase := by
  have hwrite : ∀ {u : State} {bs : List Put}, (u.slot s.cur).phase = (s.slot s.cur).phase →
      (match storeFor s.cur false 64 bs u with
        | .error e => .error e
        | .ok v => .ok (v.onSlot s.cur fun sl => { sl with fresh := false }) : Except (State × Ending) State) = .ok t →
      (t.slot s.cur).phase = (s.slot s.cur).phase := fun {u bs} hu h => by
    cases hv : storeFor s.cur false 64 bs u with
    | error e => rw [hv] at h; exact nomatch h
    | ok v =>
      rw [hv] at h
      rw [← Except.ok.inj h, State.slot_onSlot_self]
      exact (State.still_phase (storeFor_still u hv) s.cur).trans hu
  unfold writeRecord at h
  dsimp only at h
  split at h
  · exact hwrite rfl h
  · cases hp : poolRecord s.cur s with
    | mk a v =>
      rw [hp] at h
      cases a with
      | none => exact nomatch h
      | some a =>
        refine hwrite ?_ h
        rw [State.slot_onSlot_self]
        exact State.still_phase (poolRecord_still hp) s.cur

/-- What reading the record's tail leaves of the slot. -/
theorem ownTail_slot {k : Nat} {q : List (BitVec 8)} (h : ownTail k s = (some q, t)) :
    (t.slot k).phase = (s.slot k).phase ∧ (t.slot k).bind = (s.slot k).bind := by
  have hs := slotBytes_still s h
  exact ⟨State.still_phase hs k, (congrArg Slot.bind (State.still_slot hs k) :)⟩

end Records

/-! ### Messages of a slot -/

section Sends
variable (s : State) (k : Nat) (m : Msg)

theorem sendMsg_groups : (sendMsg k m s).groups = s.groups := by
  unfold sendMsg nameMsg
  dsimp only
  split <;> split <;> rfl

theorem sendMsg_slot : ∃ tr, (sendMsg k m s).slot k = { s.slot k with traffic := tr } := by
  rw [State.slot, sendMsg_slots]
  cases hd : (s.slot k).det
  · exact ⟨_, rfl⟩
  · refine ⟨{ (s.slot k).traffic with seq := (s.slot k).traffic.seq + 1 }, ?_⟩
    refine (State.slot_onSlot_self s k afterSend).trans ?_
    rw [afterSend, hd]
    rfl

end Sends

theorem NothingListed.of_same {s t : State} {k : Nat} (h : NothingListed s k)
    (hlist : (t.core (coreOf k)).runList = (s.core (coreOf k)).runList) (hctxs : t.ctxs = s.ctxs)
    (hsys : (t.slot k).sys = (s.slot k).sys) (hbind : (t.slot k).bind = (s.slot k).bind) (hgroups : t.groups = s.groups) : NothingListed t k where
  entries e he := by
    rw [hlist] at he
    rw [ctxOpen, hctxs]
    exact h.entries e he
  tasks hd hb := by
    rw [Slot.det, hsys] at hd
    rw [hbind] at hb
    rw [hgroups]
    exact h.tasks hd hb

/-! ### A slot that has suspended its task -/

section Suspends
variable {s t : State} {k : Nat}

/-- The slot is Free, its registers stand, its group keeps the record, and no message is lost (R101). -/
theorem leave_suspendTask (hk : s.cur = k) : let v := leave (suspendTask k s)
    (v.slot k).run = .free ∧ RegsKept (fun _ => False) (s.slot k) (v.slot k) ∧ (∀ c, v.core c = s.core c) ∧
      (∀ m ∈ s.inflight, m ∈ v.inflight) ∧ ∀ g G, (s.slot k).bind.owner = some g → tfind s.groups g = some G →
        ∃ G', tfind v.groups g = some G' ∧ G' = { G with susp := G.susp ++ [(s.slot k).sys.trec] } := by
  have hf := freed_suspendTask s k
  have hslot : (leave (suspendTask k s)).slot k = (s.slot k).free := by
    refine (leave_free ?_ k).trans hf.slot_self
    rw [State.me, hf.cur, hk, hf.slot_self]
    rfl
  exact ⟨by rw [hslot]; rfl, by rw [hslot]; exact .of_files rfl rfl rfl rfl rfl, hf.core, hf.inflight, fun g G ho hG => ⟨_, hf.group ho hG, rfl⟩⟩

/-- The same behind a message that the slot sends, with no work ready. -/
theorem leave_sent (m : Msg) (hk : s.cur = k) (hn : NothingListed s k) : let v := leave (takeNext k (suspendTask k (sendMsg k m s)))
    (v.slot k).run = .free ∧ RegsKept (fun _ => False) (s.slot k) (v.slot k) ∧
      (s.mcyc + 17, ⟨m.ev, { m.arg with sender := k + 1, seq := if (s.slot k).det then (s.slot k).traffic.seq + 1 else 0, sent := s.mcyc }⟩) ∈ v.inflight ∧
      ∀ g G, (s.slot k).bind.owner = some g → tfind s.groups g = some G →
        ∃ G', tfind v.groups g = some G' ∧ G' = { G with susp := G.susp ++ [(s.slot k).sys.trec] } := by
  obtain ⟨tr, hslot⟩ := sendMsg_slot s k m
  have hstill := sendMsg_still s k m
  have hn' : NothingListed (sendMsg k m s) k := hn.of_same (State.still_runList hstill _) (State.still_ctxs hstill)
    (by rw [hslot]) (by rw [hslot]) (sendMsg_groups s k m)
  have hidle : takeNext k (suspendTask k (sendMsg k m s)) = suspendTask k (sendMsg k m s) :=
    takeNext_idle ((freed_suspendTask _ k).nothingListed (fun _ => rfl) hn')
  obtain ⟨hrun, hregs, _, hmsg, hgroup⟩ := leave_suspendTask ((State.still_cur hstill).trans hk)
  rw [hslot] at hregs hgroup
  rw [sendMsg_groups] at hgroup
  have hfiles : RegsKept (fun _ => False) (s.slot k) { s.slot k with traffic := tr } := .of_files rfl rfl rfl rfl rfl
  rw [hidle]
  exact ⟨hrun, hfiles.trans hregs, hmsg _ (mem_sendMsg_inflight s k m), hgroup⟩

end Suspends

/-! ### YIELD and SUSPEND once their record is written -/

/-- The run list of the core with the record at its end (R416). -/
def yieldList (s1 s2 : State) (q : List (BitVec 8)) (c : Nat) : List RunEntry :=
  (s2.core c).runList ++ [⟨recPrio q, s1.me.sys.trec, s1.myCtx, (s2.core c).cyc.toNat⟩]

/-- The package with that list. -/
def yieldListed (s1 s2 : State) (q : List (BitVec 8)) (c : Nat) : State := s2.onCore c fun x => { x with runList := yieldList s1 s2 q c }

theorem yieldListed_runList (s1 s2 : State) (q : List (BitVec 8)) (c : Nat) :
    ((yieldListed s1 s2 q c).core c).runList = yieldList s1 s2 q c := congrArg Core.runList (State.core_onCore_self ..)

section Writes
variable {s1 s2 : State} {k : Nat} {q : List (BitVec 8)} (hk1 : s1.cur = k)

section Yields
variable (hp : s1.me.phase ≠ 7) (ht : ownTail k (s1.onMe fun sl => { sl with phase := 3, keep := [] }) = (some q, s2))
include hk1 hp ht

/-- A record whose home is another core is sent there (R116). -/
theorem yieldOn_away (h : recHome q ≠ coreOf k) : yieldOn s1 = (takeNext k (suspendTask k (sendMsg k ⟨.tenqArrival,
    { Arg.reset with k := s1.myCtx, a := recHome q, c := recPrio q, w := s1.me.sys.trec }⟩ s2)), .left) := by
  subst hk1
  have ht' : ownTail (s1.onMe fun sl => { sl with phase := 3, keep := [] }).cur (s1.onMe fun sl => { sl with phase := 3, keep := [] }) = (some q, s2) := ht
  refine (if_neg (show ¬ s1.me.phase = listedPhase from hp)).trans ?_
  simp only [withTail, ht', if_neg h]

/-- A record of the own core is appended to its run list (R116, R416). -/
theorem yieldOn_home (h : recHome q = coreOf k) (hold : (s2.core (coreOf k)).holding = none)
    (hlen : (s2.core (coreOf k)).runList.length < 64) : yieldOn s1 =
      (takeNext k (suspendTask k (yieldListed s1 s2 q (coreOf k))), .left) := by
  subst hk1
  have ht' : ownTail (s1.onMe fun sl => { sl with phase := 3, keep := [] }).cur (s1.onMe fun sl => { sl with phase := 3, keep := [] }) = (some q, s2) := ht
  have henq : enqueue (coreOf s1.cur) s1.myCtx s1.me.sys.trec (recPrio q) s2 =
      (.done, yieldListed s1 s2 q (coreOf s1.cur)) := by
    rw [enqueue, if_pos hlen]
    rfl
  have hhold : ((yieldListed s1 s2 q (coreOf s1.cur)).core (coreOf s1.cur)).holding.isSome = false := by
    rw [yieldListed, State.core_onCore_self, hold]
    rfl
  refine (if_neg (show ¬ s1.me.phase = listedPhase from hp)).trans ?_
  simp only [withTail, ht', if_pos h, henq, hhold, Bool.false_eq_true, if_false]

end Yields

variable (ht : ownTail k (s1.onMe fun sl => { sl with phase := 3, keep := [1#64] }) = (some q, s2)) (hk2 : s2.cur = k)
include hk1 ht hk2

/-- SUSPEND by its record's counter (R117). -/
theorem suspendOn_eq : suspendOn s1 =
    if recCtr q = false then (takeNext k (suspendTask k s2), .left)
    else if ctrCount s2 (recHome q) (recCref q) = 0 then yieldOn s2
    else (takeNext k (suspendTask k (sendMsg k (armMsg k q s2) s2)), .left) := by
  subst hk1
  have ht' : ownTail (s1.onMe fun sl => { sl with phase := 3, keep := [1#64] }).cur (s1.onMe fun sl => { sl with phase := 3, keep := [1#64] }) = (some q, s2) := ht
  unfold suspendOn
  simp only [withTail, ht', hk2, Bool.not_eq_true']

end Writes

end Sys2Proof.Machine
end

section
/-! O37, YIELD and SUSPEND (R101, R116, R117): the slot is Free with its record kept, or runs the next task of its core's list. -/

namespace Sys2Proof.Machine

/-- The instruction suspends the task: the slot is Free, its registers stand as in s2, its group keeps the record, and p holds (R101). -/
def StopsTask (i : Instr) (s s2 : State) (p : State → Prop) : Prop :=
  ∃ t, exec i s = .next t ∧ (t.slot s.cur).run = .free ∧ RegsKept (fun _ => False) (s2.slot s.cur) (t.slot s.cur) ∧ p t ∧
    ∀ g G, (s2.slot s.cur).bind.owner = some g → tfind s2.groups g = some G →
      ∃ G', tfind t.groups g = some G' ∧ G' = { G with susp := G.susp ++ [(s2.slot s.cur).sys.trec] }

theorem named_of_cur {s : State} {k : Nat} (h : s.cur = k) (e : Instr) (m : Arg) : named s e m =
    ⟨e, { m with sender := k + 1, seq := if (s.slot k).det then (s.slot k).traffic.seq + 1 else 0, sent := s.mcyc }⟩ := by
  subst h
  rfl

section Queued
variable {i : Instr} {s s1 s2 : State} {q : List (BitVec 8)}

/-- A task that stops behind a message to another core. -/
theorem stopsTask_sent {m : Msg} (h2 : s2.cur = s.cur) (hn : NothingListed s2 s.cur)
    (hx : exec i s = .next (leave (takeNext s.cur (suspendTask s.cur (sendMsg s.cur m s2))))) :
    StopsTask i s s2 fun t => (s2.mcyc + 17, named s2 m.ev m.arg) ∈ t.inflight := by
  obtain ⟨hrun, hregs, hmsg, hgroup⟩ := leave_sent m h2 hn
  exact ⟨_, hx, hrun, hregs, by rw [named_of_cur h2]; exact hmsg, hgroup⟩

variable (hx : ∀ u, yieldOn s1 = (u, .left) → exec i s = .next (leave u)) (h1 : s1.cur = s.cur) (h2 : s2.cur = s.cur)
  (hp : s1.me.phase ≠ 7) (ht : ownTail s.cur (s1.onMe fun sl => { sl with phase := 3, keep := [] }) = (some q, s2))
include hx h1 h2 hp ht

/-- A record whose home is another core goes there, and the slot stops (R116). -/
theorem yields_away (hq : recHome q ≠ s.myCore) (hn : NothingListed s2 s.cur) : StopsTask i s s2 fun t =>
    (s2.mcyc + 17, named s2 .tenqArrival { Arg.reset with k := s1.myCtx, a := recHome q, c := recPrio q, w := s1.me.sys.trec }) ∈ t.inflight :=
  stopsTask_sent h2 hn (hx _ (yieldOn_away h1 hp ht hq))

section Home
variable (hq : recHome q = s.myCore) (hold : (s2.core s.myCore).holding = none) (hlen : (s2.core s.myCore).runList.length < 64)
include hq hold hlen

/-- A record of the own core is appended to its run list, and the slot stops while its context takes no new work (R116, R433). -/
theorem yields_closed (hc : ctxOpen s2 s1.myCtx = false) :
    StopsTask i s s2 fun t => (t.core s.myCore).runList = yieldList s1 s2 q s.myCore := by
  have hexec := hx _ (yieldOn_home h1 hp ht hq hold hlen)
  have hf := freed_suspendTask (yieldListed s1 s2 q s.myCore) s.cur
  have hctx : ctxOpen (suspendTask s.cur (yieldListed s1 s2 q s.myCore))
      ((suspendTask s.cur (yieldListed s1 s2 q s.myCore)).slot s.cur).bind.ctx = false := by
    have hbind : (s2.slot s.cur).bind.ctx = s1.myCtx := by
      rw [(ownTail_slot ht).2, ← h1]
      exact congrArg (fun sl => sl.bind.ctx) (State.me_onMe s1 _)
    rw [hf.ctxOpen, hf.slot_self]
    exact (congrArg (ctxOpen s2) hbind).trans hc
  rw [show coreOf s.cur = s.myCore from rfl, takeNext_closed hctx] at hexec
  obtain ⟨hrun, hregs, hcore, _, hgroup⟩ :=
    leave_suspendTask (s := yieldListed s1 s2 q s.myCore) h2
  exact ⟨_, hexec, hrun, hregs, (congrArg Core.runList (hcore _)).trans (yieldListed_runList ..), hgroup⟩

/-- Else the slot runs the first ready task of the list (R116, R416). -/
theorem yields_runs (hd : s2.me.det = false) (ho : ctxOpen s2 s2.myCtx = true) {e : RunEntry} {u : State}
    (he : nextEntry (suspendTask s.cur (yieldListed s1 s2 q s.myCore)) s.cur = some e)
    (hr : startRecord s.cur e.ctx e.record (suspendTask s.cur (yieldListed s1 s2 q s.myCore)) =
      (true, u)) :
    ∃ t, exec i s = .next t ∧ t.me.run = (if u.mark && (u.slot s.cur).marks then .parked (.marker none) else .running) ∧
      t.me.sys.trec = e.record ∧ (t.core s.myCore).runList = (yieldList s1 s2 q s.myCore).erase e := by
  have hf := freed_suspendTask (yieldListed s1 s2 q s.myCore) s.cur
  have hme : s2.slot s.cur = s2.me := by rw [State.me, h2]
  have hslot : (suspendTask s.cur (yieldListed s1 s2 q s.myCore)).slot s.cur = s2.me.free :=
    hf.slot_self.trans (congrArg Slot.free hme)
  obtain ⟨hrun, htrec, hlist⟩ := leave_takeNext (hf.cur.trans h2) (by rw [hf.ctxOpen, hslot]; exact ho) (by rw [hslot]; exact hd) he hr
  refine ⟨_, hx _ (yieldOn_home h1 hp ht hq hold hlen), hrun, htrec, hlist.trans (congrArg (List.erase · e) ?_)⟩
  rw [hf.core]
  exact yieldListed_runList ..

end Home

end Queued

/-! ### What comes before the record is written (R101) -/

section Bodies
variable {s s1 : State} {len : Nat} (hreplay : s.me.replay = none)
include hreplay

theorem suspendPoint_none (hports : fullMask s.me = 0) (hregs : recordHazard s.me = none) : suspendPoint s = none := by
  simp only [suspendPoint, replayPoint, hreplay, hregs, if_pos hports]

variable (hphase : s.me.phase = 0) (hports : fullMask s.me = 0) (hregs : recordHazard s.me = none)
  (hw : writeRecord (s.me.pc + BitVec.ofNat 64 len) s = .ok s1)
include hphase hports hregs hw

theorem suspendBody_eq : suspendBody len s = suspendOn s1 := by
  have hpoint := suspendPoint_none hreplay hports hregs
  simp only [suspendBody, hphase, hpoint, hw, listedPhase]
  rfl

theorem yieldBody_eq (hd : s.me.det = false ∨ prqWord s s.myCtx ≠ 0) : yieldBody len s = yieldOn s1 := by
  have hpoint := suspendPoint_none hreplay hports hregs
  have hnop : ¬ (s.me.det && decide (prqWord s s.myCtx = 0)) = true := by
    rw [Bool.and_eq_true, decide_eq_true_eq]
    rintro ⟨ht, hz⟩
    exact hd.elim (fun h => Bool.noConfusion (h.symm.trans ht)) fun h => h hz
  simp only [yieldBody, hphase, hpoint, hw, listedPhase, if_neg hnop]
  rfl

end Bodies

/-! ### The two instructions -/

/-- What YIELD does with a record whose tail is q: it is sent to its home, or appended to the core's own run list (R116). -/
def Queues (i : Instr) (s s1 s2 : State) (q : List (BitVec 8)) : Prop :=
  (recHome q ≠ s.myCore → NothingListed s2 s.cur → StopsTask i s s2 fun t =>
    (s2.mcyc + 17, named s2 .tenqArrival { Arg.reset with k := s1.myCtx, a := recHome q, c := recPrio q, w := s1.me.sys.trec }) ∈ t.inflight) ∧
  (recHome q = s.myCore → (s2.core s.myCore).holding = none → (s2.core s.myCore).runList.length < 64 →
    (NothingListed s2 s.cur → ctxOpen s2 s1.myCtx = false →
      StopsTask i s s2 fun t => (t.core s.myCore).runList = yieldList s1 s2 q s.myCore) ∧
    (s2.me.det = false → ctxOpen s2 s2.myCtx = true →
      ∀ e u, nextEntry (suspendTask s.cur (yieldListed s1 s2 q s.myCore)) s.cur = some e →
        startRecord s.cur e.ctx e.record (suspendTask s.cur (yieldListed s1 s2 q s.myCore)) = (true, u) →
        ∃ t, exec i s = .next t ∧ t.me.run = (if u.mark && (u.slot s.cur).marks then .parked (.marker none) else .running) ∧
          t.me.sys.trec = e.record ∧ (t.core s.myCore).runList = (yieldList s1 s2 q s.myCore).erase e))

theorem queues_of_yieldOn {i : Instr} {s s1 s2 : State} {q : List (BitVec 8)}
    (hx : ∀ u, yieldOn s1 = (u, .left) → exec i s = .next (leave u)) (h1 : s1.cur = s.cur) (h2 : s2.cur = s.cur) (hp : s1.me.phase ≠ 7)
    (ht : ownTail s.cur (s1.onMe fun sl => { sl with phase := 3, keep := [] }) = (some q, s2)) : Queues i s s1 s2 q :=
  ⟨fun hq hn => yields_away hx h1 h2 hp ht hq hn, fun hq hold hlen =>
    ⟨fun _ hc => yields_closed hx h1 h2 hp ht hq hold hlen hc, fun hd ho _ _ he hr => yields_runs hx h1 h2 hp ht hq hold hlen hd ho he hr⟩⟩

/-- The bytes q of the record's tail are read with s2 behind them, kp being what a repeated issue would keep. -/
def TailRead (s s1 s2 : State) (kp : List Word) (q : List (BitVec 8)) : Prop :=
  ownTail s.cur (s1.onMe fun sl => { sl with phase := 3, keep := kp }) = (some q, s2) ∧ s2.cur = s.cur

/-- No trap comes before the record is written, which leaves s1, and then its tail is read (R101, R120). -/
def RecordTaken (len : Nat) (s s1 s2 : State) (kp : List Word) (q : List (BitVec 8)) : Prop :=
  fullMask s.me = 0 ∧ recordHazard s.me = none ∧ s.me.phase = 0 ∧
    writeRecord (s.me.pc + BitVec.ofNat 64 len) s = .ok s1 ∧ s1.cur = s.cur ∧ TailRead s s1 s2 kp q

section Instructions
variable {i : Instr} {s s1 s2 : State} {q : List (BitVec 8)} {len : Nat} (h : Ready i s)
include h

section Yield
variable (he : exec i s = issue i (yieldBody len) s)
include he

/-- A deterministic YIELD with no pre-emption asked for is a NOP (R116). -/
theorem yield_nop (hd : s.me.det = true) (hz : prqWord s s.myCtx = 0) (hphase : s.me.phase = 0) : Completes i s s := by
  refine completes_of_next he ?_ h
  simp only [yieldBody, hphase, hd, hz, listedPhase, decide_true, Bool.and_self, if_true]
  rfl

theorem yield_queues (hd : s.me.det = false ∨ prqWord s s.myCtx ≠ 0) (hp : RecordTaken len s s1 s2 [] q) : Queues i s s1 s2 q := by
  obtain ⟨hports, hregs, hphase, hw, h1, ht, h2⟩ := hp
  have hbody := yieldBody_eq h.replay hphase hports hregs hw hd
  have hp : s1.me.phase = 0 := by rw [State.me, h1, writeRecord_phase hw]; exact hphase
  exact queues_of_yieldOn (fun u hu => exec_of_left he (hbody.trans hu) h) h1 h2 (by rw [hp]; decide) ht

end Yield

section Suspend
variable (he : exec i s = issue i (suspendBody len) s) (hp : RecordTaken len s s1 s2 [1#64] q)
include he hp

/-- A record without a counter stops, and one whose counter is above 0 stops behind the request that arms the counter (R117, R424). -/
theorem suspend_stops (hctr : recCtr q = false ∨ ctrCount s2 (recHome q) (recCref q) ≠ 0) (hn : NothingListed s2 s.cur) :
    StopsTask i s s2 fun t => recCtr q = true → (s2.mcyc + 17, named s2 .counterRequestArrival { Arg.reset with
      k := s.cur, a := recHome q, b := 3, c := recCref q, w := s2.me.sys.trec, u := BitVec.ofNat 64 s2.me.bind.ctx }) ∈ t.inflight := by
  obtain ⟨hports, hregs, hphase, hw, h1, ht, h2⟩ := hp
  have hbody := suspendBody_eq h.replay hphase hports hregs hw
  have hon := hbody.trans (suspendOn_eq h1 ht h2)
  cases hc : recCtr q with
  | false =>
    rw [if_pos hc] at hon
    have hidle := takeNext_idle ((freed_suspendTask s2 s.cur).nothingListed (fun _ => rfl) hn)
    obtain ⟨hrun, hregs, _, _, hgroup⟩ := leave_suspendTask h2
    exact ⟨_, exec_of_left he (hon.trans (congrArg (·, _) hidle)) h, hrun, hregs, (Bool.noConfusion ·), hgroup⟩
  | true =>
    rw [if_neg (by rw [hc]; decide), if_neg (hctr.resolve_left (by rw [hc]; decide))] at hon
    obtain ⟨t, hexec, hrun, hregs, hmsg, hgroup⟩ := stopsTask_sent h2 hn (exec_of_left he hon h)
    have hme : s2.me = s2.slot s.cur := by rw [State.me, h2]
    rw [hme]
    exact ⟨t, hexec, hrun, hregs, fun _ => hmsg, hgroup⟩

/-- A record whose counter is 0 goes on as by YIELD (R117). -/
theorem suspend_queues (hctr : recCtr q = true) (hzero : ctrCount s2 (recHome q) (recCref q) = 0) {s3 : State} {q3 : List (BitVec 8)}
    (h3 : TailRead s s2 s3 [] q3) : Queues i s s2 s3 q3 := by
  obtain ⟨hports, hregs, hphase, hw, h1, ht, h2⟩ := hp
  have hbody := suspendBody_eq h.replay hphase hports hregs hw
  have hon := hbody.trans (suspendOn_eq h1 ht h2)
  rw [if_neg (by rw [hctr]; decide), if_pos hzero] at hon
  have hp : s2.me.phase = 3 := by
    rw [State.me, h2, (ownTail_slot ht).1, ← h1]
    exact congrArg Slot.phase (State.me_onMe s1 _)
  exact queues_of_yieldOn (fun u hu => exec_of_left he (hon.trans hu) h) h2 h3.2 (by rw [hp]; decide) h3.1

end Suspend

end Instructions

end Sys2Proof.Machine
end

section
/-! O37, the record in a scratchpad (R98, R101): a store there passes its checks (R217) and changes its own bytes alone, and these are the
six doublewords of the record. -/

namespace Sys2Proof.Machine

/-! ### Accesses to the scratchpad of the own core -/

theorem mem_of_mem_enumFrom {α : Type} {k : Nat} {l : List α} {e : Nat × α} (h : e ∈ enumFrom k l) : e.2 ∈ l := by
  induction l generalizing k with
  | nil => exact nomatch h
  | cons a as ih =>
    rcases List.mem_cons.mp h with rfl | h
    · exact List.mem_cons_self
    · exact List.mem_cons_of_mem _ (ih h)

/-- A store waits for nothing earlier of a slot that has no access on its way (R218). -/
theorem orderAfter_nothing {s : State} (hout : NothingOnItsWay s) (ps : List (Place × Nat)) : orderAfter s.cur ps s = .ok s := by
  unfold orderAfter
  dsimp only
  split
  · rfl
  · next last hlast =>
    obtain ⟨hmem, hmeets⟩ := List.mem_filter.mp (List.mem_of_getLast? hlast)
    have hkind := hout last hmem
    rw [isAccess] at hkind
    split at hmeets
    · next hk => rw [hk] at hkind; exact nomatch hkind
    · next hk => rw [hk] at hkind; exact nomatch hkind
    · exact nomatch hmeets

theorem dropParams_core (s : State) (k : Nat) (ps : List (Place × Nat)) (c : Nat) :
    ((dropParams k ps s).core c).spsz = (s.core c).spsz ∧ ((dropParams k ps s).core c).arr = (s.core c).arr := by
  rw [dropParams, s.core_onCore_keeps Core.spsz, s.core_onCore_keeps Core.arr]
  · exact ⟨rfl, rfl⟩
  · exact fun _ => rfl
  · exact fun _ => rfl

section Scratch
variable {s : State} {a n : Nat} (hin : InScratchpad s a n)
include hin

theorem regionOf_inside {b : Nat} (h1 : a ≤ b) (h2 : b < a + n) : regionOf s s.myCore b = .scratch := by
  have habove := hin.above
  have hinside := hin.inside
  rw [regionOf, if_pos (by omega)]
  exact if_pos (by omega)

theorem placeAt_inside (kind : AccKind) {b : Nat} (h1 : a ≤ b) (h2 : b < a + n) :
    placeAt s.cur kind s b = .arr s.myCore (b - localBase) := by
  rw [placeAt, show regionOf s (coreOf s.cur) b = .scratch from regionOf_inside hin h1 h2]
  rfl

theorem last_inside : (⟨a, n⟩ : Span).last = a + n - 1 := by
  have hfits := hin.fits
  have hsome := hin.some
  rw [Span.last]
  dsimp only
  omega

theorem checkAccess_scratchpad (kind : AccKind) {al : Nat} (hal : a % al = 0) : checkAccess s.cur kind al [⟨a, n⟩] s = none := by
  have hsome := hin.some
  have hlast := last_inside hin
  have hfirst : regionOf s (coreOf s.cur) a = .scratch := regionOf_inside hin (Nat.le_refl a) (by omega)
  have hend : regionOf s (coreOf s.cur) (⟨a, n⟩ : Span).last = .scratch := by
    rw [hlast]
    exact regionOf_inside hin (by omega) (by omega)
  have hplace : ∀ b, a ≤ b → b < a + n → placeAt s.cur kind s b = .arr s.myCore (b - localBase) := fun b => placeAt_inside hin kind
  have hnc : Span.nonCanonical s (coreOf s.cur) ⟨a, n⟩ = none := by
    rw [Span.nonCanonical, hfirst, hend]
    rfl
  have hst : Span.straddle s (coreOf s.cur) ⟨a, n⟩ = none := by
    rw [Span.straddle, hfirst, hend]
    rfl
  have hpages : Span.pages s (coreOf s.cur) ⟨a, n⟩ = [] := by
    rw [Span.pages, hfirst]
    rfl
  have hbad : badLine s.cur kind [⟨a, n⟩] s = none := by
    have hmin : Nat.min 64 (n - 1) ≤ n - 1 := Nat.min_le_right ..
    unfold badLine
    split
    · rfl
    · refine List.findSome?_eq_none_iff.mpr fun b hb => ?_
      have hb' : a ≤ b ∧ b < a + n := by
        rw [List.flatMap_cons, List.flatMap_nil, List.append_nil, hlast] at hb
        simp only [List.mem_cons, List.not_mem_nil, or_false] at hb
        omega
      rw [hplace b hb'.1 hb'.2]
  have hne : (n != 0) = true := bne_iff_ne.mpr (by omega)
  have hsv : (!(s.slot s.cur).sv && (Area.scratch == Area.system)) = false := Bool.and_false _
  simp only [checkAccess, List.find?_cons, List.find?_nil, List.filter_cons, List.filter_nil, List.findSome?_cons, List.findSome?_nil,
    List.flatMap_cons, List.flatMap_nil, hal, hne, hnc, hst, hfirst, hpages, hbad, xlatCheck, bne_self_eq_false, if_true, List.map_nil,
    List.append_nil, Option.map_none, hsv, List.any_nil, Bool.false_eq_true, if_false]

theorem meetTargets_scratchpad (store : Bool) : meetTargets s.cur [⟨a, n⟩] store s = none := by
  have hsome := hin.some
  have hfirst : regionOf s (coreOf s.cur) a = .scratch := regionOf_inside hin (Nat.le_refl a) (by omega)
  have hdet : (s.slot s.cur).det = false := hin.throughput
  have hchan : channelOf s (coreOf s.cur) a n = none := by
    refine List.find?_eq_none.mpr fun e he => ?_
    rw [hin.closed _ (mem_of_mem_enumFrom he)]
    simp
  simp only [meetTargets, List.findSome?_cons, List.findSome?_nil, hfirst, targetEnding, hchan, ite_self, hdet, Bool.not_false, if_true]

/-- A store of the slot with nothing of it on its way (R198, R217, R218): it drops parameter blocks, and puts its bytes into the array. -/
theorem storeFor_scratchpad {al : Nat} {bs : List (BitVec 8)} (hn : bs.length = n) (hal : a % al = 0) (hwait : storeWait s.me = none)
    (hout : NothingOnItsWay s) : ∃ t, storeFor s.cur false al [⟨a, bs⟩] s = .ok t ∧
      ∀ c, (t.core c).arr = if c = s.myCore then memPut (s.core s.myCore).arr (a - localBase) bs else (s.core c).arr := by
  have hsome := hin.some
  have hplaces : putPlaces s.cur s [⟨a, bs⟩] = [(.arr s.myCore (a - localBase), n)] := by
    simp only [putPlaces, List.flatMap_cons, List.flatMap_nil, placeAt_inside hin .store (Nat.le_refl a) (by omega), List.append_nil, hn]
  have hred : redMeets (s.slot s.cur) [(.arr s.myCore (a - localBase), n)] = false := by
    refine List.any_eq_false.mpr fun o _ => ?_
    cases o <;> simp [OutOp.meets, Place.meets]
  have horder : orderAfter s.cur [(.arr s.myCore (a - localBase), n)] s = .ok s := orderAfter_nothing hout _
  have hdet : ∀ p, toBuffer s.cur (dropParams s.cur [(.arr s.myCore (a - localBase), n)] s) p = false := fun p => by
    have hd : ((dropParams s.cur [(.arr s.myCore (a - localBase), n)] s).slot s.cur).det = false := hin.throughput
    rw [toBuffer, buffered, hd]
    rfl
  have hplace : placeAt s.cur .store (dropParams s.cur [(.arr s.myCore (a - localBase), n)] s) a = .arr s.myCore (a - localBase) := by
    have hspsz : regionOf (dropParams s.cur [(.arr s.myCore (a - localBase), n)] s) (coreOf s.cur) a = .scratch := by
      have hcore : ((dropParams s.cur [(.arr s.myCore (a - localBase), n)] s).core (coreOf s.cur)).spsz = (s.core s.myCore).spsz :=
        (dropParams_core s ..).1
      have habove := hin.above
      have hinside := hin.inside
      rw [regionOf, if_pos habove, hcore]
      exact if_pos (by omega)
    rw [placeAt, hspsz]
    rfl
  have hnow : putNow s.cur [⟨a, bs⟩] (dropParams s.cur [(.arr s.myCore (a - localBase), n)] s) ⟨a, bs⟩ =
      arrPut s.myCore (a - localBase) bs (dropParams s.cur [(.arr s.myCore (a - localBase), n)] s) := by
    simp only [putNow, hplace]
    exact if_pos (hn ▸ hin.below)
  have hput : putAll s.cur [⟨a, bs⟩] s = .ok (arrPut s.myCore (a - localBase) bs (dropParams s.cur [(.arr s.myCore (a - localBase), n)] s)) := by
    simp only [putAll, hplaces, storeActs, hdet, List.flatMap_cons, List.flatMap_nil, Bool.false_eq_true, if_false, List.append_nil,
      List.isEmpty_nil, if_true, List.filter_cons, List.filter_nil, Bool.not_false, List.foldl_cons, List.foldl_nil, hnow]
  refine ⟨arrPut s.myCore (a - localBase) bs (dropParams s.cur [(.arr s.myCore (a - localBase), n)] s), ?_, fun c => ?_⟩
  · have hchecks := checkAccess_scratchpad hin .store hal
    have hmeets := meetTargets_scratchpad hin true
    have hspan : [(⟨a, bs⟩ : Put)].map Put.span = [⟨a, n⟩] := by rw [← hn]; rfl
    simp only [storeFor, hspan, show storeWait (s.slot s.cur) = none from hwait, hchecks, hmeets, hplaces, hred, horder, hput,
      Bool.false_eq_true, if_false]
  · have harr : ∀ d, ((dropParams s.cur [(.arr s.myCore (a - localBase), n)] s).core d).arr = (s.core d).arr :=
      fun d => (dropParams_core s ..).2
    by_cases hc : c = s.myCore
    · subst hc
      rw [if_pos rfl, ← harr]
      exact congrArg Core.arr (State.core_onCore_self ..)
    · rw [if_neg hc, ← harr]
      exact congrArg Core.arr (State.core_onCore_ne _ _ hc)

end Scratch

/-! ### The bytes of a record (R98) -/

theorem getElem?_bytesLE {n j : Nat} (v : Nat) (h : j < n) : (bytesLE n v)[j]? = some (BitVec.ofNat 8 (v / 256 ^ j)) := by
  induction n generalizing v j with
  | zero => exact absurd h (Nat.not_lt_zero j)
  | succ n ih =>
    cases j with
    | zero =>
      refine congrArg some (BitVec.eq_of_toNat_eq ?_)
      rw [BitVec.toNat_ofNat, BitVec.toNat_ofNat, Nat.pow_zero, Nat.div_one]
      exact Nat.mod_mod v (2 ^ 8)
    | succ j =>
      rw [bytesLE, List.getElem?_cons_succ, ih _ (Nat.lt_of_succ_lt_succ h), Nat.div_div_eq_div_mul, Nat.pow_succ']

/-- Doublewords laid out one after another. -/
theorem getElem?_wordBytes (ws : List Word) (i : Nat) :
    (ws.flatMap fun w => bytesLE 8 w.toNat)[i]? = (ws[i / 8]?).map fun w => w.extractLsb' (8 * (i % 8)) 8 := by
  induction ws generalizing i with
  | nil => rfl
  | cons w ws ih =>
    rw [List.flatMap_cons]
    by_cases h : i < 8
    · rw [List.getElem?_append_left (by rw [length_bytesLE]; exact h), getElem?_bytesLE _ h, Nat.div_eq_of_lt h, Nat.mod_eq_of_lt h,
        List.getElem?_cons_zero, Option.map_some, BitVec.extractLsb', Nat.shiftRight_eq_div_pow, show 256 = 2 ^ 8 from rfl, ← Nat.pow_mul]
    · obtain ⟨j, rfl⟩ : ∃ j, i = j + 8 := ⟨i - 8, by omega⟩
      rw [List.getElem?_append_right (by rw [length_bytesLE]; omega), length_bytesLE, Nat.add_sub_cancel, ih, Nat.add_mod_right,
        Nat.add_div_right j (by norm_num), List.getElem?_cons_succ]

/-- Doubleword m of the fields that a slot's record takes. -/
def recordField (sl : Slot) (pc : Word) (m : Nat) : Word :=
  match m with
  | 0 => pc
  | 1 => sl.rg 2
  | 2 => sl.rg 4
  | 3 => sl.rg 5
  | 4 => sl.rg 6
  | _ => sl.rg 7

theorem recordFields_getElem? (sl : Slot) (pc : Word) {m : Nat} (h : m < 6) :
    [pc, sl.rg 2, sl.rg 4, sl.rg 5, sl.rg 6, sl.rg 7][m]? = some (recordField sl pc m) := by
  interval_cases m <;> rfl

theorem length_recordHead (sl : Slot) (pc : Word) : (recordHead sl pc).length = 48 := by
  simp [recordHead, length_bytesLE]

theorem getElem?_recordHead (sl : Slot) (pc : Word) {i : Nat} (h : i < 48) :
    (recordHead sl pc)[i]? = some ((recordField sl pc (i / 8)).extractLsb' (8 * (i % 8)) 8) := by
  rw [recordHead, getElem?_wordBytes, recordFields_getElem? sl pc (by omega)]
  rfl

/-- A record written into the scratchpad: its six fields stand at its address, and no other byte of an array has changed (R98, R101). -/
theorem writeRecord_scratchpad {s : State} (pc : Word) (htrec : s.me.sys.trec ≠ 0) (hfresh : s.me.fresh = false)
    (hwait : storeWait s.me = none) (hout : NothingOnItsWay s) (hin : InScratchpad s s.me.sys.trec.toNat 48)
    (hal : s.me.sys.trec.toNat % 64 = 0) : ∃ t, writeRecord pc s = .ok t ∧ ∀ c a, memByte (t.core c).arr a =
      let off := s.me.sys.trec.toNat - localBase
      if c = s.myCore ∧ off ≤ a ∧ a < off + 48 then (recordField s.me pc ((a - off) / 8)).extractLsb' (8 * ((a - off) % 8)) 8
      else memByte (s.core c).arr a := by
  have hlen := length_recordHead s.me pc
  obtain ⟨u, hu, harr⟩ := storeFor_scratchpad hin hlen hal hwait hout
  have hw : writeRecord pc s = .ok (u.onSlot s.cur fun sl => { sl with fresh := false }) := by
    have hne : (s.me.sys.trec != 0#64) = true := bne_iff_ne.mpr htrec
    have hfresh' : (s.slot s.cur).fresh = false := hfresh
    simp only [writeRecord, hne, if_true, hfresh', Bool.false_eq_true, if_false, List.append_nil]
    rw [show storeFor s.cur false 64 [⟨(s.slot s.cur).sys.trec.toNat, recordHead (s.slot s.cur) pc⟩] s = .ok u from hu]
  refine ⟨_, hw, fun c a => ?_⟩
  have hmem : (State.core (u.onSlot s.cur fun sl => { sl with fresh := false }) c).arr = (u.core c).arr := rfl
  dsimp only
  rw [hmem, harr]
  by_cases hc : c = s.myCore
  · subst hc
    rw [if_pos rfl]
    split
    · next h =>
      obtain ⟨_, hlo, hhi⟩ := h
      obtain ⟨i, rfl⟩ := Nat.exists_eq_add_of_le hlo
      have hi : i < (recordHead s.me pc).length := by omega
      rw [memByte_memPut_inside _ _ _ _ hi, Nat.add_sub_cancel_left]
      exact Option.some.inj ((List.getElem?_eq_getElem hi).symm.trans (getElem?_recordHead s.me pc (by omega)))
    · next h => exact memByte_memPut_outside _ _ _ _ (by omega)
  · rw [if_neg hc, if_neg fun h => hc h.1]

/-! ### The statement -/

/-- Settles O37: the waits and the ends of tasks by instruction, the suspensions by where the record goes, and the record itself. -/
theorem waitsEndsYieldsAndSuspends : Obligations.WaitsEndsYieldsAndSuspends := by
  unfold Obligations.WaitsEndsYieldsAndSuspends
  refine ⟨fun s => ?ends, fun s => ?suspends⟩
  case ends =>
    refine ⟨waiteBody_clauses rfl, waiteBody_clauses rfl, fun h => ?wfw, fun h => ?cWfw,
      fun h hstop => ⟨fun hn hdeque hg => ?none, fun e u hlast hoe hr ho => ?some⟩⟩
    case wfw =>
      obtain ⟨hidle, hruns⟩ := wfwBody_clauses (i := .wfw) rfl h
      exact ⟨fun hn => ⟨_, hidle hn, leave_freed (freed_endTask s s.cur)⟩, hruns⟩
    case cWfw =>
      obtain ⟨hidle, hruns⟩ := wfwBody_clauses (i := .cWfw) rfl h
      exact ⟨fun hn => ⟨_, hidle hn, leave_freed (freed_endTask s s.cur)⟩, hruns⟩
    case none =>
      obtain ⟨t, hf, ht⟩ := tpick_frees h hstop hn hdeque hg
      exact ⟨_, ht, leave_freed hf⟩
    case some => exact tpick_takes h hstop ho hlast hoe hr
  case suspends =>
    exact ⟨fun h _ _ _ hp => ⟨suspend_stops h rfl hp, fun hc hz _ _ h3 => suspend_queues h rfl hp hc hz h3⟩,
      fun h _ _ _ hp => ⟨suspend_stops h rfl hp, fun hc hz _ _ h3 => suspend_queues h rfl hp hc hz h3⟩,
      fun h => ⟨yield_nop h rfl, fun hd _ _ _ hp => yield_queues h rfl hd hp⟩,
      fun h => ⟨yield_nop h rfl, fun hd _ _ _ hp => yield_queues h rfl hd hp⟩, fun pc => writeRecord_scratchpad pc⟩

end Sys2Proof.Machine
end

section
/-! The values that integer instructions see and write (R121, R122): the sources and results of the model as words, with the sum, product,
quotient and order of the numbers as operations on them. -/

namespace Sys2Proof.Machine

/-! ### Sources and results under W -/

/-- Bits 31:0 of a word sign-extended and cut again are bits 31:0. -/
theorem setWidth_signedOf (x : Word) : (signedOf true x).setWidth 32 = x.setWidth 32 := by
  rw [← BitVec.signExtend_eq_setWidth_of_le _ (by decide : 32 ≤ 64)]
  exact (signExtend_signExtend _ (by decide)).trans (BitVec.signExtend_eq _)

/-- The signed source is the number of the word that R121 names. -/
theorem srcInt_eq (w : Bool) (x : Word) : srcInt w x = (signedOf w x).toInt := by
  cases w with
  | false => rfl
  | true => exact (BitVec.toInt_signExtend_of_le (by decide)).symm

/-- The unsigned source is the number of the word that R121 names. -/
theorem srcNat_eq (w : Bool) (x : Word) : srcNat w x = (unsignedOf w x).toNat := by
  cases w with
  | false => rfl
  | true => exact (BitVec.toNat_setWidth_of_le (by decide)).symm

/-- The result of an exact number is that of the word that it wraps to. -/
theorem resInt_eq (w : Bool) (i : Int) : resInt w i = signedOf w (BitVec.ofInt 64 i) := by
  cases w with
  | false => simp [resInt, signedOf, ofInt]
  | true =>
    have h : BitVec.ofInt 32 i = (BitVec.ofInt 64 i).setWidth 32 := BitVec.eq_of_toNat_eq (by
      rw [BitVec.toNat_setWidth, BitVec.toNat_ofInt, BitVec.toNat_ofInt]
      omega)
    simp [resInt, signedOf, ofInt, sext64, h]

theorem resInt_toInt (w : Bool) (x : Word) : resInt w x.toInt = signedOf w x := by
  rw [resInt_eq, BitVec.ofInt_toInt]

theorem resInt_toNat (w : Bool) (x : Word) : resInt w (x.toNat : Int) = signedOf w x := by
  rw [resInt_eq, BitVec.ofInt_natCast, BitVec.ofNat_toNat, BitVec.setWidth_eq]

/-- A result depends under W = 1 on bits 31:0 alone. -/
theorem signedOf_congr {x y : Word} (h : x.setWidth 32 = y.setWidth 32) : signedOf true x = signedOf true y :=
  congrArg (BitVec.signExtend 64) h

@[simp] theorem signedOf_signedOf (w : Bool) (x : Word) : signedOf w (signedOf w x) = signedOf w x := by
  cases w with
  | false => rfl
  | true => exact signedOf_congr (setWidth_signedOf x)

@[simp] theorem signedOf_unsignedOf (w : Bool) (x : Word) : signedOf w (unsignedOf w x) = signedOf w x := by
  cases w with
  | false => rfl
  | true => exact signedOf_congr ((BitVec.setWidth_setWidth_of_le (x.setWidth 32) (by decide : 32 ≤ 64)).trans (BitVec.setWidth_eq _))

theorem ofInt_srcInt (w : Bool) (x : Word) : BitVec.ofInt 64 (srcInt w x) = signedOf w x := by
  rw [srcInt_eq, BitVec.ofInt_toInt]

theorem resInt_srcInt (w : Bool) (x : Word) : resInt w (srcInt w x) = signedOf w x := by
  rw [resInt_eq, ofInt_srcInt, signedOf_signedOf]

theorem resInt_srcNat (w : Bool) (x : Word) : resInt w (srcNat w x : Int) = signedOf w x := by
  rw [srcNat_eq, resInt_toNat, signedOf_unsignedOf]

/-! ### Sums, products and extremes (R125) -/

/-- An operation whose bits 31:0 come from bits 31:0 of its operands gives the same result on the signed sources as on the whole
registers. -/
theorem resInt_of_low {i : Int} {f : Word → Word → Word} {g : BitVec 32 → BitVec 32 → BitVec 32} (w : Bool) {x y : Word}
    (hi : BitVec.ofInt 64 i = f (signedOf w x) (signedOf w y)) (hf : ∀ u v, (f u v).setWidth 32 = g (u.setWidth 32) (v.setWidth 32)) :
    resInt w i = signedOf w (f x y) := by
  rw [resInt_eq, hi]
  cases w with
  | false => rfl
  | true => exact signedOf_congr (by rw [hf, hf, setWidth_signedOf, setWidth_signedOf])

theorem resInt_srcInt_add (w : Bool) (x y : Word) : resInt w (srcInt w x + srcInt w y) = signedOf w (x + y) :=
  resInt_of_low w (by rw [BitVec.ofInt_add, ofInt_srcInt, ofInt_srcInt]) fun u v => BitVec.setWidth_add u v (by decide)

theorem resInt_srcInt_sub (w : Bool) (x y : Word) : resInt w (srcInt w x - srcInt w y) = signedOf w (x - y) := by
  refine resInt_of_low (g := (· - ·)) w ?_ fun u v => ?_
  · rw [Int.sub_eq_add_neg, BitVec.ofInt_add, BitVec.ofInt_neg, ofInt_srcInt, ofInt_srcInt, ← BitVec.sub_eq_add_neg]
  · rw [BitVec.sub_eq_add_neg, BitVec.setWidth_add _ _ (by decide), BitVec.setWidth_neg_of_le (by decide), ← BitVec.sub_eq_add_neg]

theorem resInt_srcInt_mul (w : Bool) (x y : Word) : resInt w (srcInt w x * srcInt w y) = signedOf w (x * y) :=
  resInt_of_low w (by rw [BitVec.ofInt_mul, ofInt_srcInt, ofInt_srcInt]) fun u v => BitVec.setWidth_mul u v (by decide)

/-- The lesser or greater of two signed sources, picked by any test on their numbers. -/
theorem resInt_ite_srcInt (w : Bool) (x y : Word) (p : Prop) [Decidable p] :
    resInt w (if p then srcInt w x else srcInt w y) = if p then signedOf w x else signedOf w y := by
  rw [apply_ite (resInt w), resInt_srcInt, resInt_srcInt]

theorem srcInt_lt_iff (w : Bool) (x y : Word) : srcInt w x < srcInt w y ↔ (signedOf w x).slt (signedOf w y) = true := by
  rw [srcInt_eq, srcInt_eq, BitVec.slt_eq_decide, decide_eq_true_iff]

theorem srcNat_lt_iff (w : Bool) (x y : Word) : srcNat w x < srcNat w y ↔ (unsignedOf w x).ult (unsignedOf w y) = true := by
  rw [srcNat_eq, srcNat_eq, BitVec.ult_eq_decide, decide_eq_true_iff]

theorem resInt_min_srcNat (w : Bool) (x y : Word) : resInt w (Nat.min (srcNat w x) (srcNat w y) : Nat) =
    signedOf w (if (unsignedOf w y).ult (unsignedOf w x) then y else x) := by
  have hmin : Nat.min (srcNat w x) (srcNat w y) = srcNat w (if srcNat w y < srcNat w x then y else x) := by
    rw [apply_ite (srcNat w)]
    exact Nat.min_def.trans (by split <;> split <;> omega)
  rw [hmin, resInt_srcNat]
  simp only [srcNat_lt_iff]

theorem resInt_max_srcNat (w : Bool) (x y : Word) : resInt w (Nat.max (srcNat w x) (srcNat w y) : Nat) =
    signedOf w (if (unsignedOf w x).ult (unsignedOf w y) then y else x) := by
  have hmax : Nat.max (srcNat w x) (srcNat w y) = srcNat w (if srcNat w x < srcNat w y then y else x) := by
    rw [apply_ite (srcNat w)]
    exact Nat.max_def.trans (by split <;> split <;> omega)
  rw [hmax, resInt_srcNat]
  simp only [srcNat_lt_iff]

/-! ### The high half of a product (R126) -/

/-- The high half of a number taken modulo 2^128 is the number divided by 2^64. -/
theorem extract_high_ofInt (i : Int) : (BitVec.ofInt 128 i).extractLsb' 64 64 = BitVec.ofInt 64 (i / 2 ^ 64) := by
  refine BitVec.eq_of_toNat_eq ?_
  rw [BitVec.extractLsb'_toNat, BitVec.toNat_ofInt, BitVec.toNat_ofInt, Nat.shiftRight_eq_div_pow]
  omega

theorem mulHigh_eq (x y : Word) : mulHigh x y = (x.signExtend 128 * y.signExtend 128).extractLsb' 64 64 := by
  have h : x.signExtend 128 * y.signExtend 128 = BitVec.ofInt 128 (x.toInt * y.toInt) := (BitVec.ofInt_mul ..).symm
  rw [h, extract_high_ofInt]
  rfl

theorem mulHighU_eq (x y : Word) : mulHighU x y = (x.setWidth 128 * y.setWidth 128).extractLsb' 64 64 := by
  have h : x.setWidth 128 * y.setWidth 128 = BitVec.ofInt 128 (x.toNat * y.toNat : Nat) := by
    rw [BitVec.ofInt_natCast, BitVec.ofNat_mul, BitVec.ofNat_toNat, BitVec.ofNat_toNat]
  rw [h, extract_high_ofInt]
  exact (BitVec.ofInt_natCast ..).symm

/-! ### LEA (R128) -/

/-- A shift to the left multiplies by a power of two. -/
theorem shiftLeft_eq_mul (y : Word) (n : Nat) : y <<< n = y * BitVec.ofNat 64 (2 ^ n) := by
  rw [BitVec.shiftLeft_eq_mul_twoPow]
  exact congrArg (y * ·) (BitVec.eq_of_toNat_eq (by simp [BitVec.toNat_twoPow]))

/-- LEA's address needs no access: it is a sum of registers (R128). -/
theorem writes_lea {s : State} {c : BitVec 2} {b a d : BitVec 5} (h : Ready (.lea c b a d) s) : Writes (.lea c b a d) s fun sl =>
    sl.wg d.toNat (s.me.rg a.toNat + s.me.rg b.toNat * BitVec.ofNat 64 (2 ^ c.toNat)) :=
  writes_wg_of_setG rfl (congrArg (s.me.rg a.toNat + ·) (shiftLeft_eq_mul ..)) h

/-- Settles O11: each instruction writes the word that its exact result wraps to. -/
theorem arithmeticResults : Obligations.ArithmeticResults := by
  unfold Obligations.ArithmeticResults
  intro s w c b a d x y w1
  refine ⟨?add, ?sub, ?mul, ?mulh, ?mulhu, ?min, ?max, ?minu, ?maxu, ?lea⟩
  case add => exact writes_wg_of_setG rfl (resInt_srcInt_add w x y)
  case sub => exact writes_wg_of_setG rfl (resInt_srcInt_sub w x y)
  case mul => exact writes_wg_of_setG rfl (resInt_srcInt_mul w x y)
  case mulh => exact writes_wg_of_setG rfl (mulHigh_eq x y)
  case mulhu => exact writes_wg_of_setG rfl (mulHighU_eq x y)
  case min => exact writes_wg_of_setG rfl ((resInt_ite_srcInt ..).trans (by simp only [srcInt_lt_iff]; rfl))
  case max => exact writes_wg_of_setG rfl ((resInt_ite_srcInt ..).trans (by simp only [srcInt_lt_iff]; rfl))
  case minu => exact writes_wg_of_setG rfl (resInt_min_srcNat w x y)
  case maxu => exact writes_wg_of_setG rfl (resInt_max_srcNat w x y)
  case lea => exact writes_lea

end Sys2Proof.Machine
end

section
/-! Division (R123, R127): the quotient and the remainder as words, what DIV, DIVU, REM and REMU do when ready, and how a result that is
written at its cycle lands (R119). -/

namespace Sys2Proof.Machine

/-! ### Quotients and remainders (R125) -/

/-- The quotient rounded toward zero, where it wraps too. -/
theorem sdiv_eq_ofInt (x y : Word) : x.sdiv y = BitVec.ofInt 64 (x.toInt.tdiv y.toInt) :=
  BitVec.eq_of_toInt_eq (by rw [BitVec.toInt_sdiv, BitVec.toInt_ofInt])

theorem divS_eq (w : Bool) (x y : Word) : divS w x y = signedOf w ((signedOf w x).sdiv (signedOf w y)) := by
  rw [divS, resInt_eq, srcInt_eq, srcInt_eq, sdiv_eq_ofInt]

theorem remS_eq (w : Bool) (x y : Word) : remS w x y = signedOf w ((signedOf w x).srem (signedOf w y)) := by
  rw [remS, srcInt_eq, srcInt_eq, ← BitVec.toInt_srem, resInt_toInt]

theorem divU_eq (w : Bool) (x y : Word) : divU w x y = signedOf w ((unsignedOf w x).udiv (unsignedOf w y)) := by
  rw [divU, srcNat_eq, srcNat_eq, ← BitVec.toNat_udiv, resInt_toNat]
  rfl

theorem remU_eq (w : Bool) (x y : Word) : remU w x y = signedOf w ((unsignedOf w x).umod (unsignedOf w y)) := by
  rw [remU, srcNat_eq, srcNat_eq, ← BitVec.toNat_umod, resInt_toNat]
  rfl

theorem srcNat_eq_zero_iff (w : Bool) (x : Word) : srcNat w x = 0 ↔ unsignedOf w x = 0#64 := by
  rw [srcNat_eq, BitVec.toNat_eq, BitVec.toNat_ofNat, Nat.zero_mod]

/-! ### The instructions -/

/-- A ready division traps on a zero divisor, and otherwise owes its value (R123, R127). -/
theorem divide_clauses {i : Instr} {s : State} {w : Bool} {b a d : BitVec 5} {f : Word → Word → Word} {v : Word}
    (he : exec i s = issue i (divide w b a d f) s) (hv : f (s.me.rg a.toNat) (s.me.rg b.toNat) = v) (h : Ready i s) :
    (unsignedOf w (s.me.rg b.toNat) = 0#64 → Traps i s 0x10 0#64) ∧
    (unsignedOf w (s.me.rg b.toNat) ≠ 0#64 → OwesAfter i s false (if w then 24 else 40) d v 0#6) := by
  subst hv
  refine ⟨fun hz => traps_of_trap he ?_ h, fun hz => completes_of_next he ?_ h⟩
  · exact if_pos ((srcNat_eq_zero_iff ..).2 hz)
  · exact if_neg fun hn => hz ((srcNat_eq_zero_iff ..).1 hn)

/-! ### The landing of a timed result -/

section Landing

/-- A register put in place changes its register file alone. -/
theorem Slot.put_eq (sl : Slot) (r : RegVal) :
    sl.put r = { sl with g := (sl.put r).g, v := (sl.put r).v, p := (sl.put r).p } := by
  cases r with
  | g n x =>
    rw [show sl.put (.g n x) = if n = 0 then sl else { sl with g := vset sl.g n x } from rfl]
    split <;> rfl
  | v n x => rfl
  | p n x =>
    rw [show sl.put (.p n x) = if n = 0 then sl else { sl with p := vset sl.p n x } from rfl]
    split <;> rfl

theorem Slot.replay_put (sl : Slot) (r : RegVal) : (sl.put r).replay = sl.replay := by rw [Slot.put_eq]

theorem Slot.sys_wr (sl : Slot) (r : RegVal) : (sl.wr r).sys = sl.sys := by
  rw [Slot.wr, Slot.put_eq]
  rfl

theorem Slot.pend_wr_nil {sl : Slot} (r : RegVal) (hp : sl.pend = []) : (sl.wr r).pend = [] := by
  rw [Slot.wr, Slot.put_eq]
  simp [Slot.claimReg, hp]

theorem Slot.tellReplay_none {sl : Slot} (id : Nat) (r : RegVal) (hr : sl.replay = none) : sl.tellReplay id r = sl := by
  cases sl
  subst hr
  rfl

/-- A register put in place is written as by an instruction where no result is outstanding and no replay runs. -/
theorem Slot.put_eq_wr {sl : Slot} (r : RegVal) (hp : sl.pend = []) (hr : sl.replay = none) : sl.put r = sl.wr r := by
  have h : sl.claimReg r.id = sl := by
    cases sl
    subst hp hr
    rfl
  rw [Slot.wr, h]

/-- The one outstanding result of a slot returns with the register that it still owes: the register is written, and nothing is
outstanding (R119). -/
theorem Slot.deliver_only {sl : Slot} {a : Nat} {r : RegVal} {kind : PendKind} (hp : sl.pend = [⟨a, [r.id], kind⟩])
    (hr : sl.replay = none) : sl.deliver a [r] = { sl with pend := [] }.wr r := by
  have hfind : sl.findPend a = some ⟨a, [r.id], kind⟩ := by simp [Slot.findPend, hp]
  have hrest : sl.pend.filter (·.id != a) = [] := by simp [hp]
  have howed : [r.id].contains r.id = true := by simp
  simp only [Slot.deliver, hfind, hrest, List.foldl_cons, List.foldl_nil, howed, if_true]
  have hreplay : ({ sl with pend := [] }.put r).replay = none := (Slot.replay_put ..).trans hr
  have hput : { sl with pend := [] }.put r = { sl with pend := [] }.wr r := Slot.put_eq_wr r rfl hr
  exact (Slot.tellReplay_none a r hreplay).trans hput

variable {s : State} {d : Nat} {v due : Word} {flags : BitVec 6} {fp : Bool}

/-- The event of a timed result, by the cycle of the core (R123, R161). -/
theorem returnValue_timed (hr : (s.slot s.arg.k).replay = none)
    (hp : (s.slot s.arg.k).pend = [⟨s.arg.a, [⟨0, d⟩], .timed [.g d v] flags due fp⟩]) : returnValue s =
      if reached (s.core (coreOf s.arg.k)).cyc due then
        s.onSlot s.arg.k fun sl => { sl.raise flags with pend := [] }.wr (.g d v)
      else s := by
  have hfind : (s.slot s.arg.k).findPend s.arg.a = some ⟨s.arg.a, [⟨0, d⟩], .timed [.g d v] flags due fp⟩ := by
    simp [Slot.findPend, hp]
  have hdeliver : ((s.slot s.arg.k).raise flags).deliver s.arg.a [.g d v] =
      { (s.slot s.arg.k).raise flags with pend := [] }.wr (.g d v) := Slot.deliver_only hp hr
  simp only [returnValue, hfind]
  refine ite_congr rfl (fun _ => congrArg (s.setSlot s.arg.k) hdeliver) fun _ => rfl

/-- What a slot holds after its timed result has landed. -/
theorem landed_kept (sl : Slot) (hd : d < 32) :
    let sl' := { sl.raise flags with pend := [] }.wr (.g d v)
    sl'.rg d = (if d = 0 then 0#64 else v) ∧ sl'.pend = [] ∧
      sl'.sys = { sl.sys with st := sl.sys.st ||| flags.setWidth 64 } ∧ RegsKept (fun x => x = ⟨0, d⟩) sl sl' := by
  have hbase : RegsKept (fun x => x = ⟨0, d⟩) sl { sl.raise flags with pend := [] } := .of_files rfl rfl rfl rfl rfl
  exact ⟨Slot.rg_wr v hd, Slot.pend_wr_nil _ rfl, Slot.sys_wr .., hbase.trans (Slot.wr_kept _ (.g d v)).1⟩

end Landing

/-- Settles O12: the four divisions by one lemma, and the landing of what they owe. -/
theorem dividesAndOwedResults : Obligations.DividesAndOwedResults := by
  unfold Obligations.DividesAndOwedResults
  have hexec : ∀ (s : State) (i : Instr), i = .divideResult ∨ i = .fdivFsqrtResult → exec i s = .next (returnValue s) := by
    rintro s i (rfl | rfl) <;> rfl
  refine ⟨fun s w b a d => ⟨?div, ?rem, ?divu, ?remu⟩, fun s i hi => ⟨_, hexec s i hi⟩,
    fun s i d v due flags fp hi hd hr hp => ⟨fun hb => ?before, fun hl => ?lands⟩⟩
  case div => exact divide_clauses rfl (divS_eq ..)
  case rem => exact divide_clauses rfl (remS_eq ..)
  case divu => exact divide_clauses rfl (divU_eq ..)
  case remu => exact divide_clauses rfl (remU_eq ..)
  case before => rw [hexec s i hi, returnValue_timed hr hp, hb, if_neg Bool.false_ne_true]
  case lands =>
    obtain ⟨hrg, hpend, hsys, hkept⟩ := landed_kept (v := v) (flags := flags) (s.slot s.arg.k) hd
    rw [hexec s i hi, returnValue_timed hr hp, hl, if_pos rfl]
    refine ⟨_, rfl, ?_, ?_, ?_, ?_, rfl, fun j hj => State.slot_onSlot_ne s _ hj⟩ <;> rw [State.slot_onSlot_self]
    exacts [hrg, hpend, hsys, hkept]

end Sys2Proof.Machine
end

section
/-! Logic, shifts, counts, bytes and fields (R129 to R134): the values as operations on words and by their bits. -/

namespace Sys2Proof.Machine

/-! ### Shifts (R129, R131) -/

theorem shiftAmount_eq (w : Bool) (y : Word) : shiftAmount w y = y.toNat % bitsOf w := by cases w <;> rfl

section Shifts
variable (w : Bool) (x : Word) (n : Nat)

theorem shiftVal64_sll : shiftVal64 .sll w x n = if w then ((x.setWidth 32) <<< n).signExtend 64 else x <<< n := rfl

theorem shiftVal64_srl : shiftVal64 .srl w x n = if w then ((x.setWidth 32) >>> n).signExtend 64 else x >>> n := rfl

theorem shiftVal64_sra : shiftVal64 .sra w x n =
    if w then ((x.setWidth 32).sshiftRight n).signExtend 64 else x.sshiftRight n := rfl

theorem shiftVal64_rot : shiftVal64 .rot w x n =
    if w then ((x.setWidth 32).rotateRight n).signExtend 64 else x.rotateRight n := rfl

end Shifts

/-- Settles O13: the logical operations are those of words, and each kind of shift is one function of its amount. -/
theorem logicAndShiftResults : Obligations.LogicAndShiftResults := by
  unfold Obligations.LogicAndShiftResults
  intro s w b a d imm n x y k w1 sll srl sra rot
  have amount : ∀ kind, shiftVal64 kind w x (shiftAmount w y) = shiftVal64 kind w x k := fun kind => by rw [shiftAmount_eq]
  refine ⟨?and, ?or, ?xor, ?andn, ?orn, ?sll, ?srl, ?sra, ?rot, ?addi, ?andi, ?ori, ?xori, fun _ => ⟨?slli, ?srli, ?srai, ?roti⟩⟩
  case and | or | xor | andn | orn | addi | andi | ori | xori => exact writes_wg_of_setG rfl rfl
  case sll => exact writes_wg_of_setG rfl ((amount .sll).trans (shiftVal64_sll ..))
  case srl => exact writes_wg_of_setG rfl ((amount .srl).trans (shiftVal64_srl ..))
  case sra => exact writes_wg_of_setG rfl ((amount .sra).trans (shiftVal64_sra ..))
  case rot => exact writes_wg_of_setG rfl ((amount .rot).trans (shiftVal64_rot ..))
  case slli => exact writes_wg_of_setG rfl (shiftVal64_sll ..)
  case srli => exact writes_wg_of_setG rfl (shiftVal64_srl ..)
  case srai => exact writes_wg_of_setG rfl (shiftVal64_sra ..)
  case roti => exact writes_wg_of_setG rfl (shiftVal64_rot ..)

/-! ### Counts of bits (R129) -/

/-- The bits of an unsigned source are those below its width. -/
theorem testBit_srcNat (w : Bool) (x : Word) {j : Nat} (hj : j < bitsOf w) : (srcNat w x).testBit j = x.getLsbD j := by
  cases w with
  | false => rfl
  | true =>
    have hlt : j < 32 := hj
    have h : (x.setWidth 32).getLsbD j = x.getLsbD j := by rw [BitVec.getLsbD_setWidth, decide_eq_true hlt, Bool.true_and]
    exact h

theorem srcNat_lt (w : Bool) (x : Word) : srcNat w x < 2 ^ bitsOf w := by
  cases w with
  | false => exact x.isLt
  | true => exact (x.extractLsb' 0 32).isLt

/-- The leading zeros of a number of w bits stand above its highest one. -/
theorem clzNat_spec {w n : Nat} (h : n < 2 ^ w) : clzNat w n ≤ w ∧ (∀ j, w - clzNat w n ≤ j → n.testBit j = false) ∧
    (clzNat w n < w → n.testBit (w - 1 - clzNat w n) = true) := by
  by_cases hn : n = 0
  · subst hn
    simp [clzNat]
  · have hlt : n.log2 < w := (Nat.log2_lt hn).2 h
    have hc : clzNat w n = w - 1 - n.log2 := if_neg hn
    refine ⟨by omega, fun j hj => ?_, fun _ => ?_⟩
    · exact Nat.testBit_lt_two_pow (Nat.lt_of_lt_of_le Nat.lt_log2_self (Nat.pow_le_pow_right (by decide) (by omega)))
    · rw [show w - 1 - clzNat w n = n.log2 by omega]
      exact Nat.testBit_log2 hn

/-- The trailing zeros of a number stand below its lowest one. -/
theorem ctzNat_spec (w n : Nat) : ctzNat w n ≤ w ∧ (∀ j, j < ctzNat w n → n.testBit j = false) ∧
    (ctzNat w n < w → n.testBit (ctzNat w n) = true) := by
  induction w generalizing n with
  | zero => exact ⟨Nat.le_refl 0, fun _ h => absurd h (Nat.not_lt_zero _), fun h => absurd h (Nat.lt_irrefl 0)⟩
  | succ w ih =>
    by_cases hn : n % 2 = 1
    · have hc : ctzNat (w + 1) n = 0 := if_pos hn
      rw [hc]
      exact ⟨Nat.zero_le _, fun _ h => absurd h (Nat.not_lt_zero _), fun _ => by simp [Nat.testBit_zero, hn]⟩
    · have hc : ctzNat (w + 1) n = ctzNat w (n / 2) + 1 := (if_neg hn).trans (Nat.add_comm ..)
      obtain ⟨hle, hzeros, hone⟩ := ih (n / 2)
      rw [hc]
      refine ⟨by omega, fun j hj => ?_, fun h => ?_⟩
      · cases j with
        | zero => simp [Nat.testBit_zero, hn]
        | succ j => exact (Nat.testBit_succ n j).trans (hzeros j (by omega))
      · exact (Nat.testBit_succ ..).trans (hone (by omega))

/-- The count of ones is the number of positions that hold one. -/
theorem popcNat_eq (w n : Nat) : popcNat w n = ((List.range w).filter n.testBit).length := by
  induction w generalizing n with
  | zero => rfl
  | succ w ih =>
    have hrest : ((List.range w).map Nat.succ).filter n.testBit = ((List.range w).filter (n / 2).testBit).map Nat.succ := by
      rw [List.filter_map]
      exact congrArg (List.map Nat.succ) (List.filter_congr fun j _ => Nat.testBit_succ n j)
    rw [popcNat, ih, List.range_succ_eq_map, List.filter_cons, hrest, Nat.testBit_zero]
    rcases Nat.mod_two_eq_zero_or_one n with h | h <;> simp [h, Nat.add_comm]

/-! ### Bytes and fields (R129, R132) -/

/-- A byte of the number that bytes hold. -/
theorem ofBytesLE_byte (l : List (BitVec 8)) (j : Nat) :
    BitVec.ofNat 8 (ofBytesLE l / 256 ^ j) = (l[j]?).getD 0#8 := by
  induction l generalizing j with
  | nil => simp [ofBytesLE]
  | cons b l ih =>
    have hb := b.isLt
    cases j with
    | zero =>
      have h : ofBytesLE (b :: l) / 256 ^ 0 % 256 = b.toNat := by
        rw [ofBytesLE]
        omega
      exact BitVec.eq_of_toNat_eq h
    | succ j =>
      have h : ofBytesLE (b :: l) / 256 = ofBytesLE l := by
        rw [ofBytesLE]
        omega
      rw [Nat.pow_succ', ← Nat.div_div_eq_div_mul, h, ih, List.getElem?_cons_succ]

/-- A byte of a word. -/
theorem extract_byte (x : Word) (j : Nat) : x.extractLsb' (8 * j) 8 = BitVec.ofNat 8 (x.toNat / 256 ^ j) := by
  rw [BitVec.extractLsb', Nat.shiftRight_eq_div_pow, Nat.pow_mul]

theorem extract_byte_ofNat (n : Nat) {j : Nat} (hj : j < 8) :
    (BitVec.ofNat 64 n).extractLsb' (8 * j) 8 = BitVec.ofNat 8 (n / 256 ^ j) := by
  refine BitVec.eq_of_getLsbD_eq fun i hi => ?_
  have hin : 8 * j + i < 64 := by omega
  simp only [BitVec.getLsbD_extractLsb', BitVec.getLsbD_ofNat, show 256 = 2 ^ 8 from rfl, ← Nat.pow_mul, Nat.testBit_div_two_pow,
    Nat.add_comm i, hi, hin, decide_true, Bool.true_and]

/-- BSWAP puts byte i at place 7 - i (R129). -/
theorem extract_bswapVal (x : Word) {i : Nat} (hi : i < 8) :
    (bswapVal x).extractLsb' (8 * (7 - i)) 8 = x.extractLsb' (8 * i) 8 := by
  have hlen := length_bytesLE 8 x.toNat
  rw [bswapVal, extract_byte_ofNat _ (by omega), ofBytesLE_byte, List.getElem?_reverse (by omega), hlen,
    show 8 - 1 - (7 - i) = i by omega, getElem?_bytesLE _ hi, extract_byte]
  rfl

section Fields
variable (l n : BitVec 6) (x : Word)

/-- The field of BFX and BFXU as a slice of the word. -/
theorem bfxNat_eq : bfxNat l n x = (x.extractLsb' l.toNat (n.toNat + 1)).toNat := (BitVec.extractLsb'_toNat ..).symm

/-- A field read with its sign. -/
theorem signed_toNat {k : Nat} (v : BitVec (k + 1)) : signed (k + 1) v.toNat = v.toInt := by
  rw [signed, BitVec.toInt_eq_toNat_cond, Nat.add_sub_cancel, Nat.pow_succ]
  push_cast
  split <;> split <;> omega

theorem bfxVal_eq : bfxVal l n x = (x.extractLsb' l.toNat (n.toNat + 1)).signExtend 64 := by
  rw [bfxVal, bfxNat_eq, signed_toNat]
  rfl

theorem bfxuVal_eq : bfxuVal l n x = (x.extractLsb' l.toNat (n.toNat + 1)).setWidth 64 := by
  rw [bfxuVal, bfxNat_eq, BitVec.ofNat_toNat]

/-- BFI replaces the bits from l on, and leaves the others (R132). -/
theorem getLsbD_bfiVal (old : Word) {j : Nat} (hj : j < 64) : (bfiVal l n x old).getLsbD j =
    if l.toNat ≤ j ∧ j ≤ l.toNat + n.toNat then x.getLsbD (j - l.toNat) else old.getLsbD j := by
  rw [bfiVal, getLsbD_setSlice, decide_eq_true hj, Bool.true_and]
  rfl

end Fields

/-- A ready instruction whose effect is on one general register writes a value of which a property holds. -/
theorem writes_wg_such {i : Instr} {s : State} {d : BitVec 5} {f : Slot → Word} {P : Word → Prop}
    (he : exec i s = issue i (setG d f) s) (hP : P (f s.me)) (h : Ready i s) :
    ∃ v, P v ∧ Writes i s fun sl => sl.wg d.toNat v :=
  ⟨_, hP, writes_wg_of_setG he rfl h⟩

/-- Settles O14: each value by the lemma on its bits or fields. -/
theorem countsBytesAndFields : Obligations.CountsBytesAndFields := by
  unfold Obligations.CountsBytesAndFields
  intro s w a d l n imm x old hi ws
  refine ⟨?clz, ?ctz, ?popc, ?bswap, ?sext8, ?sext16, ?sext32, ?zext8, ?zext16, ?zext32, fun _ => ⟨?bfx, ?bfxu, ?bfi⟩, ?lui, ?auipc⟩
  case clz =>
    obtain ⟨hle, hzeros, hone⟩ := clzNat_spec (srcNat_lt w x)
    refine writes_wg_such rfl ⟨_, rfl, hle, fun j hj hjw => ?_, fun h => ?_⟩
    · exact (testBit_srcNat w x hjw).symm.trans (hzeros j hj)
    · exact (testBit_srcNat w x (by omega)).symm.trans (hone h)
  case ctz =>
    obtain ⟨hle, hzeros, hone⟩ := ctzNat_spec (bitsOf w) (srcNat w x)
    refine writes_wg_such rfl ⟨_, rfl, hle, fun j hj => ?_, fun h => ?_⟩
    · exact (testBit_srcNat w x (Nat.lt_of_lt_of_le hj hle)).symm.trans (hzeros j hj)
    · exact (testBit_srcNat w x h).symm.trans (hone h)
  case popc =>
    refine writes_wg_such rfl (congrArg (BitVec.ofNat 64) ((popcNat_eq ..).trans (congrArg List.length ?_)))
    exact List.filter_congr fun j hj => testBit_srcNat w x (List.mem_range.1 hj)
  case bswap => exact writes_wg_such rfl fun i hi => extract_bswapVal x hi
  case sext8 | sext16 | sext32 | zext8 | zext16 | zext32 => exact writes_wg_such rfl rfl
  case bfx => exact writes_wg_such rfl (bfxVal_eq l n x)
  case bfxu => exact writes_wg_such rfl (bfxuVal_eq l n x)
  case bfi => exact writes_wg_such rfl fun j hj => getLsbD_bfiVal l n x old hj
  case lui | auipc => exact writes_wg_such rfl rfl

end Sys2Proof.Machine
end

section
/-! Comparisons, predicates, SEL and MIX (R135 to R139), and the words of LEA and AUIPC (R128, R134). -/

namespace Sys2Proof.Machine

/-- A ready instruction whose effect is on the slot's own registers completes with it. -/
theorem writes_of_onRegs {i : Instr} {s : State} {f g : Slot → Slot} (he : exec i s = issue i (onRegs f) s) (hf : f s.me = g s.me)
    (h : Ready i s) : Writes i s g :=
  completes_of_next he (congrArg (fun t => (t, Ending.next)) (State.onMe_congr hf)) h

section Compare
variable (w : Bool) (x y : Word)

theorem srcNat_eq_iff : srcNat w x = srcNat w y ↔ unsignedOf w x = unsignedOf w y := by
  rw [srcNat_eq, srcNat_eq, BitVec.toNat_inj]

theorem srcInt_le_iff : srcInt w x ≤ srcInt w y ↔ (signedOf w x).sle (signedOf w y) = true := by
  rw [srcInt_eq, srcInt_eq, BitVec.sle_eq_decide, decide_eq_true_iff]

theorem srcNat_le_iff : srcNat w x ≤ srcNat w y ↔ (unsignedOf w x).ule (unsignedOf w y) = true := by
  rw [srcNat_eq, srcNat_eq, BitVec.ule_eq_decide, decide_eq_true_iff]

/-- The outcome of a condition, as a test on the words that R121 names (R54, R135). -/
def condHolds (c : Cond) (w : Bool) (x y : Word) : Bool :=
  match c with
  | .eq => unsignedOf w x == unsignedOf w y
  | .ne => unsignedOf w x != unsignedOf w y
  | .lt => (signedOf w x).slt (signedOf w y)
  | .le => (signedOf w x).sle (signedOf w y)
  | .gt => (signedOf w y).slt (signedOf w x)
  | .ge => (signedOf w y).sle (signedOf w x)
  | .ltu => (unsignedOf w x).ult (unsignedOf w y)
  | .leu => (unsignedOf w x).ule (unsignedOf w y)
  | .gtu => (unsignedOf w y).ult (unsignedOf w x)
  | .geu => (unsignedOf w y).ule (unsignedOf w x)
  | .un => false

theorem intCompare_eq (c : Cond) : intCompare c w x y = condHolds c w x y := by
  cases c with
  | eq | ne => simp only [intCompare, condHolds, bne, Bool.beq_eq_decide_eq, srcNat_eq_iff]
  | lt | gt => simp only [intCompare, condHolds, srcInt_lt_iff, Bool.decide_eq_true]
  | le | ge => simp only [intCompare, condHolds, srcInt_le_iff, Bool.decide_eq_true]
  | ltu | gtu => simp only [intCompare, condHolds, srcNat_lt_iff, Bool.decide_eq_true]
  | leu | geu => simp only [intCompare, condHolds, srcNat_le_iff, Bool.decide_eq_true]
  | un => rfl

end Compare

/-- Settles O15: the comparisons by their conditions, the others by evaluation. -/
theorem compareAndPredicateResults : Obligations.CompareAndPredicateResults := by
  unfold Obligations.CompareAndPredicateResults
  intro s w c b a d pb pa pd imm _ x y holds wp wg
  have hcompare : ∀ w x y, intCompare c w x y = holds w x y := fun w x y => (intCompare_eq w x y c).trans (by cases c <;> rfl)
  refine ⟨?pcmpP, ?pcmpG, ?pcmpi, ?pand, ?por, ?pxor, ?pnot, ?sel, ?mix⟩
  case pcmpP =>
    have hd : (pd.setWidth 5).toNat = pd.toNat := BitVec.toNat_setWidth_of_le (by decide)
    exact writes_of_onRegs rfl (by rw [hd, hcompare]; rfl)
  case pcmpG => exact writes_of_onRegs rfl (by rw [hcompare]; rfl)
  case pcmpi => exact writes_of_onRegs rfl (by rw [hcompare]; rfl)
  case pand | por | pxor | pnot => exact writes_of_onRegs rfl rfl
  case sel | mix => exact writes_wg_of_setG rfl rfl

/-! ### The words of LEA and AUIPC -/

section Words
variable (sb : Bool)

theorem encodeWord_lea_fields (c : BitVec 2) (b a d : BitVec 5) : encodeWord sb (.lea c b a d) =
    0#1 ++ (0x10#8 + c.setWidth 8) ++ b ++ a ++ d ++ 0x01#6 ++ BitVec.ofBool sb ++ 1#1 := by
  have hc : 16#9 + c.setWidth 9 = 0#1 ++ (0x10#8 + c.setWidth 8) := by revert c; decide
  rw [encodeWord_lea, hc, cat_assoc _ b _ rfl rfl rfl rfl, cat_assoc _ a _ rfl rfl rfl rfl, cat_assoc _ d _ rfl rfl rfl rfl,
    cat_assoc _ 1#6 _ rfl rfl rfl rfl, cat_assoc _ (BitVec.ofBool sb) _ rfl rfl rfl rfl]
  rfl

theorem encodeWord_auipc_fields (imm : BitVec 19) (d : BitVec 5) : encodeWord sb (.auipc imm d) =
    imm ++ d ++ 0x09#6 ++ BitVec.ofBool sb ++ 1#1 := by
  rw [encodeWord, cat_assoc _ d _ rfl rfl rfl rfl, cat_assoc _ 9#6 _ rfl rfl rfl rfl,
    cat_assoc _ (BitVec.ofBool sb) _ rfl rfl rfl rfl]
  rfl

end Words

/-- Settles O17: the words by their fields, the effects as those of every ready instruction that writes one general register. -/
theorem leaAndAuipcFormAddresses : Obligations.LeaAndAuipcFormAddresses := by
  unfold Obligations.LeaAndAuipcFormAddresses
  exact fun s c b a d imm sb => ⟨encodeWord_lea_fields sb c b a d, encodeWord_auipc_fields sb imm d, writes_lea,
    writes_wg_of_setG rfl rfl⟩

end Sys2Proof.Machine
end

section
/-! Branches, jumps and hardware loops (R143 to R151): what a control transfer and the end of a body do to each loop, and what LOOP and
LOOPI set. -/

namespace Sys2Proof.Machine

/-! ### The count of a loop -/

theorem Loop.count_eq (l : Loop) : l.count = (l.lc.setWidth 32).toNat := by
  rw [Loop.count, slice, BitVec.toNat_setWidth]
  rfl

theorem Loop.count_eq_iff (l : Loop) (n : BitVec 32) : l.count = n.toNat ↔ l.lc.setWidth 32 = n := by
  rw [Loop.count_eq, BitVec.toNat_inj]

/-- The low half of a word replaced, as a number. -/
theorem toNat_setSlice_low (x : Word) (v : Nat) : (setSlice x 31 0 v).toNat = 2 ^ 32 * (x.toNat / 2 ^ 32) + v % 2 ^ 32 := by
  refine Nat.eq_of_testBit_eq fun i => ?_
  have hbit : (setSlice x 31 0 v).toNat.testBit i = (setSlice x 31 0 v).getLsbD i := rfl
  rw [hbit, getLsbD_setSlice, Nat.testBit_two_pow_mul_add _ (Nat.mod_lt _ (by decide)), Nat.testBit_mod_two_pow]
  by_cases hi : i < 32
  · simp [hi, show i ≤ 31 by omega, show i < 64 by omega]
  · rw [if_neg (by omega), if_neg hi, Nat.testBit_div_two_pow, Nat.sub_add_cancel (by omega)]
    rfl

/-- A loop with COUNT 0: the upper half of `lc` stays (R147). -/
def Loop.ended (l : Loop) : Loop := { l with lc := l.lc &&& 0xffffffff00000000#64 }

theorem Loop.withCount_zero (l : Loop) : l.withCount 0 = l.ended := by
  have hmask : ∀ i < 64, (0xffffffff00000000#64).getLsbD i = decide (31 < i) := by decide
  refine congrArg (fun x => { l with lc := x }) (BitVec.eq_of_getLsbD_eq fun i hi => ?_)
  rw [getLsbD_setSlice, BitVec.getLsbD_and, hmask i hi]
  by_cases h : i ≤ 31
  · simp [h]
  · simp [h, show 31 < i by omega]

theorem Loop.withCount_pred {l : Loop} (h : 0 < l.count) : l.withCount (l.count - 1) = { l with lc := l.lc - 1 } := by
  refine congrArg (fun x => { l with lc := x }) (BitVec.eq_of_toNat_eq ?_)
  rw [Loop.count_eq, BitVec.toNat_setWidth] at h
  have hle : (1 : Word).toNat ≤ l.lc.toNat := Nat.le_trans h (Nat.mod_le ..)
  rw [toNat_setSlice_low, BitVec.toNat_sub_of_le (BitVec.le_def.2 hle), Loop.count_eq, BitVec.toNat_setWidth]
  have hone : (1 : Word).toNat = 1 := rfl
  omega

/-! ### Which loops govern (R148) -/

theorem governs_iff (sl : Slot) (k : Bool) :
    governs sl k = true ↔ (sl.loop k).lc.setWidth 32 ≠ 0#32 ∧ (sl.loop k).lc.getLsbD 63 = sl.th := by
  rw [governs, Bool.and_eq_true, bne_iff_ne, beq_iff_eq]
  exact and_congr_left' (not_congr (Loop.count_eq_iff _ 0#32))

theorem Slot.setLoop_loop (sl : Slot) (k : Bool) : sl.setLoop k (sl.loop k) = sl := by cases k <;> rfl

/-! ### A control transfer (R151) -/

/-- What a control transfer to t makes of a loop in a slot with this TH. -/
def Loop.leave (th : Bool) (t : Word) (l : Loop) : Loop :=
  if l.lc.setWidth 32 ≠ 0#32 ∧ l.lc.getLsbD 63 = th ∧ (t.ult l.ls = true ∨ l.le.ult t = true) then l.ended else l

theorem branchOut1_eq (t : Word) (k : Bool) (sl : Slot) :
    branchOut1 t k sl = sl.setLoop k ((sl.loop k).leave sl.th t) := by
  have hc : (governs sl k && (decide (t.toNat < (sl.loop k).ls.toNat) || decide ((sl.loop k).le.toNat < t.toNat))) = true ↔
      (sl.loop k).lc.setWidth 32 ≠ 0#32 ∧ (sl.loop k).lc.getLsbD 63 = sl.th ∧
        (t.ult (sl.loop k).ls = true ∨ (sl.loop k).le.ult t = true) := by
    rw [Bool.and_eq_true, governs_iff, Bool.or_eq_true, and_assoc]
    rfl
  refine (if_congr hc (congrArg (sl.setLoop k) (Loop.withCount_zero _)) (Slot.setLoop_loop sl k).symm).trans ?_
  exact (apply_ite (sl.setLoop k) ..).symm

theorem branchOut_loop (sl : Slot) (t : Word) (k : Bool) : (branchOut sl t).loop k = (sl.loop k).leave sl.th t := by
  simp only [branchOut, branchOut1_eq]
  cases k <;> rfl

theorem EndKept.branchOut1 (t : Word) (k : Bool) (x : Slot) : EndKept x (branchOut1 t k x) := by
  unfold Machine.branchOut1
  dsimp only
  split
  · exact .withCount x k 0
  · exact .refl x

theorem EndKept.branchOut (x : Slot) (t : Word) : EndKept x (branchOut x t) :=
  ((EndKept.branchOut1 t true x).trans (.branchOut1 t false _)).trans (.withPc ..)

/-! ### Branches and jumps (R143 to R146) -/

section Jumps
variable {i : Instr} {s t : State} {x : Word}

theorem jumpsTo_of_jump {body : Body} (he : exec i s = issue i body s) (hb : body s = (t, .jump x)) (h : Ready i s) :
    JumpsTo i s t x := by
  rw [JumpsTo, he, issue_ready h, hb, conclude_jump]

/-- A ready branch goes to its target if its condition holds, and on if not. -/
theorem branch_clauses {n : Nat} {p : Slot → Bool} {o : BitVec n} {taken : Bool} (he : exec i s = issue i (branchIf p o) s)
    (hp : p s.me = taken) (hx : s.me.pc + 2 * sext64 o = x) (h : Ready i s) :
    (taken = true → JumpsTo i s s x) ∧ (taken = false → Completes i s s) := by
  subst hp hx
  refine ⟨fun ht => jumpsTo_of_jump he ?_ h, fun ht => completes_of_next he ?_ h⟩ <;> rw [branchIf, ht] <;> rfl

/-- A ready jump that has no condition goes to its target. -/
theorem jump_clauses (he : exec i s = issue i (fun s => (s, .jump x)) s) (h : Ready i s) :
    (true = true → JumpsTo i s s x) ∧ (true = false → Completes i s s) :=
  ⟨fun _ => jumpsTo_of_jump he rfl h, nofun⟩

/-- A ready jump through a register: an even target is gone to behind the link, an odd one traps (R146). -/
theorem jumpReg_clauses {imm : BitVec 14} {a : BitVec 5} {link : Slot → Slot} (he : exec i s = issue i (jumpReg imm a link) s)
    (hx : s.me.rg a.toNat + imm.signExtend 64 = x) (h : Ready i s) :
    (x.getLsbD 0 = false → JumpsTo i s (s.onMe link) x) ∧ (x.getLsbD 0 = true → Traps i s 0x08 x) := by
  subst hx
  refine ⟨fun ht => jumpsTo_of_jump he (if_neg (Bool.not_eq_true _ ▸ ht)) h, fun ht => traps_of_trap he (if_pos ht) h⟩

/-- A jump whose effect on its slot is nothing. -/
theorem jumpsTo_onMe_id (h : JumpsTo i s (s.onMe id) x) : JumpsTo i s s x := by
  rw [JumpsTo, State.onMe_onMe] at h
  exact h

end Jumps

theorem branchTaken_eq (c : BCond) (x y : Word) : branchTaken c x y = match c with
    | .eq => x == y
    | .ne => x != y
    | .lt => x.slt y
    | .ge => y.sle x
    | .ltu => x.ult y
    | .geu => y.ule x := by
  cases c <;> rfl

/-- The offset of C_BNZ is 1 to 32 parcels (R52). -/
theorem signExtend_parcels (b : BitVec 5) : (b.setWidth 7 + 1).signExtend 64 = b.setWidth 64 + 1 := by
  revert b
  decide

/-- Settles O19: the branches by one lemma, the jumps through registers by another, and each loop by what a transfer makes of it. -/
theorem branchesJumpsAndLoopExits : Obligations.BranchesJumpsAndLoopExits := by
  unfold Obligations.BranchesJumpsAndLoopExits
  refine ⟨fun s o11 o23 o10 imm b a d n j k c => ⟨?bcc, ?bp, ?cBnz, ?j, ?cB, ?jl, ?jlr, ?jr⟩, fun sl t => ?exits⟩
  case bcc => exact branch_clauses rfl (branchTaken_eq ..) rfl
  case bp => exact branch_clauses rfl rfl rfl
  case cBnz => exact branch_clauses rfl rfl (by rw [sext64, signExtend_parcels])
  case j | cB => exact jump_clauses rfl
  case jl => exact jumpsTo_of_jump (body := fun s => (s.onMe fun sl => sl.wg 1 (sl.pc + 4), .jump (s.me.pc + 2 * sext64 o23))) rfl rfl
  case jlr => exact jumpReg_clauses rfl rfl
  case jr => exact fun h => ⟨fun ht => jumpsTo_onMe_id ((jumpReg_clauses rfl rfl h).1 ht), (jumpReg_clauses rfl rfl h).2⟩
  case exits =>
    have hkept := EndKept.branchOut sl t
    refine ⟨rfl, hkept.regs _, hkept.special, branchOut_loop sl t⟩

/-! ### The end of a body (R150) -/

/-- Loop l governs a slot with this TH, and ends at a (R148). -/
abbrev Loop.EndsAt (th : Bool) (a : Word) (l : Loop) : Prop := l.lc.setWidth 32 ≠ 0#32 ∧ l.lc.getLsbD 63 = th ∧ a = l.le

/-- Loop l after the instruction at a. -/
def Loop.passed (th : Bool) (a : Word) (l : Loop) : Loop :=
  if l.EndsAt th a then if l.lc.setWidth 32 ≠ 1#32 then { l with lc := l.lc - 1 } else l.ended else l

/-- Where loop l sends its slot behind the instruction at a, if it goes on. -/
def Loop.back (th : Bool) (a : Word) (l : Loop) : Option Word :=
  if l.EndsAt th a ∧ l.lc.setWidth 32 ≠ 1#32 then some l.ls else none

section Passes
variable {th : Bool} {a : Word} {l : Loop}

theorem Loop.passed_goes (h : l.EndsAt th a) (hg : l.lc.setWidth 32 ≠ 1#32) :
    l.passed th a = { l with lc := l.lc - 1 } ∧ l.back th a = some l.ls :=
  ⟨(if_pos h).trans (if_pos hg), if_pos ⟨h, hg⟩⟩

theorem Loop.passed_ends (h : l.EndsAt th a) (hg : ¬ l.lc.setWidth 32 ≠ 1#32) :
    l.passed th a = l.ended ∧ l.back th a = none :=
  ⟨(if_pos h).trans (if_neg hg), if_neg fun hb => hg hb.2⟩

theorem Loop.passed_apart (h : ¬ l.EndsAt th a) : l.passed th a = l ∧ l.back th a = none :=
  ⟨if_neg h, if_neg fun hb => h hb.1⟩

end Passes

theorem endOfBody1_eq (sl : Slot) (a : Word) (k : Bool) :
    endOfBody1 sl a k = (sl.setLoop k ((sl.loop k).passed sl.th a), (sl.loop k).back sl.th a) := by
  have hends : (governs sl k && a == (sl.loop k).le) = true ↔ (sl.loop k).EndsAt sl.th a := by
    rw [Bool.and_eq_true, governs_iff, beq_iff_eq, and_assoc]
  have hone := (sl.loop k).count_eq_iff 1#32
  have hzero := (sl.loop k).count_eq_iff 0#32
  simp only [endOfBody1, hends]
  by_cases h : (sl.loop k).EndsAt sl.th a
  · have hpos : (sl.loop k).count ≠ 0 := fun hc => h.1 (hzero.1 hc)
    rw [if_pos h]
    by_cases hg : (sl.loop k).lc.setWidth 32 ≠ 1#32
    · have hmany : 1 < (sl.loop k).count := by
        have : (sl.loop k).count ≠ 1 := fun hc => hg (hone.1 hc)
        omega
      obtain ⟨hp, hb⟩ := Loop.passed_goes h hg
      rw [if_pos hmany, hp, hb, Loop.withCount_pred (by omega)]
    · have hlast : ¬ 1 < (sl.loop k).count := by
        have : (sl.loop k).count = 1 := hone.2 (not_not.1 hg)
        omega
      obtain ⟨hp, hb⟩ := Loop.passed_ends h hg
      rw [if_neg hlast, hp, hb, Loop.withCount_zero]
  · obtain ⟨hp, hb⟩ := Loop.passed_apart h
    rw [if_neg h, hp, hb, Slot.setLoop_loop]

/-- The end-of-body rule: loop 1 is looked at first, and loop 0 if loop 1 does not go back. -/
theorem endOfBody_eq (sl : Slot) (a next : Word) : endOfBody sl a next =
    match (sl.loop true).back sl.th a with
    | some t => { sl.setLoop true ((sl.loop true).passed sl.th a) with pc := t }
    | none => { (sl.setLoop true ((sl.loop true).passed sl.th a)).setLoop false ((sl.loop false).passed sl.th a) with
        pc := ((sl.loop false).back sl.th a).getD next } := by
  simp only [endOfBody, endOfBody1_eq]
  cases (sl.loop true).back sl.th a with
  | some t => rfl
  | none =>
    have hloop : (sl.setLoop true ((sl.loop true).passed sl.th a)).loop false = sl.loop false :=
      Slot.loop_setLoop_ne _ _ (by decide)
    have hth : (sl.setLoop true ((sl.loop true).passed sl.th a)).th = sl.th := rfl
    simp only [hloop, hth]
    cases (sl.loop false).back sl.th a <;> rfl

section Ends
variable {sl : Slot} {a : Word} (next : Word)

theorem endOfBody_goesBack {t : Word} (h : sl.sys.loop1.back sl.th a = some t) :
    (endOfBody sl a next).pc = t ∧ (endOfBody sl a next).sys.loop1 = sl.sys.loop1.passed sl.th a ∧
      (endOfBody sl a next).sys.loop0 = sl.sys.loop0 := by
  have h' : (sl.loop true).back sl.th a = some t := h
  rw [endOfBody_eq, h']
  exact ⟨rfl, rfl, rfl⟩

theorem endOfBody_goesOn (h : sl.sys.loop1.back sl.th a = none) :
    (endOfBody sl a next).pc = (sl.sys.loop0.back sl.th a).getD next ∧
      (endOfBody sl a next).sys.loop1 = sl.sys.loop1.passed sl.th a ∧
      (endOfBody sl a next).sys.loop0 = sl.sys.loop0.passed sl.th a := by
  have h' : (sl.loop true).back sl.th a = none := h
  rw [endOfBody_eq, h']
  exact ⟨rfl, rfl, rfl⟩

theorem endOfBody_goesOn_as {l : Loop} {o : Option Word} (h : sl.sys.loop1.back sl.th a = none)
    (h0 : sl.sys.loop0.passed sl.th a = l ∧ sl.sys.loop0.back sl.th a = o) :
    (endOfBody sl a next).pc = o.getD next ∧ (endOfBody sl a next).sys.loop0 = l := by
  obtain ⟨hp, hb⟩ := h0
  obtain ⟨hpc, -, hloop⟩ := endOfBody_goesOn next h
  exact ⟨hb ▸ hpc, hp ▸ hloop⟩

theorem endOfBody_loop1 : (endOfBody sl a next).sys.loop1 = sl.sys.loop1.passed sl.th a := by
  cases h : sl.sys.loop1.back sl.th a with
  | some t => exact (endOfBody_goesBack next h).2.1
  | none => exact (endOfBody_goesOn next h).2.1

end Ends

/-- A completion that does not park applies the end-of-body rule (R150). -/
theorem completeAt_unmarked {s : State} (a next : Word) (h : s.mark = false ∨ s.me.marks = false) :
    completeAt a next s = s.onMe fun sl => endOfBody sl.settle a next := by
  refine State.onMe_congr (if_neg ?_)
  have hmarks : s.me.settle.marks = s.me.marks := rfl
  rw [hmarks]
  rcases h with h | h <;> simp [h]

/-! ### LOOP and LOOPI (R149) -/

/-- A loop as LOOP sets it: n passes from ls to le, H as TH. -/
def loopSet (ls le : Word) (n : BitVec 32) (th : Bool) : Loop :=
  ⟨ls, le, n.setWidth 64 ||| if th then 0x8000000000000000#64 else 0#64⟩

theorem setBit_count (n : BitVec 32) (b : Bool) :
    setBit (BitVec.ofNat 64 n.toNat) 63 b = n.setWidth 64 ||| if b then 0x8000000000000000#64 else 0#64 := by
  have hclear : n.setWidth 64 &&& ~~~(BitVec.ofNat 64 (2 ^ 63)) = n.setWidth 64 := by
    refine BitVec.eq_of_getLsbD_eq fun i hi => ?_
    have hmask : ∀ i < 32, (~~~(BitVec.ofNat 64 (2 ^ 63))).getLsbD i = true := by decide
    rw [BitVec.getLsbD_and, BitVec.getLsbD_setWidth]
    by_cases h : i < 32
    · rw [hmask i h, Bool.and_true]
    · rw [BitVec.getLsbD_of_ge n i (by omega), Bool.and_false, Bool.false_and]
  rw [setBit_eq_masks, BitVec.ofNat_toNat, hclear]
  rfl

section LoopBody
variable {i : Instr} {s t : State} {k : Bool} {imm : BitVec 14} {count : Slot → Nat} {n : BitVec 32}

/-- What LOOP and LOOPI do when ready, by the count (R149). -/
theorem loopBody_clauses (he : exec i s = issue i (loopBody k imm count) s) (hn : count s.me = n.toNat) (h : Ready i s) :
    let ls := s.me.pc + 4
    let le := ls + 2 * imm.setWidth 64
    let set := fun (sl : Slot) => sl.setLoop k (loopSet ls le n s.me.th)
    (n ≠ 0#32 → Writes i s set) ∧
    (n = 0#32 → ∀ (x : Nat) (t : State), fetchParcel s.cur le s = .ok (x, t) →
      JumpsTo i s (t.onMe set) (le + if x % 2 = 0 then 2 else 4)) ∧
    (n = 0#32 → ∀ (c : Nat) (v : Word) (t : State), fetchParcel s.cur le s = .error (t, .trap c v) →
      exec i s = .next (raiseTrap t.cur 0x0d le s.me.pc t)) := by
  intro ls le set
  have hle : le = s.me.pc + 4 + 2 * zext64 imm := rfl
  have hset : ∀ u : State, (u.onMe (·.setLoop k ⟨ls, le, setBit (BitVec.ofNat 64 n.toNat) 63 s.me.th⟩)) = u.onMe set := fun u => by
    rw [setBit_count]
    rfl
  refine ⟨fun hne => completes_of_next he ?many h, fun hz x t hf => jumpsTo_of_jump he ?none h, fun hz c v t hf => ?traps⟩
  case many =>
    have hn0 : ¬ n.toNat = 0 := fun h0 => hne (BitVec.eq_of_toNat_eq h0)
    simp only [loopBody, hn, if_neg hn0]
    exact congrArg (·, Ending.next) (hset s)
  case none =>
    have hn0 : n.toNat = 0 := congrArg BitVec.toNat hz
    simp only [loopBody, hn, if_pos hn0, ← hle, hf]
    exact congrArg (·, Ending.jump _) (hset t)
  case traps =>
    have hn0 : n.toNat = 0 := congrArg BitVec.toNat hz
    have hb : loopBody k imm count s = (t, .trap 0x0d le) := by simp only [loopBody, hn, if_pos hn0, ← hle, hf]
    rw [he, issue_ready h, hb, conclude_trap]

end LoopBody

/-- Settles O20: the end of a body by what it makes of each loop, and LOOP and LOOPI by their shared effect. -/
theorem loopsAreSetAndEnd : Obligations.LoopsAreSetAndEnd := by
  unfold Obligations.LoopsAreSetAndEnd
  refine ⟨fun s a next hm => ?ends, fun s i k imm n hi h => ?loop⟩
  case ends =>
    intro l1 l0 at1 at0 ended goes
    refine ⟨_, rfl, ?_⟩
    rw [completeAt_unmarked a next hm, State.me_onMe]
    have hback : ¬ (at1 ∧ goes l1) → l1.back s.me.th a = none := fun h => if_neg h
    refine ⟨fun h hg => ?back1, fun h hg => ?end1, fun h => ?apart1, fun hn h hg => ?back0, fun hn h hg => ?end0, fun hn h => ?apart0⟩
    case back1 =>
      obtain ⟨hp, hb⟩ := Loop.passed_goes h hg
      obtain ⟨hpc, h1, h0⟩ := endOfBody_goesBack (sl := s.me.settle) next hb
      exact ⟨hpc, h1.trans hp, h0⟩
    case end1 => exact (endOfBody_loop1 next).trans (Loop.passed_ends h hg).1
    case apart1 => exact (endOfBody_loop1 next).trans (Loop.passed_apart h).1
    case back0 => exact endOfBody_goesOn_as (sl := s.me.settle) next (hback hn) (Loop.passed_goes h hg)
    case end0 => exact endOfBody_goesOn_as (sl := s.me.settle) next (hback hn) (Loop.passed_ends h hg)
    case apart0 => exact endOfBody_goesOn_as (sl := s.me.settle) next (hback hn) (Loop.passed_apart h)
  case loop =>
    rcases hi with ⟨a, rfl, rfl⟩ | ⟨m, e, rfl, rfl⟩
    · exact loopBody_clauses rfl (by rw [slice, BitVec.toNat_setWidth]; rfl) h
    · exact loopBody_clauses rfl (BitVec.toNat_setWidth_of_le (by decide)).symm h

end Sys2Proof.Machine
end

section
/-! Scalar floating point (R159 to R168): the rounded operations never take a narrowing trap, signs and classes by their bits, and FDIV
and FSQRT by the values of their operands. -/

namespace Sys2Proof.Machine

/-! ### No narrowing trap (R160) -/

section NoTrap
variable (c : Fpu)

@[simp] theorem Fpu.trapAt_raise (j : Nat) : (c.raise j).trapAt = c.trapAt := rfl

@[simp] theorem Fpu.trapAt_raiseIf (b : Bool) (j : Nat) : (c.raiseIf b j).trapAt = c.trapAt := by cases b <;> rfl

theorem Fpu.trapAt_draw : c.draw.2.trapAt = c.trapAt := by
  unfold Fpu.draw
  split <;> rfl

theorem trapAt_roundIeee (f : FloatFmt) (v : Val) (r : Nat) : (roundIeee f v r c).2.trapAt = c.trapAt := by
  cases v with
  | nan s | inf n => rfl
  | num n m =>
    simp only [roundIeee]
    split
    · rfl
    · split <;> simp

theorem trapAt_roundTo (f : FloatFmt) (v : Val) : (roundTo f v c).2.trapAt = c.trapAt :=
  (trapAt_roundIeee ..).trans c.trapAt_draw

theorem trapAt_addVal (x y : Val) : (addVal x y c).2.trapAt = c.trapAt := by
  cases x with
  | nan s => exact c.trapAt_raiseIf ..
  | inf m =>
    cases y with
    | nan s => exact c.trapAt_raiseIf ..
    | inf n =>
      simp only [addVal]
      split <;> rfl
    | num n b => rfl
  | num m a =>
    cases y with
    | nan s => exact c.trapAt_raiseIf ..
    | inf n => rfl
    | num n b =>
      simp only [addVal]
      repeat' split
      all_goals rfl

theorem trapAt_mulVal (x y : Val) : (mulVal x y c).2.trapAt = c.trapAt := by
  cases x with
  | nan s => exact c.trapAt_raiseIf ..
  | inf m =>
    cases y with
    | nan s => exact c.trapAt_raiseIf ..
    | inf n => rfl
    | num n b =>
      simp only [mulVal]
      split <;> rfl
  | num m a =>
    cases y with
    | nan s => exact c.trapAt_raiseIf ..
    | inf n =>
      simp only [mulVal]
      split <;> rfl
    | num n b => rfl

theorem trapAt_fmaVal (x y z : Val) : (fmaVal x y z c).2.trapAt = c.trapAt := by
  have hmul := trapAt_mulVal c x y
  simp only [fmaVal]
  split
  · exact (Fpu.trapAt_raiseIf ..).trans hmul
  · exact (trapAt_addVal ..).trans hmul

theorem trapAt_divVal (x y : Val) : (divVal x y c).2.trapAt = c.trapAt := by
  cases x with
  | nan s => exact c.trapAt_raiseIf ..
  | inf m =>
    cases y with
    | nan s => exact c.trapAt_raiseIf ..
    | inf n | num n b => rfl
  | num m a =>
    cases y with
    | nan s => exact c.trapAt_raiseIf ..
    | inf n => rfl
    | num n b =>
      simp only [divVal]
      repeat' split
      all_goals rfl

theorem trapAt_sqrtVal (x : Val) : (sqrtVal x c).2.trapAt = c.trapAt := by
  cases x with
  | nan s => exact c.trapAt_raiseIf ..
  | inf n => cases n <;> rfl
  | num n a =>
    simp only [sqrtVal]
    repeat' split
    all_goals rfl

variable (f : FloatFmt)

theorem trapAt_fpOp (o : FOp) (x y z : Nat) : (fpOp f o x y z c).2.trapAt = c.trapAt := by
  cases o with
  | add | sub => exact (trapAt_roundTo ..).trans (trapAt_addVal ..)
  | mul => exact (trapAt_roundTo ..).trans (trapAt_mulVal ..)
  | fma | fms => exact (trapAt_roundTo ..).trans (trapAt_fmaVal ..)

theorem trapAt_fpDiv (x y : Nat) : (fpDiv f x y c).2.trapAt = c.trapAt := (trapAt_roundTo ..).trans (trapAt_divVal ..)

theorem trapAt_fpSqrt (x : Nat) : (fpSqrt f x c).2.trapAt = c.trapAt := (trapAt_roundTo ..).trans (trapAt_sqrtVal ..)

theorem trapAt_minMax (mx : Bool) (x y : Nat) : (minMax f mx x y c).2.trapAt = c.trapAt := by
  unfold minMax
  dsimp only
  split <;> exact c.trapAt_raiseIf ..

theorem trapAt_fpCompare (cc : Cond) (x y : Nat) : (fpCompare f cc x y c).2.trapAt = c.trapAt := c.trapAt_raiseIf ..

end NoTrap

/-! ### The rounded operations (R162 to R164, R167, R168) -/

section Rounds
variable {i : Instr} {s : State} {r : Rm} {f : FloatFmt} {b a d : BitVec 5}

/-- A ready instruction that rounds one code from two, with no narrowing trap. -/
theorem rounds_fp2 {op : Slot → Nat → Nat → Fpu → Nat × Fpu}
    (he : exec i s = issue i (fpBody r fun sl c => fp2 f b a d sl fun x y => op sl x y c) s)
    (ht : ∀ x y, (op s.me x y (fpuOf r s.me)).2.trapAt = (fpuOf r s.me).trapAt) (h : Ready i s) :
    let y := op s.me (fpBits f (s.me.rg a.toNat)) (fpBits f (s.me.rg b.toNat)) (fpuOf r s.me)
    y.2.trapAt = none ∧ RoundsTo i s [.g d.toNat (BitVec.ofNat 64 y.1)] y.2 :=
  ⟨ht .., roundsTo_of_fpBody he rfl h⟩

/-- An effect that ends without a narrowing trap. -/
theorem roundsTo_of_next {body : Body} {xs : List RegVal} {c : Fpu} (he : exec i s = issue i body s) (ht : c.trapAt = none)
    (hb : body s = (s.onMe fun sl => (xs.foldl Slot.wr sl).onSys fun y =>
      { y with st := y.st ||| c.flags.setWidth 64, rnc := c.rnc }, .next)) (h : Ready i s) : RoundsTo i s xs c := by
  unfold RoundsTo
  simp only [ht]
  exact completes_of_next he hb h

/-- FCMP puts its outcome into one register and sets NV as its entry says (R168). -/
theorem rounds_fcmp {t k : Bool} {c : Cond} {mk : Bool → RegVal} (hk : ∀ sl : Slot, ∀ x, sl.wcond k d.toNat x = sl.wr (mk x))
    (h : Ready (.fcmp t k c b a d) s) :
    let cmp := fpCompare (fpType t) c (fpBits (fpType t) (s.me.rg a.toNat)) (fpBits (fpType t) (s.me.rg b.toNat)) (fpuOf .rne s.me)
    RoundsTo (.fcmp t k c b a d) s [mk cmp.1] cmp.2 := by
  intro cmp
  have hb : s.onMe (fun sl => (sl.wcond k d.toNat cmp.1).absorb cmp.2) = s.onMe fun sl => ([mk cmp.1].foldl Slot.wr sl).onSys fun y =>
      { y with st := y.st ||| cmp.2.flags.setWidth 64, rnc := cmp.2.rnc } := by
    simp only [hk]
    rfl
  have he : exec (.fcmp t k c b a d) s = issue (.fcmp t k c b a d) (fun s =>
      let (x, f) := fpCompare (fpType t) c (fpBits (fpType t) (s.me.rg a.toNat)) (fpBits (fpType t) (s.me.rg b.toNat)) (fpuOf .rne s.me)
      (s.onMe fun sl => (sl.wcond k d.toNat x).absorb f, .next)) s := rfl
  exact roundsTo_of_next he (trapAt_fpCompare ..) (congrArg (·, Ending.next) hb) h

end Rounds

/-- Settles O23: the rounded operations by one lemma, FCMP by its own effect. -/
theorem scalarFloatArithmetic : Obligations.ScalarFloatArithmetic := by
  unfold Obligations.ScalarFloatArithmetic
  intro s r t c b a d pd code fin op op3 cmp
  have hd : (pd.setWidth 5).toNat = pd.toNat := BitVec.toNat_setWidth_of_le (by decide)
  refine ⟨?faddS, ?fsubS, ?fmulS, ?faddD, ?fsubD, ?fmulD, ?ffma, ?ffms, ?fminS, ?fmaxS, ?fminD, ?fmaxD, ?cmpG, ?cmpP⟩
  case faddS | faddD => exact rounds_fp2 (op := fun _ x y c => fpOp _ .add x y 0 c) rfl fun _ _ => trapAt_fpOp ..
  case fsubS | fsubD => exact rounds_fp2 (op := fun _ x y c => fpOp _ .sub x y 0 c) rfl fun _ _ => trapAt_fpOp ..
  case fmulS | fmulD => exact rounds_fp2 (op := fun _ x y c => fpOp _ .mul x y 0 c) rfl fun _ _ => trapAt_fpOp ..
  case ffma => exact rounds_fp2 (op := fun sl x y c => fpOp _ .fma x y (fpBits _ (sl.rg d.toNat)) c) rfl fun _ _ => trapAt_fpOp ..
  case ffms => exact rounds_fp2 (op := fun sl x y c => fpOp _ .fms x y (fpBits _ (sl.rg d.toNat)) c) rfl fun _ _ => trapAt_fpOp ..
  case fminS | fminD => exact rounds_fp2 (op := fun _ x y c => minMax _ false x y c) rfl fun _ _ => trapAt_minMax ..
  case fmaxS | fmaxD => exact rounds_fp2 (op := fun _ x y c => minMax _ true x y c) rfl fun _ _ => trapAt_minMax ..
  case cmpG => exact rounds_fcmp (mk := fun x => .g d.toNat (if x then 1#64 else 0#64)) fun _ _ => rfl
  case cmpP => exact rounds_fcmp (mk := fun x => .p pd.toNat (if x then 1#16 else 0#16)) fun _ _ => by rw [hd]; rfl

/-! ### Signs by their bits (R165) -/

/-- A magnitude below 2^n with a sign at bit n. -/
theorem ofNat_mag_sign (x : Word) (n : Nat) (b : Bool) : BitVec.ofNat 64 (x.toNat % 2 ^ n + if b then 2 ^ n else 0) =
    (x &&& BitVec.ofNat 64 (2 ^ n - 1)) ||| if b then BitVec.ofNat 64 (2 ^ n) else 0#64 := by
  have hor : x.toNat % 2 ^ n + (if b then 2 ^ n else 0) = (x.toNat &&& (2 ^ n - 1)) ||| if b then 2 ^ n else 0 := by
    rw [Nat.and_two_pow_sub_one_eq_mod]
    cases b with
    | false => exact (Nat.or_zero _).symm
    | true =>
      have h := Nat.two_pow_add_eq_or_of_lt (Nat.mod_lt x.toNat (Nat.two_pow_pos n)) 1
      rw [Nat.mul_one] at h
      rw [if_pos rfl, Nat.add_comm, h, Nat.or_comm]
  rw [hor, BitVec.ofNat_or, BitVec.ofNat_and, BitVec.ofNat_toNat, BitVec.setWidth_eq]
  cases b <;> rfl

/-- The top bit of the low n + 1 bits of a word. -/
theorem decide_two_pow_le_mod (x : Word) (n : Nat) : decide (2 ^ n ≤ x.toNat % 2 ^ (n + 1)) = x.getLsbD n := by
  have hbit : x.getLsbD n = decide (x.toNat / 2 ^ n % 2 = 1) := Nat.testBit_eq_decide_div_mod_eq
  have hlt := Nat.mod_lt x.toNat (Nat.two_pow_pos n)
  rw [hbit, Nat.mod_pow_succ, decide_eq_decide]
  rcases Nat.mod_two_eq_zero_or_one (x.toNat / 2 ^ n) with h | h <;> rw [h] <;> omega

/-- The low bits below the sign. -/
theorem fpBits_mod {f : FloatFmt} {n : Nat} (hf : f.bits = n + 1) (x : Word) : fpBits f x % 2 ^ n = x.toNat % 2 ^ n := by
  rw [fpBits, hf, Nat.mod_mod_of_dvd _ (Nat.pow_dvd_pow 2 (Nat.le_succ n))]

theorem decide_sign_fpBits {f : FloatFmt} {n : Nat} (hf : f.bits = n + 1) (x : Word) :
    decide (2 ^ n ≤ fpBits f x) = x.getLsbD n := by
  rw [fpBits, hf, decide_two_pow_le_mod]

/-- FSGN, FSGNN and FSGNX as masks, by the sign that they make. -/
theorem writes_of_newSign {i : Instr} {s : State} {f : FloatFmt} {n : Nat} {b a d : BitVec 5} {g : Bool → Bool → Bool} {v : Word}
    (he : exec i s = issue i (newSign f b a d g) s) (hf : f.bits = n + 1)
    (hv : (s.me.rg a.toNat &&& BitVec.ofNat 64 (2 ^ n - 1) |||
      if g ((s.me.rg a.toNat).getLsbD n) ((s.me.rg b.toNat).getLsbD n) then BitVec.ofNat 64 (2 ^ n) else 0#64) = v)
    (h : Ready i s) : Writes i s fun sl => sl.wg d.toNat v := by
  refine writes_wg_of_setG he ?_ h
  have hn : f.bits - 1 = n := by rw [hf, Nat.add_sub_cancel]
  simp only [hn, fpBits_mod hf, decide_sign_fpBits hf]
  exact (ofNat_mag_sign ..).trans hv

theorem sign_and (y : Word) (n : Nat) : (if y.getLsbD n then BitVec.twoPow 64 n else 0#64) = y &&& BitVec.twoPow 64 n :=
  (BitVec.and_twoPow y n).symm

theorem not_sign_and (y : Word) {n : Nat} (hn : n < 64) :
    (if !y.getLsbD n then BitVec.twoPow 64 n else 0#64) = ~~~y &&& BitVec.twoPow 64 n := by
  rw [BitVec.and_twoPow, BitVec.getLsbD_not, decide_eq_true hn, Bool.true_and]

/-- A magnitude with the exclusive-or of two signs. -/
theorem xor_sign (x y : Word) {n : Nat} (hn : n < 64) :
    (x &&& BitVec.ofNat 64 (2 ^ n - 1) ||| if x.getLsbD n != y.getLsbD n then BitVec.twoPow 64 n else 0#64) =
      x &&& BitVec.ofNat 64 (2 ^ (n + 1) - 1) ^^^ y &&& BitVec.twoPow 64 n := by
  refine BitVec.eq_of_getLsbD_eq fun i hi => ?_
  simp only [apply_ite (fun w : Word => w.getLsbD i), BitVec.getLsbD_or, BitVec.getLsbD_xor, BitVec.getLsbD_and, BitVec.getLsbD_ofNat,
    Nat.testBit_two_pow_sub_one, BitVec.getLsbD_twoPow]
  rcases Nat.lt_trichotomy i n with h | h | h
  · simp [hi, h, show i < n + 1 by omega, show n ≠ i by omega]
  · subst h
    cases x.getLsbD i <;> cases y.getLsbD i <;> simp [hi]
  · simp [show ¬ i < n by omega, show ¬ i < n + 1 by omega, show n ≠ i by omega]

/-! ### Values and classes by their bits (R64, R65, R166) -/

/-- The layout of an IEEE format with the sign at bit n and the infinity `inf`, behind which the NaNs stand. -/
structure IeeeLayout (f : FloatFmt) (n inf : Nat) : Prop where
  signed : f.signed = true
  bits : f.bits = n + 1
  code : f.infCode = some inf
  next : f.maxCode + 1 = inf
  whole : inf % 2 ^ (f.prec - 1) = 0
  top : 2 ^ n = inf + 2 ^ (f.prec - 1)

theorem ieeeLayout_fp32 : IeeeLayout fp32 31 0x7f800000 := ⟨rfl, rfl, rfl, rfl, by decide, by decide⟩

theorem ieeeLayout_fp64 : IeeeLayout fp64 63 0x7ff0000000000000 := ⟨rfl, rfl, rfl, rfl, by decide, by decide⟩

/-- The classes of R166 by sign and magnitude: the magnitudes of infinity, of the least normal number and of the least quiet NaN. -/
def floatClass (neg : Bool) (mag inf least quiet : Nat) : Nat :=
  if mag = inf then (if neg then 0 else 7) else if inf < mag then (if quiet ≤ mag then 9 else 8)
  else if mag = 0 then (if neg then 3 else 4) else if mag < least then (if neg then 2 else 5) else (if neg then 1 else 6)

section Layout
variable {f : FloatFmt} {n inf : Nat} (hf : IeeeLayout f n inf) (x : Word)
include hf

/-- The value of a code by its magnitude. -/
theorem floatVal_ieee : floatVal f (fpBits f x) =
    if x.toNat % 2 ^ n = inf then .inf (x.getLsbD n)
    else if inf < x.toNat % 2 ^ n then .nan (decide (x.toNat % 2 ^ n % 2 ^ (f.prec - 1) < 2 ^ (f.prec - 1 - 1)))
    else if x.toNat % 2 ^ n / 2 ^ (f.prec - 1) = 0 then .num (x.getLsbD n) (dyadic (x.toNat % 2 ^ n % 2 ^ (f.prec - 1)) f.emin)
    else .num (x.getLsbD n) (dyadic (x.toNat % 2 ^ n % 2 ^ (f.prec - 1) + 2 ^ (f.prec - 1))
      (f.emin + ((x.toNat % 2 ^ n / 2 ^ (f.prec - 1) - 1 : Nat) : Int))) := by
  have hn : f.bits - 1 = n := by rw [hf.bits, Nat.add_sub_cancel]
  have hcode : fpBits f x % 2 ^ f.bits = fpBits f x := Nat.mod_mod ..
  have hmax : ∀ m, m ≠ inf → (f.maxCode < m ↔ inf < m) := fun m hm => by
    have := hf.next
    omega
  simp only [floatVal, hn, hcode, fpBits_mod hf.bits, decide_sign_fpBits hf.bits, hf.signed, hf.code, Bool.true_and, if_true,
    Option.some.injEq, Option.isSome_some]
  exact ite_congr rfl (fun _ => rfl) fun hm => if_congr (hmax _ hm) rfl rfl

/-- The class of a code by its sign and magnitude (R166). -/
theorem classBit_ieee : classBit f (fpBits f x) = floatClass (x.getLsbD n) (x.toNat % 2 ^ n) inf (2 ^ (f.prec - 1))
    (inf + 2 ^ (f.prec - 1 - 1)) := by
  have hn : f.bits - 1 = n := by rw [hf.bits, Nat.add_sub_cancel]
  have hpos : 0 < 2 ^ (f.prec - 1) := Nat.two_pow_pos _
  have hlt := Nat.lt_of_lt_of_eq (Nat.mod_lt x.toNat (Nat.two_pow_pos n)) hf.top
  have hwhole := hf.whole
  rw [classBit, floatVal_ieee hf, floatClass, hn, fpBits_mod hf.bits]
  generalize x.toNat % 2 ^ n = mag at hlt ⊢
  generalize 2 ^ (f.prec - 1) = least at hpos hlt hwhole ⊢
  by_cases hinf : mag = inf
  · simp only [hinf, if_true]
  · rw [if_neg hinf, if_neg hinf]
    by_cases hnan : inf < mag
    · have hmant : mag % least = mag - inf := by
        obtain ⟨r, rfl⟩ := Nat.exists_eq_add_of_lt hnan
        rw [Nat.add_assoc, Nat.add_mod, hwhole, Nat.zero_add, Nat.mod_mod, Nat.mod_eq_of_lt (by omega), Nat.add_sub_cancel_left]
      rw [if_pos hnan, if_pos hnan, hmant]
      by_cases hq : mag - inf < 2 ^ (f.prec - 1 - 1)
      · simp [hq, show ¬ inf + 2 ^ (f.prec - 1 - 1) ≤ mag by omega]
      · simp [hq, show inf + 2 ^ (f.prec - 1 - 1) ≤ mag by omega]
    · rw [if_neg hnan, if_neg hnan]
      by_cases hsub : mag < least
      · have hz : (dyadic mag f.emin).isZero = decide (mag = 0) := Bool.and_true _
        rw [if_pos (Nat.div_eq_of_lt hsub), Nat.mod_eq_of_lt hsub, if_pos hsub, decide_eq_true hsub]
        simp only [hz, decide_eq_true_eq]
        cases x.getLsbD n <;> rfl
      · have hdiv : mag / least ≠ 0 := fun h => hsub ((Nat.div_eq_zero_iff_lt hpos).1 h)
        have hz : ∀ e, (dyadic (mag % least + least) e).isZero = false := fun e => by
          simp [Mag.isZero, dyadic]
          omega
        rw [if_neg hdiv, if_neg hsub, decide_eq_false hsub, if_neg (by omega : mag ≠ 0)]
        simp only [hz]
        cases x.getLsbD n <;> rfl

end Layout

/-- Settles O24: the signs as masks, the classes by sign and magnitude. -/
theorem floatSignsAndClasses : Obligations.FloatSignsAndClasses := by
  unfold Obligations.FloatSignsAndClasses
  intro s b a d x y w1 mag32 mag64 cls
  refine ⟨?fsgnS, ?fsgnnS, ?fsgnxS, ?fsgnD, ?fsgnnD, ?fsgnxD, ?fclassS, ?fclassD⟩
  case fsgnS | fsgnD => exact writes_of_newSign rfl rfl (congrArg (_ ||| ·) (sign_and ..))
  case fsgnnS | fsgnnD => exact writes_of_newSign rfl rfl (congrArg (_ ||| ·) (not_sign_and _ (by decide)))
  case fsgnxS => exact writes_of_newSign rfl rfl (xor_sign _ _ (by decide))
  case fsgnxD => exact writes_of_newSign rfl rfl ((xor_sign _ _ (by decide)).trans (congrArg (· ^^^ _) BitVec.and_allOnes))
  case fclassS => exact writes_wg_of_setG rfl (congrArg (fun n => BitVec.ofNat 64 (2 ^ n)) (classBit_ieee ieeeLayout_fp32 _))
  case fclassD => exact writes_wg_of_setG rfl (congrArg (fun n => BitVec.ofNat 64 (2 ^ n)) (classBit_ieee ieeeLayout_fp64 _))

/-! ### Rounding what is not a number above zero (R73, R160) -/

/-- The rounding environment after flags raised and one draw, which mode 5 alone makes. -/
def Fpu.drawn (c : Fpu) (fl : BitVec 6) : Fpu :=
  { c with flags := c.flags ||| fl, rnc := if c.rm = 5 then c.rnc + 1 else c.rnc }

section Drawn
variable (c : Fpu) (f : FloatFmt)

theorem Fpu.draw_raise (j : Nat) : (c.raise j).draw.2 = c.drawn (BitVec.ofNat 6 (2 ^ j)) := by
  by_cases h : c.rm = 5 <;> simp [Fpu.draw, Fpu.raise, Fpu.drawn, setBit, h]

theorem Fpu.draw_eq : c.draw.2 = c.drawn 0 := by
  by_cases h : c.rm = 5 <;> simp [Fpu.draw, Fpu.drawn, h]

theorem Fpu.draw_raiseIf (b : Bool) : (c.raiseIf b flNV).draw.2 = c.drawn (if b then 0x10 else 0) := by
  cases b with
  | false => exact c.draw_eq
  | true => exact c.draw_raise flNV

theorem roundTo_nan (s : Bool) : roundTo f (.nan s) c = (f.nanCode, c.draw.2) := rfl

theorem roundTo_inf {f : FloatFmt} (h : f.infCode.isSome = true) (p : Bool) :
    roundTo f (.inf p) c = (signCode f p + f.infCode.getD 0, c.draw.2) := by
  obtain ⟨k, hk⟩ := Option.isSome_iff_exists.1 h
  simp [roundTo, roundIeee, hk]

theorem roundTo_zero (p : Bool) {m : Mag} (h : m.isZero = true) : roundTo f (.num p m) c = (signCode f p, c.draw.2) := by
  simp [roundTo, roundIeee, h]

end Drawn

/-! ### Quotients (R163) -/

section Quotient
variable (f : FloatFmt) {x y : Nat} {c c' : Fpu} {v : Val} {p q : Bool} {m n : Mag}

theorem fpDiv_of (h : divVal (floatVal f x) (floatVal f y) c = (v, c')) : fpDiv f x y c = roundTo f v c' := by
  rw [fpDiv, h]

theorem divVal_nan {u w : Val} (h : u.isNan = true ∨ w.isNan = true) :
    divVal u w c = (.nan false, c.raiseIf (u.snan || w.snan) flNV) := by
  cases u with
  | nan s => rfl
  | inf _ | num _ _ =>
    cases w with
    | nan t => simp [divVal, Val.snan]
    | inf t | num t b => simp [Val.isNan] at h

theorem fpDiv_nan (h : (floatVal f x).isNan = true ∨ (floatVal f y).isNan = true) :
    fpDiv f x y c = (f.nanCode, c.drawn (if (floatVal f x).snan || (floatVal f y).snan then 0x10 else 0)) := by
  rw [fpDiv_of f (divVal_nan h), roundTo_nan, Fpu.draw_raiseIf]

theorem fpDiv_inf_inf (hx : floatVal f x = .inf p) (hy : floatVal f y = .inf q) :
    fpDiv f x y c = (f.nanCode, c.drawn 0x10) := by
  rw [fpDiv_of f (by rw [hx, hy, divVal]), roundTo_nan, Fpu.draw_raise]
  rfl

theorem fpDiv_inf_num (hf : f.infCode.isSome = true) (hx : floatVal f x = .inf p) (hy : floatVal f y = .num q m) :
    fpDiv f x y c = (signCode f (p != q) + f.infCode.getD 0, c.drawn 0) := by
  rw [fpDiv_of f (by rw [hx, hy, divVal]), roundTo_inf c hf, Fpu.draw_eq]

theorem fpDiv_num_inf (hx : floatVal f x = .num p m) (hy : floatVal f y = .inf q) :
    fpDiv f x y c = (signCode f (p != q), c.drawn 0) := by
  rw [fpDiv_of f (by rw [hx, hy, divVal]), roundTo_zero c f _ rfl, Fpu.draw_eq]

section Numbers
variable (hx : floatVal f x = .num p m) (hy : floatVal f y = .num q n)
include hx hy

theorem fpDiv_zero_zero (hm : m.isZero = true) (hn : n.isZero = true) : fpDiv f x y c = (f.nanCode, c.drawn 0x10) := by
  rw [fpDiv_of f (by rw [hx, hy, divVal, if_pos hn, if_pos hm]), roundTo_nan, Fpu.draw_raise]
  rfl

theorem fpDiv_num_zero (hf : f.infCode.isSome = true) (hm : m.isZero = false) (hn : n.isZero = true) :
    fpDiv f x y c = (signCode f (p != q) + f.infCode.getD 0, c.drawn 0x08) := by
  rw [fpDiv_of f (by rw [hx, hy, divVal, if_pos hn, hm, if_neg Bool.false_ne_true]), roundTo_inf _ hf, Fpu.draw_raise]
  rfl

theorem fpDiv_zero_num (hm : m.isZero = true) (hn : n.isZero = false) : fpDiv f x y c = (signCode f (p != q), c.drawn 0) := by
  rw [fpDiv_of f (by rw [hx, hy, divVal, hn, if_neg Bool.false_ne_true, if_pos hm]), roundTo_zero c f _ rfl, Fpu.draw_eq]

/-- The quotient of two numbers that are not zero is their exact fraction, rounded once. -/
theorem fpDiv_num_num (hm : m.isZero = false) (hn : n.isZero = false) :
    fpDiv f x y c = roundTo f (.num (p != q) ⟨m.num * n.den, m.den * n.num, m.e - n.e, false⟩) c :=
  fpDiv_of f (by rw [hx, hy, divVal, hn, if_neg Bool.false_ne_true, hm, if_neg Bool.false_ne_true]; rfl)

end Numbers
end Quotient

/-! ### Roots (R163) -/

/-- The bits of the root below 2^k found, from a root r of the bits above. -/
theorem isqrtFrom_spec (k n r : Nat) (hle : r ^ 2 ≤ n) (hlt : n < (r + 2 ^ k) ^ 2) :
    isqrtFrom k n r ^ 2 ≤ n ∧ n < (isqrtFrom k n r + 1) ^ 2 := by
  induction k generalizing r with
  | zero => exact ⟨hle, hlt⟩
  | succ k ih =>
    rw [isqrtFrom]
    split
    · next ht =>
      refine ih _ (by rwa [Nat.pow_two]) ?_
      rwa [Nat.add_assoc, ← Nat.two_mul, ← Nat.pow_succ']
    · next ht => exact ih _ hle (by rw [Nat.pow_two]; omega)

/-- The integer root is the greatest number whose square is not above. -/
theorem isqrt_spec (n : Nat) : isqrt n ^ 2 ≤ n ∧ n < (isqrt n + 1) ^ 2 := by
  refine isqrtFrom_spec _ n 0 (Nat.zero_le _) ?_
  have hlog : n < 2 ^ (n.log2 + 1) := Nat.lt_log2_self
  have hexp : n.log2 + 1 ≤ (n.log2 / 2 + 1) * 2 := by omega
  rw [Nat.zero_add, ← Nat.pow_mul]
  exact Nat.lt_of_lt_of_le hlog (Nat.pow_le_pow_right (by decide) hexp)

/-- The root of a magnitude to 128 bits more than it needs, with what is left as `sticky`. -/
theorem Mag.sqrt_spec (m : Mag) : ∃ n big : Nat, m.sqrt.num ^ 2 ≤ big ∧ big < (m.sqrt.num + 1) ^ 2 ∧ big = n * 2 ^ 256 ∧
    m.sqrt.den = 1 ∧ (m.sqrt.sticky = true ↔ m.sqrt.num ^ 2 ≠ big) ∧
    ((m.e % 2 = 0 ∧ n = m.num ∧ 2 * (m.sqrt.e + 128) = m.e) ∨ (m.e % 2 = 1 ∧ n = 2 * m.num ∧ 2 * (m.sqrt.e + 128) = m.e - 1)) := by
  have hspec := isqrt_spec ((if m.e % 2 = 0 then m.num else 2 * m.num) * 2 ^ 256)
  refine ⟨_, _, hspec.1, hspec.2, rfl, rfl, ?_, ?_⟩
  · exact bne_iff_ne.trans (by rw [Nat.pow_two]; rfl)
  · have he : m.sqrt.e = (if m.e % 2 = 0 then m.e else m.e - 1) / 2 - 128 := rfl
    rcases Int.emod_two_eq_zero_or_one m.e with h | h
    · rw [if_pos h] at he
      exact .inl ⟨h, if_pos h, by omega⟩
    · have hodd : ¬ m.e % 2 = 0 := by omega
      rw [if_neg hodd] at he
      exact .inr ⟨h, if_neg hodd, by omega⟩

section Root
variable (f : FloatFmt) {x : Nat} {c c' : Fpu} {v : Val} {p : Bool} {m : Mag}

theorem fpSqrt_of (h : sqrtVal (floatVal f x) c = (v, c')) : fpSqrt f x c = roundTo f v c' := by
  rw [fpSqrt, h]

theorem fpSqrt_nan (h : (floatVal f x).isNan = true) :
    fpSqrt f x c = (f.nanCode, c.drawn (if (floatVal f x).snan then 0x10 else 0)) := by
  have hv : sqrtVal (floatVal f x) c = (.nan false, c.raiseIf (floatVal f x).snan flNV) := by
    cases hx : floatVal f x with
    | nan s => rfl
    | inf s | num s a => simp [hx, Val.isNan] at h
  rw [fpSqrt_of f hv, roundTo_nan, Fpu.draw_raiseIf]

theorem fpSqrt_negInf (h : floatVal f x = .inf true) : fpSqrt f x c = (f.nanCode, c.drawn 0x10) := by
  rw [fpSqrt_of f (by rw [h, sqrtVal, if_pos rfl]), roundTo_nan, Fpu.draw_raise]
  rfl

theorem fpSqrt_posInf (hf : f.infCode.isSome = true) (h : floatVal f x = .inf false) :
    fpSqrt f x c = (f.infCode.getD 0, c.drawn 0) := by
  have hsign : signCode f false = 0 := rfl
  rw [fpSqrt_of f (by rw [h, sqrtVal, if_neg Bool.false_ne_true]), roundTo_inf c hf, Fpu.draw_eq, hsign, Nat.zero_add]

theorem fpSqrt_zero (h : floatVal f x = .num p m) (hm : m.isZero = true) : fpSqrt f x c = (signCode f p, c.drawn 0) := by
  rw [fpSqrt_of f (by rw [h, sqrtVal, if_pos hm]), roundTo_zero c f p hm, Fpu.draw_eq]

theorem fpSqrt_neg (h : floatVal f x = .num true m) (hm : m.isZero = false) : fpSqrt f x c = (f.nanCode, c.drawn 0x10) := by
  rw [fpSqrt_of f (by rw [h, sqrtVal, hm, if_neg Bool.false_ne_true, if_pos rfl]), roundTo_nan, Fpu.draw_raise]
  rfl

theorem fpSqrt_num (h : floatVal f x = .num false m) (hm : m.isZero = false) :
    fpSqrt f x c = roundTo f (.num false m.sqrt) c :=
  fpSqrt_of f (by rw [h, sqrtVal, hm, if_neg Bool.false_ne_true, if_neg Bool.false_ne_true])

end Root

/-! ### FDIV and FSQRT (R161) -/

/-- A ready instruction whose rounded result comes at its cycle draws at issue and owes the result with its flags. -/
theorem owes_of_fpLater {i : Instr} {s : State} {r : Rm} {n d : Nat} {f : Slot → Fpu → List RegVal × Fpu} {y : Nat × Fpu}
    (hl : i.len = 4) (he : exec i s = issue i (fpLater r (some n) f) s)
    (hf : f s.me (fpuOf r s.me) = ([.g d (BitVec.ofNat 64 y.1)], y.2)) (ht : y.2.trapAt = none) (h : Ready i s) :
    exec i s = .next (completeAt s.me.pc (s.me.pc + 4) (s.onMe fun sl =>
      (sl.onSys fun z => { z with rnc := y.2.rnc }).addPend [⟨0, d⟩]
        (.timed [.g d (BitVec.ofNat 64 y.1)] y.2.flags ((s.core (coreOf s.cur)).cyc + BitVec.ofNat 64 n) true))) := by
  have hb : fpLater r (some n) f s = timedResult true n [.g d (BitVec.ofNat 64 y.1)] y.2.flags
      (s.onMe fun sl => sl.onSys fun z => { z with rnc := y.2.rnc }) := by
    rw [fpLater, hf]
    simp only [ht]
  rw [he, issue_ready h, hb, timedResult, State.me_onMe, State.setMe_onMe, hl]
  rfl

/-- Settles O25: FDIV and FSQRT by what their effect owes, the values by the operands. -/
theorem floatDivideAndRoot : Obligations.FloatDivideAndRoot := by
  unfold Obligations.FloatDivideAndRoot
  refine ⟨fun s r b a d => ⟨?divS, ?divD, ?sqrtS, ?sqrtD⟩, fun f x y c hf => ?values⟩
  case divS | divD => exact owes_of_fpLater rfl rfl rfl (trapAt_fpDiv ..)
  case sqrtS | sqrtD => exact owes_of_fpLater rfl rfl rfl (trapAt_fpSqrt ..)
  case values =>
    have hinf : f.infCode.isSome = true := by rcases hf with rfl | rfl <;> rfl
    exact ⟨fpDiv_nan f, fun _ _ => fpDiv_inf_inf f, fun _ _ _ => fpDiv_inf_num f hinf, fun _ _ _ => fpDiv_num_inf f,
      fun _ _ _ _ hx hy => ⟨fun hn hm => fpDiv_zero_zero f hx hy hm hn, fun hn hm => fpDiv_num_zero f hx hy hinf hm hn,
        fun hn hm => fpDiv_zero_num f hx hy hm hn, fun hn hm => fpDiv_num_num f hx hy hm hn⟩,
      fpSqrt_nan f, fpSqrt_negInf f, fpSqrt_posInf f hinf, fun _ _ => fpSqrt_zero f, fun _ => fpSqrt_neg f,
      fun m hx hm => ⟨fpSqrt_num f hx hm, m.sqrt_spec⟩⟩

end Sys2Proof.Machine
end

section
/-! REP and the end of its replay (R154 to R158): the window captured, the registers that the replay owes, and their values when it has
run to its end. -/

namespace Sys2Proof.Machine

/-! ### What a replay owes (R155, R157) -/

/-- The registers that some repetition writes, without g0 and p0. -/
theorem mem_replayWrites {window : List Instr} {reps mask step : Nat} {x : RegId} : x ∈ replayWrites window reps mask step ↔
    ¬ (x.num = 0 ∧ (x.file = 0 ∨ x.file = 2)) ∧
      ∃ i, i < reps ∧ ∃ w ∈ window, x ∈ engineWrites (staggered mask (i * step) w) := by
  simp only [replayWrites, List.mem_eraseDups, List.mem_filter, List.mem_flatMap, upTo, List.mem_range, Bool.not_eq_true',
    Bool.and_eq_false_iff, Bool.or_eq_false_iff, beq_eq_false_iff_ne]
  rw [and_comm, not_and_or, not_or]

/-- Registers claimed by an instruction keep their values. -/
theorem RegsKept.claimAll (xs : List RegId) (sl : Slot) : RegsKept (fun _ => False) sl (xs.foldl Slot.claimReg sl) := by
  induction xs generalizing sl with
  | nil => exact .of_files rfl rfl rfl rfl rfl
  | cons x xs ih =>
    have hone : RegsKept (fun _ => False) sl (sl.claimReg x) := .of_files rfl rfl rfl rfl rfl
    exact hone.trans (ih _)

section Capture
variable (ws : List (Instr × BitVec 32)) (reps mask step : Nat)

/-- The replay that a REP of this window starts in a slot (R155). -/
def captured (sl : Slot) : Replay :=
  { window := ws.map (·.1), words := ws.map (·.2), reps := reps, mask := mask, step := step, i := 0, j := 0,
    owed := replayWrites (ws.map (·.1)) reps mask step, trap := none, ended := false, fault := none, xlat := [], prg := 0, phase := 0,
    keep := [], entered := 0, first := sl.traffic.nextId + 1, g := sl.g, v := sl.v, p := sl.p, x := sl.x }

/-- The slot with the registers claimed that the replay writes. -/
def claiming (sl : Slot) : Slot := (replayWrites (ws.map (·.1)) reps mask step).foldl Slot.claimReg sl

/-- The slot after its REP: the registers that the replay writes are claimed, and the replay is on its way. -/
def capturing (sl : Slot) : Slot :=
  let sl := claiming ws reps mask step sl
  { sl with replay := some (captured ws reps mask step sl), traffic := { sl.traffic with nextId := sl.traffic.nextId + 1 } }

theorem RegsKept.capturing (sl : Slot) : RegsKept (fun _ => False) sl (capturing ws reps mask step sl) :=
  (RegsKept.claimAll _ sl).trans (.of_files rfl rfl rfl rfl rfl)

variable {ws reps mask step}

/-- REP with its buffer free and its window captured (R154, R155). -/
theorem repBody_captures {s t : State} {n : Nat} (hr : s.me.replay = none) (hb : bufferTaken s s.cur = false)
    (hw : captureWindow (s.me.pc + 4) n s = .ok (ws, t)) : repBody n reps mask step s =
      ((t.onMe (capturing ws reps mask step)).post (evt .replayEnd t.cur 0 0), .after (s.me.pc + BitVec.ofNat 64 (4 * n + 4))) := by
  have hp : replayPoint s.me = none := by rw [replayPoint, hr]
  simp only [repBody, hp, hb, hw]
  rfl

end Capture

/-! ### A register put in place -/

/-- A register put in place is written as by an instruction; what results owe stays. -/
theorem Slot.put_eq_wr_owing (sl : Slot) (r : RegVal) : sl.put r = { sl.wr r with pend := sl.pend, replay := sl.replay } := by
  cases r with
  | g n x => by_cases h : n = 0 <;> simp [Slot.wr, Slot.put, Slot.claimReg, h]
  | v n x => rfl
  | p n x => by_cases h : n = 0 <;> simp [Slot.wr, Slot.put, Slot.claimReg, h]

theorem RegsKept.put (sl : Slot) (r : RegVal) : RegsKept (fun x => x = r.id) sl (sl.put r) := by
  rw [Slot.put_eq_wr_owing]
  exact (Slot.wr_kept sl r).1.trans (.of_files rfl rfl rfl rfl rfl)

theorem RegsKept.mono {d e : RegId → Prop} {x y : Slot} (h : RegsKept d x y) (hd : ∀ i, d i → e i) : RegsKept e x y where
  general n hn he := h.general n hn fun hi => he (hd _ hi)
  vector n hn he := h.vector n hn fun hi => he (hd _ hi)
  predicate n hn he := h.predicate n hn fun hi => he (hd _ hi)
  extension n he := h.extension n fun hi => he (hd _ hi)
  ports := h.ports

/-- The register is one of the slot's. -/
def RegVal.InFile : RegVal → Prop
  | .g n _ => n < 32
  | .v n _ => n < 16
  | .p n _ => n < 8

/-- The slot's register reads as this value, where it is not g0 or p0 (R26). -/
def Slot.Holds (sl : Slot) : RegVal → Prop
  | .g n x => sl.rg n = if n = 0 then 0#64 else x
  | .v n x => sl.rv n = x
  | .p n x => sl.rp n = if n = 0 then 0xffff#16 else x

theorem Slot.holds_put (sl : Slot) {r : RegVal} (h : r.InFile) : (sl.put r).Holds r := by
  rw [Slot.put_eq_wr_owing]
  cases r with
  | g n x => exact Slot.rg_wr x h
  | v n x => exact vget_vset_self _ _ _ h
  | p n x => exact Slot.rp_wr x h

theorem RegsKept.holds {d : RegId → Prop} {x y : Slot} (hk : RegsKept d x y) {r : RegVal} (h : r.InFile) (hd : ¬ d r.id)
    (hx : x.Holds r) : y.Holds r := by
  cases r with
  | g n v => exact (hk.general n h hd).trans hx
  | v n v => exact (hk.vector n h hd).trans hx
  | p n v => exact (hk.predicate n h hd).trans hx

/-! ### The registers of a replay that has ended (R119, R158) -/

/-- The value that a replay has for a register that it owes. -/
def Replay.valOf (r : Replay) (i : RegId) : RegVal :=
  match i.file with
  | 0 => .g i.num (vget r.g i.num 0#64)
  | 1 => .v i.num (vget r.v i.num vzero)
  | _ => .p i.num (vget r.p i.num 0#16)

section Merge
variable (r : Replay)

/-- The value depends on the register that takes it alone. -/
theorem Replay.valOf_id (i : RegId) : r.valOf (r.valOf i).id = r.valOf i := by
  obtain ⟨f, n⟩ := i
  rcases f with _ | _ | f <;> rfl

theorem Replay.id_valOf {i : RegId} (h : i.file < 3) : (r.valOf i).id = i := by
  obtain ⟨f, n⟩ := i
  have hf : f = 0 ∨ f = 1 ∨ f = 2 := by
    dsimp only at h
    omega
  rcases hf with rfl | rfl | rfl <;> rfl

theorem mergeReplay_cons (i : RegId) (l : List RegId) (sl : Slot) :
    mergeReplay r (i :: l) sl = mergeReplay r l (sl.put (r.valOf i)) := by
  obtain ⟨f, n⟩ := i
  rcases f with _ | _ | f <;> rfl

/-- Registers that the replay does not owe keep their values. -/
theorem RegsKept.mergeReplay {l : List RegId} (h : ∀ x ∈ l, x.file < 3) (sl : Slot) :
    RegsKept (· ∈ l) sl (mergeReplay r l sl) := by
  induction l generalizing sl with
  | nil => exact .of_files rfl rfl rfl rfl rfl
  | cons i l ih =>
    rw [mergeReplay_cons]
    have hput : RegsKept (· ∈ i :: l) sl (sl.put (r.valOf i)) := (RegsKept.put sl _).mono fun x hx => by
      rw [hx, r.id_valOf (h i List.mem_cons_self)]
      exact List.mem_cons_self
    exact hput.trans ((ih (fun x hx => h x (List.mem_cons_of_mem i hx)) _).mono fun x hx => List.mem_cons_of_mem i hx)

/-- A register that holds its value keeps it while others take theirs. -/
theorem mergeReplay_holds_of_holds {a : RegId} (ha : (r.valOf a).InFile) (l : List RegId) {sl : Slot} (h : sl.Holds (r.valOf a)) :
    (mergeReplay r l sl).Holds (r.valOf a) := by
  induction l generalizing sl with
  | nil => exact h
  | cons i l ih =>
    rw [mergeReplay_cons]
    refine ih ?_
    by_cases hi : (r.valOf a).id = (r.valOf i).id
    · have hval : r.valOf a = r.valOf i := by rw [← r.valOf_id a, hi, r.valOf_id]
      exact hval ▸ sl.holds_put ha
    · exact (RegsKept.put sl (r.valOf i)).holds ha hi h

/-- Each register that the replay owes takes its value. -/
theorem mergeReplay_holds {a : RegId} (ha : (r.valOf a).InFile) {l : List RegId} (h : a ∈ l) (sl : Slot) :
    (mergeReplay r l sl).Holds (r.valOf a) := by
  induction l generalizing sl with
  | nil => exact nomatch h
  | cons i l ih =>
    rw [mergeReplay_cons]
    rcases List.mem_cons.1 h with rfl | h
    · exact mergeReplay_holds_of_holds r ha l (sl.holds_put ha)
    · exact ih h _

theorem endReplay_eq {r : Replay} (h : r.trap = none) (sl : Slot) :
    endReplay r sl = { mergeReplay r sl.replayOwed sl with replay := none } := by
  rw [endReplay, h]
  rfl

end Merge

/-! ### REPLAY_END -/

theorem exec_replayEnd_none {s : State} (h : (s.slot s.arg.k).replay = none) : exec .replayEnd s = .next s := by
  have he : exec .replayEnd s = execReplayEnd s := rfl
  rw [he, execReplayEnd]
  simp only [h]

/-- Slots that accesses alone tell apart have the same registers. -/
theorem RegsKept.of_still {x y : Slot} (h : y.still = x.still) (d : RegId → Prop) : RegsKept d x y :=
  .of_files (congrArg Slot.g h :) (congrArg Slot.v h :) (congrArg Slot.p h :) (congrArg Slot.x h :) (congrArg Slot.ports h :)

section Ends
variable {s t : State} {r q : Replay}

/-- A replay that has run to its end without a wait ends, and what waits for it alone leaves (R157). -/
theorem exec_replayEnd_ends (hr : (s.slot s.arg.k).replay = some r) (he : r.ended = false) (hf : r.fault = none)
    (hrun : replayRun s.arg.k (r.window.length * r.reps + 1) r { s with cur := s.arg.k, mark := false } = (q, t, .on))
    (hq : q.ended = true) : exec .replayEnd s =
      .next (settleOut s.arg.k ({ t with cur := s.cur, mark := s.mark }.onSlot s.arg.k (endReplay q))) := by
  have hexec : exec .replayEnd s = execReplayEnd s := rfl
  rw [hexec, execReplayEnd]
  simp only [hr, he, hf, hrun, hq]
  rfl

end Ends

/-- Settles O21: REP by what it captures, REPLAY_END by the registers that the replay owes. -/
theorem repCapturesItsWindow : Obligations.RepCapturesItsWindow := by
  unfold Obligations.RepCapturesItsWindow
  refine ⟨fun s t n r k p ws h hb hw _ => ?rep, fun s h => exec_replayEnd_none h, fun s t r q hr he hf hrun hq ht => ?ends⟩
  case rep =>
    have hexec : exec (.rep n r k p) s = issue (.rep n r k p) (repBody (n.toNat + 1) (r.toNat + 1) k.toNat p.toNat) s := rfl
    rw [issue_ready h, repBody_captures h.replay hb hw, conclude_after] at hexec
    refine ⟨_, captured ws (r.toNat + 1) k.toNat p.toNat (claiming ws (r.toNat + 1) k.toNat p.toNat t.me), hexec, ?replay,
      rfl, rfl, rfl, rfl, rfl, rfl, ?kept, fun x => ?owed⟩
    case replay =>
      rw [State.post_me, State.me_onMe]
      rfl
    case kept =>
      rw [State.post_me, State.me_onMe]
      exact RegsKept.capturing ..
    case owed => exact mem_replayWrites.trans (by simp only [List.mem_map, exists_exists_and_eq_and])
  case ends =>
    refine ⟨_, exec_replayEnd_ends hr he hf hrun hq, ?_⟩
    generalize hu : settleOut s.arg.k _ = u
    have hstill : (u.slot s.arg.k).still = (endReplay q (t.slot s.arg.k)).still := by
      rw [← hu, State.still_slot (settleOut_still ..), State.slot_onSlot_self]
      rfl
    have hend : RegsKept (fun _ => False) (mergeReplay q (t.slot s.arg.k).replayOwed (t.slot s.arg.k))
        (endReplay q (t.slot s.arg.k)) := by
      rw [endReplay_eq ht]
      exact .of_files rfl rfl rfl rfl rfl
    have hkept := hend.trans (.of_still hstill _)
    have hholds : ∀ a ∈ (t.slot s.arg.k).replayOwed, (q.valOf a).InFile → (u.slot s.arg.k).Holds (q.valOf a) := fun a ha hin =>
      hkept.holds hin not_false (mergeReplay_holds q hin ha _)
    rw [endReplay_eq ht] at hstill
    exact ⟨(congrArg Slot.replay hstill :), fun n hn ha => hholds ⟨0, n⟩ ha hn, fun n hn ha => hholds ⟨1, n⟩ ha hn,
      fun n hn ha => hholds ⟨2, n⟩ ha hn,
      fun hfiles => (RegsKept.mergeReplay q hfiles _).trans (hkept.mono fun _ => False.elim)⟩

end Sys2Proof.Machine
end

section
/-! The lanes of a vector register: what each lane holds after it is built from lanes, and what an operation made lane after lane
keeps (R169, R170). -/

namespace Sys2Proof.Machine

/-! ### Lanes read back -/

section Lanes
variable {p : BitVec 16} {old v : VReg} {j : Nat}

theorem lane_eq_vget (v : VReg) (j : Nat) : lane v j = vget v j 0#32 := by
  rw [lane, List.getD_eq_getElem?_getD, Vector.getElem?_toList, vget]

@[simp] theorem lane_lanes (f : Nat → BitVec 32) (hj : j < 16) : lane (lanes f) j = f j := by
  simp [lane_eq_vget, vget, lanes, hj]

theorem lane_vregOf (xs : List (BitVec 32)) (hj : j < 16) : lane (vregOf xs) j = xs.getD j 0#32 := by
  simp [lane_eq_vget, vget, vregOf, hj]

/-- Active lanes are new, the others old (R170). -/
@[simp] theorem lane_permLanes (f : Nat → BitVec 32) (hj : j < 16) :
    lane (permLanes p old f) j = if p.getLsbD j then f j else lane old j := lane_lanes _ hj

theorem lane_vset (x : BitVec 32) {l : Nat} (hl : l < 16) : lane (vset v l x) j = if j = l then x else lane v j := by
  rw [lane_eq_vget, lane_eq_vget]
  split
  · next h => rw [h, vget_vset_self _ _ _ hl]
  · next h => exact vget_vset_ne _ _ _ h

end Lanes

/-! ### Lanes made one after another -/

section PerLane
variable {α : Type} {f : Nat → Fpu → BitVec 32 × Fpu} {p : BitVec 16} {old : VReg}

/-- What every lane keeps of the rounding environment, all lanes together keep. -/
theorem mapLanes_keeps (π : Fpu → α) (h : ∀ j c, π (f j c).2 = π c) (k : Nat) (js : List Nat) (c : Fpu) :
    π (mapLanes f k js c).2 = π c := by
  induction js generalizing k c with
  | nil => rfl
  | cons j js ih => exact (ih (k + 1) (f j c).2).trans (h j c)

/-- Each lane is its function's value from some state that earlier lanes left. -/
theorem getD_mapLanes (k : Nat) (js : List Nat) (c : Fpu) {j : Nat} (hj : j < js.length) (d : BitVec 32) :
    ∃ c', (mapLanes f k js c).1.getD j d = (f js[j] c').1 := by
  induction js generalizing k c j with
  | nil => exact absurd hj (Nat.not_lt_zero _)
  | cons i js ih =>
    cases j with
    | zero => exact ⟨c, rfl⟩
    | succ j => exact ih (k + 1) (f i c).2 (Nat.lt_of_succ_lt_succ hj)

/-- Lanes that do not touch the rounding environment are independent. -/
theorem mapLanes_pure (g : Nat → BitVec 32) (k : Nat) (js : List Nat) (c : Fpu) :
    mapLanes (fun j c => (g j, c)) k js c = (js.map g, c) := by
  induction js generalizing k with
  | nil => rfl
  | cons j js ih => simp only [mapLanes, ih, List.map_cons]

theorem perLane_keeps (π : Fpu → α) (h : ∀ j c, π (f j c).2 = π c) (c : Fpu) : π (perLane p old f c).2 = π c :=
  mapLanes_keeps (f := fun j c => if bit p j then f j c else (lane old j, c)) π
    (fun j c => by split <;> [exact h j c; rfl]) 0 (upTo 16) c

/-- An inactive lane keeps its bits (R170). -/
theorem lane_perLane_inactive (c : Fpu) {j : Nat} (hj : j < 16) (hp : p.getLsbD j = false) :
    lane (perLane p old f c).1 j = lane old j := by
  obtain ⟨c', hc'⟩ := getD_mapLanes (f := fun j c => if bit p j then f j c else (lane old j, c)) 0 (upTo 16) c
    (by simpa [upTo] using hj) 0#32
  have hbit : bit p j = false := hp
  exact (lane_vregOf _ hj).trans (hc'.trans (by simp [upTo, hbit]))

/-- Lane by lane without a change to the rounding environment. -/
theorem perLane_pure {g : Nat → BitVec 32} (h : ∀ j c, f j c = (g j, c)) (c : Fpu) :
    perLane p old f c = (permLanes p old g, c) := by
  have hf : (fun j c => if bit p j then f j c else (lane old j, c)) = fun j c => (if bit p j then g j else lane old j, c) := by
    funext j c
    rw [h]
    split <;> rfl
  rw [perLane, hf, mapLanes_pure]
  refine Prod.ext (congrArg Vector.ofFn (funext fun j => ?_)) rfl
  simp [upTo]

end PerLane

end Sys2Proof.Machine
end

section
/-! Floating-point lanes (R174 to R176): the rounded operations take no narrowing trap, and VABS and VNEG act on the sign bits alone. -/

namespace Sys2Proof.Machine

/-! ### No narrowing trap -/

theorem trapAt_rcpVal (x : Val) (c : Fpu) : (rcpVal x c).2.trapAt = c.trapAt := by
  cases x with
  | nan s => exact c.trapAt_raiseIf ..
  | inf n => rfl
  | num n a =>
    simp only [rcpVal]
    split <;> rfl

theorem trapAt_rsqrtVal (x : Val) (c : Fpu) : (rsqrtVal x c).2.trapAt = c.trapAt := by
  cases x with
  | nan s => exact c.trapAt_raiseIf ..
  | inf n => cases n <;> rfl
  | num n a =>
    simp only [rsqrtVal]
    repeat' split
    all_goals rfl

theorem trapAt_exp2Val (x : Val) (c : Fpu) : (exp2Val x c).2.trapAt = c.trapAt := by
  cases x with
  | nan s => exact c.trapAt_raiseIf ..
  | inf n => cases n <;> rfl
  | num n a =>
    simp only [exp2Val]
    repeat' split
    all_goals rfl

theorem trapAt_fpUnary {g : Val → Fpu → Val × Fpu} (hg : ∀ x c, (g x c).2.trapAt = c.trapAt) (x : Nat) (c : Fpu) :
    (fpUnary g x c).2.trapAt = c.trapAt := (trapAt_roundTo ..).trans (hg ..)

/-- A lane of one or two elements sets no trap that its elements do not set. -/
theorem trapAt_onElems {f : Nat → Nat → Nat → Fpu → Nat × Fpu} (hf : ∀ x y z c, (f x y z c).2.trapAt = c.trapAt) (t : Bool)
    (a b d : BitVec 32) (c : Fpu) : (onElems t f a b d c).2.trapAt = c.trapAt := by
  cases t with
  | false => exact hf ..
  | true => exact (hf ..).trans (hf ..)

/-! ### The rounded operations (R174 to R176) -/

/-- A ready operation on floating-point elements rounds those of active lanes, with no narrowing trap, and keeps the other lanes. -/
theorem rounds_fpv {i : Instr} {s : State} {r : Rm} {t : Bool} {p : BitVec 3} {b a d : BitVec 4}
    {f : Nat → Nat → Nat → Fpu → Nat × Fpu} (he : exec i s = issue i (fpBody r fun sl c => fpv t p b a d sl c f) s)
    (hf : ∀ x y z c, (f x y z c).2.trapAt = c.trapAt) (h : Ready i s) :
    let y := fpLanes t (s.me.rp p.toNat) (s.me.rv d.toNat) (s.me.rv a.toNat) (s.me.rv b.toNat) f (fpuOf r s.me)
    y.2.trapAt = none ∧ RoundsTo i s [.v d.toNat y.1] y.2 ∧
      ∀ j, j < 16 → (s.me.rp p.toNat).getLsbD j = false → lane y.1 j = lane (s.me.rv d.toNat) j :=
  ⟨perLane_keeps Fpu.trapAt (fun _ _ => trapAt_onElems hf ..) _, roundsTo_of_fpBody he rfl h,
    fun _ hj hp => lane_perLane_inactive _ hj hp⟩

/-! ### Signs (R174) -/

/-- The number of the bits below bit n. -/
theorem toNat_mod_two_pow {w : Nat} (x : BitVec w) (n : Nat) (hn : n ≤ w) :
    x.toNat % 2 ^ n = (x &&& BitVec.ofNat w (2 ^ n - 1)).toNat := by
  have hlt : 2 ^ n - 1 < 2 ^ w := Nat.lt_of_lt_of_le (Nat.sub_lt (Nat.two_pow_pos n) Nat.one_pos) (Nat.pow_le_pow_right (by decide) hn)
  rw [BitVec.toNat_and, BitVec.toNat_ofNat, Nat.mod_eq_of_lt hlt, Nat.and_two_pow_sub_one_eq_mod]

/-- A number with its top bit inverted. -/
theorem toNat_add_two_pow_mod {w n : Nat} (hw : w = n + 1) (x : BitVec w) :
    (x.toNat + 2 ^ n) % 2 ^ w = (x ^^^ BitVec.twoPow w n).toNat := by
  subst hw
  refine Nat.eq_of_testBit_eq fun i => ?_
  rw [BitVec.testBit_toNat, BitVec.getLsbD_xor, BitVec.getLsbD_twoPow, Nat.testBit_mod_two_pow, Nat.add_comm x.toNat]
  rcases Nat.lt_trichotomy i n with h | rfl | h
  · rw [Nat.testBit_two_pow_add_gt h, BitVec.testBit_toNat]
    simp [show i < n + 1 by omega, show n ≠ i by omega]
  · rw [Nat.testBit_two_pow_add_eq, BitVec.testBit_toNat]
    simp
  · have hge : x.getLsbD i = false := BitVec.getLsbD_of_ge x i h
    simp [hge, show ¬ i < n + 1 by omega, show n ≠ i by omega]

/-- A lane is its high half before its low half. -/
theorem halves_append (a : BitVec 32) : a.extractLsb' 16 16 ++ a.extractLsb' 0 16 = a :=
  (BitVec.extractLsb'_append_extractLsb'_eq_extractLsb' (start₁ := 0) (len₁ := 16) (len₂ := 16) rfl).trans
    BitVec.extractLsb'_eq_self

/-- A function of the bits of an FP32 element acts on a lane. -/
theorem onElems_single {f : Nat → Nat} {g : BitVec 32 → BitVec 32} (h : ∀ x : BitVec 32, f x.toNat = (g x).toNat)
    (a b d : BitVec 32) (c : Fpu) : onElems false (fun x _ _ c => (f x, c)) a b d c = (g a, c) := by
  simp [onElems, h]

/-- A function of the bits of BF16 elements acts on the halves of a lane. -/
theorem onElems_pair {f : Nat → Nat} {g : BitVec 16 → BitVec 16} (h : ∀ x : BitVec 16, f x.toNat = (g x).toNat) (a b d : BitVec 32)
    (c : Fpu) : onElems true (fun x _ _ c => (f x, c)) a b d c = (g (a.extractLsb' 16 16) ++ g (a.extractLsb' 0 16), c) := by
  have hlo : f (slice a 15 0) = (g (a.extractLsb' 0 16)).toNat := h (a.extractLsb' 0 16)
  have hhi : f (slice a 31 16) = (g (a.extractLsb' 16 16)).toNat := h (a.extractLsb' 16 16)
  refine Prod.ext (BitVec.eq_of_toNat_eq ?_) rfl
  rw [BitVec.toNat_append, Nat.shiftLeft_eq, Nat.mul_comm, ← Nat.two_pow_add_eq_or_of_lt (BitVec.isLt _)]
  simp only [onElems, if_true, hlo, hhi, BitVec.toNat_ofNat]
  omega

/-- The mask of the bits below the signs of a lane's elements. -/
def absMask (t : Bool) : BitVec 32 := if t then 0x7fff7fff#32 else 0x7fffffff#32

/-- The mask of the signs of a lane's elements. -/
def signMask (t : Bool) : BitVec 32 := if t then 0x80008000#32 else 0x80000000#32

/-- VABS clears the signs of a lane's elements. -/
theorem onElems_abs (t : Bool) (a b d : BitVec 32) (c : Fpu) :
    onElems t (fun x _ _ c => (x % 2 ^ ((laneFloat t).bits - 1), c)) a b d c = (a &&& absMask t, c) := by
  cases t with
  | false => exact onElems_single (g := (· &&& 0x7fffffff#32)) (fun x => toNat_mod_two_pow x 31 (by decide)) a b d c
  | true =>
    have hmask : absMask true = 0x7fff#16 ++ 0x7fff#16 := by decide
    refine (onElems_pair (g := (· &&& 0x7fff#16)) (fun x => toNat_mod_two_pow x 15 (by decide)) a b d c).trans ?_
    rw [← BitVec.and_append, halves_append, hmask]

/-- VNEG inverts the signs of a lane's elements. -/
theorem onElems_neg (t : Bool) (a b d : BitVec 32) (c : Fpu) :
    onElems t (fun x _ _ c => ((x + 2 ^ ((laneFloat t).bits - 1)) % 2 ^ (laneFloat t).bits, c)) a b d c = (a ^^^ signMask t, c) := by
  cases t with
  | false =>
    have hmask : signMask false = BitVec.twoPow 32 31 := by decide
    rw [hmask]
    exact onElems_single (f := fun x => (x + 2 ^ 31) % 2 ^ 32) (g := (· ^^^ BitVec.twoPow 32 31))
      (toNat_add_two_pow_mod (n := 31) rfl) a b d c
  | true =>
    have hmask : signMask true = BitVec.twoPow 16 15 ++ BitVec.twoPow 16 15 := by decide
    refine (onElems_pair (f := fun x => (x + 2 ^ 15) % 2 ^ 16) (g := (· ^^^ BitVec.twoPow 16 15))
      (toNat_add_two_pow_mod (n := 15) rfl) a b d c).trans ?_
    rw [← BitVec.xor_append, halves_append, hmask]

/-- Flags and a counter that have not changed leave the slot as it is. -/
theorem onMe_unchangedFpu (s : State) (r : Rm) (f : Slot → Slot) (hf : (f s.me).sys = s.me.sys) :
    (s.onMe fun sl => (f sl).absorb (fpuOf r s.me)) = s.onMe f := by
  have hst : s.me.sys.st ||| (0 : BitVec 6).setWidth 64 = s.me.sys.st := BitVec.or_zero
  refine State.onMe_congr ?_
  simp only [Slot.absorb, Slot.raise, Slot.onSys, fpuOf, hf, hst]
  rw [← hf]

/-- An instruction that raises no flag and draws nothing writes its register alone. -/
theorem writes_of_roundsTo {i : Instr} {s : State} {r : Rm} {x : RegVal} (h : RoundsTo i s [x] (fpuOf r s.me)) :
    Writes i s fun sl => sl.wr x :=
  h.trans (congrArg (fun t => Host.Outcome.next (completeAt s.me.pc (s.me.pc + BitVec.ofNat 64 i.len) t))
    (onMe_unchangedFpu s r (·.wr x) (Slot.sys_wr ..)))

/-- A ready operation on the bits of floating-point elements writes those of active lanes, and no flag. -/
theorem writes_fpv_bits {i : Instr} {s : State} {t : Bool} {p : BitVec 3} {a d : BitVec 4} {f : Nat → Nat → Nat → Fpu → Nat × Fpu}
    {g : BitVec 32 → BitVec 32} (he : exec i s = issue i (fpBody .rne fun sl c => fpv t p a a d sl c f) s)
    (hf : ∀ a b d c, onElems t f a b d c = (g a, c)) (h : Ready i s) : ∃ v : VReg, (Writes i s fun sl => sl.wv d.toNat v) ∧
      ∀ j, j < 16 → lane v j =
        if (s.me.rp p.toNat).getLsbD j then g (lane (s.me.rv a.toNat) j) else lane (s.me.rv d.toNat) j := by
  have hlanes : fpLanes t (s.me.rp p.toNat) (s.me.rv d.toNat) (s.me.rv a.toNat) (s.me.rv a.toNat) f (fpuOf .rne s.me) =
      (permLanes (s.me.rp p.toNat) (s.me.rv d.toNat) fun j => g (lane (s.me.rv a.toNat) j), fpuOf .rne s.me) := by
    rw [fpLanes, perLane_pure fun j c => hf (lane (s.me.rv a.toNat) j) _ _ c]
  have hpure : fpv t p a a d s.me (fpuOf .rne s.me) f =
      ([.v d.toNat (permLanes (s.me.rp p.toNat) (s.me.rv d.toNat) fun j => g (lane (s.me.rv a.toNat) j))], fpuOf .rne s.me) := by
    simp only [fpv, hlanes]
  exact ⟨_, writes_of_roundsTo (roundsTo_of_fpBody he hpure h), fun _ hj => lane_permLanes _ hj⟩

/-- Settles O26: the rounded operations by one lemma, the signs by another. -/
theorem vectorFloatLanes : Obligations.VectorFloatLanes := by
  unfold Obligations.VectorFloatLanes
  intro s r t p b a d pr fin sign
  refine ⟨?vadd, ?vsub, ?vmul, ?vfma, ?vfms, ?vmin, ?vmax, ?vrcp, ?vrsq, ?vexp2, ?vabs, ?vneg⟩
  case vadd | vsub | vmul | vfma | vfms => exact rounds_fpv rfl fun _ _ _ _ => trapAt_fpOp ..
  case vmin | vmax => exact rounds_fpv rfl fun _ _ _ _ => trapAt_minMax ..
  case vrcp => exact rounds_fpv rfl fun _ _ _ => trapAt_fpUnary trapAt_rcpVal _
  case vrsq => exact rounds_fpv rfl fun _ _ _ => trapAt_fpUnary trapAt_rsqrtVal _
  case vexp2 => exact rounds_fpv rfl fun _ _ _ => trapAt_fpUnary trapAt_exp2Val _
  case vabs => exact writes_fpv_bits rfl (onElems_abs t)
  case vneg => exact writes_fpv_bits rfl (onElems_neg t)

end Sys2Proof.Machine
end

section
/-! Integer lanes (R177): the operations on elements as operations on words of their width, and the elements of a lane by their bits. -/

namespace Sys2Proof.Machine

/-- The operations of major 0x21 on elements as words of their width (R177). -/
def laneWord (op : LaneOp) {w : Nat} (n m d : BitVec w) : BitVec w :=
  match op with
  | .add => n + m
  | .sub => n - m
  | .mul => n * m
  | .mad => d + n * m
  | .min => if m.slt n then m else n
  | .max => if n.slt m then m else n
  | .and => n &&& m
  | .or => n ||| m
  | .xor => n ^^^ m
  | .sll => n <<< (m.toNat % w)
  | .srl => n >>> (m.toNat % w)
  | .sra => n.sshiftRight (m.toNat % w)
  | .abs => if n.msb then -n else n

/-! ### One element -/

/-- An integer taken modulo 2^w, as the model writes it. -/
theorem toNat_emod_two_pow (w : Nat) (i : Int) : (i % (2 ^ w : Int)).toNat = (BitVec.ofInt w i).toNat := by
  rw [BitVec.toNat_ofInt]
  push_cast
  rfl

section Elem
variable {k : Nat} (n m d : BitVec (k + 1))

theorem laneElem_sub : laneElem .sub (k + 1) n.toNat m.toNat d.toNat = (n - m).toNat := by
  have h : BitVec.ofInt (k + 1) ((n.toNat : Int) - m.toNat) = n - m := by
    rw [Int.sub_eq_add_neg, BitVec.ofInt_add, BitVec.ofInt_neg, BitVec.ofInt_natCast, BitVec.ofInt_natCast, BitVec.ofNat_toNat,
      BitVec.ofNat_toNat, BitVec.setWidth_eq, BitVec.setWidth_eq, BitVec.sub_eq_add_neg]
  exact (toNat_emod_two_pow ..).trans (congrArg _ h)

theorem laneElem_sra : laneElem .sra (k + 1) n.toNat m.toNat d.toNat = (n.sshiftRight (m.toNat % (k + 1))).toNat := by
  refine (toNat_emod_two_pow ..).trans (congrArg (fun i => (BitVec.ofInt (k + 1) i).toNat) ?_)
  rw [signed_toNat, Int.shiftRight_eq_div_pow]
  push_cast
  rfl

theorem laneElem_abs : laneElem .abs (k + 1) n.toNat m.toNat d.toNat = (if n.msb then -n else n).toNat := by
  refine (toNat_emod_two_pow ..).trans (congrArg BitVec.toNat ?_)
  rw [signed_toNat, apply_ite (BitVec.ofInt (k + 1)), BitVec.ofInt_neg, BitVec.ofInt_toInt, BitVec.msb_eq_toInt]
  simp only [decide_eq_true_eq]

/-- The model's operation on element codes is that on words. -/
theorem laneElem_eq (op : LaneOp) : laneElem op (k + 1) n.toNat m.toNat d.toNat = (laneWord op n m d).toNat := by
  cases op with
  | add => exact (BitVec.toNat_add ..).symm
  | sub => exact laneElem_sub ..
  | mul => exact (BitVec.toNat_mul ..).symm
  | mad =>
    rw [laneWord, BitVec.toNat_add, BitVec.toNat_mul, Nat.add_mod_mod]
    rfl
  | min | max =>
    simp only [laneElem, laneWord, signed_toNat, BitVec.slt_iff_toInt_lt, apply_ite BitVec.toNat]
  | and => exact (BitVec.toNat_and ..).symm
  | or => exact (BitVec.toNat_or ..).symm
  | xor => exact (BitVec.toNat_xor ..).symm
  | sll =>
    rw [laneWord, BitVec.toNat_shiftLeft, Nat.shiftLeft_eq]
    rfl
  | srl =>
    rw [laneWord, BitVec.toNat_ushiftRight, Nat.shiftRight_eq_div_pow]
    rfl
  | sra => exact laneElem_sra ..
  | abs => exact laneElem_abs ..

end Elem

/-! ### The elements of a lane (R169) -/

/-- Element e of a number, as a word. -/
def elemOf (w e x : Nat) : BitVec w := BitVec.ofNat w (x / 2 ^ (w * e))

theorem elemOf_zero (w x : Nat) : elemOf w 0 x = BitVec.ofNat w x := by simp [elemOf]

theorem elemOf_succ (w e x : Nat) : elemOf w (e + 1) x = elemOf w e (x / 2 ^ w) := by
  rw [elemOf, elemOf, Nat.div_div_eq_div_mul, ← Nat.pow_add, Nat.mul_succ, Nat.add_comm]

/-- Element e of a lane's bits. -/
theorem extractLsb'_eq_elemOf (w e : Nat) (x : BitVec 32) : x.extractLsb' (w * e) w = elemOf w e x.toNat := by
  rw [BitVec.extractLsb', Nat.shiftRight_eq_div_pow, elemOf]

/-- Element e of a number of 32 bits, where it lies in them. -/
theorem extractLsb'_ofNat (w e x : Nat) (h : w * e + w ≤ 32) : (BitVec.ofNat 32 x).extractLsb' (w * e) w = elemOf w e x := by
  refine BitVec.eq_of_getLsbD_eq fun i hi => ?_
  have hin : w * e + i < 32 := by omega
  rw [BitVec.getLsbD_extractLsb', elemOf, BitVec.getLsbD_ofNat, BitVec.getLsbD_ofNat, Nat.testBit_div_two_pow, Nat.add_comm i]
  simp only [hi, hin, decide_true, Bool.true_and]

/-- Each element of the lane made is the operation on the elements of its sources at the same place. -/
theorem elemOf_laneElems (op : LaneOp) {k count e : Nat} (a b d : Nat) (he : e < count) :
    elemOf (k + 1) e (laneElems op (k + 1) a b d count) =
      laneWord op (elemOf (k + 1) e a) (elemOf (k + 1) e b) (elemOf (k + 1) e d) := by
  induction count generalizing e a b d with
  | zero => exact absurd he (Nat.not_lt_zero e)
  | succ count ih =>
    have hlow : ∀ x : Nat, x % 2 ^ (k + 1) = (BitVec.ofNat (k + 1) x).toNat := fun x => (BitVec.toNat_ofNat ..).symm
    rw [laneElems, hlow a, hlow b, hlow d, laneElem_eq]
    cases e with
    | zero =>
      simp only [elemOf_zero]
      refine BitVec.eq_of_toNat_eq ?_
      rw [BitVec.toNat_ofNat, Nat.add_mul_mod_self_left, Nat.mod_eq_of_lt (BitVec.isLt _)]
    | succ e =>
      simp only [elemOf_succ]
      rw [Nat.add_mul_div_left _ _ (Nat.two_pow_pos _), Nat.div_eq_of_lt (BitVec.isLt _), Nat.zero_add]
      exact ih _ _ _ (Nat.lt_of_succ_lt_succ he)

/-- Each element of an active lane is the operation on the elements at its place (R177). -/
theorem extractLsb'_lane_intLanes (op : LaneOp) (l : Lanes) {p : BitVec 16} (old a b : VReg) {j e : Nat} (hj : j < 16)
    (hp : p.getLsbD j = true) (he : e < 32 / lanesWidth l) :
    (lane (intLanes op l p old a b) j).extractLsb' (lanesWidth l * e) (lanesWidth l) =
      laneWord op ((lane a j).extractLsb' (lanesWidth l * e) (lanesWidth l))
        ((lane b j).extractLsb' (lanesWidth l * e) (lanesWidth l)) ((lane old j).extractLsb' (lanesWidth l * e) (lanesWidth l)) := by
  have hbit : bit p j = true := hp
  obtain ⟨k, hk⟩ : ∃ k, lanesWidth l = k + 1 := by cases l <;> exact ⟨_, rfl⟩
  have hin : (k + 1) * e + (k + 1) ≤ 32 := by
    rw [hk] at he
    rw [← Nat.mul_succ, Nat.mul_comm]
    exact (Nat.le_div_iff_mul_le (Nat.succ_pos k)).1 he
  rw [intLanes, lane_lanes _ hj, if_pos hbit]
  generalize lanesWidth l = w at hk he ⊢
  subst hk
  rw [extractLsb'_ofNat _ _ _ hin, elemOf_laneElems op _ _ _ he]
  simp only [extractLsb'_eq_elemOf]

theorem lane_intLanes_inactive (op : LaneOp) (l : Lanes) {p : BitVec 16} (old a b : VReg) {j : Nat} (hj : j < 16)
    (hp : p.getLsbD j = false) : lane (intLanes op l p old a b) j = lane old j := by
  have hbit : bit p j = false := hp
  rw [intLanes, lane_lanes _ hj, hbit, if_neg Bool.false_ne_true]

/-- A ready integer lane operation writes its register: the elements of active lanes new, the other lanes as they were (R170, R177). -/
theorem writes_intv {i : Instr} {s : State} {op : LaneOp} {l : Lanes} {p : BitVec 3} {b a d : BitVec 4}
    (he : exec i s = issue i (intv op l p b a d) s) (h : Ready i s) : ∃ v : VReg, (Writes i s fun sl => sl.wv d.toNat v) ∧
      ∀ j, j < 16 →
        ((s.me.rp p.toNat).getLsbD j = false → lane v j = lane (s.me.rv d.toNat) j) ∧
        ((s.me.rp p.toNat).getLsbD j = true → ∀ e, e < 32 / lanesWidth l →
          (lane v j).extractLsb' (lanesWidth l * e) (lanesWidth l) =
            laneWord op ((lane (s.me.rv a.toNat) j).extractLsb' (lanesWidth l * e) (lanesWidth l))
              ((lane (s.me.rv b.toNat) j).extractLsb' (lanesWidth l * e) (lanesWidth l))
              ((lane (s.me.rv d.toNat) j).extractLsb' (lanesWidth l * e) (lanesWidth l))) :=
  ⟨intLanes op l (s.me.rp p.toNat) (s.me.rv d.toNat) (s.me.rv a.toNat) (s.me.rv b.toNat), writes_of_onRegs he rfl h,
    fun _ hj => ⟨lane_intLanes_inactive op l _ _ _ hj,
      fun hp _ he => extractLsb'_lane_intLanes op l _ _ _ hj hp he⟩⟩

/-- Settles O27: every operation by one lemma, at each of the three widths. -/
theorem vectorIntegerLanes : Obligations.VectorIntegerLanes := by
  unfold Obligations.VectorIntegerLanes
  intro s l p b a d
  have viadd := writes_intv (i := .viadd l p b a d) (s := s) (op := .add) rfl
  have visub := writes_intv (i := .visub l p b a d) (s := s) (op := .sub) rfl
  have vimul := writes_intv (i := .vimul l p b a d) (s := s) (op := .mul) rfl
  have vimad := writes_intv (i := .vimad l p b a d) (s := s) (op := .mad) rfl
  have vimin := writes_intv (i := .vimin l p b a d) (s := s) (op := .min) rfl
  have vimax := writes_intv (i := .vimax l p b a d) (s := s) (op := .max) rfl
  have vand := writes_intv (i := .vand l p b a d) (s := s) (op := .and) rfl
  have vor := writes_intv (i := .vor l p b a d) (s := s) (op := .or) rfl
  have vxor := writes_intv (i := .vxor l p b a d) (s := s) (op := .xor) rfl
  have vsll := writes_intv (i := .vsll l p b a d) (s := s) (op := .sll) rfl
  have vsrl := writes_intv (i := .vsrl l p b a d) (s := s) (op := .srl) rfl
  have vsra := writes_intv (i := .vsra l p b a d) (s := s) (op := .sra) rfl
  have viabs := writes_intv (i := .viabs l p a d) (s := s) (op := .abs) rfl
  cases l <;> exact ⟨viadd, visub, vimul, vimad, vimin, vimax, vand, vor, vxor, vsll, vsrl, vsra, viabs⟩

end Sys2Proof.Machine
end

section
/-! Moves of lanes and comparisons lane by lane (R178 to R181). -/

namespace Sys2Proof.Machine

/-! ### A vector register written -/

/-- A ready instruction whose effect is on one vector register writes a value that has any property of the one it computes. -/
theorem writes_wv_such {i : Instr} {s : State} {d : BitVec 4} {f : Slot → VReg} {P : VReg → Prop}
    (he : exec i s = issue i (onRegs fun sl => sl.wv d.toNat (f sl)) s) (hP : P (f s.me)) (h : Ready i s) :
    ∃ v : VReg, (Writes i s fun sl => sl.wv d.toNat v) ∧ P v :=
  ⟨_, writes_of_onRegs he rfl h, hP⟩

/-- VSLIDE's lane of the two sources taken as one sequence of 32 (R180). -/
theorem slideLane_eq (a b : VReg) {m : Int} (hlo : -15 ≤ m) {j : Nat} :
    slideLane a b m j =
      if 0 ≤ m then (if (j : Int) + m < 16 then lane a ((j : Int) + m).toNat else lane b ((j : Int) + m - 16).toNat)
      else (if (j : Int) + m + 16 < 16 then lane b ((j : Int) + m + 16).toNat else lane a ((j : Int) + m).toNat) := by
  rw [slideLane]
  split
  · have hk : ((j : Int) + m).toNat = j + m.toNat := by omega
    have hk' : ((j : Int) + m - 16).toNat = j + m.toNat - 16 := by omega
    rw [hk, hk']
    exact if_congr (by omega) rfl rfl
  · have hk : ((j : Int) + m).toNat = ((j : Int) + m + 16).toNat - 16 := by omega
    rw [hk]
    exact if_congr (by omega) rfl rfl

/-! ### Comparisons under a predicate (R178) -/

section Folds
variable {α β : Type} {n : Nat}

/-- A fold over pairs whose parts do not meet. -/
theorem foldl_pair (q : Nat → Bool) (u : α → Nat → α) (g : β → Nat → β) (l : List Nat) (x : α) (c : β) :
    l.foldl (fun acc j => if q j then (u acc.1 j, g acc.2 j) else acc) (x, c) =
      (l.foldl (fun x j => if q j then u x j else x) x, l.foldl (fun c j => if q j then g c j else c) c) := by
  induction l generalizing x c with
  | nil => rfl
  | cons j l ih =>
    simp only [List.foldl_cons]
    cases q j <;> exact ih ..

/-- What every step of a fold under a test keeps, the fold keeps. -/
theorem foldl_if_keeps (π : α → β) (q : Nat → Bool) {g : α → Nat → α} (h : ∀ c j, π (g c j) = π c) (l : List Nat) (c : α) :
    π (l.foldl (fun c j => if q j then g c j else c) c) = π c :=
  foldl_keeps π (fun c j => if q j then g c j else c) (fun c j => by split <;> [exact h c j; rfl]) l c

/-- Bits set where a test says so. -/
theorem getLsbD_foldl_setBit_if (q f : Nat → Bool) (l : List Nat) (w : BitVec n) {j : Nat} (hj : j < n) :
    (l.foldl (fun w t => if q t then setBit w t (f t) else w) w).getLsbD j = if j ∈ l ∧ q j then f j else w.getLsbD j := by
  induction l generalizing w with
  | nil => simp
  | cons t l ih =>
    rw [List.foldl_cons, ih]
    by_cases hl : j ∈ l ∧ q j
    · simp [hl]
    · rw [if_neg hl]
      by_cases ht : j = t
      · subst ht
        cases hq : q j with
        | false => simp
        | true => rw [if_pos rfl, getLsbD_setBit, if_pos rfl, decide_eq_true hj, Bool.true_and, if_pos ⟨List.mem_cons_self, rfl⟩]
      · have hmem : (j ∈ t :: l ∧ q j) ↔ (j ∈ l ∧ q j) := by simp [ht]
        rw [if_neg (hmem.not.2 hl)]
        split
        · rw [getLsbD_setBit, if_neg ht]
        · rfl

end Folds

section Compare
variable (f : FloatFmt) (cc : Cond) (x y : Nat) (c : Fpu)

theorem rnc_fpCompare : (fpCompare f cc x y c).2.rnc = c.rnc := by
  have h : ∀ b, (c.raiseIf b flNV).rnc = c.rnc := fun b => by cases b <;> rfl
  exact h _

/-- The flags of a comparison join those that stood before (R168). -/
theorem getLsbD_flags_fpCompare {c₀ : Fpu} (h : c₀.flags = 0#6) (m : Nat) :
    (fpCompare f cc x y c).2.flags.getLsbD m = (c.flags.getLsbD m || (fpCompare f cc x y c₀).2.flags.getLsbD m) := by
  have hraise : ∀ b, (c.raiseIf b flNV).flags.getLsbD m = (c.flags.getLsbD m || (c₀.raiseIf b flNV).flags.getLsbD m) := fun b => by
    cases b <;> simp [Fpu.raiseIf, Fpu.raise, setBit, h]
  exact hraise _

end Compare

section Vcmp
variable {cc : Cond} {p old : BitVec 16} {a b : VReg} {c : Fpu}

/-- VCMP of integers: the bits of active lanes, and no flag (R178). -/
theorem vcmpVal_int : vcmpVal true cc p old a b c = ((upTo 16).foldl (fun w j => if bit p j then
    setBit w j (intCompare cc true (laneAsWord (lane a j)) (laneAsWord (lane b j))) else w) old, c) := by
  refine (foldl_pair (bit p) (fun w j => setBit w j (intCompare cc true (laneAsWord (lane a j)) (laneAsWord (lane b j))))
    (fun c _ => c) (upTo 16) old c).trans (Prod.ext rfl ?_)
  exact foldl_if_keeps id (bit p) (fun _ _ => rfl) (upTo 16) c

/-- VCMP of FP32 lanes: the bits of active lanes, and their flags one after another (R178). -/
theorem vcmpVal_float : vcmpVal false cc p old a b c = ((upTo 16).foldl (fun w j => if bit p j then
    setBit w j (fpCompare fp32 cc (lane a j).toNat (lane b j).toNat c).1 else w) old, (upTo 16).foldl (fun c j => if bit p j then
      (fpCompare fp32 cc (lane a j).toNat (lane b j).toNat c).2 else c) c) :=
  foldl_pair (bit p) (fun w j => setBit w j (fpCompare fp32 cc (lane a j).toNat (lane b j).toNat c).1)
    (fun c j => (fpCompare fp32 cc (lane a j).toNat (lane b j).toNat c).2) (upTo 16) old c

/-- What every comparison keeps of the rounding environment, VCMP keeps. -/
theorem vcmpVal_keeps {α : Type} (π : Fpu → α) (h : ∀ x y c, π (fpCompare fp32 cc x y c).2 = π c) :
    π (vcmpVal false cc p old a b c).2 = π c := by
  rw [vcmpVal_float]
  exact foldl_if_keeps π (bit p) (fun c j => h (lane a j).toNat (lane b j).toNat c) (upTo 16) c

/-- The bit of a lane is the outcome of its comparison where it is active, and stays elsewhere. -/
theorem getLsbD_vcmpVal_float {j : Nat} (hj : j < 16) : (vcmpVal false cc p old a b c).1.getLsbD j =
    if p.getLsbD j then (fpCompare fp32 cc (lane a j).toNat (lane b j).toNat c).1 else old.getLsbD j := by
  rw [vcmpVal_float, getLsbD_foldl_setBit_if (bit p) _ _ _ hj]
  exact if_congr ⟨And.right, fun h => ⟨List.mem_range.2 hj, h⟩⟩ rfl rfl

theorem getLsbD_vcmpVal_int {j : Nat} (hj : j < 16) : (vcmpVal true cc p old a b c).1.getLsbD j =
    if p.getLsbD j then intCompare cc true (laneAsWord (lane a j)) (laneAsWord (lane b j)) else old.getLsbD j := by
  rw [vcmpVal_int, getLsbD_foldl_setBit_if (bit p) _ _ _ hj]
  exact if_congr ⟨And.right, fun h => ⟨List.mem_range.2 hj, h⟩⟩ rfl rfl

/-- The flags of comparisons one after another: those of every active lane alone. -/
theorem getLsbD_flags_foldl_fpCompare (q : Nat → Bool) (x y : Nat → Nat) {c₀ : Fpu} (h : c₀.flags = 0#6) (l : List Nat) (c : Fpu)
    (m : Nat) : (l.foldl (fun c j => if q j then (fpCompare fp32 cc (x j) (y j) c).2 else c) c).flags.getLsbD m =
      (c.flags.getLsbD m || l.any fun j => q j && (fpCompare fp32 cc (x j) (y j) c₀).2.flags.getLsbD m) := by
  induction l generalizing c with
  | nil => simp
  | cons j l ih =>
    rw [List.foldl_cons, ih, List.any_cons]
    cases q j with
    | false => simp
    | true => rw [if_pos rfl, getLsbD_flags_fpCompare fp32 cc _ _ c h, Bool.true_and, Bool.or_assoc]

theorem getLsbD_flags_vcmpVal (h : c.flags = 0#6) (m : Nat) : (vcmpVal false cc p old a b c).2.flags.getLsbD m =
    (upTo 16).any fun j => p.getLsbD j && (fpCompare fp32 cc (lane a j).toNat (lane b j).toNat c).2.flags.getLsbD m := by
  rw [vcmpVal_float]
  refine (getLsbD_flags_foldl_fpCompare (bit p) (fun j => (lane a j).toNat) (fun j => (lane b j).toNat) h (upTo 16) c m).trans ?_
  rw [h, BitVec.getLsbD_zero, Bool.false_or]
  rfl

end Vcmp

section Effects
variable {s : State} {cc : Cond} {p : BitVec 3} {b a : BitVec 4} {d : BitVec 3}

/-- A ready VCMP of integers writes its predicate alone (R178). -/
theorem writes_vcmp_int (h : Ready (.vcmp true cc p b a d) s) : Writes (.vcmp true cc p b a d) s fun sl => sl.wp d.toNat
    (vcmpVal true cc (s.me.rp p.toNat) (s.me.rp d.toNat) (s.me.rv a.toNat) (s.me.rv b.toNat) (fpuOf .rne s.me)).1 := by
  have he : exec (.vcmp true cc p b a d) s = issue (.vcmp true cc p b a d) (bodyVcmp true cc p b a d) s := rfl
  refine completes_of_next he ?_ h
  rw [bodyVcmp, vcmpVal_int]
  exact congrArg (·, Ending.next) (onMe_unchangedFpu s .rne (fun sl => sl.wp d.toNat _) (Slot.sys_wr ..))

/-- A ready VCMP of FP32 lanes writes its predicate and its flags (R178). -/
theorem rounds_vcmp_float (h : Ready (.vcmp false cc p b a d) s) :
    let y := vcmpVal false cc (s.me.rp p.toNat) (s.me.rp d.toNat) (s.me.rv a.toNat) (s.me.rv b.toNat) (fpuOf .rne s.me)
    RoundsTo (.vcmp false cc p b a d) s [.p d.toNat y.1] y.2 := by
  have he : exec (.vcmp false cc p b a d) s = issue (.vcmp false cc p b a d) (bodyVcmp false cc p b a d) s := rfl
  exact roundsTo_of_next he (vcmpVal_keeps Fpu.trapAt fun _ _ c => trapAt_fpCompare c ..) rfl h

end Effects

/-- Settles O28: the moves by the lanes that they make, VCMP by the outcomes and flags of its lanes. -/
theorem vectorMovesAndCompares : Obligations.VectorMovesAndCompares := by
  unfold Obligations.VectorMovesAndCompares
  intro s p q b a d l g m c pd x y old n fin act
  refine ⟨?vsel, ?vperm, ?vrev, fun hlo _ => ?vslide, ?vzip, ?vunzip, ?vbcast, ?viota, ?vmix, ?vins, ?vext,
    fun h _ => ?cmpInt, fun h => ?cmpFloat⟩
  case vsel => exact writes_wv_such rfl fun j hj => lane_lanes _ hj
  case vperm | vrev | vzip | vunzip | vbcast | viota | vmix => exact writes_wv_such rfl fun j hj => lane_permLanes _ hj
  case vslide =>
    refine writes_wv_such rfl fun j hj => ?_
    rw [lane_permLanes _ hj, slideLane_eq _ _ hlo]
  case vins => exact writes_wv_such rfl fun j hj => lane_vset _ l.isLt
  case vext => exact writes_wg_of_setG rfl rfl
  case cmpInt => exact ⟨_, writes_vcmp_int h, fun j hj => getLsbD_vcmpVal_int hj⟩
  case cmpFloat =>
    exact ⟨_, _, rounds_vcmp_float h, vcmpVal_keeps Fpu.trapAt fun _ _ c => trapAt_fpCompare c ..,
      vcmpVal_keeps Fpu.rnc (rnc_fpCompare _ _), getLsbD_flags_vcmpVal rfl, fun j hj => getLsbD_vcmpVal_float hj⟩

end Sys2Proof.Machine
end

section
/-! Reductions, scans and dot products (R182 to R188): none takes a narrowing trap, and the integer sums are the sums of the active
lanes. -/

namespace Sys2Proof.Machine

/-! ### The levels of the tree (R183) -/

/-- So many levels of the pairwise tree. -/
def redLevels (op : VRedOp) : Nat → List (BitVec 32) × Fpu → List (BitVec 32) × Fpu
  | 0, t => t
  | n + 1, t => redLevels op n (redLevel op t.1 t.2)

/-- VRED is four levels of the tree, with the one value they leave in lane 0. -/
theorem vredVal_eq (op : VRedOp) (p : BitVec 16) (a : VReg) (c : Fpu) : vredVal op p a c =
    (lanes fun j => if j = 0 then (if op = .fadd && p = 0#16 then 0#32 else (redLevels op 4 (redInputs op p a, c)).1.getD 0 0#32)
      else 0#32, (redLevels op 4 (redInputs op p a, c)).2) := by
  simp only [vredVal, redLevels]

/-- A level of the tree halves the number of values. -/
theorem length_redLevel (op : VRedOp) {k : Nat} {l : List (BitVec 32)} (hl : l.length = 2 * k) (c : Fpu) :
    (redLevel op l c).1.length = k := by
  induction k generalizing l c with
  | zero => rw [List.eq_nil_of_length_eq_zero hl]; rfl
  | succ k ih =>
    match l, hl with
    | x :: y :: t, hl => exact congrArg (· + 1) (ih (by simpa [Nat.mul_succ] using hl) (redCombine op x y c).2)

/-- The levels of the tree leave one value. -/
theorem length_redLevels (op : VRedOp) (n : Nat) {t : List (BitVec 32) × Fpu} (ht : t.1.length = 2 ^ n) :
    (redLevels op n t).1.length = 1 := by
  induction n generalizing t with
  | zero => exact ht
  | succ n ih => exact ih (length_redLevel op (by rw [ht, Nat.pow_succ']) t.2)

/-! ### What combines keep -/

section Keeps
variable {α : Type} {op : VRedOp}

/-- What every combine keeps of the rounding environment, a level of the tree keeps. -/
theorem redLevel_keeps (π : Fpu → α) (h : ∀ x y c, π (redCombine op x y c).2 = π c) :
    ∀ (l : List (BitVec 32)) (c : Fpu), π (redLevel op l c).2 = π c
  | [], _ | [_], _ => rfl
  | x :: y :: t, c => (redLevel_keeps π h t (redCombine op x y c).2).trans (h x y c)

theorem redLevels_keeps (π : Fpu → α) (h : ∀ x y c, π (redCombine op x y c).2 = π c) (n : Nat) (t : List (BitVec 32) × Fpu) :
    π (redLevels op n t).2 = π t.2 := by
  induction n generalizing t with
  | zero => rfl
  | succ n ih => exact (ih _).trans (redLevel_keeps π h ..)

theorem vredVal_keeps (π : Fpu → α) (h : ∀ x y c, π (redCombine op x y c).2 = π c) (p : BitVec 16) (a : VReg) (c : Fpu) :
    π (vredVal op p a c).2 = π c := by
  rw [vredVal_eq]
  exact redLevels_keeps π h 4 _

theorem scanFrom_keeps (π : Fpu → α) (h : ∀ x y c, π (redCombine op x y c).2 = π c) (x : BitVec 32) (l : List (BitVec 32)) (c : Fpu) :
    π (scanFrom op x l c).2 = π c := by
  induction l generalizing x c with
  | nil => rfl
  | cons t l ih => exact (ih ..).trans (h x t c)

theorem vscanVal_keeps (π : Fpu → α) (h : ∀ x y c, π (redCombine op x y c).2 = π c) (p : BitVec 16) (old a : VReg) (c : Fpu) :
    π (vscanVal op p old a c).2 = π c := by
  unfold vscanVal
  split
  · rfl
  · exact scanFrom_keeps π h ..

end Keeps

/-! ### No narrowing trap -/

theorem trapAt_redCombine (op : VRedOp) (x y : BitVec 32) (c : Fpu) : (redCombine op x y c).2.trapAt = c.trapAt := by
  cases op with
  | fadd => exact trapAt_fpOp c fp32 .add x.toNat y.toNat 0
  | fmin => exact trapAt_minMax c fp32 false x.toNat y.toNat
  | fmax => exact trapAt_minMax c fp32 true x.toNat y.toNat
  | iadd | imin | imax => rfl

theorem trapAt_dotProducts (xs ys : List Val) (c : Fpu) : (dotProducts xs ys c).2.trapAt = c.trapAt := by
  induction xs generalizing ys c with
  | nil => rfl
  | cons x xs ih =>
    cases ys with
    | nil => rfl
    | cons y ys => exact (ih ..).trans (trapAt_mulVal ..)

theorem trapAt_dotSum (ps : List Val) (acc : Val) (c : Fpu) : (dotSum ps acc c).2.trapAt = c.trapAt := by
  simp only [dotSum]
  repeat' split
  all_goals exact c.trapAt_raiseIf ..

/-- VDOT's lanes, an exact sum rounded once or an integer sum, set no trap (R187). -/
theorem trapAt_vdotVal (f : Fmt) (p : BitVec 16) (old a b : VReg) (x : Word) (c : Fpu) :
    (vdotVal f p old a b x c).2.trapAt = c.trapAt := by
  refine perLane_keeps Fpu.trapAt (fun j c => ?_) c
  dsimp only
  split
  · rfl
  · exact (trapAt_roundTo ..).trans ((trapAt_dotSum ..).trans ((Fpu.trapAt_raiseIf ..).trans (trapAt_dotProducts ..)))

/-! ### Integer sums -/

/-- What the lanes add to an integer sum: the active ones their values, the others nothing (R182, R183). -/
theorem redInputs_iadd (p : BitVec 16) (a : VReg) :
    redInputs .iadd p a = (List.range 16).map fun j => if p.getLsbD j then lane a j else 0#32 := rfl

/-- A level of the tree keeps the sum. -/
theorem foldl_redLevel_iadd : ∀ (l : List (BitVec 32)) (c : Fpu) (s : BitVec 32),
    (redLevel .iadd l c).1.foldl (· + ·) s = l.foldl (· + ·) s
  | [], _, _ | [_], _, _ => rfl
  | x :: y :: t, c, s =>
    (foldl_redLevel_iadd t c (s + (x + y))).trans (congrArg (t.foldl (· + ·)) (BitVec.add_assoc s x y).symm)

/-- All levels of the tree keep the sum. -/
theorem foldl_redLevels_iadd (n : Nat) (t : List (BitVec 32) × Fpu) (s : BitVec 32) :
    (redLevels .iadd n t).1.foldl (· + ·) s = t.1.foldl (· + ·) s := by
  induction n generalizing t with
  | zero => rfl
  | succ n ih => exact (ih _).trans (foldl_redLevel_iadd ..)

/-- The tree's one value is the sum of its inputs. -/
theorem getD_redLevels_iadd (n : Nat) {l : List (BitVec 32)} (hl : l.length = 2 ^ n) (c : Fpu) :
    (redLevels .iadd n (l, c)).1.getD 0 0#32 = l.foldl (· + ·) 0#32 := by
  obtain ⟨x, hx⟩ := List.length_eq_one_iff.1 (length_redLevels .iadd n (t := (l, c)) hl)
  rw [← foldl_redLevels_iadd n (l, c) 0#32, hx]
  exact (BitVec.zero_add x).symm

/-- What a scan leaves in each lane is the sum of the lanes up to it. -/
theorem getD_scanFrom_iadd (s : BitVec 32) (l : List (BitVec 32)) (c : Fpu) {j : Nat} (hj : j ≤ l.length) :
    (s :: (scanFrom .iadd s l c).1).getD j 0#32 = (l.take j).foldl (· + ·) s := by
  induction l generalizing s c j with
  | nil =>
    rw [Nat.le_zero.1 hj]
    rfl
  | cons t l ih =>
    cases j with
    | zero => rfl
    | succ j => exact ih (s + t) c (Nat.le_of_succ_le_succ hj)

/-- The sum of the first n lanes, the active ones alone. -/
def activeSum (p : BitVec 16) (a : VReg) (n : Nat) : BitVec 32 :=
  ((List.range n).map fun j => if p.getLsbD j then lane a j else 0#32).foldl (· + ·) 0#32

/-- VRED.IADD: the sum of the active lanes, and zeros (R183). -/
theorem lane_vredVal_iadd (p : BitVec 16) (a : VReg) (c : Fpu) {j : Nat} (hj : j < 16) :
    lane (vredVal .iadd p a c).1 j = if j = 0 then activeSum p a 16 else 0#32 := by
  rw [vredVal_eq, lane_lanes _ hj]
  exact if_congr Iff.rfl (getD_redLevels_iadd 4 (by rw [redInputs_iadd, List.length_map, List.length_range]; rfl) c) rfl

/-- VSCAN.IADD: the sum of the active lanes up to each active lane (R184). -/
theorem lane_vscanVal_iadd (p : BitVec 16) (old a : VReg) (c : Fpu) {j : Nat} (hj : j < 16) :
    lane (vscanVal .iadd p old a c).1 j = if p.getLsbD j then activeSum p a (j + 1) else lane old j := by
  have hsum : activeSum p a (j + 1) = ((redInputs .iadd p a).take (j + 1)).foldl (· + ·) 0#32 := by
    rw [redInputs_iadd, ← List.map_take, List.take_range, Nat.min_eq_left hj]
    rfl
  have hlen : (redInputs .iadd p a).length = 16 := by rw [redInputs_iadd, List.length_map, List.length_range]
  rw [hsum]
  unfold vscanVal
  generalize redInputs .iadd p a = l at hlen ⊢
  cases l with
  | nil => exact absurd hlen (by decide)
  | cons t ts =>
    have hlast : j ≤ ts.length := Nat.le_of_lt_succ (hj.trans_eq hlen.symm)
    rw [List.take_succ_cons, List.foldl_cons, BitVec.zero_add, ← getD_scanFrom_iadd t ts c hlast]
    exact lane_permLanes (fun j => (t :: (scanFrom .iadd t ts c).1).getD j 0#32) hj

/-- Settles O29: the values by what the combines keep, the integer sums lane by lane. -/
theorem reductionsScansAndDots : Obligations.ReductionsScansAndDots := by
  unfold Obligations.ReductionsScansAndDots
  refine ⟨fun s o r f p b a d => ⟨fun h => ?vred, fun h => ?vscan, fun _ h => ?vdot⟩,
    fun p old a c => ⟨fun j hj => lane_vredVal_iadd p a c hj, vredVal_keeps id (fun _ _ _ => rfl) p a c,
      fun j hj => lane_vscanVal_iadd p old a c hj, vscanVal_keeps id (fun _ _ _ => rfl) p old a c, ?empty⟩⟩
  case vred =>
    exact ⟨vredVal_keeps Fpu.trapAt (trapAt_redCombine o) .., roundsTo_of_value (mk := .v d.toNat)
      (v := fun sl c => vredVal o (sl.rp p.toNat) (sl.rv a.toNat) c) rfl h⟩
  case vscan =>
    exact ⟨vscanVal_keeps Fpu.trapAt (trapAt_redCombine o) .., roundsTo_of_value (mk := .v d.toNat)
      (v := fun sl c => vscanVal o (sl.rp p.toNat) (sl.rv d.toNat) (sl.rv a.toNat) c) rfl h⟩
  case vdot =>
    exact ⟨trapAt_vdotVal .., roundsTo_of_value (mk := .v d.toNat)
      (v := fun sl c => vdotVal f (sl.rp p.toNat) (sl.rv d.toNat) (sl.rv a.toNat) (sl.rv b.toNat) (sl.rx 0) c) rfl h⟩
  case empty =>
    rw [vredVal_eq, lane_lanes _ (by decide)]
    rfl

end Sys2Proof.Machine
end

section
/-! O4: every outcome of exec is a next state or the one fault (R190, R469). -/

namespace Sys2Proof.Machine

/-- The model has one fault. -/
theorem Fault.eq_noMemory (f : Fault) : f = .noMemory := by cases f; rfl

/-- An outcome is a next state or the one fault. -/
def Answers (o : Host.Outcome State Fault Refusal) : Prop := (∃ t, o = .next t) ∨ o = .fault .noMemory

theorem answers_next (t : State) : Answers (.next t) := .inl ⟨t, rfl⟩

theorem answers_fault (f : Fault) : Answers (.fault f) := .inr (congrArg _ f.eq_noMemory)

/-- Whatever the gates, the hazards and the effect of an instruction say, its end is one of `conclude`. -/
theorem answers_issue (i : Instr) (body : Body) (s : State) : Answers (issue i body s) := by
  unfold issue
  obtain h | ⟨f, -, h⟩ := conclude_cases s.me.pc i.len _
  · exact .inl h
  · exact h ▸ answers_fault f

/-- COPY_WORD_TRANSFER stops only where its word has no memory (R190). -/
theorem answers_copyWordTransfer (s : State) : Answers (execCopyWordTransfer s) := by
  simp only [execCopyWordTransfer]
  split
  · split
    · split <;> exact answers_next _
    · exact answers_next _
  · split
    · exact answers_next _
    · split
      case h_6 => exact answers_fault _
      all_goals exact answers_next _

/-- REPLAY_END stops only where an instruction of its window does. -/
theorem answers_replayEnd (s : State) : Answers (execReplayEnd s) := by
  simp only [execReplayEnd]
  split
  · exact answers_next _
  · split
    · exact answers_next _
    · split
      · exact answers_next _
      · split
        · exact answers_fault _
        · split <;> exact answers_next _

/-- Every other event is a change of state. -/
theorem exec_event_next {i : Instr} (h : i.len = 0) (hc : i ≠ .copyWordTransfer) (hr : i ≠ .replayEnd) (s : State) :
    ∃ t, exec i s = .next t := by
  cases i with
  | copyWordTransfer => exact absurd rfl hc
  | replayEnd => exact absurd rfl hr
  | _ => first
    | exact absurd h (Nat.succ_ne_zero _)
    | exact ⟨_, rfl⟩

/-- Settles O4: an encoded instruction issues, an event changes the state, and the two events that can stop do so with the fault. -/
theorem nothingIsRefused : Obligations.NothingIsRefused := by
  unfold Obligations.NothingIsRefused
  intro i s
  by_cases hl : i.len = 0
  · by_cases hc : i = .copyWordTransfer
    · exact hc ▸ answers_copyWordTransfer s
    · by_cases hr : i = .replayEnd
      · exact hr ▸ answers_replayEnd s
      · exact .inl (exec_event_next hl hc hr s)
  · obtain ⟨body, hb⟩ := exec_eq_issue hl
    exact hb s ▸ answers_issue i body s

end Sys2Proof.Machine
end

section
/-! O35: fences (R200, R201, R229) and cache control (R232 to R234). -/

namespace Sys2Proof.Machine

/-! ### What a fence finds on its way -/

theorem nothingOnItsWay_iff {s : State} : NothingOnItsWay s ↔ s.me.pend.any isAccess = false := by
  simp [NothingOnItsWay]

theorem Slot.performed_iff {sl : Slot} : sl.performed = true ↔ sl.traffic.out = [] ∧ ∀ p ∈ sl.pend, p.unread = false := by
  simp [Slot.performed]

/-- No replay holds a ready instruction back (R157). -/
theorem Ready.replayPoint {i : Instr} {s : State} (h : Ready i s) : replayPoint s.me = none := by
  rw [Machine.replayPoint, h.replay]

/-- An access waits for no replay where none is running, and for no LDA where no access is on its way. -/
theorem accessWait_none {s : State} (hreplay : s.me.replay = none) (hn : NothingOnItsWay s) : accessWait s.me = none := by
  have hlda : s.me.pend.any isLda = false := by
    rw [List.any_eq_false]
    intro p hp hk
    have hacc := hn p hp
    rw [isLda] at hk
    rw [isAccess] at hacc
    split at hk
    · next ha => rw [ha] at hacc; exact nomatch hacc
    · exact nomatch hk
  have hrun : s.me.replaying = false := by rw [Slot.replaying, hreplay]
  rw [accessWait, hrun, hlda]
  rfl

/-! ### The effects of the fences -/

section Fences
variable {i : Instr} {s : State} (h : Ready i s)
include h

theorem acqBody_settled (hn : NothingOnItsWay s) : acqBody s = (l1Acquire s.myCore s, .next) := by
  rw [acqBody, h.replayPoint, nothingOnItsWay_iff.1 hn]
  rfl

theorem acqBody_waits (hn : ¬ NothingOnItsWay s) : acqBody s = (s, .wait .results) := by
  rw [acqBody, h.replayPoint, Bool.of_not_eq_false (mt nothingOnItsWay_iff.2 hn)]
  rfl

theorem relBody_plain (hb : buffered s s.cur = false) :
    relBody s = (if s.me.performed then s else addOut s.cur (.rel s.me.traffic.nextId) s, .next) := by
  rw [relBody, h.replayPoint, hb]
  cases s.me.performed <;> rfl

theorem fenceBody_stores (hb : buffered s s.cur = false) (ho : s.me.traffic.out ≠ []) : fenceBody s = (s, .wait .stores) := by
  rw [fenceBody, h.replayPoint, hb, List.isEmpty_eq_false_iff.2 ho]
  rfl

theorem fenceBody_plain (hb : buffered s s.cur = false) (ho : s.me.traffic.out = []) : fenceBody s = acqBody s := by
  rw [fenceBody, h.replayPoint, hb, ho]
  rfl

end Fences

/-! ### What an acquire makes Invalid (R201) -/

/-- A word found among the entries that a condition keeps satisfies it. -/
theorem of_tfind_filter {α : Type} {t : Tbl α} {p : Nat × α → Bool} {k : Nat} {a : α} (h : tfind (t.filter p) k = some a) :
    p (k, a) = true :=
  (List.mem_filter.1 (mem_of_tfind h)).2

/-- An entry that the condition keeps is found among the kept ones. -/
theorem tfind_filter_of_tfind {α : Type} {t : Tbl α} {p : Nat × α → Bool} {k : Nat} {a : α} (h : tfind t k = some a)
    (hp : p (k, a) = true) : tfind (t.filter p) k = some a := by
  induction t with
  | nil => exact nomatch h
  | cons e t ih =>
    rw [tfind_cons] at h
    split at h
    · next hk =>
      obtain rfl := hk
      obtain rfl := Option.some.inj h
      rw [List.filter_cons_of_pos hp, tfind_cons, if_pos rfl]
    · next hk =>
      by_cases he : p e = true
      · rw [List.filter_cons_of_pos he, tfind_cons, if_neg hk, ih h]
      · rw [List.filter_cons_of_neg he, ih h]

theorem l1Find_l1Acquire (c w : Nat) (s : State) :
    l1Find (l1Acquire c s) c w = tfind ((s.core c).l1.words.filter fun e => e.2.st != .valid) w := by
  rw [l1Find, l1Acquire, State.core_onCore_self]

/-! ### The line that cache control names (R232) -/

theorem quietLine_elsewhere {addr : Word} {s : State} (h : regionOf s s.myCore addr.toNat ≠ .memory) :
    quietLine addr s = (none, s) := by
  rw [quietLine, if_pos (bne_iff_ne.2 h)]

/-- An address that the TLB maps to memory names the line it is mapped to. -/
theorem quietLine_mapped {addr : Word} {s : State} {t : TlbEntry} (h : regionOf s s.myCore addr.toNat = .memory)
    (ht : tlbFind s s.myOctet s.myCtx addr.toNat = some t) (hm : hasMem (t.pa + addr.toNat % 2 ^ t.bits) = true) :
    quietLine addr s = (some ((t.pa + addr.toNat % 2 ^ t.bits) / 64), s) := by
  rw [quietLine, if_neg (by rw [h]; decide)]
  simp only [ht, hm, if_true]

/-- Finding the line changes no more than a walk does. -/
theorem quietLine_still (addr : Word) (s : State) : (quietLine addr s).2.still = s.still := by
  unfold quietLine
  split
  · rfl
  · dsimp only
    split
    · rfl
    · exact walk_still s ..

theorem quietLine_replay {addr : Word} {s : State} (hcur : (quietLine addr s).2.cur = s.cur) (h : s.me.replay = none) :
    (quietLine addr s).2.me.replay = none := by
  have hs := congrArg Slot.replay (State.still_slot (quietLine_still addr s) s.cur)
  rw [State.me, hcur]
  exact hs.trans h

/-! ### The effects of cache control -/

theorem bodyPref_none {a : BitVec 5} {s t : State} (h : quietLine (s.me.rg a.toNat) s = (none, t)) : bodyPref a s = (t, .next) := by
  rw [bodyPref, h]

theorem bodyPref_line {a : BitVec 5} {s t : State} {l : Nat} (h : quietLine (s.me.rg a.toNat) s = (some l, t)) :
    bodyPref a s = ((t.post (evt .homeRemoteRead t.myCore (16 * l) 0)).post (evt .homeRemoteRead t.myCore (16 * l + 8) 0), .next) := by
  rw [bodyPref, h]

theorem cacheBody_none {inv : Bool} {addr : Word} {s t : State} (h : quietLine addr s = (none, t)) :
    cacheBody inv addr s = (t, .next) := by
  rw [cacheBody, h]

/-- The flush of a line stands behind the slot's accesses, and is on its way to the home (R234). -/
theorem cacheBody_line {inv : Bool} {addr : Word} {s t : State} {l : Nat} (h : quietLine addr s = (some l, t))
    (hw : accessWait t.me = none) (hb : buffered t t.cur = false) (hn : NothingOnItsWay t) :
    cacheBody inv addr s = ((addOut t.cur (.flush l inv) t).post
      ⟨.homeWriteBack, { Arg.reset with k := t.myCore, a := l, b := if inv then 2 else 1, c := t.cur }⟩, .next) := by
  rw [cacheBody, h]
  simp only [hw, hb, orderAfter_nothing hn]
  rfl

/-- CFLUSH and CINV, each with the kind of its flush. -/
theorem cacheControl_completes {i : Instr} {inv : Bool} {addr : Word} {s : State} (he : exec i s = issue i (cacheBody inv addr) s)
    (h : Ready i s) :
    ((quietLine addr s).1 = none → Completes i s (quietLine addr s).2) ∧
    ∀ l, (quietLine addr s).1 = some l → buffered (quietLine addr s).2 s.cur = false → NothingOnItsWay (quietLine addr s).2 →
      (quietLine addr s).2.cur = s.cur → Completes i s
        (((quietLine addr s).2.onMe fun sl => { sl with traffic := { sl.traffic with out := sl.traffic.out ++ [.flush l inv] } }).post
          ⟨.homeWriteBack, { Arg.reset with k := s.myCore, a := l, b := if inv then 2 else 1, c := s.cur }⟩) := by
  refine ⟨fun hl => completes_of_next he (cacheBody_none (Prod.ext hl rfl)) h, fun l hl hb hn hcur => ?_⟩
  have hbody := cacheBody_line (inv := inv) (Prod.ext hl rfl) (accessWait_none (quietLine_replay hcur h.replay) hn)
    (hcur ▸ hb) hn
  have hcore : (quietLine addr s).2.myCore = s.myCore := congrArg coreOf hcur
  rw [hcore] at hbody
  refine completes_of_next he (hbody.trans ?_) h
  rw [State.onMe, addOut, hcur]

/-- Settles O35: each instruction by the equation of its effect in the case that the statement names. -/
theorem fencesAndCacheControl : Obligations.FencesAndCacheControl := by
  unfold Obligations.FencesAndCacheControl
  intro s a acquired line addr flush
  refine ⟨fun h => ⟨fun hn => completes_of_next rfl (acqBody_settled h hn) h, fun hn => parksOn_of_wait rfl (acqBody_waits h hn) h⟩,
    ?invalid, ?others, rfl, rfl, fun hb => ⟨fun h => ?rel, fun h => ⟨fun ho => ?stores, fun ho hn => ?loads, fun ho hn => ?fence⟩⟩,
    quietLine_elsewhere, fun h t => quietLine_mapped h, fun h => ⟨fun hl => ?none, fun l hl => ?pref⟩,
    cacheControl_completes rfl, cacheControl_completes rfl⟩
  case invalid =>
    intro w x hx
    rw [l1Find_l1Acquire] at hx
    exact bne_iff_ne.1 (of_tfind_filter hx)
  case others =>
    intro w x hx hst
    rw [l1Find_l1Acquire]
    exact tfind_filter_of_tfind hx (bne_iff_ne.2 hst)
  case rel =>
    refine completes_of_next rfl ((relBody_plain h hb).trans ?_) h
    rw [if_congr Slot.performed_iff rfl rfl]
    rfl
  case stores => exact parksOn_of_wait rfl (fenceBody_stores h hb ho) h
  case loads => exact parksOn_of_wait rfl ((fenceBody_plain h hb ho).trans (acqBody_waits h hn)) h
  case fence => exact completes_of_next rfl ((fenceBody_plain h hb ho).trans (acqBody_settled h hn)) h
  case none => exact completes_of_next rfl (bodyPref_none (Prod.ext hl rfl)) h
  case pref => exact completes_of_next rfl (bodyPref_line (Prod.ext hl rfl)) h

end Sys2Proof.Machine
end

section
/-! What watches and messages change (R359, R426, R455): events and sequence numbers of slots, counts of cores, and what is on its way. A
performed access leaves the rest of the machine as it is (R200). -/

namespace Sys2Proof.Machine

/-- A slot without its event flag and its sequence number. -/
def Slot.untold (sl : Slot) : Slot :=
  { sl with sys := { sl.sys with st := 0 }, traffic := { sl.traffic with seq := 0 } }

/-- A core without its counts of messages sent. -/
def Core.unsent (x : Core) : Core := { x with sent := Vector.replicate 3 0 }

/-- The package without what watches and messages change, and its slots and cores. -/
def State.untold (s : State) : State × (Nat → Slot) × (Nat → Core) :=
  ({ s with slots := [], cores := [], watches := [], groups := [], inflight := [] }, fun k => (s.slot k).untold,
    fun c => (s.core c).unsent)

/-! ### Reading it off -/

section Read
variable {s t : State} (h : t.untold = s.untold)
include h

theorem State.untold_state : t.untold.1 = s.untold.1 := congrArg Prod.fst h

theorem State.untold_mem : t.mem = s.mem := (congrArg State.mem (State.untold_state h) :)

theorem State.untold_home : t.home = s.home := (congrArg State.home (State.untold_state h) :)

theorem State.untold_rdc : t.rdc = s.rdc := (congrArg State.rdc (State.untold_state h) :)

theorem State.untold_mgmt : t.mgmt = s.mgmt := (congrArg State.mgmt (State.untold_state h) :)

theorem State.untold_pinned : t.pinned = s.pinned := (congrArg State.pinned (State.untold_state h) :)

theorem State.untold_slot (k : Nat) : (t.slot k).untold = (s.slot k).untold := congrFun (congrArg (fun x => x.2.1) h) k

theorem State.untold_core {β : Type} (p : Core → β) (c : Nat) (hp : ∀ x, p x.unsent = p x) :
    p (t.core c) = p (s.core c) :=
  ((hp _).symm.trans (congrArg p (congrFun (congrArg (fun x => x.2.2) h) c))).trans (hp _)

theorem State.untold_stopped (c : Nat) : (t.core c).stopped = (s.core c).stopped := State.untold_core h Core.stopped c fun _ => rfl

theorem State.untold_l1Find (c w : Nat) : l1Find t c w = l1Find s c w :=
  congrArg (fun l : L1 => tfind l.words w) (State.untold_core h Core.l1 c fun _ => rfl)

end Read

/-! ### Watches and messages -/

section Updates
variable (s : State)

theorem State.onSlot_untold (k : Nat) {f : Slot → Slot} (h : ∀ sl, (f sl).untold = sl.untold) : (s.onSlot k f).untold = s.untold := by
  refine Prod.ext rfl (Prod.ext (funext fun j => ?_) rfl)
  by_cases hj : j = k
  · subst hj
    exact (congrArg Slot.untold (State.slot_onSlot_self s j f)).trans (h _)
  · exact congrArg Slot.untold (State.slot_onSlot_ne s f hj)

@[simp] theorem State.onGroup_untold (k : Nat) (f : Group → Group) : (s.onGroup k f).untold = s.untold := by
  rw [State.onGroup_eq]
  rfl

@[simp] theorem State.post_untold (m : Msg) : (s.post m).untold = s.untold := rfl
@[simp] theorem State.watches_untold (x : List WatchEntry) : State.untold { s with watches := x } = s.untold := rfl

@[simp] theorem setEvent_untold (k : Nat) : (setEvent k s).untold = s.untold := by
  unfold setEvent
  split
  · exact s.onSlot_untold k fun _ => rfl
  · simp

@[simp] theorem fireOn_untold (w : Nat) (v : BitVec 32) : (fireOn w v s).untold = s.untold := by
  refine foldl_keeps State.untold _ (fun s e => ?_) _ s
  split <;> simp [watchFire]

@[simp] theorem raise_untold (k : Nat) (f : BitVec 6) : (s.onSlot k (·.raise f)).untold = s.untold :=
  s.onSlot_untold k fun _ => rfl

theorem State.onCore_untold (c : Nat) {f : Core → Core} (h : ∀ x, (f x).unsent = x.unsent) : (s.onCore c f).untold = s.untold :=
  Prod.ext rfl (Prod.ext rfl (funext fun d => s.core_onCore_keeps Core.unsent h c d))

@[simp] theorem countSent_untold (c vc n : Nat) : (countSent c vc n s).untold = s.untold := s.onCore_untold c fun _ => rfl

@[simp] theorem sendMsg_untold (k : Nat) (m : Msg) : (sendMsg k m s).untold = s.untold := by
  have hname : (nameMsg k m s).2.untold = s.untold := by
    unfold nameMsg
    dsimp only
    split
    · exact s.onSlot_untold k fun _ => rfl
    · rfl
  unfold sendMsg
  dsimp only
  split
  · rw [countSent_untold, State.post_untold, hname]
  · rw [State.post_untold, hname]

end Updates

/-! ### An access performed -/

/-- What stays of the accesses on the way of slot k once o is performed, and the releases behind it where the core is not stopped. -/
def leftOut (s : State) (k : Nat) (o : OutOp) : List OutOp :=
  let out := (s.slot k).traffic.out.erase o
  if (s.core (coreOf k)).stopped then out else (settled (s.slot k) out).2

/-- Which releases wait depends on the results and the replay of the slot alone. -/
theorem settled_congr {sl sl' : Slot} (hp : sl'.pend = sl.pend) (hr : sl'.replay = sl.replay) (l : List OutOp) :
    settled sl' l = settled sl l := by
  induction l with
  | nil => rfl
  | cons o l ih => cases o <;> simp [settled, replayHolds, hp, hr, ih]

theorem leftOut_congr {s t : State} {k : Nat} (hslot : (t.slot k).untold = (s.slot k).untold)
    (hcore : (t.core (coreOf k)).stopped = (s.core (coreOf k)).stopped) (o : OutOp) : leftOut t k o = leftOut s k o := by
  have hout : (t.slot k).traffic.out = (s.slot k).traffic.out := (congrArg (fun sl : Slot => sl.traffic.out) hslot :)
  have hset := settled_congr (sl := s.slot k) (sl' := t.slot k) (congrArg Slot.pend hslot :) (congrArg Slot.replay hslot :)
  rw [leftOut, leftOut, hout, hcore, hset]

/-- A performed access leaves its slot's accesses, and releases that waited for it alone go on their way. -/
theorem outDone_untold (k : Nat) (o : OutOp) (s : State) :
    (outDone k o s).untold = (s.onSlot k fun sl => { sl with traffic := { sl.traffic with out := leftOut s k o } }).untold := by
  have hset := settled_congr (sl := s.slot k)
    (sl' := { s.slot k with traffic := { (s.slot k).traffic with out := (s.slot k).traffic.out.erase o } }) rfl rfl
  have hexact : ∀ out out' : List OutOp, ((s.onSlot k fun sl => { sl with traffic := { sl.traffic with out := out } }).onSlot k
      fun sl => { sl with traffic := { sl.traffic with out := out' } }).untold =
      (s.onSlot k fun sl => { sl with traffic := { sl.traffic with out := out' } }).untold := fun out out' => by
    refine Prod.ext rfl (Prod.ext (funext fun j => congrArg Slot.untold ?_) rfl)
    by_cases hj : j = k
    · subst hj
      simp
    · simp [hj]
  unfold outDone settleOut leftOut
  simp only [State.slot_onSlot_self, State.onSlot_core, hset]
  split
  · rfl
  · rw [foldl_keeps State.untold _ (fun s m => sendMsg_untold s k m)]
    exact hexact _ _

/-- The rest of the machine as a performed access leaves it. -/
theorem outDone_rest (k : Nat) (o : OutOp) (s : State) :
    (outDone k o s).mem = s.mem ∧ (outDone k o s).home = s.home ∧ (outDone k o s).rdc = s.rdc ∧
      (∀ c w, l1Find (outDone k o s) c w = l1Find s c w) ∧ ((outDone k o s).slot k).traffic.out = leftOut s k o := by
  have h := outDone_untold k o s
  refine ⟨(State.untold_mem h :), (State.untold_home h :), (State.untold_rdc h :), (State.untold_l1Find h :), ?_⟩
  have hout := congrArg (fun sl : Slot => sl.traffic.out) (State.untold_slot h k)
  rw [State.slot_onSlot_self] at hout
  exact hout

end Sys2Proof.Machine
end

section
/-! Words at their homes (R196, R198): what memory holds of a word outside every window, and the registration of a Free word. -/

namespace Sys2Proof.Machine

/-! ### Words and bytes -/

theorem ofBytesLE_lt (l : List (BitVec 8)) : ofBytesLE l < 256 ^ l.length := by
  induction l with
  | nil => exact Nat.one_pos
  | cons b l ih =>
    rw [ofBytesLE, List.length_cons, Nat.pow_succ]
    have := b.isLt
    omega

theorem length_memBytes (m : Mem) (a n : Nat) : (memBytes m a n).length = n := by
  induction n generalizing a with
  | zero => rfl
  | succ n ih => rw [memBytes, List.length_cons, ih]

/-- The bytes of a number are those of its residue. -/
theorem bytesLE_mod (n v : Nat) : bytesLE n (v % 256 ^ n) = bytesLE n v := by
  induction n generalizing v with
  | zero => rfl
  | succ n ih =>
    have hdiv : v % 256 ^ (n + 1) / 256 = v / 256 % 256 ^ n := by rw [Nat.pow_succ', Nat.mod_mul_right_div_self]
    rw [bytesLE, bytesLE, hdiv, ih, Nat.pow_succ', Nat.mod_mul_right_mod]

/-- The low half of a word as bytes. -/
theorem bytesLE_low (x : Word) : bytesLE 4 (x.extractLsb' 0 32).toNat = bytesLE 4 x.toNat := by
  rw [BitVec.extractLsb'_toNat, Nat.shiftRight_zero]
  exact bytesLE_mod 4 _

/-- Bytes replaced under a mask, bit by bit. -/
theorem getLsbD_mergeBytes (mask : BitVec 4) (new old : BitVec 32) {i : Nat} (hi : i < 32) :
    (mergeBytes mask new old).getLsbD i = if mask.getLsbD (i / 8) then new.getLsbD i else old.getLsbD i := by
  have hsteps : ∀ n, ((upTo n).foldl (fun x j => if mask.getLsbD j then setSlice x (8 * j + 7) (8 * j)
      (slice new (8 * j + 7) (8 * j)) else x) old).getLsbD i =
      if i / 8 < n ∧ mask.getLsbD (i / 8) = true then new.getLsbD i else old.getLsbD i := fun n => by
    induction n with
    | zero => rfl
    | succ n ih =>
      rw [upTo, List.range_succ, List.foldl_append]
      by_cases hn : i / 8 = n
      · rw [if_neg (by omega)] at ih
        simp only [List.foldl_cons, List.foldl_nil, hn, Nat.lt_succ_self, true_and]
        split
        · rw [getLsbD_setSlice, if_pos (by omega), testBit_slice, show 8 * n + (i - 8 * n) = i by omega]
          simp [hi, show i - 8 * n < 8 * n + 7 + 1 - 8 * n by omega]
        · exact ih
      · rw [if_congr (and_congr_left' (show i / 8 < n + 1 ↔ i / 8 < n by omega)) rfl rfl, ← ih]
        simp only [List.foldl_cons, List.foldl_nil]
        split
        · rw [getLsbD_setSlice, if_neg (by omega)]
          rfl
        · rfl
  rw [mergeBytes, hsteps, if_congr (and_iff_right (by omega)) rfl rfl]

/-- All bytes of a word replaced. -/
theorem mergeBytes_full (new old : BitVec 32) : mergeBytes 0xf#4 new old = new := by
  have hall : ∀ j < 4, (0xf#4).getLsbD j = true := by decide
  refine BitVec.eq_of_getLsbD_eq fun i hi => ?_
  rw [getLsbD_mergeBytes _ _ _ hi, if_pos (hall _ (by omega))]

/-- The other word of a doubleword: another word of the same line and sector. -/
theorem pairOf_ne (w : Nat) : pairOf w ≠ w := by
  unfold pairOf
  split <;> omega

theorem pairOf_div (w : Nat) : pairOf w / 8 = w / 8 := by
  unfold pairOf
  split <;> omega

theorem lineOfWord_pairOf (w : Nat) : lineOfWord (pairOf w) = lineOfWord w := by
  have := pairOf_div w
  unfold lineOfWord
  omega

/-! ### What memory holds -/

/-- The word in memory. -/
def memWord (s : State) (w : Nat) : BitVec 32 := BitVec.ofNat 32 (ofBytesLE (memBytes s.mem (4 * w) 4))

theorem zext64_memWord (s : State) (w : Nat) : zext64 (memWord s w) = BitVec.ofNat 64 (ofBytesLE (memBytes s.mem (4 * w) 4)) := by
  have hlt := ofBytesLE_lt (memBytes s.mem (4 * w) 4)
  rw [length_memBytes] at hlt
  exact BitVec.setWidth_ofNat_of_le_of_lt (by decide) hlt

section Plain
variable {s : State} {w : Nat} (hwin : windowOf s (lineOfWord w) = none)
include hwin

theorem homeGet_plain : homeGet w s = (memWord s w, s) := by rw [homeGet, hwin]; rfl

theorem homePut_plain (v : BitVec 32) : homePut w v s = { s with mem := memPut s.mem (4 * w) (bytesLE 4 v.toNat) } := by
  rw [homePut, hwin]

theorem homeGetWide_plain : homeGetWide false w s = (zext64 (memWord s w), s) := by rw [homeGetWide, homeGet_plain hwin]; rfl

theorem fireWatches_plain : fireWatches w s = fireOn w (memWord s w) s := by rw [fireWatches, homeGet_plain hwin]

theorem homeRead_free (hfree : tfind s.home w = none) : homeRead w s = (memWord s w, s) := by
  rw [homeRead, hfree]
  exact homeGet_plain hwin

end Plain

/-- A Free word needs no recall. -/
theorem recallWord_free {s : State} {w : Nat} (hfree : tfind s.home w = none) : recallWord w s = s := by rw [recallWord, hfree]

/-! ### The L1 of a core -/

section L1
variable (s : State) (c w : Nat)

theorem l1Find_l1Put (x : L1Word) (v : Nat) : l1Find (l1Put c w x s) c v = if v = w then some x else l1Find s c v := by
  rw [l1Find, l1Put, onL1, State.core_onCore_self]
  split
  · next h => rw [h]; exact tfind_tset_self ..
  · next h => exact tfind_tset_ne _ _ h

theorem l1Find_l1Drop : l1Find (l1Drop c w s) c w = none := by
  rw [l1Find, l1Drop, onL1, State.core_onCore_self]
  exact tfind_terase_self ..

theorem onL1_stopped (f : L1 → L1) (d : Nat) : ((onL1 c f s).core d).stopped = (s.core d).stopped :=
  State.core_onCore_keeps s Core.stopped (f := fun x => { x with l1 := f x.l1 }) (fun _ => rfl) c d

end L1

theorem mem_dropRdc {line : Nat} {s : State} {e : Nat × VReg} (h : e ∈ (dropRdc line s).rdc) : e.1 / 4 ≠ line := by
  simpa using (List.mem_filter.1 h).2

/-! ### Registration (R196, R198) -/

/-- The state in which word w, with the value v, is Owned by core c: there, at its home, and with no copy in a remote-data cache. -/
def ownedBy (c w : Nat) (v : BitVec 32) (s : State) : State :=
  dropRdc (lineOfWord w) { l1Put c w ⟨.owned true, zext64 v, 0xf#4⟩ s with home := tset s.home w (.owned c) }

/-- A Free word registers with the bytes that its core has written, and those of memory. -/
theorem registerOne_free {s : State} {c w : Nat} {x : L1Word} (hx : l1Find s c w = some x) (hst : x.st = .owned false)
    (hfree : tfind s.home w = none) (hwin : windowOf s (lineOfWord w) = none) :
    registerOne c w s = fireOn w (mergeBytes x.mask (x.val.extractLsb' 0 32) (memWord s w))
      (ownedBy c w (mergeBytes x.mask (x.val.extractLsb' 0 32) (memWord s w)) s) := by
  simp only [registerOne, hx, hst, hfree, recallWord_free hfree, homeGet_plain hwin, ite_self]
  rfl

/-- What the registration of words of core c keeps, and what it says of them. -/
structure Registers (s t : State) (c w : Nat) (v : BitVec 32) : Prop where
  home : tfind t.home w = some (.owned c)
  l1 : l1Find t c w = some ⟨.owned true, zext64 v, 0xf#4⟩
  otherHome : ∀ u, u ≠ w → tfind t.home u = tfind s.home u
  otherL1 : ∀ u, u ≠ w → l1Find t c u = l1Find s c u
  copies : ∀ e ∈ t.rdc, e.1 / 4 ≠ lineOfWord w
  mem : t.mem = s.mem
  mgmt : t.mgmt = s.mgmt
  pinned : t.pinned = s.pinned
  slots : ∀ k, (t.slot k).untold = (s.slot k).untold
  stopped : ∀ d, (t.core d).stopped = (s.core d).stopped

theorem registers_of_untold {s t : State} {c w : Nat} {v : BitVec 32} (h : t.untold = (ownedBy c w v s).untold) : Registers s t c w v where
  home := by rw [State.untold_home h]; exact tfind_tset_self ..
  l1 := by rw [State.untold_l1Find h]; exact (l1Find_l1Put s c w _ w).trans (if_pos rfl)
  otherHome u hu := by rw [State.untold_home h]; exact tfind_tset_ne _ _ hu
  otherL1 u hu := by rw [State.untold_l1Find h]; exact (l1Find_l1Put s c w _ u).trans (if_neg hu)
  copies e he := by rw [State.untold_rdc h] at he; exact mem_dropRdc he
  mem := (State.untold_mem h :)
  mgmt := (State.untold_mgmt h :)
  pinned := (State.untold_pinned h :)
  slots := (State.untold_slot h :)
  stopped d := (State.untold_stopped h d).trans
    (onL1_stopped s c (fun l => { l with words := tset l.words w ⟨.owned true, zext64 v, 0xf#4⟩ }) d)

/-- Windows are read from the registers of the management block. -/
theorem windowOf_congr {s t : State} (h : t.mgmt = s.mgmt) (line : Nat) : windowOf t line = windowOf s line := by
  have hreg : ∀ o, t.mreg o = s.mreg o := fun o => congrArg (fun m => tget m o _) h
  simp only [windowOf, winHolds, hreg]

theorem unregistered_iff {s : State} {c w : Nat} :
    unregistered s c w = true ↔ ∃ x, l1Find s c w = some x ∧ x.st = .owned false := by
  unfold unregistered
  split
  · next x hx => simp [hx]
  · next hx => simp [hx]

theorem unregistered_congr {s t : State} {c w : Nat} (h : l1Find t c w = l1Find s c w) : unregistered t c w = unregistered s c w := by
  unfold unregistered
  rw [h]

/-- A Free word whose core has written it in full registers, and the other word of its doubleword with it where that awaits
registration too (R198, R208). -/
theorem registerWord_free {s : State} {c w : Nat} {v : BitVec 32} (hx : l1Find s c w = some ⟨.owned false, zext64 v, 0xf#4⟩)
    (hfree : tfind s.home w = none) (hwin : windowOf s (lineOfWord w) = none) (hpair : tfind s.home (pairOf w) = none) :
    (∃ u, Registers s u c w v ∧ ((unregistered s c (pairOf w) = false ∧ registerWord c w s = u) ∨
      (unregistered s c (pairOf w) = true ∧ ∃ v', Registers u (registerWord c w s) c (pairOf w) v'))) := by
  have hne := pairOf_ne w
  have hval : mergeBytes 0xf#4 ((zext64 v).extractLsb' 0 32) (memWord s w) = v := by
    rw [mergeBytes_full]
    exact (BitVec.extractLsb'_setWidth_of_le (by decide : 0 + 32 ≤ 64)).trans BitVec.extractLsb'_eq_self
  have hone := registerOne_free hx rfl hfree hwin
  rw [hval] at hone
  have hreg : Registers s (registerOne c w s) c w v := registers_of_untold (by rw [hone, fireOn_untold])
  have hun := unregistered_congr (hreg.otherL1 _ hne)
  refine ⟨_, hreg, ?_⟩
  unfold registerWord
  dsimp only
  rw [hun]
  split
  · next hu =>
    obtain ⟨y, hy, hst⟩ := unregistered_iff.1 (hun.trans hu)
    have htwo := registerOne_free hy hst ((hreg.otherHome _ hne).trans hpair)
      (by rw [lineOfWord_pairOf, windowOf_congr hreg.mgmt]; exact hwin)
    exact .inr ⟨hu, _, registers_of_untold (by rw [htwo, fireOn_untold])⟩
  · next hu => exact .inl ⟨Bool.not_eq_true _ ▸ hu, rfl⟩

end Sys2Proof.Machine
end

section
/-! Events of words at their homes (R196 to R199, R209, R210): registrations, reads that fill an L1, write-backs and REDs. -/

namespace Sys2Proof.Machine

variable {s : State}

/-! ### HOME_REGISTRATION -/

theorem consume_good {t : State} {k w : Nat} (h : lineBad t (4 * w) = false) : consume k w t = t := by rw [consume, h]; rfl

/-- A registration of a word written in full (R196, R198). -/
theorem homeRegistration_free {v : BitVec 32} (hx : l1Find s (coreOf s.arg.k) s.arg.a = some ⟨.owned false, zext64 v, 0xf#4⟩)
    (hfree : tfind s.home s.arg.a = none) (hbad : lineBad s (4 * s.arg.a) = false) (hwin : windowOf s (lineOfWord s.arg.a) = none)
    (hpair : tfind s.home (pairOf s.arg.a) = none) :
    ∃ t, Happens .homeRegistration s t ∧ tfind t.home s.arg.a = some (.owned (coreOf s.arg.k)) ∧
      l1Find t (coreOf s.arg.k) s.arg.a = some ⟨.owned true, zext64 v, 0xf#4⟩ ∧ t.mem = s.mem ∧
      (unregistered s (coreOf s.arg.k) (pairOf s.arg.a) = true → tfind t.home (pairOf s.arg.a) = some (.owned (coreOf s.arg.k))) ∧
      (∀ e ∈ t.rdc, e.1 / 4 ≠ s.arg.a / 16) ∧ (t.slot s.arg.k).traffic.out = leftOut s s.arg.k (.store s.arg.a) := by
  generalize hk : s.arg.k = k at *
  generalize hw : s.arg.a = w at *
  have hne := pairOf_ne w
  obtain ⟨u, hu, hcases⟩ := registerWord_free hx hfree hwin hpair
  generalize hr : registerWord (coreOf k) w s = r at hcases
  have hbadOf : ∀ {t : State}, t.pinned = s.pinned → lineBad t (4 * w) = false := fun h => by rw [lineBad, h]; exact hbad
  have hexec : lineBad r (4 * w) = false → Happens .homeRegistration s (outDone k (.store w) r) := fun h => by
    have hev : Happens .homeRegistration s (outDone s.arg.k (.store s.arg.a) (consume s.arg.k s.arg.a
      (registerWord (coreOf s.arg.k) s.arg.a s))) := rfl
    rwa [hk, hw, hr, consume_good h] at hev
  obtain ⟨hmem, hhome, hrdc, hl1, hout⟩ := outDone_rest k (.store w) r
  obtain ⟨hun, rfl⟩ | ⟨hun, v', hp⟩ := hcases
  · refine ⟨_, hexec (hbadOf hu.pinned), by rw [hhome]; exact hu.home, by rw [hl1]; exact hu.l1, hmem.trans hu.mem,
      fun h => absurd h (by rw [hun]; decide), fun e he => hu.copies e (hrdc ▸ he), ?_⟩
    exact hout.trans (leftOut_congr (hu.slots k) (hu.stopped _) _)
  · refine ⟨_, hexec (hbadOf (hp.pinned.trans hu.pinned)), ?home, ?l1, hmem.trans (hp.mem.trans hu.mem), fun _ => ?pair,
      fun e he => ?copies, ?out⟩
    case home => rw [hhome, hp.otherHome _ hne.symm]; exact hu.home
    case l1 => rw [hl1, hp.otherL1 _ hne.symm]; exact hu.l1
    case pair => rw [hhome]; exact hp.home
    case copies => exact (hp.copies e (hrdc ▸ he)).trans_eq (lineOfWord_pairOf w)
    case out => exact hout.trans (leftOut_congr ((hp.slots k).trans (hu.slots k)) ((hp.stopped _).trans (hu.stopped _)) _)

/-! ### Blocks (R191, R192) -/

section Blocks
variable {c w : Nat}

/-- A set with room takes a block and evicts none. -/
theorem placeBlock_room {fuel n : Nat} (h : (roomWay (s.core c) (l1Set w) n).isSome = true) :
    ∃ way, placeBlock (fuel + 1) c w n s = onL1 c (fun l => { l with blocks := l.blocks ++ [⟨w, n, way⟩] }) s := by
  obtain ⟨way, hway⟩ := Option.isSome_iff_exists.1 h
  exact ⟨way, by rw [placeBlock, hway]⟩

/-- Room for more words is room for fewer. -/
theorem roomWay_mono {x : Core} {set n m : Nat} (hnm : n ≤ m) (h : (roomWay x set m).isSome = true) : (roomWay x set n).isSome = true := by
  unfold roomWay at h ⊢
  obtain ⟨way, hmem, hroom⟩ := List.find?_isSome.1 h
  exact List.find?_isSome.2 ⟨way, hmem, by simp only [decide_eq_true_eq] at hroom ⊢; omega⟩

/-- The words from an uncovered one on that no block covers: one at least, within the sector. -/
theorem freeRun_bounds {l : L1} (n : Nat) (h : covered l w = false) : 1 ≤ freeRun l w (n + 1) ∧ w % 8 + freeRun l w (n + 1) ≤ 8 := by
  have hbound : ∀ n v, v % 8 + freeRun l v n ≤ 8 := fun n => by
    induction n with
    | zero => intro v; simp only [freeRun]; omega
    | succ n ih =>
      intro v
      have := ih (v + 1)
      unfold freeRun
      split
      · omega
      · split <;> omega
  refine ⟨?_, hbound ..⟩
  rw [freeRun, h]
  split
  · contradiction
  · split <;> omega

/-- A block for an uncovered word, in a set with room for a sector: it covers the word and stays in its sector. -/
theorem allocBlock_room (len : Nat) (hcov : covered (s.core c).l1 w = false)
    (hroom : (roomWay (s.core c) (l1Set w) 8).isSome = true) :
    ∃ b : Block, allocBlock c w len s = onL1 c (fun l => { l with blocks := l.blocks ++ [b] }) s ∧ b.has w = true ∧
      ∀ j, j < b.len → (b.word + j) / 8 = w / 8 := by
  have hplace : ∀ start n, start / 8 = w / 8 → start ≤ w → w < start + n → start % 8 + n ≤ 8 →
      ∃ b : Block, placeBlock 2049 c start n s = onL1 c (fun l => { l with blocks := l.blocks ++ [b] }) s ∧ b.has w = true ∧
        ∀ j, j < b.len → (b.word + j) / 8 = w / 8 := fun start n hsec hle hlt hin => by
    have hset : l1Set start = l1Set w := by rw [l1Set, l1Set, hsec]
    obtain ⟨way, hway⟩ := placeBlock_room (fuel := 2048) (w := start) (n := n) (hset ▸ roomWay_mono (by omega) hroom)
    refine ⟨⟨start, n, way⟩, hway, ?_, fun j hj => ?_⟩
    · simp only [Block.has, decide_eq_true hle, decide_eq_true hlt, Bool.and_self]
    · have : j < n := hj
      show (start + j) / 8 = w / 8
      omega
  unfold allocBlock
  simp only [hcov, Bool.false_eq_true, if_false]
  split
  · exact hplace _ _ (by omega) (by omega) (by omega) (by omega)
  · obtain ⟨n, hn⟩ : ∃ n, Nat.max 1 len = n + 1 := Nat.exists_eq_succ_of_ne_zero (Nat.ne_of_gt (Nat.le_max_left 1 len))
    rw [hn]
    obtain ⟨hpos, hin⟩ := freeRun_bounds (l := (s.core c).l1) n hcov
    exact hplace _ _ rfl (by omega) (by omega) hin

/-- A block of one word, where a block covers it or its set has room: nothing is evicted. -/
theorem allocBlock_one (h : covered (s.core c).l1 w = true ∨ (roomWay (s.core c) (l1Set w) 1).isSome = true) :
    ∃ cs, allocBlock c w 1 s = { s with cores := cs } ∧
      ∀ d, (({ s with cores := cs } : State).core d).stopped = (s.core d).stopped := by
  unfold allocBlock
  dsimp only
  split
  · exact ⟨s.cores, rfl, fun _ => rfl⟩
  · next hcov =>
    have hone : freeRun (s.core c).l1 w 1 = 1 := by
      rw [freeRun, if_neg hcov]
      split <;> rfl
    obtain ⟨way, hway⟩ := placeBlock_room (fuel := 2048) (h.resolve_left hcov)
    exact ⟨_, (congrArg (fun n => placeBlock 2049 c w n s) hone).trans hway,
      onL1_stopped s c fun l => { l with blocks := l.blocks ++ [⟨w, 1, way⟩] }⟩

/-- Placing a block leaves the words of every L1. -/
theorem l1Find_blocks (b : Block) (d v : Nat) : l1Find (onL1 c (fun l => { l with blocks := l.blocks ++ [b] }) s) d v = l1Find s d v :=
  congrArg (fun t => tfind t v) (State.core_onCore_keeps s (fun x => x.l1.words)
    (f := fun x => { x with l1 := { x.l1 with blocks := x.l1.blocks ++ [b] } }) (fun _ => rfl) c d)

end Blocks

/-! ### HOME_REMOTE_READ -/

/-- The words of a sector whose home is the die of core c, all Free and outside every window. -/
structure FreeSector (s : State) (c w : Nat) : Prop where
  home : ∀ v, v / 8 = w / 8 → tfind s.home v = none
  window : ∀ v, v / 8 = w / 8 → windowOf s (lineOfWord v) = none
  die : ∀ v, v / 8 = w / 8 → homeDie (4 * v) = dieOf c

/-- The words of a sector have one home die and one line. -/
theorem freeSector_of_word {c w : Nat} (hdie : homeDie (4 * w) = dieOf c) (hwin : windowOf s (lineOfWord w) = none)
    (hfree : ∀ j, j < 8 → tfind s.home (w / 8 * 8 + j) = none) : FreeSector s c w where
  home v hv := by
    have := hfree (v % 8) (Nat.mod_lt _ (by decide))
    rwa [show w / 8 * 8 + v % 8 = v by omega] at this
  window v hv := by
    rw [show lineOfWord v = lineOfWord w by unfold lineOfWord; omega]
    exact hwin
  die v hv := by
    rw [← hdie]
    unfold homeDie
    omega

/-- A word as a fill leaves it in an L1. -/
def filledWord (s : State) (w : Nat) : L1Word := ⟨.valid, zext64 (memWord s w), 0xf#4⟩

/-- Words of memory have been filled into the L1 of core c, and nothing else has happened to homes and memory. -/
structure Fills (s t : State) (c : Nat) : Prop where
  mem : t.mem = s.mem
  home : t.home = s.home
  mgmt : t.mgmt = s.mgmt
  words : ∀ v, l1Find t c v = l1Find s c v ∨ l1Find t c v = some (filledWord s v)

theorem Fills.refl (s : State) (c : Nat) : Fills s s c := ⟨rfl, rfl, rfl, fun _ => .inl rfl⟩

theorem Fills.trans {t u : State} {c : Nat} (h : Fills s t c) (h' : Fills t u c) : Fills s u c where
  mem := h'.mem.trans h.mem
  home := h'.home.trans h.home
  mgmt := h'.mgmt.trans h.mgmt
  words v := by
    rcases h'.words v with hv | hv
    · rw [hv]
      exact h.words v
    · rw [hv, filledWord, memWord, h.mem]
      exact .inr rfl

theorem FreeSector.of_fills {t : State} {c w : Nat} (h : FreeSector s c w) (ht : Fills s t c) : FreeSector t c w where
  home v hv := by rw [ht.home]; exact h.home v hv
  window v hv := by rw [windowOf_congr ht.mgmt]; exact h.window v hv
  die := h.die

theorem fillRead_free {c w v : Nat} (h : FreeSector s c w) (hv : v / 8 = w / 8) : fillRead c v s = (memWord s v, s) := by
  rw [fillRead, if_pos (h.die v hv), homeRead_free (h.window v hv) (h.home v hv)]

/-- One word filled: it is there, with the value of memory. -/
theorem fillWord_fills {c w v : Nat} (h : FreeSector s c w) (hv : v / 8 = w / 8) :
    Fills s (fillWord c v s) c ∧ (l1Find (fillWord c v s) c v).isSome = true := by
  have hput : ∀ {t : State}, FreeSector t c w → ∀ u, u / 8 = w / 8 →
      let t' := l1Put c u ⟨.valid, zext64 (fillRead c u t).1, 0xf#4⟩ (fillRead c u t).2
      Fills t t' c ∧ ∀ x, x = u ∨ (l1Find t c x).isSome = true → (l1Find t' c x).isSome = true := fun {t} ht u hu => by
    rw [fillRead_free ht hu]
    refine ⟨⟨rfl, rfl, rfl, fun x => ?_⟩, fun x hx => ?_⟩
    · rw [l1Find_l1Put]
      split
      · next hxu => exact .inr (by rw [hxu]; rfl)
      · exact .inl rfl
    · rw [l1Find_l1Put]
      split
      · rfl
      · next hxu => exact hx.resolve_left hxu
  obtain ⟨hfill, hsome⟩ := hput h v hv
  have hpair : pairOf v / 8 = w / 8 := (pairOf_div v).trans hv
  obtain ⟨hfill', hsome'⟩ := hput (h.of_fills hfill) (pairOf v) hpair
  have hv' := hsome v (.inl rfl)
  unfold fillWord
  dsimp only
  split
  · split
    · exact ⟨hfill.trans hfill', hsome' v (.inr hv')⟩
    · exact ⟨hfill, hv'⟩
  · exact ⟨hfill, hv'⟩

/-- The missing ones of some words of the sector filled, one after another. -/
theorem foldl_fillWord_fills {c w : Nat} (start : Nat) (js : List Nat) (hjs : ∀ j ∈ js, (start + j) / 8 = w / 8) (h : FreeSector s c w) :
    let t := js.foldl (fun s j => if (l1Find s c (start + j)).isSome then s else fillWord c (start + j) s) s
    Fills s t c ∧ ∀ v, (l1Find s c v).isSome = true ∨ (∃ j ∈ js, start + j = v) → (l1Find t c v).isSome = true := by
  induction js generalizing s with
  | nil => exact ⟨.refl s c, fun v hv => hv.resolve_right (by simp)⟩
  | cons j js ih =>
    have hstep : ∃ u, (if (l1Find s c (start + j)).isSome then s else fillWord c (start + j) s) = u ∧ Fills s u c ∧
        (l1Find u c (start + j)).isSome = true := by
      split
      · next hs => exact ⟨s, rfl, .refl s c, hs⟩
      · exact ⟨_, rfl, fillWord_fills h (hjs j List.mem_cons_self)⟩
    obtain ⟨u, hu, hfill, hsome⟩ := hstep
    obtain ⟨hfill', hsome'⟩ := ih (fun i hi => hjs i (List.mem_cons_of_mem _ hi)) (h.of_fills hfill)
    rw [List.foldl_cons, hu]
    refine ⟨hfill.trans hfill', fun v hv => hsome' v ?_⟩
    rcases hv with hv | ⟨i, hi, rfl⟩
    · rcases hfill.words v with hw | hw
      · exact .inl (hw ▸ hv)
      · exact .inl (by rw [hw]; rfl)
    · rcases List.mem_cons.1 hi with rfl | hi
      · exact .inl hsome
      · exact .inr ⟨i, hi, rfl⟩

/-- A read of an uncovered word fills it with the value of memory (R196, R199). -/
theorem coreRead_fills {c w : Nat} (len : Nat) (hmiss : l1Find s c w = none) (hcov : covered (s.core c).l1 w = false)
    (hroom : (roomWay (s.core c) (l1Set w) 8).isSome = true) (h : FreeSector s c w) :
    (coreRead c w len s).2.mem = s.mem ∧ (coreRead c w len s).2.home = s.home ∧
      l1Find (coreRead c w len s).2 c w = some (filledWord s w) := by
  obtain ⟨b, hb, hhas, hsec⟩ := allocBlock_room len hcov hroom
  have halloc : Fills s (allocBlock c w len s) c := by
    rw [hb]
    exact ⟨rfl, rfl, rfl, fun v => .inl (l1Find_blocks b c v)⟩
  have hfind : ((allocBlock c w len s).core c).l1.blocks.find? (fun b => b.has w) = some b := by
    have hold : (s.core c).l1.blocks.find? (fun b => b.has w) = none := List.find?_eq_none.2 (List.any_eq_false.1 hcov)
    rw [hb, onL1, State.core_onCore_self]
    rw [List.find?_append, hold, Option.none_or, List.find?_singleton, if_pos hhas]
  have hin : ∃ j ∈ upTo b.len, b.word + j = w := by
    simp only [Block.has, Bool.and_eq_true, decide_eq_true_eq] at hhas
    exact ⟨w - b.word, List.mem_range.2 (by omega), by omega⟩
  obtain ⟨hfill, hsome⟩ := foldl_fillWord_fills b.word (upTo b.len) (fun j hj => hsec j (List.mem_range.1 hj)) (h.of_fills halloc)
  have hgot := (halloc.trans hfill).words w
  have hw := hsome w (.inr hin)
  rw [hmiss] at hgot
  have hword := hgot.resolve_left fun hn => by rw [hn] at hw; exact nomatch hw
  have hread : (coreRead c w len s).2 = (upTo b.len).foldl
      (fun s j => if (l1Find s c (b.word + j)).isSome then s else fillWord c (b.word + j) s) (allocBlock c w len s) := by
    unfold coreRead
    simp only [hmiss, hfind, hword]
  rw [hread]
  exact ⟨(halloc.trans hfill).mem, (halloc.trans hfill).home, hword⟩

/-- A read reaches the home of a Free word (R196). -/
theorem homeRemoteRead_free (hmiss : l1Find s s.arg.k s.arg.a = none) (hcov : covered (s.core s.arg.k).l1 s.arg.a = false)
    (hroom : (roomWay (s.core s.arg.k) (l1Set s.arg.a) 8).isSome = true) (h : FreeSector s s.arg.k s.arg.a) :
    ∃ t, Happens .homeRemoteRead s t ∧ t.mem = s.mem ∧ t.home = s.home ∧
      l1Find t s.arg.k s.arg.a =
        some ⟨.valid, BitVec.ofNat 64 (ofBytesLE (memBytes s.mem (4 * s.arg.a) 4)), 0xf#4⟩ := by
  rw [← zext64_memWord]
  exact ⟨_, rfl, coreRead_fills _ hmiss hcov hroom h⟩

/-! ### HOME_WRITE_BACK of a word -/

/-- An owner writes its word back, and the word is Free (R196). -/
theorem homeWriteBack_owned {x : Word} {m : BitVec 4} (hb : s.arg.b = 0)
    (hx : l1Find s s.arg.k s.arg.a = some ⟨.owned true, x, m⟩) (hown : tfind s.home s.arg.a = some (.owned s.arg.k))
    (hwin : windowOf s (lineOfWord s.arg.a) = none) :
    ∃ t, Happens .homeWriteBack s t ∧ tfind t.home s.arg.a = none ∧ l1Find t s.arg.k s.arg.a = none ∧
      t.mem = memPut s.mem (4 * s.arg.a) (bytesLE 4 (x.toNat % 2 ^ 32)) := by
  have hput := homePut_plain (s := l1Drop s.arg.k s.arg.a s) hwin (x.extractLsb' 0 32)
  have hback : writeBack s.arg.k s.arg.a s = clearHome s.arg.a (homePut s.arg.a (x.extractLsb' 0 32) (l1Drop s.arg.k s.arg.a s)) := by
    simp only [writeBack, hx, if_true]
    refine if_pos ?_
    rw [hput]
    exact beq_iff_eq.2 hown
  refine ⟨writeBack s.arg.k s.arg.a s, congrArg Host.Outcome.next (if_pos hb), ?_⟩
  rw [hback, hput]
  refine ⟨tfind_terase_self .., l1Find_l1Drop .., ?_⟩
  show memPut s.mem (4 * s.arg.a) _ = _
  rw [bytesLE_low, ← bytesLE_mod 4 x.toNat]
  rfl

/-! ### HOME_RED_ARRIVAL -/

/-- A Free word of which the core holds nothing is ready for a partial. -/
theorem redReady_free {c w : Nat} {op : RedOp} (hx : l1Find s c w = none) (hfree : tfind s.home w = none) :
    redReady c w op false s = s := by
  simp only [redReady, registerOwn, hx, Bool.false_eq_true, if_false, hfree, recallWord_free hfree]

/-- The first partial of a word in a core starts from the identity (R209). -/
theorem redLocal_first {c w : Nat} {op : RedOp} (v : Word) (hx : l1Find s c w = none) :
    redLocal c w op false v s = ((redCombineWord op false (redIdentityWord op false) v).2,
      l1Put c w ⟨.updateOnly op false, (redCombineWord op false (redIdentityWord op false) v).1, 0xf#4⟩ (allocBlock c w 1 s)) := by
  simp only [redLocal, hx, Bool.false_eq_true, if_false]

/-- The first holder of a Free word: it holds the first partial, and no remote-data cache keeps a copy of the line. -/
theorem redHold_first {k w : Nat} {op : RedOp} (v : Word) (hx : l1Find s (coreOf k) w = none) (hfree : tfind s.home w = none) :
    redHold k w op false v s =
      (l1Put (coreOf k) w ⟨.updateOnly op false, (redCombineWord op false (redIdentityWord op false) v).1, 0xf#4⟩
        (allocBlock (coreOf k) w 1 (dropRdc (lineOfWord w) { s with home := tset s.home w (.updateOnly op false [coreOf k]) }))).onSlot k
        (·.raise (redCombineWord op false (redIdentityWord op false) v).2) := by
  have hlocal := redLocal_first (op := op)
    (s := dropRdc (lineOfWord w) { s with home := tset s.home w (.updateOnly op false [coreOf k]) }) v hx
  simp only [redHold, hfree, Bool.false_eq_true, if_false, hlocal]

/-- A RED combined at the home of a Free word (R210). -/
theorem redHome_free {w : Nat} {op : RedOp} (v : Word) (hfree : tfind s.home w = none) (hwin : windowOf s (lineOfWord w) = none) :
    ∃ x, redHome w op false v s = fireOn w x (dropRdc (lineOfWord w)
      { s with mem := memPut s.mem (4 * w) (bytesLE 4 (redCombineWord op false (zext64 (memWord s w)) v).1.toNat) }) := by
  simp only [redHome, recallWord_free hfree, Bool.false_eq_true, if_false, homeGetWide_plain hwin, homePutWide, homePut_plain hwin,
    bytesLE_low]
  exact ⟨_, fireWatches_plain hwin⟩

theorem l1Forget_none {c w : Nat} (hx : l1Find s c w = none) : l1Forget c w s = s := by rw [l1Forget, hx]

section Red
variable {op : RedOp} {rest : List OutOp} (hop : RedOp.ofCode (BitVec.ofNat 3 s.arg.b) = some op) (hc : s.arg.c ≠ 1)
  (hout : (s.slot s.arg.k).traffic.out = OutOp.red s.arg.u.toNat s.arg.a :: rest) (hmgmt : isMgmt (4 * s.arg.a) = false)
  (hbad : lineBad s (4 * s.arg.a) = false) (hfree : tfind s.home s.arg.a = none) (hx : l1Find s (coreOf s.arg.k) s.arg.a = none)
include hop hc hout hmgmt hbad hfree hx

/-- A 32-bit RED that is the first access of its slot reaches a Free word: the core becomes a holder where the line has room (R210). -/
theorem redArrive_holds (hroom : lineHolders (lineOfWord s.arg.a) s < 4) :
    redArrive s = outDone s.arg.k (.red s.arg.u.toNat s.arg.a) (redHold s.arg.k s.arg.a op false s.arg.w s) := by
  simp [redArrive, hop, hc, hout, hmgmt, consume_good hbad, redReady_free hx hfree, hasPartial, hx, hroom]

/-- Where the line has no room and the handler no record to write, it is combined at the home (R210). -/
theorem redArrive_combines (hroom : 4 ≤ lineHolders (lineOfWord s.arg.a) s)
    (hnot : coreOf s.arg.k ∉ lineCores (lineOfWord s.arg.a) s) (hdh : ctxDh s (s.slot s.arg.k).bind.ctx = false) :
    redArrive s = outDone s.arg.k (.red s.arg.u.toNat s.arg.a)
      (l1Forget (coreOf s.arg.k) s.arg.a (redHome s.arg.a op false s.arg.w s)) := by
  simp [redArrive, hop, hc, hout, hmgmt, consume_good hbad, redReady_free hx hfree, hasPartial, hx, Nat.not_lt.2 hroom, hnot, hdh]

/-- The RED of a new holder (R209, R210). -/
theorem homeRedArrival_holds (hroom : lineHolders (lineOfWord s.arg.a) s < 4)
    (hblock : covered (s.core (coreOf s.arg.k)).l1 s.arg.a = true ∨
      (roomWay (s.core (coreOf s.arg.k)) (l1Set s.arg.a) 1).isSome = true) :
    ∃ t, Happens .homeRedArrival s t ∧ tfind t.home s.arg.a = some (.updateOnly op false [coreOf s.arg.k]) ∧ t.mem = s.mem ∧
      (t.slot s.arg.k).traffic.out = leftOut s s.arg.k (.red s.arg.u.toNat s.arg.a) ∧ (∀ e ∈ t.rdc, e.1 / 4 ≠ s.arg.a / 16) ∧
      l1Find t (coreOf s.arg.k) s.arg.a =
        some ⟨.updateOnly op false, (redCombineWord op false (redIdentityWord op false) s.arg.w).1, 0xf#4⟩ := by
  have harrive := redArrive_holds hop hc hout hmgmt hbad hfree hx hroom
  rw [redHold_first _ hx hfree] at harrive
  obtain ⟨cs, halloc, hstop⟩ := allocBlock_one (w := s.arg.a)
    (s := dropRdc (lineOfWord s.arg.a) { s with home := tset s.home s.arg.a (.updateOnly op false [coreOf s.arg.k]) }) hblock
  rw [halloc] at harrive
  generalize hu : State.onSlot _ s.arg.k _ = u at harrive
  obtain ⟨hmem, hhome, hrdc, hl1, hdone⟩ := outDone_rest s.arg.k (.red s.arg.u.toNat s.arg.a) u
  refine ⟨_, congrArg Host.Outcome.next harrive, ?home, ?mem, hdone.trans (leftOut_congr ?slot ?stopped _), fun e he => ?copies, ?l1⟩
  all_goals subst hu
  case home => exact (congrArg (tfind · _) hhome).trans (tfind_tset_self ..)
  case mem => exact hmem
  case slot => rw [State.slot_onSlot_self]; rfl
  case stopped => exact (onL1_stopped _ _ (fun l => { l with words := tset l.words _ _ }) _).trans (hstop _)
  case copies => exact mem_dropRdc (hrdc ▸ he)
  case l1 => exact (hl1 ..).trans ((l1Find_l1Put ..).trans (if_pos rfl))

/-- The RED that finds no room (R210). -/
theorem homeRedArrival_combines (hroom : 4 ≤ lineHolders (lineOfWord s.arg.a) s)
    (hnot : coreOf s.arg.k ∉ lineCores (lineOfWord s.arg.a) s) (hdh : ctxDh s (s.slot s.arg.k).bind.ctx = false)
    (hwin : windowOf s (lineOfWord s.arg.a) = none) :
    ∃ t, Happens .homeRedArrival s t ∧ tfind t.home s.arg.a = none ∧
      (t.slot s.arg.k).traffic.out = leftOut s s.arg.k (.red s.arg.u.toNat s.arg.a) ∧
      t.mem = memPut s.mem (4 * s.arg.a) (bytesLE 4
        (redCombineWord op false (BitVec.ofNat 64 (ofBytesLE (memBytes s.mem (4 * s.arg.a) 4))) s.arg.w).1.toNat) := by
  rw [← zext64_memWord]
  have harrive := redArrive_combines hop hc hout hmgmt hbad hfree hx hroom hnot hdh
  obtain ⟨x, hred⟩ := redHome_free (op := op) s.arg.w hfree hwin
  generalize redHome s.arg.a op false s.arg.w s = u at harrive hred
  have hu := (congrArg State.untold hred).trans (fireOn_untold ..)
  rw [l1Forget_none ((State.untold_l1Find hu ..).trans hx)] at harrive
  obtain ⟨hmem, hhome, -, -, hdone⟩ := outDone_rest s.arg.k (.red s.arg.u.toNat s.arg.a) u
  refine ⟨_, congrArg Host.Outcome.next harrive, ?_, hdone.trans (leftOut_congr (State.untold_slot hu _) (State.untold_stopped hu _) _),
    hmem.trans (State.untold_mem hu)⟩
  rw [hhome, State.untold_home hu]
  exact hfree

end Red

end Sys2Proof.Machine
end

section
/-! The directory handler (R211) and the format windows (R88, R90): records that are consumed and written, lines that are expanded and
narrowed back, and a window that is enabled. -/

namespace Sys2Proof.Machine

variable {s : State}

/-! ### DIRECTORY_HANDLER_DONE -/

/-- A record at its place in the ring reads as its kind, its line and, for a holder, its core. -/
theorem arrNat_dirWrite (h : Nat) (p : DirPost) (s : State) :
    arrNat (dirWrite h p s) h (dirOffset p.place) 8 = ((if p.kind = 0 then p.value * 2 ^ 52 else 0) + 64 * p.line + p.kind) % 2 ^ 64 := by
  have hevent : (dirWrite h p s).untold = (s.onCore h fun x => { x with arr := dirBytes p x.arr }).untold := setEvent_untold ..
  have harr : ((dirWrite h p s).core h).arr = dirBytes p (s.core h).arr := by
    rw [State.untold_core hevent Core.arr h fun _ => rfl, State.core_onCore_self]
  have hself := memBytes_memPut (s.core h).arr (dirOffset p.place)
    (bytesLE 8 ((if p.kind = 0 then p.value * 2 ^ 52 else 0) + 64 * p.line + p.kind))
  rw [length_bytesLE] at hself
  have hbytes : memBytes (dirBytes p (s.core h).arr) (dirOffset p.place) 8 =
      bytesLE 8 ((if p.kind = 0 then p.value * 2 ^ 52 else 0) + 64 * p.line + p.kind) := by
    refine Eq.trans ?_ hself
    unfold dirBytes
    dsimp only
    split
    · rfl
    · exact memBytes_congr fun i hi => memByte_memPut_outside _ _ _ _ (by omega)
  rw [arrNat, arrBytes, harr, hbytes, ofBytesLE_bytesLE]
  rfl

/-- What the writing of a record changes of its core and of memory. -/
theorem dirWrite_rest (h : Nat) (p : DirPost) (s : State) :
    ((dirWrite h p s).core h).posts = (s.core h).posts ∧ ((dirWrite h p s).core h).dirEntries = (s.core h).dirEntries ∧
      (dirWrite h p s).mem = s.mem ∧ (dirWrite h p s).home = s.home := by
  have hevent : (dirWrite h p s).untold = (s.onCore h fun x => { x with arr := dirBytes p x.arr }).untold := setEvent_untold ..
  refine ⟨?_, ?_, (State.untold_mem hevent :), (State.untold_home hevent :)⟩
  · rw [State.untold_core hevent Core.posts h fun _ => rfl, State.core_onCore_self]
  · rw [State.untold_core hevent Core.dirEntries h fun _ => rfl, State.core_onCore_self]

/-- The record of a ring whose place the handler names. -/
def postAtPlace (n : Nat) (posts : List DirPost) : Option DirPost := posts.find? fun p => p.place % 256 == n

theorem dirOffset_of_place {n : Nat} {posts : List DirPost} {p : DirPost} (h : postAtPlace n posts = some p) :
    dirOffset p.place = 0x7e000 + 16 * n ∧ dirOffset n = 0x7e000 + 16 * n := by
  have hp : p.place % 256 = n := by simpa using List.find?_some h
  have hn : n % 256 = n := by rw [← hp, Nat.mod_mod]
  rw [dirOffset, dirOffset, hp, hn]
  exact ⟨rfl, rfl⟩

theorem dirDone_none {h n : Nat} (hp : postAtPlace n (s.core h).posts = none) : dirDone h n s = s := by
  unfold dirDone
  rw [postAtPlace] at hp
  simp only [hp]

/-- The record that is done is consumed, with the entry that it names for a holder, and one that waited for its place is written. -/
theorem dirDone_consumes {h n : Nat} {p : DirPost} (hp : postAtPlace n (s.core h).posts = some p) :
    ((dirDone h n s).core h).posts = (s.core h).posts.erase p ∧ (dirDone h n s).mem = s.mem ∧ (dirDone h n s).home = s.home ∧
      (p.kind = 0 → tget ((dirDone h n s).core h).dirEntries p.line [] =
        tget (s.core h).dirEntries p.line [] ++ [arrNat s h (0x7e000 + 16 * n + 8) 8 % 2 ^ 52 / 64 * 64]) ∧
      (p.kind ≠ 0 → ((dirDone h n s).core h).dirEntries = (s.core h).dirEntries) ∧
      ∀ q, postAtPlace n ((s.core h).posts.erase p) = some q → arrNat (dirDone h n s) h (0x7e000 + 16 * n) 8 =
        ((if q.kind = 0 then q.value * 2 ^ 52 else 0) + 64 * q.line + q.kind) % 2 ^ 64 := by
  generalize hu : s.setCore h { s.core h with
      posts := (s.core h).posts.erase p
      dirEntries := if p.kind = 0 then tset (s.core h).dirEntries p.line (tget (s.core h).dirEntries p.line [] ++
        [arrNat s h (0x7e000 + 16 * n + 8) 8 % 2 ^ 52 / 64 * 64]) else (s.core h).dirEntries } = u
  have hcore : u.core h = _ := hu ▸ State.core_setCore_self ..
  have hoff := (dirOffset_of_place hp).2
  rw [postAtPlace] at hp
  have hwrite : ∀ q, postAtPlace n ((s.core h).posts.erase p) = some q → dirDone h n s = dirWrite h q u := fun q hq => by
    rw [postAtPlace] at hq
    simp only [dirDone, hp, hoff, hu, hcore, hq]
  have hrest : ((dirDone h n s).core h).posts = (u.core h).posts ∧ ((dirDone h n s).core h).dirEntries = (u.core h).dirEntries ∧
      (dirDone h n s).mem = u.mem ∧ (dirDone h n s).home = u.home := by
    cases hq : postAtPlace n ((s.core h).posts.erase p) with
    | some q =>
      rw [hwrite q hq]
      exact dirWrite_rest ..
    | none =>
      rw [postAtPlace] at hq
      simp only [dirDone, hp, hoff, hu, hcore, hq, and_self]
  obtain ⟨hposts, hentries, hmem, hhome⟩ := hrest
  rw [hcore] at hposts hentries
  refine ⟨hposts, hmem.trans (hu ▸ rfl), hhome.trans (hu ▸ rfl), fun hk => ?_, fun hk => hentries.trans (if_neg hk), fun q hq => ?_⟩
  · rw [hentries]
    simp only [hk, if_true]
    exact tget_tset_self ..
  · rw [hwrite q hq, ← (dirOffset_of_place hq).1]
    exact arrNat_dirWrite ..

/-! ### FORMAT_WINDOW_FILL and FORMAT_WINDOW_WRITEBACK -/

/-- Saturations are counted in a register and in the log of a die alone. -/
theorem winCount_eq (w line n : Nat) (s : State) : ∃ r d, winCount w line n s = { s with mgmt := r, dies := d } := by
  unfold winCount
  split
  · exact ⟨s.mgmt, s.dies, rfl⟩
  · exact ⟨_, _, rfl⟩

/-- A fill takes no room from other lines where the slice has some. -/
theorem fillLine_room {line : Nat}
    (h : (s.work.filter fun e => homeSlice (64 * e.1) == homeSlice (64 * line)).length < sliceLines) :
    fillLine line s = expandLine line s := by
  unfold fillLine
  dsimp only
  split
  · next heq => rw [heq, if_neg (Nat.not_le.2 (heq ▸ h))]
  · rfl

section Window
variable {line w : Nat} {sf wf : Fmt} {place : Nat × Nat × Nat} (hw : windowOf s line = some w)
  (hsf : fmtOf (slice (s.mreg (w + 0x10)) 3 0) = sf) (hwf : fmtOf (slice (s.mreg (w + 0x10)) 7 4) = wf)
  (hplace : winPlace s w line sf wf = place) (hf : winFormats sf wf = some false)
include hw hsf hwf hplace hf

/-- The elements of a line of an unscaled window expanded, each by itself (R90). -/
theorem expandLine_unscaled :
    (expandLine line s).mem = s.mem ∧ (expandLine line s).home = s.home ∧
      tfind (expandLine line s).work line = some (vregOf ((elemsOf 32 16 (ofElems (fmtBits wf)
        ((elemsOf (fmtBits sf) (8 * place.2.1 / fmtBits sf) (ofBytesLE (memBytes s.mem place.1 place.2.1))).map
          fun x => (narrow wf (value sf x) 0 winFpu).1))).map (BitVec.ofNat 32))) := by
  obtain ⟨st, len, sc⟩ := place
  simp only [expandLine, hw, hsf, hwf, hplace, hf]
  obtain ⟨r, d, h⟩ := winCount_eq w line _ _
  rw [h]
  refine ⟨rfl, rfl, ?_⟩
  show tfind (tset s.work line _) line = _
  rw [tfind_tset_self, List.map_map, List.map_map]
  rfl

/-- The elements of a working line of an unscaled window narrowed, each by itself (R90). -/
theorem writeBackLine_unscaled {v : VReg} (hv : tfind s.work line = some v) :
    (writeBackLine line s).work = s.work ∧ (writeBackLine line s).home = s.home ∧
      (writeBackLine line s).mem = memPut s.mem place.1 (bytesLE place.2.1 (ofElems (fmtBits sf)
        ((elemsOf (fmtBits wf) (512 / fmtBits wf) (ofBytesLE (vregBytes v))).map fun x => (narrow sf (value wf x) 0 winFpu).1))) := by
  obtain ⟨st, len, sc⟩ := place
  simp only [writeBackLine, hw, hv, hsf, hwf, hplace, hf]
  obtain ⟨r, d, h⟩ := winCount_eq w line _ _
  rw [h]
  refine ⟨rfl, rfl, ?_⟩
  show memPut s.mem st _ = _
  rw [List.map_map, List.map_map]
  rfl

end Window

theorem writeBackLine_outside {line : Nat} (h : windowOf s line = none) : writeBackLine line s = s := by rw [writeBackLine, h]

/-! ### FORMAT_WINDOW_ENABLE -/

/-- The bits 51:13 of a word, as the address that they are. -/
theorem slice_baseMask (x : Word) : slice (x &&& 0xfffffffffe000#64) 51 13 * 8192 = (x &&& 0xfffffffffe000#64).toNat := by
  refine Nat.eq_of_testBit_eq fun i => ?_
  have hmask : (0xfffffffffe000#64).getLsbD i = decide (13 ≤ i ∧ i < 13 + 39) := testBit_fieldMask 39 13 i
  rw [show (8192 : Nat) = 2 ^ 13 from rfl, Nat.testBit_mul_two_pow, testBit_slice, BitVec.testBit_toNat, BitVec.getLsbD_and,
    BitVec.getLsbD_and, hmask]
  by_cases hi : 13 ≤ i
  · rw [show 13 + (i - 13) = i by omega, hmask]
    by_cases hi' : i < 52
    · simp [hi, hi', show i - 13 < 51 + 1 - 13 by omega]
    · simp [hi, show ¬ i < 13 + 39 by omega]
  · simp [hi]

/-- The limit of a window as its register holds it. -/
theorem slice_limit (x : Word) : slice x 51 13 * 8192 = x.toNat / 2 ^ 13 % 2 ^ 39 * 2 ^ 13 := by
  rw [slice, Nat.shiftRight_eq_div_pow]
  rfl

theorem windowFits_iff {d k : Nat} {x : Word} :
    windowFits s d k (x &&& 0xfffffffffe000#64) = true ↔ accepted s 20 = true ∧
      (winFormats (fmtOf (slice (s.mreg (winReg d k + 0x10)) 3 0)) (fmtOf (slice (s.mreg (winReg d k + 0x10)) 7 4))).isSome = true ∧
      rangeOnDie d (x &&& 0xfffffffffe000#64).toNat ((s.mreg (winReg d k + 8)).toNat / 2 ^ 13 % 2 ^ 39 * 2 ^ 13) = true := by
  rw [windowFits, slice_baseMask, slice_limit]
  simp only [Bool.and_eq_true, and_assoc]

/-- A window is enabled where feature 20 is accepted and its formats and its range are (R88). -/
theorem formatWindowEnable_physical (hc : s.arg.c = 0) :
    ∃ t, Happens .formatWindowEnable s t ∧ t.slots = s.slots ∧ t.mem = s.mem ∧
      t.mreg (winReg s.arg.k s.arg.a) = if windowFits s s.arg.k s.arg.a (s.arg.w &&& 0xfffffffffe000#64)
        then (s.arg.w &&& 0xfffffffffe000#64) ||| 1#64 else s.arg.w &&& 0xfffffffffe000#64 :=
  ⟨_, congrArg Host.Outcome.next (pfOnly_physical s hc), rfl, rfl, State.mreg_setMreg_self ..⟩

end Sys2Proof.Machine
end

section
/-! The flush of a line (R212, R234): reads and writes at the home change no home word and no slot, and recalls and gathers only make words
Free. -/

namespace Sys2Proof.Machine

/-! ### What reads and writes at the home leave alone -/

/-- The words that are not Free at their home, and the slots. -/
def State.homesAndSlots (s : State) : Tbl HomeSt × (Nat → Slot) := (s.home, fun k => (s.slot k).untold)

section Kept
variable (s : State)

theorem homesAndSlots_of_untold {s t : State} (h : t.untold = s.untold) : t.homesAndSlots = s.homesAndSlots :=
  Prod.ext (State.untold_home h) (funext (State.untold_slot h))

@[simp] theorem winCount_homesAndSlots (w line n : Nat) : (winCount w line n s).homesAndSlots = s.homesAndSlots := by
  unfold winCount
  split <;> rfl

@[simp] theorem expandLine_homesAndSlots (line : Nat) : (expandLine line s).homesAndSlots = s.homesAndSlots := by
  unfold expandLine
  split
  · rfl
  · exact winCount_homesAndSlots ..

@[simp] theorem writeBackLine_homesAndSlots (line : Nat) : (writeBackLine line s).homesAndSlots = s.homesAndSlots := by
  unfold writeBackLine
  split
  · dsimp only
    split <;> exact winCount_homesAndSlots ..
  · rfl

@[simp] theorem fillLine_homesAndSlots (line : Nat) : (fillLine line s).homesAndSlots = s.homesAndSlots := by
  unfold fillLine
  dsimp only
  split
  · split
    · exact (expandLine_homesAndSlots ..).trans (writeBackLine_homesAndSlots ..)
    · simp
  · simp

theorem fillUnlessHeld_homesAndSlots (line : Nat) :
    (if (tfind s.work line).isSome then s else fillLine line s).homesAndSlots = s.homesAndSlots := by
  split <;> simp

@[simp] theorem homeGet_homesAndSlots (w : Nat) : (homeGet w s).2.homesAndSlots = s.homesAndSlots := by
  unfold homeGet
  split
  · rfl
  · exact fillUnlessHeld_homesAndSlots ..

@[simp] theorem homePut_homesAndSlots (w : Nat) (v : BitVec 32) : (homePut w v s).homesAndSlots = s.homesAndSlots := by
  unfold homePut
  split
  · rfl
  · exact fillUnlessHeld_homesAndSlots s (lineOfWord w)

@[simp] theorem homeGetWide_homesAndSlots (wide : Bool) (w : Nat) : (homeGetWide wide w s).2.homesAndSlots = s.homesAndSlots := by
  unfold homeGetWide
  cases wide <;> simp

@[simp] theorem homePutWide_homesAndSlots (wide : Bool) (w : Nat) (v : Word) :
    (homePutWide wide w v s).homesAndSlots = s.homesAndSlots := by
  unfold homePutWide
  cases wide <;> simp

@[simp] theorem fireWatches_homesAndSlots (w : Nat) : (fireWatches w s).homesAndSlots = s.homesAndSlots :=
  (homesAndSlots_of_untold (fireOn_untold ..)).trans (homeGet_homesAndSlots ..)

@[simp] theorem l1Drop_homesAndSlots (c w : Nat) : (l1Drop c w s).homesAndSlots = s.homesAndSlots := rfl

@[simp] theorem dirWrite_homesAndSlots (h : Nat) (p : DirPost) : (dirWrite h p s).homesAndSlots = s.homesAndSlots :=
  (homesAndSlots_of_untold (setEvent_untold ..)).trans rfl

@[simp] theorem dirPost_homesAndSlots (kind value line : Nat) : (dirPost kind value line s).homesAndSlots = s.homesAndSlots := by
  unfold dirPost
  dsimp only
  split
  · rfl
  · exact (dirWrite_homesAndSlots ..).trans rfl

@[simp] theorem homePeek_homesAndSlots (w : Nat) : (homePeek w s).2.homesAndSlots = s.homesAndSlots := by
  unfold homePeek
  split
  · split <;> simp
  · simp

theorem wordsBy_homesAndSlots {f : Nat → State → BitVec 32 × State} (hf : ∀ w s, (f w s).2.homesAndSlots = s.homesAndSlots) (w n : Nat)
    (s : State) : (wordsBy f w n s).2.homesAndSlots = s.homesAndSlots := by
  induction n generalizing w s with
  | zero => rfl
  | succ n ih => exact (ih (w + 1) _).trans (hf w s)

theorem readChain_homesAndSlots (n e : Nat) (s : State) : (readChain n e s).2.homesAndSlots = s.homesAndSlots := by
  induction n generalizing e s with
  | zero => rfl
  | succ n ih =>
    unfold readChain
    split
    · rfl
    · exact (ih _ _).trans (wordsBy_homesAndSlots (fun w s => homePeek_homesAndSlots s w) ..)

@[simp] theorem readChains_homesAndSlots (es : List Nat) : (readChains es s).2.homesAndSlots = s.homesAndSlots := by
  refine foldl_keeps (fun x : _ × State => x.2.homesAndSlots) _ (fun x e => ?_) es _
  split
  · rfl
  · exact readChain_homesAndSlots ..

end Kept

/-! ### Words made Free -/

/-- Nothing has happened to slots, and to words at their homes no more than that some are Free. -/
structure OnlyFrees (s t : State) : Prop where
  home : ∀ w, tfind t.home w = tfind s.home w ∨ tfind t.home w = none
  slots : ∀ k, (t.slot k).untold = (s.slot k).untold

section Frees
variable {s t u : State}

theorem onlyFrees_of_kept (h : t.homesAndSlots = s.homesAndSlots) : OnlyFrees s t where
  home w := .inl (congrArg (fun x => tfind x.1 w) h)
  slots k := congrFun (congrArg Prod.snd h) k

theorem OnlyFrees.trans (h : OnlyFrees s t) (h' : OnlyFrees t u) : OnlyFrees s u where
  home w := by
    rcases h'.home w with hw | hw
    · rw [hw]
      exact h.home w
    · exact .inr hw
  slots k := (h'.slots k).trans (h.slots k)

theorem OnlyFrees.refl (s : State) : OnlyFrees s s := onlyFrees_of_kept rfl

theorem onlyFrees_clearHome (w : Nat) (s : State) : OnlyFrees s (clearHome w s) where
  home u := by
    by_cases hu : u = w
    · exact .inr (hu ▸ tfind_terase_self ..)
    · exact .inl (tfind_terase_ne _ hu)
  slots _ := rfl

/-- A word stays Free. -/
theorem OnlyFrees.free (h : OnlyFrees s t) {w : Nat} (hw : tfind s.home w = none) : tfind t.home w = none := by
  rcases h.home w with h | h
  · rw [h, hw]
  · exact h

theorem onlyFrees_foldl {α : Type} {f : State → α → State} (hf : ∀ s a, OnlyFrees s (f s a)) (l : List α) (s : State) :
    OnlyFrees s (l.foldl f s) := by
  induction l generalizing s with
  | nil => exact .refl s
  | cons a l ih => exact (hf s a).trans (ih _)

/-- A step that is taken only where b says so. -/
theorem onlyFrees_ite {f : State → State} (hf : ∀ s, OnlyFrees s (f s)) (b : Bool) (s : State) : OnlyFrees s (if b then f s else s) := by
  cases b
  · exact .refl s
  · exact hf s

theorem onlyFrees_gatherWord (more : List Nat) (w : Nat) (s : State) : OnlyFrees s (gatherWord more w s) := by
  unfold gatherWord
  split
  · next op wide holders _ =>
    have hdrop : ∀ s c, OnlyFrees s (if wide then l1Drop c (w + 1) (l1Drop c w s) else l1Drop c w s) := fun s c =>
      onlyFrees_of_kept (by cases wide <;> rfl)
    have hput : ∀ v s, OnlyFrees s (homePutWide wide w v (clearHome w s)) := fun v s =>
      (onlyFrees_clearHome w s).trans (onlyFrees_of_kept (homePutWide_homesAndSlots ..))
    have hfire : ∀ w s, OnlyFrees s (fireWatches w s) := fun w s => onlyFrees_of_kept (fireWatches_homesAndSlots ..)
    exact (onlyFrees_of_kept (homeGetWide_homesAndSlots ..)).trans ((onlyFrees_foldl hdrop ..).trans ((hput ..).trans
      ((onlyFrees_ite (onlyFrees_clearHome (w + 1)) wide _).trans ((hfire ..).trans (onlyFrees_ite (hfire (w + 1)) wide _)))))
  · exact .refl s

theorem onlyFrees_gather (w : Nat) (s : State) : OnlyFrees s (gather w s) := by
  unfold gather
  dsimp only
  split
  · split
    · exact onlyFrees_gatherWord ..
    · have hgather : ∀ cs s w, OnlyFrees s (gatherWord cs w s) := fun cs s w => onlyFrees_gatherWord cs w s
      have hpost : ∀ line s e, OnlyFrees s (dirPost 1 e line s) := fun line s e => onlyFrees_of_kept (dirPost_homesAndSlots ..)
      have hcore : ∀ h f s, OnlyFrees s (State.onCore s h f) := fun h f s => onlyFrees_of_kept rfl
      exact (onlyFrees_of_kept (readChains_homesAndSlots ..)).trans ((onlyFrees_foldl (hgather _) ..).trans
        ((hcore ..).trans (onlyFrees_foldl (hpost _) ..)))
  · exact .refl s

/-- A recalled word of an owner is Free. -/
theorem recallWord_owned {w c : Nat} (h : tfind s.home w = some (.owned c)) : ∃ u, OnlyFrees s u ∧ recallWord w s = clearHome w u := by
  unfold recallWord
  simp only [h]
  split
  · exact ⟨_, onlyFrees_of_kept ((homePut_homesAndSlots (l1Drop c w s) ..).trans rfl), rfl⟩
  · exact ⟨s, .refl s, rfl⟩

theorem onlyFrees_recallWord (w : Nat) (s : State) : OnlyFrees s (recallWord w s) := by
  cases h : tfind s.home w with
  | none =>
    rw [recallWord_free h]
    exact .refl s
  | some st =>
    cases st with
    | owned c =>
      obtain ⟨u, hu, he⟩ := recallWord_owned h
      exact he ▸ hu.trans (onlyFrees_clearHome w u)
    | _ =>
      rw [recallWord, h]
      exact onlyFrees_gather ..

/-- A word that is Free or owned is Free once it is recalled. -/
theorem recallWord_frees {w : Nat} (h : tfind s.home w = none ∨ ∃ c, tfind s.home w = some (.owned c)) :
    tfind (recallWord w s).home w = none := by
  rcases h with h | ⟨c, h⟩
  · exact (onlyFrees_recallWord w s).free h
  · obtain ⟨u, -, he⟩ := recallWord_owned h
    rw [he]
    exact tfind_terase_self ..

/-- Words recalled one after another: an owned one among them is Free. -/
theorem foldl_recallWord_frees (l : Tbl HomeSt) {w c : Nat} {st : HomeSt} (hmem : (w, st) ∈ l) (hown : tfind s.home w = some (.owned c)) :
    tfind (l.foldl (fun s e => recallWord e.1 s) s).home w = none := by
  obtain ⟨before, after, rfl⟩ := List.append_of_mem hmem
  rw [List.foldl_append, List.foldl_cons]
  have hstep : ∀ (s : State) (e : Nat × HomeSt), OnlyFrees s (recallWord e.1 s) := fun s e => onlyFrees_recallWord e.1 s
  have hb := (onlyFrees_foldl hstep before s).home w
  exact (onlyFrees_foldl hstep after _).free (recallWord_frees (hb.symm.imp_right fun h => ⟨c, h.trans hown⟩))

theorem onlyFrees_recallLine (line : Nat) (s : State) : OnlyFrees s (recallLine line s) :=
  OnlyFrees.trans (onlyFrees_foldl (fun s (e : Nat × HomeSt) => onlyFrees_recallWord e.1 s) ..)
    (onlyFrees_of_kept (writeBackLine_homesAndSlots _ line))

/-- Every owned word of a line is Free once the line is recalled (R234). -/
theorem recallLine_frees {line w c : Nat} (hw : w / 16 = line) (hown : tfind s.home w = some (.owned c)) :
    tfind (recallLine line s).home w = none := by
  have hmem : (w, HomeSt.owned c) ∈ s.home.filter fun e => e.1 / 16 == line :=
    List.mem_filter.2 ⟨mem_of_tfind hown, beq_iff_eq.2 hw⟩
  exact (onlyFrees_of_kept (writeBackLine_homesAndSlots ..)).free (foldl_recallWord_frees _ hmem hown)

/-- What a flush does beside the recall touches no home. -/
theorem onlyFrees_flushLine (c line : Nat) (inv : Bool) (s : State) : OnlyFrees (recallLine line s) (flushLine c line inv s) := by
  unfold flushLine
  cases inv
  · exact .refl _
  · refine OnlyFrees.trans (t := dropRdc line { recallLine line s with work := terase (recallLine line s).work line })
      (onlyFrees_of_kept rfl) (onlyFrees_foldl (fun s j => ?_) ..)
    split
    · split
      · exact onlyFrees_of_kept rfl
      · exact .refl s
    · exact .refl s

theorem recallLine_still (line : Nat) (s : State) : (recallLine line s).still = s.still := by
  rw [recallLine, writeBackLine_still]
  exact foldl_still s (fun s (e : Nat × HomeSt) => recallWord_still s e.1) _

theorem flushLine_still (c line : Nat) (inv : Bool) (s : State) : (flushLine c line inv s).still = s.still := by
  unfold flushLine
  cases inv
  · exact recallLine_still ..
  · refine (foldl_still (dropRdc line { recallLine line s with work := terase (recallLine line s).work line }) (fun s j => ?_) _).trans
      (recallLine_still line s)
    split
    · split
      · exact l1Drop_still ..
      · rfl
    · rfl

end Frees

/-! ### HOME_WRITE_BACK of a line -/

/-- The flush of a line, first among the accesses of its slot: each owned word of the line is Free (R234). -/
theorem homeWriteBack_flush {s : State} {inv : Bool} {rest : List OutOp} (hb : s.arg.b = if inv then 2 else 1)
    (hout : (s.slot s.arg.c).traffic.out = OutOp.flush s.arg.a inv :: rest) :
    ∃ t, Happens .homeWriteBack s t ∧ (t.slot s.arg.c).traffic.out = leftOut s s.arg.c (.flush s.arg.a inv) ∧
      ∀ w c, w / 16 = s.arg.a → tfind s.home w = some (.owned c) → tfind t.home w = none := by
  have hkind : (s.arg.b == 2) = inv := by rw [hb]; cases inv <;> rfl
  have hzero : s.arg.b ≠ 0 := by rw [hb]; cases inv <;> decide
  have hfrees := onlyFrees_flushLine s.arg.k s.arg.a inv s
  have hall := (onlyFrees_recallLine s.arg.a s).trans hfrees
  have hstop := congrArg Core.stopped (State.still_core (flushLine_still s.arg.k s.arg.a inv s) (coreOf s.arg.c))
  obtain ⟨-, hhome, -, -, hdone⟩ := outDone_rest s.arg.c (.flush s.arg.a inv) (flushLine s.arg.k s.arg.a inv s)
  refine ⟨outDone s.arg.c (.flush s.arg.a inv) (flushLine s.arg.k s.arg.a inv s), ?happens,
    hdone.trans (leftOut_congr (hall.slots _) hstop _), fun w c hw hown => ?free⟩
  case happens =>
    refine congrArg Host.Outcome.next ?_
    simp [hzero, hkind, hout]
  case free =>
    rw [hhome]
    exact hfrees.free (recallLine_frees hw hown)

end Sys2Proof.Machine
end

section
/-! The statement on the events of memory, put together from the lemmas on each of its clauses. -/

namespace Sys2Proof.Machine

/-- Settles O52: each clause by the lemma on its event. -/
theorem memoryEvents : Obligations.MemoryEvents := by
  unfold Obligations.MemoryEvents
  intro s k wd free done
  refine ⟨?registration, ?read, ?writeBack, ?flush, ?red, ?handler, ?held, ?outside, ?windows, ?virtual, ?enable⟩
  case registration =>
    rintro v _ hx rfl hfree hbad hwin hpair
    exact homeRegistration_free hx hfree hbad hwin hpair
  case read =>
    exact fun hmiss hcov hroom hdie hwin hfree => homeRemoteRead_free hmiss hcov hroom (freeSector_of_word hdie hwin hfree)
  case writeBack => exact fun hb x m hx hown hwin => homeWriteBack_owned hb hx hown hwin
  case flush => exact fun inv rest hb hout => homeWriteBack_flush hb hout
  case red =>
    intro w c line op rest hop hc hout hmgmt hbad hfree hx
    refine ⟨fun hroom hblock => homeRedArrival_holds hop hc hout hmgmt hbad hfree hx hroom hblock, fun hroom hnot hdh hwin => ?combines⟩
    case combines =>
      obtain ⟨t, ht, hhome, hdone, hmem⟩ := homeRedArrival_combines hop hc hout hmgmt hbad hfree hx hroom
        (by simpa using hnot) hdh hwin
      refine ⟨t, ht, hhome, hdone, ?_, fun a ha => ?_⟩
      · have hself := memBytes_memPut s.mem (4 * w) (bytesLE 4
          (redCombineWord op false (BitVec.ofNat 64 (ofBytesLE (memBytes s.mem (4 * w) 4))) s.arg.w).1.toNat)
        rwa [length_bytesLE, ← hmem] at hself
      · rw [hmem]
        exact memByte_memPut_outside _ _ _ _ (by rwa [length_bytesLE])
  case handler =>
    exact ⟨fun hp => congrArg Host.Outcome.next (dirDone_none hp), fun p hp => ⟨_, rfl, dirDone_consumes hp⟩⟩
  case held => exact fun h => congrArg Host.Outcome.next (if_pos (Bool.or_eq_true_iff.2 (.inl h)))
  case outside =>
    exact fun h => ⟨congrArg Host.Outcome.next (if_pos (Bool.or_eq_true_iff.2 (.inr (Option.isNone_iff_eq_none.2 h)))),
      congrArg Host.Outcome.next (writeBackLine_outside h)⟩
  case windows =>
    intro w hw f sf wf place hf
    refine ⟨fun hnone hroom => ?fill, fun v hv => ?back⟩
    case fill =>
      have hfill : (if (tfind s.work k).isSome || (windowOf s k).isNone then s else fillLine k s) = expandLine k s := by
        rw [hnone, hw]
        exact fillLine_room hroom
      obtain ⟨hmem, hhome, hwork⟩ := expandLine_unscaled hw rfl rfl rfl hf
      exact ⟨_, congrArg Host.Outcome.next hfill, hmem, hhome, hwork⟩
    case back =>
      exact ⟨_, rfl, writeBackLine_unscaled hw rfl rfl rfl hf hv⟩
  case virtual => exact fun h => congrArg Host.Outcome.next (pfOnly_other s h)
  case enable =>
    intro hc
    obtain ⟨t, ht, hslots, hmem, hreg⟩ := formatWindowEnable_physical hc
    refine ⟨t, ht, hslots, hmem, fun h20 hformats hrange => ?_, fun h20 => ?_⟩
    · exact hreg.trans (if_pos (windowFits_iff.2 ⟨h20, hformats, hrange⟩))
    · refine hreg.trans (if_neg fun h => ?_)
      rw [(windowFits_iff.1 h).1] at h20
      exact nomatch h20

end Sys2Proof.Machine
end

section
/-! The checks of R217 on one access: what each of them finds, in their order, and the instructions that make one access. -/

namespace Sys2Proof.Machine

/-! ### The last byte of an aligned access -/

/-- An aligned access of n bytes lies in one block of any multiple of n bytes. -/
theorem last_div_eq {a n m : Nat} (hpos : 0 < n) (hnm : n ∣ m) (hal : a % n = 0) : (a + (n - 1)) / m = a / m := by
  obtain ⟨r, rfl⟩ := hnm
  rw [← Nat.div_div_eq_div_mul, ← Nat.div_div_eq_div_mul, Nat.add_div_of_dvd_right (Nat.dvd_of_mod_eq_zero hal),
    Nat.div_eq_of_lt (Nat.sub_lt hpos Nat.one_pos), Nat.add_zero]

/-- Memory ends below the peer windows, and its addresses are canonical (R216). -/
theorem regionOf_memory_iff {s : State} {c a : Nat} : regionOf s c a = .memory ↔ a < peerBase ∧ (a / 2 ^ 56 = 0 ∨ a / 2 ^ 56 = 255) := by
  have hbase : peerBase < localBase := by decide
  rw [regionOf]
  dsimp only
  by_cases hl : localBase ≤ a
  · rw [if_pos hl]
    refine iff_of_false ?_ (by omega)
    split_ifs <;> exact nofun
  · rw [if_neg hl]
    by_cases hp : peerBase ≤ a
    · rw [if_pos hp]
      refine iff_of_false ?_ (by omega)
      split_ifs <;> exact nofun
    · rw [if_neg hp]
      split_ifs with ht
      · exact iff_of_true rfl ⟨by omega, by simpa using ht⟩
      · exact iff_of_false nofun fun h => ht (by simpa using h.2)

theorem regionOf_window_ne {s : State} {c a : Nat} (h : peerBase ≤ a) : regionOf s c a ≠ .nonCanonical := by
  rw [regionOf]
  dsimp only
  split_ifs <;> exact nofun

theorem regionOf_hole_le {s : State} {c a : Nat} (h : regionOf s c a = .hole) : peerBase ≤ a := by
  have hbase : peerBase < localBase := by decide
  by_contra hlt
  rw [regionOf, if_neg (by omega), if_neg hlt] at h
  dsimp only at h
  split_ifs at h

/-! ### The checks of one access, in their order -/

/-- What R217 makes of one aligned access. -/
theorem checkAccess_one {s : State} {k al : Nat} {kind : AccKind} {u : Span} (hal : u.a % al = 0) (hn : u.n ≠ 0) :
    checkAccess k kind al [u] s = match u.nonCanonical s (coreOf k) with
      | some b => some (s, .trap 0x0e (BitVec.ofNat 64 b))
      | none => match u.straddle s (coreOf k) with
        | some b => some (s, .trap 0x09 (BitVec.ofNat 64 b))
        | none =>
          if !(s.slot k).sv && regionOf s (coreOf k) u.a == .system then some (s, .trap 0x0e (BitVec.ofNat 64 u.a))
          else match xlatCheck k kind ((u.pages s (coreOf k)).map fun v => (v, u.a, translate k kind v s)) s with
            | some e => some e
            | none => (badLine k kind [u] s).map fun pa => (s, .bad pa) := by
  have hfilter : [u].filter (fun u => u.n != 0) = [u] := by simp [hn]
  have hfind : [u].find? (fun u => u.a % al != 0) = none := by simp [hal]
  have hsystem : [u].find? (fun u => !(s.slot k).sv && regionOf s (coreOf k) u.a == .system) =
      if !(s.slot k).sv && regionOf s (coreOf k) u.a == .system then some u else none := by
    rw [List.find?_cons, List.find?_nil]
    split <;> simp_all
  simp only [checkAccess, hfind, hfilter, List.findSome?_cons, List.findSome?_nil, List.flatMap_cons, List.flatMap_nil, List.append_nil, hsystem]
  cases u.nonCanonical s (coreOf k) with
  | some b => rfl
  | none =>
    cases u.straddle s (coreOf k) with
    | some b => rfl
    | none => cases !(s.slot k).sv && regionOf s (coreOf k) u.a == .system <;> rfl

section OneAccess
variable {s : State} {kind : AccKind} {x : Word} {n : Nat} (hpos : 0 < n) (h8 : n ∣ 8) (hal : x.toNat % n = 0)

theorem checkAccess_misaligned (h : x.toNat % n ≠ 0) : checkAccess s.cur kind n [⟨x.toNat, n⟩] s = some (s, .trap 0x08 x) := by
  have hfind : [(⟨x.toNat, n⟩ : Span)].find? (fun u => u.a % n != 0) = some ⟨x.toNat, n⟩ := by simp [h]
  simp only [checkAccess, hfind, BitVec.ofNat_toNat, BitVec.setWidth_eq]

include hpos

/-- The first byte of an access is the first that a condition on regions finds. -/
theorem findByte_first {p : Area → Bool} (hp : p (regionOf s s.myCore x.toNat) = true) :
    (⟨x.toNat, n⟩ : Span).findByte s s.myCore p = some x.toNat := by
  obtain ⟨m, rfl⟩ := Nat.exists_eq_succ_of_ne_zero hpos.ne'
  have hfirst : (x.toNat + 0) % 2 ^ 64 = x.toNat := Nat.mod_eq_of_lt x.isLt
  rw [Span.findByte, upTo, List.range_succ_eq_map, List.map_cons, hfirst, List.find?_cons, hp]

include hal

theorem checkAccess_nonCanonical (h : regionOf s s.myCore x.toNat = .nonCanonical) :
    checkAccess s.cur kind n [⟨x.toNat, n⟩] s = some (s, .trap 0x0e x) := by
  have hnc : (⟨x.toNat, n⟩ : Span).nonCanonical s (coreOf s.cur) = some x.toNat := by
    have hfirst : regionOf s (coreOf s.cur) x.toNat = .nonCanonical := h
    rw [Span.nonCanonical, hfirst]
    exact findByte_first hpos (p := (· == .nonCanonical)) (by rw [h]; rfl)
  rw [checkAccess_one hal hpos.ne', hnc]
  simp only [BitVec.ofNat_toNat, BitVec.setWidth_eq]

include h8

/-- An aligned access does not run over the top of the addresses. -/
theorem last_aligned : (⟨x.toNat, n⟩ : Span).last = x.toNat + (n - 1) := by
  have hdiv : (x.toNat + (n - 1)) / 2 ^ 64 = x.toNat / 2 ^ 64 := last_div_eq hpos (h8.trans (by decide)) hal
  have hlt := x.isLt
  have hfits : x.toNat + (n - 1) < 2 ^ 64 := by omega
  exact Nat.mod_eq_of_lt hfits

theorem nonCanonical_none (hfirst : regionOf s s.myCore x.toNat ≠ .nonCanonical)
    (hlast : regionOf s s.myCore (x.toNat + (n - 1)) ≠ .nonCanonical) : (⟨x.toNat, n⟩ : Span).nonCanonical s (coreOf s.cur) = none := by
  rw [Span.nonCanonical, last_aligned hpos h8 hal]
  exact if_pos (by simpa using ⟨hfirst, hlast⟩)

theorem checkAccess_hole (h : regionOf s s.myCore x.toNat = .hole) : checkAccess s.cur kind n [⟨x.toNat, n⟩] s = some (s, .trap 0x09 x) := by
  have hnc := nonCanonical_none hpos h8 hal (by rw [h]; exact nofun) (regionOf_window_ne (Nat.le_add_right_of_le (regionOf_hole_le h)))
  have hst : (⟨x.toNat, n⟩ : Span).straddle s (coreOf s.cur) = some x.toNat := if_pos h
  rw [checkAccess_one hal hpos.ne', hnc, hst]
  simp only [BitVec.ofNat_toNat, BitVec.setWidth_eq]

/-- An access within one region that is no hole passes orders 2 and 3. -/
theorem straddle_none {r : Area} (hr : r ≠ .hole) (hfirst : regionOf s s.myCore x.toNat = r)
    (hlast : regionOf s s.myCore (x.toNat + (n - 1)) = r) : (⟨x.toNat, n⟩ : Span).straddle s (coreOf s.cur) = none := by
  have hf : regionOf s (coreOf s.cur) x.toNat = r := hfirst
  rw [Span.straddle, last_aligned hpos h8 hal, show regionOf s (coreOf s.cur) (x.toNat + (n - 1)) = r from hlast]
  dsimp only
  rw [hf, if_neg hr, if_pos rfl]

theorem checkAccess_system (h : regionOf s s.myCore x.toNat = .system) (hlast : regionOf s s.myCore (x.toNat + (n - 1)) = .system)
    (hsv : s.me.sv = false) : checkAccess s.cur kind n [⟨x.toNat, n⟩] s = some (s, .trap 0x0e x) := by
  have hnc := nonCanonical_none hpos h8 hal (by rw [h]; exact nofun) (by rw [hlast]; exact nofun)
  have hst := straddle_none hpos h8 hal (by exact nofun) h hlast
  have hright : (!(s.slot s.cur).sv && regionOf s (coreOf s.cur) x.toNat == .system) = true := by
    rw [show (s.slot s.cur).sv = false from hsv, show regionOf s (coreOf s.cur) x.toNat = .system from h]
    rfl
  rw [checkAccess_one hal hpos.ne', hnc, hst]
  dsimp only
  rw [if_pos hright]
  simp only [BitVec.ofNat_toNat, BitVec.setWidth_eq]

/-- An aligned access of at most a doubleword to memory lies in one page. -/
theorem last_memory (h : regionOf s s.myCore x.toNat = .memory) :
    regionOf s s.myCore (x.toNat + (n - 1)) = .memory ∧ (x.toNat + (n - 1)) / 8192 = x.toNat / 8192 := by
  obtain ⟨hlt, htop⟩ := regionOf_memory_iff.1 h
  have hd8 : (x.toNat + (n - 1)) / 8 = x.toNat / 8 := last_div_eq hpos h8 hal
  have hd56 : (x.toNat + (n - 1)) / 2 ^ 56 = x.toNat / 2 ^ 56 := last_div_eq hpos (h8.trans (by decide)) hal
  have hbase : peerBase = 0xffffffffffb00000 := rfl
  refine ⟨regionOf_memory_iff.2 ⟨by omega, by omega⟩, last_div_eq hpos (h8.trans (by decide)) hal⟩

/-- The page holds no right for an access that is not a fetch (R243). -/
theorem checkAccess_forbidden {t : TlbEntry} (h : regionOf s s.myCore x.toNat = .memory)
    (ht : tlbFind s s.myOctet s.myCtx x.toNat = some t) (hk : kind ≠ .fetch) (hno : allowed kind s.me.sv t.u t.x t.w t.r = false) :
    checkAccess s.cur kind n [⟨x.toNat, n⟩] s = some (s, .trap 0x0e x) := by
  obtain ⟨hlast, hpage⟩ := last_memory hpos h8 hal h
  have hnc := nonCanonical_none hpos h8 hal (by rw [h]; exact nofun) (by rw [hlast]; exact nofun)
  have hst := straddle_none hpos h8 hal (by exact nofun) h hlast
  have hf : regionOf s (coreOf s.cur) x.toNat = .memory := h
  have hpages : (⟨x.toNat, n⟩ : Span).pages s (coreOf s.cur) = [x.toNat] := by
    rw [Span.pages, last_aligned hpos h8 hal, hf]
    simp [hpos.ne', hpage]
  have hx : translate s.cur kind x.toNat s = .forbidden := by
    have hfind : tlbFind s (octetOf (coreOf s.cur)) (s.slot s.cur).bind.ctx x.toNat = some t := ht
    have hright : allowed kind (s.slot s.cur).sv t.u t.x t.w t.r = false := hno
    simp only [translate, hfind, grant, hright, Bool.not_false, if_true]
  have hcheck : xlatCheck s.cur kind [(x.toNat, x.toNat, .forbidden)] s = some (s, .trap 0x0e x) := by
    have hunmapped : Xlat.unmapped .forbidden = false := rfl
    have hbarred : Xlat.barred .forbidden = true := rfl
    simp only [xlatCheck, List.find?_cons, List.find?_nil, hunmapped, hbarred, xlatEnding, if_neg hk, BitVec.ofNat_toNat, BitVec.setWidth_eq]
  rw [checkAccess_one hal hpos.ne', hnc, hst, hf]
  simp only [hpages, List.map_cons, List.map_nil, hx, hcheck, show (Area.memory == Area.system) = false from rfl, Bool.and_false,
    Bool.false_eq_true, if_false]

end OneAccess

/-! ### Instructions that make one access -/

theorem accessWait_of_storeWait {sl : Slot} (h : storeWait sl = none) : accessWait sl = none := by
  unfold storeWait at h
  split at h
  · exact nomatch h
  · assumption

section Bodies
variable {s : State} {e : State × Ending}

theorem loadBody_checked {engine : Bool} {al : Nat} {ws : List Want} {us : List Span} (hreplay : s.me.replay = none)
    (hwait : accessWait s.me = none) (hc : checkAccess s.cur .load al us s = some e) : loadBody engine al ws us s = e := by
  have hnow : (engine && s.me.replaying) = false := by rw [Slot.replaying, hreplay, Bool.and_false]
  simp only [loadBody, hnow, hwait, hc, Bool.false_eq_true, if_false]

theorem storeBody_checked {al : Nat} {ps : List Put} (hwait : storeWait s.me = none)
    (hc : checkAccess s.cur .store al (ps.map Put.span) s = some e) : storeBody false al ps s = e := by
  have hw : storeWait (s.slot s.cur) = none := hwait
  simp only [storeBody, storeFor, Bool.false_and, Bool.false_eq_true, if_false, hw, hc]

theorem atomicBody_checked {kind : AtomicKind} {acc : AccKind} {w : Bool} {addr val : Word} {d : Option Nat} (hreplay : s.me.replay = none)
    (hphase : s.me.phase = 0) (hwait : storeWait s.me = none)
    (hc : checkAccess s.cur acc (if w then 4 else 8) [⟨addr.toNat, if w then 4 else 8⟩] s = some e) : atomicBody kind acc w addr val d s = e := by
  have hpoint : replayPoint s.me = none := by rw [replayPoint, hreplay]
  simp only [atomicBody, hphase, hpoint, hwait, accessWait_of_storeWait hwait, hc, ite_self, Option.map_none, OfNat.zero_ne_ofNat, if_false,
    zero_ne_one]

theorem redBody_checked {op : RedOp} {wide : Bool} {addr val : Word} (hwait : storeWait s.me = none)
    (hc : checkAccess s.cur .rmw (if wide then 8 else 4) [⟨addr.toNat, if wide then 8 else 4⟩] s = some e) : redBody op wide addr val s = e := by
  simp only [redBody, hwait, hc]

end Bodies

/-- The clause of O31 for an instruction that makes one access of n bytes at x. -/
def AccessTraps (s : State) (i : Instr) (kind : AccKind) (n : Nat) (x : Word) : Prop :=
  Ready i s → s.me.phase = 0 → storeWait s.me = none →
    let area := regionOf s s.myCore x.toNat
    (x.toNat % n ≠ 0 → Traps i s 0x08 x) ∧
    (x.toNat % n = 0 → area = .nonCanonical → Traps i s 0x0e x) ∧
    (x.toNat % n = 0 → area = .hole → Traps i s 0x09 x) ∧
    (x.toNat % n = 0 → area = .system → regionOf s s.myCore (x.toNat + (n - 1)) = .system → s.me.sv = false → Traps i s 0x0e x) ∧
    (x.toNat % n = 0 → area = .memory → ∀ t, tlbFind s s.myOctet s.myCtx x.toNat = some t →
      ¬ ((s.me.sv = true ∨ t.u = true) ∧ (kind = .load ∨ t.w = true) ∧ (kind = .store ∨ t.r = true)) → Traps i s 0x0e x)

/-- The rights that R243 asks of an access that is not a fetch. -/
theorem allowed_iff {kind : AccKind} (hk : kind ≠ .fetch) {sv u x w r : Bool} :
    allowed kind sv u x w r = true ↔ (sv = true ∨ u = true) ∧ (kind = .load ∨ w = true) ∧ (kind = .store ∨ r = true) := by
  cases kind with
  | load => simp [allowed]
  | store => simp [allowed]
  | rmw => simp [allowed, and_comm]
  | fetch => exact absurd rfl hk

/-- An instruction that ends in what the checks of its access end in traps where R217 says. -/
theorem accessTraps_of_checked {s : State} {i : Instr} {body : Body} {kind : AccKind} {n : Nat} {x : Word}
    (he : exec i s = issue i body s) (hpos : 0 < n) (h8 : n ∣ 8) (hk : kind ≠ .fetch)
    (hb : s.me.replay = none → s.me.phase = 0 → storeWait s.me = none →
      ∀ e, checkAccess s.cur kind n [⟨x.toNat, n⟩] s = some e → body s = e) :
    AccessTraps s i kind n x := by
  intro h hphase hwait
  have htrap : ∀ {c : Nat} {v : Word}, checkAccess s.cur kind n [⟨x.toNat, n⟩] s = some (s, .trap c v) → Traps i s c v := fun hc =>
    traps_of_trap he (hb h.replay hphase hwait _ hc) h
  refine ⟨fun hal => htrap (checkAccess_misaligned hal), fun hal ha => htrap (checkAccess_nonCanonical hpos hal ha),
    fun hal ha => htrap (checkAccess_hole hpos h8 hal ha), fun hal ha hlast hsv => htrap (checkAccess_system hpos h8 hal ha hlast hsv),
    fun hal ha t ht hno => htrap (checkAccess_forbidden hpos h8 hal ha ht hk ?_)⟩
  exact Bool.eq_false_iff.2 (mt (allowed_iff hk).1 hno)

theorem szBytes_bounds (z : Sz) : 0 < szBytes z ∧ szBytes z ∣ 8 := by cases z <;> decide

theorem ldShape_bounds (k : LdKind) : 0 < (ldShape k).1 ∧ (ldShape k).1 ∣ 8 := by cases k <;> decide

theorem wordSize_bounds (w : Bool) : 0 < (if w then 4 else 8) ∧ (if w then 4 else 8) ∣ 8 := by cases w <;> decide

/-- Settles O31: each instruction by the checks of its one access, and an access to the scratchpad by the lemmas on it. -/
theorem accessesAreChecked : Obligations.AccessesAreChecked := by
  unfold Obligations.AccessesAreChecked
  refine ⟨fun s o k z w ao ro b a d => ?traps, fun s kind a n hin hwait al hal => ?passes⟩
  case traps =>
    intro check size lsize word
    have hl : lsize = (ldShape k).1 := by cases k <;> rfl
    have hz : ∀ z, size z = szBytes z := fun z => by cases z <;> rfl
    obtain ⟨hl0, hl8⟩ := ldShape_bounds k
    obtain ⟨hz0, hz8⟩ := szBytes_bounds z
    obtain ⟨hw0, hw8⟩ := wordSize_bounds w
    rw [hl, hz]
    refine ⟨?ld, ?st, ?amo, ?cas, ?lda, ?stl, ?red⟩
    case ld => exact accessTraps_of_checked rfl hl0 hl8 nofun fun hr _ hw _ => loadBody_checked hr (accessWait_of_storeWait hw)
    case st => exact accessTraps_of_checked rfl hz0 hz8 nofun fun _ _ hw _ hc =>
      storeBody_checked hw (by rw [List.map_singleton, Put.span, length_bytesLE]; exact hc)
    case amo => exact accessTraps_of_checked rfl hw0 hw8 nofun fun hr hp hw _ => atomicBody_checked hr hp hw
    case cas => exact accessTraps_of_checked rfl hw0 hw8 nofun fun hr hp hw _ => atomicBody_checked hr hp hw
    case lda => exact accessTraps_of_checked rfl hw0 hw8 nofun fun hr hp hw _ => atomicBody_checked hr hp hw
    case stl => exact accessTraps_of_checked rfl hw0 hw8 nofun fun hr hp hw _ => atomicBody_checked hr hp hw
    case red =>
      refine accessTraps_of_checked rfl hw0 hw8 nofun fun _ _ hw _ hc => redBody_checked hw ?_
      cases w <;> exact hc
  case passes =>
    refine ⟨⟨checkAccess_scratchpad hin kind hal, meetTargets_scratchpad hin _, hwait⟩, placeAt_inside hin kind (Nat.le_refl a) ?_⟩
    exact Nat.lt_add_of_pos_right hin.some

end Sys2Proof.Machine
end

section
/-! The words of a local array, and what atomics and REDs make of them (R206, R227, R231): the combines as operations on sign-extended words. -/

namespace Sys2Proof.Machine

/-! ### Words in an array -/

/-- Byte j of a word written lowest byte first. -/
theorem getElem_bytesLE {n j : Nat} (y : Word) (h : j < (bytesLE n y.toNat).length) : (bytesLE n y.toNat)[j] = y.extractLsb' (8 * j) 8 := by
  have hj : j < n := by rwa [length_bytesLE] at h
  rw [extract_byte]
  exact Option.some.inj ((List.getElem?_eq_getElem h).symm.trans (getElem?_bytesLE _ hj))

theorem memBytes_eq_map (m : Mem) (a n : Nat) : memBytes m a n = (List.range n).map fun j => memByte m (a + j) := by
  induction n generalizing a with
  | zero => rfl
  | succ n ih =>
    rw [memBytes, ih, List.range_succ_eq_map, List.map_cons, List.map_map]
    refine congrArg _ (List.map_congr_left fun j _ => congrArg (memByte m) ?_)
    exact (Nat.add_assoc a 1 j).trans (congrArg (a + ·) (Nat.add_comm 1 j))

/-- The word of n bytes at an offset of a local array. -/
def arrWord (s : State) (c off n : Nat) : Word := BitVec.ofNat 64 (ofBytesLE ((List.range n).map fun j => memByte (s.core c).arr (off + j)))

theorem ofNat_arrNat (s : State) (c off n : Nat) : BitVec.ofNat 64 (arrNat s c off n) = arrWord s c off n := by
  rw [arrNat, arrBytes, memBytes_eq_map, arrWord]

theorem extract_arrWord (s : State) (c off : Nat) {n j : Nat} (hj : j < n) (hn : n ≤ 8) :
    (arrWord s c off n).extractLsb' (8 * j) 8 = memByte (s.core c).arr (off + j) := by
  rw [arrWord, extract_byte_ofNat _ (by omega), ofBytesLE_byte, List.getElem?_map, List.getElem?_range hj]
  rfl

/-- The n bytes at an offset of the array of core c are those of a word, and every other byte of every array is as before. -/
def PutsWord (s t : State) (c off n : Nat) (y : Word) : Prop := ∀ e a, memByte (t.core e).arr a =
  if e = c ∧ off ≤ a ∧ a < off + n then y.extractLsb' (8 * (a - off)) 8 else memByte (s.core e).arr a

/-- A word put into an array changes its own bytes alone. -/
theorem putsWord_arrPut (s : State) (c off n : Nat) (y : Word) : PutsWord s (arrPut c off (bytesLE n y.toNat) s) c off n y := fun e a => by
  by_cases he : e = c
  · subst he
    rw [arrPut, State.core_onCore_self]
    dsimp only
    split
    · next h =>
      obtain ⟨_, hlo, hhi⟩ := h
      obtain ⟨i, rfl⟩ := Nat.exists_eq_add_of_le hlo
      rw [memByte_memPut_inside _ _ _ _ (by rw [length_bytesLE]; omega), getElem_bytesLE, Nat.add_sub_cancel_left]
    · next h => exact memByte_memPut_outside _ _ _ _ (by rw [length_bytesLE]; omega)
  · rw [if_neg fun h => he h.1, arrPut, State.core_onCore_ne _ _ he]

/-- Words with the same n bytes are put alike. -/
theorem PutsWord.congr {s t : State} {c off n : Nat} {y z : Word} (h : PutsWord s t c off n y)
    (hz : ∀ j < n, y.extractLsb' (8 * j) 8 = z.extractLsb' (8 * j) 8) : PutsWord s t c off n z := fun e a =>
  (h e a).trans (ite_congr rfl (fun ⟨_, _, _⟩ => hz _ (by omega)) fun _ => rfl)

/-- A word that stands there already is put by doing nothing. -/
theorem putsWord_refl {s : State} {c off n : Nat} {y : Word} (hz : ∀ j < n, y.extractLsb' (8 * j) 8 = memByte (s.core c).arr (off + j)) :
    PutsWord s s c off n y := fun e a => by
  split
  · next h =>
    obtain ⟨rfl, hlo, hhi⟩ := h
    rw [hz _ (by omega), Nat.add_sub_cancel' hlo]
  · rfl

/-- What comes after with the same arrays. -/
theorem PutsWord.of_arr {s t u : State} {c off n : Nat} {y : Word} (h : PutsWord s t c off n y) (hu : ∀ e, (u.core e).arr = (t.core e).arr) :
    PutsWord s u c off n y := fun e a => (congrArg (memByte · a) (hu e)).trans (h e a)

/-! ### The bits of a value that its width keeps -/

section Width
variable (w : Bool) (x y : Word)

theorem bitsOf_le : bitsOf w ≤ 64 := by cases w <;> decide

/-- The bits of its width make an unsigned word (R121). -/
theorem unsignedOf_eq : unsignedOf w x = (x.setWidth (bitsOf w)).setWidth 64 := by
  cases w with
  | false => exact (BitVec.setWidth_eq _).symm
  | true => rfl

theorem setWidth_signedOf_bitsOf : (signedOf w x).setWidth (bitsOf w) = x.setWidth (bitsOf w) := by
  cases w with
  | false => rfl
  | true => exact setWidth_signedOf x

theorem lowInt_eq : lowInt (!w) x = srcInt w x := by cases w <;> simp [lowInt, srcInt]

theorem toNat_setWidth_bitsOf : (x.setWidth (bitsOf w)).toNat = lowNat (!w) x := by
  cases w with
  | false => exact congrArg BitVec.toNat (BitVec.setWidth_eq x)
  | true => rfl

/-- A result of w bits is the unsigned word of those bits. -/
theorem lowWord_eq {n : Nat} {z : Word} (h : BitVec.ofNat (bitsOf w) n = z.setWidth (bitsOf w)) : lowWord (!w) n = unsignedOf w z := by
  rw [unsignedOf_eq, ← h]
  refine BitVec.eq_of_toNat_eq ?_
  cases w <;> simp [lowWord, bitsOf]

theorem ofNat_lowNat : BitVec.ofNat (bitsOf w) (lowNat (!w) x) = x.setWidth (bitsOf w) := by
  rw [← toNat_setWidth_bitsOf, BitVec.ofNat_toNat, BitVec.setWidth_eq]

theorem lowWord_lowNat : lowWord (!w) (lowNat (!w) x) = unsignedOf w (signedOf w x) :=
  lowWord_eq w (by rw [ofNat_lowNat, setWidth_signedOf_bitsOf])

/-- An operation on the numbers of w bits as one on the sign-extended words. -/
theorem lowWord_of_op {f : Nat → Nat → Nat} {g : (n : Nat) → BitVec n → BitVec n → BitVec n}
    (hf : ∀ n (a b : BitVec n), BitVec.ofNat n (f a.toNat b.toNat) = g n a b)
    (hg : ∀ n (a b : Word), n ≤ 64 → (g 64 a b).setWidth n = g n (a.setWidth n) (b.setWidth n)) :
    lowWord (!w) (f (lowNat (!w) x) (lowNat (!w) y)) = unsignedOf w (g 64 (signedOf w x) (signedOf w y)) :=
  lowWord_eq w (by
    rw [hg _ _ _ (bitsOf_le w), setWidth_signedOf_bitsOf, setWidth_signedOf_bitsOf, ← hf, toNat_setWidth_bitsOf, toNat_setWidth_bitsOf])

/-- One of two numbers of w bits, picked by any test. -/
theorem lowWord_ite (p : Prop) [Decidable p] : lowWord (!w) (if p then lowNat (!w) x else lowNat (!w) y) =
    unsignedOf w (if p then signedOf w x else signedOf w y) := by
  rw [apply_ite (lowWord (!w)), lowWord_lowNat, lowWord_lowNat, apply_ite (unsignedOf w)]

/-- Sign extension keeps the unsigned order. -/
theorem signedOf_ult_iff : (signedOf w x).ult (signedOf w y) = true ↔ lowNat (!w) x < lowNat (!w) y := by
  rw [BitVec.ult_eq_decide, decide_eq_true_iff]
  cases w with
  | false => rfl
  | true =>
    have hx := (x.setWidth 32).isLt
    have hy := (y.setWidth 32).isLt
    have hmsb : ∀ v : BitVec 32, v.msb = decide (2 ^ 31 ≤ v.toNat) := fun v => BitVec.msb_eq_decide v
    simp only [signedOf, if_true, BitVec.toNat_signExtend, hmsb, BitVec.toNat_setWidth_of_le (show 32 ≤ 64 by decide), decide_eq_true_eq]
    change _ ↔ (x.setWidth 32).toNat < (y.setWidth 32).toNat
    split <;> split <;> omega

theorem min_lowNat : Nat.min (lowNat (!w) x) (lowNat (!w) y) =
    if (signedOf w y).ult (signedOf w x) then lowNat (!w) y else lowNat (!w) x := by
  simp only [signedOf_ult_iff]
  exact Nat.min_def.trans (by split <;> split <;> omega)

theorem max_lowNat : Nat.max (lowNat (!w) x) (lowNat (!w) y) =
    if (signedOf w x).ult (signedOf w y) then lowNat (!w) y else lowNat (!w) x := by
  simp only [signedOf_ult_iff]
  exact Nat.max_def.trans (by split <;> split <;> omega)

/-- A test on the signed numbers of w bits is one on the sign-extended words. -/
theorem lowInt_lt_iff : lowInt (!w) x < lowInt (!w) y ↔ (signedOf w x).slt (signedOf w y) = true := by
  rw [lowInt_eq, lowInt_eq, srcInt_lt_iff]

theorem signedOf_eq_iff : signedOf w x = signedOf w y ↔ lowNat (!w) x = lowNat (!w) y := by
  rw [← toNat_setWidth_bitsOf, ← toNat_setWidth_bitsOf, BitVec.toNat_inj]
  refine ⟨fun h => ?_, fun h => ?_⟩
  · rw [← setWidth_signedOf_bitsOf w x, h, setWidth_signedOf_bitsOf]
  · cases w with
    | false => exact h
    | true => exact signedOf_congr h

end Width

/-! ### What atomics and REDs leave (R227, R231) -/

/-- The word that an AMO leaves, of the old word and its operand, both sign-extended under w. -/
def amoWord (op : AmoOp) (x y : Word) : Word :=
  match op with
  | .swap => y
  | .add => x + y
  | .and => x &&& y
  | .or => x ||| y
  | .xor => x ^^^ y
  | .min => if y.slt x then y else x
  | .max => if x.slt y then y else x
  | .minu => if y.ult x then y else x
  | .maxu => if x.ult y then y else x

section Combines
variable (w : Bool) (x y : Word)

theorem lowWord_add : lowWord (!w) (lowNat (!w) x + lowNat (!w) y) = unsignedOf w (signedOf w x + signedOf w y) :=
  lowWord_of_op w x y (g := fun _ => (· + ·)) (fun n a b => by simp [BitVec.ofNat_add]) fun n a b h => BitVec.setWidth_add a b h

theorem lowWord_min : lowWord (!w) (if lowInt (!w) y < lowInt (!w) x then lowNat (!w) y else lowNat (!w) x) =
    unsignedOf w (if (signedOf w y).slt (signedOf w x) then signedOf w y else signedOf w x) := by
  simp only [lowInt_lt_iff, lowWord_ite]

theorem lowWord_max : lowWord (!w) (if lowInt (!w) x < lowInt (!w) y then lowNat (!w) y else lowNat (!w) x) =
    unsignedOf w (if (signedOf w x).slt (signedOf w y) then signedOf w y else signedOf w x) := by
  simp only [lowInt_lt_iff, lowWord_ite]

theorem lowWord_minu : lowWord (!w) (Nat.min (lowNat (!w) x) (lowNat (!w) y)) =
    unsignedOf w (if (signedOf w y).ult (signedOf w x) then signedOf w y else signedOf w x) := by
  rw [min_lowNat, lowWord_ite]

theorem lowWord_maxu : lowWord (!w) (Nat.max (lowNat (!w) x) (lowNat (!w) y)) =
    unsignedOf w (if (signedOf w x).ult (signedOf w y) then signedOf w y else signedOf w x) := by
  rw [max_lowNat, lowWord_ite]

theorem amoCombine_eq (op : AmoOp) : amoCombine op (!w) x y = unsignedOf w (amoWord op (signedOf w x) (signedOf w y)) := by
  cases op with
  | swap => exact lowWord_lowNat w y
  | add => exact lowWord_add w x y
  | and =>
    exact lowWord_of_op w x y (f := (· &&& ·)) (g := fun _ => (· &&& ·))
      (fun n a b => by rw [← BitVec.toNat_and, BitVec.ofNat_toNat, BitVec.setWidth_eq]) fun _ _ _ _ => BitVec.setWidth_and ..
  | or =>
    exact lowWord_of_op w x y (f := (· ||| ·)) (g := fun _ => (· ||| ·))
      (fun n a b => by rw [← BitVec.toNat_or, BitVec.ofNat_toNat, BitVec.setWidth_eq]) fun _ _ _ _ => BitVec.setWidth_or ..
  | xor =>
    exact lowWord_of_op w x y (f := (· ^^^ ·)) (g := fun _ => (· ^^^ ·))
      (fun n a b => by rw [← BitVec.toNat_xor, BitVec.ofNat_toNat, BitVec.setWidth_eq]) fun _ _ _ _ => BitVec.setWidth_xor ..
  | min => exact lowWord_min w x y
  | max => exact lowWord_max w x y
  | minu => exact lowWord_minu w x y
  | maxu => exact lowWord_maxu w x y

end Combines

end Sys2Proof.Machine
end

section
/-! What an atomic leaves of its word, and how HOME_ATOMIC_ACCESS performs AMO, CAS, LDA and STL at a local array (R206, R218, R227, R228). -/

namespace Sys2Proof.Machine

/-! ### What an atomic leaves of its word -/

section Leaves
variable (w : Bool) (x y : Word)

/-- A byte that the width holds. -/
theorem extract_setWidth {m n j : Nat} (x : BitVec m) (h : 8 * j + 8 ≤ n) : (x.setWidth n).extractLsb' (8 * j) 8 = x.extractLsb' (8 * j) 8 := by
  refine BitVec.eq_of_getLsbD_eq fun i hi => ?_
  have hin : 8 * j + i < n := by omega
  simp [hin, hi]

theorem extract_signedOf {j : Nat} (h : 8 * j + 8 ≤ bitsOf w) : (signedOf w x).extractLsb' (8 * j) 8 = x.extractLsb' (8 * j) 8 := by
  rw [← extract_setWidth (signedOf w x) h, setWidth_signedOf_bitsOf, extract_setWidth x h]

theorem extract_unsignedOf {j : Nat} (h : 8 * j + 8 ≤ bitsOf w) : (unsignedOf w x).extractLsb' (8 * j) 8 = x.extractLsb' (8 * j) 8 := by
  rw [unsignedOf_eq, extract_setWidth _ (h.trans (bitsOf_le w)), extract_setWidth x h]

/-- The word after an atomic, of the old word and its operand, both sign-extended under w. -/
def AtomicKind.leaves (kd : AtomicKind) (w : Bool) (x y : Word) : Word :=
  match kd with
  | .amo op => amoWord op x y
  | .cas e => if x = signedOf w e then y else x
  | .lda => x
  | .stl => y

variable {w} {kd : AtomicKind} {p : Place} {v old : Word}

/-- An atomic that writes leaves the bytes of its word. -/
theorem extract_atomicNew (h : Atomic.writes ⟨kd, p, w, v⟩ old = true) {j : Nat} (hj : 8 * j + 8 ≤ bitsOf w) :
    (atomicNew ⟨kd, p, w, v⟩ old).extractLsb' (8 * j) 8 = (kd.leaves w (signedOf w old) (signedOf w v)).extractLsb' (8 * j) 8 := by
  cases kd with
  | amo op => exact (congrArg _ (amoCombine_eq w old v op)).trans (extract_unsignedOf w _ hj)
  | cas e =>
    have heq : lowNat (!w) old = lowNat (!w) e := eq_of_beq h
    have hnew : atomicNew ⟨.cas e, p, w, v⟩ old = v := if_pos heq
    have hleaves : (AtomicKind.cas e).leaves w (signedOf w old) (signedOf w v) = signedOf w v := if_pos ((signedOf_eq_iff w old e).2 heq)
    rw [hnew, hleaves, extract_signedOf w v hj]
  | lda => exact nomatch h
  | stl => exact (extract_signedOf w v hj).symm

/-- An atomic that does not write leaves its word. -/
theorem leaves_of_not_writes (h : Atomic.writes ⟨kd, p, w, v⟩ old = false) : kd.leaves w (signedOf w old) (signedOf w v) = signedOf w old := by
  cases kd with
  | amo op => exact nomatch h
  | cas e => exact if_neg fun he => beq_eq_false_iff_ne.1 h ((signedOf_eq_iff w old e).1 he)
  | lda => rfl
  | stl => exact nomatch h

end Leaves

/-! ### An atomic performed at a local array -/

section Perform
variable {s : State} {kd : AtomicKind} {c off : Nat} {w : Bool} {v : Word} (hbelow : off + bitsOf w / 8 ≤ 0x7c000)
include hbelow

/-- Below the system area an atomic reads its word and puts the new one (R227, R228). -/
theorem performAtomic_array : performAtomic ⟨kd, .arr c off, w, v⟩ s =
    (signedOf w (arrWord s c off (bitsOf w / 8)),
      if Atomic.writes ⟨kd, .arr c off, w, v⟩ (arrWord s c off (bitsOf w / 8))
      then arrPut c off (bytesLE (bitsOf w / 8) (atomicNew ⟨kd, .arr c off, w, v⟩ (arrWord s c off (bitsOf w / 8))).toNat) s else s) := by
  have hn : (if (!w) = true then 8 else 4) = bitsOf w / 8 := by cases w <;> rfl
  have hext : ∀ u : Word, (if (!w) = true then u else wres u) = signedOf w u := fun u => by cases w <;> rfl
  have hput : ∀ u : Word, storeArray c off (bytesLE (bitsOf w / 8) u.toNat) s = arrPut c off (bytesLE (bitsOf w / 8) u.toNat) s := fun u =>
    if_pos (by rwa [length_bytesLE])
  simp only [performAtomic, hn, hext, ofNat_arrNat, hput]

theorem performAtomic_puts : PutsWord s (performAtomic ⟨kd, .arr c off, w, v⟩ s).2 c off (bitsOf w / 8)
    (kd.leaves w (signedOf w (arrWord s c off (bitsOf w / 8))) (signedOf w v)) := by
  have hbits : bitsOf w / 8 * 8 = bitsOf w ∧ bitsOf w / 8 ≤ 8 := by cases w <;> decide
  rw [performAtomic_array hbelow]
  dsimp only
  split
  · next hw => exact (putsWord_arrPut s c off _ _).congr fun j hj => extract_atomicNew hw (by omega)
  · next hw =>
    rw [leaves_of_not_writes (Bool.eq_false_iff.2 hw)]
    exact putsWord_refl fun j hj => (extract_signedOf w _ (by omega)).trans (extract_arrWord s c off hj hbits.2)

/-- The access of a slot: its old word, and an LDA acquires (R228). -/
theorem atomicPerform_array (k : Nat) : ∃ u, atomicPerform k ⟨kd, .arr c off, w, v⟩ s = (signedOf w (arrWord s c off (bitsOf w / 8)), u) ∧
    u.slots = s.slots ∧ u.mem = s.mem ∧
    PutsWord s u c off (bitsOf w / 8) (kd.leaves w (signedOf w (arrWord s c off (bitsOf w / 8))) (signedOf w v)) := by
  have hputs := performAtomic_puts (s := s) (kd := kd) (c := c) (v := v) hbelow
  obtain ⟨u, hu, hslots, hmem⟩ : ∃ u, performAtomic ⟨kd, .arr c off, w, v⟩ s = (signedOf w (arrWord s c off (bitsOf w / 8)), u) ∧
      u.slots = s.slots ∧ u.mem = s.mem := ⟨_, performAtomic_array hbelow, by split <;> exact ⟨rfl, rfl⟩⟩
  rw [hu] at hputs
  refine ⟨if kd = .lda then l1Acquire (coreOf k) u else u, by simp only [atomicPerform, hu, forgetPlace], ?_⟩
  split
  · refine ⟨hslots, hmem, hputs.of_arr fun e => ?_⟩
    rw [l1Acquire, u.core_onCore_keeps Core.arr]
    exact fun _ => rfl
  · exact ⟨hslots, hmem, hputs⟩

end Perform

/-! ### What the messages of a slot leave alone -/

/-- A slot without its accesses on their way. -/
def Slot.rested (sl : Slot) : Slot := { sl with traffic := Traffic.reset }

/-- Memory, every array, and every slot without its accesses on their way. -/
def State.rested (s : State) : Mem × (Nat → Mem) × (Nat → Slot) := (s.mem, fun c => (s.core c).arr, fun k => (s.slot k).rested)

theorem State.onSlot_rested (s : State) (k : Nat) {f : Slot → Slot} (h : ∀ sl, (f sl).rested = sl.rested) : (s.onSlot k f).rested = s.rested := by
  refine Prod.ext rfl (Prod.ext rfl (funext fun j => ?_))
  by_cases hj : j = k
  · subst hj
    exact (congrArg Slot.rested (State.slot_onSlot_self s j f)).trans (h _)
  · exact congrArg Slot.rested (State.slot_onSlot_ne s f hj)

theorem sendMsg_rested (k : Nat) (m : Msg) (s : State) : (sendMsg k m s).rested = s.rested := by
  have hu := sendMsg_untold s k m
  have hslots : (sendMsg k m s).rested.2.2 = s.rested.2.2 := by
    have hs : ∀ t u : State, t.slots = u.slots → t.rested.2.2 = u.rested.2.2 := fun t u h => funext fun j =>
      congrArg (fun l => Slot.rested (tget l j Slot.reset)) h
    refine (hs _ _ (sendMsg_slots s k m)).trans ?_
    split
    · refine congrArg (fun x => x.2.2) (s.onSlot_rested k fun sl => ?_)
      rw [afterSend]
      split <;> rfl
    · rfl
  exact Prod.ext (State.untold_mem hu) (Prod.ext (funext fun c => State.untold_core hu Core.arr c fun _ => rfl) hslots)

theorem settleOut_rested (k : Nat) (s : State) : (settleOut k s).rested = s.rested := by
  unfold settleOut
  dsimp only
  split
  · rfl
  · exact (foldl_keeps State.rested _ (fun s m => sendMsg_rested k m s) _ _).trans (s.onSlot_rested k fun _ => rfl)

/-! ### The result of an atomic -/

/-- A result that owes one general register returns (R119). -/
theorem deliver_general {sl : Slot} {id d : Nat} {kind : PendKind} (x : Word) (hf : sl.findPend id = some ⟨id, [⟨0, d⟩], kind⟩) (hd : 0 < d)
    (h32 : d < 32) : (sl.deliver id [.g d x]).rg d = x ∧ (sl.deliver id [.g d x]).findPend id = none ∧
      RegsKept (· = ⟨0, d⟩) sl (sl.deliver id [.g d x]) ∧ SpecialKept sl (sl.deliver id [.g d x]) := by
  have howed : [(⟨0, d⟩ : RegId)].contains (RegVal.g d x).id = true := by simp [RegVal.id]
  have heq : sl.deliver id [.g d x] = ({ sl with pend := sl.pend.filter (·.id != id) }.put (.g d x)).tellReplay id (.g d x) := by
    simp only [Slot.deliver, hf, List.foldl_cons, List.foldl_nil, howed, if_true]
  have hkept := RegsKept.put { sl with pend := sl.pend.filter (·.id != id) } (.g d x)
  have hfiles : RegsKept (· = ⟨0, d⟩) sl { sl with pend := sl.pend.filter (·.id != id) } := .of_files rfl rfl rfl rfl rfl
  rw [heq]
  refine ⟨?_, ?_, (hfiles.trans hkept).trans (.of_files rfl rfl rfl rfl rfl), .of_sys ?_⟩
  · have hholds := Slot.holds_put { sl with pend := sl.pend.filter (·.id != id) } (r := .g d x) h32
    exact (show Slot.rg _ d = _ from hholds).trans (if_neg hd.ne')
  · have hpend : (({ sl with pend := sl.pend.filter (·.id != id) }.put (.g d x)).tellReplay id (.g d x)).pend = sl.pend.filter (·.id != id) := by
      rw [Slot.tellReplay, Slot.put_eq]
    rw [Slot.findPend, hpend]
    simp
  · rw [Slot.tellReplay, Slot.put_eq]

/-- What the event of an atomic at a local array makes of its word, its register and the rest (R206, R227). -/
theorem homeAtomicAccess_array {s : State} {k id d c off : Nat} {kd : AtomicKind} {w : Bool} {v : Word} (hk : s.arg.k = k) (ha : s.arg.a = id)
    (hb : s.arg.b = 0) (hd : 0 < d) (h32 : d < 32) (hf : (s.slot k).findPend id = some ⟨id, [⟨0, d⟩], .atomic ⟨kd, .arr c off, w, v⟩⟩)
    (hfree : atomicBlocked (s.slot k) id ⟨kd, .arr c off, w, v⟩ = false) (hbelow : off + bitsOf w / 8 ≤ 0x7c000) :
    ∃ t, exec .homeAtomicAccess s = .next t ∧ (t.slot k).rg d = signedOf w (arrWord s c off (bitsOf w / 8)) ∧ (t.slot k).findPend id = none ∧
      RegsKept (· = ⟨0, d⟩) (s.slot k) (t.slot k) ∧ SpecialKept (s.slot k) (t.slot k) ∧ t.mem = s.mem ∧
      PutsWord s t c off (bitsOf w / 8) (kd.leaves w (signedOf w (arrWord s c off (bitsOf w / 8))) (signedOf w v)) := by
  obtain ⟨u, hu, hslots, hmem, hputs⟩ := atomicPerform_array (s := s) (kd := kd) (c := c) (v := v) hbelow k
  have hslot : u.slot k = s.slot k := congrArg (fun l => tget l k Slot.reset) hslots
  let x := signedOf w (arrWord s c off (bitsOf w / 8))
  have hexec : exec .homeAtomicAccess s = .next (settleOut k (u.onSlot k fun sl => sl.deliver id [.g d x])) := by
    have he : exec .homeAtomicAccess s = .next (atomicArrive s) := congrArg Host.Outcome.next (if_pos hb)
    rw [he]
    simp only [atomicArrive, hk, ha, hf, hfree, Bool.false_eq_true, if_false, hu, List.map_cons, List.map_nil, x]
  have hview := settleOut_rested k (u.onSlot k fun sl => sl.deliver id [.g d x])
  have hrest : ((settleOut k (u.onSlot k fun sl => sl.deliver id [.g d x])).slot k).rested = ((s.slot k).deliver id [.g d x]).rested := by
    refine (congrFun (congrArg (fun y => y.2.2) hview) k).trans (congrArg Slot.rested ?_)
    rw [State.slot_onSlot_self, hslot]
  obtain ⟨hrg, hpend, hregs, hspecial⟩ := deliver_general x hf hd h32
  refine ⟨_, hexec, ?_, ?_, hregs.trans (.of_files ?_ ?_ ?_ ?_ ?_), hspecial.trans (.of_sys ?_), (congrArg Prod.fst hview).trans hmem,
    hputs.of_arr fun e => ?_⟩
  · exact (congrArg (Slot.rg · d) hrest :).trans hrg
  · exact (congrArg (Slot.findPend · id) hrest :).trans hpend
  · exact (congrArg Slot.g hrest :)
  · exact (congrArg Slot.v hrest :)
  · exact (congrArg Slot.p hrest :)
  · exact (congrArg Slot.x hrest :)
  · exact (congrArg Slot.ports hrest :)
  · exact (congrArg Slot.sys hrest :)
  · exact congrFun (congrArg (fun y => y.2.1) hview) e

end Sys2Proof.Machine
end

section
/-! AMO, CAS, LDA and STL as they are sent (R227, R228), and RED at the scratchpad (R231). -/

namespace Sys2Proof.Machine

/-! ### AMO, CAS, LDA and STL as they are sent -/

/-- What a slot that sends an atomic owes and has on its way: its register, or, for STL, an access in program order (R228). -/
def Slot.sendAtomic (sl : Slot) (a : Atomic) (d : Option Nat) : Slot :=
  match d with
  | some d => sl.addPend [⟨0, d⟩] (.atomic a)
  | none => { sl with traffic := { sl.traffic with out := sl.traffic.out ++ [.stl sl.traffic.nextId a], nextId := sl.traffic.nextId + 1 } }

/-- The state before an atomic is sent: one that writes has dropped the parameter blocks of its word (R266). -/
def beforeAtomic (s : State) (acc : AccKind) (p : Place) (n : Nat) : State := if acc = .load then s else dropParams s.cur [(p, n)] s

theorem buffered_onCore (s : State) (c : Nat) (f : Core → Core) (k : Nat) : buffered (s.onCore c f) k = buffered s k := rfl

theorem beforeAtomic_keeps (s : State) (acc : AccKind) (p : Place) (n : Nat) : ∃ u, beforeAtomic s acc p n = u ∧ u.cur = s.cur ∧ u.me = s.me ∧
    buffered u s.cur = buffered s s.cur ∧ u.mem = s.mem ∧ u.inflight = s.inflight ∧ u.mcyc = s.mcyc := by
  refine ⟨_, rfl, ?_⟩
  unfold beforeAtomic
  split
  · exact ⟨rfl, rfl, rfl, rfl, rfl, rfl⟩
  · exact ⟨rfl, rfl, buffered_onCore .., rfl, rfl, rfl⟩

section Sends
variable {s : State} {kind : AtomicKind} {acc : AccKind} {w : Bool} {addr val : Word} {p : Place}

/-- An atomic that passes its checks and goes into no commit buffer is sent (R218, R227). -/
theorem atomicBody_sends (d : Option Nat) (hphase : s.me.phase = 0) (hreplay : s.me.replay = none)
    (hwait : (if kind == .lda || kind == .stl then accessWait s.me else storeWait s.me) = none)
    (hpass : Passes s acc (if w then 4 else 8) [⟨addr.toNat, if w then 4 else 8⟩]) (hplace : placeAt s.cur acc s addr.toNat = p)
    (hout : NothingOnItsWay s) (hbuf : buffered s s.cur = false ∨ ∃ c off, p = .arr c off) :
    atomicBody kind acc w addr val d s = (((beforeAtomic s acc p (if w then 4 else 8)).onMe (·.sendAtomic ⟨kind, p, w, val⟩ d)).post
      (evt .homeAtomicAccess s.cur s.me.traffic.nextId 0), .next) := by
  have hpoint : replayPoint s.me = none := by rw [replayPoint, hreplay]
  obtain ⟨hchecks, htargets, _⟩ := hpass
  obtain ⟨u, hdrop, hcur, hme, hplain, _⟩ := beforeAtomic_keeps s acc p (if w then 4 else 8)
  rw [hdrop]
  rw [beforeAtomic] at hdrop
  have horder : orderAfter s.cur [(p, if w then 4 else 8)] u = .ok u := by
    have hout' : NothingOnItsWay u := by rw [NothingOnItsWay, hme]; exact hout
    rw [← hcur]
    exact orderAfter_nothing hout' _
  have hsent : ((match d with
      | some d => u.onMe fun sl => sl.addPend [⟨0, d⟩] (.atomic ⟨kind, p, w, val⟩)
      | none => (addOut s.cur (.stl s.me.traffic.nextId ⟨kind, p, w, val⟩) u).onMe fun sl =>
        { sl with traffic := { sl.traffic with nextId := s.me.traffic.nextId + 1 } }) : State) = u.onMe (·.sendAtomic ⟨kind, p, w, val⟩ d) := by
    cases d with
    | some d => rfl
    | none =>
      rw [addOut, ← hcur]
      exact (State.onMe_onMe u _ _).trans (State.onMe_congr (by rw [hme]; rfl))
  simp only [atomicBody, hphase, hpoint, hwait, hchecks, htargets, hplace, hdrop, ite_self, Option.map_none, OfNat.zero_ne_ofNat, if_false,
    zero_ne_one, horder, hme, hplain]
  cases p with
  | arr c off => 
    rw [Bool.and_false]
    exact Prod.ext (congrArg (State.post · _) hsent) rfl
  | mem pa =>
    have hb : buffered s s.cur = false := hbuf.resolve_right fun ⟨_, _, h⟩ => nomatch h
    rw [hb]
    exact Prod.ext (congrArg (State.post · _) hsent) rfl

/-- Such an instruction completes, and its access is on its way to the home or the array (R206, R218). -/
theorem atomic_completes {i : Instr} {body : Body} (d : Option Nat) (he : exec i s = issue i body s)
    (hb : body s = atomicBody kind acc w addr val d s) (hphase : s.me.phase = 0)
    (hwait : accessWait s.me = none → (if kind == .lda || kind == .stl then accessWait s.me else storeWait s.me) = none)
    (hout : NothingOnItsWay s) (hbuf : buffered s s.cur = false ∨ ∃ c off, p = .arr c off) (h : Ready i s)
    (hpass : Passes s acc (if w then 4 else 8) [⟨addr.toNat, if w then 4 else 8⟩]) (hplace : placeAt s.cur acc s addr.toNat = p) :
    ∃ t, Completes i s t ∧ t.me = s.me.sendAtomic ⟨kind, p, w, val⟩ d ∧ t.cur = s.cur ∧ t.mem = s.mem ∧
      t.inflight = s.inflight ++ [(s.mcyc + 17, evt .homeAtomicAccess s.cur s.me.traffic.nextId 0)] := by
  have hsends := atomicBody_sends (kind := kind) (val := val) d hphase h.replay (hwait hpass.early) hpass hplace hout hbuf
  obtain ⟨u, hu, hcur, hme, _, hmem, hinflight, hmcyc⟩ := beforeAtomic_keeps s acc p (if w then 4 else 8)
  rw [hu] at hsends
  refine ⟨_, completes_of_next he (hb.trans hsends) h, ?_, hcur, hmem, ?_⟩
  · exact (State.me_onMe u (·.sendAtomic ⟨kind, p, w, val⟩ d)).trans (congrArg (Slot.sendAtomic · _ d) hme)
  · exact (congrArg₂ (fun l n => l ++ [(n + 17, evt .homeAtomicAccess s.cur s.me.traffic.nextId 0)]) hinflight hmcyc :)

end Sends

/-! ### RED at the scratchpad (R231) -/

theorem InScratchpad.dropParams {s : State} {a n : Nat} (h : InScratchpad s a n) (ps : List (Place × Nat)) :
    InScratchpad (dropParams s.cur ps s) a n where
  above := h.above
  inside := (dropParams_core s s.cur ps s.myCore).1 ▸ h.inside
  below := h.below
  fits := h.fits
  some := h.some
  throughput := h.throughput
  closed := by
    have hchans : ((Machine.dropParams s.cur ps s).core s.myCore).transfer.chans = (s.core s.myCore).transfer.chans := by
      rw [Machine.dropParams, s.core_onCore_keeps fun x => x.transfer.chans]
      exact fun _ => rfl
    intro c hc
    exact h.closed c (hchans ▸ hc)

/-- An instruction that puts one word into an array stores there (R223). -/
theorem storesInArray_of_putsWord {i : Instr} {s t : State} {g : Slot → Slot} {c off n : Nat} {y : Word} (hc : Completes i s t)
    (hme : t.me = g s.me) (hcur : t.cur = s.cur) (hslots : ∀ k, k ≠ s.cur → t.slot k = s.slot k) (hmem : t.mem = s.mem)
    (hputs : PutsWord s t c off n y) :
    StoresInArray i s g c fun e => if off ≤ e ∧ e < off + n then some (y.extractLsb' (8 * (e - off)) 8) else none := by
  refine ⟨t, hc, hme, hcur, hslots, hmem, fun d a => (hputs d a).trans ?_⟩
  dsimp only
  by_cases hd : d = c
  · by_cases ha : off ≤ a ∧ a < off + n
    · rw [if_pos ⟨hd, ha⟩, if_pos hd, if_pos ha, Option.getD_some]
    · rw [if_neg fun h => ha h.2, if_pos hd, if_neg ha, Option.getD_none]
  · rw [if_neg fun h => hd h.1, if_neg hd]

/-- RED on a word of the scratchpad combines it at once (R231). -/
theorem redBody_scratchpad {s : State} {op : RedOp} {wide : Bool} {addr val : Word} {n : Nat} (hn : (if wide then 8 else 4) = n)
    (hwait : storeWait s.me = none) (hout : NothingOnItsWay s) (hin : InScratchpad s addr.toNat n) (hal : addr.toNat % n = 0) :
    ∃ u, redBody op wide addr val s =
        (u.onMe (·.raise (redCombineWord op wide (arrWord s s.myCore (addr.toNat - localBase) n) val).2), .next) ∧
      u.slots = s.slots ∧ u.cur = s.cur ∧ u.mem = s.mem ∧
      PutsWord s u s.myCore (addr.toNat - localBase) n (redCombineWord op wide (arrWord s s.myCore (addr.toNat - localBase) n) val).1 := by
  have hfirst := Nat.lt_add_of_pos_right (n := addr.toNat) hin.some
  have hplace := placeAt_inside hin .rmw (Nat.le_refl _) hfirst
  obtain ⟨d, hdrop, hslots, hcur, hmem, harr, hplace', horder⟩ : ∃ d, dropParams s.cur [(.arr s.myCore (addr.toNat - localBase), n)] s = d ∧
      d.slots = s.slots ∧ d.cur = s.cur ∧ d.mem = s.mem ∧ (∀ e, (d.core e).arr = (s.core e).arr) ∧
      placeAt s.cur .rmw d addr.toNat = .arr s.myCore (addr.toNat - localBase) ∧
      orderAfter s.cur [(.arr s.myCore (addr.toNat - localBase), n)] d = .ok d :=
    ⟨_, rfl, rfl, rfl, rfl, fun _ => (dropParams_core ..).2, placeAt_inside (hin.dropParams _) .rmw (Nat.le_refl _) hfirst,
      orderAfter_nothing (s := dropParams s.cur _ s) hout _⟩
  have hold : BitVec.ofNat 64 (arrNat d s.myCore (addr.toNat - localBase) n) = arrWord s s.myCore (addr.toNat - localBase) n := by
    rw [ofNat_arrNat, arrWord, harr, arrWord]
  have hput : ∀ y : Word, storeArray s.myCore (addr.toNat - localBase) (bytesLE n y.toNat) d =
      arrPut s.myCore (addr.toNat - localBase) (bytesLE n y.toNat) d := fun y => if_pos (by rw [length_bytesLE]; exact hin.below)
  refine ⟨arrPut s.myCore (addr.toNat - localBase) (bytesLE n
    (redCombineWord op wide (arrWord s s.myCore (addr.toNat - localBase) n) val).1.toNat) d, ?_, hslots, hcur, hmem, fun e a => ?_⟩
  · simp only [redBody, hwait, hn, checkAccess_scratchpad hin .rmw hal, meetTargets_scratchpad hin, hplace, hdrop, hplace', horder, hold, hput]
  · exact (putsWord_arrPut d ..).trans (by rw [harr])

/-- What RED of an integer operation leaves, with no flags (R231). -/
theorem redCombineWord_integer (w : Bool) (x y : Word) :
    redCombineWord .iadd (!w) x y = (unsignedOf w (signedOf w x + signedOf w y), 0) ∧
    redCombineWord .min (!w) x y = (unsignedOf w (if (signedOf w y).slt (signedOf w x) then signedOf w y else signedOf w x), 0) ∧
    redCombineWord .max (!w) x y = (unsignedOf w (if (signedOf w x).slt (signedOf w y) then signedOf w y else signedOf w x), 0) ∧
    redCombineWord .minu (!w) x y = (unsignedOf w (if (signedOf w y).ult (signedOf w x) then signedOf w y else signedOf w x), 0) ∧
    redCombineWord .maxu (!w) x y = (unsignedOf w (if (signedOf w x).ult (signedOf w y) then signedOf w y else signedOf w x), 0) :=
  ⟨congrArg (·, 0) (lowWord_add w x y), congrArg (·, 0) (lowWord_min w x y), congrArg (·, 0) (lowWord_max w x y),
    congrArg (·, 0) (lowWord_minu w x y), congrArg (·, 0) (lowWord_maxu w x y)⟩

theorem wordSize_eq (w : Bool) : (if w then 4 else 8) = bitsOf w / 8 := by cases w <;> rfl

/-- Settles O34: the instructions by what they send, the event by what it performs, and RED by its combine. -/
theorem atomicsAndRed : Obligations.AtomicsAndRed := by
  unfold Obligations.AtomicsAndRed
  refine ⟨fun s w ao b a d p hout hphase hbuf => ?sends, fun s k id d c off kd w v hk ha hb hd h32 hf hfree => ?arrives,
    fun s w ro b a => ?red⟩
  case sends =>
    refine ⟨fun hwait => ⟨?amo, ?cas⟩, ?lda, ?stl⟩
    case amo => exact atomic_completes (some d.toNat) rfl rfl hphase (fun _ => hwait) hout hbuf
    case cas => exact atomic_completes (some d.toNat) rfl rfl hphase (fun _ => hwait) hout hbuf
    case lda => exact atomic_completes (some d.toNat) rfl rfl hphase id hout hbuf
    case stl => exact atomic_completes none rfl rfl hphase id hout hbuf
  case arrives =>
    intro n hbelow old x y new
    have hn : n = bitsOf w / 8 := wordSize_eq w
    have hnew : new = kd.leaves w x y := by
      cases kd with
      | amo op => cases op <;> rfl
      | cas e => rfl
      | lda => rfl
      | stl => rfl
    have hold : old = arrWord s c off n := rfl
    clear_value new old n
    subst hn hold
    rw [hnew]
    exact homeAtomicAccess_array hk ha hb hd h32 hf hfree hbelow
  case red =>
    intro p n h hwait hout hin hal
    have hn : (if !w then 8 else 4) = n := by cases w <;> rfl
    obtain ⟨u, hu, hslots, hcur, hmem, hputs⟩ := redBody_scratchpad (op := ro) (val := s.me.rg b.toNat) hn hwait hout hin hal
    let r := redCombineWord ro (!w) (arrWord s s.myCore (p - localBase) n) (s.me.rg b.toNat)
    have hme : u.me = s.me := by rw [State.me, State.me, State.slot, State.slot, hslots, hcur]
    have hother : ∀ k, k ≠ s.cur → (u.onMe (·.raise r.2)).slot k = s.slot k := fun k hk =>
      (State.slot_onSlot_ne u _ (hcur.symm ▸ hk)).trans (congrArg (fun l => tget l k Slot.reset) hslots)
    refine ⟨r.1, r.2, storesInArray_of_putsWord (completes_of_next (body := bodyRed ro (!w) b a) rfl hu h)
      ((State.me_onMe ..).trans (congrArg (Slot.raise · r.2) hme)) hcur hother hmem (hputs.of_arr fun _ => rfl), ?_⟩
    obtain ⟨hadd, hmin, hmax, hminu, hmaxu⟩ := redCombineWord_integer w (arrWord s s.myCore (p - localBase) n) (s.me.rg b.toNat)
    have hval : ∀ {op : RedOp} {z : Word}, redCombineWord op (!w) (arrWord s s.myCore (p - localBase) n) (s.me.rg b.toNat) = (z, 0) →
        ro = op → r.2 = 0 ∧ r.1 = z := fun hr hro => by
      subst hro
      exact ⟨congrArg Prod.snd hr, congrArg Prod.fst hr⟩
    exact ⟨hval hadd, hval hmin, hval hmax, hval hminu, hval hmaxu⟩

end Sys2Proof.Machine
end

section
/-! O32 and O33 refuted. A context that comes back from a hypervisor pool into which it went while it was Saving is in the state Saved until the
end of its restore, and its save holds its slots where they are (R434, R443): a macro stops between two elements (R296), though `ctxState` is not
Saving. -/

namespace Sys2Proof.Machine

/-- A slot at a VGATHER or VSCATTER of the word at offset 0x100 of its scratchpad, named by every lane of v3. -/
def atMacro : Slot :=
  { Slot.reset with run := .running, pc := 0x2000, g := vset (Vector.replicate 32 0) 2 0xfffffffffff00100, bind := ⟨1, 0, 0, 0, false, none⟩,
                    sys := { Sys.reset with st := 0x400 } }

/-- A context that was Saving when the hypervisor pool took it, and is on its way back. -/
def comingBack : Ctx := { Ctx.new 0x40000 5 true with st := 6, clusters := 1, hyper := some ⟨5, none, true, [], [], []⟩ }

/-- The package in which that slot runs alone, in that context. -/
def macroComingBack : State :=
  { State.reset with power := ⟨2, false, 0⟩, mgmt := [(0, 0x3fffff), (0x20, 0x3fffff)], slots := [(0, atMacro)],
                     cores := [(0, { Core.reset with spsz := 65536 })], ctxs := [(1, comingBack)] }

/-- The address of each element. -/
theorem elemAddr_macroComingBack : ∀ j < 16,
    (macroComingBack.me.rg 2 + (lane (macroComingBack.me.rv 3) j).setWidth 64 * (1#64 <<< 2)).toNat = 0xfffffffffff00100 := by decide

theorem inScratchpad_macroComingBack : InScratchpad macroComingBack 0xfffffffffff00100 4 :=
  ⟨by decide, by decide, by decide, by decide, by decide, by decide, by decide⟩

theorem elements_macroComingBack : ∀ j, j < 16 →
    let p := (macroComingBack.me.rg 2 + (lane (macroComingBack.me.rv 3) j).setWidth 64 * (1#64 <<< 2)).toNat
    InScratchpad macroComingBack p 4 ∧ p % 4 = 0 := fun j hj => by
  dsimp only
  rw [elemAddr_macroComingBack j hj]
  exact ⟨inScratchpad_macroComingBack, by decide⟩

theorem ready_vgather_macroComingBack : Ready (.vgather 2 3 2 1) macroComingBack := ⟨by decide, by decide, by decide, by decide, rfl⟩

theorem ready_vscatter_macroComingBack : Ready (.vscatter 2 3 2 1) macroComingBack := ⟨by decide, by decide, by decide, by decide, rfl⟩

/-- The slot as it stands after an instruction. -/
def runAfter (i : Instr) : Run :=
  match exec i macroComingBack with
  | .next t => t.me.run
  | _ => .free

/-- The macro stops after its first element. -/
theorem runAfter_vgather : runAfter (.vgather 2 3 2 1) = .parked .again := by decide +kernel

theorem runAfter_vscatter : runAfter (.vscatter 2 3 2 1) = .parked .again := by decide +kernel

theorem endOfBody_run (sl : Slot) (a next : Word) : (endOfBody sl a next).run = sl.run := by
  have h1 : ∀ (x : Slot) k, (endOfBody1 x a k).1.run = x.run := fun x k => by
    unfold endOfBody1
    dsimp only
    split
    · split <;> rfl
    · rfl
  unfold endOfBody
  split
  · next y t he => exact (congrArg (fun r => r.1.run) he).symm.trans (h1 sl true)
  · next y he =>
    have hy : y.run = sl.run := (congrArg (fun r => r.1.run) he).symm.trans (h1 sl true)
    split
    · next z t he' => exact ((congrArg (fun r => r.1.run) he').symm.trans (h1 y false)).trans hy
    · next z he' => exact ((congrArg (fun r => r.1.run) he').symm.trans (h1 y false)).trans hy

/-- A slot that no switch marker parks runs on as its instruction completes (R45). -/
theorem completeAt_run {t : State} (a next : Word) (h : (t.mark && t.me.settle.marks) = false) : (completeAt a next t).me.run = t.me.run := by
  rw [completeAt, State.me_onMe]
  dsimp only
  rw [h, if_neg Bool.false_ne_true]
  exact endOfBody_run ..

/-- An instruction that stops between two elements there has not completed. -/
theorem not_completes_of_runAfter {i : Instr} {t : State} (hstop : runAfter i = .parked .again) (hm : (t.mark && t.me.settle.marks) = false)
    (hrun : t.me.run = .running) : ¬ Completes i macroComingBack t := fun h => by
  rw [runAfter, h] at hstop
  exact nomatch (hrun.symm.trans (completeAt_run _ _ hm).symm).trans hstop

/-- Refutes O32: the clause of VGATHER, at `macroComingBack`. -/
theorem not_loadsAndTheirData : ¬ Obligations.LoadsAndTheirData := by
  unfold Obligations.LoadsAndTheirData
  rintro ⟨h, _⟩
  obtain ⟨_, _, _, _, _, _, _, _, _, hgather⟩ := h macroComingBack 0 0 0 .d .d false 2 0 0 0 2 0 3 1
  exact not_completes_of_runAfter runAfter_vgather rfl rfl
    (hgather ready_vgather_macroComingBack (by decide) (by decide) (by decide) (by decide) elements_macroComingBack)

/-- Refutes O33: the clause of VSCATTER, at `macroComingBack`. -/
theorem not_storesWriteTheirBytesAlone : ¬ Obligations.StoresWriteTheirBytesAlone := by
  unfold Obligations.StoresWriteTheirBytesAlone
  intro h
  obtain ⟨_, _, _, _, _, hscatter, _⟩ := h macroComingBack 0 0 .d 2 0 0 2 0 3 1 (by decide) (fun _ hp => absurd hp List.not_mem_nil)
  obtain ⟨t, ht, hme, _⟩ := hscatter (by decide) (by decide) (by decide) ready_vscatter_macroComingBack elements_macroComingBack
  refine not_completes_of_runAfter runAfter_vscatter ?_ (congrArg Slot.run hme) ht
  have hmarks : t.me.settle.marks = false := by rw [hme]; rfl
  rw [hmarks, Bool.and_false]

end Sys2Proof.Machine
end

section
/-! O38 refuted. The clause of a page that is not mapped takes 0x0b only where the number that comes with the walk's answer is 0, and that number
is how large the page may have been (R239), never 0: so the clause asks 0x0c of a load, too, which R250 answers with 0x0b. -/

namespace Sys2Proof.Machine

/-- The effect of ATR: its register is owed what the translation answers. -/
def atrBody (k a d : BitVec 5) : Body := fun s =>
  let r := atrResult k.toNat (s.me.rg a.toNat) s
  later .loadDataReturn [.g d.toNat r.1] 0 r.2

/-- Ready ATR completes and owes its register what the translation answers (R250). -/
theorem completes_atr {s : State} {k a d : BitVec 5} (h : Ready (.atr k a d) s) :
    Completes (.atr k a d) s (owingValue (atrResult k.toNat (s.me.rg a.toNat) s).2 d (atrResult k.toNat (s.me.rg a.toNat) s).1) :=
  completes_of_next (body := atrBody k a d) rfl rfl h

/-- An address of the memory region whose page is not mapped: the cause of a load, of a store or of a fetch (R250). -/
theorem atrResult_unmapped {s t : State} {k n : Nat} {va : Word} (ha : regionOf s s.myCore va.toNat = .memory)
    (hw : walk s.myCtx va.toNat s = (.unmapped n, t)) :
    atrResult k va s = (BitVec.ofNat 64 (2 ^ 63 + if k = 2 then 0x0d else if k = 0 then 0x0b else 0x0c), t) := by
  unfold atrResult
  rw [ha, hw]

/-- A slot at an ATR of the address in g2 for a load. -/
def atAtr : Slot :=
  { Slot.reset with run := .running, pc := 0x2000, g := vset (Vector.replicate 32 0) 2 0x6000, bind := ⟨1, 0, 0, 0, false, none⟩,
                    sys := { Sys.reset with st := 0x400 } }

/-- The package in which that slot runs alone, in a context whose root table is empty. -/
def atrOfUnmapped : State :=
  { State.reset with power := ⟨2, false, 0⟩, mgmt := [(0, 0x3fffff), (0x20, 0x3fffff)], slots := [(0, atAtr)],
                     ctxs := [(1, { Ctx.new 0x40000 5 true with st := 3, clusters := 1 })] }

theorem ready_atrOfUnmapped : Ready (.atr 0 2 1) atrOfUnmapped := ⟨by decide, by decide, by decide, by decide, rfl⟩

/-- The address in g2 lies in memory. -/
theorem region_atrOfUnmapped : regionOf atrOfUnmapped atrOfUnmapped.myCore (atrOfUnmapped.me.rg (2 : BitVec 5).toNat).toNat = .memory := by decide +kernel

/-- The walk ends at the root. -/
theorem walk_atrOfUnmapped : walk atrOfUnmapped.myCtx (atrOfUnmapped.me.rg (2 : BitVec 5).toNat).toNat atrOfUnmapped =
    (.unmapped 53, atrOfUnmapped) := by decide +kernel

/-- The ATR owes 0x0b. -/
theorem completes_atrOfUnmapped : Completes (.atr 0 2 1) atrOfUnmapped (owingValue atrOfUnmapped 1 0x800000000000000b) := by
  have h := completes_atr ready_atrOfUnmapped
  rwa [atrResult_unmapped region_atrOfUnmapped walk_atrOfUnmapped] at h

/-- Refutes O38: the clause of a page that is not mapped, for the load at `atrOfUnmapped`. -/
theorem not_atrAndTlbfl : ¬ Obligations.AtrAndTlbfl := by
  unfold Obligations.AtrAndTlbfl
  rintro ⟨h, _⟩
  obtain ⟨_, _, hmemory⟩ := h atrOfUnmapped 0 2 1 (by decide)
  obtain ⟨hunmapped, _⟩ := hmemory region_atrOfUnmapped atrOfUnmapped
  have hasked : Completes (.atr 0 2 1) atrOfUnmapped (owingValue atrOfUnmapped 1 0x800000000000000c) :=
    hunmapped 53 walk_atrOfUnmapped ready_atrOfUnmapped
  have hsame := Host.Outcome.next.inj (completes_atrOfUnmapped.symm.trans hasked)
  exact absurd (congrArg (fun t : State => t.me.pend) hsame) (by decide)

end Sys2Proof.Machine
end

section
/-! What reads and writes at the home change of the management block (R90, R470): counts of windows, and no register below the windows' blocks. -/

namespace Sys2Proof.Machine

/-- The registers below the blocks of the format windows (R87, R470). -/
def State.lowRegs (s : State) : Nat → Word := fun off => if off < 0x20000 then s.mreg off else 0#64

theorem State.mreg_of_lowRegs {s t : State} (h : t.lowRegs = s.lowRegs) {off : Nat} (ho : off < 0x20000) : t.mreg off = s.mreg off := by
  have := congrFun h off
  rwa [State.lowRegs, State.lowRegs, if_pos ho, if_pos ho] at this

theorem State.mreg_of_mgmt {s t : State} (h : t.mgmt = s.mgmt) (off : Nat) : t.mreg off = s.mreg off :=
  congrArg (fun m => tget m off _) h

theorem State.lowRegs_of_mgmt {s t : State} (h : t.mgmt = s.mgmt) : t.lowRegs = s.lowRegs :=
  funext fun off => ite_congr rfl (fun _ => State.mreg_of_mgmt h off) fun _ => rfl

theorem State.lowRegs_of_untold {s t : State} (h : t.untold = s.untold) : t.lowRegs = s.lowRegs := State.lowRegs_of_mgmt (State.untold_mgmt h)

theorem State.setMreg_lowRegs (s : State) {w : Nat} (v : Word) (h : 0x20000 ≤ w) : (s.setMreg w v).lowRegs = s.lowRegs := by
  funext off
  unfold State.lowRegs
  split
  · exact State.mreg_setMreg_ne _ _ (by omega)
  · rfl

theorem foldl_lowRegs {α : Type} {f : State → α → State} (h : ∀ s a, (f s a).lowRegs = s.lowRegs) (l : List α) (s : State) :
    (l.foldl f s).lowRegs = s.lowRegs := foldl_keeps State.lowRegs f h l s

/-- A step that is taken only where b says so. -/
theorem ite_lowRegs {f : State → State} (hf : ∀ s, (f s).lowRegs = s.lowRegs) (b : Bool) (s : State) :
    (if b then f s else s).lowRegs = s.lowRegs := by
  cases b
  · rfl
  · exact hf s

/-- The registers of a window stand at 0x20000 and above. -/
theorem windowOf_ge {s : State} {line w : Nat} (h : windowOf s line = some w) : 0x20000 ≤ w := by
  obtain ⟨k, -, rfl⟩ := Option.map_eq_some_iff.1 h
  rw [winReg]
  omega

section Windows
variable (s : State)

theorem winCount_lowRegs {w : Nat} (line n : Nat) (h : 0x20000 ≤ w) : (winCount w line n s).lowRegs = s.lowRegs := by
  unfold winCount
  split
  · rfl
  · exact s.setMreg_lowRegs _ (by omega)

@[simp] theorem expandLine_lowRegs (line : Nat) : (expandLine line s).lowRegs = s.lowRegs := by
  unfold expandLine
  split
  · rfl
  · next hw => exact (winCount_lowRegs _ _ _ (windowOf_ge hw)).trans rfl

@[simp] theorem writeBackLine_lowRegs (line : Nat) : (writeBackLine line s).lowRegs = s.lowRegs := by
  unfold writeBackLine
  split
  · next hw _ =>
    dsimp only
    split <;> exact (winCount_lowRegs _ _ _ (windowOf_ge hw)).trans rfl
  · rfl

@[simp] theorem fillLine_lowRegs (line : Nat) : (fillLine line s).lowRegs = s.lowRegs := by
  unfold fillLine
  dsimp only
  split
  · split
    · exact (expandLine_lowRegs ..).trans (writeBackLine_lowRegs ..)
    · exact expandLine_lowRegs ..
  · exact expandLine_lowRegs ..

end Windows

section Homes
variable (s : State)

theorem fillUnlessHeld_lowRegs (line : Nat) : (if (tfind s.work line).isSome then s else fillLine line s).lowRegs = s.lowRegs := by
  split
  · rfl
  · exact fillLine_lowRegs ..

@[simp] theorem homeGet_lowRegs (w : Nat) : (homeGet w s).2.lowRegs = s.lowRegs := by
  unfold homeGet
  split
  · rfl
  · exact fillUnlessHeld_lowRegs ..

@[simp] theorem homePut_lowRegs (w : Nat) (v : BitVec 32) : (homePut w v s).lowRegs = s.lowRegs := by
  unfold homePut
  split
  · rfl
  · exact fillUnlessHeld_lowRegs s (lineOfWord w)

@[simp] theorem clearHome_lowRegs (w : Nat) : (clearHome w s).lowRegs = s.lowRegs := rfl
@[simp] theorem dropRdc_lowRegs (line : Nat) : (dropRdc line s).lowRegs = s.lowRegs := rfl
@[simp] theorem l1Drop_lowRegs (c w : Nat) : (l1Drop c w s).lowRegs = s.lowRegs := rfl

@[simp] theorem homeGetWide_lowRegs (wide : Bool) (w : Nat) : (homeGetWide wide w s).2.lowRegs = s.lowRegs := by
  unfold homeGetWide
  cases wide <;> simp

@[simp] theorem homePutWide_lowRegs (wide : Bool) (w : Nat) (v : Word) : (homePutWide wide w v s).lowRegs = s.lowRegs := by
  unfold homePutWide
  cases wide <;> simp

@[simp] theorem fireWatches_lowRegs (w : Nat) : (fireWatches w s).lowRegs = s.lowRegs :=
  (State.lowRegs_of_untold (fireOn_untold ..)).trans (homeGet_lowRegs ..)

@[simp] theorem dirWrite_lowRegs (h : Nat) (p : DirPost) : (dirWrite h p s).lowRegs = s.lowRegs :=
  (State.lowRegs_of_untold (setEvent_untold ..)).trans rfl

@[simp] theorem dirPost_lowRegs (kind value line : Nat) : (dirPost kind value line s).lowRegs = s.lowRegs := by
  unfold dirPost
  dsimp only
  split
  · rfl
  · exact (dirWrite_lowRegs ..).trans rfl

theorem homePeek_lowRegs (w : Nat) : (homePeek w s).2.lowRegs = s.lowRegs := by
  unfold homePeek
  split
  · split <;> simp
  · simp

theorem readChain_lowRegs (n e : Nat) (s : State) : (readChain n e s).2.lowRegs = s.lowRegs := by
  have hwords : ∀ (w k : Nat) (s : State), (wordsBy homePeek w k s).2.lowRegs = s.lowRegs := fun w k => by
    induction k generalizing w with
    | zero => exact fun _ => rfl
    | succ k ih => exact fun s => (ih (w + 1) _).trans (homePeek_lowRegs s w)
  induction n generalizing e s with
  | zero => rfl
  | succ n ih =>
    unfold readChain
    split
    · rfl
    · exact (ih _ _).trans (hwords ..)

theorem readChains_lowRegs (es : List Nat) : (readChains es s).2.lowRegs = s.lowRegs := by
  refine foldl_keeps (fun x : _ × State => x.2.lowRegs) _ (fun x e => ?_) es _
  split
  · rfl
  · exact readChain_lowRegs ..

@[simp] theorem gatherWord_lowRegs (more : List Nat) (w : Nat) : (gatherWord more w s).lowRegs = s.lowRegs := by
  unfold gatherWord
  split
  · next op wide holders _ =>
    have hdrop : ∀ s c, (if wide then l1Drop c (w + 1) (l1Drop c w s) else l1Drop c w s).lowRegs = s.lowRegs := fun s c =>
      (ite_lowRegs (l1Drop_lowRegs · c (w + 1)) wide _).trans (l1Drop_lowRegs ..)
    exact (ite_lowRegs (fireWatches_lowRegs · (w + 1)) wide _).trans ((fireWatches_lowRegs ..).trans
      ((ite_lowRegs (clearHome_lowRegs · (w + 1)) wide _).trans ((homePutWide_lowRegs ..).trans
        ((foldl_lowRegs hdrop ..).trans (homeGetWide_lowRegs ..)))))
  · rfl

@[simp] theorem gather_lowRegs (w : Nat) : (gather w s).lowRegs = s.lowRegs := by
  unfold gather
  dsimp only
  split
  · split
    · exact gatherWord_lowRegs ..
    · rw [foldl_lowRegs fun s e => dirPost_lowRegs s _ _ _]
      exact (foldl_lowRegs (fun s w => gatherWord_lowRegs s _ w) ..).trans (readChains_lowRegs ..)
  · rfl

@[simp] theorem recallWord_lowRegs (w : Nat) : (recallWord w s).lowRegs = s.lowRegs := by
  unfold recallWord
  split
  · rfl
  · dsimp only
    split <;> simp
  · exact gather_lowRegs ..

@[simp] theorem homeStore_lowRegs (w : Nat) (mask : BitVec 4) (v : BitVec 32) : (homeStore w mask v s).lowRegs = s.lowRegs := by
  simp [homeStore]

@[simp] theorem homePutNat_lowRegs (pa n v : Nat) : (homePutNat pa n v s).lowRegs = s.lowRegs :=
  foldl_lowRegs (fun s _ => homeStore_lowRegs s ..) _ s

end Homes

end Sys2Proof.Machine
end

section
/-! Page faults (R244, R246, R247): the records of a fault queue and the miss tables, a walk's answer for its slot, and what a head does that passes
an answered record. -/

namespace Sys2Proof.Machine

/-! ### Folds and tables -/

theorem foldl_fixed {σ α : Type} {f : σ → α → σ} {s : σ} {l : List α} (h : ∀ a ∈ l, f s a = s) : l.foldl f s = s := by
  induction l with
  | nil => rfl
  | cons a l ih => rw [List.foldl_cons, h a List.mem_cons_self, ih fun b hb => h b (List.mem_cons_of_mem _ hb)]

/-- A number below n, and the others. -/
theorem upTo_split {n c : Nat} (h : c < n) :
    ∃ before after, upTo n = before ++ c :: after ∧ (∀ d ∈ before, d < n ∧ d ≠ c) ∧ ∀ d ∈ after, d < n ∧ d ≠ c := by
  obtain ⟨before, after, heq⟩ := List.append_of_mem (List.mem_range.2 h)
  have hnodup : (c :: (before ++ after)).Nodup := List.nodup_middle.1 (heq ▸ List.nodup_range)
  have hother : ∀ d ∈ before ++ after, d < n ∧ d ≠ c := fun d hd => by
    refine ⟨List.mem_range.1 (heq ▸ List.perm_middle.mem_iff.2 (List.mem_cons_of_mem c hd)), fun hdc => ?_⟩
    exact (List.nodup_cons.1 hnodup).1 (hdc ▸ hd)
  exact ⟨before, after, heq, fun d hd => hother d (List.mem_append_left _ hd), fun d hd => hother d (List.mem_append_right _ hd)⟩

/-- A fold in which one number alone makes a difference. -/
theorem foldl_upTo_only {σ : Type} {f : σ → Nat → σ} {s t : σ} {n c : Nat} (hc : c < n) (hstep : f s c = t)
    (hs : ∀ d, d < n → d ≠ c → f s d = s) (ht : ∀ d, d < n → d ≠ c → f t d = t) : (upTo n).foldl f s = t := by
  obtain ⟨before, after, heq, hbefore, hafter⟩ := upTo_split hc
  rw [heq, List.foldl_append, List.foldl_cons, foldl_fixed fun d hd => hs d (hbefore d hd).1 (hbefore d hd).2, hstep,
    foldl_fixed fun d hd => ht d (hafter d hd).1 (hafter d hd).2]

theorem flatMap_upTo_only {α : Type} {g : Nat → List α} {n c : Nat} (hc : c < n) (h : ∀ d, d < n → d ≠ c → g d = []) :
    (upTo n).flatMap g = g c := by
  obtain ⟨before, after, heq, hbefore, hafter⟩ := upTo_split hc
  rw [heq, List.flatMap_append, List.flatMap_cons, List.flatMap_eq_nil_iff.2 fun d hd => h d (hbefore d hd).1 (hbefore d hd).2,
    List.flatMap_eq_nil_iff.2 fun d hd => h d (hafter d hd).1 (hafter d hd).2, List.nil_append, List.append_nil]

/-- A table some of whose entries are replaced. -/
theorem tfind_map_ite {α : Type} (t : Tbl α) (p : Nat × α → Prop) [DecidablePred p] (g : Nat × α → α) (k : Nat) :
    tfind (t.map fun e => if p e then (e.1, g e) else e) k = (tfind t k).map fun x => if p (k, x) then g (k, x) else x := by
  induction t with
  | nil => rfl
  | cons e t ih =>
    have hkey : (if p e then (e.1, g e) else e).1 = e.1 := by split <;> rfl
    rw [List.map_cons, tfind_cons, tfind_cons, hkey]
    by_cases he : e.1 = k
    · subst he
      simp only [if_true, Option.map_some]
      split <;> rfl
    · simp only [he, if_false, ih]

/-- A parked slot is listed. -/
theorem tfind_slots_of_parked {s : State} {j : Nat} {r : Reason} (h : (s.slot j).run = .parked r) : tfind s.slots j = some (s.slot j) := by
  cases hj : tfind s.slots j with
  | none =>
    rw [State.slot, tget, hj] at h
    exact nomatch h
  | some x => rw [State.slot, tget, hj, Option.getD_some]

/-- A slot that runs goes on, if a slot is let run. -/
theorem run_onSlot_running {s : State} {j : Nat} (k : Nat) (h : (s.slot j).run = .running) :
    ((s.onSlot k fun sl => { sl with run := .running }).slot j).run = .running := by
  by_cases hj : j = k
  · rw [hj, State.slot_onSlot_self]
  · rw [State.slot_onSlot_ne _ _ hj, h]

/-- A slot runs after a fold one of whose steps lets it run and the others of which do not stop it. -/
theorem foldl_runs {α : Type} {f : State → α → State} {j : Nat} {l : List α} {a : α} (ha : a ∈ l)
    (hset : ∀ s, ((f s a).slot j).run = .running) (hstay : ∀ s b, (s.slot j).run = .running → ((f s b).slot j).run = .running)
    (s : State) : ((l.foldl f s).slot j).run = .running := by
  obtain ⟨before, after, rfl⟩ := List.append_of_mem ha
  have hafter : ∀ (l : List α) (s : State), (s.slot j).run = .running → ((l.foldl f s).slot j).run = .running := fun l => by
    induction l with
    | nil => exact fun _ h => h
    | cons b l ih => exact fun s h => ih _ (hstay s b h)
  rw [List.foldl_append, List.foldl_cons]
  exact hafter after _ (hset _)

/-! ### The queue of faults (R247) -/

theorem State.setMreg_cluster (s : State) (off : Nat) (w : Word) (c : Nat) : (s.setMreg off w).cluster c = s.cluster c := rfl

theorem slice_head (h t : Nat) : slice (BitVec.ofNat 64 (h % 2 ^ 32 + t * 2 ^ 32)) 31 0 = h % 2 ^ 32 := by
  simp only [slice, BitVec.toNat_ofNat, Nat.shiftRight_zero]
  omega

theorem slice_tail {h t : Nat} (hh : h < 2 ^ 32) : slice (BitVec.ofNat 64 (h + t % 2 ^ 32 * 2 ^ 32)) 63 32 = t % 2 ^ 32 := by
  simp only [slice, BitVec.toNat_ofNat, Nat.shiftRight_eq_div_pow]
  omega

theorem fqHead_of_mgmt {s t : State} (h : t.mgmt = s.mgmt) (ctx : Nat) : fqHead t ctx = fqHead s ctx := by
  rw [fqHead, fqHead, State.mreg_of_mgmt h]

theorem fqHead_lt (s : State) (ctx : Nat) : fqHead s ctx < 2 ^ 32 := slice_lt ..

/-- A fault that has its record, or whose queue is full, stays as it is. -/
theorem postRecord_stays {m : Miss} {s : State} (h : m.posted.isSome = true ∨ 256 ≤ fqUsed s m.ctx) : postRecord m s = (m, s) :=
  if_pos (by simpa using h)

/-- A fault keeps all but its record. -/
theorem postRecord_fst (m : Miss) (s : State) : ∃ p, (postRecord m s).1 = { m with posted := p } := by
  unfold postRecord
  split
  · exact ⟨m.posted, rfl⟩
  · exact ⟨_, rfl⟩

/-- A fault without a record gets one at the tail where there is room. -/
theorem postRecord_posts {m : Miss} {s : State} (hp : m.posted = none) (hroom : fqUsed s m.ctx < 256) (hctx : m.ctx < 256) :
    (postRecord m s).1 = { m with posted := some (fqTail s m.ctx) } ∧ (postRecord m s).2.clusters = s.clusters ∧
      fqTail (postRecord m s).2 m.ctx = (fqTail s m.ctx + 1) % 2 ^ 32 ∧ fqHead (postRecord m s).2 m.ctx = fqHead s m.ctx := by
  have hfull : (m.posted.isSome || decide (256 ≤ fqUsed s m.ctx)) = false := by simp [hp, hroom]
  unfold postRecord
  rw [hfull, if_neg Bool.false_ne_true]
  dsimp only
  generalize ha : ctxFq s m.ctx + 32 * (fqTail s m.ctx % 256) = a
  generalize hu : homePutNat (a + 16) 16 0 (homePutNat (a + 8) 8 (Nat.min m.count 65535 * 2 ^ 48 + m.src * 2 ^ 32 + m.kind)
    (homePutNat a 8 m.va s)) = u
  have hstill : u.still = s.still := by simp [← hu]
  have hregs : u.lowRegs = s.lowRegs := by simp [← hu]
  have hhead : fqHead u m.ctx = fqHead s m.ctx := congrArg (slice · 31 0) (State.mreg_of_lowRegs hregs (by rw [fqReg]; omega))
  refine ⟨rfl, (congrArg State.clusters (State.still_state hstill) :), ?_, ?_⟩
  · rw [fqTail, State.mreg_setMreg_self, slice_tail (fqHead_lt ..)]
  · rw [fqHead, State.mreg_setMreg_self, ← Nat.mod_eq_of_lt (fqHead_lt u m.ctx), slice_head, Nat.mod_eq_of_lt (fqHead_lt ..), hhead]

/-- The faults without a record, by cluster. -/
def unposted (s : State) : List (Nat × Miss) :=
  (upTo 32).flatMap fun cl => ((s.cluster cl).misses.filter (·.posted.isNone)).map fun m => (cl, m)

theorem unposted_of_only {s : State} {cl : Nat} (hcl : cl < 32) (h : ∀ d, d < 32 → d ≠ cl → (s.cluster d).misses = []) :
    unposted s = ((s.cluster cl).misses.filter (·.posted.isNone)).map fun m => (cl, m) :=
  flatMap_upTo_only hcl fun d hd hne => by rw [h d hd hne]; rfl

theorem postAll_nothing {s : State} (h : unposted s = []) : postAll s = s := by
  unfold postAll
  rw [← unposted, h]
  rfl

theorem postAll_one {s : State} {cl : Nat} {m : Miss} (h : unposted s = [(cl, m)]) :
    postAll s = (postRecord m s).2.onCluster cl fun c =>
      { c with misses := c.misses.map fun y => if y = m then (postRecord m s).1 else y } := by
  unfold postAll
  rw [← unposted, h]
  rfl

/-- The table of a cluster with the one fault m. -/
theorem misses_postAll_one {s : State} {cl : Nat} {m : Miss} (h : unposted s = [(cl, m)]) (hm : (s.cluster cl).misses = [m])
    (hc : (postRecord m s).2.clusters = s.clusters) : ((postAll s).cluster cl).misses = [(postRecord m s).1] := by
  have hcluster : (postRecord m s).2.cluster cl = s.cluster cl := congrArg (fun t => tget t cl Cluster.reset) hc
  rw [postAll_one h, State.cluster_onCluster, if_pos rfl, hcluster, hm]
  simp

/-! ### FAULT_REPOST -/

section Repost
variable {s : State} {cl : Nat} {m : Miss} (hcl : cl < 32) (hm : (s.cluster cl).misses = [m])
  (hothers : ∀ d, d < 32 → d ≠ cl → (s.cluster d).misses = [])
include hcl hm hothers

theorem faultRepost_stays (h : m.posted.isSome = true ∨ 256 ≤ fqUsed s m.ctx) :
    ∃ t, Happens .faultRepost s t ∧ (t.cluster cl).misses = [m] ∧ t.mem = s.mem := by
  refine ⟨postAll s, rfl, ?_⟩
  have hun := unposted_of_only hcl hothers
  rw [hm] at hun
  cases hp : m.posted with
  | some n =>
    rw [postAll_nothing (by simpa [hp] using hun)]
    exact ⟨hm, rfl⟩
  | none =>
    have hone : unposted s = [(cl, m)] := by simpa [hp] using hun
    have hrec := postRecord_stays h
    refine ⟨(misses_postAll_one hone hm (by rw [hrec])).trans (by rw [hrec]), ?_⟩
    rw [postAll_one hone, hrec]
    rfl

theorem faultRepost_posts (hctx : m.ctx < 256) (hp : m.posted = none) (hroom : fqUsed s m.ctx < 256) :
    ∃ t, Happens .faultRepost s t ∧ (t.cluster cl).misses = [{ m with posted := some (fqTail s m.ctx) }] ∧
      fqTail t m.ctx = (fqTail s m.ctx + 1) % 2 ^ 32 ∧ fqHead t m.ctx = fqHead s m.ctx := by
  have hun := unposted_of_only hcl hothers
  rw [hm] at hun
  have hone : unposted s = [(cl, m)] := by simpa [hp] using hun
  obtain ⟨hrec, hclusters, htail, hhead⟩ := postRecord_posts hp hroom hctx
  refine ⟨postAll s, rfl, (misses_postAll_one hone hm hclusters).trans (by rw [hrec]), ?_⟩
  rw [postAll_one hone]
  exact ⟨htail, hhead⟩

end Repost

/-! ### PAGE_WALK -/

/-- The context and the page of a fault. -/
def Miss.place (m : Miss) : Nat × Nat := (m.ctx, m.page)

theorem missFind_isSome {s : State} {cl ctx page : Nat} (h : (ctx, page) ∈ (s.cluster cl).misses.map Miss.place) :
    (missFind s cl ctx page).isSome = true := by
  obtain ⟨m, hm, heq⟩ := List.mem_map.1 h
  obtain ⟨rfl, rfl⟩ := Prod.mk.inj heq
  exact List.find?_isSome.2 ⟨m, hm, by simp⟩

/-- One fault of a table with its record, beside those before it. -/
def postNext (acc : List Miss × State) (m : Miss) : List Miss × State := (acc.1 ++ [(postRecord m acc.2).1], (postRecord m acc.2).2)

theorem places_foldl_postNext (l : List Miss) (acc : List Miss × State) :
    (l.foldl postNext acc).1.map Miss.place = acc.1.map Miss.place ++ l.map Miss.place := by
  induction l generalizing acc with
  | nil => simp
  | cons m l ih =>
    obtain ⟨p, hp⟩ := postRecord_fst m acc.2
    rw [List.foldl_cons, ih]
    simp [postNext, hp, Miss.place]

/-- Records are posted of the same faults. -/
theorem places_postPending (cl : Nat) (s : State) :
    ((postPending cl s).cluster cl).misses.map Miss.place = (s.cluster cl).misses.map Miss.place := by
  unfold postPending
  dsimp only
  rw [State.cluster_onCluster, if_pos rfl]
  exact places_foldl_postNext (s.cluster cl).misses ([], s)

/-- The first access to a page starts its fault where the table has room (R244). -/
theorem joinMiss_starts {s : State} {cl ctx va : Nat} (src kind : Nat) (hnone : missFind s cl ctx (va / 8192) = none)
    (hroom : (s.cluster cl).misses.length < 256) : (joinMiss cl ctx va src kind s).1 = true ∧
      (missFind (joinMiss cl ctx va src kind s).2 cl ctx (va / 8192)).isSome = true := by
  unfold joinMiss
  rw [hnone]
  dsimp only
  rw [if_neg (Nat.not_le.2 hroom)]
  refine ⟨rfl, missFind_isSome ?_⟩
  rw [places_postPending, State.cluster_onCluster, if_pos rfl]
  simp [Miss.place]

section Walk
variable {s : State}

theorem pageWalk_elsewhere (h : (s.slot s.arg.k).run ≠ .parked (.walk (s.arg.a / 8192))) : Happens .pageWalk s s :=
  happens_event rfl (if_pos (bne_iff_ne.2 h))

variable {s1 : State} (hrun : (s.slot s.arg.k).run = .parked (.walk (s.arg.a / 8192)))
include hrun

/-- A walk to a resident leaf fills the TLB, and its slot keeps the translation (R245, R246). -/
theorem pageWalk_leaf {e : Word} {bits : Nat} (hw : walk (s.slot s.arg.k).bind.ctx s.arg.a s = (.leaf e bits, s1))
    (hst : slice e 63 62 = 0) : Happens .pageWalk s (keepXlat s.arg.k (s.arg.a / 8192)
      (.ok (frameOf e bits s.arg.a) (e.getLsbD 6) (e.getLsbD 5) (e.getLsbD 4) (e.getLsbD 3))
      (tlbFill (octetOf (coreOf s.arg.k)) (tlbOf (s.slot s.arg.k).bind.ctx s.arg.a e bits) s1)) := by
  refine happens_event rfl ?_
  simp only [walkFor, hrun, hw, bne_self_eq_false, Bool.false_eq_true, if_false, pteSt, hst]
  rfl

theorem pageWalk_format (hw : walk (s.slot s.arg.k).bind.ctx s.arg.a s = (.format, s1)) :
    Happens .pageWalk s (keepXlat s.arg.k (s.arg.a / 8192) .format s1) := by
  refine happens_event rfl ?_
  simp only [walkFor, hrun, hw, bne_self_eq_false, Bool.false_eq_true, if_false]

/-- A walk that finds no page parks its slot on a new fault (R246). -/
theorem pageWalk_unmapped {n : Nat} (hw : walk (s.slot s.arg.k).bind.ctx s.arg.a s = (.unmapped n, s1))
    (hnone : missFind s1 (clusterOf (octetOf (coreOf s.arg.k))) (s.slot s.arg.k).bind.ctx (s.arg.a / 8192) = none)
    (hroom : (s1.cluster (clusterOf (octetOf (coreOf s.arg.k)))).misses.length < 256) :
    ∃ t, Happens .pageWalk s t ∧ (t.slot s.arg.k).run = .parked (.fault (s.arg.a / 8192)) ∧
      (missFind t (clusterOf (octetOf (coreOf s.arg.k))) (s.slot s.arg.k).bind.ctx (s.arg.a / 8192)).isSome = true := by
  obtain ⟨hjoins, hfind⟩ := joinMiss_starts (coreOf s.arg.k) (faultKind (accOf s.arg.b)) hnone hroom
  refine ⟨_, happens_event rfl rfl, ?_⟩
  simp only [walkFor, hrun, hw, bne_self_eq_false, Bool.false_eq_true, if_false, hjoins, State.slot_onSlot_self]
  exact ⟨rfl, hfind⟩

end Walk

/-! ### FQHEAD_WRITE -/

theorem fqheadWrite_ignored {s : State}
    (h : fqUsed s s.arg.k < (slice s.arg.w 31 0 + 2 ^ 32 - fqHead s s.arg.k) % 2 ^ 32 ∨ hostMay s s.arg.k = false) :
    Happens .fqheadWrite s s :=
  congrArg Host.Outcome.next (if_pos (by simpa using h))

/-- What the record n of a context, once it is passed with this answer, does in a cluster. -/
def passIn (ctx n resp : Nat) (s : State) (cl : Nat) : State :=
  match (s.cluster cl).misses.find? fun m => m.ctx == ctx && m.posted == some n with
  | some m => answerFault cl m resp s
  | none => s

theorem passRecord_of_read {ctx n resp : Nat} {s : State} (h : homeNat (ctxFq s ctx + 32 * (n % 256) + 16) 8 s = (resp, s)) :
    passRecord ctx s n = (upTo 32).foldl (passIn ctx n (resp % 4)) s := by
  unfold passRecord
  rw [h]
  rfl

theorem passIn_empty (ctx n resp : Nat) {s : State} {cl : Nat} (h : (s.cluster cl).misses = []) : passIn ctx n resp s cl = s := by
  unfold passIn
  rw [h]
  rfl

theorem passIn_found {ctx n resp : Nat} {s : State} {cl : Nat} {m : Miss} (h : (s.cluster cl).misses = [m]) (hctx : m.ctx = ctx)
    (hp : m.posted = some n) : passIn ctx n resp s cl = answerFault cl m resp s := by
  have hfind : (s.cluster cl).misses.find? (fun m => m.ctx == ctx && m.posted == some n) = some m := by simp [h, hctx, hp]
  unfold passIn
  rw [hfind]

/-- The copies that were parked on a fault go on. -/
def resolveCopies (cl : Nat) (m : Miss) (s : State) : State :=
  (s.cores.map (·.1)).foldl (fun s c =>
    if clusterOf (octetOf c) = cl && (s.core c).transfer.copies.any (fun e => e.2.parked == some m.page) then
      ((s.onCore c (answerCopies m.ctx m.page true)).post (evt .copyWordTransfer c 0 0)).post (evt .copyWordTransfer c 1 0)
    else s) s

/-- A fault has left its table. -/
def dropFault (cl : Nat) (m : Miss) (s : State) : State :=
  (s.onCluster cl fun x => { x with misses := x.misses.filter fun y => !(y.ctx == m.ctx && y.page == m.page) }).onCtx m.ctx fun c =>
    { c with lost := c.lost ++ [] }

/-- The fault has left its table, and copies and replays go on. -/
def resolveFault (cl : Nat) (m : Miss) (s : State) : State := answerReplays cl m.ctx m.page true (resolveCopies cl m (dropFault cl m s))

/-- A resolved fault leaves its table, and everything parked on it goes on (R246). -/
theorem answerFault_resolved (cl : Nat) (m : Miss) (s : State) : answerFault cl m 1 s =
    ((faultWaiters (resolveFault cl m s) m.ctx m.page).filter fun k => clusterOf (octetOf (coreOf k)) = cl).foldl
      (fun s k => s.onSlot k fun sl => { sl with run := .running }) (resolveFault cl m s) := rfl

theorem resolveCopies_rest (cl : Nat) (m : Miss) (s : State) : (resolveCopies cl m s).clusters = s.clusters ∧
    (resolveCopies cl m s).mgmt = s.mgmt ∧ (resolveCopies cl m s).slots = s.slots := by
  have h : ((resolveCopies cl m s).clusters, (resolveCopies cl m s).mgmt, (resolveCopies cl m s).slots) = (s.clusters, s.mgmt, s.slots) := by
    refine foldl_keeps (fun s : State => (s.clusters, s.mgmt, s.slots)) _ (fun s c => ?_) (s.cores.map (·.1)) s
    split <;> rfl
  exact ⟨congrArg (·.1) h, congrArg (·.2.1) h, congrArg (·.2.2) h⟩

/-- The faults that stay in a table. -/
theorem misses_dropFault (cl : Nat) (m : Miss) (s : State) (d : Nat) : ((dropFault cl m s).cluster d).misses =
    if d = cl then (s.cluster d).misses.filter fun y => !(y.ctx == m.ctx && y.page == m.page) else (s.cluster d).misses := by
  rw [dropFault, State.cluster, State.onCtx_clusters, ← State.cluster, State.cluster_onCluster]
  split <;> rfl

/-- A slot is bound as before, and waits for what it waited for. -/
theorem slot_resolveFault (cl : Nat) (m : Miss) {s : State} {j : Nat} {r : Reason} (h : (s.slot j).run = .parked r) :
    ((resolveFault cl m s).slot j).run = .parked r ∧ ((resolveFault cl m s).slot j).bind = (s.slot j).bind := by
  obtain ⟨-, -, hslots⟩ := resolveCopies_rest cl m (dropFault cl m s)
  rw [dropFault, State.onCtx_slots, State.onCluster_slots] at hslots
  have hfind := tfind_map_ite s.slots (fun e => (decide (e.2.bind.ctx = m.ctx) && decide (clusterOf (octetOf (coreOf e.1)) = cl)) = true)
    (fun e => { e.2 with replay := e.2.replay.map (answerReplay m.page true) }) j
  rw [tfind_slots_of_parked h, ← hslots] at hfind
  have hslot : (resolveFault cl m s).slot j = _ := congrArg (·.getD Slot.reset) hfind
  rw [hslot, Option.map_some, Option.getD_some]
  split
  · exact ⟨h, rfl⟩
  · exact ⟨h, rfl⟩

/-- A slot parked on a fault that is resolved runs again. -/
theorem run_answerFault {cl : Nat} {m : Miss} {s : State} {j : Nat} (hctx : (s.slot j).bind.ctx = m.ctx)
    (hrun : (s.slot j).run = .parked (.fault m.page)) (hcl : clusterOf (octetOf (coreOf j)) = cl) :
    ((answerFault cl m 1 s).slot j).run = .running := by
  obtain ⟨hrun', hbind⟩ := slot_resolveFault cl m hrun
  have hwaits : j ∈ faultWaiters (resolveFault cl m s) m.ctx m.page :=
    List.mem_map.2 ⟨_, List.mem_filter.2 ⟨mem_of_tfind (tfind_slots_of_parked hrun'), by simp [hrun', hbind, hctx]⟩, rfl⟩
  rw [answerFault_resolved]
  exact foldl_runs (List.mem_filter.2 ⟨hwaits, decide_eq_true hcl⟩) (fun s => by rw [State.slot_onSlot_self])
    (fun s k h => run_onSlot_running k h) _

/-- The tables and the registers that a resolved fault leaves. -/
theorem answerFault_rest (cl : Nat) (m : Miss) (s : State) :
    (∀ d, (answerFault cl m 1 s).cluster d = (dropFault cl m s).cluster d) ∧ (answerFault cl m 1 s).mgmt = s.mgmt := by
  obtain ⟨hclusters, hmgmt, -⟩ := resolveCopies_rest cl m (dropFault cl m s)
  have h : ((answerFault cl m 1 s).clusters, (answerFault cl m 1 s).mgmt) =
      ((resolveFault cl m s).clusters, (resolveFault cl m s).mgmt) := by
    rw [answerFault_resolved]
    refine foldl_keeps (fun s : State => (s.clusters, s.mgmt)) _ (fun s k => ?_) _ _
    rfl
  obtain ⟨hc, hr⟩ := Prod.mk.inj h
  exact ⟨fun d => congrArg (fun t => tget t d Cluster.reset) (hc.trans hclusters), hr.trans (hmgmt.trans (State.onCtx_mgmt ..))⟩

/-- The package has one fault m, in the table of cluster cl and with the record n, and slot j is parked on it. -/
structure OneFault (s : State) (cl : Nat) (m : Miss) (n j : Nat) : Prop where
  lt : cl < 32
  misses : (s.cluster cl).misses = [m]
  others : ∀ d, d < 32 → d ≠ cl → (s.cluster d).misses = []
  posted : m.posted = some n
  ctx : (s.slot j).bind.ctx = m.ctx
  run : (s.slot j).run = .parked (.fault m.page)
  near : clusterOf (octetOf (coreOf j)) = cl

/-- No register takes part in it. -/
theorem OneFault.setMreg {s : State} {cl n j : Nat} {m : Miss} (h : OneFault s cl m n j) (off : Nat) (w : Word) :
    OneFault (s.setMreg off w) cl m n j where
  lt := h.lt
  misses := (congrArg Cluster.misses (s.setMreg_cluster off w cl)).trans h.misses
  others d hd hne := (congrArg Cluster.misses (s.setMreg_cluster off w d)).trans (h.others d hd hne)
  posted := h.posted
  ctx := (congrArg (fun sl : Slot => sl.bind.ctx) (s.setMreg_slot off w j)).trans h.ctx
  run := (congrArg Slot.run (s.setMreg_slot off w j)).trans h.run
  near := h.near

/-- The one fault, answered as resolved: its table is empty and its slot runs, once the head passes its record. -/
theorem passRecord_resolves {s : State} {cl n j resp : Nat} {m : Miss} (h : OneFault s cl m n j)
    (hread : homeNat (ctxFq s m.ctx + 32 * (n % 256) + 16) 8 s = (resp, s)) (hresp : resp % 4 = 1) : let t := passRecord m.ctx s n
    (t.slot j).run = .running ∧ (∀ d, d < 32 → (t.cluster d).misses = []) ∧ t.mgmt = s.mgmt := by
  obtain ⟨hcluster, hmgmt⟩ := answerFault_rest cl m s
  have hempty : ∀ d, d < 32 → ((answerFault cl m 1 s).cluster d).misses = [] := fun d hd => by
    rw [hcluster, misses_dropFault]
    split
    · next hdc => simp [hdc, h.misses]
    · next hne => exact h.others d hd hne
  have hpass : passRecord m.ctx s n = answerFault cl m 1 s := by
    rw [passRecord_of_read hread, hresp]
    exact foldl_upTo_only h.lt (passIn_found h.misses rfl h.posted) (fun d hd hne => passIn_empty _ _ _ (h.others d hd hne))
      fun d hd _ => passIn_empty _ _ _ (hempty d hd)
  rw [hpass]
  exact ⟨run_answerFault h.ctx h.run h.near, hempty, hmgmt⟩

theorem unposted_empty {s : State} (h : ∀ d, d < 32 → (s.cluster d).misses = []) : unposted s = [] :=
  List.flatMap_eq_nil_iff.2 fun d hd => by rw [h d (List.mem_range.1 hd)]; rfl

/-- A head that moves by one record. -/
theorem happens_fqheadWrite_one {s : State} (hone : (slice s.arg.w 31 0 + 2 ^ 32 - fqHead s s.arg.k) % 2 ^ 32 = 1) (hused : 1 ≤ fqUsed s s.arg.k)
    (hmay : hostMay s s.arg.k = true) : Happens .fqheadWrite s (postAll (passRecord s.arg.k (s.setMreg (fqReg s.arg.k)
      (BitVec.ofNat 64 ((fqHead s s.arg.k + 1) % 2 ^ 32 + fqTail s s.arg.k * 2 ^ 32))) (fqHead s s.arg.k))) := by
  refine congrArg Host.Outcome.next ?_
  dsimp only
  rw [hone, hmay, if_neg (by simpa using Nat.one_le_iff_ne_zero.1 hused), show upTo 1 = [0] from rfl, List.foldl_cons, List.foldl_nil,
    show (fqHead s s.arg.k + 0) % 2 ^ 32 = fqHead s s.arg.k from Nat.mod_eq_of_lt (fqHead_lt ..)]

/-- A head that passes the record of the one fault, answered as resolved: its slot runs and the head has moved (R246, R247). -/
theorem fqheadWrite_resolves {s : State} {cl resp j : Nat} {m : Miss} {w : Word}
    (hw : BitVec.ofNat 64 ((fqHead s m.ctx + 1) % 2 ^ 32 + fqTail s m.ctx * 2 ^ 32) = w) (hctx : m.ctx = s.arg.k)
    (h : OneFault s cl m (fqHead s m.ctx) j) (hone : (slice s.arg.w 31 0 + 2 ^ 32 - fqHead s m.ctx) % 2 ^ 32 = 1)
    (hused : 1 ≤ fqUsed s m.ctx) (hmay : hostMay s m.ctx = true)
    (hread : homeNat (ctxFq (s.setMreg (fqReg m.ctx) w) m.ctx + 32 * (fqHead s m.ctx % 256) + 16) 8 (s.setMreg (fqReg m.ctx) w) =
      (resp, s.setMreg (fqReg m.ctx) w)) (hresp : resp % 4 = 1) :
    ∃ t, Happens .fqheadWrite s t ∧ (t.slot j).run = .running ∧ (t.cluster cl).misses = [] ∧
      fqHead t m.ctx = (fqHead s m.ctx + 1) % 2 ^ 32 := by
  obtain ⟨hruns, hempty, hmgmt⟩ := passRecord_resolves (h.setMreg (fqReg m.ctx) w) hread hresp
  have hhead : fqHead (s.setMreg (fqReg m.ctx) w) m.ctx = (fqHead s m.ctx + 1) % 2 ^ 32 := by
    rw [← hw, fqHead, State.mreg_setMreg_self, slice_head]
  rw [hctx] at hone hused hmay
  have hstep := happens_fqheadWrite_one hone hused hmay
  rw [← hctx, hw, postAll_nothing (unposted_empty hempty)] at hstep
  exact ⟨_, hstep, hruns, hempty cl h.lt, (fqHead_of_mgmt hmgmt _).trans hhead⟩

end Sys2Proof.Machine
end

section
/-! Flushes of pages and contexts (R249, R251, R474): what they drop from the TLBs, when they are over, and what follows then. -/

namespace Sys2Proof.Machine

/-! ### The start of a flush -/

/-- No TLB holds an entry of the context that meets the range. -/
theorem mem_tlb_dropTlb {s : State} {ctx lo hi o : Nat} {y : TlbEntry} (h : y ∈ ((dropTlb ctx lo hi s).octet o).tlb) :
    ¬ (y.ctx = ctx ∧ y.base < hi ∧ lo < y.base + 2 ^ y.bits) := by
  cases ho : tfind (dropTlb ctx lo hi s).octets o with
  | none =>
    rw [State.octet, tget, ho] at h
    exact absurd h List.not_mem_nil
  | some x =>
    rw [State.octet, tget, ho, Option.getD_some] at h
    obtain ⟨e, -, he⟩ := List.mem_map.1 (mem_of_tfind ho)
    obtain ⟨-, rfl⟩ := Prod.mk.inj he
    have hkept := (List.mem_filter.1 h).2
    rintro ⟨hctx, hhi, hlo⟩
    simp [hctx, hhi, hlo] at hkept

theorem flushBusy_startFlush (ctx lo hi : Nat) (s : State) : flushBusy (startFlush ctx lo hi true s).2 ctx = true := by
  have hflushes : (startFlush ctx lo hi true s).2.flushes = s.flushes ++ [⟨(startFlush ctx lo hi true s).1, ctx, lo, hi, true⟩] := rfl
  simp [flushBusy, hflushes]

/-- The range of a flush is a page that holds the address. -/
theorem flushRange_eq (ctx va : Nat) (s : State) :
    ∃ b, flushRange ctx va s = ((va / 2 ^ b * 2 ^ b, va / 2 ^ b * 2 ^ b + 2 ^ b), (walk ctx va s).2) := ⟨_, rfl⟩

/-- No TLB translates an address once a range that holds it is flushed. -/
theorem tlbFind_startFlush {ctx lo hi va : Nat} (hlo : lo ≤ va) (hhi : va < hi) (host : Bool) (s : State) (o : Nat) :
    tlbFind (startFlush ctx lo hi host s).2 o ctx va = none := by
  refine List.find?_eq_none.2 fun y hy hhit => mem_tlb_dropTlb hy ?_
  obtain ⟨hctx, hbase⟩ := Bool.and_eq_true_iff.1 hhit
  have hbase := beq_iff_eq.1 hbase
  have hle : y.base ≤ va := hbase ▸ Nat.div_mul_le_self ..
  have hlt : va < y.base + 2 ^ y.bits := hbase ▸ Nat.lt_div_mul_add (Nat.two_pow_pos _)
  exact ⟨beq_iff_eq.1 hctx, by omega, by omega⟩

section Start
variable {s : State}

/-- A register of a flush is not written while one runs, or by one who may not. -/
theorem flush_ignored (h : flushBusy s s.arg.k = true ∨ hostMay s s.arg.k = false) :
    Happens .flushPage s s ∧ Happens .flushContext s s :=
  have hif : (flushBusy s s.arg.k || !hostMay s s.arg.k) = true := by simpa using h
  ⟨congrArg Host.Outcome.next (if_pos hif), congrArg Host.Outcome.next (if_pos hif)⟩

variable (hbusy : flushBusy s s.arg.k = false) (hmay : hostMay s s.arg.k = true)
include hbusy hmay

theorem flushContext_starts : ∃ t, Happens .flushContext s t ∧ flushBusy t s.arg.k = true ∧ t.mem = s.mem ∧
    ∀ o, ∀ e ∈ (t.octet o).tlb, e.base < 2 ^ 64 → e.ctx ≠ s.arg.k := by
  refine ⟨_, congrArg Host.Outcome.next (if_neg (by simp [hbusy, hmay])), flushBusy_startFlush .., rfl, fun o e he hbase hctx => ?_⟩
  exact mem_tlb_dropTlb he ⟨hctx, hbase, Nat.add_pos_right _ (Nat.two_pow_pos _)⟩

/-- The address that the register of a page flush names: bits 56:13, bit 56 repeated above (R474). -/
def flushedPage (w : Word) : Nat :=
  if w.getLsbD 56 then 2 ^ 64 - 2 ^ 57 + slice w 56 13 * 8192 else slice w 56 13 * 8192

theorem flushPage_starts : ∃ t, Happens .flushPage s t ∧ flushBusy t s.arg.k = true ∧
    (∀ o, tlbFind t o s.arg.k (flushedPage s.arg.w) = none) ∧
    t.mem = (walk s.arg.k (flushedPage s.arg.w) (s.setMreg (0x8008 + 16 * s.arg.k) s.arg.w)).2.mem := by
  obtain ⟨b, hrange⟩ := flushRange_eq s.arg.k (flushedPage s.arg.w) (s.setMreg (0x8008 + 16 * s.arg.k) s.arg.w)
  have hstep : Happens .flushPage s
      (startFlush s.arg.k (flushedPage s.arg.w / 2 ^ b * 2 ^ b) (flushedPage s.arg.w / 2 ^ b * 2 ^ b + 2 ^ b) true
        (walk s.arg.k (flushedPage s.arg.w) (s.setMreg (0x8008 + 16 * s.arg.k) s.arg.w)).2).2 := by
    refine congrArg Host.Outcome.next ((if_neg (by simp [hbusy, hmay])).trans ?_)
    have harg : (walk s.arg.k (flushedPage s.arg.w) (s.setMreg (0x8008 + 16 * s.arg.k) s.arg.w)).2.arg = s.arg :=
      (congrArg State.arg (State.still_state (walk_still ..)) :)
    dsimp only
    rw [← flushedPage, State.setMreg_arg, hrange, harg]
  exact ⟨_, hstep, flushBusy_startFlush .., fun o => tlbFind_startFlush (Nat.div_mul_le_self ..)
    (Nat.lt_div_mul_add (Nat.two_pow_pos _)) true _ o, rfl⟩

end Start

/-! ### FLUSH_COMPLETE -/

/-- The package once every owned and update-only word has been returned for a flush. -/
def flushRecalled (f : Flush) (s : State) : State := s.home.foldl (fun s e => recallWord e.1 s) (dropTlb f.ctx f.lo f.hi s)

theorem flushRecalled_still (f : Flush) (s : State) : (flushRecalled f s).still = (dropTlb f.ctx f.lo f.hi s).still :=
  foldl_still _ (fun s (e : Nat × HomeSt) => recallWord_still s e.1) s.home

section Complete
variable {s : State} {f : Flush} (hf : (s.flushes.find? fun f => f.id == s.arg.k) = some f)
include hf

theorem flushComplete_waits (h : flushReady f s = false) : Happens .flushComplete s (s.post (evt .flushComplete f.id 0 0)) := by
  refine congrArg Host.Outcome.next ?_
  simp only [hf, h, Bool.not_false, if_true]

theorem flushComplete_ends (h : flushReady f s = true) : Happens .flushComplete s
    (releaseMigrating f { flushRecalled f s with flushes := (flushRecalled f s).flushes.filter fun g => g.id != f.id }) := by
  refine congrArg Host.Outcome.next ?_
  simp only [hf, h, Bool.not_true, Bool.false_eq_true, if_false]
  rfl

end Complete

/-- Slots that wait for a migrating page are let run, and nothing else changes. -/
theorem releaseMigrating_rest (f : Flush) (s : State) :
    (releaseMigrating f s).flushes = s.flushes ∧ (releaseMigrating f s).home = s.home := by
  have h : ((releaseMigrating f s).flushes, (releaseMigrating f s).home) = (s.flushes, s.home) := by
    refine foldl_keeps (fun s : State => (s.flushes, s.home)) _ (fun s e => ?_) s.slots s
    split
    · split <;> rfl
    · rfl
  exact Prod.mk.inj h

/-- A store that waits for a migrating page of the range issues again (R246). -/
theorem run_releaseMigrating {f : Flush} {s : State} {j p : Nat} (hrun : (s.slot j).run = .parked (.migrating p))
    (hctx : (s.slot j).bind.ctx = f.ctx) (hlo : f.lo ≤ 8192 * p) (hhi : 8192 * p < f.hi) :
    ((releaseMigrating f s).slot j).run = .running := by
  refine foldl_runs (mem_of_tfind (tfind_slots_of_parked hrun)) (fun t => ?_) (fun t e h => ?_) s
  · simp only [hrun, hctx, hlo, hhi, decide_true, Bool.and_self, if_true, State.slot_onSlot_self]
  · split
    · split
      · exact run_onSlot_running _ h
      · exact h
    · exact h

/-- A slot that waits for a migrating page waits on while TLBs are dropped. -/
theorem slot_dropTlb_migrating {s : State} {ctx lo hi j p : Nat} (h : (s.slot j).run = .parked (.migrating p)) :
    ((dropTlb ctx lo hi s).slot j).run = .parked (.migrating p) ∧ ((dropTlb ctx lo hi s).slot j).bind = (s.slot j).bind := by
  have hfind := tfind_map_ite s.slots (fun e => e.2.bind.ctx = ctx) (fun e => dropXlat lo hi e.2) j
  rw [tfind_slots_of_parked h] at hfind
  have hslot : (dropTlb ctx lo hi s).slot j = _ := congrArg (·.getD Slot.reset) hfind
  rw [hslot, Option.map_some, Option.getD_some]
  split
  · unfold dropXlat
    rw [h]
    exact ⟨h, rfl⟩
  · exact ⟨h, rfl⟩

/-- The end of a flush: it is gone, no word is owned, and the stores that waited for its pages issue again (R249). -/
theorem flushComplete_fields {s : State} {f : Flush} (hf : (s.flushes.find? fun f => f.id == s.arg.k) = some f)
    (hready : flushReady f s = true) : ∃ t, Happens .flushComplete s t ∧ t.flushes = s.flushes.filter (fun g => g.id != f.id) ∧
      (∀ w c, tfind s.home w = some (.owned c) → tfind t.home w = none) ∧
      ∀ j p, (s.slot j).run = .parked (.migrating p) → (s.slot j).bind.ctx = f.ctx → f.lo ≤ 8192 * p → 8192 * p < f.hi →
        (t.slot j).run = .running := by
  have hstill := flushRecalled_still f s
  obtain ⟨hflushes, hhome⟩ := releaseMigrating_rest f
    { flushRecalled f s with flushes := (flushRecalled f s).flushes.filter fun g => g.id != f.id }
  refine ⟨_, flushComplete_ends hf hready, ?flushes, fun w c hown => ?home, fun j p hrun hctx hlo hhi => ?slots⟩
  case flushes =>
    rw [hflushes]
    exact congrArg (List.filter fun g : Flush => g.id != f.id) (congrArg State.flushes (State.still_state hstill) :)
  case home =>
    rw [hhome]
    exact foldl_recallWord_frees (s := dropTlb f.ctx f.lo f.hi s) s.home (mem_of_tfind hown) hown
  case slots =>
    obtain ⟨hrun', hbind⟩ := slot_dropTlb_migrating (ctx := f.ctx) (lo := f.lo) (hi := f.hi) hrun
    have hslot := State.still_slot hstill j
    exact run_releaseMigrating ((congrArg Slot.run hslot :).trans hrun')
      ((congrArg (·.ctx) ((congrArg Slot.bind hslot :).trans hbind)).trans hctx) hlo hhi

end Sys2Proof.Machine
end

section
/-! The statement on walks, page faults and flushes, put together from the lemmas on each of its clauses. -/

namespace Sys2Proof.Machine

/-- Settles O53: each clause by the lemma on its event. -/
theorem pageEvents : Obligations.PageEvents := by
  unfold Obligations.PageEvents
  intro s k va
  refine ⟨⟨pageWalk_elsewhere, fun hrun r s1 hw => ⟨?leaf, ?unmapped, ?format⟩⟩, ⟨fqheadWrite_ignored, ?passes⟩, ?repost, flush_ignored,
    fun hbusy hmay => ⟨flushContext_starts hbusy hmay, flushPage_starts hbusy hmay⟩,
    fun f hf => ⟨flushComplete_waits hf, flushComplete_fields hf⟩⟩
  case leaf =>
    rintro e bits rfl hst
    refine ⟨_, pageWalk_leaf hrun hw hst, ?_, ?_⟩
    · rw [keepXlat, State.onSlot_octet, tlbFill, State.octet_onOctet_self]
      exact List.getLast?_concat
    · rw [keepXlat, State.slot_onSlot_self]
      rfl
  case unmapped =>
    rintro n rfl hnone hroom
    exact pageWalk_unmapped hrun hw hnone hroom
  case format =>
    rintro rfl
    exact pageWalk_format hrun hw
  case passes =>
    intro hused hmay hone cl m resp j hread hresp hcl hm hothers hctx hp hbind hwait hj
    rw [hone] at hused hread
    rw [← hctx] at hread hone hused hmay hp hbind ⊢
    exact fqheadWrite_resolves rfl hctx ⟨hcl, hm, hothers, hp, hbind, hwait, hj⟩ hone hused hmay hread hresp
  case repost =>
    exact fun cl m hcl hctx hm hothers => ⟨faultRepost_stays hcl hm hothers, faultRepost_posts hcl hm hothers hctx⟩

end Sys2Proof.Machine
end

section
/-! The tags of a core (R258 to R263): which tag of a mask a wait or a test finds, what reporting and clearing a tag leaves, and what the
waits do that have one to report. -/

namespace Sys2Proof.Machine

/-! ### The tags of a mask -/

theorem mem_maskTags {m : Word} {t : Nat} : t ∈ maskTags m ↔ t < 64 ∧ m.getLsbD t = true := by simp [maskTags, upTo]

/-- The lowest tag of a mask that meets a condition. -/
theorem find?_maskTags {m : Word} {p : Nat → Bool} {t : Nat} (ht : t < 64) (hm : m.getLsbD t = true) (hp : p t = true)
    (hlow : ∀ j, j < t → m.getLsbD j = true → p j = false) : (maskTags m).find? p = some t := by
  rw [maskTags, upTo, List.find?_filter, List.find?_range_eq_some]
  refine ⟨by simp [hm, hp], List.mem_range.2 ht, fun j hj => ?_⟩
  cases hb : m.getLsbD j
  · simp
  · simp [hlow j hj hb]

theorem find?_maskTags_none {m : Word} {p : Nat → Bool} (h : ∀ t, t < 64 → m.getLsbD t = true → p t = false) :
    (maskTags m).find? p = none :=
  List.find?_eq_none.2 fun t ht => by rw [h t (mem_maskTags.1 ht).1 (mem_maskTags.1 ht).2]; exact Bool.false_ne_true

theorem ne_zero_of_getLsbD {m : Word} {t : Nat} (h : m.getLsbD t = true) : m ≠ 0 := by
  rintro rfl
  simp at h

/-! ### The state of a tag -/

section Tag
variable {s : State} {c t : Nat}

/-- A bit of `tags` (R259): the tag has ended. -/
theorem tagBit_eq_true : tagBit s c t = true ↔ tagSt s c t ≠ .free ∧ tagSt s c t ≠ .inFlight := by
  unfold tagBit
  cases tagSt s c t <;> simp

theorem tagBit_eq_false : tagBit s c t = false ↔ ¬ (tagSt s c t ≠ .free ∧ tagSt s c t ≠ .inFlight) := by
  rw [← tagBit_eq_true, Bool.not_eq_true]

theorem tagBit_of_complete (h : tagSt s c t = .complete) : tagBit s c t = true := by rw [tagBit, h]

theorem tagOf_eq (x : Word) : tagOf x = x.toNat % 64 := by simp [tagOf, slice]

/-- Transfer state replaced in one core. -/
theorem core_onTransfer_self (c : Nat) (f : Transfer → Transfer) (s : State) :
    ((onTransfer c f s).core c).transfer = f (s.core c).transfer := by rw [onTransfer, State.core_onCore_self]

/-- A property of the transfer state of a core that an update of some core's keeps. -/
theorem core_onTransfer_keeps {β : Type} (p : Transfer → β) {f : Transfer → Transfer} (h : ∀ t, p (f t) = p t) (c d : Nat) (s : State) :
    p ((onTransfer c f s).core d).transfer = p (s.core d).transfer :=
  s.core_onCore_keeps (fun x => p x.transfer) (f := fun x => { x with transfer := f x.transfer }) (fun x => h x.transfer) c d

/-- Clearing a tag changes, of a slot, only which tags it has waited for (R261). -/
theorem slot_clearTag (c t k : Nat) (s : State) : ∃ w, (clearTag c t s).slot k =
    { s.slot k with traffic := { (s.slot k).traffic with waited := w } } := by
  have hfind := tfind_map_ite s.slots (fun e => coreOf e.1 = c)
    (fun e => { e.2 with traffic := { e.2.traffic with waited := setBit e.2.traffic.waited t false } }) k
  have hslot : (clearTag c t s).slot k = (tfind (clearTag c t s).slots k).getD Slot.reset := rfl
  rw [hslot, show tfind (clearTag c t s).slots k = _ from hfind, State.slot, tget]
  cases tfind s.slots k with
  | none => exact ⟨Slot.reset.traffic.waited, rfl⟩
  | some x =>
    by_cases hc : coreOf k = c
    · exact ⟨setBit x.traffic.waited t false, by simp [hc]⟩
    · exact ⟨x.traffic.waited, by simp [hc]⟩

theorem tags_clearTag : ((clearTag c t s).core c).transfer.tags = terase (s.core c).transfer.tags t := by
  have h := core_onTransfer_self c (fun x => { x with tags := terase x.tags t, copies := terase x.copies t }) s
  exact (congrArg Transfer.tags h :)

theorem tagSt_clearTag_self : tagSt (clearTag c t s) c t = .free := by
  rw [tagSt, tags_clearTag, tget_terase_self]

theorem tagSt_clearTag_ne {j : Nat} (hj : j ≠ t) : tagSt (clearTag c t s) c j = tagSt s c j := by
  rw [tagSt, tags_clearTag, tget_terase_ne _ _ hj, tagSt]

/-- A cleared tag is Free and no other changes; the issuing slot keeps its registers, and memory its bytes. -/
theorem clearTag_fields (t : Nat) (s : State) : let u := clearTag s.myCore t s
    tagSt u s.myCore t = .free ∧ (∀ j, j ≠ t → tagSt u s.myCore j = tagSt s s.myCore j) ∧ RegsKept (fun _ => False) s.me u.me ∧
      u.me.sys = s.me.sys ∧ u.mem = s.mem := by
  obtain ⟨w, hw⟩ := slot_clearTag s.myCore t s.cur s
  have hme : (clearTag s.myCore t s).me = { s.me with traffic := { s.me.traffic with waited := w } } := hw
  exact ⟨tagSt_clearTag_self, fun j hj => tagSt_clearTag_ne hj, by rw [hme]; exact .of_files rfl rfl rfl rfl rfl, by rw [hme], rfl⟩

/-! ### Reports (R259) -/

theorem tagFailed_of_ended (h : tagBit s c t = true) (hc : tagSt s c t ≠ .complete) : tagFailed (tagSt s c t) = true := by
  obtain ⟨hfree, hflight⟩ := tagBit_eq_true.1 h
  cases ht : tagSt s c t with
  | error _ _ => rfl
  | free => exact absurd ht hfree
  | inFlight => exact absurd ht hflight
  | complete => exact absurd ht hc

theorem reportTag_complete (ok : Body) (h : tagSt s s.myCore t = .complete) : reportTag t ok s = ok s := by simp only [reportTag, h]

theorem reportTag_error (ok : Body) {cause : Nat} {addr : Word} (h : tagSt s s.myCore t = .error cause addr) :
    reportTag t ok s = (clearTag s.myCore t s, .trap cause addr) := by simp only [reportTag, h]

/-- An instruction that reports a tag with an error raises it, and the tag is Free. -/
theorem traps_of_reportTag {i : Instr} {body ok : Body} (he : exec i s = issue i body s) (hb : body s = reportTag t ok s) (h : Ready i s)
    (cause : Nat) (addr : Word) (herr : tagSt s s.myCore t = .error cause addr) :
    ∃ s', exec i s = .next (raiseTrap s.cur cause addr s.me.pc s') ∧ tagSt s' s.myCore t = .free ∧ s'.mem = s.mem ∧
      RegsKept (fun _ => False) s.me s'.me := by
  obtain ⟨hfree, _, hregs, _, hmem⟩ := clearTag_fields t s
  exact ⟨_, by rw [he, issue_ready h, hb, reportTag_error ok herr, conclude_trap]; rfl, hfree, hmem, hregs⟩

end Tag

/-! ### The waits (R260, R263) -/

/-- The issuing slot has waited for some tags. -/
def hasWaited (ts : List Nat) (sl : Slot) : Slot :=
  { sl with traffic := { sl.traffic with waited := ts.foldl (fun w t => w ||| (1#64 <<< t)) sl.traffic.waited } }

theorem setBit_true_eq (w : Word) (t : Nat) : setBit w t true = w ||| (1#64 <<< t) := by
  have h : BitVec.ofNat 64 (2 ^ t) = 1#64 <<< t := by
    refine BitVec.eq_of_toNat_eq ?_
    simp [Nat.shiftLeft_eq]
  rw [← h]
  rfl

theorem waited_eq (ts : List Nat) (s : State) : waited ts s = l1Acquire s.myCore (s.onMe (hasWaited ts)) := by
  simp only [waited, setBit_true_eq]
  rfl

section Wait
variable {s : State} {m : Word} {t : Nat} {all : Bool} {fin : List Nat → Body} (hr : s.me.replay = none)
include hr

theorem replayed_of_none : s.me.replayed = false := by simp [Slot.replayed, replayPoint, hr]

theorem tagWait_none : tagWait 0 false fin s = (s, .trap 0x20 0x100) := by simp [tagWait, replayed_of_none hr]

/-- A wait that names a Free tag. -/
theorem tagWait_free (ht : t < 64) (hm : m.getLsbD t = true) (hf : tagSt s s.myCore t = .free)
    (hlow : ∀ j, j < t → m.getLsbD j = true → tagSt s s.myCore j ≠ .free) :
    tagWait m all fin s = (s, .trap 0x20 (BitVec.ofNat 64 t)) := by
  have hfind : (maskTags m).find? (fun j => tagSt s s.myCore j == .free) = some t :=
    find?_maskTags ht hm (by simp [hf]) fun j hj hb => by simp [hlow j hj hb]
  have hgo : (!all && decide (m = 0)) = false := by rw [decide_eq_false (ne_zero_of_getLsbD hm), Bool.and_false]
  simp only [tagWait, replayed_of_none hr, hgo, hfind, Bool.false_eq_true, if_false]

section Named
variable (hnamed : ∀ t, t < 64 → m.getLsbD t = true → tagSt s s.myCore t ≠ .free) (hm : all = false → m ≠ 0)
include hnamed hm

theorem tagWait_named : tagWait m all fin s =
    if !tagsReady s s.cur m all then (s, .wait (.tags m all))
    else if all then
      match (maskTags m).find? (fun t => tagFailed (tagSt s s.myCore t)) with
      | some t => reportTag t (fin []) s
      | none => fin (maskTags m) s
    else match (maskTags m).find? (tagBit s s.myCore) with
      | some t => reportTag t (fin [t]) s
      | none => fin [] s := by
  have hfind : (maskTags m).find? (fun j => tagSt s s.myCore j == .free) = none :=
    find?_maskTags_none fun t ht hb => by simp [hnamed t ht hb]
  have hgo : (!all && decide (m = 0)) = false := by
    cases all
    · exact decide_eq_false (hm rfl)
    · rfl
  simp only [tagWait, replayed_of_none hr, hgo, hfind, Bool.false_eq_true, if_false]
  rfl

theorem tagWait_waits (hw : tagsReady s s.cur m all = false) : tagWait m all fin s = (s, .wait (.tags m all)) := by
  rw [tagWait_named hr hnamed hm, hw]
  rfl

end Named

/-- A wait for any tag of a throughput slot reports the lowest that has ended. -/
theorem tagWait_any (hdet : s.me.det = false) (hnamed : ∀ t, t < 64 → m.getLsbD t = true → tagSt s s.myCore t ≠ .free) (ht : t < 64)
    (hm : m.getLsbD t = true) (hend : tagBit s s.myCore t = true)
    (hlow : ∀ j, j < t → m.getLsbD j = true → tagBit s s.myCore j = false) : tagWait m false fin s = reportTag t (fin [t]) s := by
  have hready : tagsReady s s.cur m false = true := by
    simp only [tagsReady, show (s.slot s.cur).det = false from hdet, Bool.false_eq_true, if_false]
    exact List.any_eq_true.2 ⟨t, mem_maskTags.2 ⟨ht, hm⟩, hend⟩
  rw [tagWait_named hr hnamed fun _ => ne_zero_of_getLsbD hm, hready, find?_maskTags ht hm hend hlow]
  rfl

/-- A wait for every tag, all of which have ended, reports the lowest that has an error. -/
theorem tagWait_all_error (hend : ∀ t, t < 64 → m.getLsbD t = true → tagBit s s.myCore t = true) (ht : t < 64) (hm : m.getLsbD t = true)
    (herr : tagSt s s.myCore t ≠ .complete) (hlow : ∀ j, j < t → m.getLsbD j = true → tagSt s s.myCore j = .complete) :
    tagWait m true fin s = reportTag t (fin []) s := by
  have hready : tagsReady s s.cur m true = true :=
    List.all_eq_true.2 fun j hj => hend j (mem_maskTags.1 hj).1 (mem_maskTags.1 hj).2
  have hfind : (maskTags m).find? (fun t => tagFailed (tagSt s s.myCore t)) = some t :=
    find?_maskTags ht hm (tagFailed_of_ended (hend t ht hm) herr) fun j hj hb => by rw [hlow j hj hb]; rfl
  rw [tagWait_named hr (fun j hj hb => (tagBit_eq_true.1 (hend j hj hb)).1) Bool.noConfusion, hready, hfind]
  rfl

/-- A wait for every tag, all of which are Complete. -/
theorem tagWait_all (hend : ∀ t, t < 64 → m.getLsbD t = true → tagSt s s.myCore t = .complete) :
    tagWait m true fin s = fin (maskTags m) s := by
  have hbit : ∀ j, j < 64 → m.getLsbD j = true → tagBit s s.myCore j = true := fun j hj hb => tagBit_of_complete (hend j hj hb)
  have hready : tagsReady s s.cur m true = true :=
    List.all_eq_true.2 fun j hj => hbit j (mem_maskTags.1 hj).1 (mem_maskTags.1 hj).2
  have hfind : (maskTags m).find? (fun t => tagFailed (tagSt s s.myCore t)) = none :=
    find?_maskTags_none fun j hj hb => by rw [hend j hj hb]; rfl
  rw [tagWait_named hr (fun j hj hb => (tagBit_eq_true.1 (hbit j hj hb)).1) Bool.noConfusion, hready, hfind]
  rfl

end Wait

/-! ### TWAITANY, TWAITALL, TFIND, TTEST and TCLR (R260, R261, R263) -/

section Instrs
variable {s : State} {a d : BitVec 5}

/-- The statement of a report, of a tag and an instruction. -/
def Reports (s : State) (i : Instr) (t : Nat) : Prop := ∀ cause addr, tagSt s s.myCore t = .error cause addr →
  ∃ s', exec i s = .next (raiseTrap s.cur cause addr s.me.pc s') ∧ tagSt s' s.myCore t = .free ∧ s'.mem = s.mem ∧
    RegsKept (fun _ => False) s.me s'.me

theorem tagCounts_throughput (hdet : s.me.det = false) : tagCounts s = tagBit s s.myCore := by
  funext t
  simp [tagCounts, hdet]

/-- The effects of TFIND, TTEST and TCLR. -/
def tfindBody (a d : BitVec 5) : Body := fun s =>
  match (maskTags (s.me.rg a.toNat)).find? (tagCounts s) with
  | some t => reportTag t (setG d fun _ => BitVec.ofNat 64 t) s
  | none => setG d (fun _ => BitVec.allOnes 64) s

def ttestBody (a d : BitVec 5) : Body := fun s =>
  let t := tagOf (s.me.rg a.toNat)
  if tagCounts s t then reportTag t (setG d fun _ => 1) s else setG d (fun _ => 0) s

def tclrBody (a : BitVec 5) : Body := fun s =>
  let t := tagOf (s.me.rg a.toNat)
  if tagSt s s.myCore t = .inFlight then (s, .trap 0x20 (BitVec.ofNat 64 t)) else (clearTag s.myCore t s, .next)

theorem exec_tfind : exec (.tfind a d) s = issue (.tfind a d) (tfindBody a d) s := rfl

theorem exec_ttest : exec (.ttest a d) s = issue (.ttest a d) (ttestBody a d) s := rfl

theorem exec_tclr : exec (.tclr a) s = issue (.tclr a) (tclrBody a) s := rfl

/-- TFIND with a tag to report. -/
theorem tfind_found {t : Nat} (hdet : s.me.det = false) (h : Ready (.tfind a d) s) (ht : t < 64) (hm : (s.me.rg a.toNat).getLsbD t = true)
    (hend : tagBit s s.myCore t = true) (hlow : ∀ j, j < t → (s.me.rg a.toNat).getLsbD j = true → tagBit s s.myCore j = false) :
    Reports s (.tfind a d) t ∧ (tagSt s s.myCore t = .complete → Writes (.tfind a d) s fun sl => sl.wg d.toNat (BitVec.ofNat 64 t)) := by
  have hb : tfindBody a d s = reportTag t (setG d fun _ => BitVec.ofNat 64 t) s := by
    rw [tfindBody, tagCounts_throughput hdet, find?_maskTags ht hm hend hlow]
  exact ⟨traps_of_reportTag exec_tfind hb h, fun hc => completes_of_next exec_tfind (hb.trans (reportTag_complete _ hc)) h⟩

theorem tfind_none (hdet : s.me.det = false) (h : Ready (.tfind a d) s)
    (hend : ∀ t, t < 64 → (s.me.rg a.toNat).getLsbD t = true → tagBit s s.myCore t = false) :
    Writes (.tfind a d) s fun sl => sl.wg d.toNat (BitVec.allOnes 64) := by
  refine completes_of_next exec_tfind ?_ h
  rw [tfindBody, tagCounts_throughput hdet, find?_maskTags_none hend]
  rfl

/-- TTEST of a tag that has ended, and of one that has not. -/
theorem ttest_clauses (hdet : s.me.det = false) (h : Ready (.ttest a d) s) : let t := (s.me.rg a.toNat).toNat % 64
    Reports s (.ttest a d) t ∧ (tagSt s s.myCore t = .complete → Writes (.ttest a d) s fun sl => sl.wg d.toNat 1) ∧
      (tagBit s s.myCore t = false → Writes (.ttest a d) s fun sl => sl.wg d.toNat 0) := by
  intro t
  have hb : ttestBody a d s = if tagBit s s.myCore t then reportTag t (setG d fun _ => 1) s else setG d (fun _ => 0) s := by
    rw [ttestBody, tagOf_eq, tagCounts_throughput hdet]
  have hended : tagBit s s.myCore t = true → ttestBody a d s = reportTag t (setG d fun _ => 1) s := fun hend => hb.trans (if_pos hend)
  refine ⟨fun cause addr herr => traps_of_reportTag exec_ttest (hended ?_) h cause addr herr,
    fun hc => completes_of_next exec_ttest ((hended (tagBit_of_complete hc)).trans (reportTag_complete _ hc)) h,
    fun hend => completes_of_next exec_ttest (hb.trans (if_neg ?_)) h⟩
  · rw [tagBit, herr]
  · rw [hend]
    exact Bool.false_ne_true

/-- TCLR of a tag in flight, and of any other. -/
theorem tclr_clauses (h : Ready (.tclr a) s) : let t := (s.me.rg a.toNat).toNat % 64
    (tagSt s s.myCore t = .inFlight → Traps (.tclr a) s 0x20 (BitVec.ofNat 64 t)) ∧
      (tagSt s s.myCore t ≠ .inFlight → ∃ u, Completes (.tclr a) s u ∧ tagSt u s.myCore t = .free ∧
        (∀ j, j ≠ t → tagSt u s.myCore j = tagSt s s.myCore j) ∧ RegsKept (fun _ => False) s.me u.me ∧ u.me.sys = s.me.sys ∧
        u.mem = s.mem) := by
  intro t
  have hb : tclrBody a s = if tagSt s s.myCore t = .inFlight then (s, .trap 0x20 (BitVec.ofNat 64 t)) else (clearTag s.myCore t s, .next) := by
    rw [tclrBody, tagOf_eq]
  exact ⟨fun hf => traps_of_trap exec_tclr (hb.trans (if_pos hf)) h,
    fun hf => ⟨_, completes_of_next exec_tclr (hb.trans (if_neg hf)) h, clearTag_fields _ s⟩⟩

end Instrs

/-- Settles O43: the misuse of R263, then each wait and test by the tags that it finds. -/
theorem tagsAreWaitedForAndFound : Obligations.TagsAreWaitedForAndFound := by
  unfold Obligations.TagsAreWaitedForAndFound
  intro s a d c m st ended first got reports named allNamed
  have hany : ∀ ts, ((got ts).onMe fun sl => sl.wg d.toNat (BitVec.ofNat 64 (ts.headD 0)), Ending.next) =
      ((waited ts s).onMe fun sl => sl.wg d.toNat (BitVec.ofNat 64 (ts.headD 0)), .next) := fun ts => by rw [waited_eq]; rfl
  refine ⟨fun h => ?any, fun h => ?all, fun hdet h => ⟨?found, ?none⟩, fun hdet h => ?test, tclr_clauses⟩
  case any =>
    refine ⟨fun hm => traps_of_trap (v := 0x100) rfl ((congrArg (fun m => tagWait m false _ s) hm).trans (tagWait_none h.replay)) h,
      fun t ⟨ht, hm, hf, hlow⟩ => traps_of_trap rfl (tagWait_free h.replay ht hm hf hlow) h, fun hdet hm hall => ⟨fun hend => ?_, ?_⟩⟩
    · refine parksOn_of_wait rfl (tagWait_waits h.replay hall (fun _ => hm) ?_) h
      simp only [tagsReady, show (s.slot s.cur).det = false from hdet, Bool.false_eq_true, if_false]
      refine List.any_eq_false.2 fun t ht => ?_
      rw [Bool.not_eq_true]
      exact tagBit_eq_false.2 (hend t (mem_maskTags.1 ht).1 (mem_maskTags.1 ht).2)
    · rintro t ⟨ht, hm, hend, hlow⟩
      have hb := tagWait_any (fin := fun ts s => ((waited ts s).onMe fun sl => sl.wg d.toNat (BitVec.ofNat 64 (ts.headD 0)), .next))
        h.replay hdet hall ht hm (tagBit_eq_true.2 hend) fun j hj hb => tagBit_eq_false.2 (hlow j hj hb)
      exact ⟨traps_of_reportTag rfl hb h, fun hc => completes_of_next rfl ((hb.trans (reportTag_complete _ hc)).trans (hany [t]).symm) h⟩
  case all =>
    refine ⟨fun t ⟨ht, hm, hf, hlow⟩ => traps_of_trap rfl (tagWait_free h.replay ht hm hf hlow) h, fun hall ⟨t, ht, hm, hf⟩ => ?_, ?_, ?_⟩
    · refine parksOn_of_wait rfl (tagWait_waits h.replay hall Bool.noConfusion ?_) h
      refine List.all_eq_false.2 ⟨t, mem_maskTags.2 ⟨ht, hm⟩, ?_⟩
      rw [Bool.not_eq_true]
      exact tagBit_eq_false.2 fun hend => hend.2 hf
    · rintro hend t ⟨ht, hm, herr, hlow⟩
      exact traps_of_reportTag rfl (tagWait_all_error h.replay (fun j hj hb => tagBit_eq_true.2 (hend j hj hb)) ht hm herr
        fun j hj hb => Decidable.not_not.1 (hlow j hj hb)) h
    · intro hend
      have hb := tagWait_all (fin := fun ts s => (waited ts s, .next)) h.replay hend
      rw [waited_eq] at hb
      exact completes_of_next rfl hb h
  case found =>
    rintro t ⟨ht, hm, hend, hlow⟩
    exact tfind_found hdet h ht hm (tagBit_eq_true.2 hend) fun j hj hb => tagBit_eq_false.2 (hlow j hj hb)
  case none => exact fun hend => tfind_none hdet h fun t ht hm => tagBit_eq_false.2 (hend t ht hm)
  case test =>
    obtain ⟨hreports, hone, hzero⟩ := ttest_clauses hdet h
    exact ⟨hreports, hone, fun hend => hzero (tagBit_eq_false.2 hend)⟩

end Sys2Proof.Machine
end

section
/-! O42 refuted. The clause of COPYP reads the block out of the scratchpad whatever the slot keeps; a COPYP in phase 1 has read its block already,
and launches the copy of the block that it keeps, though the scratchpad holds another by now (R265). -/

namespace Sys2Proof.Machine

/-- The registers of a copy of 8 bytes within the scratchpad, from offset 0x100 to the given one. -/
def copyTo (off : Nat) : CopyRegs := ⟨BitVec.ofNat 64 (localBase + 0x100), BitVec.ofNat 64 (localBase + off), 8, 0, 0, 0⟩

/-- The eight doublewords of the parameter block of a copy (R264). -/
def blockOf (r : CopyRegs) : List Word := [r.src, r.dst, r.ext, r.srs, r.drs, r.flg, 0, 0]

/-- A slot at a COPYP of the block at offset 0x40 of its scratchpad, which it has read when the block named offset 0x200. -/
def atCopyp : Slot :=
  { Slot.reset with run := .running, pc := 0x2000, g := vset (Vector.replicate 32 0) 2 (BitVec.ofNat 64 (localBase + 0x40)),
                    phase := 1, keep := blockOf (copyTo 0x200), bind := ⟨1, 0, 0, 0, false, none⟩, sys := { Sys.reset with st := 0x400 } }

/-- The package in which that slot runs alone, and the block names offset 0x300. -/
def blockChanged : State :=
  { State.reset with
    power := ⟨2, false, 0⟩, mgmt := [(0, 0x3fffff), (0x20, 0x3fffff)], slots := [(0, atCopyp)],
    cores := [(0, { Core.reset with spsz := 65536, arr := memPut [] 0x40 ((blockOf (copyTo 0x300)).flatMap fun w => bytesLE 8 w.toNat) })],
    ctxs := [(1, { Ctx.new 0x40000 5 true with st := 3, clusters := 1 })] }

theorem ready_blockChanged : Ready (.copyp 2 1) blockChanged := ⟨by decide, by decide, by decide, by decide, rfl⟩

theorem inScratchpad_blockChanged : InScratchpad blockChanged (blockChanged.me.rg 2).toNat 64 :=
  ⟨by decide, by decide, by decide, by decide, by decide, by decide, by decide⟩

/-- Doubleword i of the block in the scratchpad. -/
theorem block_blockChanged : ∀ i, i < 8 →
    BitVec.ofNat 64 (ofBytesLE (((memBytes (blockChanged.core 0).arr 0x40 64).drop (8 * i)).take 8)) = (blockOf (copyTo 0x300)).getD i 0 := by
  decide +kernel

/-- The copy that the COPYP launches under tag 0. -/
theorem launched_blockChanged : (match exec (.copyp 2 1) blockChanged with
    | .next t => (tfind (t.core 0).transfer.copies 0).map (·.regs)
    | _ => none) = some (copyTo 0x200) := by decide +kernel

/-- The checks of R254 find nothing wrong with the copy of the block in the scratchpad. -/
theorem passes_blockChanged (tv : Nat → Word) : cpKind (copyTo 0x300) ≠ 3 ∧ cpFormat (copyTo 0x300) = none ∧
    cpEnds 0 (copyTo 0x300) blockChanged = none ∧ cpUnits 0 (copyTo 0x300) tv blockChanged = none :=
  ⟨by decide, by decide, by decide +kernel, rfl⟩

/-- Refutes O42: the clause of COPYP, at `blockChanged`. -/
theorem not_copiesAreLaunched : ¬ Obligations.CopiesAreLaunched := by
  unfold Obligations.CopiesAreLaunched
  intro h
  obtain ⟨_, hcopyp⟩ := h blockChanged 2 1 rfl
  have hread : ∀ i, i < 8 → BitVec.ofNat 64 (ofBytesLE (((memBytes (blockChanged.core blockChanged.myCore).arr
      ((blockChanged.me.rg (2 : BitVec 5).toNat).toNat - localBase) 64).drop (8 * i)).take 8)) = (blockOf (copyTo 0x300)).getD i 0 :=
    block_blockChanged
  have hpasses := passes_blockChanged fun j => blockChanged.me.rg (2 : BitVec 5).toNat + BitVec.ofNat 64 (8 * j)
  obtain ⟨hkind, hformat, hends, hunits⟩ := hpasses
  dsimp only at hcopyp
  rw [hread 0 (by decide), hread 1 (by decide), hread 2 (by decide), hread 3 (by decide), hread 4 (by decide), hread 5 (by decide),
    hread 6 (by decide), hread 7 (by decide)] at hcopyp
  obtain ⟨t, hc, _, ⟨y, hy, hregs, _⟩, _⟩ := hcopyp ready_blockChanged (fun _ hp => absurd hp List.not_mem_nil) rfl rfl rfl (by decide)
    inScratchpad_blockChanged rfl rfl 0 ⟨by decide, rfl, rfl, fun j hj => absurd hj (Nat.not_lt_zero j)⟩
    ⟨fun hk => absurd hk hkind, hformat, hends, hunits⟩
  have hkept := launched_blockChanged
  rw [show exec (.copyp 2 1) blockChanged = _ from hc] at hkept
  have hsame : some y.regs = some (copyTo 0x200) := (congrArg (Option.map Copy.regs) hy).symm.trans hkept
  rw [hregs] at hsame
  exact absurd hsame (by decide)

end Sys2Proof.Machine
end

section
/-! Channels (R267, R268), multicasts (R271) and mailboxes (R272) of a core. -/

namespace Sys2Proof.Machine

/-! ### The channels of a core -/

/-- A channel of the issuing core. -/
abbrev chanOf (s : State) (k : Nat) : Channel := vget (s.core s.myCore).transfer.chans k Channel.reset

section Channels
variable {s : State}

/-- One channel of the issuing core replaced: the others, every slot and memory stay. -/
theorem chans_onTransfer {f : Transfer → Transfer} {k : Nat} {x : Channel} (hk : k < 4)
    (hf : ∀ t, (f t).chans = vset t.chans k x) : let t := onTransfer s.myCore f s
    t.slots = s.slots ∧ t.mem = s.mem ∧ ∀ j, j < 4 → chanOf t j = if j = k then x else chanOf s j := by
  refine ⟨rfl, rfl, fun j _ => ?_⟩
  have hchans : ((onTransfer s.myCore f s).core s.myCore).transfer.chans = vset (s.core s.myCore).transfer.chans k x := by
    rw [core_onTransfer_self, hf]
  have hget : chanOf (onTransfer s.myCore f s) j = vget (vset (s.core s.myCore).transfer.chans k x) j Channel.reset :=
    congrArg (fun v => vget v j Channel.reset) hchans
  rw [hget]
  split
  · next hj => rw [hj, vget_vset_self _ _ _ hk]
  · next hj => exact vget_vset_ne _ _ _ hj

theorem notScratch_below {c a n : Nat} (h : a < localBase) : notScratch s c a n = some a := by simp [notScratch, h]

theorem notScratch_past {c a n : Nat} (h : localBase ≤ a) (hin : a < localBase + (s.core c).spsz) (hout : localBase + (s.core c).spsz < a + n) :
    notScratch s c a n = some (localBase + (s.core c).spsz) := by
  rw [notScratch, if_neg (by simp; omega), if_pos hout]

theorem notScratch_inside {c a n : Nat} (h : localBase ≤ a) (hn : 0 < n) (hin : a + n ≤ localBase + (s.core c).spsz) :
    notScratch s c a n = none := by
  rw [notScratch, if_neg (by simp; omega), if_neg (by omega)]

end Channels

/-! ### CHOPEN (R267) -/

/-- A channel that CHOPEN opens. -/
def openChan (k : Nat) (base n : Word) (s : State) : State :=
  onTransfer s.myCore (fun t => { t with chans := vset t.chans k ⟨true, base.toNat, n.toNat, none, base⟩ }) s

/-- What CHOPEN does of an aligned range of whole lines. -/
def chopenRange (k : BitVec 2) (base n : Word) : Body := fun s =>
  match notScratch s s.myCore base.toNat n.toNat with
  | some x => (s, .trap 0x09 (BitVec.ofNat 64 x))
  | none =>
    if (chanOf s k.toNat).opened then (s, .trap 0x20 (BitVec.ofNat 64 (0x40 + k.toNat))) else (openChan k.toNat base n s, .next)

/-- The effect of CHOPEN. -/
def chopenBody (b a : BitVec 5) (k : BitVec 2) : Body := fun s =>
  let base := s.me.rg a.toNat
  let n := s.me.rg b.toNat
  if n = 0 || n.toNat % 64 != 0 then (s, .trap 0x01 n)
  else if base.toNat % 64 != 0 then (s, .trap 0x08 base)
  else chopenRange k base n s

theorem exec_chopen (b a : BitVec 5) (k : BitVec 2) (s : State) : exec (.chopen b a k) s = issue (.chopen b a k) (chopenBody b a k) s := rfl

section Chopen
variable {s : State} {b a : BitVec 5} {k : BitVec 2} {base n : Word}

theorem chopenBody_length (h : s.me.rg b.toNat = 0 ∨ (s.me.rg b.toNat).toNat % 64 ≠ 0) :
    chopenBody b a k s = (s, .trap 0x01 (s.me.rg b.toNat)) := if_pos (by simpa using h)

theorem chopenBody_base (hn : s.me.rg b.toNat ≠ 0) (hlen : (s.me.rg b.toNat).toNat % 64 = 0) :
    chopenBody b a k s = if (s.me.rg a.toNat).toNat % 64 != 0 then (s, .trap 0x08 (s.me.rg a.toNat))
      else chopenRange k (s.me.rg a.toNat) (s.me.rg b.toNat) s := by
  refine if_neg ?_
  rw [hlen, decide_eq_false hn]
  exact Bool.false_ne_true

theorem chopenRange_outside {x : Nat} (h : notScratch s s.myCore base.toNat n.toNat = some x) :
    chopenRange k base n s = (s, .trap 0x09 (BitVec.ofNat 64 x)) := by rw [chopenRange, h]

theorem chopenRange_inside (hn : n ≠ 0) (hlow : localBase ≤ base.toNat) (hhigh : base.toNat + n.toNat ≤ localBase + (s.core s.myCore).spsz) :
    chopenRange k base n s =
      if (chanOf s k.toNat).opened then (s, .trap 0x20 (BitVec.ofNat 64 (0x40 + k.toNat))) else (openChan k.toNat base n s, .next) := by
  have hpos : 0 < n.toNat := Nat.pos_of_ne_zero fun h => hn (BitVec.eq_of_toNat_eq h)
  rw [chopenRange, notScratch_inside hlow hpos hhigh]

end Chopen

/-- The number of a channel as a trap value. -/
theorem channelNumber_eq (k : BitVec 2) : BitVec.ofNat 64 (0x40 + k.toNat) = 0x40 + k.setWidth 64 := by revert k; decide

/-! ### CHCLOSE (R267) -/

/-- A channel that CHCLOSE closes, and the copies that have filled it. -/
def closeChan (k : Nat) (s : State) : State :=
  onTransfer s.myCore (fun t =>
    { t with chans := vset t.chans k { chanOf s k with opened := false },
             copies := t.copies.map fun e =>
               if cpChf e.2.regs && cpChannel e.2.regs == k then (e.1, { e.2 with closed := true }) else e }) s

/-- The effect of CHCLOSE. -/
def chcloseBody (k : BitVec 2) : Body := fun s =>
  if !(chanOf s k.toNat).opened then (s, .next)
  else match (chanOf s k.toNat).tag with
    | some t => (s, .wait (.tags (1#64 <<< t) true))
    | none => (closeChan k.toNat s, .next)

theorem exec_chclose (k : BitVec 2) (s : State) : exec (.chclose k) s = issue (.chclose k) (chcloseBody k) s := rfl

theorem chcloseBody_opened {s : State} {k : BitVec 2} (h : (chanOf s k.toNat).opened = true) : chcloseBody k s =
    match (chanOf s k.toNat).tag with
    | some t => (s, .wait (.tags (1#64 <<< t) true))
    | none => (closeChan k.toNat s, .next) := if_neg (by rw [h]; exact Bool.false_ne_true)

/-! ### MFREE (R271) -/

/-- The fields of g[a] that name a sender and its mailbox. -/
theorem mfree_fields (x : Word) : slice x 15 0 = (x.setWidth 16).toNat ∧ slice x 18 16 = (x.extractLsb' 16 3).toNat :=
  ⟨by simp [slice], by simp [slice]⟩

/-- One multicast less of a sender and mailbox that is delivered and not freed. -/
def takeDelivered (key n : Nat) (s : State) : State :=
  onTransfer s.myCore (fun t => { t with delivered := tset t.delivered key (n - 1) }) s

/-- The sender learns that the issuing core has freed a multicast. -/
def tellSender (sender mbox : Nat) (s : State) : State :=
  let s := onTransfer sender (fun t => { t with multicasts := freeCast s.myCore mbox t.multicasts }) s
  if (s.core sender).transfer.multicasts.any fun m => m.mbox == mbox && m.waiting.isEmpty then
    s.post (evt .mfreeCombinedArrival sender mbox 0) else s

/-- The effect of MFREE once the operand and the slot's earlier stores allow it. -/
def mfreeDone (sender mbox n : Nat) (s : State) : State :=
  let s := takeDelivered (8 * sender + mbox) n s
  match savedSender s sender mbox s.myCore with
  | some gk => freeSaved gk sender mbox s.myCore s
  | none => tellSender sender mbox s

theorem delivered_takeDelivered (key n : Nat) (s : State) :
    ((takeDelivered key n s).core s.myCore).transfer.delivered = tset (s.core s.myCore).transfer.delivered key (n - 1) := by
  rw [takeDelivered, core_onTransfer_self]

/-- What the sender learns changes no slot, no memory, and nothing of what is delivered. -/
theorem tellSender_fields (sender mbox c : Nat) (s : State) : let t := tellSender sender mbox s
    t.slots = s.slots ∧ t.mem = s.mem ∧ (t.core c).transfer.delivered = (s.core c).transfer.delivered := by
  have h := core_onTransfer_keeps Transfer.delivered (f := fun t => { t with multicasts := freeCast s.myCore mbox t.multicasts })
    (fun _ => rfl) sender c s
  simp only [tellSender]
  split <;> exact ⟨rfl, rfl, h⟩

/-- MFREE changes what has been delivered to its core by its own multicast, and no slot and no memory. -/
theorem mfreeDone_fields (sender mbox n : Nat) (s : State) : let t := mfreeDone sender mbox n s
    t.slots = s.slots ∧ t.mem = s.mem ∧
      (t.core s.myCore).transfer.delivered = tset (s.core s.myCore).transfer.delivered (8 * sender + mbox) (n - 1) := by
  have htake := delivered_takeDelivered (8 * sender + mbox) n s
  simp only [mfreeDone]
  split
  · exact ⟨State.onGroup_slots .., State.onGroup_mem .., by rw [freeSaved, State.onGroup_core, htake]⟩
  · obtain ⟨hslots, hmem, hdel⟩ := tellSender_fields sender mbox s.myCore (takeDelivered (8 * sender + mbox) n s)
    exact ⟨hslots, hmem, hdel.trans htake⟩

/-- The same as the end of MFREE. -/
def mfreeEnd (sender mbox n : Nat) : Body := fun s =>
  let s := takeDelivered (8 * sender + mbox) n s
  match savedSender s sender mbox s.myCore with
  | some gk => (freeSaved gk sender mbox s.myCore s, .next)
  | none => (tellSender sender mbox s, .next)

theorem mfreeEnd_eq (sender mbox n : Nat) (s : State) : mfreeEnd sender mbox n s = (mfreeDone sender mbox n s, .next) := by
  simp only [mfreeEnd, mfreeDone]
  split <;> rfl

/-- The effect of MFREE. -/
def mfreeBody (a : BitVec 5) : Body := fun s =>
  let x := s.me.rg a.toNat
  let n := tget (s.core s.myCore).transfer.delivered (8 * slice x 15 0 + slice x 18 16) 0
  if slice x 63 19 != 0 then (s, .trap 0x01 (wordOf (.mfree a) s))
  else if n = 0 then (s, .trap 0x20 x)
  else if s.me.replayed then (s, replayEnding s.me)
  else if !s.me.performed then (s, .wait .stores)
  else mfreeEnd (slice x 15 0) (slice x 18 16) n s

theorem exec_mfree (a : BitVec 5) (s : State) : exec (.mfree a) s = issue (.mfree a) (mfreeBody a) s := rfl

section Mfree
variable {s : State} {a : BitVec 5} (hx : (s.me.rg a.toNat).toNat < 2 ^ 19)
include hx

/-- The multicasts delivered that an MFREE names. -/
abbrev deliveredTo (s : State) (x : Word) : Nat :=
  tget (s.core s.myCore).transfer.delivered (8 * (x.setWidth 16).toNat + (x.extractLsb' 16 3).toNat) 0

theorem mfreeBody_operand : mfreeBody a s =
    if deliveredTo s (s.me.rg a.toNat) = 0 then (s, .trap 0x20 (s.me.rg a.toNat))
    else if s.me.replayed then (s, replayEnding s.me)
    else if !s.me.performed then (s, .wait .stores)
    else (mfreeDone ((s.me.rg a.toNat).setWidth 16).toNat ((s.me.rg a.toNat).extractLsb' 16 3).toNat
      (deliveredTo s (s.me.rg a.toNat)) s, .next) := by
  have hslice : slice (s.me.rg a.toNat) 63 19 = 0 := by
    rw [slice, Nat.shiftRight_eq_div_pow]
    omega
  obtain ⟨hsender, hmbox⟩ := mfree_fields (s.me.rg a.toNat)
  simp only [mfreeBody, mfreeEnd_eq, hslice, hsender, hmbox, bne_self_eq_false, Bool.false_eq_true, if_false]

end Mfree

/-! ### MBWAIT (R272) -/

/-- The effect of MBWAIT. -/
def mbwaitBody (a : BitVec 5) (k : BitVec 3) : Body := fun s =>
  if s.me.replayed then (s, replayEnding s.me)
  else if mailboxReady s s.myCore k.toNat (s.me.rg a.toNat) then (l1Acquire s.myCore s, .next)
  else (s, .wait (.mailbox k.toNat (s.me.rg a.toNat)))

theorem exec_mbwait (a : BitVec 5) (k : BitVec 3) (s : State) : exec (.mbwait a k) s = issue (.mbwait a k) (mbwaitBody a k) s := rfl

theorem mbwaitBody_ready {s : State} {a : BitVec 5} {k : BitVec 3} (h : Ready (.mbwait a k) s) : mbwaitBody a k s =
    if (vget (s.core s.myCore).transfer.mb k.toNat 0 - (s.me.rg a.toNat).setWidth 32).toNat < 2 ^ 31 then (l1Acquire s.myCore s, .next)
    else (s, .wait (.mailbox k.toNat (s.me.rg a.toNat))) := by
  have hlow : (s.me.rg a.toNat).extractLsb' 0 32 = (s.me.rg a.toNat).setWidth 32 := BitVec.eq_of_toNat_eq (by simp)
  simp only [mbwaitBody, replayed_of_none h.replay, mailboxReady, hlow, decide_eq_true_eq, Bool.false_eq_true, if_false]

/-! ### The statement -/

/-- Settles O44: CHOPEN by its checks in their order, CHCLOSE by its channel, MFREE by what has been delivered, and MBWAIT by the count. -/
theorem channelsAndMailboxes : Obligations.ChannelsAndMailboxes := by
  unfold Obligations.ChannelsAndMailboxes
  intro s a b k m c tr base n ch room changed value sender mbox count
  refine ⟨fun h => ⟨fun hbad => traps_of_trap (exec_chopen ..) (chopenBody_length hbad) h,
    fun hn hlen hbase => traps_of_trap (exec_chopen ..) ((chopenBody_base hn hlen).trans (if_pos (bne_iff_ne.2 hbase))) h,
    fun hn hlen hbase => ?range⟩, fun h => ⟨?closed, ?waits, ?closes⟩, fun h hx => ⟨?none, ?stores, ?frees⟩, fun h =>
    ⟨fun hr => completes_of_next (exec_mbwait ..) ((mbwaitBody_ready h).trans (if_pos hr)) h,
      fun hr => parksOn_of_wait (exec_mbwait ..) ((mbwaitBody_ready h).trans (if_neg hr)) h⟩⟩
  case range =>
    have hb : chopenBody b a k s = chopenRange k base n s :=
      (chopenBody_base hn hlen).trans (if_neg (by rw [show (s.me.rg a.toNat).toNat % 64 = 0 from hbase]; decide))
    refine ⟨fun hlow => ?_, fun hlow hin hout => ?_, fun ⟨hlow, hhigh⟩ ho => ?_, fun ⟨hlow, hhigh⟩ ho => ?_⟩
    · have ht := hb.trans (chopenRange_outside (notScratch_below hlow))
      rw [BitVec.ofNat_toNat, BitVec.setWidth_eq] at ht
      exact traps_of_trap (exec_chopen ..) ht h
    · exact traps_of_trap (exec_chopen ..) (hb.trans (chopenRange_outside (notScratch_past hlow hin hout))) h
    · rw [← channelNumber_eq]
      exact traps_of_trap (exec_chopen ..) (hb.trans ((chopenRange_inside hn hlow hhigh).trans (if_pos ho))) h
    · have hx : chopenBody b a k s = (openChan k.toNat base n s, .next) :=
        hb.trans ((chopenRange_inside hn hlow hhigh).trans (if_neg (Bool.not_eq_true _ ▸ ho)))
      exact ⟨_, completes_of_next (exec_chopen ..) hx h, chans_onTransfer k.isLt fun _ => rfl⟩
  case closed => exact fun ho => completes_of_next (exec_chclose ..) (if_pos (by rw [show _ = false from ho]; rfl)) h
  case waits =>
    intro t ho ht
    refine parksOn_of_wait (exec_chclose ..) ((chcloseBody_opened ho).trans ?_) h
    rw [show _ = some t from ht]
  case closes =>
    intro ho ht
    have hb : chcloseBody k s = (closeChan k.toNat s, .next) := by rw [chcloseBody_opened ho, show (chanOf s k.toNat).tag = none from ht]
    exact ⟨_, completes_of_next (exec_chclose ..) hb h, chans_onTransfer k.isLt fun _ => rfl⟩
  case none => exact fun hc => traps_of_trap (exec_mfree ..) ((mfreeBody_operand hx).trans (if_pos hc)) h
  case stores =>
    intro hc hp
    refine parksOn_of_wait (exec_mfree ..) ((mfreeBody_operand hx).trans ((if_neg hc).trans ?_)) h
    rw [replayed_of_none h.replay, hp]
    rfl
  case frees =>
    intro hc hp
    have hb : mfreeBody a s = (mfreeDone sender mbox count s, .next) := by
      refine (mfreeBody_operand hx).trans ((if_neg hc).trans ?_)
      rw [replayed_of_none h.replay, hp]
      rfl
    obtain ⟨hslots, hmem, hdel⟩ := mfreeDone_fields sender mbox count s
    refine ⟨_, completes_of_next (exec_mfree ..) hb h, hslots, hmem, ?_, fun j hj => ?_⟩
    · exact (congrArg (fun t => tget t _ 0) hdel).trans (tget_tset_self ..)
    · exact (congrArg (fun t => tget t _ 0) hdel).trans (tget_tset_ne _ _ _ hj)

end Sys2Proof.Machine
end

section
/-! The copy engines (R253, R256, R258), combined MFREEs (R271) and the copies that a pop lets go on (R321). -/

namespace Sys2Proof.Machine

/-! ### What the steps of an engine leave alone -/

/-- Only cores change, and their local arrays stay. -/
structure ArraysKept (s t : State) : Prop where
  rest : t = { s with cores := t.cores }
  arr : ∀ d, (t.core d).arr = (s.core d).arr

namespace ArraysKept
variable {s t u : State}

theorem refl (s : State) : ArraysKept s s := ⟨rfl, fun _ => rfl⟩

theorem trans (h : ArraysKept s t) (h' : ArraysKept t u) : ArraysKept s u :=
  ⟨by rw [h'.rest, h.rest], fun d => (h'.arr d).trans (h.arr d)⟩

theorem onCore (s : State) (c : Nat) {f : Core → Core} (h : ∀ x, (f x).arr = x.arr) : ArraysKept s (s.onCore c f) :=
  ⟨rfl, fun d => s.core_onCore_keeps Core.arr h c d⟩

theorem onTransfer (s : State) (c : Nat) (f : Transfer → Transfer) : ArraysKept s (onTransfer c f s) := onCore s c fun _ => rfl

theorem foldl {α : Type} {f : State → α → State} (h : ∀ s a, ArraysKept s (f s a)) (l : List α) (s : State) : ArraysKept s (l.foldl f s) := by
  induction l generalizing s with
  | nil => exact refl s
  | cons a l ih => exact (h s a).trans (ih _)

end ArraysKept

/-- Only what is on its way changes: more of it. -/
structure OnlySends (s t : State) : Prop where
  rest : t = { s with inflight := t.inflight }
  sent : ∀ e ∈ s.inflight, e ∈ t.inflight

namespace OnlySends
variable {s t u : State}

theorem refl (s : State) : OnlySends s s := ⟨rfl, fun _ h => h⟩

theorem trans (h : OnlySends s t) (h' : OnlySends t u) : OnlySends s u :=
  ⟨by rw [h'.rest, h.rest], fun e he => h'.sent e (h.sent e he)⟩

theorem postAt (s : State) (due : Nat) (m : Msg) : OnlySends s (s.postAt due m) := ⟨rfl, fun _ h => List.mem_append_left _ h⟩

theorem slots (h : OnlySends s t) : t.slots = s.slots := (congrArg State.slots h.rest :)
theorem mem (h : OnlySends s t) : t.mem = s.mem := (congrArg State.mem h.rest :)
theorem conns (h : OnlySends s t) : t.conns = s.conns := (congrArg State.conns h.rest :)
theorem slot (h : OnlySends s t) (k : Nat) : t.slot k = s.slot k := congrArg (tget · k Slot.reset) h.slots

theorem core (h : OnlySends s t) (c : Nat) : t.core c = s.core c := by
  rw [h.rest]
  rfl

end OnlySends

section Engine
variable (s : State)

@[simp] theorem countRecv_transfer (c vc n d : Nat) : ((countRecv c vc n s).core d).transfer = (s.core d).transfer := by
  rw [countRecv, s.core_onCore_keeps Core.transfer]
  exact fun _ => rfl

@[simp] theorem countSent_transfer (c vc n d : Nat) : ((countSent c vc n s).core d).transfer = (s.core d).transfer := by
  rw [countSent, s.core_onCore_keeps Core.transfer]
  exact fun _ => rfl

theorem countRecv_arraysKept (c vc n : Nat) : ArraysKept s (countRecv c vc n s) := .onCore s c fun _ => rfl

theorem countSent_arraysKept (c vc n : Nat) : ArraysKept s (countSent c vc n s) := .onCore s c fun _ => rfl

theorem moveMark_arraysKept (c : Nat) (x : Copy) : ArraysKept s (moveMark c x s) := by
  unfold moveMark
  split
  · exact .refl s
  · exact .onTransfer s c _

/-- A word of a copy that is no multicast has been moved: the copy has one more done, and the core has counted it (R455). -/
theorem wordDone_eq {c : Nat} {x : Copy} (hk : cpKind x.regs = 0) : wordDone c x s = countRecv c 1 1 (countSent c 1 1
    (onTransfer c (fun t => { t with copies := tset t.copies x.tag { x with done := x.done + 1 } }) s)) := by
  simp [wordDone, hk]

theorem wordDone_arraysKept {c : Nat} {x : Copy} (hk : cpKind x.regs = 0) : ArraysKept s (wordDone c x s) := by
  rw [wordDone_eq s hk]
  exact ((ArraysKept.onTransfer s c _).trans (countSent_arraysKept ..)).trans (countRecv_arraysKept ..)

theorem copies_wordDone {c : Nat} {x : Copy} (hk : cpKind x.regs = 0) :
    tfind ((wordDone c x s).core c).transfer.copies x.tag = some { x with done := x.done + 1 } := by
  rw [wordDone_eq s hk, countRecv_transfer, countSent_transfer, core_onTransfer_self]
  exact tfind_tset_self ..

theorem engineOn_onlySends (c q : Nat) : OnlySends s (engineOn c q s) := by
  unfold engineOn
  split
  · exact .refl s
  · exact .postAt ..

/-- The engine of a queue is on its way. -/
theorem exists_engineOn (c q : Nat) : ∃ m ∈ (engineOn c q s).inflight, m.2.ev = .copyWordTransfer ∧ m.2.arg.k = c ∧ m.2.arg.a = q := by
  unfold engineOn
  split
  · next h =>
    obtain ⟨m, hm, hev⟩ := List.any_eq_true.1 h
    simp only [Bool.and_eq_true, beq_iff_eq] at hev
    obtain ⟨⟨hev, hk⟩, ha⟩ := hev
    exact ⟨m, hm, hev, hk, ha⟩
  · exact ⟨_, List.mem_append_right _ (List.mem_singleton_self _), rfl, rfl, rfl⟩

end Engine

/-! ### COPY_WORD_TRANSFER (R253) -/

/-- The engine of queue q of core c has moved a word of copy x: it goes on, and after the last word the copy completes. -/
def afterWord (c q : Nat) (x : Copy) (s : State) : State :=
  engineOn c q (if x.done + 1 = x.total then s.soon (evt .copyComplete c q 0) else s)

theorem afterWord_onlySends (c q : Nat) (x : Copy) (s : State) : OnlySends s (afterWord c q x s) := by
  refine .trans ?_ (engineOn_onlySends ..)
  split
  · exact .postAt ..
  · exact .refl s

theorem mem_afterWord {c q : Nat} {x : Copy} {s : State} (h : x.done + 1 = x.total) :
    (s.mcyc + 1, evt .copyComplete c q 0) ∈ (afterWord c q x s).inflight := by
  refine (engineOn_onlySends _ c q).sent _ ?_
  rw [if_pos h]
  exact List.mem_append_right _ (List.mem_singleton_self _)

section Move
variable {s : State} {x : Copy}

/-- A word moved within the core's own array. -/
theorem moveWord_arrays {c q : Nat} (hk : cpKind x.regs = 0) (hsrc : localBase ≤ srcAddr x.regs x.done)
    (hdst : localBase ≤ dstAddr x.regs x.done) :
    moveWord c x q s = .done (wordDone c x (moveMark c x (storeArray c (dstAddr x.regs x.done - localBase)
      (memBytes (s.core c).arr (srcAddr x.regs x.done - localBase) 4) s))) := by
  simp [moveWord, storeCopyWord, enginePlace, engineRead, engineWrite, copyOverlap, arrBytes, hk, hsrc, hdst]

/-- An engine with an empty queue does nothing. -/
theorem copyWordTransfer_idle (h : queueTags (s.core s.arg.k).transfer s.arg.a = []) : Happens .copyWordTransfer s s := by
  show execCopyWordTransfer s = _
  simp [execCopyWordTransfer, movable, h, movableOf]

theorem happens_copyWordTransfer {u : State} (hmov : movable s.arg.k (s.core s.arg.k).transfer s.arg.a = some x)
    (hstop : (s.core s.arg.k).stopped = false) (hentry : x.entry = none) (hk : cpKind x.regs = 0)
    (hmove : moveWord s.arg.k x s.arg.a s = .done u) : Happens .copyWordTransfer s (afterWord s.arg.k s.arg.a x u) := by
  show execCopyWordTransfer s = _
  simp [execCopyWordTransfer, hmov, hstop, hentry, hk, copyStalled, hmove, afterWord]

/-- An engine moves a word between places of its core's array below the system local area, and nothing else there or in memory (R253). -/
theorem copyWordTransfer_fields {k q : Nat} (hk : s.arg.k = k) (hq : s.arg.a = q) (hmov : movable k (s.core k).transfer q = some x)
    (hstop : (s.core k).stopped = false) (hentry : x.entry = none) (hkind : cpKind x.regs = 0)
    (hsrc : localBase ≤ srcAddr x.regs x.done) (hdst : localBase ≤ dstAddr x.regs x.done)
    (hlow : dstAddr x.regs x.done - localBase + 4 ≤ 0x7c000) : let a := srcAddr x.regs x.done - localBase
    let b := dstAddr x.regs x.done - localBase
    ∃ t, Happens .copyWordTransfer s t ∧ t.mem = s.mem ∧ memBytes (t.core k).arr b 4 = memBytes (s.core k).arr a 4 ∧
      (∀ e, e < b ∨ b + 4 ≤ e → memByte (t.core k).arr e = memByte (s.core k).arr e) ∧
      (∀ c, c ≠ k → (t.core c).arr = (s.core c).arr) ∧
      tfind (t.core k).transfer.copies x.tag = some { x with done := x.done + 1 } ∧
      (x.done + 1 = x.total → (s.mcyc + 1, evt .copyComplete k q 0) ∈ t.inflight) ∧
      ∃ m ∈ t.inflight, m.2.ev = .copyWordTransfer ∧ m.2.arg.k = k ∧ m.2.arg.a = q := by
  subst hk hq
  intro a b
  obtain ⟨bs, hbs⟩ : ∃ bs, memBytes (s.core s.arg.k).arr a 4 = bs := ⟨_, rfl⟩
  have hlen : bs.length = 4 := hbs ▸ length_memBytes _ a 4
  have hmove := moveWord_arrays (s := s) (c := s.arg.k) (q := s.arg.a) hkind hsrc hdst
  rw [show memBytes (s.core s.arg.k).arr (srcAddr x.regs x.done - localBase) 4 = bs from hbs, storeArray, if_pos (by rw [hlen]; exact hlow)] at hmove
  have hput := ((moveMark_arraysKept (arrPut s.arg.k b bs s) s.arg.k x).trans (wordDone_arraysKept (c := s.arg.k) _ hkind))
  have hsends := afterWord_onlySends s.arg.k s.arg.a x (wordDone s.arg.k x (moveMark s.arg.k x (arrPut s.arg.k b bs s)))
  have harr : ∀ c, ((afterWord s.arg.k s.arg.a x (wordDone s.arg.k x (moveMark s.arg.k x (arrPut s.arg.k b bs s)))).core c).arr =
      ((arrPut s.arg.k b bs s).core c).arr := fun c => (congrArg Core.arr (hsends.core c)).trans (hput.arr c)
  have hself : ((arrPut s.arg.k b bs s).core s.arg.k).arr = memPut (s.core s.arg.k).arr b bs := congrArg Core.arr (State.core_onCore_self ..)
  refine ⟨_, happens_copyWordTransfer hmov hstop hentry hkind hmove, ?_, ?_, fun e he => ?_, fun c hc => ?_, ?_, fun hlast => ?_, exists_engineOn ..⟩
  · exact hsends.mem.trans (congrArg State.mem hput.rest :)
  · rw [hbs, harr, hself, ← hlen, memBytes_memPut]
  · rw [harr, hself]
    exact memByte_memPut_outside _ _ _ _ (hlen ▸ he)
  · exact (harr c).trans (congrArg Core.arr (State.core_onCore_ne _ _ hc))
  · rw [hsends.core]
    exact copies_wordDone _ hkind
  · have hcyc : (wordDone s.arg.k x (moveMark s.arg.k x (arrPut s.arg.k b bs s))).mcyc = s.mcyc := (congrArg State.mcyc hput.rest :)
    rw [← hcyc]
    exact mem_afterWord hlast

end Move

/-! ### COPY_COMPLETE (R256, R258) -/

/-- The state in which a copy that is done leaves its tag. -/
def endOfCopy (x : Copy) : TagSt :=
  match x.err with
  | some e => .error e.1 e.2
  | none => .complete

/-- A copy leaves the head of its queue with its tag in a state; its channel is free of it. -/
def leaveQueue (q tag : Nat) (rest : List Nat) (st : TagSt) (t : Transfer) : Transfer :=
  { t with tags := tset t.tags tag st, q0 := if q = 0 then rest else t.q0, q1 := if q = 0 then t.q1 else rest,
           chans := t.chans.map fun ch => if ch.tag = some tag then { ch with tag := none } else ch }

theorem copyComplete_idle {s : State} (h : queueTags (s.core s.arg.k).transfer s.arg.a = []) : Happens .copyComplete s s := by
  show execCopyComplete s = .next s
  rw [execCopyComplete, event_next]
  simp only [completeCopy, h]

/-- The next copy of a queue goes on, or is done in its turn. -/
def restartQueue (c q : Nat) (next : Option Copy) (s : State) : State :=
  match next with
  | none => s
  | some y => if stillWriting y then engineOn c q s else (engineOn c q s).soon (evt .copyComplete c q 0)

theorem restartQueue_onlySends (c q : Nat) (next : Option Copy) (s : State) : OnlySends s (restartQueue c q next s) := by
  unfold restartQueue
  split
  · exact .refl s
  · split
    · exact engineOn_onlySends ..
    · exact (engineOn_onlySends ..).trans (.postAt ..)

theorem completeCopy_eq {s : State} {c q tag : Nat} {rest : List Nat} {x : Copy} (hq : queueTags (s.core c).transfer q = tag :: rest)
    (hx : tfind (s.core c).transfer.copies tag = some x) (hdone : stillWriting x = false) :
    completeCopy c q s = restartQueue c q (rest.head?.bind (tfind (s.core c).transfer.copies))
      (onTransfer c (leaveQueue q tag rest (endOfCopy x)) s) := by
  simp only [completeCopy, hq, hx, hdone, Bool.false_eq_true, if_false]
  cases herr : x.err <;> simp only [endOfCopy, herr] <;> cases rest.head?.bind (tfind (s.core c).transfer.copies) <;> rfl

theorem stillWriting_of_done {x : Copy} (h : x.done = x.total ∨ x.err.isSome = true) : stillWriting x = false := by
  rcases h with h | h
  · simp [stillWriting, h]
  · cases herr : x.err
    · rw [herr] at h; exact nomatch h
    · simp [stillWriting, herr]

/-- A copy that is done leaves its queue with its tag Complete, or in error. -/
theorem copyComplete_fields {s : State} {k q tag : Nat} {rest : List Nat} {x : Copy} (hk : s.arg.k = k) (hq : s.arg.a = q)
    (hqueue : queueTags (s.core k).transfer q = tag :: rest) (hx : tfind (s.core k).transfer.copies tag = some x)
    (hdone : x.done = x.total ∨ x.err.isSome = true) : ∃ t, Happens .copyComplete s t ∧ t.slots = s.slots ∧ t.mem = s.mem ∧
      (if q = 0 then (t.core k).transfer.q0 = rest else (t.core k).transfer.q1 = rest) ∧
      tfind (t.core k).transfer.tags tag = some (endOfCopy x) := by
  subst hk hq
  have he : completeCopy s.arg.k s.arg.a s = _ := completeCopy_eq hqueue hx (stillWriting_of_done hdone)
  have hsends := restartQueue_onlySends s.arg.k s.arg.a (rest.head?.bind (tfind (s.core s.arg.k).transfer.copies))
    (onTransfer s.arg.k (leaveQueue s.arg.a tag rest (endOfCopy x)) s)
  refine ⟨_, happens_event rfl he, hsends.slots, hsends.mem, ?_, ?_⟩
  · rw [hsends.core, core_onTransfer_self]
    split <;> next h => simp [leaveQueue, h]
  · rw [hsends.core, core_onTransfer_self]
    exact tfind_tset_self ..

/-! ### MFREE_COMBINED_ARRIVAL and SPARSITY_STORE_RESUME (R271, R321) -/

theorem countCast_of_find {t : Transfer} {p : Nat} {m : Multicast}
    (h : (t.multicasts.find? fun m => m.mbox == p && m.waiting.isEmpty) = some m) :
    countCast p t = { t with multicasts := t.multicasts.erase m, mb := vset t.mb p (vget t.mb p 0 + 1) } := by simp only [countCast, h]

theorem mfreeCombinedArrival_fields {s : State} {k p : Nat} {m : Multicast} (hk : s.arg.k = k) (hp : s.arg.a = p)
    (hm : ((s.core k).transfer.multicasts.find? fun m => m.mbox == p && m.waiting.isEmpty) = some m) (h8 : p < 8) :
    ∃ t, Happens .mfreeCombinedArrival s t ∧ (t.core k).transfer.multicasts = (s.core k).transfer.multicasts.erase m ∧
      vget (t.core k).transfer.mb p 0 = vget (s.core k).transfer.mb p 0 + 1 := by
  subst hk hp
  refine ⟨onTransfer s.arg.k (countCast s.arg.a) s, rfl, ?_⟩
  rw [core_onTransfer_self, countCast_of_find hm]
  exact ⟨rfl, vget_vset_self _ _ _ h8⟩

theorem mem_octetCores {c o : Nat} : c ∈ octetCores o ↔ c / 8 = o := by
  simp only [octetCores, upTo, List.mem_map, List.mem_range]
  exact ⟨fun ⟨i, hi, h⟩ => by omega, fun h => ⟨c % 8, by omega, by omega⟩⟩

/-- Each core of an octet whose queues are not empty has its engines go on at once. -/
theorem sparsityStoreResume_fields {s : State} {k : Nat} (hk : s.arg.k = k) : ∃ xs, Happens .sparsityStoreResume s (s.atOnce xs) ∧
    ∀ c, c / 8 = k → ((s.core c).transfer.q0 ≠ [] → evt .copyWordTransfer c 0 0 ∈ xs) ∧
      ((s.core c).transfer.q1 ≠ [] → evt .copyWordTransfer c 1 0 ∈ xs) := by
  refine ⟨_, rfl, fun c hc => ⟨fun h => ?_, fun h => ?_⟩⟩ <;>
    refine List.mem_flatMap.2 ⟨c, mem_octetCores.2 (hk ▸ hc), ?_⟩ <;> simp [h]

end Sys2Proof.Machine
end

section
/-! Ports and the messages of connectors (R276, R284 to R286, R295, R488): what a message makes of its endpoint, what a fire makes of a slot and
its ports, how a slot withdraws, and the ends of a BUF link. -/

namespace Sys2Proof.Machine

/-! ### One element of a list -/

theorem getElem?_enumFrom {α : Type} (l : List α) (k i : Nat) : (enumFrom k l)[i]? = l[i]?.map (k + i, ·) := by
  induction l generalizing k i with
  | nil => rfl
  | cons a l ih =>
    cases i with
    | zero => rfl
    | succ i => rw [enumFrom, List.getElem?_cons_succ, List.getElem?_cons_succ, ih, show k + 1 + i = k + (i + 1) by omega]

/-- An element of a list replaced by its number. -/
theorem map_enumFrom_modify {α : Type} (f : α → α) (l : List α) (i : Nat) :
    ((enumFrom 0 l).map fun x => if x.1 = i then f x.2 else x.2) = l.modify i f := by
  refine List.ext_getElem? fun j => ?_
  rw [List.getElem?_map, getElem?_enumFrom, List.getElem?_modify, Nat.zero_add]
  cases l[j]? with
  | none => rfl
  | some a => by_cases h : j = i <;> simp [h, eq_comm]

/-! ### Connectors -/

section Conns
variable {s : State} {ck : Nat} {cn : Connector}

theorem tfind_onConn_self (f : Connector → Connector) (h : tfind s.conns ck = some cn) : tfind (s.onConn ck f).conns ck = some (f cn) := by
  simp [State.onConn, h]

theorem tfind_onConn_ne (f : Connector → Connector) {j : Nat} (hj : j ≠ ck) : tfind (s.onConn ck f).conns j = tfind s.conns j := by
  unfold State.onConn
  split
  · exact tfind_tset_ne _ _ hj
  · rfl

theorem onEndpoint_eq (e : Nat) (f : Endpoint → Endpoint) (s : State) :
    onEndpoint ck e f s = s.onConn ck fun cn => { cn with eps := cn.eps.modify e f } := by
  simp only [onEndpoint, map_enumFrom_modify]

theorem onLink_eq (n : Nat) (f : Link → Link) (s : State) :
    onLink ck n f s = s.onConn ck fun cn => { cn with links := cn.links.modify n f } := by
  simp only [onLink, map_enumFrom_modify]

theorem onRegion_eq (r : Nat) (f : Region → Region) (s : State) :
    onRegion ck r f s = s.onConn ck fun cn => { cn with regions := cn.regions.modify r f } := by
  simp only [onRegion, map_enumFrom_modify]

theorem getElem?_modify_self {α : Type} {l : List α} {i : Nat} {x : α} (f : α → α) (h : l[i]? = some x) : (l.modify i f)[i]? = some (f x) := by
  rw [List.getElem?_modify_eq, h]
  rfl

theorem postEval_onlySends (ck r : Nat) (s : State) : OnlySends s (postEval ck r s) := by
  unfold postEval
  split
  · exact .refl s
  · exact .postAt ..

/-- A change of a connector after which its region is evaluated. -/
theorem postEval_onConn (r : Nat) (f : Connector → Connector) (h : tfind s.conns ck = some cn) :
    tfind (postEval ck r (s.onConn ck f)).conns ck = some (f cn) ∧ (postEval ck r (s.onConn ck f)).slots = s.slots := by
  have hsends := postEval_onlySends ck r (s.onConn ck f)
  exact ⟨by rw [hsends.conns, tfind_onConn_self f h], hsends.slots.trans (State.onConn_slots ..)⟩

end Conns

/-! ### Messages at their endpoints (R284, R285) -/

section Arrivals
variable {s : State} {cn : Connector} {x : Endpoint} {k p : Nat}

/-- A port that has offered or accepted. -/
def waitsForFire (s : State) (k p : Nat) : Prop := (getPort s k p).phase ≠ .unbound ∧ (getPort s k p).phase ≠ .idle

theorem contains_phase (y : PortPhase) : [PortPhase.unbound, .idle].contains y = false ↔ y ≠ .unbound ∧ y ≠ .idle := by simp

theorem contains_of_not_waits (h : ¬ waitsForFire s k p) : [PortPhase.unbound, .idle].contains (getPort s k p).phase = true := by
  rwa [waitsForFire, ← contains_phase, Bool.not_eq_false] at h

/-- An endpoint with a message, and one whose message is asked back. -/
def putStanding (u : Standing) (x : Endpoint) : Endpoint := { x with standing := some u }
def askBack (x : Endpoint) : Endpoint := { x with standing := x.standing.map fun t => { t with withdraw := true } }

theorem offerAcceptArrival_idle (hk : s.arg.k = k) (hp : s.arg.a = p) (h : ¬ waitsForFire s k p) : Happens .offerAcceptArrival s s := by
  subst hk hp
  show execOfferAcceptArrival s = .next s
  simp only [execOfferAcceptArrival, event_next, contains_of_not_waits h, if_true]

/-- An offer or accept stands at its endpoint. -/
theorem offerAcceptArrival_fields (hk : s.arg.k = k) (hp : s.arg.a = p) (hcn : tfind s.conns (getPort s k p).conn = some cn)
    (hx : cn.eps[(getPort s k p).ep]? = some x) (hlive : waitsForFire s k p) {r : Nat} (hr : endpointRegion cn (getPort s k p).ep = some r) :
    ∃ t cn' y, Happens .offerAcceptArrival s t ∧ tfind t.conns (getPort s k p).conn = some cn' ∧ cn'.eps[(getPort s k p).ep]? = some y ∧
      y.standing = some ⟨s.arg.item, ((cn.regions[r]?).map (·.evals)).getD 0, k, p, s.arg.b, false⟩ ∧ y.bound = x.bound ∧
      cn'.links = cn.links := by
  subst hk hp
  have he : Happens .offerAcceptArrival s (postEval (getPort s s.arg.k s.arg.a).conn r (onEndpoint (getPort s s.arg.k s.arg.a).conn
      (getPort s s.arg.k s.arg.a).ep
      (putStanding ⟨s.arg.item, ((cn.regions[r]?).map (·.evals)).getD 0, s.arg.k, s.arg.a, s.arg.b, false⟩) s)) := by
    show execOfferAcceptArrival s = .next _
    simp only [execOfferAcceptArrival, event_next, (contains_phase _).2 hlive, portEnd, hcn, hr, Bool.false_eq_true, if_false]
    rfl
  rw [onEndpoint_eq] at he
  exact ⟨_, _, _, he, (postEval_onConn r _ hcn).1, getElem?_modify_self _ hx, rfl, rfl, rfl⟩

theorem standingAt_of {e : Nat} (hx : cn.eps[e]? = some x) (he : e < 64) : standingAt cn e = x.standing := by
  rw [standingAt, Nat.mod_eq_of_lt he, hx, Option.bind_some]

theorem withdrawalRequestArrival_none (hk : s.arg.k = k) (hp : s.arg.a = p) (hcn : tfind s.conns (getPort s k p).conn = some cn)
    (hst : standingAt cn (getPort s k p).ep = none) : Happens .withdrawalRequestArrival s s := by
  subst hk hp
  show execWithdrawalRequestArrival s = .next s
  simp only [execWithdrawalRequestArrival, event_next, portEnd, hcn, hst]

/-- A request for a withdrawal marks the message that stands. -/
theorem withdrawalRequestArrival_fields (hk : s.arg.k = k) (hp : s.arg.a = p) (hcn : tfind s.conns (getPort s k p).conn = some cn)
    (hx : cn.eps[(getPort s k p).ep]? = some x) (he : (getPort s k p).ep < 64) {r : Nat} (hr : endpointRegion cn (getPort s k p).ep = some r)
    {u : Standing} (hu : x.standing = some u) : ∃ t cn' y, Happens .withdrawalRequestArrival s t ∧
      tfind t.conns (getPort s k p).conn = some cn' ∧ cn'.eps[(getPort s k p).ep]? = some y ∧ y.standing = some { u with withdraw := true } := by
  subst hk hp
  have hst := (standingAt_of hx he).trans hu
  have he : Happens .withdrawalRequestArrival s (postEval (getPort s s.arg.k s.arg.a).conn r
      (onEndpoint (getPort s s.arg.k s.arg.a).conn (getPort s s.arg.k s.arg.a).ep askBack s)) := by
    show execWithdrawalRequestArrival s = .next _
    simp only [execWithdrawalRequestArrival, event_next, portEnd, hcn, hst, hr]
    rfl
  rw [onEndpoint_eq] at he
  exact ⟨_, _, _, he, (postEval_onConn r _ hcn).1, getElem?_modify_self _ hx, by rw [askBack, hu]; rfl⟩

end Arrivals

/-! ### The ends of a BUF link (R488) -/

section Buf
variable {s : State} {cn : Connector} {l : Link} {k p : Nat}

/-- A link that holds one item more, and one of which a place is free again. -/
def holdItem (x : VReg × Nat) (l : Link) : Link := { l with held := l.held ++ [x] }
def creditPlace (l : Link) : Link := { l with places := l.places - 1 }

/-- A link replaced, after which a region is evaluated. -/
theorem postEval_onLink (r : Nat) (f : Link → Link) (hcn : tfind s.conns k = some cn) (hl : cn.links[p]? = some l) :
    ∃ cn', tfind (postEval k r (onLink k p f s)).conns k = some cn' ∧ (postEval k r (onLink k p f s)).slots = s.slots ∧
      cn'.links[p]? = some (f l) := by
  rw [onLink_eq]
  obtain ⟨hconns, hslots⟩ := postEval_onConn r (fun cn : Connector => { cn with links := cn.links.modify p f }) hcn
  exact ⟨_, hconns, hslots, getElem?_modify_self f hl⟩

variable (hk : s.arg.k = k) (hp : s.arg.a = p) (hcn : tfind s.conns k = some cn) (hl : cn.links[p]? = some l)
include hk hp hcn hl

theorem bufItemArrival_fields : ∃ t cn', Happens .bufItemArrival s t ∧ tfind t.conns k = some cn' ∧ t.slots = s.slots ∧ cn'.links[p]? =
    some { l with held := l.held ++ [(s.arg.item, ((cn.regions[l.rb]?).map (·.evals)).getD 0)] } := by
  subst hk hp
  have he : Happens .bufItemArrival s (postEval s.arg.k l.rb (onLink s.arg.k s.arg.a
      (holdItem (s.arg.item, ((cn.regions[l.rb]?).map (·.evals)).getD 0)) s)) := by
    show execBufItemArrival s = .next _
    simp only [execBufItemArrival, event_next, hcn, hl]
    rfl
  obtain ⟨cn', hfields⟩ := postEval_onLink l.rb (holdItem (s.arg.item, ((cn.regions[l.rb]?).map (·.evals)).getD 0)) hcn hl
  exact ⟨_, cn', he, hfields⟩

theorem bufCreditArrival_fields : ∃ t cn', Happens .bufCreditArrival s t ∧ tfind t.conns k = some cn' ∧ t.slots = s.slots ∧
    cn'.links[p]? = some { l with places := l.places - 1 } := by
  subst hk hp
  have he : Happens .bufCreditArrival s (postEval s.arg.k l.ra (onLink s.arg.k s.arg.a creditPlace s)) := by
    show execBufCreditArrival s = .next _
    simp only [execBufCreditArrival, event_next, hcn, hl]
    rfl
  obtain ⟨cn', hfields⟩ := postEval_onLink l.ra creditPlace hcn hl
  exact ⟨_, cn', he, hfields⟩

end Buf

/-! ### The ports of a slot (R276) -/

section Ports
variable {s : State} {k p q : Nat}

theorem getPort_onSlotPort_self (f : Port → Port) (hp : p < 8) : getPort (onSlotPort k p f s) k p = f (getPort s k p) := by
  rw [getPort, onSlotPort, State.slot_onSlot_self]
  exact vget_vset_self _ _ _ hp

theorem getPort_onSlotPort_ne (f : Port → Port) (hq : q ≠ p) : getPort (onSlotPort k p f s) k q = getPort s k q := by
  rw [getPort, onSlotPort, State.slot_onSlot_self]
  exact vget_vset_ne _ _ _ hq

theorem getPort_onSlot {f : Slot → Slot} (h : ∀ sl, (f sl).ports = sl.ports) : getPort (s.onSlot k f) k q = getPort s k q := by
  rw [getPort, State.slot_onSlot_self, h, getPort]

theorem maskPorts_single (hp : p < 8) : maskPorts (2 ^ p) = [p] := by
  revert hp p
  decide

/-- The ports of a mask idle again. -/
def idlePorts (k : Nat) (ps : List Nat) (s : State) : State := ps.foldl (fun s q => onSlotPort k q (fun x => { x with phase := .idle }) s) s

theorem idlePorts_single (k p : Nat) (s : State) : idlePorts k [p] s = onSlotPort k p (fun x => { x with phase := .idle }) s := rfl

theorem getPort_idlePorts_out {ps : List Nat} (h : q ∉ ps) (s : State) : getPort (idlePorts k ps s) k q = getPort s k q := by
  induction ps generalizing s with
  | nil => rfl
  | cons p ps ih =>
    rw [List.mem_cons, not_or] at h
    rw [idlePorts, List.foldl_cons]
    exact (ih h.2 _).trans (getPort_onSlotPort_ne _ h.1)

theorem phase_idlePorts {ps : List Nat} (h : q ∈ ps ∨ (getPort s k q).phase = .idle) (hq : q < 8) :
    (getPort (idlePorts k ps s) k q).phase = .idle := by
  induction ps generalizing s with
  | nil => exact h.resolve_left List.not_mem_nil
  | cons p ps ih =>
    rw [idlePorts, List.foldl_cons]
    refine ih ?_
    by_cases hp : q = p
    · subst hp
      exact .inr (congrArg Port.phase (getPort_onSlotPort_self _ hq))
    · rw [getPort_onSlotPort_ne _ hp]
      exact h.imp_left fun hm => (List.mem_cons.1 hm).resolve_left hp

theorem slot_idlePorts (k : Nat) (ps : List Nat) (s : State) : ∃ v, (idlePorts k ps s).slot k = { s.slot k with ports := v } := by
  induction ps generalizing s with
  | nil => exact ⟨_, rfl⟩
  | cons p ps ih =>
    obtain ⟨v, hv⟩ := ih (onSlotPort k p (fun x => { x with phase := .idle }) s)
    refine ⟨v, (hv : _).trans ?_⟩
    rw [onSlotPort, State.slot_onSlot_self]

theorem mem_maskPorts {m : Nat} : q ∈ maskPorts m ↔ q < 8 ∧ m.testBit q = true := by simp [maskPorts, upTo]

/-! ### Fires (R276, R295) -/

/-- A port that waits for no fire takes none. -/
theorem portFire_idle (hk : s.arg.k = k) (hp : s.arg.a = p) (h : ¬ waitsForFire s k p) : Happens .portFire s s := by
  subst hk hp
  show execPortFire s = .next s
  simp only [execPortFire, event_next, contains_of_not_waits h, if_true]

/-- The instruction at its ports has fired, with what its slot keeps. -/
def firedWith (k : Nat) (ws : List Word) (s : State) : State := s.onSlot k fun sl => { sl with phase := 2, keep := ws }

theorem slot_firedWith (k : Nat) (ws : List Word) (s : State) : (firedWith k ws s).slot k = { s.slot k with phase := 2, keep := ws } :=
  State.slot_onSlot_self ..

theorem getPort_firedWith (k : Nat) (ws : List Word) (s : State) : getPort (firedWith k ws s) k q = getPort s k q := by
  rw [getPort, slot_firedWith, getPort]

/-- What a PSEL keeps in a port that took an item. -/
def filledPort (k p : Nat) (on : Bool) (w : Word) (s : State) : State :=
  if on then onSlotPort k p (fun x => { x with item := w, full := true }) s else s

theorem getPort_filledPort_ne (hq : q ≠ p) (on : Bool) (w : Word) : getPort (filledPort k p on w s) k q = getPort s k q := by
  unfold filledPort
  split
  · exact getPort_onSlotPort_ne _ hq
  · rfl

theorem phase_filledPort (h8 : p < 8) (on : Bool) (w : Word) : (getPort (filledPort k p on w s) k p).phase = (getPort s k p).phase := by
  unfold filledPort
  split
  · rw [getPort_onSlotPort_self _ h8]
  · rfl

theorem arg_idlePorts (k : Nat) (ps : List Nat) (s : State) : (idlePorts k ps s).arg = s.arg := by
  induction ps generalizing s with
  | nil => rfl
  | cons p ps ih => exact ih _

theorem arg_filledPort (k p : Nat) (on : Bool) (w : Word) (s : State) : (filledPort k p on w s).arg = s.arg := by
  unfold filledPort
  split <;> rfl

/-- A fire at port p with the ports of mask m: they are idle, a PSEL sink keeps the item, and the instruction has fired. -/
theorem portFire_fired (hk : s.arg.k = k) (hp : s.arg.a = p) (hlive : waitsForFire s k p) :
    Happens .portFire s (firedWith k (if s.arg.b = 0 then itemWords s.arg.item else [BitVec.ofNat 64 p, bool64 (decide (s.arg.c = 1))])
      (filledPort k p (s.arg.b != 0 && decide (s.arg.c = 1)) ((itemWords s.arg.item).headD 0)
        (idlePorts k (maskPorts (if s.arg.b = 0 then 2 ^ p else s.arg.b)) s))) := by
  subst hk hp
  have hidle := arg_idlePorts s.arg.k (maskPorts (if s.arg.b = 0 then 2 ^ s.arg.a else s.arg.b)) s
  show execPortFire s = .next _
  simp only [execPortFire, event_next, (contains_phase _).2 hlive, Bool.false_eq_true, if_false]
  generalize hu : idlePorts s.arg.k _ s = u at hidle ⊢
  have hfilled := arg_filledPort s.arg.k s.arg.a (s.arg.b != 0 && decide (s.arg.c = 1)) ((itemWords s.arg.item).headD 0) u
  rw [hidle, filledPort] at hfilled
  rw [idlePorts] at hu
  simp only [hu, hidle, hfilled]
  rfl

/-- A fire of a single port. -/
theorem portFire_single (hk : s.arg.k = k) (hp : s.arg.a = p) (h8 : p < 8) (hlive : waitsForFire s k p) (hb : s.arg.b = 0) :
    ∃ t, Happens .portFire s t ∧ (t.slot k).phase = 2 ∧ (t.slot k).keep = itemWords s.arg.item ∧
      getPort t k p = { getPort s k p with phase := .idle } ∧ (∀ q, q ≠ p → getPort t k q = getPort s k q) ∧ (t.slot k).g = (s.slot k).g := by
  subst hk hp
  have he : Happens .portFire s (firedWith s.arg.k (itemWords s.arg.item) (idlePorts s.arg.k [s.arg.a] s)) := by
    have h := portFire_fired rfl rfl hlive
    rwa [if_pos hb, if_pos hb, hb, bne_self_eq_false, Bool.false_and, filledPort, if_neg Bool.false_ne_true, maskPorts_single h8] at h
  obtain ⟨v, hv⟩ := slot_idlePorts s.arg.k [s.arg.a] s
  refine ⟨_, he, ?_, ?_, ?_, fun q hq => ?_, ?_⟩
  · rw [slot_firedWith]
  · rw [slot_firedWith]
  · rw [getPort_firedWith, idlePorts_single, getPort_onSlotPort_self _ h8]
  · rw [getPort_firedWith, idlePorts_single, getPort_onSlotPort_ne _ hq]
  · rw [slot_firedWith, hv]

/-- A fire of one port of a PSEL (R295). -/
theorem portFire_psel (hk : s.arg.k = k) (hp : s.arg.a = p) (h8 : p < 8) (hlive : waitsForFire s k p) (hb : s.arg.b ≠ 0)
    (hbit : s.arg.b.testBit p = true) : ∃ t, Happens .portFire s t ∧ (t.slot k).phase = 2 ∧
      (t.slot k).keep = [BitVec.ofNat 64 p, if s.arg.c = 1 then 1#64 else 0#64] ∧
      (∀ q, q < 8 → s.arg.b.testBit q = true → (getPort t k q).phase = .idle) ∧
      (∀ q, s.arg.b.testBit q = false → getPort t k q = getPort s k q) ∧
      (s.arg.c = 1 → (getPort t k p).full = true ∧ (getPort t k p).item = (itemWords s.arg.item).headD 0) := by
  subst hk hp
  have he : Happens .portFire s (firedWith s.arg.k [BitVec.ofNat 64 s.arg.a, bool64 (decide (s.arg.c = 1))]
      (filledPort s.arg.k s.arg.a (decide (s.arg.c = 1)) ((itemWords s.arg.item).headD 0)
        (idlePorts s.arg.k (maskPorts s.arg.b) s))) := by
    have h := portFire_fired rfl rfl hlive
    rwa [if_neg hb, if_neg hb, bne_iff_ne.2 hb, Bool.true_and] at h
  have hidle : ∀ q, q < 8 → s.arg.b.testBit q = true → (getPort (idlePorts s.arg.k (maskPorts s.arg.b) s) s.arg.k q).phase = .idle :=
    fun q hq hm => phase_idlePorts (.inl (mem_maskPorts.2 ⟨hq, hm⟩)) hq
  refine ⟨_, he, ?_, ?_, fun q hq hm => ?_, fun q hm => ?_, fun hc => ?_⟩
  · rw [slot_firedWith]
  · rw [slot_firedWith]
    by_cases hc : s.arg.c = 1 <;> simp [bool64, hc]
  · rw [getPort_firedWith]
    by_cases hqp : q = s.arg.a
    · rw [hqp, phase_filledPort h8]
      exact hidle _ h8 hbit
    · rw [getPort_filledPort_ne hqp]
      exact hidle q hq hm
  · have hqp : q ≠ s.arg.a := fun h => by rw [h, hbit] at hm; exact nomatch hm
    rw [getPort_firedWith, getPort_filledPort_ne hqp]
    exact getPort_idlePorts_out (fun h => by rw [(mem_maskPorts.1 h).2] at hm; exact nomatch hm) s
  · rw [getPort_firedWith, filledPort, if_pos (decide_eq_true hc), getPort_onSlotPort_self _ h8]
    exact ⟨rfl, rfl⟩

/-! ### Withdrawal (R285 to R287) -/

theorem portFrames_congr {t : State} (hend : portEnd t k p = portEnd s k p) (hconns : t.conns = s.conns) : portFrames t k p = portFrames s k p := by
  rw [portFrames, portFrames, hend, hconns]

theorem portTimeout_none (hk : s.arg.k = k) (h : slice (s.slot k).sys.pto 31 0 = 0) : Happens .portTimeout s s := by
  subst hk
  show execPortTimeout s = .next s
  simp only [execPortTimeout, event_next, h, if_true]

theorem portMask_of {sl : Slot} {m : Nat} (h : sl.run = .parked (.port m)) : portMask sl = some m := by rw [portMask, h]

/-- A slot that waits at one port asks for the withdrawal of its message. -/
theorem withdrawPorts_single (why : Nat) (hq : q < 8) (hrun : (s.slot k).run = .parked (.port (2 ^ q))) (hphase : (s.slot k).phase = 1)
    (hport : (getPort s k q).phase = .offering ∨ (getPort s k q).phase = .accepting) : withdrawPorts k why s =
      postFrames (requestFrames s k (portFrames s k q)) (evt .withdrawalRequestArrival k q 0)
        (onSlotPort k q (fun x => { x with phase := .withdrawing }) (s.onSlot k fun sl => { sl with phase := why })) := by
  obtain ⟨u, hu⟩ : ∃ u, (s.onSlot k fun sl => { sl with phase := why }) = u := ⟨_, rfl⟩
  have hslot : u.slot k = { s.slot k with phase := why } := by rw [← hu, State.slot_onSlot_self]
  have hget : getPort u k q = getPort s k q := by
    rw [← hu]
    exact getPort_onSlot (f := fun sl => { sl with phase := why }) fun _ => rfl
  have hsome : [PortPhase.offering, .accepting].contains (getPort s k q).phase = true := by
    rcases hport with h | h <;> rw [h] <;> rfl
  have hframes : portFrames u k q = portFrames s k q := portFrames_congr (by rw [portEnd, portEnd, hget]) (hu ▸ rfl)
  have hrequest : ∀ d, requestFrames u k d = requestFrames s k d := fun d => by
    rw [requestFrames, requestFrames, hslot, show u.core (coreOf k) = s.core (coreOf k) from hu ▸ rfl]
  simp only [withdrawPorts, portMask_of hrun, hphase, portSent, bne_self_eq_false, Bool.false_eq_true, if_false, maskPorts_single hq, hu,
    List.filter_cons, List.filter_nil, hget, hsome, if_true, List.foldl_cons, List.foldl_nil, hframes, hrequest]

theorem slot_postFrames (n : Nat) (m : Msg) (s : State) (k : Nat) : (postFrames n m s).slot k = s.slot k := rfl

/-- After `pto` cycles the slot withdraws (R286). -/
theorem portTimeout_fields (hk : s.arg.k = k) (hpto : slice (s.slot k).sys.pto 31 0 ≠ 0) (hq : q < 8)
    (hrun : (s.slot k).run = .parked (.port (2 ^ q))) (hphase : (s.slot k).phase = 1)
    (hport : (getPort s k q).phase = .offering ∨ (getPort s k q).phase = .accepting) : ∃ t, Happens .portTimeout s t ∧ (t.slot k).phase = 3 ∧
      (getPort t k q).phase = .withdrawing ∧
      (32 * (s.mcyc / 32 + requestFrames s k (portFrames s k q)) + 1, evt .withdrawalRequestArrival k q 0) ∈ t.inflight := by
  subst hk
  have he : Happens .portTimeout s (withdrawPorts s.arg.k 3 s) := by
    show execPortTimeout s = .next _
    simp only [execPortTimeout, event_next, hpto, if_false]
  rw [withdrawPorts_single 3 hq hrun hphase hport] at he
  refine ⟨_, he, ?_, ?_, List.mem_append_right _ (List.mem_singleton_self _)⟩
  · rw [slot_postFrames, onSlotPort, State.slot_onSlot_self, State.slot_onSlot_self]
  · rw [getPort, slot_postFrames, ← getPort, getPort_onSlotPort_self _ hq]

/-- A withdrawn port of an instruction that waits at no other: the timeout traps, and another interruption lets it run (R286, R287). -/
theorem withdrawalAck_single (hk : s.arg.k = k) (hp : s.arg.a = q) (hq : q < 8) (hrun : (s.slot k).run = .parked (.port (2 ^ q)))
    (hport : (getPort s k q).phase = .withdrawing) : let u := onSlotPort k q (fun x => { x with phase := .idle }) s
    ((s.slot k).phase = 3 → Happens .withdrawalAck s (raiseTrap k 0x16 (BitVec.ofNat 64 (2 ^ q)) (s.slot k).pc u)) ∧
      ((s.slot k).phase = 4 → Happens .withdrawalAck s (u.onSlot k fun sl => { sl with phase := 0, run := .running })) := by
  subst hk hp
  intro u
  have hu : onSlotPort s.arg.k s.arg.a (fun x => { x with phase := .idle }) s = u := rfl
  have hslot : u.slot s.arg.k = { s.slot s.arg.k with ports := (u.slot s.arg.k).ports } := by
    simp only [u, onSlotPort, State.slot_onSlot_self]
  have hidle : (getPort u s.arg.k s.arg.a).phase = .idle := congrArg Port.phase (getPort_onSlotPort_self _ hq)
  have hmask : portMask (u.slot s.arg.k) = some (2 ^ s.arg.a) := portMask_of (by rw [hslot]; exact hrun)
  have hphase : (u.slot s.arg.k).phase = (s.slot s.arg.k).phase := by rw [hslot]
  have hpc : (u.slot s.arg.k).pc = (s.slot s.arg.k).pc := by rw [hslot]
  clear_value u
  refine ⟨fun h => ?_, fun h => ?_⟩ <;>
  · show execWithdrawalAck s = .next _
    simp only [execWithdrawalAck, event_next, hport, hrun, bne_self_eq_false, Bool.false_eq_true, if_false, hu, hmask, maskPorts_single hq,
      List.any_cons, List.any_nil, hidle, hphase, h, hpc]
    rfl

end Ports

end Sys2Proof.Machine
end

section
/-! The resolver (R284, R288): the evaluation of a region of one SYNC link both of whose ends have a message, and what it leaves of the frames
that messages take. -/

namespace Sys2Proof.Machine

/-! ### What the steps of an evaluation leave alone -/

/-- The octet of the resolver of an endpoint. -/
def resolverAt (cn : Connector) (e : Nat) : Option Nat := ((endpointRegion cn e).bind fun r => cn.regions[r]?).map (resolverOctet cn)

theorem portFrames_eq (s : State) (k p : Nat) : portFrames s k p =
    ((tfind s.conns (getPort s k p).conn).bind (resolverAt · (getPort s k p).ep)).elim 1 (framesBetween (octetOf (coreOf k))) := by
  simp only [portFrames, portEnd, resolverAt]
  cases tfind s.conns (getPort s k p).conn with
  | none => rfl
  | some cn =>
    simp only [Option.bind_some]
    cases (endpointRegion cn (getPort s k p).ep).bind fun r => cn.regions[r]? <;> rfl

theorem bind_onConn {α : Type} {f : Connector → Connector} {g : Connector → Option α} (h : ∀ cn, g (f cn) = g cn) (s : State) (ck j : Nat) :
    (tfind (s.onConn ck f).conns j).bind g = (tfind s.conns j).bind g := by
  by_cases hj : j = ck
  · subst hj
    cases hcn : tfind s.conns j with
    | none => rw [State.onConn, hcn, hcn]
    | some cn => rw [tfind_onConn_self f hcn, Option.bind_some, Option.bind_some, h]
  · rw [tfind_onConn_ne f hj]

/-- Endpoints, regions and messages change: slots, the time and the frames of the ports stay. -/
structure FramesKept (s t : State) : Prop where
  slots : t.slots = s.slots
  mcyc : t.mcyc = s.mcyc
  frames : ∀ k p, portFrames t k p = portFrames s k p
  sent : ∀ e ∈ s.inflight, e ∈ t.inflight

namespace FramesKept
variable {s t u : State}

theorem trans (h : FramesKept s t) (h' : FramesKept t u) : FramesKept s u :=
  ⟨h'.slots.trans h.slots, h'.mcyc.trans h.mcyc, fun k p => (h'.frames k p).trans (h.frames k p), fun e he => h'.sent e (h.sent e he)⟩

theorem onConn (s : State) (ck : Nat) {f : Connector → Connector} (h : ∀ cn e, resolverAt (f cn) e = resolverAt cn e) :
    FramesKept s (s.onConn ck f) := by
  have hslots := State.onConn_slots s ck f
  have hget : ∀ k p, getPort (s.onConn ck f) k p = getPort s k p := fun k p => by rw [getPort, getPort, State.slot, State.slot, hslots]
  refine ⟨hslots, ?_, fun k p => ?_, fun e he => ?_⟩
  · unfold State.onConn
    split <;> rfl
  · rw [portFrames_eq, portFrames_eq, hget, bind_onConn (h · _)]
  · unfold State.onConn
    split <;> exact he

theorem postAt (s : State) (due : Nat) (m : Msg) : FramesKept s (s.postAt due m) :=
  ⟨rfl, rfl, fun _ _ => rfl, fun _ he => List.mem_append_left _ he⟩

theorem of_onlySends (h : OnlySends s t) : FramesKept s t := by
  rw [h.rest]
  exact ⟨rfl, rfl, fun _ _ => rfl, h.sent⟩

end FramesKept

/-- A region that stays at its place. -/
theorem resolverAt_modify {f : Region → Region} (h : ∀ x, (f x).rx = x.rx ∧ (f x).ry = x.ry) (cn : Connector) (r e : Nat) :
    resolverAt { cn with regions := cn.regions.modify r f } e = resolverAt cn e := by
  simp only [resolverAt, endpointRegion]
  cases cn.links.findSome? fun l => if l.src = e then some l.ra else if l.dst = e then some l.rb else none with
  | none => rfl
  | some i =>
    simp only [Option.bind_some, List.getElem?_modify]
    cases cn.regions[i]? with
    | none => rfl
    | some x =>
      by_cases hi : r = i
      · simp [hi, resolverOctet, (h x).1, (h x).2]
      · simp [hi, resolverOctet]

theorem onRegion_framesKept {f : Region → Region} (h : ∀ x, (f x).rx = x.rx ∧ (f x).ry = x.ry) (ck r : Nat) (s : State) :
    FramesKept s (onRegion ck r f s) := by
  rw [onRegion_eq]
  exact .onConn s ck fun cn e => resolverAt_modify h cn r e

/-! ### A fire at an endpoint -/

/-- The message of a slot's port is removed from its endpoint. -/
def clearStanding (t : Standing) (x : Endpoint) : Endpoint :=
  match x.standing with
  | some u => if u.slot = t.slot && (u.port = t.port || (t.mask != 0 && u.mask = t.mask)) then { x with standing := none } else x
  | none => x

theorem clearStanding_self {t : Standing} {x : Endpoint} (h : x.standing = some t) : (clearStanding t x).standing = none := by
  simp [clearStanding, h]

theorem clearStanding_other {t u : Standing} {x : Endpoint} (h : x.standing = some u) (hne : u.slot ≠ t.slot) : clearStanding t x = x := by
  simp [clearStanding, h, hne]

theorem clearStanding_none {t : Standing} {x : Endpoint} (h : x.standing = none) : clearStanding t x = x := by
  simp [clearStanding, h]

/-- An endpoint of a connector with a message fires: the message is removed, and its port hears of it. -/
theorem fireEndpoint_fields {s : State} {cn : Connector} {ck e : Nat} {t : Standing} (hcn : tfind s.conns ck = some cn)
    (ht : standingAt cn e = some t) (item : VReg) (sink : Bool) : FramesKept s (fireEndpoint ck e item sink s) ∧
      tfind (fireEndpoint ck e item sink s).conns ck = some { cn with eps := cn.eps.map (clearStanding t) } ∧
      (32 * (s.mcyc / 32 + portFrames s t.slot t.port) + 1,
        ⟨.portFire, { Arg.reset with k := t.slot, a := t.port, b := t.mask, c := if sink then 1 else 0, item := item }⟩) ∈
          (fireEndpoint ck e item sink s).inflight := by
  have hkept : FramesKept s (s.onConn ck fun cn : Connector => { cn with eps := cn.eps.map (clearStanding t) }) :=
    .onConn s ck fun _ _ => rfl
  have heq : fireEndpoint ck e item sink s = postFrames (portFrames s t.slot t.port)
      ⟨.portFire, { Arg.reset with k := t.slot, a := t.port, b := t.mask, c := if sink then 1 else 0, item := item }⟩
      (s.onConn ck fun cn : Connector => { cn with eps := cn.eps.map (clearStanding t) }) := by
    rw [← hkept.frames]
    simp only [fireEndpoint, hcn, ht]
    rfl
  rw [heq]
  refine ⟨hkept.trans (.postAt ..), tfind_onConn_self _ hcn, ?_⟩
  rw [postFrames, netFrame, hkept.mcyc]
  exact List.mem_append_right _ (List.mem_singleton_self _)

/-- A region that has counted one more of event j, and one that has been evaluated. -/
def regionCounted (j : Nat) (x : Region) : Region := { x with counts := vset x.counts j (vget x.counts j 0 + 1) }
def regionEvaluated (x : Region) : Region := { x with evals := x.evals + 1 }

/-! ### A region of one SYNC link -/

theorem foldl_append_each {α β : Type} {f : List α × β → α → List α × β} {l : List α} (h : ∀ p, ∀ a ∈ l, f p a = (p.1 ++ [a], p.2))
    (p : List α × β) : l.foldl f p = (p.1 ++ l, p.2) := by
  induction l generalizing p with
  | nil => rw [List.append_nil, List.foldl_nil]
  | cons a l ih =>
    rw [List.foldl_cons, h p a List.mem_cons_self, ih fun p x hx => h p x (List.mem_cons_of_mem _ hx), List.append_assoc, List.singleton_append]

theorem viewRings_local {cn : Connector} (h : ∀ l ∈ cn.links, isRemote l.src = false) (s : State) : viewRings cn s = (cn, s) := by
  rw [viewRings, foldl_append_each fun p l hl => if_neg (by rw [h l hl]; exact Bool.false_ne_true), List.nil_append]

/-- A connector of one region and one SYNC link, with a message at both of its endpoints, neither of a PSEL. -/
structure SyncPair (cn : Connector) (rg : Region) (l : Link) (e0 e1 : Endpoint) (u v : Standing) : Prop where
  regions : cn.regions = [rg]
  nodes : cn.nodes = []
  links : cn.links = [l]
  eps : cn.eps = [e0, e1]
  kind : l.kind = 0
  ra : l.ra = 0
  rb : l.rb = 0
  src : l.src = 0
  dst : l.dst = 1
  offer : e0.standing = some u
  accept : e1.standing = some v
  offerMask : u.mask = 0
  acceptMask : v.mask = 0

/-- Both ends of a link fire, or neither. -/
def bothFire (l : Link) : Fired := ⟨0, l, true, true⟩
def neitherFires (l : Link) : Fired := ⟨0, l, false, false⟩

section Pair
variable {cn : Connector} {rg : Region} {l : Link} {e0 e1 : Endpoint} {u v : Standing} (h : SyncPair cn rg l e0 e1 u v)
include h

theorem SyncPair.standingAt_src : standingAt cn 0 = some u := by simp [standingAt, h.eps, h.offer]
theorem SyncPair.standingAt_dst : standingAt cn 1 = some v := by simp [standingAt, h.eps, h.accept]

theorem SyncPair.choices : choicesOf cn 0 = [] := by
  simp [choicesOf, pselGroups, h.nodes, h.eps, enumFrom, h.offer, h.accept, h.offerMask, h.acceptMask]

theorem SyncPair.linkChoices : linkChoices cn 0 0 l = [bothFire l, neitherFires l] := by
  simp [Machine.linkChoices, srcEnabled, dstEnabled, h.kind, h.src, h.dst, h.standingAt_src, h.standingAt_dst, isEndpoint, lkBuf, lkSync,
    bothFire, neitherFires]

theorem SyncPair.consistent (x : Fired) (hx : x.link = l) : consistent cn 0 [] [x] = true := by
  simp [Machine.consistent, h.nodes, enumFrom, filterHolds, hx, h.kind, lkFilter]

/-- The two messages fire: no other consistent set is as large (R288). -/
theorem SyncPair.chosenSet (n : Nat) : chosenSet cn 0 n [] = [bothFire l] := by
  have hall : (allChoices ((regionLinks cn 0).map fun x => Machine.linkChoices cn 0 x.1 x.2)).filter (Machine.consistent cn 0 []) =
      [[bothFire l], [neitherFires l]] := by
    simp [regionLinks, h.links, enumFrom, h.ra, h.linkChoices, allChoices, h.consistent (bothFire l) rfl, h.consistent (neitherFires l) rfl]
  have hmax : maximalSets cn 0 [] = [[bothFire l]] := by
    rw [maximalSets, hall]
    simp [within, bothFire, neitherFires]
  rw [Machine.chosenSet, hmax]
  rfl

theorem SyncPair.fireLink (ck n : Nat) (a : List Fired) (s : State) : fireLink ck 0 n cn a s (bothFire l) = s := by
  simp [Machine.fireLink, bothFire, h.kind, lkBuf, lkLossy, lkFilter]

theorem SyncPair.linkOut (a : List Fired) : linkOut cn a l = u.item := by
  simp [Machine.linkOut, linkItem, h.kind, h.src, isRemote, isEndpoint, itemFrom, lkBuf, h.standingAt_src]

/-- The evaluation counts, fires the offer and the accept, and counts itself. -/
theorem SyncPair.evaluate_eq {s : State} {k : Nat} (hcn : tfind s.conns k = some cn) : evaluate k 0 s =
    postEval k 0 (onRegion k 0 regionEvaluated
      (answerWithdrawals k 0 (fireEndpoint k 1 u.item true (fireEndpoint k 0 vzero false (countRegion k 0 0 s))))) := by
  have hview : viewRings cn s = (cn, s) := viewRings_local (by simp [h.links, h.src, isRemote]) s
  have hfired : ([bothFire l].filter fun x => x.src || x.dst) = [bothFire l] := rfl
  have hpointers : ∀ x : State, movePointers k [] [bothFire l] x = x := fun _ => rfl
  have hsrc : ∀ x : State, (if (bothFire l).src && isEndpoint (bothFire l).link.src then fireEndpoint k (bothFire l).link.src vzero false x else x) =
      fireEndpoint k 0 vzero false x := fun x => by simp [bothFire, h.src, isEndpoint]
  have hdst : ∀ x : State, (if (bothFire l).dst && isEndpoint (bothFire l).link.dst then
      fireEndpoint k (bothFire l).link.dst (Machine.linkOut cn [bothFire l] (bothFire l).link) true x else x) =
      fireEndpoint k 1 u.item true x := fun x => by
    rw [show (bothFire l).link = l from rfl, h.linkOut, h.dst]
    rfl
  simp only [evaluate, hcn, hview, h.regions, List.getElem?_cons_zero, h.choices, h.chosenSet, hfired, List.isEmpty_cons, Bool.false_eq_true,
    if_false, List.foldl_cons, List.foldl_nil, h.fireLink, hpointers, hsrc, hdst, Bool.false_and]
  rfl

end Pair

theorem answerWithdrawals_of_none {s : State} {k r : Nat} {cn : Connector} (hcn : tfind s.conns k = some cn)
    (h : ∀ x ∈ cn.eps, x.standing = none) : answerWithdrawals k r s = s := by
  rw [answerWithdrawals, hcn]
  refine List.foldlRecOn (motive := (· = s)) _ _ rfl fun t ht e he => ?_
  rw [h e.2 (mem_of_mem_enumFrom he)]
  exact ht

theorem tfind_onRegion {s : State} {k : Nat} {cn : Connector} (hcn : tfind s.conns k = some cn) (r : Nat) (f : Region → Region) :
    tfind (onRegion k r f s).conns k = some { cn with regions := cn.regions.modify r f } := by
  rw [onRegion_eq]
  exact tfind_onConn_self _ hcn

/-- RESOLVER_EVALUATION of such a region (R284, R288). -/
theorem resolverEvaluation_fields {s : State} {k : Nat} {cn : Connector} {rg : Region} {l : Link} {e0 e1 : Endpoint} {u v : Standing}
    (hk : s.arg.k = k) (hp : s.arg.a = 0) (hcn : tfind s.conns k = some cn) (h : SyncPair cn rg l e0 e1 u v) (hslot : u.slot ≠ v.slot)
    (hctx : ctxState s cn.ctx ≠ 7) (hrun : (s.core (8 * resolverOctet cn rg)).stopped = false) :
    ∃ t cn', Happens .resolverEvaluation s t ∧ tfind t.conns k = some cn' ∧ (∀ x ∈ cn'.eps, x.standing = none) ∧
      (∀ rg' ∈ cn'.regions, rg'.evals = rg.evals + 1 ∧ vget rg'.counts 0 0 = vget rg.counts 0 0 + 1) ∧
      (32 * (s.mcyc / 32 + portFrames s u.slot u.port) + 1, ⟨.portFire, { Arg.reset with k := u.slot, a := u.port }⟩) ∈ t.inflight ∧
      (32 * (s.mcyc / 32 + portFrames s v.slot v.port) + 1,
        ⟨.portFire, { Arg.reset with k := v.slot, a := v.port, c := 1, item := u.item }⟩) ∈ t.inflight := by
  have he : Happens .resolverEvaluation s (evaluate k 0 s) := by
    subst hk
    show execResolverEvaluation s = .next _
    simp only [execResolverEvaluation, event_next, hcn, hp, h.regions, List.getElem?_cons_zero, hctx, hrun, Bool.false_eq_true, if_false]
  rw [h.evaluate_eq hcn] at he
  have hcount : FramesKept s (countRegion k 0 0 s) :=
    onRegion_framesKept (f := regionCounted 0) (fun _ => ⟨rfl, rfl⟩) k 0 s
  have hcn1 : tfind (countRegion k 0 0 s).conns k = some { cn with regions := [regionCounted 0 rg] } := by
    rw [countRegion, tfind_onRegion hcn, h.regions]
    rfl
  generalize countRegion k 0 0 s = s1 at he hcount hcn1
  have hst1 : standingAt { cn with regions := [regionCounted 0 rg] } 0 = some u := h.standingAt_src
  obtain ⟨hoffer, hcn2, hmsg2⟩ := fireEndpoint_fields hcn1 hst1 vzero false
  generalize fireEndpoint k 0 vzero false s1 = s2 at he hoffer hcn2 hmsg2
  have heps2 : cn.eps.map (clearStanding u) = [clearStanding u e0, e1] := by
    rw [h.eps, List.map_cons, List.map_cons, clearStanding_other h.accept (Ne.symm hslot), List.map_nil]
  rw [heps2] at hcn2
  obtain ⟨haccept, hcn3, hmsg3⟩ := fireEndpoint_fields hcn2 (e := 1) (t := v) h.accept u.item true
  generalize fireEndpoint k 1 u.item true s2 = s3 at he haccept hcn3 hmsg3
  have hnone : ∀ x ∈ [clearStanding u e0, e1].map (clearStanding v), x.standing = none := by
    have h0 := clearStanding_self h.offer
    simp [clearStanding_none h0, h0, clearStanding_self h.accept]
  rw [answerWithdrawals_of_none hcn3 hnone] at he
  have hcn4 := tfind_onRegion hcn3 0 regionEvaluated
  have hevals : FramesKept s3 (onRegion k 0 regionEvaluated s3) :=
    onRegion_framesKept (f := regionEvaluated) (fun _ => ⟨rfl, rfl⟩) k 0 s3
  generalize onRegion k 0 regionEvaluated s3 = s4 at he hcn4 hevals
  have hpost := postEval_onlySends k 0 s4
  have hto2 := hcount.trans hoffer
  have hsent := hevals.trans (.of_onlySends hpost)
  refine ⟨_, _, he, by rw [hpost.conns, hcn4], hnone, fun rg' hrg => ?_, ?_, ?_⟩
  · obtain rfl := List.mem_singleton.1 (show rg' ∈ [regionEvaluated (regionCounted 0 rg)] from hrg)
    exact ⟨rfl, vget_vset_self _ _ _ (by decide)⟩
  · rw [h.offerMask, hcount.mcyc, hcount.frames] at hmsg2
    exact hsent.sent _ (haccept.sent _ hmsg2)
  · rw [h.acceptMask, hto2.mcyc, hto2.frames] at hmsg3
    exact hsent.sent _ hmsg3

end Sys2Proof.Machine
end

section
/-! The matrix unit (R310, R315, R324): a K_STEP that clears the tile of a TZERO, and one that performs an element of a TMMA. -/

namespace Sys2Proof.Machine

/-! ### The command at the head of a queue -/

section Head
variable {s t : State} {c : Nat} {x : TileCmd}

theorem headCmd_eq_some_iff : headCmd s c = some x ↔
    (tileOf s c).queue.head? = some x ∧ (s.slot x.slot).run = .parked .tile ∧ (s.core c).stopped = false := by
  unfold headCmd
  cases (tileOf s c).queue.head? with
  | none => simp
  | some y =>
    simp only [Option.ite_none_right_eq_some, Option.some.injEq, Bool.and_eq_true, beq_iff_eq, Bool.not_eq_true']
    constructor
    · rintro ⟨h, rfl⟩
      exact ⟨rfl, h⟩
    · rintro ⟨rfl, h⟩
      exact ⟨h, rfl⟩

/-- The head depends on the queue, on what the slots wait for, and on whether the core is stopped. -/
theorem headCmd_congr (hqueue : (tileOf t c).queue = (tileOf s c).queue) (hrun : ∀ j, (t.slot j).run = (s.slot j).run)
    (hstopped : (t.core c).stopped = (s.core c).stopped) : headCmd t c = headCmd s c :=
  Option.ext fun y => by rw [headCmd_eq_some_iff, headCmd_eq_some_iff, hqueue, hrun, hstopped]

theorem headCmd_of_queue_nil (h : (tileOf s c).queue = []) : headCmd s c = none := by rw [headCmd, h, List.head?_nil]

/-- A head that takes a step of the array is a TMMA with no step on it, and with its entries. -/
theorem of_canStep (h : canStep s c = true) : ∃ y, headCmd s c = some y ∧ y.mid = 1 ∧ y.busy = none := by
  unfold canStep stepHead at h
  cases hhead : headCmd s c with
  | none => rw [hhead] at h; exact nomatch h
  | some y =>
    rw [hhead, Option.filter_some] at h
    split at h
    · next hy =>
      split at hy
      · next hmeets =>
        simp only [Bool.and_eq_true, beq_iff_eq, Option.isNone_iff_eq_none] at hmeets
        exact ⟨y, rfl, hmeets.1.1, hmeets.1.2⟩
      · exact nomatch hy
    · exact nomatch h

end Head

/-! ### What the arbiter leaves alone -/

/-- Only the units of octets change, and what is on its way. -/
structure UnitsOnly (s t : State) : Prop where
  rest : t = { s with octets := t.octets, inflight := t.inflight }

namespace UnitsOnly
variable {s t u : State}

theorem refl (s : State) : UnitsOnly s s := ⟨rfl⟩

theorem trans (h : UnitsOnly s t) (h' : UnitsOnly t u) : UnitsOnly s u := ⟨by rw [h'.rest, h.rest]⟩

theorem onUnit (o : Nat) (f : TileUnit → TileUnit) (s : State) : UnitsOnly s (onUnit o f s) := ⟨rfl⟩

theorem foldl {α : Type} {f : State → α → State} (h : ∀ s a, UnitsOnly s (f s a)) (l : List α) (s : State) : UnitsOnly s (l.foldl f s) := by
  induction l generalizing s with
  | nil => exact refl s
  | cons a l ih => exact (h s a).trans (ih _)

theorem slot (h : UnitsOnly s t) (k : Nat) : t.slot k = s.slot k := congrArg (tget · k Slot.reset) (congrArg State.slots h.rest :)
theorem mem (h : UnitsOnly s t) : t.mem = s.mem := (congrArg State.mem h.rest :)

theorem core (h : UnitsOnly s t) (c : Nat) : t.core c = s.core c := by
  rw [h.rest]
  rfl

theorem tileOf (h : UnitsOnly s t) (c : Nat) : Machine.tileOf t c = Machine.tileOf s c := congrArg Core.tile (h.core c)

theorem headCmd (h : UnitsOnly s t) (c : Nat) : Machine.headCmd t c = Machine.headCmd s c :=
  headCmd_congr (by rw [h.tileOf]) (fun j => by rw [h.slot]) (by rw [h.core])

end UnitsOnly

theorem postStep_unitsOnly (o : Nat) (s : State) : UnitsOnly s (postStep o s) := by
  unfold postStep
  split
  · exact .refl s
  · dsimp only
    split
    · exact .refl s
    · exact ⟨rfl⟩

theorem grant1_unitsOnly (o : Nat) (s : State) : UnitsOnly s (grant1 o s).2 := by
  unfold grant1
  dsimp only
  split
  · exact ⟨rfl⟩
  · split <;> exact ⟨rfl⟩

/-- The arbiter grants only cores that can start a step, and where there is none it grants none. -/
theorem canStep_of_grant1 {o c : Nat} {s s' : State} (h : grant1 o s = (some c, s')) : canStep s c = true := by
  unfold grant1 at h
  dsimp only at h
  split at h
  · next hptr =>
    rw [← Option.some.inj (Prod.mk.inj h).1]
    exact (Bool.and_eq_true_iff.1 hptr).2
  · split at h
    · next hfind =>
      rw [← Option.some.inj (Prod.mk.inj h).1]
      exact List.find?_some hfind
    · exact nomatch (Prod.mk.inj h).1

/-! ### Tiles -/

section Tiles
variable {s : State} {c : Nat}

theorem tileOf_onTile_self (f : TileCore → TileCore) : tileOf (onTile c f s) c = f (tileOf s c) := by
  rw [tileOf, onTile, State.core_onCore_self, tileOf]

theorem tileOf_onTile_ne (f : TileCore → TileCore) {d : Nat} (h : d ≠ c) : tileOf (onTile c f s) d = tileOf s d := by
  rw [tileOf, onTile, State.core_onCore_ne _ _ h, tileOf]

theorem stopped_onTile (f : TileCore → TileCore) (d : Nat) : ((onTile c f s).core d).stopped = (s.core d).stopped := by
  rw [onTile, s.core_onCore_keeps Core.stopped]
  exact fun _ => rfl

theorem slot_onTile (f : TileCore → TileCore) (k : Nat) : (onTile c f s).slot k = s.slot k := rfl
theorem tileOf_onSlot (f : Slot → Slot) (k : Nat) : tileOf (s.onSlot k f) c = tileOf s c := rfl
theorem stopped_onSlot (f : Slot → Slot) (k : Nat) : ((s.onSlot k f).core c).stopped = (s.core c).stopped := rfl

theorem run_onSlot {f : Slot → Slot} (h : ∀ x, (f x).run = x.run) (k j : Nat) : ((s.onSlot k f).slot j).run = (s.slot j).run := by
  by_cases hj : j = k
  · rw [hj, State.slot_onSlot_self, h]
  · rw [State.slot_onSlot_ne _ f hj]

theorem enterHead_of_none (h : headCmd s c = none) : enterHead c s = s := by rw [enterHead, h]

/-- The head names the element that it enters in `prg`. -/
theorem enterHead_of_some {x : TileCmd} (h : headCmd s c = some x) : enterHead c s =
    if x.mid = 0 || x.count ≤ x.elem then s else s.onSlot x.slot (·.onSys fun y => { y with prg := macroPrg x.mid x.elem }) := by
  rw [enterHead, h]

theorem tileOf_enterHead (d : Nat) : tileOf (enterHead c s) d = tileOf s d := by
  cases h : headCmd s c with
  | none => rw [enterHead_of_none h]
  | some x =>
    rw [enterHead_of_some h]
    split <;> rfl

end Tiles

/-! ### TZERO (R324) -/

/-- With no TMMA at a head the array does nothing. -/
theorem arrayStep_unitsOnly {o : Nat} {s : State} (h : ∀ d y, headCmd s d = some y → y.mid ≠ 1) : UnitsOnly s (arrayStep o s) := by
  have hfinish : finishSteps o s = s := by
    unfold finishSteps
    refine List.foldlRecOn (motive := (· = s)) _ _ rfl fun t ht d _ => ?_
    subst ht
    cases hd : headCmd t d with
    | none => rfl
    | some y => exact if_neg fun hy => h d y hd (beq_iff_eq.1 hy)
  rw [arrayStep, hfinish]
  split
  · exact .refl s
  · split
    · next c s' hgrant =>
      obtain ⟨y, hy, hmid, -⟩ := of_canStep (canStep_of_grant1 hgrant)
      exact absurd hmid (h c y hy)
    · next s' hgrant =>
      have hunits := grant1_unitsOnly o s
      rwa [hgrant] at hunits

/-- The state after the TZERO of slot j at the head of core c's queue: the tile is clear, the queue empty, and the slot has its result. -/
def zeroed (c j : Nat) (s : State) : State :=
  onTile c (fun t => { t with queue := t.queue.filter fun x => x.slot != j })
    ((onTile c (fun t => { t with acc := [] }) s).onSlot j fun sl => { sl with phase := 2 })

section Zero
variable {s : State} {c : Nat} {x : TileCmd} (hcore : coreOf x.slot = c) (hqueue : (tileOf s c).queue = [x])
include hqueue

theorem tileOf_zeroed : (tileOf (zeroed c x.slot s) c).acc = [] ∧ (tileOf (zeroed c x.slot s) c).queue = [] := by
  rw [zeroed, tileOf_onTile_self, tileOf_onSlot, tileOf_onTile_self]
  simp [hqueue]

theorem headCmd_zeroed (d : Nat) : headCmd (zeroed c x.slot s) d = if d = c then none else headCmd s d := by
  split
  · next h =>
    rw [h]
    exact headCmd_of_queue_nil (tileOf_zeroed hqueue).2
  · next h =>
    refine headCmd_congr ?_ (fun j => ?_) ?_
    · rw [zeroed, tileOf_onTile_ne _ h, tileOf_onSlot, tileOf_onTile_ne _ h]
    · exact run_onSlot (f := fun sl => { sl with phase := 2 }) (fun _ => rfl) x.slot j
    · rw [zeroed, stopped_onTile, stopped_onSlot, stopped_onTile]

include hcore in
theorem runHead_tzero (hhead : headCmd s c = some x) (hmid : x.mid = 0) (helem : x.elem = 0) (hjoined : joinedTile s c = false) :
    runHead c x s = zeroed c x.slot s := by
  have hcount : x.count = 1 := by rw [TileCmd.count, if_pos hmid]
  have henter : enterHead c s = s := by rw [enterHead_of_some hhead, hmid]; rfl
  have hzero : tileElem x 0 s = (onTile c (fun t => { t with acc := [] }) s, .next) := by
    rw [tileElem, if_pos hmid, hcore, zeroTile, hjoined]
    rfl
  have hfinish : finishCmd x (onTile c (fun t => { t with acc := [] }) s) = zeroed c x.slot s := by
    rw [finishCmd, if_pos hmid, dropCmd, hcore]
    exact enterHead_of_none ((headCmd_zeroed hqueue c).trans (if_pos rfl))
  simp only [runHead, hcount, helem, henter, hzero, hmid]
  exact hfinish

end Zero

theorem kStep_tzero {s : State} {k c : Nat} {x : TileCmd} (hk : s.arg.k = k) (hfree : freeHeads s k = [(c, x)]) (hmid : x.mid = 0) (helem : x.elem = 0)
    (hcore : coreOf x.slot = c) (hqueue : (tileOf s c).queue = [x]) (hjoined : joinedTile s c = false)
    (hother : ∀ d y, headCmd s d = some y → y.mid ≠ 1) :
    ∃ t, Happens .kStep s t ∧ (tileOf t c).acc = [] ∧ (tileOf t c).queue = [] ∧ (t.slot x.slot).phase = 2 ∧ t.mem = s.mem := by
  have hhead : headCmd s c = some x := by
    have hmem : (c, x) ∈ freeHeads s k := hfree ▸ List.mem_singleton_self _
    obtain ⟨d, -, hd⟩ := List.mem_filterMap.1 hmem
    obtain ⟨y, hy, hcx⟩ := Option.map_eq_some_iff.1 hd
    obtain ⟨rfl, rfl⟩ := Prod.mk.inj hcx
    exact (Option.filter_eq_some_iff.1 hy).1
  have he : Happens .kStep s (postStep k (arrayStep k (zeroed c x.slot s))) := by
    subst hk
    show execKStep s = .next _
    simp only [execKStep, event_next, hfree, List.foldl_cons, List.foldl_nil, runHead_tzero hcore hqueue hhead hmid helem hjoined]
  have hmids : ∀ d y, headCmd (zeroed c x.slot s) d = some y → y.mid ≠ 1 := fun d y hd => by
    rw [headCmd_zeroed hqueue] at hd
    split at hd
    · exact nomatch hd
    · exact hother d y hd
  have hunits := (arrayStep_unitsOnly (o := k) hmids).trans (postStep_unitsOnly k _)
  have htile := hunits.tileOf c
  obtain ⟨hacc, hq⟩ := tileOf_zeroed hqueue
  refine ⟨_, he, by rw [htile, hacc], by rw [htile, hq], ?_, by rw [hunits.mem]; rfl⟩
  rw [hunits.slot, zeroed, slot_onTile, State.slot_onSlot_self]

/-! ### A K step of a TMMA (R310, R315) -/

/-- A command of slot x.slot stands at its next element, its step on the array until b. -/
def nextElem (x : TileCmd) (b : Option Nat) (y : TileCmd) : TileCmd := if y.slot = x.slot then { y with elem := x.elem + 1, busy := b } else y

/-- The queue of core c after a step of x. -/
def stepped (c : Nat) (x : TileCmd) (s : State) : State :=
  onTile c (fun t => { t with queue := t.queue.map (nextElem x (some (s.mcyc + stepCycles s x))) }) s

section Step
variable {s : State} {c : Nat} {x : TileCmd}

theorem headCmd_stepped (h : headCmd s c = some x) :
    headCmd (stepped c x s) c = some { x with elem := x.elem + 1, busy := some (s.mcyc + stepCycles s x) } := by
  obtain ⟨hqueue, hrun, hstopped⟩ := headCmd_eq_some_iff.1 h
  refine headCmd_eq_some_iff.2 ⟨?_, hrun, ?_⟩
  · rw [stepped, tileOf_onTile_self]
    simp [hqueue, nextElem]
  · rw [stepped, stopped_onTile, hstopped]

/-- A TMMA at the head has entered its element. -/
theorem enterHead_tmma (hhead : headCmd s c = some x) (hmid : x.mid = 1) (helem : x.elem < x.count) :
    enterHead c s = s.onSlot x.slot (·.onSys fun y => { y with prg := macroPrg 1 x.elem }) := by
  rw [enterHead_of_some hhead, if_neg (by simp [hmid, Nat.not_le.2 helem]), hmid]

theorem runHead_tmma {s2 : State} (hhead : headCmd s c = some x) (hmid : x.mid = 1) (helem : x.elem < x.count)
    (hstep : tileElem x x.elem (s.onSlot x.slot (·.onSys fun y => { y with prg := macroPrg 1 x.elem })) = (s2, .next)) :
    runHead c x s = enterHead c (stepped c x s2) := by
  have hnot : ¬ x.count ≤ x.elem := Nat.not_le.2 helem
  simp only [runHead, hnot, if_false, enterHead_tmma hhead hmid helem, hstep, hmid, midTmma, bne_self_eq_false, Bool.and_false, Bool.false_eq_true, if_true]
  rfl

/-- The command that follows its own step names its element, while there is one. -/
theorem prg_enterHead_stepped (hhead : headCmd s c = some x) (hmid : x.mid = 1) (h : x.elem + 1 < x.count) :
    ((enterHead c (stepped c x s)).slot x.slot).sys.prg = macroPrg 1 (x.elem + 1) := by
  rw [enterHead_tmma (headCmd_stepped hhead) hmid h, State.slot_onSlot_self]
  rfl

/-- No step of the only head is on the array. -/
theorem finishSteps_of_idle {o : Nat} (hhead : headCmd s c = some x) (hbusy : x.busy = none) (helem : x.elem < x.count)
    (hother : ∀ d, d ≠ c → headCmd s d = none) : finishSteps o s = s := by
  have hidle : finishStep x s = s := by simp [finishStep, hbusy, Nat.not_le.2 helem]
  unfold finishSteps
  refine List.foldlRecOn (motive := (· = s)) _ _ rfl fun t ht d _ => ?_
  rw [ht]
  by_cases hd : d = c
  · simp only [hd, hhead, hidle, ite_self]
  · rw [hother d hd]

/-- After the step of the granted core only the units of octets change. -/
theorem arrayStep_of_grant {o : Nat} {s0 : State} (hfinish : finishSteps o s = s) (hfree : (s.octet o).unit.freeAt ≤ s.mcyc)
    (hgrant : grant1 o s = (some c, s0)) (hhead : headCmd s0 c = some x) : UnitsOnly (runHead c x s0) (arrayStep o s) := by
  have hpass : UnitsOnly (runHead c x s0) (passPointer o (runHead c x s0)) := .onUnit ..
  simp only [arrayStep, hfinish, Nat.not_lt.2 hfree, if_false, hgrant, hhead]
  split
  · split
    · exact hpass.trans (.foldl (fun _ _ => .onUnit ..) _ _)
    · exact hpass
  · exact hpass

theorem freeHeads_eq_nil {o : Nat} (h : ∀ d y, headCmd s d = some y → y.mid = 1) : freeHeads s o = [] := by
  refine List.filterMap_eq_nil_iff.2 fun d _ => ?_
  cases hd : headCmd s d with
  | none => rfl
  | some y => simp [h d y hd, midTmma]

theorem kStep_tmma {k : Nat} {s0 s2 : State} (hk : s.arg.k = k) (hhead : headCmd s c = some x) (hmid : x.mid = 1)
    (hother : ∀ d, d ≠ c → headCmd s d = none) (helem : x.elem < x.count) (hfree : (s.octet k).unit.freeAt ≤ s.mcyc)
    (hgrant : grant1 k s = (some c, s0))
    (hstep : tileElem x x.elem (s0.onSlot x.slot (·.onSys fun y => { y with prg := macroPrg 1 x.elem })) = (s2, .next))
    (hhead2 : headCmd s2 c = some x) : ∃ t, Happens .kStep s t ∧ (tileOf t c).acc = (tileOf s2 c).acc ∧
      (x.elem + 1 < x.count → (t.slot x.slot).sys.prg = macroPrg 1 (x.elem + 1)) ∧
      (tileOf t c).queue = (tileOf s2 c).queue.map (nextElem x (some (s2.mcyc + stepCycles s2 x))) := by
  have hnone : freeHeads s k = [] := freeHeads_eq_nil fun d y hy => by
    by_cases hd : d = c
    · rw [hd, hhead] at hy
      exact Option.some.inj hy ▸ hmid
    · rw [hother d hd] at hy
      exact nomatch hy
  have hbusy : x.busy = none := by
    obtain ⟨y, hy, -, hbusy⟩ := of_canStep (canStep_of_grant1 hgrant)
    exact Option.some.inj (hy.symm.trans hhead) ▸ hbusy
  have hhead0 : headCmd s0 c = some x := by
    have hunits := (grant1_unitsOnly k s).headCmd c
    rwa [hgrant, hhead] at hunits
  have he : Happens .kStep s (postStep k (arrayStep k s)) := by
    subst hk
    show execKStep s = .next _
    simp only [execKStep, event_next, hnone, List.foldl_nil]
  have hunits := (arrayStep_of_grant (finishSteps_of_idle hhead hbusy helem hother) hfree hgrant hhead0).trans (postStep_unitsOnly k _)
  rw [runHead_tmma hhead0 hmid helem hstep] at hunits
  have htile : tileOf (postStep k (arrayStep k s)) c = tileOf (stepped c x s2) c := (hunits.tileOf c).trans (tileOf_enterHead c)
  refine ⟨_, he, ?_, fun hlast => ?_, ?_⟩
  · rw [htile, stepped, tileOf_onTile_self]
  · rw [hunits.slot, prg_enterHead_stepped hhead2 hmid hlast]
  · rw [htile, stepped, tileOf_onTile_self]

end Step

end Sys2Proof.Machine
end

section
/-! Obligation TransferAndConnectorEvents. -/

namespace Sys2Proof.Machine

/-- Settles O54: each event by the lemma about what it leaves. -/
theorem transferAndConnectorEvents : Obligations.TransferAndConnectorEvents := by
  unfold Obligations.TransferAndConnectorEvents
  intro s k p port live
  refine ⟨⟨?idle, ?word, ?complete⟩, ?multicast, ?resume, ?messages, ?resolver, ?notLive, ?single, ?psel, ?untimed, ?withdrawal, ?buf, ?tzero, ?kStep⟩
  case idle => exact fun h => ⟨copyWordTransfer_idle h, copyComplete_idle h⟩
  case word =>
    exact fun x hmov hstop hentry hkind _ hsrc hdst hlow => copyWordTransfer_fields rfl rfl hmov hstop hentry hkind hsrc hdst hlow
  case complete => exact fun tag rest x hqueue hx hdone _ => copyComplete_fields rfl rfl hqueue hx hdone
  case multicast => exact fun m hm h8 => mfreeCombinedArrival_fields rfl rfl hm h8
  case resume => exact sparsityStoreResume_fields rfl
  case messages =>
    intro ck e cn x hcn hx h64
    exact ⟨fun r hlive hr => offerAcceptArrival_fields rfl rfl hcn hx hlive hr,
      fun hnone => withdrawalRequestArrival_none rfl rfl hcn ((standingAt_of hx h64).trans hnone),
      fun r u hr hu => withdrawalRequestArrival_fields rfl rfl hcn hx h64 hr hu⟩
  case resolver =>
    intro cn rg l e0 e1 u v hcn hp hregions hnodes hlinks heps hkind hra hrb hsrc hdst hoffer haccept hu hv hslot hctx hrun
    exact resolverEvaluation_fields rfl hp hcn ⟨hregions, hnodes, hlinks, heps, hkind, hra, hrb, hsrc, hdst, hoffer, haccept, hu, hv⟩ hslot hctx hrun
  case notLive => exact fun h => ⟨portFire_idle rfl rfl h, offerAcceptArrival_idle rfl rfl h⟩
  case single => exact portFire_single rfl rfl
  case psel => exact portFire_psel rfl rfl
  case untimed => exact portTimeout_none rfl
  case withdrawal =>
    intro q hq hrun
    exact ⟨fun hpto hphase hport => portTimeout_fields rfl hpto hq hrun hphase hport, fun hp hport => withdrawalAck_single rfl hp hq hrun hport⟩
  case buf => exact fun cn l hcn hl => ⟨bufItemArrival_fields rfl rfl hcn hl, bufCreditArrival_fields rfl rfl hcn hl⟩
  case tzero =>
    exact fun c x hfree hmid helem hcore hqueue hjoined hother => kStep_tzero rfl hfree hmid helem hcore hqueue hjoined hother
  case kStep =>
    exact fun c x s0 s2 hhead hmid _ _ hother helem hfree hgrant hstep hhead2 =>
      kStep_tmma rfl hhead hmid hother helem hfree hgrant hstep hhead2

end Sys2Proof.Machine
end
